-- ==== Sys2Proof/Word.lean ====
section
/-! DEFINITION. The word types of the model and the shape of its sparse tables.

The manual numbers words from byte 0 upwards and bits from the least significant one (R10). -/

namespace Sys2Proof

/-- One byte. -/
abbrev Byte := BitVec 8

/-- One 64-bit word of a descriptor, a register, a record or a header (R10). -/
abbrev Word := BitVec 64

/-- A byte string, lowest address first. -/
abbrev Bytes := List Byte

/-- A sparse table: keys strictly rising, each key with its value. -/
abbrev Tbl (α : Type) := List (Nat × α)

end Sys2Proof
end

