-- ==== Sys2Proof/Syntax.lean ====
section
/-! DEFINITION. The commands of the block: one constructor of `Instr` for each row of the table of operations
and events, with the row's operands, and the packets, frames and records those operands carry.

A field's width is part of its type. What no width can say (a payload's length, a port that exists) is
checked in WellFormed.lean. -/

namespace Sys2Proof

/-! ### Packets (R112) -/

/-- An Ohmas packet: the header fields of R112 and the payload bytes of its data flits. `poison` marks a
payload forwarded as poison under R210, which travels beside the header. -/
structure Packet where
  dst : BitVec 16
  src : BitVec 16
  cls : BitVec 3
  entropy : BitVec 5
  opcode : BitVec 8
  ctx : BitVec 16
  seq : BitVec 32
  epoch : BitVec 16
  flags : BitVec 16
  mapgen : BitVec 32
  tag : BitVec 32
  pva : Word
  len : BitVec 13
  rsv4 : BitVec 3
  status : BitVec 8
  subop : BitVec 8
  deadline : BitVec 16
  aux : BitVec 16
  op5 : Word
  op6 : Word
  offset : BitVec 32
  hcrc : BitVec 32
  data : Bytes
  poison : Bool
  deriving DecidableEq, Repr


/-! ### Numbers of the module's units (R16, R35) -/

/-- One of the 32 Ohmas ports. -/
abbrev PortId := Fin 32
/-- One of the 64 tiles. -/
abbrev TileId := Fin 64
/-- One of the eight regions, stacks, port blocks or optical clusters. -/
abbrev RegionId := Fin 8
/-- One of the 16 dense ports. -/
abbrev DenseId := Fin 16
/-- A node ID. -/
abbrev NodeId := BitVec 16

/-! ### What commands carry -/

/-- A failing unit, cell or scan segment found by BIST, as R559 describes it; what becomes of it (OUTCOME) is
the module's own decision. -/
structure BistFailure where
  /-- 0 tile, 1 region, 2 chip, 3 port block, 4 stack. -/
  uclass : BitVec 8
  unit_ : BitVec 8
  /-- ARRAY of R560. -/
  array : BitVec 8
  /-- 0 cell BIST, 1 logic BIST, 2 known-answer test, 3 stack test. -/
  kind : BitVec 8
  row : BitVec 16
  col : BitVec 16
  bit : BitVec 7
  subarray : BitVec 16
  /-- A cell failure confined to one column, which a column spare can take. -/
  colOnly : Bool
  deriving DecidableEq, Repr

/-- A management request opcode word block and its arguments as words of the request area (R576). -/
abbrev RequestWords := List Word

/-- A TAP instruction of R590: the four of IEEE 1149.1 that are always offered, or an internal scan or debug instruction. -/
inductive TapInstr where
  | bypass
  | idcode
  | samplePreload
  | extest
  | internal (code : BitVec 8)
  deriving DecidableEq, Repr

/-- The kinds of a stored line that cannot be read (R474). -/
inductive LineFault where
  /-- Tile-store data. -/
  | tile
  /-- Stack data or a stack-cache frame. -/
  | stack
  /-- A block-state code of stack memory. -/
  | state
  /-- A dense block that fails its check. -/
  | dense
  /-- A Solstice image copy. -/
  | image
  deriving DecidableEq, Repr

/-- The structures whose uncorrectable errors R477 and R478 tell apart. -/
inductive StateFault where
  /-- Request state of a region: trackers, wait lists, crossbar, stack-port and port-block queues. -/
  | region (r : RegionId)
  /-- A port block (R477). -/
  | portBlock (r : RegionId)
  /-- The translation, admission, stack-cache tag or dedupe cache: the entry is dropped (R478). -/
  | cached
  /-- A range entry of a context, in one copy or in both (R88). -/
  | range (ctx : BitVec 16) (start : Nat) (both : Bool)
  /-- A source's dedupe record, in one copy or in both (R245). -/
  | dedupe (src : NodeId) (both : Bool)
  /-- An arrival counter (R156). -/
  | counter (c : BitVec 16)
  /-- A directory entry or any other chip-level structure: module failure. -/
  | chip
  deriving DecidableEq, Repr

/-- What a host's M2S request carries to a bridge (R194). -/
structure HostM2S where
  /-- The host's own tag, echoed in the answer. -/
  tag : BitVec 16
  /-- The device physical address. -/
  dpa : Word
  /-- MetaValue: 0 Invalid, 2 Any, 3 Shared. -/
  meta_ : BitVec 2
  /-- SnpType: 0 NoOp, 1 SnpData, 2 SnpCur, 3 SnpInv. -/
  snp : BitVec 3
  data : Bytes
  /-- Byte enables of a MemWrPtl. -/
  enables : BitVec 64
  deriving DecidableEq, Repr

/-- A sensor reading: its word's offset in the sensor block (R522), and the value of its low bits, or none
when it lies outside the physical range or the sensor does not answer. -/
structure Reading where
  offset : BitVec 12
  value : Option Word
  deriving DecidableEq, Repr

/-! ### The commands -/

/-- The commands of the block, in the order of the table of operations and events. -/
inductive Instr where
  /-- VIN_40V enters 34–46 V with RESET_N high; HOST_EN as sampled (R599, R623). -/
  | powerInputUp (hostEn : Bool)
  /-- RESET_N is held low for 10 µs or more (R599). -/
  | resetNAssert
  /-- RESET_N is released (R599, R623). -/
  | resetNRelease (hostEn : Bool)
  /-- The input rises above the over-voltage trip (R602). -/
  | overVoltageTrip
  /-- The input falls below the AON trip (R602). -/
  | aonTrip
  /-- The input falls below the brown-out trip (R605). -/
  | brownOut
  /-- 2^30 management cycles at 34 V or above after a brown-out (R599). -/
  | standbyAutoExit
  /-- The hot-swap charge completes (R603). -/
  | inputCapacitanceCharged
  /-- The rail of a power domain that is being raised reaches 90 % of its setpoint (R606). Domains: 0 AON, 1 FAB, 2 HOST, 3–66 T, 67–74 S, 75–82 P. -/
  | railInWindow (domain : Fin 83)
  /-- A rail of a domain leaves or misses its window (R607). -/
  | railFault (domain : Fin 83)
  /-- BIST ends with the failures it found (R557). -/
  | bistComplete (failures : List BistFailure)
  /-- A training attempt of stack r ends; `badLine`: its pattern left a line it cannot correct (R563). -/
  | stackTrainingDone (r : RegionId) (trained : Bool) (badLine : Bool)
  /-- A dense port's bring-up ends: drive present, link trained, namespace conforming, its 4 KiB blocks, queue pairs granted, deallocated metadata reads as zero (R564). -/
  | densePortBringupDone (d : DenseId) (present trained fmtOk : Bool) (nsBlocks queues : Nat) (deallocZero : Bool)
  /-- The join of step 8 begins (R566). -/
  | startJoinFabric
  /-- REFCLK is lost (R34). -/
  | refclkLoss
  /-- REFCLK returns and the core PLL relocks (R34). -/
  | refclkReturn
  /-- POWER_REQ Standby (R604). -/
  | powerReqStandby
  /-- POWER_REQ Ready (R544). -/
  | powerReqReady
  /-- POWER_REQ naming the present state, or the value 0 or 3 (R599). -/
  | powerReqNoChange
  /-- Step 3 of an ordered Standby entry (R604). -/
  | standbyFlush
  /-- The Halord watchdog expires (R503). -/
  | watchdogExpiry
  /-- Halord samples sensors, and the vector-issue occupancy of tiles, per cent (R485, R521). -/
  | sensorSample (readings : List Reading) (occupancy : List (TileId × BitVec 7))
  /-- A policy period of 2^16 management cycles ends (R533). -/
  | policyPeriodEnd
  /-- An evaluation window ends: use of stack bandwidth and of home space, per cent, and the MiB each extent moved, by context and START, as measured (R538). -/
  | evaluationWindowEnd (bandwidth space : BitVec 8) (traffic : List (BitVec 16 × Word × BitVec 32))
  /-- Halord copies a staged entry to flash; `ok`: the write succeeds (R526). -/
  | logFlashCopy (ok : Bool)
  /-- An error-band window ends (R487). -/
  | errorBandWindowEnd
  /-- An ENUM frame arrives (R508). -/
  | chainEnum (frame : Bytes)
  /-- The head sends ENUM again (R508, R510). -/
  | chainEnumRetry
  /-- A frame passes on (R507). -/
  | chainFrameForward (frame : Bytes)
  /-- An RD_REQ frame arrives (R507). -/
  | chainRdReq (frame : Bytes)
  /-- A WR_REQ frame arrives (R507). -/
  | chainWrReq (frame : Bytes)
  /-- An RD_RSP frame arrives (R520). -/
  | chainRdRsp (frame : Bytes)
  /-- A WR_RSP frame arrives (R520). -/
  | chainWrRsp (frame : Bytes)
  /-- An ALERT frame arrives (R516). -/
  | chainAlert (frame : Bytes)
  /-- The request with this TAG has had no response for 2^16 management cycles (R507). -/
  | chainRequestTimeout (tag : BitVec 8)
  /-- MGMT_IN has lost symbol lock (R510). -/
  | chainDown
  /-- MBX_CMD is written with OP READ (R520). -/
  | mbxRead (cmd : Word)
  /-- MBX_CMD is written with OP WRITE (R520). -/
  | mbxWrite (cmd : Word)
  /-- MBX_CMD is written with OP ABORT (R520). -/
  | mbxAbort (cmd : Word)
  /-- MBX_DATA is read (R520). -/
  | mbxDataRead
  /-- MBX_DATA is written (R520). -/
  | mbxDataWrite (w : Word)
  /-- An I3C private write (R540). -/
  | i3cPrivateWrite (bytes : Bytes)
  /-- An I3C common command code (R539). -/
  | i3cCcc (code : BitVec 8) (data : Bytes)
  /-- A BAR0 access that is not an aligned 8-byte read or write (R512). -/
  | bar0BadAccess
  /-- A write to a register of the management window (R12). -/
  | registerWrite (offset : BitVec 24) (w : Word)
  /-- A write to RING_COMMIT of the admin ring (0) or a context's ring (R42). -/
  | ringCommit (ring : BitVec 16) (w : Word)
  /-- A write to RING_DOORBELL (R43). -/
  | ringDoorbell (ring : BitVec 16) (w : Word)
  /-- A 64-byte store to a ring slot (R50). -/
  | ringEntryWrite (ring : BitVec 16) (slot : BitVec 16) (data : Bytes) (writer : NodeId)
  /-- A tracker of the region frees (R51). -/
  | trackerFreed (r : RegionId)
  /-- Every effect of a command is visible (R55). -/
  | commandComplete (tid : Nat)
  /-- CMP_NODE has acknowledged a command's record (R55). -/
  | completionCounterIncrement (tid : Nat)
  /-- COPY (R168). -/
  | copy (tid : Nat)
  /-- FILL (R169). -/
  | fill (tid : Nat)
  /-- A response to a copy engine's or coordinator's READ or WRITE (R170). -/
  | engineResponse (p : Packet)
  /-- RANGE_SET (R74). -/
  | rangeSet (tid : Nat)
  /-- RANGE_CLEAR (R76). -/
  | rangeClear (tid : Nat)
  /-- RANGE_INVAL (R79). -/
  | rangeInval (tid : Nat)
  /-- KEY_LOAD CTX_KEY (R65). -/
  | keyLoadCtxKey (tid : Nat)
  /-- KEY_LOAD CTX_CLEAR (R65). -/
  | keyLoadCtxClear (tid : Nat)
  /-- KEY_LOAD SHARE_KEY (R65). -/
  | keyLoadShareKey (tid : Nat)
  /-- KEY_LOAD SHARE_CLEAR (R65). -/
  | keyLoadShareClear (tid : Nat)
  /-- KEY_LOAD ADMIT (R65). -/
  | keyLoadAdmit (tid : Nat)
  /-- KEY_LOAD EXPEL (R70). -/
  | keyLoadExpel (tid : Nat)
  /-- REVOKE (R433). -/
  | revoke (tid : Nat)
  /-- REVOKE with REINSTATE 1 (R434). -/
  | revokeReinstate (tid : Nat)
  /-- SOLSTICE_OPEN (R386). -/
  | solsticeOpen (tid : Nat)
  /-- SOLSTICE_ANNOUNCE (R389). -/
  | solsticeAnnounce (tid : Nat)
  /-- SOLSTICE_SEAL_QUERY (R393). -/
  | solsticeSealQuery (tid : Nat)
  /-- SOLSTICE_RESTORE (R394). -/
  | solsticeRestore (tid : Nat)
  /-- SOLSTICE_DROP (R395). -/
  | solsticeDrop (tid : Nat)
  /-- LEAP_START (R424). -/
  | leapStart (tid : Nat)
  /-- LEAP_ABORT (R427). -/
  | leapAbort (tid : Nat)
  /-- SEARCH with SUB 0 (R360). -/
  | searchCoordinated (tid : Nat)
  /-- SEARCH with SUB 1 (R359). -/
  | searchShard (tid : Nat)
  /-- The merge counter shows every dispatch done (R361). -/
  | coordinatorMerge (tid : Nat)
  /-- INDEX_INSERT (R347). -/
  | indexInsert (tid : Nat)
  /-- INDEX_DELETE (R347). -/
  | indexDelete (tid : Nat)
  /-- Side-list positions are free for a waiting mutation (R348). -/
  | sideListRoomFreed (tid : Nat)
  /-- HARVEST with HOP MERGE (R351). -/
  | harvestMerge (tid : Nat)
  /-- HARVEST with HOP COMPACT (R352). -/
  | harvestCompact (tid : Nat)
  /-- HARVEST with HOP INIT (R350). -/
  | harvestInit (tid : Nat)
  /-- PROGRAM_LOAD (R260). -/
  | programLoad (tid : Nat)
  /-- PROGRAM_LOAD with UNLOAD 1 (R260). -/
  | programUnload (tid : Nat)
  /-- PROGRAM_RUN (R262). -/
  | programRun (tid : Nat)
  /-- A tile runs one block of a run (R276). -/
  | programBlock (tid : Nat) (block : Nat)
  /-- Every block of a run has finished (R273). -/
  | programRunComplete (tid : Nat)
  /-- A waiting firing may start (R280). -/
  | programFiringResume (arming : Nat)
  /-- COUNTER_SET (R162). -/
  | counterSet (tid : Nat)
  /-- COUNTER_ARM (R164). -/
  | counterArm (tid : Nat)
  /-- READ (R176). -/
  | read (p : Packet)
  /-- WRITE (R146). -/
  | write (p : Packet)
  /-- ATOMIC (R229). -/
  | atomic (p : Packet)
  /-- TILE_READ (R314). -/
  | tileRead (p : Packet)
  /-- TILE_WRITE (R313). -/
  | tileWrite (p : Packet)
  /-- TILE_ACC (R236). -/
  | tileAcc (p : Packet)
  /-- WAIT (R157). -/
  | wait (p : Packet)
  /-- A parked WAIT's deadline passes (R159). -/
  | waitDeadlineExpiry (src : NodeId) (seq : BitVec 32)
  /-- PROBE (R151). -/
  | probe (p : Packet)
  /-- A READ or WRITE with CTRL_ACCESS (R625). -/
  | controlRegionAccess (p : Packet)
  /-- A read's deadline passes with lines unread (R318). -/
  | deadlineExpiry (src : NodeId) (seq : BitVec 32)
  /-- A frame arrives on a wavelength; `fecOk`: FEC could correct its codeword (R103). -/
  | frameReceive (port : PortId) (w : Fin 16) (trailer : Word) (flit : Bytes) (fecOk : Bool)
  /-- A REPLAY_REQ flit (R104). -/
  | replayReq (port : PortId) (flit : Bytes)
  /-- A CREDIT flit (R120). -/
  | credit (port : PortId) (flit : Bytes)
  /-- A LANE_STATE flit (R108). -/
  | laneState (port : PortId) (flit : Bytes)
  /-- The switch count of a direction elapses (R108). -/
  | widthSwitch (port : PortId) (tx : Bool)
  /-- A KEEPALIVE flit (R106). -/
  | keepalive (port : PortId) (flit : Bytes)
  /-- KA_PERIOD elapses (R106). -/
  | keepaliveSend (port : PortId)
  /-- KA_MISS periods pass without a good frame (R106). -/
  | keepaliveLost (port : PortId)
  /-- A HELLO flit (R137). -/
  | hello (port : PortId) (flit : Bytes)
  /-- Halord revisits a ring's lock; `held`: the heater can hold it; `soon`: fewer than 2^30 core cycles since its group last returned (R100, R109). -/
  | ringLockRevisit (port : PortId) (tx : Bool) (w : Fin 16) (held soon : Bool)
  /-- FEC-corrected symbols of a group's four wavelengths within 2^24 core cycles; `soon` as in RING_LOCK_REVISIT (R108). -/
  | degradeSymbolWindow (port : PortId) (g : Fin 4) (symbols : List Nat) (soon : Bool)
  /-- A relocked group passes its PRBS31 test; `soon` as in RING_LOCK_REVISIT (R109). -/
  | groupReturn (port : PortId) (tx : Bool) (g : Fin 4) (soon : Bool)
  /-- 2^24 management cycles after a failed bring-up step (R110). -/
  | portBringupRetry (port : PortId)
  /-- An ELS output falls below ELS_MIN (R99). -/
  | elsOutputLow (e : RegionId)
  /-- An ELS leaves its cage (R618). -/
  | elsRemoved (e : RegionId)
  /-- A new ELS is seated (R618). -/
  | elsInserted (e : RegionId) (conforming : Bool)
  /-- A SEQ_RESET packet (R122). -/
  | seqReset (p : Packet)
  /-- SYNC_CYCLES elapse before the pair is usable (R122). -/
  | seqResetRepeat (peer : NodeId)
  /-- SYNC_CYCLES elapse (R130). -/
  | seqSyncPeriod
  /-- A SEQ_SYNC packet (R131). -/
  | seqSync (p : Packet)
  /-- The back-off of a refused packet elapses (R626). -/
  | retryResend (peer : NodeId) (cls : Fin 6) (seq : BitVec 32)
  /-- The port's scheduler chooses a packet (R441). -/
  | schedulerSelect (port : PortId)
  /-- One core cycle of a shaper's bucket, or of a policer's with no port (R445). -/
  | tokenRefill (port : Option PortId) (ctx : BitVec 16)
  /-- An answer to a recall (R185). -/
  | recallAnswer (p : Packet)
  /-- WB_EVICT (R191). -/
  | wbEvict (p : Packet)
  /-- Every live tile has acknowledged a snoop-ring invalidation (R25). -/
  | snoopInvalidationComplete (line : Nat)
  /-- A host MemRd, or MemRdData (R194). -/
  | hostMemrd (m : HostM2S) (dataOnly : Bool)
  /-- A host MemWr (R194). -/
  | hostMemwr (m : HostM2S)
  /-- A host MemWrPtl (R194). -/
  | hostMemwrptl (m : HostM2S)
  /-- A host MemSpecRd (R194). -/
  | hostMemspecrd (m : HostM2S)
  /-- Any other M2S request (R194). -/
  | hostOtherM2s (m : HostM2S) (opcode : BitVec 4)
  /-- A FWD packet to the bridge's node (R195). -/
  | bridgeFwdSnoop (p : Packet)
  /-- A host BIRsp (R195). -/
  | hostBirsp (pva : Word) (ctx : BitVec 16) (shared : Bool) (dirty : Option Bytes)
  /-- A host BIConflict (R195). -/
  | hostBiconflict (tag : BitVec 16)
  /-- The host link leaves L0 or a hot reset arrives (R196). -/
  | bridgeHostLost
  /-- A BISnp stays unanswered (R196). -/
  | bisnpTimeout
  /-- The host enumerates the bridge again (R196). -/
  | bridgeHostReenumerate
  /-- A CMP write to a notification slot (R200). -/
  | bridgeNotifyWrite (p : Packet)
  /-- A write to HB_WIN_SEL (R199). -/
  | hbWinSel (w : Word)
  /-- A write to HB_WIN_COMMIT (R199). -/
  | hbWinCommit (w : Word)
  /-- A write to HB_NTF_COMMIT (R199). -/
  | hbNtfCommit (w : Word)
  /-- A write to OPORT_COMMIT (R136). -/
  | oportCommit (port : PortId) (w : Word)
  /-- A write to DPORT_COMMIT (R330). -/
  | dportCommit (d : DenseId) (w : Word)
  /-- A write to SCHED_COMMIT (R457). -/
  | schedCommit (port : PortId) (w : Word)
  /-- A write to SHP_SEL (R459). -/
  | shpSel (port : PortId) (w : Word)
  /-- A write to SHP_COMMIT (R448). -/
  | shpCommit (port : PortId) (w : Word)
  /-- A write to POL_SEL (R459). -/
  | polSel (w : Word)
  /-- A write to POL_COMMIT (R457). -/
  | polCommit (w : Word)
  /-- A write to EB_COMMIT (R490). -/
  | ebCommit (w : Word)
  /-- A write to VG_COMMIT (R494). -/
  | vgCommit (w : Word)
  /-- A write to MQ_COMMIT (R499). -/
  | mqCommit (w : Word)
  /-- A write to PLC_COMMIT (R529). -/
  | plcCommit (w : Word)
  /-- The drive returns a frame's 16 blocks and their metadata (R303). -/
  | stackCacheFillComplete (cid : Nat) (data meta_ : Bytes)
  /-- A drive completes an NVMe command, with the blocks and metadata a Read returns (R324). -/
  | nvmeCompletion (cid : Nat) (ok : Bool) (data meta_ : Bytes)
  /-- A command is unanswered for DENSE_TMO (R326). -/
  | nvmeTimeout (cid : Nat)
  /-- A drive's link or presence is lost (R326). -/
  | driveRemoved (d : DenseId)
  /-- A drive added at run time has been brought up, as in DENSE_PORT_BRINGUP_DONE (R328). -/
  | driveAdded (d : DenseId) (trained fmtOk : Bool) (nsBlocks queues : Nat) (deallocZero : Bool)
  /-- A lender's answer (R297). -/
  | lenderResponse (p : Packet)
  /-- A PEER WRITE (R373). -/
  | peerForward (p : Packet)
  /-- The answer to a forward (R375). -/
  | forwardAnswer (p : Packet)
  /-- The primary forwards a mirror-dirty line (R397). -/
  | mirrorResync (line : Nat)
  /-- Every seal condition of a part holds (R390). -/
  | partSeal (part : Nat)
  /-- A lost source's admitted requests have ended (R391). -/
  | sourcePrune (part : Nat) (src : NodeId)
  /-- The home copies an image chunk to its drain target (R392). -/
  | drainChunk (part : Nat) (chunk : Nat)
  /-- A restored chunk is copied back (R394). -/
  | restoreCopyBack (chunk : Nat)
  /-- A mirror receives a repair read (R475). -/
  | repairRead (p : Packet)
  /-- The answer to a repair read (R474). -/
  | repairReadAnswer (p : Packet)
  /-- A primary receives a mirror's read of an unreadable line (R476). -/
  | resyncRequest (p : Packet)
  /-- MAP_CREATE (R408). -/
  | mapCreate (p : Packet)
  /-- MAP_PROPOSE (R409). -/
  | mapPropose (p : Packet)
  /-- A map agreement message (R409). -/
  | mapAgreement (p : Packet)
  /-- MAP_RESULT (R427). -/
  | mapResult (p : Packet)
  /-- MAP_SUBSCRIBE (R411). -/
  | mapSubscribe (p : Packet)
  /-- MAP_FETCH (R411). -/
  | mapFetch (p : Packet)
  /-- MAP_PUSH (R417). -/
  | mapPush (p : Packet)
  /-- Every module named in a committed change has acknowledged (R410). -/
  | mapChangeEffect (ctx : BitVec 16)
  /-- MEMB_BEAT (R413). -/
  | membBeat (p : Packet)
  /-- MEMB_ACK (R414). -/
  | membAck (p : Packet)
  /-- MEMB_JOIN (R413). -/
  | membJoin (p : Packet)
  /-- MEMB_REPORT (R415). -/
  | membReport (p : Packet)
  /-- MEMB_LOST (R415). -/
  | membLost (p : Packet)
  /-- A membership agreement message (R415). -/
  | membAgreement (p : Packet)
  /-- BEAT_PERIOD elapses (R413). -/
  | beatPeriodTimer
  /-- No beat from a member for 2 × BEAT_MISS periods (R415). -/
  | memberSuspectTimer (node : NodeId)
  /-- LEAP_ORDER (R430). -/
  | leapOrder (p : Packet)
  /-- LEAP_OPEN (R424). -/
  | leapOpen (p : Packet)
  /-- READY (R424). -/
  | leapReady (p : Packet)
  /-- LEAP_PEER (R424). -/
  | leapPeer (p : Packet)
  /-- The target has answered every write of a chunk (R424). -/
  | leapChunkCopied (leap : Nat) (chunk : Nat)
  /-- Admitted work and recalls of the extent have ended (R424). -/
  | leapDrained (leap : Nat)
  /-- ADOPT_QUERY (R421). -/
  | adoptQuery (p : Packet)
  /-- RECLAIM (R431). -/
  | reclaim (p : Packet)
  /-- A residue check fails in a unit of an array, numbered as in R560; `repeated`: the replay mismatched too (R470). -/
  | residueMismatch (tile : TileId) (array : BitVec 8) (unit_ : BitVec 8) (repeated : Bool)
  /-- An error is corrected in an array, numbered as in R560, of a tile; `row`: sub-array and row of SRAM (R469). -/
  | correctedError (tile : TileId) (array : BitVec 8) (row : Option (BitVec 16 × BitVec 16))
  /-- A stored line cannot be read (R474). -/
  | uncorrectableLine (line : Nat) (kind : LineFault)
  /-- An uncorrectable error in request or chip-level state (R477). -/
  | uncorrectableStateError (f : StateFault)
  /-- A mesh or snoop-ring error is replayed for the n-th time (R479). -/
  | meshReplay (site : Nat) (tries : Nat)
  /-- A tile leaves service (R29). -/
  | tileRetire (t : TileId) (gate : Bool) (cause : BitVec 8)
  /-- A gated tile returns (R31). -/
  | tileUngate (t : TileId)
  /-- Vigil reads a line (R492). -/
  | vigilPatrolRead (line : Nat) (corrected : Bool)
  /-- Vigil's known-answer test on the next tile, and the units that failed, by array and number (R493). -/
  | knownAnswerTest (failures : List (BitVec 8 × BitVec 8))
  /-- An injection interval ends (R496). -/
  | masqueInterval
  /-- IMG_OPEN with KIND 0 (R579). -/
  | imgOpenFirmware (req : RequestWords)
  /-- IMG_OPEN with KIND 1 (R580). -/
  | imgOpenAlmanac (req : RequestWords)
  /-- A mailbox write to the image area (R576). -/
  | imageAreaWrite (offset : Nat) (w : Word)
  /-- IMG_STAGE (R579). -/
  | imgStage (req : RequestWords)
  /-- IMG_UNSTAGE (R579). -/
  | imgUnstage (req : RequestWords)
  /-- IMG_PUSH (R582). -/
  | imgPush (req : RequestWords)
  /-- RELAY (R577). -/
  | relay (req : RequestWords)
  /-- ATTEST (R593). -/
  | attest (req : RequestWords)
  /-- PRES_CLOSE (R585). -/
  | presClose (req : RequestWords)
  /-- OWNER_SET (R588). -/
  | ownerSet (req : RequestWords)
  /-- BIND_SET (R591). -/
  | bindSet (req : RequestWords)
  /-- DEBUG_UNLOCK (R590). -/
  | debugUnlock (req : RequestWords)
  /-- FACTORY_RESET (R589). -/
  | factoryReset (req : RequestWords)
  /-- ALMANAC_COPY (R582). -/
  | almanacCopy (req : RequestWords)
  /-- IMG_BEGIN (R582). -/
  | imgBegin (frame : Bytes)
  /-- IMG_CHUNK (R582). -/
  | imgChunk (frame : Bytes)
  /-- IMG_NAK (R582). -/
  | imgNak (frame : Bytes)
  /-- IMG_HOLD (R582). -/
  | imgHold (frame : Bytes)
  /-- IMG_GO (R582). -/
  | imgGo (frame : Bytes)
  /-- IMG_RESULT (R582). -/
  | imgResult (frame : Bytes)
  /-- SEC_REQ (R581). -/
  | secReq (frame : Bytes)
  /-- SEC_RSP (R581). -/
  | secRsp (frame : Bytes)
  /-- PRES_N has been low for 2^20 management cycles (R585). -/
  | presNHold
  /-- The presence window expires (R585). -/
  | presenceWindowExpiry
  /-- AON samples the seal loop (R586). -/
  | sealSample (closed : Bool)
  /-- A TAP instruction is loaded (R590). -/
  | jtagInstruction (ir : TapInstr)
  /-- Codewords are aligned on the groups found (R110). -/
  | codewordLock (port : PortId) (tx : BitVec 4) (rx : BitVec 4)
  /-- PRES_N returns high (R585). -/
  | presNRelease
  /-- A response to a request of the bridge (R194). -/
  | bridgeRequestResponse (p : Packet)
  /-- The answer to a counter PROBE (R153). -/
  | counterProbeAnswer (p : Packet)
  /-- The host unmasks a vector (R200). -/
  | msixVectorUnmask (v : Fin 2048)
  /-- 2^20 core cycles since the last write of a cohort record (R384). -/
  | cohortRecordWrite (part : Nat)
  /-- A resetting region's block BIST passes (R481). -/
  | regionResetComplete (r : RegionId)
  /-- A containment has run for more than 2^24 management cycles (R482). -/
  | containmentTimeout (r : RegionId)
  /-- A watchdog restart finishes (R503). -/
  | halordRestartComplete
  /-- Halord finishes programming n buffered image bytes (R579). -/
  | flashProgramProgress (n : Nat)
  deriving DecidableEq, Repr

end Sys2Proof
end

