-- ==== Sys2Proof/Machine/Bits.lean ====
section
/-! DEFINITION. Bit fields, byte order, sparse tables, byte memories and the cyclic redundancy checks
the manual names. Everything here is plain arithmetic on numbers and lists. -/

namespace Sys2Proof.Machine

/-- Bits `hi:lo` of a word as a number (R10: bit 0 is the least significant). -/
def fieldOf (w : Word) (hi lo : Nat) : Nat := w.toNat / 2 ^ lo % 2 ^ (hi + 1 - lo)

/-- Bit `i` of a word. -/
def bitOf (w : Word) (i : Nat) : Bool := w.getLsbD i

/-- Bits `hi:lo` of a number. -/
def natField (n hi lo : Nat) : Nat := n / 2 ^ lo % 2 ^ (hi + 1 - lo)

/-- A word with bits `hi:lo` replaced by the low bits of `v`. -/
def putField (w : Word) (hi lo v : Nat) : Word :=
  let width := 2 ^ (hi + 1 - lo)
  BitVec.ofNat 64 (w.toNat - fieldOf w hi lo * 2 ^ lo + v % width * 2 ^ lo)

/-- A word whose bits are the number `n`. -/
def wordOf (n : Nat) : Word := BitVec.ofNat 64 n

/-- The bit 1 for true and 0 for false. -/
def bit01 (b : Bool) : Nat := if b then 1 else 0

/-- The `len` low bytes of `n`, byte 0 first (R10). -/
def leBytes : Nat → Nat → Bytes
  | 0, _ => []
  | len + 1, n => BitVec.ofNat 8 n :: leBytes len (n / 256)

/-- The number a byte string spells, byte 0 least significant (R10). -/
def leNat : Bytes → Nat
  | [] => 0
  | b :: bs => b.toNat + 256 * leNat bs

/-- The bytes of a byte string most significant first, as the cipher and digest standards order them. -/
def beNat (bs : Bytes) : Nat := leNat bs.reverse

/-- The `len` low bytes of `n`, most significant byte first. -/
def beBytes (len n : Nat) : Bytes := (leBytes len n).reverse

/-- The bytes of a list of 64-bit words, word 0 first (R10). -/
def wordsToBytes (ws : List Word) : Bytes := ws.flatMap fun w => leBytes 8 w.toNat

/-- The first `n` 64-bit words of a byte string (missing bytes count as 0). -/
def bytesToWords : Nat → Bytes → List Word
  | 0, _ => []
  | n + 1, bs => wordOf (leNat (bs.take 8)) :: bytesToWords n (bs.drop 8)

/-- Word `n` of a list of words, 0 past its end. -/
def wordAt (ws : List Word) (n : Nat) : Word := ws.getD n 0

/-- `n` bytes taken from `bs` at offset `o`, filled up with zeros. -/
def sliceOf (bs : Bytes) (o n : Nat) : Bytes :=
  let t := (bs.drop o).take n
  t ++ List.replicate (n - t.length) 0

/-- `bs` with `new` laid over it at offset `o`. -/
def overlayAt (bs : Bytes) (o : Nat) (new : Bytes) : Bytes :=
  sliceOf bs 0 o ++ new ++ bs.drop (o + new.length)

/-- ASCII text as bytes. -/
def asciiOf (t : String) : Bytes := t.toList.map fun c => BitVec.ofNat 8 c.toNat

/-- The number of bits of `n` up to and including its highest set bit. -/
def bitLen (n : Nat) : Nat := if n = 0 then 0 else Nat.log2 n + 1

/-- `a / b` rounded up. -/
def ceilDiv (a b : Nat) : Nat := (a + b - 1) / b

/-! ### Serial arithmetic (R104, R122) -/

/-- `a` comes strictly before `b` in serial arithmetic on numbers of `2 ^ w` values. -/
def serialLt (w a b : Nat) : Bool :=
  let d := (b + 2 ^ w - a % 2 ^ w) % 2 ^ w
  decide (d ≠ 0 ∧ d < 2 ^ (w - 1))

/-- `a` comes before or equals `b` in serial arithmetic. -/
def serialLe (w a b : Nat) : Bool := a % 2 ^ w == b % 2 ^ w || serialLt w a b

/-- The distance from `a` up to `b` in serial arithmetic. -/
def serialDist (w a b : Nat) : Nat := (b + 2 ^ w - a % 2 ^ w) % 2 ^ w

/-! ### Sparse tables -/

/-- The value at key `k`. -/
def Tbl.find? {α : Type} (t : Tbl α) (k : Nat) : Option α :=
  match t with
  | [] => none
  | (j, v) :: rest => if j = k then some v else Tbl.find? rest k

/-- The value at key `k`, or `d`. -/
def Tbl.getD {α : Type} (t : Tbl α) (k : Nat) (d : α) : α := (Tbl.find? t k).getD d

/-- The table with `v` at key `k`; keys stay strictly rising. -/
def Tbl.put {α : Type} (t : Tbl α) (k : Nat) (v : α) : Tbl α :=
  match t with
  | [] => [(k, v)]
  | (j, w) :: rest =>
    if k < j then (k, v) :: (j, w) :: rest
    else if k = j then (k, v) :: rest
    else (j, w) :: Tbl.put rest k v

/-- The table with nothing at key `k`. -/
def Tbl.del {α : Type} (t : Tbl α) (k : Nat) : Tbl α :=
  match t with
  | [] => []
  | (j, w) :: rest => if j = k then Tbl.del rest k else (j, w) :: Tbl.del rest k

/-- The table with the value at `k` changed by `f`, if there is one. -/
def Tbl.upd {α : Type} (t : Tbl α) (k : Nat) (f : α → α) : Tbl α :=
  match Tbl.find? t k with
  | none => t
  | some v => Tbl.put t k (f v)

/-- The table with every value changed by `f`. -/
def Tbl.mapVals {α : Type} (t : Tbl α) (f : α → α) : Tbl α :=
  match t with
  | [] => []
  | (j, w) :: rest => (j, f w) :: Tbl.mapVals rest f

/-- The keys of a table, rising. -/
def Tbl.keysOf {α : Type} (t : Tbl α) : List Nat := t.map Prod.fst

/-- The smallest number below `bound` that is not a key, if there is one. -/
def Tbl.freeKey? {α : Type} (t : Tbl α) (bound : Nat) : Option Nat :=
  let rec go : Tbl α → Nat → Nat
    | [], c => c
    | (j, _) :: rest, c => if j = c then go rest (c + 1) else c
  let c := go t 0
  if c < bound then some c else none

/-! ### Byte memories

A memory is a list of `Host.Cell`-shaped pairs in one canonical form: addresses strictly rising and
no pair holding the byte `d` that an unlisted address reads as. -/

/-- The byte at address `a`; an unlisted address reads as `d`. -/
def memGet (d : Byte) (m : Tbl Byte) (a : Nat) : Byte := Tbl.getD m a d

/-- The memory with byte `v` at address `a`, in canonical form. -/
def memPut (d : Byte) (m : Tbl Byte) (a : Nat) (v : Byte) : Tbl Byte :=
  if v = d then Tbl.del m a else Tbl.put m a v

/-- `n` bytes from address `a` upwards. -/
def memRead (d : Byte) (m : Tbl Byte) (a : Nat) : Nat → Bytes
  | 0 => []
  | n + 1 => memGet d m a :: memRead d m (a + 1) n

/-- Bytes written from address `a` upwards. -/
def memWrite (d : Byte) (m : Tbl Byte) (a : Nat) : Bytes → Tbl Byte
  | [] => m
  | b :: bs => memWrite d (memPut d m a b) (a + 1) bs

/-- The memory with the `n` bytes from `a` upwards back at `d`. -/
def memClear (m : Tbl Byte) (a n : Nat) : Tbl Byte :=
  m.filter fun c => !(decide (a ≤ c.1) && decide (c.1 < a + n))

/-- The canonical form of a memory, from a lower bound on its first address. -/
def memWfFrom (d : Byte) : Nat → Tbl Byte → Bool
  | _, [] => true
  | lo, (a, v) :: rest => decide (lo ≤ a) && decide (v ≠ d) && memWfFrom d (a + 1) rest

/-- The canonical form of a memory: addresses strictly rising, no byte equal to `d`. -/
def memWf (d : Byte) (m : Tbl Byte) : Bool := memWfFrom d 0 m

/-! ### Cyclic redundancy checks -/

/-- One reflected CRC step over the eight bits of a byte. -/
def crcBitsRefl (poly : Nat) : Nat → Nat → Nat
  | 0, c => c
  | k + 1, c => crcBitsRefl poly k (if c % 2 = 1 then (c / 2) ^^^ poly else c / 2)

/-- A reflected CRC register run over bytes. -/
def crcRefl (poly : Nat) (c : Nat) (bs : Bytes) : Nat :=
  bs.foldl (fun c b => crcBitsRefl poly 8 (c ^^^ b.toNat)) c

/-- CRC-32C of bytes, as in RFC 3720 (R112). -/
def crc32c (bs : Bytes) : Nat := crcRefl 0x82F63B78 0xFFFFFFFF bs ^^^ 0xFFFFFFFF

/-- One unreflected CRC step over bits, for a register of `w` bits. -/
def crcBitsFwd (w poly : Nat) : Nat → Nat → Nat
  | 0, c => c
  | k + 1, c =>
    let t := c * 2
    crcBitsFwd w poly k (if t / 2 ^ w % 2 = 1 then (t % 2 ^ w) ^^^ poly else t)

/-- CRC-24 of bytes with polynomial 0x864CFB and initial value 0xB704CE (R101). -/
def crc24 (bs : Bytes) : Nat :=
  bs.foldl (fun c b => crcBitsFwd 24 0x864CFB 8 (c ^^^ (b.toNat * 2 ^ 16))) 0xB704CE

/-! ### Block hash (R26) -/

/-- Rotates the three low bits of `g` left by `k`. -/
def rot3 (g k : Nat) : Nat := (g * 2 ^ k + g * 2 ^ k / 8) % 8

/-- The region and slot of a local offset: the XOR of the twelve 3-bit groups of its block number, and
of the same groups rotated by 1 or 2 in turn (R26). -/
def hashRegionSlot (off : Nat) : Nat × Nat :=
  let b := off / 4096
  (List.range 12).foldl
    (fun (acc : Nat × Nat) i =>
      let g := b / 2 ^ (3 * i) % 8
      (acc.1 ^^^ g, acc.2 ^^^ rot3 g (1 + i % 2)))
    (0, 0)

/-- The directory set of a local offset (R180). -/
def directorySet (off : Nat) : Nat :=
  let n := off / 64 % 2 ^ 42
  (n ^^^ (n / 2 ^ 15) ^^^ (n / 2 ^ 30)) % 2 ^ 15

end Sys2Proof.Machine
end

