-- ==== Sys2Proof/Machine/Crypto.lean ====
section
/-! DEFINITION. The ciphers, digests and signatures the manual names: SHA-512, HMAC and HKDF (R66), AES-256,
AES-256-XTS (R90), AES key wrap (R588), X25519 (R588) and Ed25519 (R572, R593). They follow the standards
the manual cites; the manual gives no pseudocode for them. -/

namespace Sys2Proof.Machine

/-! ### SHA-512 (FIPS 180-4) -/

/-- The eighty round constants. -/
def sha512K : List Nat :=
  [0x428a2f98d728ae22, 0x7137449123ef65cd, 0xb5c0fbcfec4d3b2f, 0xe9b5dba58189dbbc] ++
  [0x3956c25bf348b538, 0x59f111f1b605d019, 0x923f82a4af194f9b, 0xab1c5ed5da6d8118] ++
  [0xd807aa98a3030242, 0x12835b0145706fbe, 0x243185be4ee4b28c, 0x550c7dc3d5ffb4e2] ++
  [0x72be5d74f27b896f, 0x80deb1fe3b1696b1, 0x9bdc06a725c71235, 0xc19bf174cf692694] ++
  [0xe49b69c19ef14ad2, 0xefbe4786384f25e3, 0x0fc19dc68b8cd5b5, 0x240ca1cc77ac9c65] ++
  [0x2de92c6f592b0275, 0x4a7484aa6ea6e483, 0x5cb0a9dcbd41fbd4, 0x76f988da831153b5] ++
  [0x983e5152ee66dfab, 0xa831c66d2db43210, 0xb00327c898fb213f, 0xbf597fc7beef0ee4] ++
  [0xc6e00bf33da88fc2, 0xd5a79147930aa725, 0x06ca6351e003826f, 0x142929670a0e6e70] ++
  [0x27b70a8546d22ffc, 0x2e1b21385c26c926, 0x4d2c6dfc5ac42aed, 0x53380d139d95b3df] ++
  [0x650a73548baf63de, 0x766a0abb3c77b2a8, 0x81c2c92e47edaee6, 0x92722c851482353b] ++
  [0xa2bfe8a14cf10364, 0xa81a664bbc423001, 0xc24b8b70d0f89791, 0xc76c51a30654be30] ++
  [0xd192e819d6ef5218, 0xd69906245565a910, 0xf40e35855771202a, 0x106aa07032bbd1b8] ++
  [0x19a4c116b8d2d0c8, 0x1e376c085141ab53, 0x2748774cdf8eeb99, 0x34b0bcb5e19b48a8] ++
  [0x391c0cb3c5c95a63, 0x4ed8aa4ae3418acb, 0x5b9cca4f7763e373, 0x682e6ff3d6b2b8a3] ++
  [0x748f82ee5defb2fc, 0x78a5636f43172f60, 0x84c87814a1f0ab72, 0x8cc702081a6439ec] ++
  [0x90befffa23631e28, 0xa4506cebde82bde9, 0xbef9a3f7b2c67915, 0xc67178f2e372532b] ++
  [0xca273eceea26619c, 0xd186b8c721c0c207, 0xeada7dd6cde0eb1e, 0xf57d4f7fee6ed178] ++
  [0x06f067aa72176fba, 0x0a637dc5a2c898a6, 0x113f9804bef90dae, 0x1b710b35131c471b] ++
  [0x28db77f523047d84, 0x32caab7b40c72493, 0x3c9ebe0a15c9bebc, 0x431d67c49c100d4c] ++
  [0x4cc5d4becb3e42b6, 0x597f299cfc657e2a, 0x5fcb6fab3ad6faec, 0x6c44198c4a475817]

/-- The initial hash value. -/
def sha512Init : List Nat :=
  [0x6a09e667f3bcc908, 0xbb67ae8584caa73b, 0x3c6ef372fe94f82b, 0xa54ff53a5f1d36f1] ++
  [0x510e527fade682d1, 0x9b05688c2b3e6c1f, 0x1f83d9abfb41bd6b, 0x5be0cd19137e2179]

def rotr64 (x k : Nat) : Nat := (x / 2 ^ k) ||| (x * 2 ^ (64 - k) % 2 ^ 64)

/-- One more word of the message schedule; the list holds the last sixteen, oldest first. -/
def sha512NextW (w : List Nat) : Nat :=
  let x := w.getD 1 0
  let y := w.getD 14 0
  let s0 := rotr64 x 1 ^^^ rotr64 x 8 ^^^ (x / 2 ^ 7)
  let s1 := rotr64 y 19 ^^^ rotr64 y 61 ^^^ (y / 2 ^ 6)
  (w.getD 0 0 + s0 + w.getD 9 0 + s1) % 2 ^ 64

/-- The rounds over the remaining constants. -/
def sha512Rounds : List Nat → List Nat → List Nat → List Nat
  | [], _, h => h
  | k :: ks, w, h =>
    let a := h.getD 0 0
    let b := h.getD 1 0
    let c := h.getD 2 0
    let d := h.getD 3 0
    let e := h.getD 4 0
    let f := h.getD 5 0
    let g := h.getD 6 0
    let hh := h.getD 7 0
    let s1 := rotr64 e 14 ^^^ rotr64 e 18 ^^^ rotr64 e 41
    let ch := (e &&& f) ^^^ ((2 ^ 64 - 1 - e) &&& g)
    let t1 := (hh + s1 + ch + k + w.getD 0 0) % 2 ^ 64
    let s0 := rotr64 a 28 ^^^ rotr64 a 34 ^^^ rotr64 a 39
    let mj := (a &&& b) ^^^ (a &&& c) ^^^ (b &&& c)
    let t2 := (s0 + mj) % 2 ^ 64
    sha512Rounds ks (w.drop 1 ++ [sha512NextW w]) [(t1 + t2) % 2 ^ 64, a, b, c, (d + t1) % 2 ^ 64, e, f, g]

/-- One 128-byte block folded into the hash value. -/
def sha512Block (h : List Nat) (blk : Bytes) : List Nat :=
  let w := (List.range 16).map fun i => beNat (sliceOf blk (8 * i) 8)
  List.zipWith (fun x y => (x + y) % 2 ^ 64) h (sha512Rounds sha512K w h)

/-- The blocks of a padded message, `n` of them. -/
def sha512Blocks : Nat → List Nat → Bytes → List Nat
  | 0, h, _ => h
  | n + 1, h, bs => sha512Blocks n (sha512Block h (bs.take 128)) (bs.drop 128)

/-- The 64-byte digest. -/
def sha512 (m : Bytes) : Bytes :=
  let pad := (128 - (m.length + 17) % 128) % 128
  let p := m ++ [0x80] ++ List.replicate pad 0 ++ beBytes 16 (8 * m.length)
  (sha512Blocks (p.length / 128) sha512Init p).flatMap (beBytes 8)

/-- HMAC with SHA-512 (RFC 2104). -/
def hmac512 (key msg : Bytes) : Bytes :=
  let k := if key.length > 128 then sha512 key else key
  let k := k ++ List.replicate (128 - k.length) 0
  let x (v : Byte) : Bytes := k.map fun b => b ^^^ v
  sha512 (x 0x5C ++ sha512 (x 0x36 ++ msg))

/-- The expand step of HKDF: `n` further blocks after `prev`, numbered from `i` (RFC 5869). -/
def hkdfBlocks (prk info : Bytes) : Nat → Nat → Bytes → Bytes
  | 0, _, _ => []
  | n + 1, i, prev =>
    let t := hmac512 prk (prev ++ info ++ [BitVec.ofNat 8 i])
    t ++ hkdfBlocks prk info n (i + 1) t

/-- HKDF with SHA-512 (RFC 5869): `len` bytes from keying material, salt and info. -/
def hkdf512 (ikm salt info : Bytes) (len : Nat) : Bytes :=
  (hkdfBlocks (hmac512 salt ikm) info (ceilDiv len 64) 1 []).take len

/-! ### AES-256 (FIPS 197) -/

/-- Multiplication by x in the AES field. -/
def gfDouble (a : Nat) : Nat := let t := a * 2; if t ≥ 256 then (t - 256) ^^^ 0x1B else t

/-- Multiplication in the AES field, over the low `k` bits of `b`. -/
def gfMulAux : Nat → Nat → Nat → Nat
  | 0, _, _ => 0
  | k + 1, a, b => (if b % 2 = 1 then a else 0) ^^^ gfMulAux k (gfDouble a) (b / 2)

def gfMul (a b : Nat) : Nat := gfMulAux 8 a b

/-- The inverse in the AES field, 0 for 0: the 254th power. -/
def gfInv (a : Nat) : Nat :=
  let a2 := gfMul a a
  let a4 := gfMul a2 a2
  let a8 := gfMul a4 a4
  let a16 := gfMul a8 a8
  let a32 := gfMul a16 a16
  let a64 := gfMul a32 a32
  let a128 := gfMul a64 a64
  gfMul a128 (gfMul a64 (gfMul a32 (gfMul a16 (gfMul a8 (gfMul a4 a2)))))

def rotl8 (x k : Nat) : Nat := (x * 2 ^ k + x * 2 ^ k / 256) % 256

/-- The AES substitution box. -/
def aesSub (x : Nat) : Nat :=
  let b := gfInv x
  b ^^^ rotl8 b 1 ^^^ rotl8 b 2 ^^^ rotl8 b 3 ^^^ rotl8 b 4 ^^^ 0x63

/-- The inverse substitution box. -/
def aesInvSub (y : Nat) : Nat := gfInv (rotl8 y 1 ^^^ rotl8 y 3 ^^^ rotl8 y 6 ^^^ 0x05)

/-- The key schedule: words of four bytes each, newest first, `n` more of them from word index `i`. -/
def aesExpand : Nat → Nat → Nat → List (List Nat) → List (List Nat)
  | 0, _, _, ws => ws
  | n + 1, i, rcon, ws =>
    let t := ws.getD 0 []
    let t' :=
      if i % 8 = 0 then
        let r := (t.drop 1 ++ t.take 1).map aesSub
        (r.getD 0 0 ^^^ rcon) :: r.drop 1
      else if i % 8 = 4 then t.map aesSub
      else t
    let w := List.zipWith (fun a b => a ^^^ b) (ws.getD 7 []) t'
    aesExpand n (i + 1) (if i % 8 = 0 then gfDouble rcon else rcon) (w :: ws)

/-- The fifteen round keys of a 32-byte key, 16 bytes each, first round first. -/
def aesRoundKeys (key : Bytes) : List (List Nat) :=
  let k := key.map BitVec.toNat
  let w0 := (List.range 8).map fun i => (k.drop (4 * i)).take 4
  let ws := (aesExpand 52 8 1 w0.reverse).reverse
  (List.range 15).map fun r => ((ws.drop (4 * r)).take 4).flatten

def xorNats (a b : List Nat) : List Nat := List.zipWith (fun x y => x ^^^ y) a b

/-- ShiftRows with column step `d` (1 forward, 3 backward): byte `4c + r` comes from column `c + d·r`. -/
def aesShift (d : Nat) (st : List Nat) : List Nat :=
  (List.range 16).map fun i => st.getD ((i + 4 * d * (i % 4)) % 16) 0

/-- MixColumns with the row of coefficients `m`. -/
def aesMix (m : List Nat) (st : List Nat) : List Nat :=
  (List.range 16).map fun i =>
    let c := 4 * (i / 4)
    let r := i % 4
    (List.range 4).foldl (fun acc j => acc ^^^ gfMul (m.getD ((j + 4 - r) % 4) 0) (st.getD (c + j) 0)) 0

/-- The AES-256 encryption of a 16-byte block. -/
def aesEncrypt (key blk : Bytes) : Bytes :=
  let rk := aesRoundKeys key
  let st := xorNats (blk.map BitVec.toNat) (rk.getD 0 [])
  let st := (List.range 13).foldl
    (fun s i => xorNats (aesMix [2, 3, 1, 1] (aesShift 1 (s.map aesSub))) (rk.getD (i + 1) [])) st
  (xorNats (aesShift 1 (st.map aesSub)) (rk.getD 14 [])).map (BitVec.ofNat 8)

/-- The AES-256 decryption of a 16-byte block. -/
def aesDecrypt (key blk : Bytes) : Bytes :=
  let rk := aesRoundKeys key
  let st := (aesShift 3 (xorNats (blk.map BitVec.toNat) (rk.getD 14 []))).map aesInvSub
  let st := (List.range 13).foldl
    (fun s i => (aesShift 3 (aesMix [14, 11, 13, 9] (xorNats s (rk.getD (13 - i) [])))).map aesInvSub) st
  (xorNats st (rk.getD 0 [])).map (BitVec.ofNat 8)

/-! ### XTS (IEEE 1619) -/

/-- Doubling of an XTS tweak, read as a little-endian number. -/
def xtsDouble (t : Nat) : Nat := let d := t * 2; if d ≥ 2 ^ 128 then (d - 2 ^ 128) ^^^ 0x87 else d

def xorBytes (a b : Bytes) : Bytes := List.zipWith (fun x y => x ^^^ y) a b

/-- XTS over `n` 16-byte blocks with block operation `f` and running tweak `t`. -/
def xtsBlocks (f : Bytes → Bytes) : Nat → Nat → Bytes → Bytes
  | 0, _, _ => []
  | n + 1, t, bs =>
    let tb := leBytes 16 t
    xorBytes (f (xorBytes (bs.take 16) tb)) tb ++ xtsBlocks f n (xtsDouble t) (bs.drop 16)

/-- AES-256-XTS encryption of a whole number of blocks under a 64-byte key pair: data key, then tweak key (R66). -/
def xtsEncrypt (keys : Bytes) (tweak : Nat) (data : Bytes) : Bytes :=
  xtsBlocks (aesEncrypt (keys.take 32)) (data.length / 16)
    (leNat (aesEncrypt (keys.drop 32) (leBytes 16 tweak))) data

/-- AES-256-XTS decryption. -/
def xtsDecrypt (keys : Bytes) (tweak : Nat) (data : Bytes) : Bytes :=
  xtsBlocks (aesDecrypt (keys.take 32)) (data.length / 16)
    (leNat (aesEncrypt (keys.drop 32) (leBytes 16 tweak))) data

/-! ### AES key wrap (RFC 3394) -/

/-- One pass of the unwrap over semiblocks, from `i` down; `rs` holds the semiblocks, first first. -/
def kwUnwrapPass (kek : Bytes) (n j : Nat) : Nat → Bytes × List Bytes → Bytes × List Bytes
  | 0, st => st
  | i + 1, (a, rs) =>
    let t := n * j + (i + 1)
    let b := aesDecrypt kek (xorBytes a (beBytes 8 t) ++ rs.getD i [])
    kwUnwrapPass kek n j i (b.take 8, rs.set i (b.drop 8))

/-- One pass of the AES key wrap over its 64-bit blocks (RFC 3394). -/
def kwWrapPass (kek : Bytes) (n j : Nat) : Nat → Bytes × List Bytes → Bytes × List Bytes
  | 0, st => st
  | k + 1, (a, r) =>
    let i := n - k
    let b := aesEncrypt kek (a ++ r.getD (i - 1) [])
    let t := n * j + i
    kwWrapPass kek n j k (xorBytes (b.take 8) (beBytes 8 t), r.set (i - 1) (b.drop 8))

/-- AES-256 key wrap (RFC 3394) of a 32-byte key: 40 bytes. -/
def kwWrap (kek key : Bytes) : Bytes :=
  let r := (List.range 4).map fun i => sliceOf key (8 * i) 8
  let st := (List.range 6).foldl (fun st j => kwWrapPass kek 4 j 4 st) (List.replicate 8 0xA6, r)
  st.1 ++ st.2.flatten

/-- AES key unwrap; `none` when the integrity value is wrong. -/
def kwUnwrap (kek wrapped : Bytes) : Option Bytes :=
  let n := wrapped.length / 8 - 1
  let rs := (List.range n).map fun i => sliceOf wrapped (8 * (i + 1)) 8
  let (a, rs) := [5, 4, 3, 2, 1, 0].foldl (fun st j => kwUnwrapPass kek n j n st) (wrapped.take 8, rs)
  if a = List.replicate 8 0xA6 then some rs.flatten else none

/-! ### Curve25519 (RFC 7748, RFC 8032) -/

def p25519 : Nat := 2 ^ 255 - 19

def fSub (a b : Nat) : Nat := (a + p25519 - b % p25519) % p25519

/-- `a` to the power of the `k`-bit exponent `e`, modulo `m`. -/
def powModAux (m : Nat) : Nat → Nat → Nat → Nat
  | 0, _, _ => 1
  | k + 1, a, e =>
    let r := powModAux m k (a * a % m) (e / 2)
    if e % 2 = 1 then r * a % m else r

def powMod (m a e : Nat) : Nat := powModAux m 256 (a % m) e % m

def fInv (a : Nat) : Nat := powMod p25519 a (p25519 - 2)

/-- The Montgomery ladder over the low `k` bits of the scalar, most significant first. -/
def x25519Ladder (u n : Nat) : Nat → Nat × Nat × Nat × Nat → Nat × Nat × Nat × Nat
  | 0, st => st
  | k + 1, (x2, z2, x3, z3) =>
    let p := p25519
    let bit := n / 2 ^ k % 2
    let sw (a b : Nat) : Nat × Nat := if bit = 1 then (b, a) else (a, b)
    let (x2, x3) := sw x2 x3
    let (z2, z3) := sw z2 z3
    let a := (x2 + z2) % p
    let aa := a * a % p
    let b := fSub x2 z2
    let bb := b * b % p
    let e := fSub aa bb
    let c := (x3 + z3) % p
    let d := fSub x3 z3
    let da := d * a % p
    let cb := c * b % p
    let y3 := (da + cb) % p
    let w3 := fSub da cb
    let x3' := y3 * y3 % p
    let z3' := u * (w3 * w3 % p) % p
    let x2' := aa * bb % p
    let z2' := e * ((aa + 121665 * e) % p) % p
    let (x2', x3') := sw x2' x3'
    let (z2', z3') := sw z2' z3'
    x25519Ladder u n k (x2', z2', x3', z3')

/-- X25519 of a 32-byte scalar and a 32-byte point. -/
def x25519 (scalar point : Bytes) : Bytes :=
  let k := leNat scalar
  let k := k - k % 8
  let k := k % 2 ^ 254 + 2 ^ 254
  let u := leNat point % 2 ^ 255 % p25519
  let (x2, z2, _, _) := x25519Ladder u k 255 (1, 0, u, 1)
  leBytes 32 (x2 * fInv z2 % p25519)

/-- The order of the Ed25519 base point. -/
def edL : Nat := 2 ^ 252 + 27742317777372353535851937790883648493

/-- The curve constant d. -/
def edD : Nat := fSub 0 (121665 * fInv 121666 % p25519)

/-- A point in extended coordinates. -/
structure EdPoint where
  x : Nat
  y : Nat
  z : Nat
  t : Nat
  deriving DecidableEq, Repr

def edZero : EdPoint := ⟨0, 1, 1, 0⟩

def edAdd (a b : EdPoint) : EdPoint :=
  let p := p25519
  let aa := fSub a.y a.x * fSub b.y b.x % p
  let bb := (a.y + a.x) * (b.y + b.x) % p
  let cc := 2 * (a.t * b.t % p) * edD % p
  let dd := 2 * a.z * b.z % p
  let e := fSub bb aa
  let f := fSub dd cc
  let g := (dd + cc) % p
  let h := (bb + aa) % p
  ⟨e * f % p, g * h % p, f * g % p, e * h % p⟩

/-- The multiple of a point by the `k`-bit number `n`. -/
def edMulAux : Nat → Nat → EdPoint → EdPoint
  | 0, _, _ => edZero
  | k + 1, n, a =>
    let r := edMulAux k (n / 2) (edAdd a a)
    if n % 2 = 1 then edAdd r a else r

def edMul (n : Nat) (a : EdPoint) : EdPoint := edMulAux 256 n a

/-- The x coordinate of a point with the given y and sign, if it lies on the curve. -/
def edRecoverX (y sign : Nat) : Option Nat :=
  let p := p25519
  if y ≥ p then none
  else
    let y2 := y * y % p
    let x2 := fSub y2 1 * fInv ((edD * y2 + 1) % p) % p
    if x2 = 0 then (if sign = 1 then none else some 0)
    else
      let x := powMod p x2 ((p + 3) / 8)
      let x := if x * x % p = x2 then x else x * powMod p 2 ((p - 1) / 4) % p
      if x * x % p ≠ x2 then none
      else some (if x % 2 = sign then x else p - x)

/-- A point from its 32-byte encoding. -/
def edDecode (bs : Bytes) : Option EdPoint :=
  let n := leNat (bs.take 32)
  let y := n % 2 ^ 255
  match edRecoverX y (n / 2 ^ 255) with
  | none => none
  | some x => some ⟨x, y, 1, x * y % p25519⟩

def edEncode (a : EdPoint) : Bytes :=
  let zi := fInv a.z
  let x := a.x * zi % p25519
  let y := a.y * zi % p25519
  leBytes 32 (y + (x % 2) * 2 ^ 255)

/-- The base point: y is 4/5, x is even. -/
def edBase : EdPoint := (edDecode (leBytes 32 (4 * fInv 5 % p25519))).getD edZero

def edEq (a b : EdPoint) : Bool :=
  decide (a.x * b.z % p25519 = b.x * a.z % p25519) && decide (a.y * b.z % p25519 = b.y * a.z % p25519)

/-- The clamped scalar and the prefix of a 32-byte Ed25519 private key. -/
def edExpand (sk : Bytes) : Nat × Bytes :=
  let h := sha512 sk
  let k := leNat (h.take 32)
  let k := k - k % 8
  (k % 2 ^ 254 + 2 ^ 254, h.drop 32)

/-- The Ed25519 public key of a private key. -/
def edPublic (sk : Bytes) : Bytes := edEncode (edMul (edExpand sk).1 edBase)

/-- The Ed25519 signature of a message. -/
def edSign (sk msg : Bytes) : Bytes :=
  let (a, pre) := edExpand sk
  let pk := edEncode (edMul a edBase)
  let r := leNat (sha512 (pre ++ msg)) % edL
  let rb := edEncode (edMul r edBase)
  let h := leNat (sha512 (rb ++ pk ++ msg)) % edL
  rb ++ leBytes 32 ((r + h * a) % edL)

/-- Whether an Ed25519 signature of a message is good under a public key. -/
def edVerify (pk msg sig : Bytes) : Bool :=
  match edDecode pk, edDecode (sig.take 32) with
  | some a, some r =>
    let s := leNat ((sig.drop 32).take 32)
    if s ≥ edL then false
    else
      let h := leNat (sha512 (sig.take 32 ++ pk.take 32 ++ msg)) % edL
      edEq (edMul s edBase) (edAdd r (edMul h a))
  | _, _ => false

end Sys2Proof.Machine
end

