-- ==== Sys2Proof/Machine/Formats.lean ====
section
/-! DEFINITION. The element formats of R216 to R226: exact values, decoding, rounding, overflow, block
scaling, and the element-wise operations of ATOMIC (R227) and TILE_ACC (R236).

A finite value is kept exactly, as a sign, a magnitude and a power of two, so every operation is computed
exactly and rounded once (R221). -/

namespace Sys2Proof.Machine

/-- An exact value: NaN, an infinity with its sign, or (−1)^neg × mag × 2^exp. -/
inductive FVal where
  | nan
  | inf (neg : Bool)
  | fin (neg : Bool) (mag : Nat) (exp : Int)
  deriving DecidableEq, Repr

/-- The layout of a floating element: exponent and mantissa widths, bias, the largest finite code
without its sign, and which special encodings exist (R216, R217). -/
structure FFmt where
  ebits : Nat
  mbits : Nat
  bias : Nat
  maxCode : Nat
  hasInf : Bool
  hasNan : Bool
  nanCode : Nat
  deriving DecidableEq, Repr

def ffFP32 : FFmt := ⟨8, 23, 127, 0x7F7FFFFF, true, true, 0x7FC00000⟩
def ffBF16 : FFmt := ⟨8, 7, 127, 0x7F7F, true, true, 0x7FC0⟩
def ffFP16 : FFmt := ⟨5, 10, 15, 0x7BFF, true, true, 0x7E00⟩
def ffE4M3 : FFmt := ⟨4, 3, 7, 0x7E, false, true, 0x7F⟩
def ffE5M2 : FFmt := ⟨5, 2, 15, 0x7B, true, true, 0x7E⟩
def ffE3M2 : FFmt := ⟨3, 2, 3, 0x1F, false, false, 0⟩
def ffE2M3 : FFmt := ⟨2, 3, 1, 0x1F, false, false, 0⟩
def ffE2M1 : FFmt := ⟨2, 1, 1, 0x7, false, false, 0⟩

/-- The bits of one element (R216). -/
def FFmt.width (f : FFmt) : Nat := 1 + f.ebits + f.mbits

/-- How a result is rounded (R221). `stoch r` carries the 32-bit random value of R225. -/
inductive RMode where
  | rne
  | rtz
  | stoch (r : Nat)
  deriving DecidableEq, Repr

/-- The floating layout an element-format code names, for codes 0x0–0x9 (R216); the block-scaled codes name
the layout of their elements. -/
def fmtFloat? : Nat → Option FFmt
  | 0x0 => some ffFP32
  | 0x1 => some ffBF16
  | 0x2 => some ffFP16
  | 0x3 => some ffE4M3
  | 0x4 => some ffE5M2
  | 0x5 => some ffE4M3
  | 0x6 => some ffE5M2
  | 0x7 => some ffE3M2
  | 0x8 => some ffE2M3
  | 0x9 => some ffE2M1
  | _ => none

/-- The element-format codes that scale blocks of 32 elements (R216, R218). -/
def fmtIsBlock (c : Nat) : Bool := decide (5 ≤ c) && decide (c ≤ 9)

/-- The plain floating codes 0x0–0x4. -/
def fmtIsPlainFloat (c : Nat) : Bool := decide (c ≤ 4)

/-- The integer codes 0xA–0xD. -/
def fmtIsInt (c : Nat) : Bool := decide (0xA ≤ c) && decide (c ≤ 0xD)

/-- Bits per element of an element-format code (R216). -/
def fmtBits : Nat → Nat
  | 0x0 => 32
  | 0x1 => 16
  | 0x2 => 16
  | 0x3 => 8
  | 0x4 => 8
  | 0x5 => 8
  | 0x6 => 8
  | 0x7 => 6
  | 0x8 => 6
  | 0x9 => 4
  | 0xA => 8
  | 0xB => 32
  | 0xC => 64
  | 0xD => 128
  | _ => 0

/-- Whether an element-format code is assigned (R216). -/
def fmtValid (c : Nat) : Bool := decide (c ≤ 0xD)

/-- Whether a code may stand in a tile descriptor or a stream (R216). -/
def fmtTileValid (c : Nat) : Bool := decide (c ≤ 0xC)

/-- Whether a code may be an ATOMIC TYPE (R216). -/
def fmtAtomicValid (c : Nat) : Bool := decide (c ≤ 4) || decide (c = 0xB) || decide (c = 0xC) || decide (c = 0xD)

/-! ### Decoding -/

/-- The exact value of an element encoding (R217). -/
def ffDecode (f : FFmt) (code : Nat) : FVal :=
  let neg := decide (code / 2 ^ (f.ebits + f.mbits) % 2 = 1)
  let e := code / 2 ^ f.mbits % 2 ^ f.ebits
  let m := code % 2 ^ f.mbits
  let allOnes := decide (e = 2 ^ f.ebits - 1)
  if f.hasInf && allOnes then (if m = 0 then .inf neg else .nan)
  else if f.hasNan && !f.hasInf && allOnes && decide (m = 2 ^ f.mbits - 1) then .nan
  else if e = 0 then .fin neg m (1 - (f.bias : Int) - f.mbits)
  else .fin neg (2 ^ f.mbits + m) ((e : Int) - f.bias - f.mbits)

/-! ### Rounding (R221, R222, R225) -/

/-- A magnitude `m × 2^e` rounded to a whole number of `2^q`. -/
def roundQuantum (mode : RMode) (m : Nat) (e q : Int) : Nat :=
  if q ≤ e then m * 2 ^ (e - q).toNat
  else
    let sh := (q - e).toNat
    let d := m / 2 ^ sh
    let r := m % 2 ^ sh
    match mode with
    | .rtz => d
    | .rne =>
      if 2 * r > 2 ^ sh then d + 1
      else if 2 * r = 2 ^ sh then (if d % 2 = 1 then d + 1 else d)
      else d
    | .stoch rnd =>
      let f := r * 2 ^ 32 / 2 ^ sh
      if f + rnd % 2 ^ 32 ≥ 2 ^ 32 then d + 1 else d

/-- The binary exponent of a non-zero magnitude `m × 2^e`: the largest `k` with `2^k` at or below it. -/
def magExp (m : Nat) (e : Int) : Int := (Nat.log2 m : Int) + e

/-- The result of rounding into a format: its code, and whether it counts as an overflow or a NaN (R224). -/
structure Rounded where
  code : Nat
  ovf : Bool
  isNan : Bool
  deriving DecidableEq, Repr

/-- Rounds an exact value into a floating format (R221, R222). A NaN takes the canonical encoding; a
format without NaN gets code 0 and the caller marks the block. -/
def ffRound (f : FFmt) (mode : RMode) (v : FVal) : Rounded :=
  let sbit (neg : Bool) : Nat := if neg then 2 ^ (f.ebits + f.mbits) else 0
  let infCode := 2 ^ f.mbits * (2 ^ f.ebits - 1)
  match v with
  | .nan => ⟨f.nanCode, false, true⟩
  | .inf neg => if f.hasInf then ⟨infCode + sbit neg, false, false⟩ else ⟨f.maxCode + sbit neg, true, false⟩
  | .fin neg m e =>
    if m = 0 then ⟨sbit neg, false, false⟩
    else
      let emin : Int := 1 - f.bias
      let ex := magExp m e
      let base := if ex < emin then emin else ex
      let k := roundQuantum mode m e (base - f.mbits)
      let code :=
        if ex < emin then k
        else ((ex + f.bias).toNat) * 2 ^ f.mbits + (k - 2 ^ f.mbits)
      if code > f.maxCode then
        match mode with
        | .rne => ⟨(if f.hasInf then infCode else f.maxCode) + sbit neg, true, false⟩
        | _ => ⟨f.maxCode + sbit neg, true, false⟩
      else ⟨code + sbit neg, false, false⟩

/-! ### Exact arithmetic -/

/-- The signed mantissas of two finite values over one exponent. -/
def fvAlign (n1 : Bool) (m1 : Nat) (e1 : Int) (n2 : Bool) (m2 : Nat) (e2 : Int) : Int × Int × Int :=
  let e := min e1 e2
  let a : Int := m1 * 2 ^ (e1 - e).toNat
  let b : Int := m2 * 2 ^ (e2 - e).toNat
  (if n1 then -a else a, if n2 then -b else b, e)

/-- The exact sum (R221: an exact zero sum of operands with opposite signs is +0). -/
def fvAdd (x y : FVal) : FVal :=
  match x, y with
  | .nan, _ => .nan
  | _, .nan => .nan
  | .inf a, .inf b => if a = b then .inf a else .nan
  | .inf a, .fin _ _ _ => .inf a
  | .fin _ _ _, .inf b => .inf b
  | .fin n1 m1 e1, .fin n2 m2 e2 =>
    let (a, b, e) := fvAlign n1 m1 e1 n2 m2 e2
    let s := a + b
    if s = 0 then .fin (n1 && n2) 0 e else .fin (decide (s < 0)) s.natAbs e

/-- The exact product. -/
def fvMul (x y : FVal) : FVal :=
  match x, y with
  | .nan, _ => .nan
  | _, .nan => .nan
  | .inf a, .inf b => .inf (a != b)
  | .inf a, .fin b m _ => if m = 0 then .nan else .inf (a != b)
  | .fin a m _, .inf b => if m = 0 then .nan else .inf (a != b)
  | .fin a m e, .fin b k g => .fin (a != b) (m * k) (e + g)

/-- The value with its sign turned. -/
def fvNeg : FVal → FVal
  | .nan => .nan
  | .inf a => .inf (!a)
  | .fin a m e => .fin (!a) m e

/-- The value with its sign cleared. -/
def fvAbs : FVal → FVal
  | .nan => .nan
  | .inf _ => .inf false
  | .fin _ m e => .fin false m e

/-- Whether `x < y`, for values that are not NaN; −0 and +0 are equal. -/
def fvLt (x y : FVal) : Bool :=
  match x, y with
  | .nan, _ => false
  | _, .nan => false
  | .inf a, .inf b => a && !b
  | .inf a, .fin _ _ _ => a
  | .fin _ _ _, .inf b => !b
  | .fin n1 m1 e1, .fin n2 m2 e2 =>
    let (a, b, _) := fvAlign n1 m1 e1 n2 m2 e2
    decide (a < b)

/-- Whether two values are equal as numbers; NaN equals nothing. -/
def fvEq (x y : FVal) : Bool :=
  match x, y with
  | .nan, _ => false
  | _, .nan => false
  | .inf a, .inf b => a == b
  | .inf _, .fin _ _ _ => false
  | .fin _ _ _, .inf _ => false
  | .fin n1 m1 e1, .fin n2 m2 e2 =>
    let (a, b, _) := fvAlign n1 m1 e1 n2 m2 e2
    decide (a = b)

def fvIsNan : FVal → Bool
  | .nan => true
  | _ => false

def fvIsInf : FVal → Bool
  | .inf _ => true
  | _ => false

/-- Whether the value carries a negative sign (a zero may). -/
def fvSign : FVal → Bool
  | .nan => false
  | .inf a => a
  | .fin a _ _ => a

/-- The larger value; a NaN in either gives NaN, and the larger of +0 and −0 is +0 (R227). -/
def fvMax (x y : FVal) : FVal :=
  if fvIsNan x || fvIsNan y then .nan
  else if fvLt x y then y
  else if fvLt y x then x
  else if fvSign x then y else x

/-- The smaller value; a NaN in either gives NaN, and the smaller of +0 and −0 is −0. -/
def fvMin (x y : FVal) : FVal :=
  if fvIsNan x || fvIsNan y then .nan
  else if fvLt x y then x
  else if fvLt y x then y
  else if fvSign x then x else y

/-- A value scaled by `2^k` exactly. -/
def fvScale (x : FVal) (k : Int) : FVal :=
  match x with
  | .fin n m e => .fin n m (e + k)
  | v => v

/-- The exact value of an integer. -/
def fvOfInt (i : Int) : FVal := .fin (decide (i < 0)) i.natAbs 0

/-! ### Integers (R223) -/

/-- The signed value of the `w` low bits of `n`. -/
def toSigned (w n : Nat) : Int :=
  let m := n % 2 ^ w
  if m ≥ 2 ^ (w - 1) then (m : Int) - 2 ^ w else m

/-- The two's complement code of `i` in `w` bits, wrapping. -/
def ofSigned (w : Nat) (i : Int) : Nat := (i % (2 ^ w : Int)).toNat

/-- The code of `i` in `w` bits, saturating, and whether it saturated. -/
def satSigned (w : Nat) (i : Int) : Nat × Bool :=
  let hi : Int := 2 ^ (w - 1) - 1
  let lo : Int := -(2 ^ (w - 1))
  if i > hi then (ofSigned w hi, true) else if i < lo then (ofSigned w lo, true) else (ofSigned w i, false)

/-- A floating value converted to a `w`-bit integer: rounded, saturated, NaN to 0 (R223). -/
def fvToInt (w : Nat) (mode : RMode) (v : FVal) : Rounded :=
  match v with
  | .nan => ⟨0, false, true⟩
  | .inf neg => ⟨ofSigned w (if neg then -(2 ^ (w - 1)) else 2 ^ (w - 1) - 1), true, false⟩
  | .fin neg m e =>
    let k : Int := roundQuantum mode m e 0
    let (c, s) := satSigned w (if neg then -k else k)
    ⟨c, s, false⟩

/-! ### Block scaling (R218, R226) -/

/-- The largest exponent of an element format, used to choose a block's scale (R226 step 4). -/
def blockEmax : Nat → Nat
  | 0x5 => 8
  | 0x6 => 15
  | 0x7 => 4
  | _ => 2

/-- One block of a block-scaled array: its scale byte and its element codes. -/
structure ScaledBlock where
  scale : Nat
  elems : List Nat
  deriving DecidableEq, Repr

/-- The exact values of a block; scale byte 0xFF makes every element NaN (R218). -/
def blockValues (fmt : Nat) (b : ScaledBlock) : List FVal :=
  match fmtFloat? fmt with
  | none => []
  | some f =>
    b.elems.map fun c => if b.scale = 0xFF then .nan else fvScale (ffDecode f c) ((b.scale : Int) - 127)

/-- A quantised block with its overflow and NaN counts (R222, R226). -/
structure Quantised where
  block : ScaledBlock
  ovf : Nat
  nans : Nat
  deriving DecidableEq, Repr

/-- The larger binary exponent of the finite non-zero values of a list, if there is one. -/
def maxMagExp : List FVal → Option Int
  | [] => none
  | .fin _ m e :: rest =>
    if m = 0 then maxMagExp rest
    else match maxMagExp rest with
      | none => some (magExp m e)
      | some x => some (max x (magExp m e))
  | _ :: rest => maxMagExp rest

/-- Quantises up to 32 values into one block under R226. `mode i` is the rounding of element `i`. -/
def quantiseBlock (fmt : Nat) (mode : Nat → RMode) (vs : List FVal) : Quantised :=
  match fmtFloat? fmt with
  | none => ⟨⟨0, []⟩, 0, 0⟩
  | some f =>
    if vs.any fvIsNan then ⟨⟨0xFF, vs.map fun _ => 0⟩, 0, 32⟩
    else
      let x : Int :=
        match maxMagExp vs with
        | none => 0x7F
        | some k =>
          let c := k - blockEmax fmt + 127
          if c < 0 then 0 else if c > 0xFE then 0xFE else c
      let one (i : Nat) (v : FVal) : Nat × Nat :=
        match v with
        | .inf neg => (f.maxCode + (if neg then 2 ^ (f.ebits + f.mbits) else 0), 1)
        | .fin neg m e =>
          let r := ffRound f (mode i) (.fin neg m (e - (x - 127)))
          if r.ovf then (f.maxCode + (if neg then 2 ^ (f.ebits + f.mbits) else 0), 0) else (r.code, 0)
        | .nan => (0, 0)
      let rs := vs.mapIdx one
      ⟨⟨x.toNat, rs.map Prod.fst⟩, (rs.map Prod.snd).sum, 0⟩

/-- Packs a block's element codes into its bytes, element `i` at bit `bits × i` (R219). -/
def packElems (bits : Nat) (es : List Nat) : Bytes :=
  let n := (es.mapIdx fun i c => (c % 2 ^ bits) * 2 ^ (bits * i)).sum
  leBytes (ceilDiv (bits * es.length) 8) n

/-- Reads `count` element codes of `bits` bits from bytes (R219). -/
def unpackElems (bits count : Nat) (bs : Bytes) : List Nat :=
  let n := leNat bs
  (List.range count).map fun i => n / 2 ^ (bits * i) % 2 ^ bits

/-! ### Stochastic rounding (R225) -/

/-- The 32-bit random value of the element at index `i` of a stream with seed `s` (R225). -/
def stochRandom (s i : Nat) : Nat :=
  let w := 2 ^ 64
  let z := (s + 0x9E3779B97F4A7C15 * (i + 1)) % w
  let z := ((z ^^^ (z / 2 ^ 30)) * 0xBF58476D1CE4E5B9) % w
  let z := ((z ^^^ (z / 2 ^ 27)) * 0x94D049BB133111EB) % w
  let z := z ^^^ (z / 2 ^ 31)
  z % 2 ^ 32

/-- Counts saturate at 0xFFFF_FFFF (R224). -/
def satCount (n : Nat) : Nat := min n 0xFFFFFFFF

/-! ### ATOMIC (R227, R228) -/

/-- The width in bytes of an ATOMIC TYPE (R228). -/
def atomicWidth (ty : Nat) : Nat := fmtBits ty / 8

/-- Whether R227 permits the pairing of an operation and a type. -/
def atomicPairOk (aop ty : Nat) : Bool :=
  if aop ≤ 0x9 then decide (ty = 0xB) || decide (ty = 0xC) || decide (ty = 0xD)
  else if aop ≤ 0xB then decide (ty ≤ 4)
  else false

/-- The outcome of an atomic: the new value and whether it counts as overflow or NaN (R230). -/
structure AtomicOut where
  value : Nat
  ovf : Bool
  isNan : Bool
  deriving DecidableEq, Repr

/-- The new value of an atomic's operand (R227): `old` is the value held, `a` and `b` the operands. -/
def atomicApply (aop ty old a b : Nat) : AtomicOut :=
  let w := fmtBits ty
  let plain (n : Nat) : AtomicOut := ⟨n, false, false⟩
  match aop with
  | 0x0 => plain ((old + a) % 2 ^ w)
  | 0x1 => plain (if toSigned w a < toSigned w old then a else old)
  | 0x2 => plain (if toSigned w old < toSigned w a then a else old)
  | 0x3 => plain (if a < old then a else old)
  | 0x4 => plain (if old < a then a else old)
  | 0x5 => plain (old &&& a)
  | 0x6 => plain (old ||| a)
  | 0x7 => plain (old ^^^ a)
  | 0x8 => plain a
  | 0x9 => plain (if old = a then b else old)
  | 0xA =>
    match fmtFloat? ty with
    | none => plain old
    | some f =>
      let r := ffRound f .rne (fvAdd (ffDecode f old) (ffDecode f a))
      ⟨r.code, r.ovf, r.isNan⟩
  | 0xB =>
    match fmtFloat? ty with
    | none => plain old
    | some f =>
      let r := ffRound f .rne (fvMax (ffDecode f old) (ffDecode f a))
      ⟨r.code, r.ovf, r.isNan⟩
  | _ => plain old

/-! ### TILE_ACC elements (R236) -/

/-- Adds one incoming element into a stored element of a format that is not block-scaled (R236). -/
def accElem (fmt old inc : Nat) : Rounded :=
  match fmtFloat? fmt with
  | some f => ffRound f .rne (fvAdd (ffDecode f old) (ffDecode f inc))
  | none =>
    let w := fmtBits fmt
    if fmt = 0xA then
      let (c, s) := satSigned 8 (toSigned 8 old + toSigned 8 inc)
      ⟨c, s, false⟩
    else ⟨(old + inc) % 2 ^ w, false, false⟩

/-- A value rounded to FP32 with RNE, as an exact value again. -/
def viaFP32 (v : FVal) : FVal := ffDecode ffFP32 (ffRound ffFP32 .rne v).code

/-- Adds one incoming block into a stored block (R236): exact sums, each rounded to FP32, requantised. -/
def accBlock (fmt : Nat) (old inc : ScaledBlock) : Quantised :=
  if old.scale = 0xFF ∨ inc.scale = 0xFF then ⟨⟨0xFF, old.elems.map fun _ => 0⟩, 0, 32⟩
  else
    let sums := List.zipWith (fun x y => viaFP32 (fvAdd x y)) (blockValues fmt old) (blockValues fmt inc)
    quantiseBlock fmt (fun _ => .rne) sums

end Sys2Proof.Machine
end

