-- ==== Sys2Proof/Config.lean ====
section
/-! DEFINITION. What one module fixes and what the manual leaves open. A constant without a body is a free value:
nothing can be proved of it, so a claim holds whatever it is. -/

namespace Sys2Proof

/-! ### Fixed at manufacture -/

/-- PART_ID (R513). -/
def Config.partId : Nat := 0x5D960001

/-- STEPPING of the part this manual describes, B0 (R513). -/
def Config.stepping : Nat := 0x10

/-- GRADE: true for ULM-SX96-E (R513). -/
opaque Config.gradeE : Bool

/-- SERIAL_HASH (R513). -/
opaque Config.serialHash : BitVec 64

/-- The fused 256-bit unit secret (R592). -/
opaque Config.unitSecret : BitVec 256

/-- The Uliral firmware-signing public key (R571). -/
opaque Config.firmwareKey : BitVec 256

/-- The boundary-scan IDCODE and other I3C identity bytes the manual does not give (R539), by CCC and byte. -/
opaque Config.i3cIdentity : Nat → Nat → BitVec 8

/-- The instruction-register value of a TAP instruction that the manual gives no code (R590): EXTEST. -/
opaque Config.tapExtest : BitVec 8

/-- Bytes of one row of a tile-store sub-array (R473). -/
opaque Config.rowBytes : Nat

/-! ### Functions the manual names and does not give -/

/-- The hash that chooses a translation-cache set from a context and a PVA bucket (R85). -/
opaque Config.xlateSet : Nat → Nat → BitVec 11

/-- The hash that chooses a stack-cache set from a 64 KiB block number (R302), before reduction to the number
of sets. -/
opaque Config.frameSet : Nat → Nat

/-- A candidate result of an approximated micro-op within the bound of R268: micro-op and operand. -/
opaque Config.approx : Nat → Nat → BitVec 32

/-- The key by which the lanes of a block are ordered for the fixed pairwise order of reductions (R273). -/
opaque Config.laneKey : Nat → Nat

/-- The key by which the tiles' copies of an accumulator are ordered when they are combined, by free value and tile
(R273: in no fixed order). -/
opaque Config.tileKey : Nat → Nat → Nat

/-- Which of its targets Masque takes, from the mixer's value and the number of targets (R496). -/
opaque Config.masquePick : Nat → Nat → Nat

/-! ### Free values, one for each value of the model's own counter -/

/-- DCYC of an event: the cycles of a clock since the start (R524). -/
opaque Config.cycles : Nat → BitVec 64

/-- ENTROPY of a packet the module sends: the sender's choice (R112). -/
opaque Config.entropy : Nat → BitVec 5

/-- CHALLENGE drawn from the random source (R578). -/
opaque Config.challenge : Nat → BitVec 64

/-- The low byte of the CODE of an event whose code the manual does not give (R525), by the model's number of
the event. -/
opaque Config.logLow : Nat → BitVec 8

/-- The SEV of an event whose severity the manual does not give (R524), by the model's number of the event. -/
opaque Config.logSev : Nat → Fin 5

/-- DOMAIN of an event: the clock its cycles are counted on (R525). -/
opaque Config.logDomain : Nat → Fin 20

/-- A value that the manual states no value for, where none of the constants above names it. -/
opaque Config.freeWord : Nat → BitVec 64

end Sys2Proof
end

