-- ==== Sys2Proof/Machine/State.lean ====
section
/-! DEFINITION. What the machine holds, as plain data: the commands that wait, the data plane (Node) and
Halord. Every field names the rule of the manual that gives it; its value at reset stands in the `reset`
definitions at the end. -/

namespace Sys2Proof.Machine

/-! ### Contexts, keys and ranges (chapter 02) -/

/-- One range entry of a context's range table (R71), with the map state of its span (R417, R424). -/
structure Range where
  /-- First PVA; 64 KiB-aligned (R71 word 0). -/
  start : Nat
  /-- Length in 64 KiB granules (R71 word 1). -/
  gran : Nat
  /-- Shadow offset or fill pattern (R71 word 1). -/
  dlAux : Nat
  /-- First local offset (R71 word 2). -/
  localOff : Nat
  /-- The mirror with ROLE 0, the primary with ROLE 1, 0 when not mirrored (R71 word 2). -/
  peer : Nat
  r : Bool
  w : Bool
  a : Bool
  /-- 0 STACK_PINNED, 1 TIERED, 2 DENSE_DIRECT, 3 TILE_PINNED, 4 LENT (R294). -/
  resClass : Nat
  nc : Bool
  comp : Bool
  poisonOnLoss : Bool
  /-- 0 WAIT, 1 SHADOW, 2 FILL, 3 FAIL (R318). -/
  dlPolicy : Nat
  /-- ROLE 1: this module is the mirror home. -/
  mirrorRole : Bool
  shared : Bool
  shareSlot : Nat
  shadowFmt : Nat
  lenderNode : Nat
  lenderAddr : Nat
  /-- Range generation (R72). -/
  gen : Nat
  /-- ARRIVING under R424 step 2; the node allowed to forward into it, or 0. -/
  arrivingFrom : Nat
  /-- A second node whose forwards are accepted: the Leap target after LEAP_PEER (R424 step 4). -/
  peer2 : Nat
  /-- Departed under R417: requests are answered MOVED. -/
  departed : Bool
  /-- Its drive or lender is lost: requests are refused with RETRY until the map changes (R298, R327). -/
  storeLost : Bool
  deriving DecidableEq, Repr

/-- One key slot: the inputs it was derived from and the derived key pair; `keys` is empty after
zeroisation (R66, R93). -/
structure KeySlot where
  gen : Nat
  salt : Nat
  /-- SHARE_ID of a share key, the context of a context key. -/
  ident : Nat
  /-- Data key then tweak key, 64 bytes; the empty list once zeroised. -/
  keys : Bytes
  deriving DecidableEq, Repr

/-- One entry of a composition-map image (R407). -/
structure MapEntry where
  start : Nat
  chunks : Nat
  primary : Nat
  mirror : Nat
  egen : Nat
  lost : Bool
  /-- 0 PUT, 1 REMOVE in a proposal; 0 in an image. -/
  op : Nat
  deriving DecidableEq, Repr

/-- One composition-map image (R407). -/
structure MapImage where
  ctx : Nat
  gen : Nat
  keepers : List Nat
  entries : List MapEntry
  deriving DecidableEq, Repr

/-- One context slot (R62). -/
structure CtxSlot where
  /-- Which of the 4,096 slots it is. -/
  slotNo : Nat
  key : KeySlot
  /-- The admission set as the 8 KiB bitmap of R87: bit n is set when node n is admitted (R63). -/
  admits : Nat
  /-- The range table by START (R71, R86). -/
  ranges : Tbl Range
  /-- The range-generation counter (R72). -/
  nextGen : Nat
  /-- The context's map keepers, or none given (R65, R624). -/
  keepers : List Nat
  /-- CUR_GEN (R417). -/
  curGen : Nat
  /-- The kept map entries of R417. -/
  kept : List MapEntry
  deriving DecidableEq, Repr

/-- One revocation (R433, R434). -/
structure Revocation where
  ctx : Nat
  start : Nat
  gran : Nat
  deriving DecidableEq, Repr

/-- A cached copy of a range entry in the translation cache (R85): the slot and bucket it serves. -/
structure XlateCopy where
  slotNo : Nat
  bucket : Nat
  range : Range
  deriving DecidableEq, Repr

/-- A removed range whose local span is not yet freed (R78 steps 2 to 5). -/
structure FreeingRange where
  ctx : Nat
  range : Range
  /-- The RANGE_CLEAR command that removed it. -/
  tid : Nat
  deriving DecidableEq, Repr

/-- The context slots and what belongs to them (chapter 02). -/
structure Contexts where
  /-- Active contexts by context ID (R62). -/
  slots : Tbl CtxSlot
  /-- Share-key slots 0–1,023 (R65). -/
  shares : Tbl KeySlot
  /-- Revocations, at most 1,024 (R434). -/
  revs : List Revocation
  /-- Spans removed by RANGE_CLEAR and not yet freed (R78). -/
  freeing : List FreeingRange
  /-- The translation cache by set, most recently used first (R85). -/
  xlate : Tbl (List XlateCopy)
  /-- Full map images held for engine commands, at most 256 (R624). -/
  images : Tbl MapImage
  deriving DecidableEq, Repr

/-! ### Command rings (chapter 01) -/

/-- One command ring: its control block and its 64 KiB of storage (R37–R50). -/
structure Ring where
  /-- Live RING_CFG (R41). -/
  cfgLive : Word
  /-- Staged RING_CFG (R41). -/
  cfgStage : Word
  /-- RING_HEAD.HEAD (R44). -/
  head : Nat
  /-- RING_HEAD.PHASE (R44). -/
  phase : Bool
  /-- RING_STATUS: bit 0 OVERRUN, bit 1 CFG_ERR, bit 2 DIRECT_WR (R45). -/
  status : Word
  /-- RING_INFLIGHT (R46). -/
  inflight : Nat
  /-- The tail hint of the last doorbell (R43). -/
  tailHint : Nat
  /-- A commit cleared ENABLE, or an overrun stopped the ring, and INFLIGHT has not reached 0 since (R42, R50). -/
  draining : Bool
  /-- Stopped under R50 until disabled and enabled again. -/
  stopped : Bool
  /-- The engine stopped consuming for want of a tracker (R51). -/
  stalled : Bool
  /-- The ring's slots, 64 bytes each; unlisted bytes read 0 (R42, R48). -/
  storage : Tbl Byte
  /-- SRC_NODE of the store that wrote each slot (R389). -/
  writers : Tbl Nat
  /-- The generation of RING_CFG (R456, R460). -/
  gen : Nat
  deriving DecidableEq, Repr

/-- Where a consumed command stands. -/
inductive CmdPhase where
  /-- Consumed into a tracker and not started (R48). -/
  | consumed
  /-- Started; some of its effects or waits remain. -/
  | running
  /-- Ended with its status; its record is not written yet (R55). -/
  | ended
  /-- Its record has been sent to CMP_NODE and is not acknowledged (R55). -/
  | recordSent
  /-- Its record is acknowledged or not due; its counter increment is due (R55). -/
  | countDue
  /-- Its counter PROBE to another module is not answered (R153). -/
  | countSent
  deriving DecidableEq, Repr

/-- One consumed command (R48, R52): its descriptor and its progress. -/
structure Cmd where
  /-- 0 for the admin ring, the context of a context ring. -/
  ring : Nat
  /-- The command came from a counter trigger and holds no ring slot (R166, R280). -/
  fired : Bool
  slot : Nat
  /-- The descriptor's eight words (R52). -/
  desc : List Word
  /-- SRC_NODE of the store that wrote the descriptor (R389). -/
  writer : Nat
  /-- The region whose tracker it holds (R37). -/
  region : Nat
  /-- The place in the module's order of consumption. -/
  order : Nat
  phase : CmdPhase
  status : Nat
  result0 : Word
  /-- Word 3 of the completion record (R54). -/
  word3 : Word
  /-- Bytes written into home space, for a BYTES counter (R153). -/
  landed : Nat
  /-- SET_ERR of the counter increment (R153). -/
  setErr : Bool
  /-- A step number of the command's own procedure, while it runs. -/
  stage : Nat
  /-- Counts and positions of a running command, in its own order. -/
  work : List Nat
  /-- Trackers and requests the command still waits for (R78, R79, R433). -/
  waits : List Nat
  /-- It has stored to a mirrored range (R414). -/
  mirrored : Bool
  deriving DecidableEq, Repr

/-! ### Requests in flight -/

/-- A unit that a request commits in one step: the stored lines it touches, each with its PVA, and the
bytes of the payload it carries (R144, R238). -/
structure CommitUnit where
  /-- Local line number and the PVA of that line. -/
  lines : List (Nat × Nat)
  payOff : Nat
  payLen : Nat
  deriving DecidableEq, Repr

/-- One line that a read has taken at a single version. -/
structure ReadLine where
  line : Nat
  pva : Nat
  data : Bytes
  poison : Bool
  cheap : Bool
  deriving DecidableEq, Repr

/-- The state of one admitted request (R17). -/
structure Req where
  pkt : Packet
  /-- The region that admitted it (R17). -/
  region : Nat
  escalated : Bool
  /-- Commit units not yet performed, in commit order (R238). -/
  units : List CommitUnit
  /-- Lines a read has taken so far. -/
  taken : List ReadLine
  landed : Nat
  ovf : Nat
  nans : Nat
  /-- The prior value of an ATOMIC (R230). -/
  result : Bytes
  /-- The final status, once every unit is done or the request has stopped. -/
  status : Option Nat
  /-- GRANT of a caching read (R177). -/
  grant : Nat
  /-- Forwards sent for it and not answered, by destination and SEQ (R375). -/
  fwds : List (Nat × Nat)
  /-- Range entries it was admitted under: START and GEN (R79). -/
  under : List (Nat × Nat)
  /-- Every line it touches, with its PVA. -/
  lines : List (Nat × Nat)
  /-- Its response waits for the resync of its lines (R398). -/
  lostState : Bool
  /-- The deadline has passed with lines unread (R318). -/
  late : Bool
  /-- Chunks, by Leap, that must be copied again before the store ends (R428). -/
  recopy : List (Nat × Nat)
  deriving DecidableEq, Repr

/-- A starvation record (R206). -/
structure StarveRec where
  src : Nat
  seq : Nat
  count : Nat
  deriving DecidableEq, Repr

/-- The trackers and what surrounds them. -/
structure Trackers where
  /-- Admitted requests by tracker number. -/
  reqs : Tbl Req
  /-- Consumed commands by tracker number. -/
  cmds : Tbl Cmd
  /-- The next tracker number, and the order of admission. -/
  nextTid : Nat
  /-- Starvation records by region (R206). -/
  starve : Tbl (List StarveRec)
  /-- Escalation queues by region: source and SEQ (R207). -/
  escal : Tbl (List (Nat × Nat))
  deriving DecidableEq, Repr

/-! ### Coherence (chapter 05) -/

/-- One directory entry (R180). -/
structure DirEntry where
  /-- STATE: true for E/M, false for S. -/
  excl : Bool
  /-- FORMAT: true for coarse. -/
  coarse : Bool
  /-- Node IDs of a pointer entry; in E/M the first is the owner. -/
  ptrs : List Nat
  /-- Group bits of a coarse entry. -/
  groups : Nat
  /-- The order in which the entry was granted (R182). -/
  age : Nat
  ctx : Nat
  pva : Nat
  deriving DecidableEq, Repr

/-- Why a recall was sent. -/
inductive RecallCause where
  | request
  | victim
  | revoke (tid : Nat)
  | clear (tid : Nat)
  | restore (tid : Nat)
  | leap (tid : Nat)
  deriving DecidableEq, Repr

/-- One node a recall was sent to. -/
structure RecallLeg where
  node : Nat
  seq : Nat
  /-- WB_PENDING was received; its WB_EVICT is awaited (R192). -/
  wbPending : Bool
  deriving DecidableEq, Repr

/-- The recall or invalidation outstanding on a line (R183, R188). -/
structure Recall where
  /-- 0x40 INV, 0x41 RECALL_INV, 0x42 RECALL_SHARE. -/
  opcode : Nat
  legs : List RecallLeg
  cause : RecallCause
  ctx : Nat
  pva : Nat
  deriving DecidableEq, Repr

/-- A copy of a line in a tile's operand buffer (R201). -/
structure OperandCopy where
  ctx : Nat
  line : Nat
  nc : Bool
  data : Bytes
  deriving DecidableEq, Repr

/-- A lent-table entry (R202). -/
structure LentEntry where
  ctx : Nat
  line : Nat
  deriving DecidableEq, Repr

/-- A mirror-dirty line (R191, R396). -/
structure MdLine where
  /-- A WB_EVICT whose WB_ACK waits for the forward: sender, SEQ and TAG. -/
  evict : Option (Nat × Nat × Nat)
  /-- The mark is held in the mirror-dirty list, not in a directory entry (R396). -/
  inList : Bool
  /-- The line's forward state was lost and its resync is due (R397). -/
  resync : Bool
  /-- Forwards of the line not yet answered: destination and SEQ. -/
  fwds : List (Nat × Nat)
  ctx : Nat
  pva : Nat
  /-- Requests that answer a mirror's resync READ (R476). -/
  askers : List Packet
  /-- Commands whose completion waits for the line's resync (R398). -/
  cmds : List Nat
  deriving DecidableEq, Repr

/-- The coherence state of the home (R180–R203). -/
structure Coherence where
  /-- The directory by line (R180). -/
  dir : Tbl DirEntry
  /-- The grant order counter. -/
  ages : Nat
  /-- Recalls outstanding by line: PENDING is set while one is (R180, R188). -/
  recalls : Tbl Recall
  /-- Operand buffers by tile (R201). -/
  opbuf : Tbl (List OperandCopy)
  /-- Lent tables by home tile, oldest entry first (R202). -/
  lent : Tbl (List LentEntry)
  /-- Snoop-ring invalidations outstanding, by line, with their context (R25, R203). -/
  snoops : Tbl Nat
  /-- Mirror-dirty lines (R191, R396). -/
  mdirty : Tbl MdLine
  /-- Poisoned lines, by local line number (R210). -/
  poison : List Nat
  deriving DecidableEq, Repr

/-! ### Pairs (chapters 03 and 04) -/

/-- What a packet sent and not yet answered was sent for. -/
inductive SentFor where
  | none
  /-- A forward of a request (R372). -/
  | forward (tid : Nat)
  /-- A forward the primary composed for a line: write-back, resync (R372, R397). -/
  | lineForward (line : Nat)
  /-- A forward of a command's own store (program commit, publish, drain, Leap copy). -/
  | cmdForward (tid : Nat)
  /-- A READ or WRITE of a COPY or FILL engine, or of an index command or coordinator. -/
  | engine (tid : Nat) (step : Nat)
  /-- A READ or WRITE of LENT storage, by 4 KiB block (R297). -/
  | lender (block : Nat)
  /-- A completion or notification record (R54, R165). -/
  | record (tid : Nat)
  /-- The counter PROBE of a command (R153). -/
  | countProbe (tid : Nat)
  /-- A repair read or resync read of a line (R475, R476). -/
  | repair (line : Nat)
  /-- The same for a line of an image copy (R474, R475). -/
  | repairImage (line : Nat)
  /-- A chunk of a Leap (R424). -/
  | leapChunk (leap : Nat) (chunk : Nat)
  /-- A LEAP_OPEN, LEAP_PEER or proposal of a Leap (R424). -/
  | leap (k : Nat)
  /-- A drain store of a chunk (R392). -/
  | drain (part : Nat) (chunk : Nat)
  /-- A part's cohort record (R386). -/
  | partRecord (part : Nat)
  /-- A protocol message that awaits its answer. -/
  | protocol
  deriving DecidableEq, Repr

/-- A packet sent and not yet answered (R130, R131). -/
structure Unanswered where
  pkt : Packet
  purpose : SentFor
  /-- Refused with RETRY; its re-send waits (R626). -/
  backoff : Bool
  /-- It was sent before the previous SEQ_SYNC from the peer arrived (R131). -/
  beforeSync : Bool
  deriving DecidableEq, Repr

/-- The state of one pair (own node, peer) (R122–R131, R142). -/
structure Pair where
  /-- The pair is usable: ACK 1 was received after ACK 0 was sent (R122). -/
  usable : Bool
  /-- A SEQ_RESET with ACK 0 was sent and is repeated until usable (R122). -/
  resetting : Bool
  /-- The incarnation last recorded for the peer (R122). -/
  inc : Option Nat
  /-- The next SEQ for classes 0–5 (R122). -/
  next : List Nat
  /-- The delivered point of REQ, FWD and MGT (R126). -/
  deliv : List Nat
  /-- Packets waiting in the reorder buffer (R126). -/
  reorder : List Packet
  /-- The last 1,024 SEQs received of RSP, DAT and CMP (R128). -/
  dups : List (List Nat)
  /-- Packets sent and not answered (R130). -/
  sent : List Unanswered
  /-- Stores refused with RETRY and not yet delivered again: SEQ, and the DELAY of the refusal that set the mark
  (R142, R453). -/
  marks : List (Nat × Nat)
  /-- REQ SEQs answered with RETRY and not yet delivered again (R390). -/
  refused : List Nat
  /-- REQ, FWD and CMP SEQs delivered and not yet answered, for ANS of R130. -/
  open_ : List (Nat × Nat)
  /-- REQs delivered and held back behind an ACQUIRE read or a PROBE (R141). -/
  held : List Packet
  /-- Highest CMP SEQ received in order. -/
  rcvdCmp : Nat
  /-- CMP SEQs received above `rcvdCmp`. -/
  cmpAhead : List Nat
  /-- Packets that wait for the pair to become usable (R122). -/
  waiting : List Packet
  deriving DecidableEq, Repr

/-- One dedupe record (R240). -/
structure DedupeRec where
  opcode : Nat
  /-- None while the request is running. -/
  status : Option Nat
  landed : Nat
  ovf : Nat
  nans : Nat
  result : Bytes
  /-- Payload bytes its applied forwards carried, at a mirror (R241). -/
  carried : Nat
  deriving DecidableEq, Repr

/-- One dedupe window (R240): records by SEQ and its last delivery in the home's order. -/
structure DedupeWin where
  recs : Tbl DedupeRec
  last : Nat
  deriving DecidableEq, Repr

/-- The pairs and the dedupe windows. -/
structure PairState where
  /-- Pairs by own node × 65,536 + peer. -/
  pairs : Tbl Pair
  /-- Windows of active sources by SRC_NODE (R240). -/
  wins : Tbl DedupeWin
  /-- Mirror windows by ORIG_SRC × 65,536 + primary (R241). -/
  mirrorWins : Tbl DedupeWin
  /-- The home's local order of deliveries (R244). -/
  clock : Nat
  /-- The module's incarnation, stepped at each join (R122). -/
  incarnation : Nat
  /-- Bytes in the reorder buffer by class REQ, FWD, MGT (R126). -/
  held : List Nat
  /-- REQ packets delivered and not yet taken by their command. -/
  delivered : List Packet
  deriving DecidableEq, Repr

/-! ### Arrival counters (chapter 04) -/

/-- An armed trigger (R163, R164). -/
structure Trigger where
  /-- ACTION: true PROGRAM, false NOTIFY. -/
  program : Bool
  rearm : Bool
  step : Nat
  threshold : Nat
  node : Nat
  addr : Nat
  runPva : Nat
  tag : Nat
  /-- Firings of this arming (R165). -/
  fired : Nat
  /-- The arming's identity, for R280. -/
  arming : Nat
  deriving DecidableEq, Repr

/-- One arrival counter (R152). -/
structure Counter where
  value : Nat
  err : Bool
  /-- MODE: true BYTES, false PACKETS. -/
  bytes : Bool
  owner : Nat
  trig : Option Trigger
  deriving DecidableEq, Repr

/-- One parked WAIT (R158). -/
structure ParkedWait where
  counter : Nat
  target : Nat
  pkt : Packet
  deriving DecidableEq, Repr

/-- The arrival counters and the wait table. -/
structure Counters where
  tab : Tbl Counter
  waits : List ParkedWait
  /-- The next arming number. -/
  armings : Nat
  deriving DecidableEq, Repr


/-! ### Storage tiers (chapter 08) -/

/-- One 4 KiB block cached in a tile-store slice (R299). -/
structure TileBlock where
  tile : Nat
  /-- The hash slot it belongs to (R28). -/
  slot : Nat
  /-- Valid bit of each of its 64 lines. -/
  valid : Nat
  /-- Dirty bit of each of its 64 lines. -/
  dirty : Nat
  pinned : Bool
  /-- The order of its last use. -/
  use : Nat
  deriving DecidableEq, Repr

/-- One stack-cache frame (R302). -/
structure CacheFrame where
  /-- The 64 KiB block number of the dense window. -/
  blk : Nat
  /-- Dirty bit of each 4 KiB sub-block. -/
  dirty : Nat
  /-- Block-state code of each sub-block (R305). -/
  states : List Nat
  age : Nat
  /-- Its NVMe Read is outstanding (R303). -/
  filling : Bool
  deriving DecidableEq, Repr

/-- What an NVMe command was issued for. -/
inductive NvmeFor where
  /-- A stack-cache frame fill (R303). -/
  | frameFill (frame : Nat)
  /-- A write-back of sub-blocks of a frame (R304, R301). -/
  | frameWrite (frame : Nat)
  /-- A fill of a DENSE_DIRECT block, by its block number. -/
  | directRead (block : Nat)
  /-- The FUA Write that makes a DENSE_DIRECT store visible (R294). -/
  | directWrite (block : Nat)
  /-- Flush before Standby (R604). -/
  | flush
  /-- Deallocate or Write Zeroes of a cleared span (R78). -/
  | release (tid : Nat)
  /-- An Abort of a timed-out command (R326). -/
  | abort (cid : Nat)
  deriving DecidableEq, Repr

/-- One NVMe command outstanding on a dense port (R324–R326). -/
structure NvmeCmd where
  port : Nat
  queue : Nat
  opcode : Nat
  lba : Nat
  blocks : Nat
  fua : Bool
  data : Bytes
  states : List Nat
  purpose : NvmeFor
  deriving DecidableEq, Repr

/-- One dense port (R322–R330). -/
structure DensePort where
  cfgLive : Word
  cfgStage : Word
  /-- The staged object's generation and status (R456, R460). -/
  gen : Nat
  stat : Word
  /-- DPORT_STATUS (R329). -/
  status : Word
  /-- LBAs the drive's namespace reports. -/
  nsBlocks : Nat
  /-- I/O queue pairs granted (R325). -/
  queues : Nat
  /-- The namespace reports that deallocated metadata reads as zero (R78). -/
  deallocZero : Bool
  /-- Consecutive timeouts (R326). -/
  timeouts : Nat
  deriving DecidableEq, Repr

/-- An exchange with a lender over one 4 KiB block (R297), in packets of at most the personality's payload. -/
structure LenderIo where
  ctx : Nat
  write : Bool
  node : Nat
  /-- Packets not answered: SEQ and offset in the block. -/
  legs : List (Nat × Nat)
  /-- The block as read so far. -/
  data : Bytes
  deriving DecidableEq, Repr

/-- The image copy of a split chunk in copy-on-write space (R381), in stored form. -/
structure CowChunk where
  /-- The part's number; parts freed by a restore leave it with its chunk until copied back. -/
  part : Nat
  /-- It lies in a dense copy-on-write area, not in the pool (R381). -/
  dense : Bool
  states : List Nat
  /-- Stored bytes by offset in the chunk; unlisted bytes are 0. -/
  bytes : Tbl Byte
  /-- Poisoned line numbers within the chunk. -/
  poison : List Nat
  /-- The chunk was split and no beyond-cut store has been applied since: the next is forwarded BEYOND (R380). -/
  fresh : Bool
  /-- It is the live version since a RESTORE and waits to be copied back (R394). -/
  restored : Bool
  deriving DecidableEq, Repr

/-- The storage of the home space (chapter 08). -/
structure Tiers where
  /-- Tile-store contents, plaintext, by local offset; meaningful in valid lines (R89, R299). -/
  plain : Tbl Byte
  /-- Tile-store blocks by block number (R299). -/
  blocks : Tbl TileBlock
  /-- Order of use of blocks and frames. -/
  uses : Nat
  /-- Stack memory in stored form, by local offset in the stack window (R90, R291). -/
  stack : Tbl Byte
  /-- Stack-window block states by block number; unlisted blocks are in state 0 (R305, R332). -/
  bstate : Tbl Nat
  /-- Stack-cache frames by frame number (R302). -/
  frames : Tbl CacheFrame
  /-- Stack-cache contents in stored form, by local offset in the dense window. -/
  cache : Tbl Byte
  /-- Dense ports 0–15 (R322). -/
  dports : Vector DensePort 16
  /-- NVMe commands outstanding by command number. -/
  nvme : Tbl NvmeCmd
  nextCid : Nat
  /-- Exchanges with lenders by block number (R297). -/
  lentIo : Tbl LenderIo
  /-- Image copies by chunk number of the home space (R381). -/
  cow : Tbl CowChunk
  /-- Lines whose stored copy cannot be read, while their repair runs (R474). -/
  bad : Tbl LineFault
  /-- Lines of stack memory whose symbol check Masque has spoiled (R495). -/
  badCheck : List Nat
  /-- Lines of image copies that cannot be read, while their repair runs (R474). -/
  badImage : List Nat
  /-- Stack-cache misses in all, and the 64 KiB blocks of those sampled in the present policy period, oldest first (R536). -/
  missCount : Nat
  misses : List Nat
  deriving DecidableEq, Repr

/-! ### Element programs (chapter 07) -/

/-- One program slot (R258). -/
structure ProgSlot where
  owner : Nat
  pgen : Nat
  code : List Nat
  deriving DecidableEq, Repr

/-- One stream of a run (R254). -/
structure Stream where
  base : Nat
  fmt : Nat
  /-- Components per record, G. -/
  g : Nat
  en : Bool
  deriving DecidableEq, Repr

/-- One run in flight (R276). -/
structure ProgRun where
  /-- The command that holds it. -/
  tid : Nat
  ctx : Nat
  code : List Nat
  /-- I0–I3 then O0–O1 (R253). -/
  streams : List Stream
  /-- K0–K7. -/
  consts : List Nat
  seed : Nat
  redPva : Nat
  redEn : Bool
  count : Nat
  epoch : Nat
  /-- Blocks that have finished. -/
  done : List Nat
  /-- Tiles that have dropped their NC copies for the run (R278). -/
  tiles : List Nat
  /-- Each tile's copy of A0–A3 (R273). -/
  accs : Tbl (List Nat)
  ovf : Nat
  nans : Nat
  /-- Output bytes committed (R263). -/
  bytes : Nat
  poisoned : Bool
  /-- A region reset aborted a part of it (R283). -/
  aborted : Bool
  /-- The accumulator write has been made (R273). -/
  redDone : Bool
  /-- Forwards outstanding: destination and SEQ. -/
  fwds : List (Nat × Nat)
  /-- The arming that fired it, if one did (R280). -/
  arming : Option Nat
  deriving DecidableEq, Repr

/-- A firing that waits for its predecessor or for a run slot (R280). -/
structure Firing where
  counter : Nat
  arming : Nat
  ctx : Nat
  runPva : Nat
  /-- The firing's count within its arming (R270). -/
  n : Nat
  /-- The epoch the trigger gives; none when a command other than a run made the increment (R281). -/
  epoch : Option Nat
  /-- It could not start when it fired. -/
  waited : Bool
  deriving DecidableEq, Repr

/-- Program slots, runs and firings (chapter 07). -/
structure Programs where
  slots : Tbl ProgSlot
  /-- Runs in flight by command number; at most 256 (R280). -/
  runs : Tbl ProgRun
  firings : List Firing
  deriving DecidableEq, Repr

/-! ### Hamming search (chapter 09) -/

/-- What a command reads or writes of a context's pool by packets, to whatever home: a span, a ring's control region, or one
ATOMIC (R347, R355, R360). -/
structure EngIo where
  ctx : Nat
  write : Bool
  /-- An INT64 ATOMIC ADD of 1. -/
  atomic : Bool
  /-- The node whose control region is written. -/
  ctrl : Option Nat
  pva : Nat
  size : Nat
  /-- Bytes read so far, or the bytes to write. -/
  data : Bytes
  done : Nat
  /-- The map generation the next packet needs (R420). -/
  gen : Nat
  /-- 1 the next packet is due, 2 it is out, 5 its home was lost and its outcome must be asked for, 6 that question is out. -/
  stage : Nat
  seq : Nat
  node : Nat
  /-- How it has ended. -/
  status : Option Nat
  deriving DecidableEq, Repr

/-- The fixed line of a shard, with its place (R338). -/
structure ShardGeo where
  ctx : Nat
  hdr : Nat
  /-- KIND is GRAPH. -/
  graph : Bool
  cw : Nat
  deg : Nat
  sideLog : Nat
  area0 : Nat
  area1 : Nat
  cap : Nat
  deriving DecidableEq, Repr

/-- The live line of a shard (R337). -/
structure ShardLive where
  isn : Nat
  mainN : Nat
  entry : Nat
  head : Nat
  tail : Nat
  freeTo : Nat
  area : Nat
  lgen : Nat
  deriving DecidableEq, Repr

/-- One shard's entry in the index activity table (R353), with the order of its mutations (R342). -/
structure ShardAct where
  ctx : Nat
  hdr : Nat
  /-- Running queries: command, captured area and SIDE_HEAD. -/
  queries : List (Nat × Nat × Nat)
  /-- The Harvest that runs. -/
  harvest : Option Nat
  /-- INDEX_INSERT and INDEX_DELETE commands that run, in the order of their admission. -/
  mutations : List Nat
  /-- The command whose publish is not visible yet. -/
  publishing : Option Nat
  deriving DecidableEq, Repr

/-- A query block (R355). -/
structure QueryBlock where
  k : Nat
  maxDist : Nat
  fop : Nat
  cw : Nat
  fmask : Nat
  fval : Nat
  budget : Nat
  ef : Nat
  shardPva : Nat
  nshard : Nat
  code : Bytes
  deriving DecidableEq, Repr

/-- A candidate: distance, ID, and the low half of its ATTR. -/
structure Hit where
  dist : Nat
  id : Nat
  attr : Nat
  deriving DecidableEq, Repr

/-- A shard query that runs (R359). -/
structure QueryRun where
  res : Nat
  shardNo : Nat
  query : Option QueryBlock
  geo : Option ShardGeo
  live : Option ShardLive
  /-- 1 reads its query block, 2 waits for the activity table, 3 the window, 4 the main area, 5 writes its entries, 6 its
  header. -/
  stage : Nat
  /-- Positions of the window still to be read, or the next slot of the area. -/
  pos : Nat
  /-- DELETEs of the window read so far: ID and SEQ. -/
  dels : List (Nat × Nat)
  best : List Hit
  count : Nat
  examined : Nat
  bad : Nat
  /-- It ends with PARTIAL. -/
  part : Bool
  status : Nat
  deriving DecidableEq, Repr

/-- An INDEX_INSERT or INDEX_DELETE that runs (R347). -/
structure MutRun where
  geo : ShardGeo
  insert : Bool
  src : Nat
  count : Nat
  done : Nat
  lastSeq : Nat
  /-- 1 reads the source of a group, 2 stores it, 3 waits until it is visible, 4 waits until its publish is. -/
  stage : Nat
  /-- Entries in the group that is being published, and whether a bad one follows them. -/
  group : Nat
  stops : Bool
  deriving DecidableEq, Repr

/-- A MERGE or COMPACT that runs (R351, R352). -/
structure HarvestRun where
  geo : ShardGeo
  compact : Bool
  /-- 1 merges, 2 waits until what it wrote is visible, 3 until its publish is; of a COMPACT: 4 waits for queries of the other
  area, 5 finds the records to keep, 6 copies them, 7 waits until they are visible, 8 until the publish is. -/
  stage : Nat
  /-- T: SIDE_TAIL at the start. -/
  upTo : Nat
  /-- The next side position, and the next slot that a DELETE looks at. -/
  pos : Nat
  slot : Nat
  mainN : Nat
  entry : Nat
  merged : Nat
  full : Bool
  /-- Slots to keep, in order. -/
  kept : List Nat
  removed : Nat
  deriving DecidableEq, Repr

/-- One shard of a coordinated query (R360). -/
structure CoordShard where
  hdr : Nat
  slotPva : Nat
  rlog2 : Nat
  /-- Its home, once it has been dispatched. -/
  home : Nat
  /-- The least map generation that its next dispatch takes. -/
  gen : Nat
  moved : Nat
  /-- It has failed at the coordinator. -/
  failed : Option Nat
  /-- Its scratch slot, read when every dispatch was done. -/
  slot : Bytes
  deriving DecidableEq, Repr

/-- One coordinated query (R360). -/
structure Coord where
  query : Option QueryBlock
  shards : List CoordShard
  /-- 1 reads the query block, 2 the shard table, 3 zeroes a slot, 4 routes the shard, 5 its ATOMIC is out, 6 its descriptor is
  written, 7 its doorbell; 8 waits for MCNT, 9 reads the slots, 10 writes the entries, 11 the header. -/
  stage : Nat
  /-- The shard in hand, and those still to be dispatched after it. -/
  shard : Nat
  todo : List Nat
  /-- Dispatches made, less those to shards declared lost (R360 step 5). -/
  expected : Nat
  /-- The prior value its ATOMIC returned. -/
  prior : Nat
  deriving DecidableEq, Repr

/-- Search activity (chapter 09). -/
structure SearchState where
  /-- The index activity table, at most 4,096 shards (R353). -/
  acts : List ShardAct
  /-- What runs, by command. -/
  ios : Tbl EngIo
  queries : Tbl QueryRun
  muts : Tbl MutRun
  harvests : Tbl HarvestRun
  coords : Tbl Coord
  deriving DecidableEq, Repr

/-! ### Solstice parts (chapter 10) -/

/-- One span of a part (R383). -/
structure CohortSpan where
  start : Nat
  gran : Nat
  drain : Nat
  deriving DecidableEq, Repr

/-- One listed source of a primary part (R389–R391). -/
structure CohortSource where
  node : Nat
  cut : Option Nat
  pruned : Bool
  /-- Declared lost and waiting for its requests to end (R391). -/
  lost : Bool
  deriving DecidableEq, Repr

/-- One part (R377). -/
structure Part where
  ctx : Nat
  cohort : Nat
  epoch : Nat
  /-- A mirror part (ROLE 1). -/
  mirror : Bool
  /-- A carried part of a Leap with ROLE_T 0: no record (R426). -/
  carried : Bool
  spans : List CohortSpan
  srcs : List CohortSource
  /-- The cohort record's PVA. -/
  crec : Nat
  /-- STATE of R384. -/
  state : Nat
  /-- STATUS of R384. -/
  status : Nat
  /-- Chunks of the part: chunk number of the home space, PVA, span index. -/
  chunks : List (Nat × Nat × Nat)
  /-- Chunks drained, by chunk number. -/
  drained : List Nat
  /-- Chunks stored to their drain target whose stores are not all visible yet (R392). -/
  draining : List Nat
  /-- The drain was stopped by a refusal (R392). -/
  drainStopped : Bool
  rgen : Nat
  /-- Counts changed since the record was last written (R384). -/
  recordStale : Bool
  /-- A change of STATE is not in the record yet (R384). -/
  recordDue : Bool
  /-- Forwards of the record not answered: destination and SEQ. -/
  recFwds : List (Nat × Nat)
  /-- Nodes besides the record's own mirror that its writes go to: targets of Leaps with ROLE_T 1 (R426). -/
  followers : List Nat
  /-- The OPEN command that completes once the record is visible at both homes (R386). -/
  opener : Option Nat
  /-- A RESTORE of the part is running: its command (R394). -/
  restoring : Option Nat
  deriving DecidableEq, Repr

/-- Parts by number; at most 256 (R377). -/
structure Solstice where
  parts : Tbl Part
  nextPart : Nat
  deriving DecidableEq, Repr

/-! ### Composition map, membership and Leap (chapter 11) -/

/-- A subscriber of a map (R411). -/
structure Subscriber where
  node : Nat
  buf : Nat
  deriving DecidableEq, Repr

/-- A proposal the lead is handling or has yet to handle (R409). -/
structure MapProposal where
  sender : Nat
  tag : Nat
  seq : Nat
  expect : Nat
  ops : List MapEntry
  /-- The generation it was offered under, 0 when not offered. -/
  gen : Nat
  /-- Committed, and waiting for these modules' acknowledgements (R410). -/
  acks : List Nat
  committed : Bool
  /-- The node its answer goes to: the sender, or the keeper that passed it on (R409). -/
  via : Nat
  /-- The keeper triple it sets; empty when it sets none (R408 JOIN). -/
  keepers : List Nat
  /-- Keepers that did not accept it. -/
  refusedBy : List Nat
  deriving DecidableEq, Repr

/-- A context map this module keeps (R408). -/
structure KeptMap where
  image : MapImage
  keepPva : Nat
  subs : List Subscriber
  /-- Proposals, first first. -/
  props : List MapProposal
  /-- The generation accepted and not committed, and the image it would make (R409). -/
  accepted : Option MapImage
  /-- This keeper is joining and waits for the image (R408 JOIN). -/
  joining : Bool
  /-- The image has changed and is not yet written at KEEP_PVA. -/
  unstored : Bool
  deriving DecidableEq, Repr

/-- A member as a membership keeper knows it (R413, R415). -/
structure Member where
  domain : Nat
  sx96 : Bool
  /-- Keepers that suspect it. -/
  suspects : List Nat
  deriving DecidableEq, Repr

/-- Membership as a member and as a keeper. -/
structure Membership where
  /-- This module is a member of the fabric (R413). -/
  joined : Bool
  /-- Membership keepers that answered the join. -/
  joinAcks : List Nat
  view : Nat
  /-- Consecutive beats without two acknowledgements (R414). -/
  missed : Nat
  /-- Membership keepers that acknowledged the latest beat. -/
  beatAcks : List Nat
  /-- A beat has been sent since the member joined. -/
  beaten : Bool
  suspended : Bool
  /-- Group addresses joined (R413). -/
  groups : List Nat
  /-- Nodes declared lost (R415). -/
  lost : List Nat
  /-- Nodes the membership protocol knows: failure domain, SX-96 (R370). -/
  known : Tbl (Nat × Bool)
  /-- Members as this keeper knows them. -/
  members : Tbl Member
  /-- A MEMB_LOST for this module's own ordered Standby entry is awaited (R604). -/
  leaving : Bool
  deriving DecidableEq, Repr

/-- A Leap with this module as source (R424). -/
structure LeapOut where
  ctx : Nat
  start : Nat
  chunks : Nat
  target : Nat
  /-- ROLE_T: true when the target becomes mirror. -/
  asMirror : Bool
  tclass : Option Nat
  tcomp : Option Bool
  /-- The step of R424 it stands at. -/
  step : Nat
  /-- Chunks COPIED. -/
  copied : List Nat
  /-- Chunks copied again (R427). -/
  again : Nat
  /-- The chunk being copied and its writes not yet answered. -/
  copying : Option Nat
  /-- The writes of that chunk have been sent. -/
  sentChunk : Bool
  /-- Re-proposals after a moved generation (R428). -/
  proposals : Nat
  /-- The LEAP_START command, or 0 for a LEAP_ORDER or RECLAIM. -/
  tid : Nat
  /-- The LEAP_ORDER to answer: keeper, SEQ, TAG. -/
  order : Option (Nat × Nat × Nat)
  /-- Refusals of LEAP_OPEN under a LEAP_ORDER (R430). -/
  refusals : Nat
  /-- The LEAP_ABORT command that waits (R427). -/
  abort : Option Nat
  /-- MAPGEN after the switch. -/
  switched : Nat
  /-- The new local spans of a local Leap. -/
  locals_ : List Range
  /-- The reclaim it belongs to: lender and its request SEQ and TAG (R431). -/
  reclaim : Option (Nat × Nat × Nat)
  deriving DecidableEq, Repr

/-- A Leap with this module as target (R424). -/
structure LeapIn where
  ctx : Nat
  start : Nat
  chunks : Nat
  source : Nat
  deriving DecidableEq, Repr

/-- A reclaim in progress (R431). -/
structure Reclaim where
  lender : Nat
  addr : Nat
  gran : Nat
  tag : Nat
  seq : Nat
  deriving DecidableEq, Repr

/-- The composition map and Leap state (chapter 11). -/
structure MapLeap where
  /-- Context maps kept here, at most 64 (R408). -/
  kept : Tbl KeptMap
  memb : Membership
  outs : Tbl LeapOut
  ins : List LeapIn
  nextLeap : Nat
  reclaims : List Reclaim
  /-- A train of MGT packets under reassembly, by its sender (R411). -/
  partial_ : Tbl Bytes
  deriving DecidableEq, Repr


/-! ### Optical ports (chapter 03) -/

/-- One optical port (R97–R138). -/
structure OPort where
  /-- OPORT_STATUS (R134). -/
  status : Word
  /-- OPORT_CFG, live and staged (R135). -/
  cfgLive : Word
  cfgStage : Word
  /-- Generation and status of the staged object (R456, R460). -/
  gen : Nat
  stat : Word
  /-- The bring-up step of R110 the port stands at; 0 when not training. -/
  bringup : Nat
  /-- Locked transmit and drop rings, one bit each (R100). -/
  txLocked : Nat
  rxLocked : Nat
  /-- Groups marked failed, transmit and receive (R107, R108). -/
  txFailed : Nat
  rxFailed : Nat
  /-- Groups that failed again within the count and stay out until the next start (R109). -/
  txOut : Nat
  rxOut : Nat
  /-- Groups returned to service within the present 2^30-cycle count (R109). -/
  returned : Nat
  /-- A width change under way: the new mask and the codewords still to pass, transmit and receive (R108). -/
  txSwitch : Option (Nat × Nat)
  rxSwitch : Option (Nat × Nat)
  /-- The next FSEQ to send, and the FSEQ expected (R103, R104). -/
  fseqTx : Nat
  fseqRx : Nat
  /-- Frames sent and not acknowledged: FSEQ, frame type, VC, flit (R104). -/
  replay : List (Nat × Nat × Nat × Bytes)
  /-- A frame was discarded and the expected FSEQ has not arrived since (R103). -/
  awaitReplay : Bool
  /-- The FSEQ last replayed and how often, without acknowledgement (R104). -/
  replayed : Nat × Nat
  /-- Credits held at the peer for VC 0–5 (R120). -/
  credits : List Nat
  /-- Credits owed to the peer for VC 0–5, returned by the next CREDIT flit (R120). -/
  owed : List Nat
  /-- Flits of the packet being received, by VC (R111). -/
  assembling : Tbl (List Bytes)
  /-- Packets sent whose frames are not all acknowledged, with the last FSEQ of each (R129). -/
  onWire : List (Nat × Packet)
  /-- The keep-alive count sent (R105). -/
  kaCount : Nat
  /-- Keep-alive periods without a good frame (R106). -/
  kaMissed : Nat
  /-- The peer's largest payload: 4,096 or 2,048 (R118, R137). -/
  peerMax : Nat
  /-- Control flits that wait for room in the replay buffer (R104). -/
  ctrlWait : List Bytes
  /-- The bring-up failed at this step and waits to restart (R110). -/
  failedStep : Nat
  deriving DecidableEq, Repr

/-! ### Traffic (chapter 12) -/

/-- A token bucket's configuration and level, for a shaper or a policer (R445, R464, R465). -/
structure Bucket where
  cfg : Word
  rate : Word
  burst : Word
  gen : Nat
  /-- The level in units of 2^-16 token (R445). -/
  level : Int
  deriving DecidableEq, Repr

/-- One shaper: its bucket and its three FIFOs DAT, FWD, REQ (R437, R438). -/
structure Shaper where
  bucket : Bucket
  dat : List Packet
  fwd : List Packet
  req : List Packet
  deriving DecidableEq, Repr

/-- One traffic-class queue: its FIFOs by class and its tags (R439, R441). -/
structure TcQueue where
  cfgLive : Word
  cfgStage : Word
  /-- FIFOs of classes 0–5. -/
  fifos : List (List Packet)
  /-- S and F with 16 fractional bits in 48 bits (R441). -/
  s : Nat
  f : Nat
  deriving DecidableEq, Repr

/-- The traffic block of one port (R461). -/
structure TrafficPort where
  /-- TC 0–7; TC 7 has no register. -/
  tcs : Vector TcQueue 8
  /-- V (R441). -/
  v : Nat
  gen : Nat
  stat : Word
  /-- Shapers by context (R445). -/
  shapers : Tbl Shaper
  shpSel : Word
  /-- The staged SHP_CFG, SHP_RATE and SHP_BURST. -/
  shpStage : Word × Word × Word
  shpStat : Word
  deriving DecidableEq, Repr

/-- The policers and their window (R450, R466). -/
structure Policing where
  buckets : Tbl Bucket
  polSel : Word
  polStage : Word × Word × Word
  polStat : Word
  deriving DecidableEq, Repr

/-! ### Host bridge (chapter 05) -/

/-- One bridge window: HB_WIN_CFG, HB_WIN_DPA, HB_WIN_PVA and its generation (R198, R199). -/
structure BridgeWin where
  cfg : Word
  dpa : Word
  pva : Word
  gen : Nat
  deriving DecidableEq, Repr

/-- What the bridge owes its host for a request it sent (R194). -/
inductive HostOwed where
  /-- MemData, then Cmp-E or Cmp-S by the grant. -/
  | readAny
  /-- MemData and Cmp-S. -/
  | readShared
  /-- MemData and Cmp. -/
  | readPlain
  /-- Cmp after WB_ACK OK. -/
  | evict
  /-- Cmp after the WRITE's response; of the WRITEs of one MemWrPtl, after the last. -/
  | write
  deriving DecidableEq, Repr

/-- A request the bridge sent for its host (R194). -/
structure HostReq where
  hostTag : Nat
  owed : HostOwed
  /-- The packet sent. With DST_NODE 0 it waits for a map no older than its MAPGEN. -/
  pkt : Packet
  /-- The lost home that an ADOPT_QUERY asks about (R421); 0: none. -/
  lostHome : Nat
  /-- The ADOPT_QUERY is out; or a WB_EVICT was answered DENIED, so that its data answers the next recall (R192). -/
  asked : Bool
  deriving DecidableEq, Repr

/-- A back-invalidate snoop the bridge sent to the host (R195). -/
structure BridgeSnoop where
  fwd : Packet
  /-- Dirty data the host returned before its BIRsp. -/
  dirty : Option Bytes
  deriving DecidableEq, Repr

/-- The host bridge (R193–R200). -/
structure Bridge where
  wins : Vector BridgeWin 8
  winSel : Word
  winStage : Word × Word × Word
  winStat : Word
  /-- HB_NTF_CFG and HB_NTF_ADDR, live and staged. -/
  ntfLive : Word × Word
  ntfStage : Word × Word
  ntfGen : Nat
  ntfStat : Word
  /-- The host has not been declared lost (R196). -/
  hostUp : Bool
  /-- The bridge's node is a member, and the membership keepers that have answered its join (R197, R413). -/
  joined : Bool
  joinAcks : List Nat
  reqs : List HostReq
  snoops : List BridgeSnoop
  /-- Lines the host holds as recorded by the bridge, by PVA and context, with E. -/
  holds : List (Nat × Nat × Bool)
  /-- MSI-X mask and pending bits of the 2,048 vectors (R57, R200). -/
  masked : List Nat
  pendingVec : List Nat
  deriving DecidableEq, Repr

/-! ### Faults (chapter 13) -/

/-- One tile's health (R22, R470–R490). -/
structure TileHealth where
  /-- Lane slices marked unusable, of 72 (R22). -/
  lanesOut : Nat
  /-- Hamming slices marked unusable, of 34. -/
  hamOut : Nat
  /-- Home-agent ALUs marked unusable, of 2. -/
  alusOut : Nat
  /-- Slice rows disabled, in rows of the unit the operand names; bytes disabled (R473). -/
  disabled : Nat
  retired : Bool
  gated : Bool
  /-- It leaves service: by gating (true) or retirement, and the cause (R29). -/
  leaving : Option (Bool × Nat)
  /-- A gated tile that returns once its slots have drained (R31). -/
  returning : Bool
  /-- It has left activity class 0 within the present evaluation window (R537). -/
  busy : Bool
  /-- The error bins, 8 bands by 4 classes (R485). -/
  bins : Tbl Nat
  /-- EB_TILE_STATE (R490). -/
  state : Word
  /-- Bins' rows: corrected errors of SRAM rows in this window (R472). -/
  rows : Tbl Nat
  /-- Soft row spares used by sub-array (R471). -/
  spares : Tbl Nat
  deriving DecidableEq, Repr

/-- One region's containment state (R481–R483). -/
structure RegionState where
  resetting : Bool
  /-- Resets in the present error-band window (R482). -/
  resets : Nat
  /-- Trackers out of service (R473). -/
  trackersOut : Nat
  /-- Requests and commands that the containment under way has ended, and whether Masque caused it (R481, R498). -/
  ended : Nat
  masque : Bool
  deriving DecidableEq, Repr

/-- Fault handling (chapter 13). -/
structure Faults where
  tiles : Vector TileHealth 64
  regions : Vector RegionState 8
  /-- HREMAP by region and slot (R28). -/
  hremap : Vector (Vector Nat 8) 8
  /-- Slots that are moving, as 8 × region + slot: requests to them are refused (R29 step 2). -/
  moving : List Nat
  /-- EB_CFG live and staged, its generation and status, and the tile chosen (R490). -/
  ebLive : Word
  ebStage : Word
  /-- Committed EB_CFGs that wait for the next window boundary, oldest first (R490). -/
  ebNext : List Word
  ebGen : Nat
  ebStat : Word
  ebSel : Word
  /-- VG_CFG (R494). -/
  vgLive : Word
  vgStage : Word
  vgGen : Nat
  vgStat : Word
  vgPasses : Word
  /-- The tile the next known-answer test runs on (R493). -/
  katTile : Nat
  /-- MQ_CFG and MQ_INTERVAL (R499). -/
  mqLive : Word × Word
  mqStage : Word × Word
  mqGen : Nat
  mqStat : Word
  mqCount : Word
  /-- The kind that the last interval injected or passed over; 6 before the first, so that kind 0 comes first (R496). -/
  mqKind : Nat
  /-- Port blocks that BIST or a rail fault has taken out (R557, R607). -/
  blocksOut : List Nat
  /-- Keep-alive periods left of a feigned loss of every port (R106, R495). -/
  feign : Nat
  deriving DecidableEq, Repr


/-! ### Almanac, power and log (chapters 14, 15, 17) -/

/-- The adopted Almanac's fields (R550), at their defaults where no record gives them. -/
structure Almanac where
  /-- An Almanac has been adopted at the present start (R551). -/
  adopted : Bool
  personality : Nat
  groupBase : Nat
  failureDomain : Nat
  driverNodes : List Nat
  membKeepers : List Nat
  bridgeNode : Nat
  /-- Every other field by its TYPE (R550). -/
  fields : Tbl Nat
  agen : Nat
  /-- Which copy was adopted. -/
  copy : Nat
  /-- SHA-512 of its LENGTH bytes, for ATTEST (R593). -/
  digest : Bytes
  deriving DecidableEq, Repr

/-- The power states and the progress of a start (R545, R598). -/
structure Power where
  /-- VIN_40V lies in 34–46 V. -/
  input : Bool
  /-- RESET_N is held low. -/
  resetLow : Bool
  /-- Off: no state is reported (R598). -/
  off : Bool
  /-- POWER_STATE of R513: 0 start, 1 Standby, 2 Ready, 3 Active. -/
  state : Nat
  /-- The step of R545 being run, 0 when no start runs. -/
  step : Nat
  /-- The start is a Standby exit (R544). -/
  fromStandby : Bool
  /-- The start holds: failed or without an Almanac (R552, R569). -/
  holding : Bool
  /-- FAILED of R513. -/
  failed : Bool
  /-- The step of R604 of an ordered Standby entry, 0 when none. -/
  entry : Nat
  /-- A POWER_REQ Standby waits for the start step, session or write in hand (R542, R570). -/
  standbyWaits : Bool
  /-- Standby was entered by brown-out, with no Standby request since (R599). -/
  brownOut : Bool
  /-- The step of R606 in progress: 1 charging, 2 AON, 3 HOST, 4 FAB, 5 S, 6 + r for region r's T, 14 P; 0 none. -/
  railStep : Nat
  /-- Domains being raised and how many of their rails are up (R606). -/
  rising : List (Nat × Nat)
  /-- Steps of R545 completed in this start. -/
  stepsDone : List Nat
  /-- Power domains that are on: AON 0, FAB 1, HOST 2, T 3–66, S 67–74, P 75–82 (R35). -/
  domains : List Nat
  /-- REFCLK is present (R34). -/
  refclk : Bool
  /-- HOST_EN as sampled at the last cold start (R623). -/
  hostEn : Bool
  /-- Clusters whose ELS is seated and meets ELS_MIN (R99). -/
  elsOk : List Nat
  /-- Stacks trained, and training attempts by stack (R563). -/
  stacksUp : List Nat
  stackTries : Vector Nat 8
  /-- Dense ports whose bring-up has ended in this start (R564). -/
  denseDone : List Nat
  /-- BOOT_COUNT (R513). -/
  bootCount : Nat
  /-- POWER_REQs counted without effect (R599). -/
  noChange : Nat
  deriving DecidableEq, Repr

/-- One log entry before it is encoded into 64 bytes (R524). -/
structure LogEntry where
  lseq : Nat
  sev : Nat
  domain : Nat
  dcyc : Nat
  code : Nat
  uclass : Nat
  unit_ : Nat
  ctx : Nat
  node : Nat
  boot : Nat
  status : Nat
  data0 : Nat
  data1 : Nat
  data2 : Nat
  deriving DecidableEq, Repr

/-- The event log's staging buffer and its counts (R526). -/
structure EventLog where
  /-- The next LSEQ. -/
  next : Nat
  /-- LOG_FIRST and LOG_LAST (R515). -/
  first : Nat
  last : Nat
  /-- Entries not yet in flash, oldest first, at most 4,096. -/
  staged : List LogEntry
  /-- Entries not kept since room was last short, and the first LSEQ lost. -/
  lost : Nat
  lostFirst : Nat
  /-- LOG_DROPPED (R515). -/
  dropped : Nat
  /-- ALERT_STATUS and MASK (R515). -/
  alert : Word
  mask : Word
  /-- In-band interrupts are enabled (R539, ENEC and DISEC). -/
  ibi : Bool
  deriving DecidableEq, Repr

/-- What leaves the block at its boundary. -/
inductive Out where
  /-- A packet, on an Ohmas port or over the mesh to the module itself. -/
  | packet (p : Packet)
  /-- A control flit on a port (R105). -/
  | ctrl (port : Nat) (flit : Bytes)
  /-- A frame on a port: trailer and flit (R101). -/
  | frame (port : Nat) (trailer : Word) (flit : Bytes)
  /-- An NVMe command to a dense port (R324). -/
  | nvme (port cid opcode lba blocks : Nat) (fua : Bool) (data : Bytes) (meta_ : Bytes)
  /-- A frame on the Halord chain (R505). -/
  | chain (bytes : Bytes)
  /-- A message to the host behind the bridge: name, address or tag, data. -/
  | host (name : String) (addr : Nat) (data : Bytes)
  /-- An MSI-X vector (R57). -/
  | msix (vector : Nat)
  /-- An in-band interrupt on I3C with its mandatory data byte (R539). -/
  | ibi (byte : Nat)
  /-- A value returned to the reader of a register. -/
  | value (w : Word)
  /-- Bytes returned over I3C. -/
  | i3c (bytes : Bytes)
  deriving DecidableEq, Repr

/-! ### The data plane -/

/-- Everything on the data path: the state that commands other than Halord's own act on. -/
structure Node where
  alm : Almanac
  power : Power
  log : EventLog
  /-- NODE_ID and CHAIN_ADDR (R509, R513). -/
  nodeId : Nat
  chainAddr : Nat
  ctxs : Contexts
  /-- Rings: 0 is the admin ring, c the ring of context c (R37). -/
  rings : Tbl Ring
  trk : Trackers
  coh : Coherence
  prs : PairState
  ctr : Counters
  mem : Tiers
  prog : Programs
  srch : SearchState
  sol : Solstice
  ml : MapLeap
  flt : Faults
  ports : Vector OPort 32
  /-- Packets that wait for a port to be up (R129). -/
  unsent : List Packet
  /-- The port after the one last chosen, for the round robin of R125. -/
  rrPort : Nat
  traf : Vector TrafficPort 32
  pol : Policing
  bridge : Bridge
  /-- Telemetry counters by their offset in the counter block (R523). -/
  tele : Tbl Nat
  /-- Emissions, oldest first. -/
  out : List Out
  /-- The model's own counter: the next free value's index. -/
  free : Nat
  deriving DecidableEq, Repr

/-! ### Halord (chapters 14 and 16) -/

/-- A mailbox transfer (R517–R520). -/
structure Mailbox where
  addr : Word
  remain : Nat
  /-- MBX_STAT without AVAIL and FREE (R518). -/
  stat : Word
  op : Nat
  space : Nat
  target : Nat
  /-- Words fetched and not read. -/
  buffer : List Word
  /-- Words accepted and not yet written (remote or programming). -/
  toWrite : List Word
  /-- Words requested over the chain and not answered. -/
  inFlight : Nat
  /-- Words of the request area received so far (R576). -/
  request : List Word
  /-- The status with which the transfer ends once the words it has accepted are written (R520). -/
  closing : Option Nat
  /-- A request has been submitted and its outcome is awaited (R576). -/
  waits : Bool
  deriving DecidableEq, Repr

/-- What a chain request is for. -/
inductive ChainFor where
  | mailboxRead
  | mailboxWrite
  /-- An inner request of RELAY. -/
  | relay
  /-- The copy order of ALMANAC_COPY for a target, with the slot to send. -/
  | copyOrder (slot : Nat)
  /-- A read of the Almanac gather (R554). -/
  | gather
  deriving DecidableEq, Repr

/-- A chain request this module awaits an answer to (R507). -/
structure ChainReq where
  frame : Bytes
  tag : Nat
  dst : Nat
  repeats : Nat
  purpose : ChainFor
  /-- Words it asks for or carries. -/
  words : Nat
  /-- The answer, held until the requests before it have theirs: status and words. -/
  got : Option (Nat × List Word)
  deriving DecidableEq, Repr

/-- The head's reading of a module's Almanac (R554). -/
structure Gather where
  /-- The chain address being read. -/
  target : Nat
  /-- 0 and 1: the header of that copy is read; 2: the image of the copy chosen. -/
  stage : Nat
  heads : Bytes × Bytes
  copy : Nat
  length : Nat
  bytes : Bytes
  deriving DecidableEq, Repr

/-- The chain port (R504–R516). -/
structure Chain where
  /-- CHN_STATUS and CHN_ALERT (R516). -/
  status : Word
  alert : Word
  head : Bool
  /-- The GROUP_BASE carried by ENUM (R509). -/
  base : Nat
  nextTag : Nat
  reqs : List ChainReq
  /-- TAG and STATUS of the last WR_REQ from each source (R507). -/
  lastWr : Tbl (Nat × Nat)
  /-- The Almanac being gathered (R554). -/
  gather : Option Gather
  /-- The chain has been declared down, and no ENUM has returned since (R510). -/
  down : Bool
  /-- The head's ENUM has not returned (R508). -/
  enumOut : Bool
  /-- SESSION and INDEX of chunks that the downstream neighbour waits for (R582). -/
  owed : List (Nat × Nat)
  /-- The next SESSION that the head picks (R582). -/
  nextSession : Nat
  deriving DecidableEq, Repr

/-- An open image session (R579, R580, R582). -/
structure ImgSession where
  kind : Nat
  length : Nat
  /-- Bytes received contiguously. -/
  bytes : Bytes
  /-- Bytes of a KIND 0 session programmed into the slot (R579). -/
  programmed : Nat
  staged : Bool
  /-- Chain session number, 0 for the mailbox's own (R582). -/
  session : Nat
  /-- Chunks held, by INDEX, at a target. -/
  chunks : Tbl Bytes
  nchunk : Nat
  targets : Nat
  /-- A copy order of ALMANAC_COPY: no AGEN test (R582). -/
  copyOrder : Bool
  /-- IMG_HOLD was sent and IMG_GO was not (R582). -/
  holding : Bool
  /-- One more than the highest INDEX seen on the ring (R582). -/
  seen : Nat
  /-- The outcome sent in IMG_RESULT. -/
  result : Option Nat
  deriving DecidableEq, Repr

/-- An IMG_PUSH at the head (R582). -/
structure Push where
  session : Nat
  kind : Nat
  targets : Nat
  image : Bytes
  /-- The next chunk to send. -/
  next : Nat
  nchunk : Nat
  /-- Targets whose IMG_HOLD stands. -/
  holds : List Nat
  /-- Outcomes so far: address and status. -/
  results : Tbl Nat
  copy : Bool
  /-- The TAG that its frames carry, and how often it has been repeated (R507). -/
  tag : Nat
  repeats : Nat
  deriving DecidableEq, Repr

/-- The owner record and the security state (R583–R594). -/
structure Security where
  /-- The owner public key; empty when none is installed. -/
  ownerPub : Bytes
  /-- The owner storage key register; empty when none or zeroised. -/
  storageKey : Bytes
  /-- The storage key in the owner record, wrapped (R588). -/
  wrapped : Bytes
  requireBind : Bool
  /-- The Unsealed latch (R586). -/
  unsealed : Bool
  /-- Security-version fuses blown (R574). -/
  fuses : Nat
  /-- PRES_N is low; the window is open; it must be released first (R585). -/
  presLow : Bool
  presOpen : Bool
  presArmed : Bool
  /-- The loop's last sample was closed; consecutive open samples (R586). -/
  sealOk : Bool
  sealOpens : Nat
  /-- The debug instructions are open (R590). -/
  debugOpen : Bool
  /-- Zeroised by scan or debug since the last cold reset (R93, R590). -/
  cleared : Bool
  /-- The identity key and the transport key are derived (R592). -/
  identity : Bool
  challenge : Word
  challenges : Nat
  lastRop : Nat
  lastStatus : Nat
  pushOk : Nat
  pushFail : Nat
  /-- The latest attestation report (R593). -/
  report : Bytes
  /-- Slot record: ACTIVE, PENDING, TRIAL (R583). -/
  active : Bool
  pending : Bool
  trial : Bool
  /-- FW_VERSION, SVN and manifest digest of the slot that was started, and part digests (R593). -/
  fwVersion : Nat
  svn : Nat
  manifestDigest : Bytes
  partDigests : List Bytes
  deriving DecidableEq, Repr

/-- Sensors: the latest samples, with their fault marks (R521, R522). -/
structure Sensors where
  /-- Sensor words by offset in the sensor block. -/
  words : Tbl Word
  deriving DecidableEq, Repr

/-- The policy engine (R528–R538). -/
structure Policy where
  /-- PLC_PWR, PLC_THERM, PLC_MOVE, live and staged. -/
  live : Word × Word × Word
  stage : Word × Word × Word
  /-- Committed blocks that wait for the next policy-period boundary, oldest first (R529). -/
  next : List (Word × Word × Word)
  gen : Nat
  stat : Word
  /-- Power cap level of the tiles, and stack issue rates in 1/256 (R533). -/
  powerCap : Nat
  stackRate : Nat
  /-- Thermal cap levels by tile (R534). -/
  thermCap : Tbl Nat
  /-- Stacks held at or below 128/256 by heat (R534). -/
  hotStacks : List Nat
  /-- Tiles gated by heat and by idle gating (R534, R537). -/
  hotTiles : List Nat
  idleTiles : List Nat
  /-- PROP_LAST and the proposal ring's records (R538). -/
  propLast : Nat
  proposals : Tbl (List Word)
  deriving DecidableEq, Repr

/-- The I3C target (R539, R540). -/
structure I3c where
  staticAddr : Nat
  dynAddr : Option Nat
  index : Nat
  deriving DecidableEq, Repr

/-- Halord and what belongs to AON. -/
structure Halord where
  /-- Flash contents; unlisted bytes read 0xFF, as erased (R547). -/
  flash : Tbl Byte
  /-- Halord is restarting (R503). -/
  restarting : Bool
  mbx : Mailbox
  chain : Chain
  session : Option ImgSession
  push : Option Push
  sec : Security
  sens : Sensors
  plc : Policy
  i3c : I3c
  deriving DecidableEq, Repr

/-- The machine: the commands that wait, the data plane and Halord. -/
structure State where
  /-- Commands that wait, first in, first out. -/
  pending : List Instr
  nd : Node
  hl : Halord
  deriving DecidableEq, Repr


/-! ### The reasons a step can stop -/

/-- No command of the block ends in a fault: the manual gives every one of them an effect, or says that it
changes nothing. Nobody raises one. -/
inductive Fault where
  deriving DecidableEq, Repr

/-- Why a command is refused. -/
inductive Refusal where
  /-- Raised by an arm of `exec` whose command has no meaning yet. Safe: nothing can be proved of it. -/
  | notModelled (mnemonic : String)
  deriving DecidableEq, Repr

/-! ### Reset (chapters 01 to 17, their "State at start") -/

/-- A key slot never loaded. -/
def KeySlot.reset : KeySlot := { gen := 0, salt := 0, ident := 0, keys := [] }

/-- A ring at its reset values (R41, R44). -/
def Ring.reset : Ring :=
  { cfgLive := 0x600, cfgStage := 0x600, head := 0, phase := true, status := 0, inflight := 0, tailHint := 0,
    draining := false, stopped := false, stalled := false, storage := [], writers := [], gen := 0 }

/-- No context, share key, revocation, cached translation or map image (R96, R436). -/
def Contexts.reset : Contexts :=
  { slots := [], shares := [], revs := [], freeing := [], xlate := [], images := [] }

/-- Empty trackers. -/
def Trackers.reset : Trackers :=
  { reqs := [], cmds := [], nextTid := 1, starve := [], escal := [] }

/-- Every line uncached (R215). -/
def Coherence.reset : Coherence :=
  { dir := [], ages := 0, recalls := [], opbuf := [], lent := [], snoops := [], mdirty := [], poison := [] }

/-- No pair and no dedupe window (R138, R247). -/
def PairState.reset : PairState :=
  { pairs := [], wins := [], mirrorWins := [], clock := 0, incarnation := 0, held := [0, 0, 0], delivered := [] }

/-- Every counter zero and disarmed, no WAIT parked (R174). -/
def Counters.reset : Counters := { tab := [], waits := [], armings := 0 }

/-- A dense port down, its configuration at the Almanac's default (R329, R330). -/
def DensePort.reset : DensePort :=
  { cfgLive := 1, cfgStage := 1, gen := 0, stat := 0, status := 0, nsBlocks := 0, queues := 0,
    deallocZero := false, timeouts := 0 }

/-- Stack memory, caches and tile stores hold nothing (R332). -/
def Tiers.reset : Tiers :=
  { plain := [], blocks := [], uses := 0, stack := [], bstate := [], frames := [], cache := [],
    dports := Vector.replicate 16 DensePort.reset, nvme := [], nextCid := 1, lentIo := [], cow := [], bad := [], badCheck := [],
    badImage := [], missCount := 0, misses := [] }

/-- No program, run or firing (R288). -/
def Programs.reset : Programs := { slots := [], runs := [], firings := [] }

/-- No search runs. -/
def SearchState.reset : SearchState := { acts := [], ios := [], queries := [], muts := [], harvests := [], coords := [] }

/-- No part (R405). -/
def Solstice.reset : Solstice := { parts := [], nextPart := 0 }

/-- Not a member of any fabric (R436). -/
def Membership.reset : Membership :=
  { joined := false, joinAcks := [], view := 0, missed := 0, beatAcks := [], beaten := false, suspended := false, groups := [],
    lost := [], known := [], members := [], leaving := false }

/-- No map kept, no Leap (R436). -/
def MapLeap.reset : MapLeap :=
  { kept := [], memb := Membership.reset, outs := [], ins := [], nextLeap := 1, reclaims := [], partial_ := [] }

/-- An Ohmas port DISABLED, its configuration at the Almanac's default (R134, R135, R138). -/
def OPort.reset : OPort :=
  { status := 3, cfgLive := 0x7F, cfgStage := 0x7F, gen := 0, stat := 0, bringup := 0, txLocked := 0xFFFF,
    rxLocked := 0xFFFF, txFailed := 0, rxFailed := 0, txOut := 0, rxOut := 0, returned := 0,
    txSwitch := none, rxSwitch := none, fseqTx := 0, fseqRx := 0, replay := [], awaitReplay := false,
    replayed := (0, 0), credits := [0, 0, 0, 0, 0, 0], owed := [0, 0, 0, 0, 0, 0], assembling := [],
    onWire := [], kaCount := 0, kaMissed := 0, peerMax := 4096, ctrlWait := [], failedStep := 0 }

/-- A traffic-class queue at its reset values (R462, R468). -/
def TcQueue.reset : TcQueue :=
  { cfgLive := 16, cfgStage := 16, fifos := [[], [], [], [], [], []], s := 0, f := 0 }

/-- A port's traffic block at its reset values; MODE of the staged shaper as P96 resets it (R9, R468). -/
def TrafficPort.reset : TrafficPort :=
  { tcs := Vector.replicate 8 TcQueue.reset, v := 0, gen := 0, stat := 0, shapers := [], shpSel := 0,
    shpStage := (0, 0, 0), shpStat := 0 }

/-- No policer (R468). -/
def Policing.reset : Policing := { buckets := [], polSel := 0, polStage := (0, 0, 0), polStat := 0 }

/-- A bridge window at its reset values (R199). -/
def BridgeWin.reset : BridgeWin := { cfg := 0, dpa := 0, pva := 0, gen := 0 }

/-- The bridge at its reset values (R199, R200): every window closed, no host seen; the MSI-X vectors are
masked, as PCIe resets them. -/
def Bridge.reset : Bridge :=
  { wins := Vector.replicate 8 BridgeWin.reset, winSel := 0, winStage := (0, 0, 0), winStat := 0,
    ntfLive := (0, 0), ntfStage := (0, 0), ntfGen := 0, ntfStat := 0, hostUp := true,
    joined := false, joinAcks := [], reqs := [],
    snoops := [], holds := [], masked := List.range 2048, pendingVec := [] }

/-- A healthy tile. -/
def TileHealth.reset : TileHealth :=
  { lanesOut := 0, hamOut := 0, alusOut := 0, disabled := 0, retired := false, gated := false, leaving := none,
    returning := false, busy := false,
    bins := [], state := 0, rows := [], spares := [] }

/-- A region that runs. -/
def RegionState.reset : RegionState := { resetting := false, resets := 0, trackersOut := 0, ended := 0, masque := false }

/-- Fault handling at reset: HREMAP maps each slot to itself (R28), the staged blocks at their reset values
(R490, R494, R499) with the Almanac's defaults. -/
def Faults.reset : Faults :=
  { tiles := Vector.replicate 64 TileHealth.reset, regions := Vector.replicate 8 RegionState.reset,
    hremap := Vector.ofFn fun r => Vector.ofFn fun s => 8 * r.val + s.val, moving := [],
    ebLive := 0x0_069A_0008, ebStage := 0x0_069A_0008, ebNext := [], ebGen := 0, ebStat := 0, ebSel := 0,
    vgLive := 0x041C_0503, vgStage := 0x041C_0503, vgGen := 0, vgStat := 0, vgPasses := 0, katTile := 0,
    mqLive := (0x1_0000, 0xFFFF_FFFF), mqStage := (0x1_0000, 0xFFFF_FFFF), mqGen := 0, mqStat := 0, mqCount := 0, mqKind := 6, blocksOut := [], feign := 0 }

/-- No Almanac adopted: every field is at its default (R550). -/
def Almanac.reset : Almanac :=
  { adopted := false, personality := 0, groupBase := 0, failureDomain := 0, driverNodes := [], membKeepers := [],
    bridgeNode := 0, fields := [], agen := 0, copy := 0, digest := [] }

/-- Off, with no input (R598). -/
def Power.reset : Power :=
  { input := false, resetLow := false, off := true, state := 0, step := 0, fromStandby := false, holding := false,
    failed := false, entry := 0, standbyWaits := false, brownOut := false, railStep := 0, rising := [], stepsDone := [],
    domains := [], refclk := true, hostEn := false, elsOk := List.range 8, stacksUp := [], stackTries := Vector.replicate 8 0,
    denseDone := [], bootCount := 0, noChange := 0 }

/-- An empty log (R515, R526, R543). -/
def EventLog.reset : EventLog :=
  { next := 0, first := 0, last := 0, staged := [], lost := 0, lostFirst := 0, dropped := 0, alert := 0,
    mask := 0x1FF, ibi := true }

/-- The data plane with nothing in it. -/
def Node.reset : Node :=
  { alm := Almanac.reset, power := Power.reset, log := EventLog.reset, nodeId := 0, chainAddr := 0,
    ctxs := Contexts.reset, rings := [(0, Ring.reset)], trk := Trackers.reset, coh := Coherence.reset,
    prs := PairState.reset, ctr := Counters.reset, mem := Tiers.reset, prog := Programs.reset,
    srch := SearchState.reset, sol := Solstice.reset, ml := MapLeap.reset, flt := Faults.reset,
    ports := Vector.replicate 32 OPort.reset, unsent := [], rrPort := 0, traf := Vector.replicate 32 TrafficPort.reset,
    pol := Policing.reset, bridge := Bridge.reset, tele := [], out := [], free := 0 }

/-- An idle mailbox: FREE 512 is computed from it (R518). -/
def Mailbox.reset : Mailbox :=
  { addr := 0, remain := 0, stat := 0, op := 0, space := 0, target := 0, buffer := [], toWrite := [],
    inFlight := 0, request := [], closing := none, waits := false }

/-- The chain port before enumeration (R516, R543). -/
def Chain.reset : Chain :=
  { status := 0, alert := 0, head := false, base := 0, nextTag := 0, reqs := [], lastWr := [], gather := none, down := false,
    enumOut := false, owed := [], nextSession := 1 }

/-- A module as it ships: no owner key, nothing blown, the seal as last sampled closed (R586, R621). -/
def Security.reset : Security :=
  { ownerPub := [], storageKey := [], wrapped := [], requireBind := false, unsealed := false, fuses := 0,
    presLow := false, presOpen := false, presArmed := true, sealOk := true, sealOpens := 0, debugOpen := false,
    cleared := false, identity := false, challenge := 0, challenges := 0, lastRop := 0, lastStatus := 0,
    pushOk := 0, pushFail := 0, report := [], active := false, pending := false, trial := false,
    fwVersion := 0, svn := 0, manifestDigest := [], partDigests := [] }

/-- No sensor sampled. -/
def Sensors.reset : Sensors := { words := [] }

/-- The policy engine at rest: the policy block at its reset values (R530–R532), every cap 0 (R543), stacks
at their full issue rate. -/
def Policy.reset : Policy :=
  { live := (0x8003_047E, 0x554B_5F55_695F, 0x0A00_2855_2003), stage := (0x8003_047E, 0x554B_5F55_695F,
    0x0A00_2855_2003), next := [], gen := 0, stat := 0, powerCap := 0, stackRate := 256, thermCap := [],
    hotStacks := [], hotTiles := [], idleTiles := [], propLast := 0, proposals := [] }

/-- The I3C target at its static address (R539). -/
def I3c.reset : I3c := { staticAddr := 0x3C, dynAddr := none, index := 0 }

/-- Halord with erased flash, as shipped. -/
def Halord.reset : Halord :=
  { flash := [], restarting := false, mbx := Mailbox.reset, chain := Chain.reset, session := none, push := none,
    sec := Security.reset, sens := Sensors.reset, plc := Policy.reset, i3c := I3c.reset }

/-- The machine Off, with nothing in its queue. -/
def State.reset : State := { pending := [], nd := Node.reset, hl := Halord.reset }

end Sys2Proof.Machine
end

