-- ==== Sys2Proof/Machine/Almanac.lean ====
section
/-! DEFINITION. The Almanac: its fields, its image and the tests a copy must pass (R548–R551). -/

namespace Sys2Proof.Machine

/-- One field of R550 whose value is a number: TYPE, bytes, default, lowest and highest value. -/
structure AlmField where
  type : Nat
  bytes : Nat
  default : Nat
  lo : Nat
  hi : Nat
  deriving DecidableEq, Repr

/-- The numeric fields of R550 with a default; EB limits' upper bounds are their ranges. -/
def almFields : List AlmField := [
  ⟨0x0001, 1, 0, 0, 1⟩,
  ⟨0x0101, 4, 0xFFFFFFFF, 0, 0xFFFFFFFF⟩, ⟨0x0102, 4, 0, 0, 0xFFFFFFFF⟩, ⟨0x0103, 2, 200, 50, 1000⟩,
  ⟨0x0104, 4, 32768, 4096, 1048576⟩, ⟨0x0105, 1, 8, 2, 255⟩, ⟨0x0106, 4, 2 ^ 20, 2 ^ 16, 2 ^ 28⟩,
  ⟨0x0107, 4, 2 ^ 16, 2 ^ 8, 2 ^ 24⟩, ⟨0x0108, 4, 2 ^ 22, 2 ^ 18, 2 ^ 28⟩, ⟨0x0109, 1, 8, 2, 64⟩,
  ⟨0x010A, 2, 16, 0, 4095⟩] ++ [
  ⟨0x0201, 2, 0xFFFF, 0, 0xFFFF⟩, ⟨0x0202, 8, 2 ^ 31, 2 ^ 24, 2 ^ 34⟩, ⟨0x0203, 2, 624, 0, 65535⟩,
  ⟨0x0204, 2, 64, 0, 65535⟩, ⟨0x0205, 2, 64, 0, 65535⟩, ⟨0x0206, 2, 0, 0, 16320⟩, ⟨0x0207, 2, 512, 64, 4096⟩,
  ⟨0x0208, 2, 256, 0, 1024⟩, ⟨0x0209, 1, 0, 0, 1⟩] ++ [
  ⟨0x0301, 1, 4, 2, 255⟩, ⟨0x0302, 1, 4, 1, 64⟩, ⟨0x0303, 2, 8, 1, 65535⟩, ⟨0x0304, 1, 26, 20, 30⟩,
  ⟨0x0305, 1, 4, 0, 255⟩, ⟨0x0306, 1, 2, 0, 255⟩, ⟨0x0307, 1, 1, 0, 255⟩, ⟨0x0308, 1, 4, 0, 4⟩,
  ⟨0x0309, 1, 3, 0, 3⟩, ⟨0x030A, 1, 1, 0, 1⟩, ⟨0x030B, 1, 0, 0, 127⟩, ⟨0x030C, 4, 64, 1, 0xFFFFFFFF⟩,
  ⟨0x030D, 2, 4, 1, 65535⟩] ++ [
  ⟨0x0401, 2, 1150, 400, 1150⟩, ⟨0x0402, 2, 1150, 400, 65535⟩, ⟨0x0403, 1, 110, 60, 115⟩,
  ⟨0x0404, 1, 95, 60, 105⟩, ⟨0x0405, 1, 80, 50, 90⟩, ⟨0x0406, 1, 85, 50, 95⟩, ⟨0x0407, 1, 64, 0, 255⟩,
  ⟨0x0408, 1, 0, 0, 7⟩, ⟨0x0409, 1, 0x3C, 0x08, 0x77⟩]

/-- The numeric field with a TYPE. -/
def almFieldOf (type : Nat) : Option AlmField := almFields.find? fun f => f.type == type

/-- The value of a numeric field: as the adopted Almanac gives it, or its default (R549). -/
def almValue (a : Almanac) (type : Nat) : Nat :=
  Tbl.getD a.fields type (((almFieldOf type).map (·.default)).getD 0)

/-- Little-endian 16-bit numbers. -/
def halfWords : Nat → Bytes → List Nat
  | 0, _ => []
  | n + 1, bs => leNat (bs.take 2) :: halfWords n (bs.drop 2)

/-- A list has no number twice. -/
def distinctNats : List Nat → Bool
  | [] => true
  | x :: xs => !xs.contains x && distinctNats xs

/-- One record: TYPE, OPT, value bytes. -/
structure AlmRecord where
  type : Nat
  opt : Bool
  value : Bytes
  deriving DecidableEq, Repr

/-- The records of an image's record area: none when a record breaks R549's form. -/
def almRecords : Nat → Bytes → Option (List AlmRecord)
  | 0, bs => if bs.isEmpty then some [] else none
  | n + 1, bs =>
    if bs.isEmpty then some []
    else if bs.length < 8 then none
    else
      let w := wordOf (leNat (bs.take 8))
      let vlen := fieldOf w 31 16
      let padded := ceilDiv vlen 8 * 8
      let body := bs.drop 8
      if fieldOf w 63 32 ≠ 0 || body.length < padded then none
      else if ((body.take padded).drop vlen).any (fun b => b ≠ 0) then none
      else
        match almRecords n (body.drop padded) with
        | none => none
        | some rest => some (⟨fieldOf w 14 0, bitOf w 15, body.take vlen⟩ :: rest)

/-- TYPEs rise strictly. -/
def almAscending : List AlmRecord → Bool
  | a :: b :: rest => decide (a.type < b.type) && almAscending (b :: rest)
  | _ => true

/-- The size R550 gives a known TYPE holds, and the record carries OPT 0; an unknown TYPE carries OPT 1
(R549). -/
def almRecordOk (r : AlmRecord) : Bool :=
  if r.type = 0x0002 || r.type = 0x0003 || r.type = 0x0006 then !r.opt && r.value.length == 2
  else if r.type = 0x0004 then
    !r.opt && r.value.length % 2 == 0 && decide (2 ≤ r.value.length) && decide (r.value.length ≤ 32)
  else if r.type = 0x0005 then !r.opt && r.value.length == 10
  else match almFieldOf r.type with
    | some f => !r.opt && r.value.length == f.bytes
    | none => r.opt

/-- The node IDs of a record lie in 0x0001–0xFFEF and are distinct. -/
def almNodesOk (bs : Bytes) : Bool :=
  let ids := halfWords (bs.length / 2) bs
  ids.all (fun i => decide (1 ≤ i ∧ i ≤ 0xFFEF)) && distinctNats ids

/-- The value of a record lies within its range in R550; BRIDGE_NODE is tested against GROUP_BASE. -/
def almInRange (groupBase : Nat) (r : AlmRecord) : Bool :=
  let v := leNat r.value
  if r.type = 0x0002 then decide (1 ≤ v ∧ v ≤ 0xFFE0)
  else if r.type = 0x0003 then decide (1 ≤ v)
  else if r.type = 0x0004 || r.type = 0x0005 then almNodesOk r.value
  else if r.type = 0x0006 then
    v == 0 || (decide (v ≤ 0xFFEF) && !(decide (groupBase ≤ v) && decide (v ≤ groupBase + 15)))
  else match almFieldOf r.type with
    | some f => decide (f.lo ≤ v ∧ v ≤ f.hi)
    | none => true

/-- The record of a TYPE. -/
def almFind (rs : List AlmRecord) (type : Nat) : Option AlmRecord := rs.find? fun r => r.type == type

/-- The number in the record of a TYPE, or `d`. -/
def almNum (rs : List AlmRecord) (type d : Nat) : Nat := ((almFind rs type).map fun r => leNat r.value).getD d

/-- The Almanac that checked records make (R549, R550). -/
def almOfRecords (rs : List AlmRecord) (agen : Nat) (digest : Bytes) : Almanac :=
  { adopted := true
    personality := almNum rs 0x0001 0
    groupBase := almNum rs 0x0002 0
    failureDomain := almNum rs 0x0003 0
    driverNodes := ((almFind rs 0x0004).map fun r => halfWords (r.value.length / 2) r.value).getD []
    membKeepers := ((almFind rs 0x0005).map fun r => halfWords 5 r.value).getD []
    bridgeNode := almNum rs 0x0006 0
    fields := (rs.filter fun r => (almFieldOf r.type).isSome).foldl (fun t r => Tbl.put t r.type (leNat r.value)) []
    agen := agen
    copy := 0
    digest := digest }

/-- The cross-field bounds of test 7: R290's, the EB fields' limits, PWR_CAP_DEF's. -/
def almCrossOk (a : Almanac) : Bool :=
  let home := almValue a 0x0203
  let cache := almValue a 0x0204
  let cow := almValue a 0x0205
  home % 8 == 0 && cache % 8 == 0 && cow % 8 == 0 && decide (8 ≤ home) && decide (home + cache + cow ≤ 752) &&
  decide (almValue a 0x0305 ≤ almValue a 0x0308) && decide (almValue a 0x0306 ≤ almValue a 0x0309) &&
  decide (almValue a 0x0307 ≤ almValue a 0x030A) && decide (almValue a 0x0402 ≤ almValue a 0x0401)

/-- The outcome of checking an Almanac copy. -/
inductive AlmCheck where
  /-- It fails the test of this row number of R551. -/
  | fails (test : Nat)
  | passes (a : Almanac)
  deriving DecidableEq, Repr

/-- Tests 4 to 7 of R551 on the records of an image. -/
def almCheckRecords (area : Bytes) (nrec agen : Nat) (digest : Bytes) : AlmCheck :=
  match almRecords (area.length / 8 + 1) area with
  | none => .fails 4
  | some rs =>
    if rs.length ≠ nrec || !almAscending rs || !rs.all almRecordOk then .fails 4
    else if !rs.all (almInRange (almNum rs 0x0002 0)) then .fails 5
    else if !([0x0002, 0x0003, 0x0004, 0x0005].all fun t => (almFind rs t).isSome) then .fails 6
    else
      let a := almOfRecords rs agen digest
      if almCrossOk a then .passes a else .fails 7

/-- Checks an Almanac image, read through `get` (bytes from an offset), under the tests of R551 in order,
against the installed owner key (`ownerPub`, empty when none). -/
def almCheck (get : Nat → Nat → Bytes) (ownerPub : Bytes) : AlmCheck :=
  let h := bytesToWords 8 (get 0 64)
  let w1 := wordAt h 1
  let length := fieldOf w1 31 0
  let nrec := fieldOf w1 47 32
  let agen := fieldOf (wordAt h 2) 31 0
  let sigMode := fieldOf (wordAt h 3) 7 0
  if fieldOf (wordAt h 0) 31 0 ≠ 0x5D96A1A0 || fieldOf (wordAt h 0) 47 32 ≠ 1 || fieldOf (wordAt h 0) 63 48 ≠ 0 ||
     fieldOf w1 63 48 ≠ 0 || length % 8 ≠ 0 || length < 64 ||
     length > 262144 - (if sigMode = 1 then 64 else 0) || nrec < 5 || nrec > 1024 ||
     fieldOf (wordAt h 2) 63 32 ≠ Config.partId || agen = 0 || sigMode > 1 || fieldOf (wordAt h 3) 63 8 ≠ 0 ||
     wordAt h 4 ≠ 0 || wordAt h 5 ≠ 0 || wordAt h 6 ≠ 0 || fieldOf (wordAt h 7) 31 0 ≠ 0 then .fails 1
  else
    let body := get 0 length
    if crc32c (body.take 60 ++ body.drop 64) ≠ fieldOf (wordAt h 7) 63 32 then .fails 2
    else
      let digest := sha512 body
      if sigMode = 1 && (ownerPub.isEmpty || !edVerify ownerPub digest (get length 64)) then .fails 3
      else if sigMode = 0 && !ownerPub.isEmpty then .fails 3
      else almCheckRecords (body.drop 64) nrec agen digest

/-- Which copy is adopted of the two outcomes: the higher AGEN, copy 0 on equality (R551). -/
def almChoose (c0 c1 : AlmCheck) : Option Almanac :=
  match c0, c1 with
  | .passes a, .passes b => some (if a.agen < b.agen then { b with copy := 1 } else a)
  | .passes a, .fails _ => some a
  | .fails _, .passes b => some { b with copy := 1 }
  | .fails _, .fails _ => none

end Sys2Proof.Machine
end

