-- ==== Sys2Proof/Machine/Codec.lean ====
section
/-! DEFINITION. The forms of what crosses the block's boundary: packet headers (R112), frame trailers (R101),
control flits (R105), chain frames (R505) and log entries (R524). -/

namespace Sys2Proof.Machine

/-! ### Packets -/

/-- FLAGS bits of R113. -/
def hasPayload (p : Packet) : Bool := p.flags.getLsbD 0
/-- ACQUIRE. -/
def isAcquire (p : Packet) : Bool := p.flags.getLsbD 1
/-- CTRL_ACCESS. -/
def isCtrl (p : Packet) : Bool := p.flags.getLsbD 2
/-- CNT. -/
def isCnt (p : Packet) : Bool := p.flags.getLsbD 3
/-- PEER. -/
def isPeer (p : Packet) : Bool := p.flags.getLsbD 4
/-- LAST. -/
def isLast (p : Packet) : Bool := p.flags.getLsbD 5

/-- The first 60 bytes of a packet's header as a number, bit 0 first (R112). -/
def packetHeaderNat (p : Packet) : Nat :=
  let w0 := p.dst.toNat + p.src.toNat * 2 ^ 16 + p.cls.toNat * 2 ^ 32 + p.entropy.toNat * 2 ^ 35 +
    p.opcode.toNat * 2 ^ 40 + p.ctx.toNat * 2 ^ 48
  let w1 := p.seq.toNat + p.epoch.toNat * 2 ^ 32 + p.flags.toNat * 2 ^ 48
  let w2 := p.mapgen.toNat + p.tag.toNat * 2 ^ 32
  let w4 := p.len.toNat + p.rsv4.toNat * 2 ^ 13 + p.status.toNat * 2 ^ 16 + p.subop.toNat * 2 ^ 24 +
    p.deadline.toNat * 2 ^ 32 + p.aux.toNat * 2 ^ 48
  w0 + w1 * 2 ^ 64 + w2 * 2 ^ 128 + p.pva.toNat * 2 ^ 192 + w4 * 2 ^ 256 + p.op5.toNat * 2 ^ 320 +
    p.op6.toNat * 2 ^ 384 + p.offset.toNat * 2 ^ 448

/-- HCRC as the header's other fields require it. -/
def packetHcrc (p : Packet) : BitVec 32 := BitVec.ofNat 32 (crc32c (leBytes 60 (packetHeaderNat p)))

/-- The header flit of a packet, 64 bytes. -/
def packetHeader (p : Packet) : Bytes := leBytes 64 (packetHeaderNat p + p.hcrc.toNat * 2 ^ 480)

/-- The packet of a header flit and its data flits. -/
def packetOfFlits (h : Bytes) (data : Bytes) : Packet :=
  let n := leNat (h.take 64)
  let f := fun (w hi lo : Nat) => natField n (w * 64 + hi) (w * 64 + lo)
  { dst := BitVec.ofNat 16 (f 0 15 0), src := BitVec.ofNat 16 (f 0 31 16), cls := BitVec.ofNat 3 (f 0 34 32),
    entropy := BitVec.ofNat 5 (f 0 39 35), opcode := BitVec.ofNat 8 (f 0 47 40), ctx := BitVec.ofNat 16 (f 0 63 48),
    seq := BitVec.ofNat 32 (f 1 31 0), epoch := BitVec.ofNat 16 (f 1 47 32), flags := BitVec.ofNat 16 (f 1 63 48),
    mapgen := BitVec.ofNat 32 (f 2 31 0), tag := BitVec.ofNat 32 (f 2 63 32), pva := wordOf (f 3 63 0),
    len := BitVec.ofNat 13 (f 4 12 0), rsv4 := BitVec.ofNat 3 (f 4 15 13), status := BitVec.ofNat 8 (f 4 23 16),
    subop := BitVec.ofNat 8 (f 4 31 24), deadline := BitVec.ofNat 16 (f 4 47 32), aux := BitVec.ofNat 16 (f 4 63 48),
    op5 := wordOf (f 5 63 0), op6 := wordOf (f 6 63 0), offset := BitVec.ofNat 32 (f 7 31 0),
    hcrc := BitVec.ofNat 32 (f 7 63 32), data := data, poison := false }

/-- The packet with its HCRC set. -/
def sealPacket (p : Packet) : Packet := { p with hcrc := packetHcrc p }

/-- Whether a packet's HCRC matches its header. -/
def hcrcOk (p : Packet) : Bool := p.hcrc == packetHcrc p

/-- Data flits of a packet. -/
def dataFlits (p : Packet) : Nat := ceilDiv p.data.length 64

/-- Payload bytes filled up with zeros to whole flits (R111). -/
def padFlits (bs : Bytes) : Bytes := sliceOf bs 0 (ceilDiv bs.length 64 * 64)

/-- The payload of a packet: LEN bytes of its data flits. -/
def payloadOf (p : Packet) : Bytes := if hasPayload p then sliceOf p.data 0 p.len.toNat else []

/-- A packet with every field 0 but those that name it: class, opcode, LAST set. -/
def blankPacket (dst src cls opcode : Nat) : Packet :=
  { dst := BitVec.ofNat 16 dst, src := BitVec.ofNat 16 src, cls := BitVec.ofNat 3 cls, entropy := 0,
    opcode := BitVec.ofNat 8 opcode, ctx := 0, seq := 0, epoch := 0, flags := 0x20, mapgen := 0, tag := 0, pva := 0,
    len := 0, rsv4 := 0, status := 0, subop := 0, deadline := 0, aux := 0, op5 := 0, op6 := 0, offset := 0,
    hcrc := 0, data := [], poison := false }

/-- A packet that carries `bs` as its payload (R111): PAYLOAD set, LEN its length. -/
def withPayload (p : Packet) (bs : Bytes) : Packet :=
  { p with flags := p.flags ||| 1, len := BitVec.ofNat 13 bs.length, data := padFlits bs }

/-! ### Frames and control flits -/

/-- A frame trailer without its FCRC (R101). -/
def trailerLow (ftype vc : Nat) (ackv : Bool) (fseq ack : Nat) : Nat :=
  ftype % 2 ^ 4 + vc % 2 ^ 3 * 2 ^ 4 + bit01 ackv * 2 ^ 7 + fseq % 2 ^ 16 * 2 ^ 8 + ack % 2 ^ 16 * 2 ^ 24

/-- FCRC of a flit and its trailer bits 39:0 (R101). -/
def frameCrc (flit : Bytes) (low : Nat) : Nat := crc24 (flit ++ leBytes 5 low)

/-- A whole frame trailer. -/
def frameTrailer (ftype vc : Nat) (ackv : Bool) (fseq ack : Nat) (flit : Bytes) : Word :=
  let low := trailerLow ftype vc ackv fseq ack
  wordOf (low + frameCrc flit low * 2 ^ 40)

/-- A 64-byte flit holding `parts`, each at its byte offset. -/
def flitOf (parts : List (Nat × Bytes)) : Bytes :=
  parts.foldl (fun f q => overlayAt f q.1 q.2) (List.replicate 64 0)

/-- CREDIT (R105). -/
def creditFlit (counts : List Nat) : Bytes := flitOf [(0, [1]), (8, counts.flatMap (leBytes 2))]
/-- REPLAY_REQ. -/
def replayReqFlit (fseq : Nat) : Bytes := flitOf [(0, [2]), (8, leBytes 2 fseq)]
/-- LANE_STATE. -/
def laneStateFlit (mask count : Nat) : Bytes := flitOf [(0, [3]), (8, leBytes 1 mask), (9, leBytes 1 count)]
/-- KEEPALIVE. -/
def keepaliveFlit (count : Nat) : Bytes := flitOf [(0, [4]), (8, leBytes 4 count)]
/-- HELLO. -/
def helloFlit (node domain personality port : Nat) (credits : List Nat) : Bytes :=
  flitOf [(0, [5]), (8, leBytes 2 node), (10, leBytes 2 domain), (12, leBytes 1 personality), (13, leBytes 1 port),
    (16, credits.flatMap (leBytes 2))]

/-- A little-endian number of `n` bytes at offset `o`. -/
def numAt (bs : Bytes) (o n : Nat) : Nat := leNat (sliceOf bs o n)

/-! ### Chain frames (R505) -/

/-- A chain frame's fields. -/
structure ChainFrame where
  dst : Nat
  src : Nat
  type : Nat
  tag : Nat
  status : Nat
  payload : Bytes
  deriving DecidableEq, Repr

/-- The bytes of a chain frame, CRC included. -/
def chainEncode (f : ChainFrame) : Bytes :=
  let head := leBytes 1 f.dst ++ leBytes 1 f.src ++ leBytes 1 f.type ++ leBytes 1 f.tag ++
    leBytes 2 f.payload.length ++ leBytes 1 f.status ++ [0]
  let body := head ++ f.payload
  body ++ leBytes 4 (crc32c body)

/-- The fields of a chain frame's bytes; none when its length or its CRC does not hold. -/
def chainDecode (bs : Bytes) : Option ChainFrame :=
  let len := numAt bs 4 2
  if bs.length ≠ 12 + len || len > 256 then none
  else if crc32c (bs.take (8 + len)) ≠ numAt bs (8 + len) 4 then none
  else some { dst := numAt bs 0 1 % 32, src := numAt bs 1 1, type := numAt bs 2 1, tag := numAt bs 3 1,
              status := numAt bs 6 1, payload := (bs.drop 8).take len }

/-! ### Log entries (R524) -/

/-- The 64 bytes of a log entry. -/
def logEncode (e : LogEntry) : Bytes :=
  let body :=
    leBytes 6 e.lseq ++ leBytes 1 e.sev ++ leBytes 1 e.domain ++ leBytes 8 e.dcyc ++
    leBytes 2 e.code ++ leBytes 1 e.uclass ++ leBytes 1 e.unit_ ++ leBytes 2 e.ctx ++ leBytes 2 e.node ++
    leBytes 4 e.boot ++ leBytes 1 e.status ++ leBytes 3 0 ++
    leBytes 8 e.data0 ++ leBytes 8 e.data1 ++ leBytes 8 e.data2 ++ leBytes 4 0
  body ++ leBytes 4 (crc32c body)

/-! ### Completion status codes (R58) -/

/-- Done in full. -/
def stOK : Nat := 0
/-- Not done; retry with the same SEQ. -/
def stRetry : Nat := 1
/-- This home no longer homes the extent. -/
def stMoved : Nat := 2
/-- The extent has been revoked from the context. -/
def stRevoked : Nat := 3
/-- Rights, privilege or ring rules refuse. -/
def stDenied : Nat := 4
/-- Malformed, or a reserved field or encoding. -/
def stInvalid : Nat := 5
/-- The data read is poisoned. -/
def stPoisoned : Nat := 6
/-- Part done. -/
def stPartial : Nat := 7
/-- Deadline missed; a shadow copy or fill pattern was served. -/
def stLateCheap : Nat := 8
/-- Deadline missed; the request failed. -/
def stLateFail : Nat := 9
/-- A resource that is not spilled is exhausted. -/
def stNoResource : Nat := 10
/-- Request state was lost to an internal error. -/
def stInternal : Nat := 11
/-- Cancelled. -/
def stAborted : Nat := 12
/-- The retry is older than the dedupe window. -/
def stStaleSeq : Nat := 13
/-- The tamper seal is broken. -/
def stUnsealed : Nat := 14
/-- Outside a presence window. -/
def stPresence : Nat := 15

/-- The first status that a list of (refusal applies, status) pairs gives (R59). -/
def firstStatus : List (Bool × Nat) → Option Nat
  | [] => none
  | (b, st) :: rest => if b then some st else firstStatus rest

end Sys2Proof.Machine
end

