-- ==== Sys2Proof/Machine/Ops.lean ====
section
/-! DEFINITION. The operations every family shares: telemetry, the event log and its alerts, and the way a packet
takes from the module to the fibre (R125, R437–R449). -/

namespace Sys2Proof.Machine

/-- A vector with one place changed; an index past the end changes nothing. -/
def putAt {α : Type} {k : Nat} (v : Vector α k) (i : Nat) (x : α) : Vector α k := v.setIfInBounds i x

/-- The value at a place, or `d` past the end. -/
def getAt {α : Type} {k : Nat} (v : Vector α k) (i : Nat) (d : α) : α := v.getD i d

/-- The list with place `i` changed by `f`. -/
def modAt {α : Type} (l : List α) (i : Nat) (f : α → α) : List α := l.modify i f

/-! ### Almanac values, telemetry, free values -/

/-- A numeric Almanac field's value in force (R550). -/
def cfgNum (n : Node) (type : Nat) : Nat := almValue n.alm type

/-- Adds `k` to the telemetry counter at an offset of the counter block; counters are 64-bit and wrap (R523). -/
def bump (n : Node) (off k : Nat) : Node :=
  { n with tele := Tbl.put n.tele off ((Tbl.getD n.tele off 0 + k) % 2 ^ 64) }

/-- Steps the model's counter of free values. -/
def stepFree (n : Node) : Node := { n with free := n.free + 1 }

/-- Adds an emission. -/
def emit (n : Node) (o : Out) : Node := { n with out := n.out ++ [o] }

/-! ### Alerts and the event log (R515, R524, R526) -/

/-- ALERT_STATUS bits (R515). -/
def alTherm : Nat := 0
/-- POWER. -/
def alPower : Nat := 1
/-- FAULT. -/
def alFault : Nat := 2
/-- LINK. -/
def alLink : Nat := 3
/-- DRIVE. -/
def alDrive : Nat := 4
/-- CHAIN. -/
def alChain : Nat := 5
/-- SECURITY. -/
def alSecurity : Nat := 6
/-- LOG_DROP. -/
def alLogDrop : Nat := 7
/-- FAILED. -/
def alFailed : Nat := 8

/-- Sets a bit of ALERT_STATUS. When it was clear and MASK enables it, the module sends an ALERT frame to the head
over the chain (R516) and raises an in-band interrupt on I3C (R539). -/
def raiseAlert (n : Node) (bit : Nat) : Node :=
  if bitOf n.log.alert bit then n
  else
    let alert := putField n.log.alert bit bit 1
    let n := { n with log := { n.log with alert := alert } }
    if bitOf n.log.mask bit then
      let n := if n.chainAddr = 0 then n else
        emit n (.chain (chainEncode { dst := 1, src := n.chainAddr, type := 6, tag := 0, status := 0,
                                      payload := leBytes 8 alert.toNat }))
      if n.log.ibi then emit n (.ibi (fieldOf alert 7 0)) else n
    else n

/-- What an event says of itself, beside its place and time (R524). -/
structure Event where
  sev : Nat
  code : Nat
  uclass : Nat := 0
  unit_ : Nat := 0
  ctx : Nat := 0
  node : Nat := 0
  status : Nat := 0
  data0 : Nat := 0
  data1 : Nat := 0
  data2 : Nat := 0
  deriving DecidableEq, Repr

/-- SEV values. -/
def sevInfo : Nat := 0
/-- NOTICE. -/
def sevNotice : Nat := 1
/-- WARN. -/
def sevWarn : Nat := 2
/-- ERROR. -/
def sevError : Nat := 3
/-- FATAL. -/
def sevFatal : Nat := 4

/-- Drops the newest INFO entry of a staging buffer, if it holds one (R526). -/
def dropNewestInfo (es : List LogEntry) : Option (List LogEntry) :=
  let rec go : List LogEntry → Option (List LogEntry)
    | [] => none
    | e :: rest => if e.sev = 0 then some rest else (go rest).map (e :: ·)
  (go es.reverse).map List.reverse

/-- Logs an event: it takes the next LSEQ and an entry of the staging buffer, when the buffer has room or the
event is FATAL and an INFO entry can give way; otherwise it is not kept (R526). -/
def logEvent (n : Node) (e : Event) : Node :=
  let entry : LogEntry :=
    { lseq := n.log.next, sev := e.sev, domain := (Config.logDomain n.free).val,
      dcyc := (Config.cycles n.free).toNat, code := e.code, uclass := e.uclass, unit_ := e.unit_, ctx := e.ctx,
      node := e.node, boot := n.power.bootCount, status := e.status, data0 := e.data0, data1 := e.data1,
      data2 := e.data2 }
  let kept : Option (List LogEntry) :=
    if n.log.staged.length < 4096 then some (n.log.staged ++ [entry])
    else if e.sev = sevFatal then (dropNewestInfo n.log.staged).map (· ++ [entry]) else none
  let log := match kept with
    | some es => { n.log with next := n.log.next + 1, last := n.log.next, staged := es }
    | none => { n.log with next := n.log.next + 1, last := n.log.next, lost := n.log.lost + 1,
                           lostFirst := if n.log.lost = 0 then n.log.next else n.log.lostFirst,
                           dropped := n.log.dropped + 1 }
  let n := { stepFree n with log := log }
  bump n (0x138000 + 8 * (if kept.isSome then 5 else 6)) 1

/-- An event whose class of codes R525 gives, but neither its code nor its severity: `kind` is the model's own
number of the event. -/
def otherEvent (cls kind : Nat) : Event :=
  { sev := (Config.logSev (cls * 256 + kind)).val, code := cls * 256 + (Config.logLow (cls * 256 + kind)).toNat }

/-! ### Nodes and pairs (R122) -/

/-- The bridge's node ID on the chain head; 0 where there is none (R197). -/
def bridgeId (n : Node) : Nat := if n.power.hostEn then n.alm.bridgeNode else 0

/-- An ID of the module's own. -/
def isOwn (n : Node) (id : Nat) : Bool := (id == n.nodeId || id == bridgeId n) && id != 0

/-- The key of a pair: own node and peer. -/
def pairKey (own peer : Nat) : Nat := own * 65536 + peer

/-- A pair of which nothing is known: counters at 1, nothing delivered. -/
def Pair.fresh : Pair :=
  { usable := false, resetting := false, inc := none, next := [1, 1, 1, 1, 1, 1], deliv := [0, 0, 0], reorder := [],
    dups := [[], [], []], sent := [], marks := [], refused := [], open_ := [], held := [], rcvdCmp := 0, cmpAhead := [],
    waiting := [] }

/-- The state of a pair. -/
def pairOf (n : Node) (own peer : Nat) : Pair := Tbl.getD n.prs.pairs (pairKey own peer) Pair.fresh

/-- The node with a pair's state replaced. -/
def setPair (n : Node) (own peer : Nat) (q : Pair) : Node :=
  { n with prs := { n.prs with pairs := Tbl.put n.prs.pairs (pairKey own peer) q } }

/-! ### Traffic blocks (R437–R449) -/

/-- Flit bytes of a packet: 64 × (1 + data flits) (R441). -/
def flitBytes (p : Packet) : Nat := 64 * (1 + dataFlits p)

/-- A bucket lets its head packet pass (R447). -/
def bucketOpen (b : Bucket) : Bool :=
  !bitOf b.cfg 0 || (fieldOf b.rate 31 0 != 0 && fieldOf b.burst 31 0 != 0 && decide (0 < b.level))

/-- The tokens a packet costs (R446), in units of 2^-16. -/
def bucketCost (b : Bucket) (p : Packet) : Int :=
  65536 * (if bitOf b.cfg 4 then ((flitBytes p + fieldOf b.cfg 15 8 : Nat) : Int) else 1)

/-- The bucket after a packet has passed it; a disabled bucket charges nothing. -/
def bucketPay (b : Bucket) (p : Packet) : Bucket :=
  if bitOf b.cfg 0 then { b with level := b.level - bucketCost b p } else b

/-- The later of two tags in 48-bit serial arithmetic (R441). -/
def tagMax (a b : Nat) : Nat := if serialLt 48 a b then b else a

/-- Whether a TC queue holds any packet. -/
def tcBacklogged (q : TcQueue) : Bool := q.fifos.any fun f => !f.isEmpty

/-- WEIGHT of a TC; TC 7 takes no part in the fair queueing. -/
def tcWeight (q : TcQueue) : Nat := fieldOf q.cfgLive 7 0

/-- A TC queue's start tag when a packet wakes it (R442). -/
def wakeTag (q : TcQueue) (v : Nat) : Nat :=
  if bitOf q.cfgLive 8 then
    tagMax q.f ((v + 2 ^ 48 - fieldOf q.cfgLive 39 16 * 65536 / max 1 (tcWeight q) % 2 ^ 48) % 2 ^ 48)
  else tagMax q.f v

/-- A packet joins a TC queue. -/
def pushTc (t : TrafficPort) (tc : Nat) (p : Packet) : TrafficPort :=
  let q := getAt t.tcs tc TcQueue.reset
  let q := if tcBacklogged q then q else { q with s := wakeTag q t.v }
  { t with tcs := putAt t.tcs tc { q with fifos := modAt q.fifos p.cls.toNat (· ++ [p]) } }

/-- The first packet of a shaper in the class order DAT, FWD, REQ, and the shaper without it (R438). -/
def shaperHead (sh : Shaper) : Option (Packet × Shaper) :=
  match sh.dat, sh.fwd, sh.req with
  | p :: rest, _, _ => some (p, { sh with dat := rest })
  | [], p :: rest, _ => some (p, { sh with fwd := rest })
  | [], [], p :: rest => some (p, { sh with req := rest })
  | [], [], [] => none

/-- Passes packets from a context's shaper to the TC queue it names, while its head packet is eligible
(R438, R446, R449). -/
def drainShaper (ctx : Nat) : Nat → TrafficPort → TrafficPort
  | 0, t => t
  | fuel + 1, t =>
    match Tbl.find? t.shapers ctx with
    | none => t
    | some sh =>
      if !bucketOpen sh.bucket then t
      else
        match shaperHead sh with
        | none => t
        | some (p, sh') =>
          let sh' := { sh' with bucket := bucketPay sh.bucket p }
          let t := { t with shapers := Tbl.put t.shapers ctx sh' }
          drainShaper ctx fuel (pushTc t (fieldOf sh.bucket.cfg 3 1) p)

/-- Packets a shaper holds. -/
def shaperCount (sh : Shaper) : Nat := sh.dat.length + sh.fwd.length + sh.req.length

/-- Runs a context's shaper on a port. -/
def runShaper (t : TrafficPort) (ctx : Nat) : TrafficPort :=
  match Tbl.find? t.shapers ctx with
  | none => t
  | some sh => drainShaper ctx (shaperCount sh) t

/-- The TC queue of a packet that passes no shaper: TC 7 for MGT and CTX 0, else the one its context's shaper
names (R437). -/
def directTc (t : TrafficPort) (p : Packet) : Nat :=
  if p.cls = 5 || p.ctx = 0 then 7
  else match Tbl.find? t.shapers p.ctx.toNat with
    | some sh => fieldOf sh.bucket.cfg 3 1
    | none => 0

/-- A packet enters a port's traffic block (R437). -/
def enqueue (t : TrafficPort) (p : Packet) : TrafficPort :=
  let ctx := p.ctx.toNat
  match Tbl.find? t.shapers ctx with
  | none => pushTc t (directTc t p) p
  | some sh =>
    if p.cls = 0 then runShaper { t with shapers := Tbl.put t.shapers ctx { sh with req := sh.req ++ [p] } } ctx
    else if p.cls = 1 then runShaper { t with shapers := Tbl.put t.shapers ctx { sh with fwd := sh.fwd ++ [p] } } ctx
    else if p.cls = 3 then runShaper { t with shapers := Tbl.put t.shapers ctx { sh with dat := sh.dat ++ [p] } } ctx
    else pushTc t (directTc t p) p

/-! ### Port choice (R125, R437) -/

/-- STATE of an Ohmas port (R134): 0 DOWN, 1 TRAINING, 2 UP, 3 DISABLED. -/
def portState (o : OPort) : Nat := fieldOf o.status 1 0

/-- A port can carry a packet: it is up, its region is not resetting (R137), and its peer accepts the size. -/
def portCarries (n : Node) (i : Nat) (p : Packet) : Bool :=
  let o := getAt n.ports i OPort.reset
  portState o == 2 && !(getAt n.flt.regions (i / 4) RegionState.reset).resetting &&
    decide (p.data.length ≤ o.peerMax)

/-- The packet's context has no shaper in its way on a port (R437). -/
def shaperAllows (n : Node) (i : Nat) (p : Packet) : Bool :=
  match Tbl.find? (getAt n.traf i TrafficPort.reset).shapers p.ctx.toNat with
  | none => true
  | some sh => !bitOf sh.bucket.cfg 0 || decide (0 < sh.bucket.level)

/-- Credits a port holds on the packet's VC. -/
def portCredits (n : Node) (i : Nat) (p : Packet) : Nat :=
  (getAt n.ports i OPort.reset).credits.getD p.cls.toNat 0

/-- The port a packet leaves by: among the ports that carry it and whose shaper allows it (or all that carry
it when none does), the one with the most free credits on its VC, round robin among equals. -/
def portChoice (n : Node) (p : Packet) : Option Nat :=
  let order := (List.range 32).map fun k => (n.rrPort + k) % 32
  let all := order.filter fun i => portCarries n i p
  let shaped := all.filter fun i => shaperAllows n i p
  let cand := if shaped.isEmpty then all else shaped
  cand.foldl (fun best i =>
    match best with
    | none => some i
    | some b => if portCredits n b p < portCredits n i p then some i else some b) none

/-- Sends a packet that already has its SEQ: over the mesh when it is for the module itself, else into the traffic
block of the chosen port; with no port it waits (R125, R129, R440). -/
def transmit (n : Node) (p : Packet) : Node :=
  if isOwn n p.dst.toNat then emit n (.packet p)
  else
    match portChoice n p with
    | none => { n with unsent := n.unsent ++ [p] }
    | some i =>
      { n with traf := putAt n.traf i (enqueue (getAt n.traf i TrafficPort.reset) p), rrPort := (i + 1) % 32 }

/-- Puts packets that waited for a port on their way. -/
def flushUnsent (n : Node) : Node :=
  n.unsent.foldl transmit { n with unsent := [] }

/-! ### Sending packets (R122–R124) -/

/-- A SEQ_RESET (R122). -/
def seqResetPacket (n : Node) (own peer : Nat) (ack : Bool) : Packet :=
  { blankPacket peer own 5 0x81 with
    tag := BitVec.ofNat 32 n.prs.incarnation, aux := if ack then 1 else 0 }

/-- Sends a packet outside the SEQ order of its pair (SEQ_RESET, SEQ_SYNC). -/
def sendUnnumbered (n : Node) (p : Packet) : Node :=
  let p := sealPacket { p with entropy := Config.entropy n.free }
  transmit (stepFree n) p

/-- A destination to which no SEQ_RESET exchange runs: the module itself, or a group address. -/
def alwaysUsable (n : Node) (peer : Nat) : Bool := isOwn n peer || decide (0xFFF0 ≤ peer)

/-- Begins the SEQ_RESET exchange with a peer, when the pair is not usable and none runs (R122). -/
def startExchange (n : Node) (own peer : Nat) : Node :=
  let q := pairOf n own peer
  if q.usable || q.resetting || alwaysUsable n peer then n
  else
    let n := setPair n own peer { q with resetting := true, next := [1, 1, 1, 1, 1, 1] }
    sendUnnumbered n (seqResetPacket n own peer false)

/-- Classes whose packets are answered and so re-sent under R131: REQ, FWD, CMP and MGT. -/
def awaitsAnswer (cls : Nat) : Bool := cls = 0 || cls = 1 || cls = 4 || cls = 5

/-- The packet numbered for its pair: the next SEQ of its class, its ENTROPY and its HCRC. -/
def numberPacket (n : Node) (p : Packet) : Packet :=
  let q := pairOf n p.src.toNat p.dst.toNat
  sealPacket { p with seq := BitVec.ofNat 32 (q.next.getD p.cls.toNat 1), entropy := Config.entropy n.free }

/-- Sends a new packet of the module's own: numbers it, records it while it awaits its answer, and transmits it
once its pair is usable (R122). -/
def sendPacket (n : Node) (p : Packet) (why : SentFor) : Node :=
  let own := p.src.toNat
  let peer := p.dst.toNat
  let cls := p.cls.toNat
  let n := startExchange n own peer
  let p := numberPacket n p
  let n := stepFree n
  let q := pairOf n own peer
  let q := { q with next := modAt q.next cls fun s => (s + 1) % 2 ^ 32 }
  let q := if awaitsAnswer cls && decide (peer < 0xFFF0) then
      { q with sent := q.sent ++ [{ pkt := p, purpose := why, backoff := false, beforeSync := false }] } else q
  if q.usable || alwaysUsable n peer then transmit (setPair n own peer q) p
  else setPair n own peer { q with waiting := q.waiting ++ [p] }

/-- The SEQ that `sendPacket` gives a packet: 1 where it begins the exchange. -/
def nextSeq (n : Node) (own peer cls : Nat) : Nat :=
  let q := pairOf n own peer
  if q.usable || q.resetting || alwaysUsable n peer then q.next.getD cls 1 else 1

/-! ### Responses (R112, R124) -/

/-- The module's current map generation for a context (R417). -/
def curGen (n : Node) (ctx : Nat) : Nat := ((Tbl.find? n.ctxs.slots ctx).map (·.curGen)).getD 0

/-- The response to a packet in a class, with a status: TAG, EPOCH, CTX and PVA echoed, REQ_SEQ in word 5, and
the responder's map generation. -/
def responseTo (n : Node) (p : Packet) (cls status : Nat) : Packet :=
  { blankPacket p.src.toNat p.dst.toNat cls p.opcode.toNat with
    ctx := p.ctx, epoch := p.epoch, mapgen := BitVec.ofNat 32 (curGen n p.ctx.toNat), tag := p.tag, pva := p.pva,
    status := BitVec.ofNat 8 status, op5 := wordOf p.seq.toNat }

/-- Marks a received packet answered, for ANS of R130: it leaves the pair's open list. -/
def markAnswered (n : Node) (p : Packet) : Node :=
  let q := pairOf n p.dst.toNat p.src.toNat
  setPair n p.dst.toNat p.src.toNat { q with open_ := q.open_.filter fun o => !(o == (p.cls.toNat, p.seq.toNat)) }

/-- Sends an RSP with a status and AUX to a request. -/
def sendRsp (n : Node) (p : Packet) (status aux : Nat) : Node :=
  sendPacket (markAnswered n p) { responseTo n p 2 status with aux := BitVec.ofNat 16 aux } .none

/-- The hint of a RETRY: CAUSE and DELAY (R453). -/
def hint (cause delay : Nat) : Nat := cause + min delay 4095 * 16

/-- RETRY_HINT (R453). -/
def retryHint (n : Node) : Nat := cfgNum n 0x010A

/-- The retry mark of a pair for a refused store (R142): the SEQ is recorded with the DELAY of the refusal. -/
def isStore (p : Packet) : Bool := p.opcode = 2 || p.opcode = 3 || p.opcode = 5 || p.opcode = 6

/-- Answers a request with RETRY and a hint, counting it by CAUSE (R453). -/
def sendRetry (n : Node) (p : Packet) (cause delay : Nat) : Node :=
  sendRsp (bump n (0x133000 + 8 * cause) 1) p stRetry (hint cause delay)

end Sys2Proof.Machine
end

