-- ==== Sys2Proof/Machine/Firmware.lean ====
section
/-! DEFINITION. The flash, firmware images and their verification (R547, R571–R573), the slot record (R583) and
the keys derived from the unit secret (R592). -/

namespace Sys2Proof.Machine

/-! ### Flash (R547) -/

/-- `n` bytes of flash from an offset; erased bytes read 0xFF. -/
def flashRead (h : Halord) (off n : Nat) : Bytes := memRead 0xFF h.flash off n

/-- Flash programmed at an offset. -/
def flashWrite (h : Halord) (off : Nat) (bs : Bytes) : Halord :=
  { h with flash := memWrite 0xFF h.flash off bs }

/-- `n` bytes of flash erased. -/
def flashErase (h : Halord) (off n : Nat) : Halord := { h with flash := memClear h.flash off n }

/-- First offset of a firmware slot: false A, true B. -/
def slotBase (b : Bool) : Nat := if b then 0x3000000 else 0

/-- First offset of an Almanac copy. -/
def almBase (copy : Nat) : Nat := 0x6000000 + copy * 0x40000

/-- Writes the slot record from the fields that mirror it (R583). -/
def putSlotRecord (h : Halord) : Halord :=
  let body := leBytes 60 (bit01 h.sec.active + 2 * bit01 h.sec.pending + 4 * bit01 h.sec.trial)
  flashWrite h 0x60E0000 (body ++ leBytes 4 (crc32c body))

/-! ### Verification (R571–R573) -/

/-- The bytes of a firmware image, from an offset. -/
abbrev ImageBytes := Nat → Nat → Bytes

/-- Word `i` of an image's manifest. -/
def manifestWord (get : ImageBytes) (i : Nat) : Word := wordOf (leNat (get (8 * i) 8))

/-- FW_VERSION of an image. -/
def imageVersion (get : ImageBytes) : Nat := fieldOf (manifestWord get 1) 63 32

/-- SVN of an image. -/
def imageSvn (get : ImageBytes) : Nat := fieldOf (manifestWord get 2) 7 0

/-- IMG_LENGTH of an image. -/
def imageLength (get : ImageBytes) : Nat := fieldOf (manifestWord get 3) 31 0

/-- Word `w` of part entry `k`. -/
def entryWord (get : ImageBytes) (k w : Nat) : Word := wordOf (leNat (get (128 + 96 * k + 8 * w) 8))

/-- OFFSET and LENGTH of part `k`. -/
def partSpan (get : ImageBytes) (k : Nat) : Nat × Nat :=
  (fieldOf (entryWord get k 1) 31 0, fieldOf (entryWord get k 1) 63 32)

/-- Two parts lie apart. -/
def partsApart (a b : Nat × Nat) : Bool := decide (a.1 + a.2 ≤ b.1) || decide (b.1 + b.2 ≤ a.1)

/-- The layout of R572: each PTYPE once, ascending, offsets aligned, no overlap, every part within the image. -/
def imageLayoutOk (get : ImageBytes) : Bool :=
  (List.range 6).all fun k =>
    let s := partSpan get k
    fieldOf (entryWord get k 0) 7 0 == k + 1 && fieldOf (entryWord get k 0) 63 8 == 0 &&
    entryWord get k 2 == 0 && entryWord get k 3 == 0 &&
    s.1 % 4096 == 0 && decide (4096 ≤ s.1) && decide (s.1 + s.2 ≤ imageLength get) &&
    (List.range k).all fun j => partsApart s (partSpan get j)

/-- The checks of R573 that give INVALID; `written` is how many of the image's bytes are there. -/
def imageFormOk (get : ImageBytes) (written : Nat) : Bool :=
  fieldOf (manifestWord get 0) 31 0 == 0x5D96F1A0 && fieldOf (manifestWord get 0) 47 32 == 1 &&
  fieldOf (manifestWord get 0) 63 48 == 0 && fieldOf (manifestWord get 1) 31 0 == Config.partId &&
  fieldOf (manifestWord get 2) 15 8 == 6 && fieldOf (manifestWord get 2) 63 16 == 0 &&
  decide (imageSvn get ≤ 64) && fieldOf (manifestWord get 3) 63 32 == 0 && decide (imageLength get ≤ 0x3000000) &&
  decide (imageLength get ≤ written) && ((List.range 11).all fun i => manifestWord get (5 + i) == 0) &&
  imageLayoutOk get

/-- The checks of R573 that give DENIED all hold. -/
def imageAllowed (get : ImageBytes) (secVersion : Nat) (requireBind : Bool) : Bool :=
  let bind := manifestWord get 4
  decide (secVersion ≤ imageSvn get) && (bind == 0 || bind == Config.serialHash) &&
  !(bind == 0 && requireBind) &&
  edVerify (leBytes 32 Config.firmwareKey.toNat) (sha512 (get 0 704)) (get 704 64) &&
  (List.range 6).all fun k => sha512 (get (partSpan get k).1 (partSpan get k).2) == get (128 + 96 * k + 32) 64

/-- The status that verifying an image gives (R573), with the active version, the module's seal and window. -/
def verifyImage (get : ImageBytes) (written : Nat) (sec : Security) : Nat :=
  let downgrade := decide (imageVersion get < sec.fwVersion)
  if !imageFormOk get written then stInvalid
  else if downgrade && sec.unsealed then stUnsealed
  else if downgrade && !sec.presOpen then stPresence
  else if !imageAllowed get sec.fuses sec.requireBind then stDenied
  else stOK

/-- The image in a firmware slot. -/
def slotImage (h : Halord) (b : Bool) : ImageBytes := fun o n => flashRead h (slotBase b + o) n

/-- A slot passes R573 without the presence test, as the ROM verifies it (R584). -/
def slotPasses (h : Halord) (b : Bool) : Bool :=
  imageFormOk (slotImage h b) 0x3000000 && imageAllowed (slotImage h b) h.sec.fuses h.sec.requireBind

/-! ### Keys from the unit secret (R588, R592) -/

/-- 32 bytes derived from the unit secret with an info string. -/
def secretKey (info : String) : Bytes := hkdf512 (leBytes 32 Config.unitSecret.toNat) [] (asciiOf info) 32

/-- The Ed25519 identity seed. -/
def identitySeed : Bytes := secretKey "SX96-IDK"

/-- The X25519 transport private key. -/
def transportKey : Bytes := secretKey "SX96-XPT"

/-- XPORT_PUB. -/
def transportPub : Bytes := x25519 transportKey (leBytes 32 9)

/-- The storage key in the owner record, unwrapped into the owner storage key register; empty when none. -/
def loadStorageKey (sec : Security) : Bytes :=
  if sec.wrapped.isEmpty then [] else (kwUnwrap (secretKey "SX96-OWN") sec.wrapped).getD []

/-- The identity and transport keys are derived and the storage key register loaded, unless the fuse path is
blocked (R552, R555, R592, R93). -/
def openSecretPath (sec : Security) : Security :=
  if sec.cleared then sec else { sec with identity := true, storageKey := loadStorageKey sec }

end Sys2Proof.Machine
end

