-- ==== Sys2Proof/Machine/Start.lean ====
section
/-! DEFINITION. The start sequence (R544–R570, R584, R606): what its commands share. -/

namespace Sys2Proof.Machine

/-- Logs an event in the machine's log. -/
def logIn (s : State) (e : Event) : State := { s with nd := logEvent s.nd e }

/-- Raises an alert. -/
def alertIn (s : State) (bit : Nat) : State := { s with nd := raiseAlert s.nd bit }

/-! ### Clearing the data path -/

/-- OPORT_CFG as the Almanac resets it (R135, R550). -/
def oportCfgReset (a : Almanac) (p : Nat) : Word := wordOf (natField (almValue a 0x0101) p p + 3 * 2 + 15 * 8)

/-- EB_CFG as the Almanac resets it (R490, R550). -/
def ebCfgReset (a : Almanac) : Word :=
  wordOf (almValue a 0x0303 + almValue a 0x0304 * 2 ^ 16 + almValue a 0x0305 * 2 ^ 21 +
    almValue a 0x0306 * 2 ^ 24 + almValue a 0x0307 * 2 ^ 26)

/-- Every staged register whose reset is "Almanac" at its reset value, with generation 0 (R553). -/
def applyAlmanac (n : Node) : Node :=
  { n with
    ports := Vector.ofFn fun (p : Fin 32) =>
      { n.ports.get p with cfgLive := oportCfgReset n.alm p.val, cfgStage := oportCfgReset n.alm p.val }
    mem := { n.mem with dports := Vector.ofFn fun (d : Fin 16) =>
      let c := wordOf (natField (almValue n.alm 0x0201) d.val d.val)
      { n.mem.dports.get d with cfgLive := c, cfgStage := c } }
    flt := { n.flt with ebLive := ebCfgReset n.alm, ebStage := ebCfgReset n.alm } }

/-- The data plane with nothing in it: what stack memory, SRAM and the registers of the data path hold is gone.
The Almanac in force, the node ID, the power state and the log stay, and so does the incarnation (R122). -/
def clearData (n : Node) : Node :=
  applyAlmanac { Node.reset with
    alm := n.alm, power := n.power, log := n.log, nodeId := n.nodeId, chainAddr := n.chainAddr,
    prs := { PairState.reset with incarnation := n.prs.incarnation }, tele := n.tele, out := n.out, free := n.free }

/-- The policy block's reset values (R530–R532), each capped at its Almanac bound; where capping leaves a CRIT
field below its HOT field + 5, HOT is lowered to CRIT − 5 (R567). -/
def policyReset (a : Almanac) : Word × Word × Word :=
  let tileCrit := min 105 (almValue a 0x0403)
  let stackCrit := min 95 (almValue a 0x0404)
  let tileHot := min (min 95 (almValue a 0x0403)) (tileCrit - 5)
  let stackHot := min (min 85 (almValue a 0x0404)) (stackCrit - 5)
  (wordOf (min (almValue a 0x0402) (almValue a 0x0401) + 3 * 2 ^ 16 + 128 * 2 ^ 24),
   wordOf (tileHot + tileCrit * 2 ^ 8 + stackHot * 2 ^ 16 + stackCrit * 2 ^ 24 + min 75 (almValue a 0x0405) * 2 ^ 32 +
     min 85 (almValue a 0x0406) * 2 ^ 40),
   wordOf (3 + min 32 (almValue a 0x0407) * 2 ^ 8 + 85 * 2 ^ 16 + 40 * 2 ^ 24 + 10 * 2 ^ 40))

/-- Every key and derived secret zeroised before block BIST (R555). -/
def zeroiseForBist (s : State) : State :=
  { s with
    nd := { s.nd with ctxs := { s.nd.ctxs with
      slots := s.nd.ctxs.slots.map fun c => (c.1, { c.2 with key := { c.2.key with keys := [] } })
      shares := s.nd.ctxs.shares.map fun c => (c.1, { c.2 with keys := [] }) } }
    hl := { s.hl with sec := { s.hl.sec with storageKey := [], identity := false } } }

/-! ### Rails (R606) -/

/-- Rails of a power domain: AON 3, FAB 1, HOST 2, each T 1, each S 4, each P 3. -/
def railCount (d : Nat) : Nat :=
  if d = 0 then 3 else if d = 1 then 1 else if d = 2 then 2 else if d < 67 then 1 else if d < 75 then 4 else 3

/-- A port domain is raised unless the Almanac disables its six ports (R35). -/
def portDomainOn (n : Node) (r : Nat) : Bool :=
  natField (cfgNum n 0x0101) (4 * r + 3) (4 * r) != 0 || natField (cfgNum n 0x0201) (2 * r + 1) (2 * r) != 0

/-- The domains raised together in one step of R606. -/
def railGroup (n : Node) (k : Nat) : List Nat :=
  if k = 2 then [0] else if k = 3 then [2] else if k = 4 then [1] else if k = 5 then (List.range 8).map (67 + ·)
  else if 6 ≤ k ∧ k ≤ 13 then (List.range 8).map fun t => 3 + 8 * (k - 6) + t
  else if k = 14 then ((List.range 8).filter (portDomainOn n)).map (75 + ·) else []

/-- Begins a step of R606. -/
def raiseRails (s : State) (k : Nat) : State :=
  let n := s.nd
  { s with nd := { n with power := { n.power with railStep := k, rising := (railGroup n k).map (·, 0) } } }

/-! ### Steps of a start (R545, R546) -/

/-- Completes step `k` of R545: the entry 0x0100 + k, with the kind of start. -/
def completeStep (s : State) (k : Nat) : State :=
  let n := s.nd
  let s := { s with nd := { n with power := { n.power with step := k, stepsDone := n.power.stepsDone ++ [k] } } }
  logIn s { sev := sevInfo, code := 0x100 + k, data0 := bit01 n.power.fromStandby }

/-- The start has failed at a step: 0x01F0, FAILED and ALERT_STATUS.FAULT, and it holds (R569). -/
def failStart (s : State) (k cause : Nat) : State :=
  let s := logIn s { sev := sevFatal, code := 0x1F0, data0 := k, data1 := cause }
  let n := s.nd
  let s := { s with nd := { n with power := { n.power with failed := true, holding := true, railStep := 0, rising := [] } } }
  alertIn (alertIn s alFault) alFailed

/-- Standby with every domain but AON off (R604 step 5, R605). -/
def enterStandby (s : State) (code : Nat) (brown : Bool) : State :=
  let n := clearData s.nd
  let n := { n with power := { n.power with
    off := false, state := 1, step := 0, holding := false, entry := 0, standbyWaits := false, brownOut := brown,
    railStep := 0, rising := [], stepsDone := [], domains := [0], stacksUp := [], denseDone := [],
    stackTries := Vector.replicate 8 0 } }
  logIn { s with nd := n } { sev := (Config.logSev 1).val, code := code }

/-- A step in hand has ended: a POWER_REQ Standby received during the start takes effect (R570). -/
def stepEnded (s : State) : State :=
  if s.nd.power.standbyWaits then enterStandby s 0x0501 false else s

/-- No Almanac copy is valid: the module holds at step 3, opens the unit-secret path and derives its keys
(R552). -/
def holdNoAlmanac (s : State) : State :=
  let s := logIn s { sev := sevError, code := 0x112 }
  let s := failStart s 3 0x112
  { s with hl := { s.hl with sec := openSecretPath s.hl.sec } }

/-- One rejected copy is logged (0x0111). -/
def logRejected (s : State) (copy : Nat) (c : AlmCheck) : State :=
  match c with
  | .passes _ => s
  | .fails t => logIn s { sev := sevWarn, code := 0x111, data0 := copy, data1 := t }

/-- The 64-byte header's check of a flash record over its entries (R558, R561). -/
def recordOk (h : Halord) (off bytes : Nat) : Bool :=
  crc32c (flashRead h off 60 ++ flashRead h (off + 64) bytes) == leNat (flashRead h (off + 60) 4)

/-- The error-band record's margins, caps and retirements, taken at step 3 (R489, R501, R561). -/
def loadErrorBands (s : State) : State :=
  if recordOk s.hl 0x6090000 512 then
    { s with nd := { s.nd with flt := { s.nd.flt with tiles := Vector.ofFn fun (t : Fin 64) =>
      let w := wordOf (leNat (flashRead s.hl (0x6090040 + 8 * t.val) 8))
      { s.nd.flt.tiles.get t with state := putField (putField w 42 40 0) 44 43 0, retired := bitOf w 45 } } } }
  else logIn s (otherEvent 1 10)

/-- One entry of the repair record applied: spares in use and units out (R561). -/
def applyRepair (n : Node) (w : Word) : Node :=
  let unit_ := fieldOf w 15 8
  let array := fieldOf w 23 16
  let outcome := fieldOf w 27 24
  if fieldOf w 7 0 = 0 ∧ unit_ < 64 then
    let t := getAt n.flt.tiles unit_ TileHealth.reset
    let t := if array = 3 then { t with lanesOut := t.lanesOut + 1 }
      else if array = 4 then { t with hamOut := t.hamOut + 1 }
      else if array = 5 then { t with alusOut := t.alusOut + 1 }
      else if outcome ≤ 1 then
        let k := 2 * (array * 65536 + fieldOf w 47 32) + outcome
        { t with spares := Tbl.put t.spares k (Tbl.getD t.spares k 0 + 1) }
      else if outcome = 3 && array == 0 then { t with disabled := t.disabled + Config.rowBytes }
      else t
    { n with flt := { n.flt with tiles := putAt n.flt.tiles unit_ t } }
  else n

/-- The repair record applied, when its check holds (R556, R561). -/
def loadRepairs (s : State) : State :=
  let nent := fieldOf (wordOf (leNat (flashRead s.hl 0x6080000 8))) 45 32
  if nent ≤ 8184 && recordOk s.hl 0x6080000 (8 * nent) then
    let n := (List.range nent).foldl
      (fun n k => applyRepair n (wordOf (leNat (flashRead s.hl (0x6080040 + 8 * k) 8)))) s.nd
    { s with nd := n }
  else logIn s (otherEvent 1 11)

/-- Step 3: both copies are checked, one is adopted, and step 4 begins (R551, R552, R555). -/
def stepThree (s : State) : State :=
  let c0 := almCheck (fun o n => flashRead s.hl (almBase 0 + o) n) s.hl.sec.ownerPub
  let c1 := almCheck (fun o n => flashRead s.hl (almBase 1 + o) n) s.hl.sec.ownerPub
  let s := logRejected (logRejected s 0 c0) 1 c1
  match almChoose c0 c1 with
  | none => holdNoAlmanac s
  | some a =>
    let n := applyAlmanac { s.nd with alm := a }
    let s := { s with nd := n, hl := { s.hl with
      i3c := { s.hl.i3c with staticAddr := almValue a 0x0409 }
      plc := { s.hl.plc with live := policyReset a, stage := policyReset a } } }
    let s := loadErrorBands s
    let s := stepEnded (completeStep s 3)
    if s.nd.power.state = 1 then s else raiseRails (loadRepairs (zeroiseForBist s)) 4

/-! ### The ROM (R584) -/

/-- The slot that the ROM starts from, the record it leaves, and the entries it logs; none when no slot passes. -/
def romChoose (h : Halord) : Option (Bool × Halord × List Event) :=
  let swap := fun (trial : Bool) => putSlotRecord { h with sec := { h.sec with
    active := !h.sec.active, pending := false, trial := trial } }
  let fallback := fun (h : Halord) (evs : List Event) =>
    if slotPasses h h.sec.active then some (h.sec.active, h, evs)
    else if slotPasses h (!h.sec.active) then
      some (!h.sec.active, h, evs ++ [{ sev := sevWarn, code := 0x722, data0 := bit01 h.sec.active }])
    else none
  if h.sec.pending && slotPasses h (!h.sec.active) then
    some (!h.sec.active, swap true,
      [{ sev := sevNotice, code := 0x721, data0 := imageVersion (slotImage h (!h.sec.active)) }])
  else if h.sec.trial then
    let back := putSlotRecord { h with sec := { h.sec with active := !h.sec.active, trial := false } }
    fallback back [{ sev := sevWarn, code := 0x722, data0 := bit01 h.sec.active }]
  else fallback h []

/-- What the ROM loads and measures from a slot: its version, SVN, manifest and parts (R562, R593). -/
def loadSlot (h : Halord) (b : Bool) : Halord :=
  let get := slotImage h b
  { h with sec := { h.sec with
    fwVersion := imageVersion get, svn := imageSvn get, manifestDigest := sha512 (get 0 768),
    partDigests := (List.range 6).map fun k => sha512 (get (partSpan get k).1 (partSpan get k).2) } }

/-- A security entry of WARN or above also raises ALERT_STATUS.SECURITY (R595). -/
def logSecurity (s : State) (e : Event) : State :=
  let s := logIn s e
  if 2 ≤ e.sev then alertIn s alSecurity else s

/-- Step 2: the ROM chooses a slot; on the chain head HOST's rails are raised before step 3 (R545, R584). -/
def romBoot (s : State) : State :=
  match romChoose s.hl with
  | none => failStart s 2 0x722
  | some (b, h, evs) =>
    let s := evs.foldl logSecurity { s with hl := loadSlot h b }
    if s.nd.power.hostEn then raiseRails s 3
    else
      let s := stepEnded (completeStep s 2)
      if s.nd.power.state = 1 then s else stepThree s

/-! ### Beginning a start -/

/-- The mailbox once its transfer has ended with a status (R518, R520); words already fetched stay readable. -/
def mbxEnded (m : Mailbox) (st : Nat) : Mailbox :=
  let stat := putField (putField (putField m.stat 0 0 0) 1 1 1) 15 8 st
  { m with stat := stat, op := 0, toWrite := [], inFlight := 0, request := [], closing := none, waits := false }

/-- What every start does first: no presence window, session or push, JTAG locked, a new CHALLENGE, the report
and the caps back at zero, the window's data-path registers at reset, counters at zero, BOOT_COUNT stepped
(R513, R523, R543, R544, R597). -/
def beginStart (s : State) (fromStandby : Bool) : State :=
  let n := s.nd
  let n := clearData { n with nodeId := 0, chainAddr := 0, tele := [], power := { n.power with
    off := false, state := 0, step := 0, fromStandby := fromStandby, holding := false, failed := false, entry := 0,
    standbyWaits := false, brownOut := false, railStep := 0, rising := [], stepsDone := [], stacksUp := [],
    stackTries := Vector.replicate 8 0, denseDone := [], bootCount := (n.power.bootCount + 1) % 2 ^ 32, noChange := 0,
    refclk := true } }
  let n := { n with log := { n.log with dropped := 0 } }
  let h := s.hl
  let h := { h with session := none, push := none, restarting := false
                    chain := { Chain.reset with head := n.power.hostEn, nextTag := h.chain.nextTag,
                                                 nextSession := h.chain.nextSession }
                    mbx := if bitOf h.mbx.stat 0 then mbxEnded h.mbx stAborted else h.mbx
                    plc := { Policy.reset with live := h.plc.live, stage := h.plc.stage }
                    sec := { h.sec with presOpen := false, debugOpen := false, report := []
                                        challenge := Config.challenge h.sec.challenges
                                        challenges := h.sec.challenges + 1 } }
  let closed := s.hl.sec.presOpen
  let s := { s with nd := n, hl := h }
  if closed then logIn s { sev := sevNotice, code := 0x702 } else s

/-- LOG_FIRST and LOG_LAST as a cold start recovers them from the flash ring (R543): the newest and oldest entry
whose place and CHECK fit. -/
def recoverLog (h : Halord) (log : EventLog) : EventLog :=
  let good := (Tbl.keysOf h.flash).filter fun a =>
    decide (0x7000000 ≤ a ∧ a < 0x7400000) && a % 64 == 0 &&
    crc32c (flashRead h a 60) == leNat (flashRead h (a + 60) 4) &&
    leNat (flashRead h a 6) % 65536 == (a - 0x7000000) / 64
  let seqs := good.map fun a => leNat (flashRead h a 6)
  let last := seqs.foldl max 0
  let first := seqs.foldl min last
  { log with first := first, last := last, next := if seqs.isEmpty then log.next else last + 1, staged := [],
             lost := 0, lostFirst := 0 }

/-- A cold start (R544): HOST_EN is sampled, Halord's SRAM holds nothing, and AON's rails come up first unless
AON is on already. -/
def coldStart (s : State) (hostEn : Bool) : State :=
  let n := s.nd
  let n := { n with alm := Almanac.reset, log := { recoverLog s.hl n.log with alert := 0, mask := 0x1FF, ibi := true }
                    power := { n.power with hostEn := hostEn } }
  let h := s.hl
  let h := { h with mbx := Mailbox.reset, sens := Sensors.reset, plc := Policy.reset, i3c := I3c.reset
                    sec := { h.sec with cleared := false, identity := false, storageKey := [], pushOk := 0,
                                        pushFail := 0, lastRop := 0, lastStatus := 0 } }
  let s := beginStart { s with nd := n, hl := h } false
  if s.nd.power.domains.contains 0 then
    let s := stepEnded (completeStep s 1)
    if s.nd.power.state = 1 then s else romBoot s
  else raiseRails s 1

/-- A Standby exit (R544): steps 3 to 9, with HOST switched on first on the chain head. -/
def standbyExit (s : State) : State :=
  let s := beginStart s true
  if s.nd.power.hostEn then raiseRails s 3 else stepThree s

/-- The rails of a step of R606 are all up: the next step of R606 or R545 begins. -/
def railsComplete (s : State) : State :=
  let k := s.nd.power.railStep
  if k = 2 then
    let s := stepEnded (completeStep s 1)
    if s.nd.power.state = 1 then s else romBoot s
  else if k = 3 then
    let s := if s.nd.power.fromStandby then s else stepEnded (completeStep s 2)
    if s.nd.power.state = 1 then s else stepThree s
  else if 4 ≤ k ∧ k ≤ 13 then
    if k = 13 ∧ (railGroup s.nd 14).isEmpty then
      { s with nd := { s.nd with power := { s.nd.power with railStep := 0 } } }
    else raiseRails s (k + 1)
  else { s with nd := { s.nd with power := { s.nd.power with railStep := 0 } } }

/-! ### Module failure (R20) -/

/-- The membership keepers in force: the three lowest-listed not declared lost (R413). -/
def keepersNow (n : Node) : List Nat :=
  (n.alm.membKeepers.filter fun k => !n.ml.memb.lost.contains k).take 3

/-- An MGT packet to a node, with a payload of words. -/
def mgtPacket (n : Node) (dst opcode : Nat) (ws : List Word) : Packet :=
  let p := blankPacket dst n.nodeId 5 opcode
  if ws.isEmpty then p else withPayload p (wordsToBytes ws)

/-- Sends MEMB_REPORT naming a node to each membership keeper (R412, R415). -/
def reportNode (n : Node) (node : Nat) : Node :=
  (keepersNow n).foldl (fun n k => sendPacket n (mgtPacket n k 0xA3 [wordOf node]) .protocol) n

/-- The module fails: it stops accepting requests on every class but MGT, logs the cause and announces its loss
(R20). `cause` is the model's number of the event's code. -/
def failModule (n : Node) (cause d0 : Nat) : Node :=
  if n.power.failed then n
  else
    let n := { n with power := { n.power with failed := true } }
    let n := raiseAlert (raiseAlert n alFault) alFailed
    let n := logEvent n { otherEvent 3 cause with data0 := d0 }
    reportNode n n.nodeId

/-- Requests are accepted: Ready or Active, not failed, with REFCLK (R20, R34, R598). -/
def accepting (n : Node) : Bool := decide (2 ≤ n.power.state) && !n.power.failed && n.power.refclk

end Sys2Proof.Machine
end

