-- ==== Sys2Proof/Machine/LinkOps.lean ====
section
/-! DEFINITION. Operations on an Ohmas port that several families share: frames and their replay buffer, widths,
bring-up and going down (R101–R110, R129). -/

namespace Sys2Proof.Machine

/-- An Ohmas port. -/
def portAt (n : Node) (i : Nat) : OPort := getAt n.ports i OPort.reset

/-- The node with a port replaced. -/
def setPort (n : Node) (i : Nat) (o : OPort) : Node := { n with ports := putAt n.ports i o }

/-- Telemetry counter `k` of a port, in the order of R136's list: FEC corrected symbols by wavelength 0–15,
uncorrectable codewords by wavelength 16–31, FCRC failures 32, replays 33, frames replayed 34, width changes down and
up, transmit then receive 35–38, keep-alive losses 39, HCRC failures 40, misrouted 41, malformed 42, reorder refusals
by class 43–48, duplicates by class 49–54, SEQ_SYNC re-sends by class 55–60. -/
def portCounter (i k : Nat) : Nat := 0x100000 + i * 0x800 + 8 * k

/-! ### Frames (R101–R104) -/

/-- A feigned loss stops every frame on every port (R106). -/
def framesStopped (n : Node) : Bool := n.flt.feign != 0

/-- Puts a frame on a port: it takes the next FSEQ, enters the replay buffer and leaves with the acknowledgement of
the opposite direction. -/
def sendFrame (n : Node) (i ftype vc : Nat) (flit : Bytes) : Node :=
  let o := portAt n i
  let fseq := o.fseqTx
  let t := frameTrailer ftype vc (o.fseqRx != 1) fseq (o.fseqRx + 2 ^ 16 - 1) flit
  let n := setPort n i { o with fseqTx := (fseq + 1) % 2 ^ 16, replay := o.replay ++ [(fseq, ftype, vc, flit)] }
  if framesStopped n then n else emit n (.frame i t flit)

/-- Sends a control flit on a port, or keeps it until the replay buffer has room (R104). -/
def sendCtrl (n : Node) (i : Nat) (flit : Bytes) : Node :=
  let o := portAt n i
  if o.replay.length < 8192 then sendFrame n i 3 0 flit
  else setPort n i { o with ctrlWait := o.ctrlWait ++ [flit] }

/-- Sends the control flits that waited for room. -/
def flushCtrl (n : Node) (i : Nat) : Node :=
  let o := portAt n i
  o.ctrlWait.foldl (fun n f => sendCtrl n i f) (setPort n i { o with ctrlWait := [] })

/-- An acknowledgement: frames up to and at ACK_SEQ leave the replay buffer, and packets whose last frame is among them
are acknowledged whole (R104, R129). -/
def ackFrames (n : Node) (i ack : Nat) : Node :=
  let o := portAt n i
  let o := { o with replay := o.replay.filter fun f => !serialLe 16 f.1 ack
                    onWire := o.onWire.filter fun f => !serialLe 16 f.1 ack
                    replayed := if serialLe 16 o.replayed.1 ack then (0, 0) else o.replayed }
  flushCtrl (setPort n i o) i

/-! ### Widths (R107) -/

/-- Bits set in a 4-bit mask. -/
def groupCount (m : Nat) : Nat := natField m 0 0 + natField m 1 1 + natField m 2 2 + natField m 3 3

/-- TX_WIDTH and RX_WIDTH of a number of groups. -/
def widthCode (m : Nat) : Nat := if groupCount m ≥ 2 then groupCount m - 1 else 0

/-- The groups whose four rings are all locked (R107). -/
def lockedGroups (rings : Nat) : Nat :=
  (List.range 4).foldl (fun m g => if natField rings (4 * g + 3) (4 * g) = 15 then m + 2 ^ g else m) 0

/-- The lowest `k` groups of a mask. -/
def lowestGroups (k m : Nat) : Nat :=
  ((List.range 4).foldl (fun (acc : Nat × Nat) g =>
    if natField m g g = 1 ∧ acc.2 < k then (acc.1 + 2 ^ g, acc.2 + 1) else acc) (0, 0)).1

/-- The groups that OPORT_CFG lets a port use out of those found (R135). -/
def allowedGroups (o : OPort) (found : Nat) : Nat :=
  lowestGroups (fieldOf o.cfgLive 2 1 + 1) (found &&& fieldOf o.cfgLive 6 3)

/-- TX_GROUPS of a port. -/
def txGroups (o : OPort) : Nat := fieldOf o.status 9 6
/-- RX_GROUPS of a port. -/
def rxGroups (o : OPort) : Nat := fieldOf o.status 13 10

/-- A port with its transmit groups set. -/
def setTxGroups (o : OPort) (m : Nat) : OPort :=
  { o with status := putField (putField o.status 9 6 m) 3 2 (widthCode m) }

/-- A port with its receive groups set. -/
def setRxGroups (o : OPort) (m : Nat) : OPort :=
  { o with status := putField (putField o.status 13 10 m) 5 4 (widthCode m) }

/-- A port with its STATE set. -/
def setPortState (o : OPort) (st : Nat) : OPort := { o with status := putField o.status 1 0 st }

/-! ### Bring-up (R110) -/

/-- Bring-up fails at a step: the port stays down, the step is logged, and it restarts after 2^24 management
cycles. -/
def failBringup (n : Node) (i step : Nat) : Node :=
  let o := portAt n i
  let n := setPort n i { setPortState o 0 with bringup := 0, failedStep := step }
  logEvent n { otherEvent 2 1 with uclass := 1, unit_ := i, data0 := step }

/-- A port that OPORT_CFG enables and whose port block works. -/
def portEnabled (n : Node) (i : Nat) : Bool :=
  bitOf (portAt n i).cfgLive 0 && !n.flt.blocksOut.contains (i / 4) && n.power.domains.contains (75 + i / 4)

/-- Steps 1 to 3: the ELS is checked, the rings are locked, and the training pattern is sent. -/
def beginBringup (n : Node) (i : Nat) : Node :=
  let o := portAt n i
  if !portEnabled n i then n
  else if !n.power.elsOk.contains (i / 4) then failBringup n i 1
  else
    let tx := allowedGroups o (lockedGroups o.txLocked)
    let rx := allowedGroups o (lockedGroups o.rxLocked)
    if groupCount tx < 2 || groupCount rx < 2 then failBringup n i 2
    else setPort n i { setPortState o 1 with bringup := 3, failedStep := 0 }

/-- Packets a traffic block holds, TC queues first. -/
def queuedPackets (t : TrafficPort) : List Packet :=
  t.tcs.toList.flatMap (fun q => q.fifos.flatten) ++
    t.shapers.flatMap fun sh => sh.2.dat ++ sh.2.fwd ++ sh.2.req

/-- A traffic block with every queue empty; buckets and tags stay. -/
def emptyQueues (t : TrafficPort) : TrafficPort :=
  { t with tcs := t.tcs.map fun q => { q with fifos := [[], [], [], [], [], []] }
           shapers := t.shapers.map fun sh => (sh.1, { sh.2 with dat := [], fwd := [], req := [] }) }

/-- A port goes down: every packet not fully acknowledged and every packet it still held is sent again, whole and
with its SEQ, over the other ports (R129, R467). `st` is its STATE afterwards. -/
def takeDown (n : Node) (i st : Nat) : Node :=
  let o := portAt n i
  let t := getAt n.traf i TrafficPort.reset
  let pkts := o.onWire.map (·.2) ++ queuedPackets t
  let o := setTxGroups (setRxGroups (setPortState o st) 0) 0
  let o := { o with bringup := 0, txSwitch := none, rxSwitch := none, fseqTx := 0, fseqRx := 0,
                    replay := [], awaitReplay := false, replayed := (0, 0), credits := [0, 0, 0, 0, 0, 0],
                    owed := [0, 0, 0, 0, 0, 0], assembling := [], onWire := [], kaMissed := 0, ctrlWait := [] }
  let n := { setPort n i o with traf := putAt n.traf i (emptyQueues t) }
  pkts.foldl transmit n

/-- A port that was up or training goes down under R129, and bring-up begins again (R110). -/
def portDown (n : Node) (i : Nat) : Node :=
  let st := portState (portAt n i)
  if st = 1 || st = 2 then
    let n := raiseAlert n alLink
    let n := logEvent n { otherEvent 2 2 with uclass := 1, unit_ := i, node := fieldOf (portAt n i).status 29 14 }
    beginBringup (takeDown n i 0) i
  else n

/-- The six ports of a port block go to DISABLED (R557, R607); its dense ports follow in the caller. -/
def disableBlock (n : Node) (r : Nat) : Node :=
  let n := { n with flt := { n.flt with blocksOut := if n.flt.blocksOut.contains r then n.flt.blocksOut
                                                     else n.flt.blocksOut ++ [r] } }
  (List.range 4).foldl (fun n k => takeDown n (4 * r + k) 3) n

/-- Steps 5 of R110: FSEQ starts at 1 and HELLO is sent with the module's credits (R105, R120). Under P48 credits
count units of two flits (R118). -/
def ownCredits (n : Node) : List Nat :=
  let c := [768, 256, 128, 768, 128, 64]
  if n.alm.personality = 1 then c.map (· / 2) else c

/-- Sends HELLO. -/
def sendHello (n : Node) (i : Nat) : Node :=
  let o := portAt n i
  let n := setPort n i { o with bringup := 6, fseqTx := 1, fseqRx := 1 }
  sendCtrl n i (helloFlit n.nodeId n.alm.failureDomain n.alm.personality i (ownCredits n))

/-- Flits of a packet in credit units (R118, R120). -/
def creditUnits (n : Node) (flits : Nat) : Nat := if n.alm.personality = 1 then ceilDiv flits 2 else flits

end Sys2Proof.Machine
end

