-- ==== Sys2Proof/Machine/Arrival.lean ====
section
/-! DEFINITION. How a packet arrives: the checks of R117, the order of R126, the duplicates of R128, and the answers of
R124. A packet that has been delivered waits in `prs.delivered` for its command. -/

namespace Sys2Proof.Machine

/-! ### Checks (R115–R118) -/

/-- OPCODE belongs to the packet's class (R114): responses echo what they answer or use 0x60–0x6F. -/
def opcodeOk (p : Packet) : Bool :=
  let o := p.opcode.toNat
  if p.cls = 0 then decide (1 ≤ o ∧ o ≤ 8)
  else if p.cls = 1 then decide (0x40 ≤ o ∧ o ≤ 0x42)
  else if p.cls = 4 then o == 0x70
  else if p.cls = 5 then o == 0x80 || o == 0x81 || decide (0x90 ≤ o ∧ o ≤ 0xBF)
  else decide (1 ≤ o ∧ o ≤ 8) || decide (0x40 ≤ o ∧ o ≤ 0x70) || decide (0x80 ≤ o ∧ o ≤ 0xBF)

/-- FLAGS, LEN and data flits agree (R111, R117). -/
def shapeOk (n : Node) (p : Packet) : Bool :=
  p.flags.toNat / 64 == 0 && p.rsv4 == 0 && fieldOf p.pva 63 57 == 0 &&
  !(hasPayload p && p.len = 0) && decide (p.len.toNat ≤ 4096) &&
  (if hasPayload p then p.data.length == ceilDiv p.len.toNat 64 * 64 else p.data.isEmpty) &&
  !(n.alm.personality = 1 && hasPayload p && decide (2048 < p.len.toNat))

/-- A REQ is malformed under R117: reserved OPCODE or FLAGS bit, LEN and flits at odds, or LAST clear outside a train. -/
def malformedReq (n : Node) (p : Packet) : Bool :=
  !opcodeOk p || !shapeOk n p || (!isLast p && p.opcode != 5 && p.opcode != 6)

/-- The packet is for this module: its own node IDs, or a joined group for MGT (R115, R117). -/
def forUs (n : Node) (p : Packet) : Bool :=
  isOwn n p.dst.toNat || (p.cls = 5 && n.ml.memb.groups.contains p.dst.toNat)

/-- A source that can be answered. -/
def answerable (p : Packet) : Bool := decide (1 ≤ p.src.toNat ∧ p.src.toNat < 0xFFF0)

/-- The node ID under which the module receives a packet: for a group, its own. -/
def receiver (n : Node) (p : Packet) : Nat := if decide (0xFFF0 ≤ p.dst.toNat) then n.nodeId else p.dst.toNat

/-- SEQ_RESET and SEQ_SYNC stand outside the MGT order (R126), and so does a packet sent to a group: a module that joins a
group has not seen the SEQs sent to it before. -/
def outOfOrderMgt (p : Packet) : Bool := p.cls = 5 && (p.opcode = 0x80 || p.opcode = 0x81 || decide (0xFFF0 ≤ p.dst.toNat))

/-- The check of R117 fails: the packet is discarded, counted at the port (by its counter) and perhaps logged. -/
def discardPacket (n : Node) (via counter : Nat) (log : Bool) (p : Packet) : Node :=
  let n := bump n (portCounter via counter) 1
  if log then logEvent n { otherEvent 2 3 with uclass := 1, unit_ := via, node := p.src.toNat } else n

/-! ### Delivery in SEQ order (R126, R127) -/

/-- The place of an ordered class in `deliv` and `held`: REQ 0, FWD 1, MGT 2. -/
def orderIndex (p : Packet) : Nat := if p.cls = 0 then 0 else if p.cls = 1 then 1 else 2

/-- Bytes of reorder space of a class: REQ 55 MiB, FWD 8 MiB, MGT 1 MiB (R126). -/
def reorderShare (i : Nat) : Nat := if i = 0 then 55 * 2 ^ 20 else if i = 1 then 8 * 2 ^ 20 else 2 ^ 20

/-- A packet that is next in order is delivered: a malformed REQ is answered INVALID, any other packet waits for its
command. -/
def deliverOne (n : Node) (p : Packet) : Node :=
  let own := receiver n p
  let q := pairOf n own p.src.toNat
  let n := setPair n own p.src.toNat
    { q with deliv := modAt q.deliv (orderIndex p) fun _ => p.seq.toNat
             open_ := if p.cls = 5 then q.open_ else q.open_ ++ [(p.cls.toNat, p.seq.toNat)] }
  if p.cls = 0 && malformedReq n p then sendRsp n p stInvalid 0
  else { n with prs := { n.prs with delivered := n.prs.delivered ++ [p] } }

/-- Packets that the reorder buffer holds for a pair and class are delivered while the next SEQ is among them. -/
def drainReorder (own peer : Nat) (idx : Nat) : Nat → Node → Node
  | 0, n => n
  | fuel + 1, n =>
    let q := pairOf n own peer
    let next := (q.deliv.getD idx 0 + 1) % 2 ^ 32
    match q.reorder.find? fun p => orderIndex p == idx && p.seq.toNat == next with
    | none => n
    | some p =>
      let n := setPair n own peer { q with reorder := q.reorder.filter fun r => r != p }
      let n := { n with prs := { n.prs with held := modAt n.prs.held idx fun b => b - flitBytes p } }
      drainReorder own peer idx fuel (deliverOne n p)

/-- A REQ, FWD or MGT packet arrives in its order: delivered when it is next, kept in the reorder buffer when it is
ahead, refused when the class's share is full, dropped as a duplicate (R126–R128). A REQ at or below the delivered
point is passed on: whatever it is a copy of, its command resolves it (R242). -/
def arriveOrdered (n : Node) (via : Nat) (p : Packet) : Node :=
  let own := receiver n p
  let peer := p.src.toNat
  let q := pairOf n own peer
  let idx := orderIndex p
  let d := q.deliv.getD idx 0
  let next := (d + 1) % 2 ^ 32
  let dup := bump n (portCounter via (49 + p.cls.toNat)) 1
  if p.seq.toNat = next then drainReorder own peer idx q.reorder.length (deliverOne n p)
  else if serialLe 32 p.seq.toNat d then
    if p.cls = 0 then
      if n.prs.delivered.contains p then dup
      else if malformedReq n p then sendRsp n p stInvalid 0
      else { n with prs := { n.prs with delivered := n.prs.delivered ++ [p] } }
    else dup
  else if q.reorder.any fun r => orderIndex r == idx && r.seq == p.seq then dup
  else if reorderShare idx < n.prs.held.getD idx 0 + flitBytes p then
    sendRetry (bump n (portCounter via (43 + p.cls.toNat)) 1) p 2 (retryHint n)
  else
    let n := setPair n own peer { q with reorder := q.reorder ++ [p] }
    { n with prs := { n.prs with held := modAt n.prs.held idx fun b => b + flitBytes p } }

/-- The place of RSP, DAT and CMP in the duplicate records. -/
def dupIndex (p : Packet) : Nat := if p.cls = 2 then 0 else if p.cls = 3 then 1 else 2

/-- Highest CMP SEQ up to which every CMP has been received, and those received beyond it. -/
def cmpReceived (rcvd seq : Nat) (ahead : List Nat) : Nat × List Nat :=
  let all := if serialLt 32 rcvd seq && !ahead.contains seq then ahead ++ [seq] else ahead
  let rec climb : Nat → Nat → Nat
    | 0, r => r
    | k + 1, r => if all.contains ((r + 1) % 2 ^ 32) then climb k ((r + 1) % 2 ^ 32) else r
  let top := climb all.length rcvd
  (top, all.filter fun s => serialLt 32 top s)

/-- An RSP, DAT or CMP packet arrives: delivered at once, in any order, unless its SEQ is among the last 1,024 received
(R126, R128). A CMP received again after its answer is answered again, since its sender lacks that answer (R131). -/
def arriveUnordered (n : Node) (via : Nat) (p : Packet) : Node :=
  let own := receiver n p
  let peer := p.src.toNat
  let q := pairOf n own peer
  let i := dupIndex p
  let recs := q.dups.getD i []
  if recs.contains p.seq.toNat && !(p.cls = 4 && !q.open_.contains (4, p.seq.toNat)) then
    bump n (portCounter via (49 + p.cls.toNat)) 1
  else
    let recs := if recs.contains p.seq.toNat then recs else (p.seq.toNat :: recs).take 1024
    let q := { q with dups := modAt q.dups i fun _ => recs }
    let q := if p.cls = 4 then
        let r := cmpReceived q.rcvdCmp p.seq.toNat q.cmpAhead
        { q with rcvdCmp := r.1, cmpAhead := r.2, open_ := q.open_ ++ [(4, p.seq.toNat)] } else q
    let n := setPair n own peer q
    { n with prs := { n.prs with delivered := n.prs.delivered ++ [p] } }

/-- A packet arrives whole, over port `via` (0 for the mesh): R117, then its order. -/
def arrive (n : Node) (via : Nat) (p : Packet) : Node :=
  if !hcrcOk p then discardPacket n via 40 false p
  else if !forUs n p then discardPacket n via 41 true p
  else if decide (6 ≤ p.cls.toNat) then discardPacket n via 42 false p
  else if !answerable p then discardPacket n via 42 true p
  else if p.cls != 0 && (!opcodeOk p || !shapeOk n p) then discardPacket n via 42 true p
  else if outOfOrderMgt p then { n with prs := { n.prs with delivered := n.prs.delivered ++ [p] } }
  else if p.cls = 0 || p.cls = 1 || p.cls = 5 then arriveOrdered n via p
  else arriveUnordered n via p

/-- Brings a packet to its command: it is taken from those delivered, or arrives first. The flag says whether the
command has the packet now; if not, it waits in the reorder buffer, or was discarded or answered. -/
def present (n : Node) (p : Packet) : Node × Bool :=
  let n := if n.prs.delivered.contains p then n else arrive n 0 p
  if n.prs.delivered.contains p then
    ({ n with prs := { n.prs with delivered := n.prs.delivered.erase p } }, true)
  else (n, false)

/-! ### Answers to the module's own packets (R124, R131, R626) -/

/-- The class of the packet that a response with this OPCODE answers. -/
def answeredClass (opcode : Nat) : Nat :=
  if opcode ≤ 8 then 0 else if opcode ≤ 0x5F then 1 else if opcode = 0x70 then 4 else 5

/-- REQ_SEQ of a response (R112). -/
def reqSeq (p : Packet) : Nat := fieldOf p.op5 31 0

/-- The unanswered packet that a response answers. -/
def sentFor (n : Node) (p : Packet) : Option Unanswered :=
  (pairOf n p.dst.toNat p.src.toNat).sent.find? fun u =>
    u.pkt.cls.toNat == answeredClass p.opcode.toNat && u.pkt.seq.toNat == reqSeq p

/-- The answered packet leaves the pair's list; one refused with RETRY stays and waits for its re-send (R626). -/
def settleSent (n : Node) (p : Packet) : Node :=
  let own := p.dst.toNat
  let peer := p.src.toNat
  let q := pairOf n own peer
  let hit := fun (u : Unanswered) =>
    u.pkt.cls.toNat == answeredClass p.opcode.toNat && u.pkt.seq.toNat == reqSeq p
  if p.status.toNat = stRetry then
    setPair n own peer { q with sent := q.sent.map fun u => if hit u then { u with backoff := true } else u }
  else setPair n own peer { q with sent := q.sent.filter fun u => !hit u }

/-- A response reaches its command: what it was sent for, when it answers a packet that is still open. -/
def takeAnswer (n : Node) (p : Packet) : Node × Option SentFor :=
  let r := present n p
  if !r.2 then (r.1, none)
  else match sentFor r.1 p with
    | none => (r.1, none)
    | some u => (settleSent r.1 p, some u.purpose)

end Sys2Proof.Machine
end

