-- ==== Sys2Proof/Machine/BlockCodec.lean ====
section
/-! DEFINITION. The form in which 4 KiB blocks lie outside the tile store: the block codec (R305–R307), the cipher
(R90) and the check of the dense tier (R323). -/

namespace Sys2Proof.Machine

/-! ### Planes (R306) -/

/-- The bytes of plane `p` of words of `w` bytes. -/
def planeOf (w p : Nat) (bs : Bytes) : Bytes :=
  (List.range (bs.length / w)).map fun i => bs.getD (i * w + p) 0

/-- Insert into a rising list without repeats. -/
def insertByte (b : Nat) : List Nat → List Nat
  | [] => [b]
  | x :: xs => if b < x then b :: x :: xs else if b = x then x :: xs else x :: insertByte b xs

/-- The distinct values of a plane, rising. -/
def planeValues (pl : Bytes) : List Nat := pl.foldl (fun vs b => insertByte b.toNat vs) []

/-- Index bits of a dictionary mode: DICT1, DICT2, DICT4, DICT6. -/
def dictBits (mode : Nat) : Nat := if mode = 1 then 1 else if mode = 2 then 2 else if mode = 3 then 4 else 6

/-- Bytes of a plane record of a mode, for a plane of `n` bytes. -/
def planeSize (mode n : Nat) : Nat :=
  if mode = 0 then 1 else if mode = 5 then n else 2 ^ dictBits mode + dictBits mode * n / 8

/-- The mode that gives a plane the fewest bytes: its record's modes are tried from the fewest bytes up. -/
def planeMode (pl : Bytes) : Nat :=
  let k := (planeValues pl).length
  if k ≤ 1 then 0
  else
    let fits := ([1, 2, 3, 4].filter fun m => decide (k ≤ 2 ^ dictBits m)) ++ [5]
    fits.foldl (fun best m => if planeSize m pl.length < planeSize best pl.length then m else best) (fits.headD 5)

/-- The place of a value in a list. -/
def placeOf (v : Nat) (vs : List Nat) : Nat := vs.findIdx fun x => x == v

/-- A plane record in a mode: the dictionary, rising and filled up with zeros, then the indices as one little-endian
number. -/
def planeRecord (mode : Nat) (pl : Bytes) : Bytes :=
  if mode = 0 then [pl.headD 0]
  else if mode = 5 then pl
  else
    let k := dictBits mode
    let vs := planeValues pl
    let dict := sliceOf (vs.map fun v => BitVec.ofNat 8 v) 0 (2 ^ k)
    let idx := (pl.zipIdx).foldl (fun acc b => acc + placeOf b.1.toNat vs * 2 ^ (k * b.2)) 0
    dict ++ leBytes (k * pl.length / 8) idx

/-- The plane of `n` bytes that a record in a mode spells. -/
def planeDecode (mode n : Nat) (rec : Bytes) : Bytes :=
  if mode = 0 then List.replicate n (rec.headD 0)
  else if mode = 5 then rec.take n
  else
    let k := dictBits mode
    let idx := leNat ((rec.drop (2 ^ k)).take (k * n / 8))
    (List.range n).map fun i => rec.getD (idx / 2 ^ (k * i) % 2 ^ k) 0

/-! ### Blocks (R305–R307) -/

/-- The planes' modes and the bytes used, header included, for words of `2 ^ wcode` bytes. -/
def codecPlan (wcode : Nat) (bs : Bytes) : List Nat × Nat :=
  let w := 2 ^ wcode
  let modes := (List.range w).map fun p => planeMode (planeOf w p bs)
  (modes, 16 + (modes.map fun m => planeSize m (4096 / w)).foldl (· + ·) 0)

/-- The word width that gives the fewest bytes, the smallest among equals. -/
def codecWidth (bs : Bytes) : Nat :=
  [1, 2, 3].foldl (fun best k => if (codecPlan k bs).2 < (codecPlan best bs).2 then k else best) 0

/-- The codec form of a 4 KiB block: its granules and its bytes; granules above 7 mean that it is carried whole. -/
def codecForm (bs : Bytes) : Nat × Bytes :=
  let k := codecWidth bs
  let plan := codecPlan k bs
  if 3584 < plan.2 then (8, bs)
  else
    let n := ceilDiv plan.2 512
    let w := 2 ^ k
    let modes := (plan.1.zipIdx).foldl (fun acc m => acc + m.1 * 16 ^ m.2) 0
    let head := leBytes 1 k ++ leBytes 1 n ++ leBytes 2 plan.2 ++ leBytes 4 (crc32c bs) ++ leBytes 4 modes ++ leBytes 4 0
    let recs := (plan.1.zipIdx).flatMap fun m => planeRecord m.1 (planeOf w m.2 bs)
    (n, sliceOf (head ++ recs) 0 (n * 512))

/-- The state code and the stored plaintext of a 4 KiB block as the encoder writes it (R307). -/
def codecEncode (bs : Bytes) : Nat × Bytes := if bs.all (· == 0) then (0, []) else codecForm bs

/-- Plane records taken one after another. -/
def takePlanes (n : Nat) : List Nat → Bytes → List Bytes
  | [], _ => []
  | m :: ms, bs => planeDecode m n (bs.take (planeSize m n)) :: takePlanes n ms (bs.drop (planeSize m n))

/-- The 4,096 bytes that a compressed block of `n` granules spells; none when it fails to decode (R307). -/
def codecDecode (n : Nat) (bs : Bytes) : Option Bytes :=
  let h := leNat (bs.take 16)
  let k := natField h 1 0
  let w := 2 ^ k
  let used := natField h 31 16
  let modes := (List.range 8).map fun p => natField h (4 * p + 67) (4 * p + 64)
  if natField h 7 2 ≠ 0 || natField h 15 8 ≠ n || natField h 127 96 ≠ 0 || n * 512 < used then none
  else if (modes.take w).any (fun m => decide (5 < m)) || (modes.drop w).any (· ≠ 0) then none
  else
    let len := 4096 / w
    let size := 16 + ((modes.take w).map fun m => planeSize m len).foldl (· + ·) 0
    if size ≠ used then none
    else
      let planes := takePlanes len (modes.take w) (bs.drop 16)
      let out := (List.range 4096).map fun i => (planes.getD (i % w) []).getD (i / w) 0
      if crc32c out = natField h 63 32 then some out else none

/-! ### The cipher (R90) -/

/-- The tweak of a line. -/
def lineTweak (line : Nat) : Nat := line % 2 ^ 42

/-- The tweak of a footprint granule of a compressed block. -/
def granuleTweak (b i : Nat) : Nat := b % 2 ^ 36 * 8 + i % 8 + 2 ^ 126

/-- A byte string in pieces of `k` bytes, each with its number. -/
def piecesOf (k : Nat) (bs : Bytes) : List (Bytes × Nat) :=
  (List.range (bs.length / k)).map fun i => ((bs.drop (i * k)).take k, i)

/-- The stored form of block `b`: its state code and its ciphertext (R89, R90, R305). -/
def sealBlock (keys : Bytes) (comp : Bool) (b : Nat) (plain : Bytes) : Nat × Bytes :=
  if comp then
    let e := codecEncode plain
    (e.1, (piecesOf 512 e.2).flatMap fun g => xtsEncrypt keys (granuleTweak b g.2) g.1)
  else (8, (piecesOf 64 plain).flatMap fun l => xtsEncrypt keys (lineTweak (b * 64 + l.2)) l.1)

/-- The plaintext of block `b` from its stored form; none when it cannot be read (R305, R307). -/
def openBlock (keys : Bytes) (comp : Bool) (b state : Nat) (stored : Bytes) : Option Bytes :=
  let whole := sliceOf stored 0 4096
  if state = 0 then some (List.replicate 4096 0)
  else if 8 < state then none
  else if comp then
    let plain := (piecesOf 512 (whole.take (min state 8 * 512))).flatMap fun g =>
      xtsDecrypt keys (granuleTweak b g.2) g.1
    if state = 8 then some plain else codecDecode state plain
  else if state = 8 then
    some ((piecesOf 64 whole).flatMap fun l => xtsDecrypt keys (lineTweak (b * 64 + l.2)) l.1)
  else none

/-- The stored form at a lender: always 4,096 bytes, with no state code beside them (R297). -/
def sealLent (keys : Bytes) (comp : Bool) (b : Nat) (plain : Bytes) : Bytes :=
  let s := sealBlock keys comp b plain
  if s.1 = 0 then (piecesOf 512 plain).flatMap fun g => xtsEncrypt keys (granuleTweak b g.2) g.1
  else sliceOf s.2 0 4096

/-- The plaintext of a block at a lender: with COMP 1 the codec form where it decodes, else the block whole. -/
def openLent (keys : Bytes) (comp : Bool) (b : Nat) (stored : Bytes) : Option Bytes :=
  if comp then
    let n := natField (leNat (xtsDecrypt keys (granuleTweak b 0) (sliceOf stored 0 512))) 15 8
    match (if 1 ≤ n && n ≤ 7 then openBlock keys true b n stored else none) with
    | some p => some p
    | none => openBlock keys true b 8 stored
  else openBlock keys false b 8 stored

/-! ### The dense tier (R323) -/

/-- CRC-64 with the ECMA-182 polynomial, reflected, initial value and final XOR all ones. -/
def crc64 (bs : Bytes) : Nat := crcRefl 0xC96C5795D7870F42 (2 ^ 64 - 1) bs ^^^ (2 ^ 64 - 1)

/-- The 16 metadata bytes of an LBA: CRC, STATE and BLOCK. -/
def lbaMeta (b state : Nat) (stored : Bytes) : Bytes :=
  leBytes 8 (crc64 (sliceOf stored 0 4096)) ++ leBytes 1 state ++ leBytes 5 b ++ leBytes 2 0

/-- The state code an LBA's data and metadata give for block `b`; none when the CRC or BLOCK is wrong. Data and
metadata all zero are a zero block. -/
def lbaState (b : Nat) (data md : Bytes) : Option Nat :=
  if data.all (· == 0) && md.all (· == 0) then some 0
  else if leNat (sliceOf md 0 8) = crc64 data && leNat (sliceOf md 9 5) = b && natField (leNat (sliceOf md 8 1)) 7 4 = 0
  then some (natField (leNat (sliceOf md 8 1)) 3 0)
  else none

end Sys2Proof.Machine
end

