-- ==== Sys2Proof/Machine/Spans.lean ====
section
/-! DEFINITION. How local offsets, lines, blocks and chunks relate to contexts and their ranges (R26–R28, R71–R87, R289),
and the range translation cache (R85). -/

namespace Sys2Proof.Machine

/-! ### Units of the home space -/

/-- The 4 KiB block of a line. -/
def blkOf (line : Nat) : Nat := line / 64
/-- The 64 KiB chunk of a line, which is also its frame of the stack cache. -/
def chunkOf (line : Nat) : Nat := line / 1024

/-- The region of a line (R26). -/
def lineRegion (line : Nat) : Nat := (hashRegionSlot (line * 64)).1
/-- The hash slot of a line (R26). -/
def lineSlot (line : Nat) : Nat := (hashRegionSlot (line * 64)).2

/-- The tile that serves a region's slot (R28). -/
def slotTile (n : Node) (region slot : Nat) : Nat :=
  getAt (getAt n.flt.hremap region (Vector.replicate 8 0)) slot 0

/-- The home tile of a line (R26–R28). -/
def homeTile (n : Node) (line : Nat) : Nat :=
  let h := hashRegionSlot (line * 64)
  slotTile n h.1 h.2

/-- The windows of the home space (R289). -/
def stackTop : Nat := 0x00C000000000
/-- First offset of the dense window. -/
def denseBase : Nat := 0x010000000000
/-- Bytes of a drive slot (R293). -/
def driveSlot : Nat := 0x0FF000000000

/-- The drive slot of a dense local offset (R293). -/
def driveOf (off : Nat) : Nat := (off - denseBase) / driveSlot
/-- The LBA of a dense local offset (R293). -/
def lbaOf (off : Nat) : Nat := (off - denseBase) % driveSlot / 4096

/-! ### Ranges -/

/-- Bytes of a range. -/
def rangeBytes (r : Range) : Nat := r.gran * 65536

/-- A range covers a PVA. -/
def covers (r : Range) (pva : Nat) : Bool := decide (r.start ≤ pva ∧ pva < r.start + rangeBytes r)

/-- A range's local span holds a line. -/
def holdsLine (r : Range) (line : Nat) : Bool :=
  decide (r.localOff ≤ line * 64 ∧ line * 64 < r.localOff + rangeBytes r)

/-- The local line of a PVA of a range. -/
def lineAt (r : Range) (pva : Nat) : Nat := (r.localOff + (pva - r.start)) / 64

/-- The PVA of a line of a range. -/
def pvaOf (r : Range) (line : Nat) : Nat := r.start + (line * 64 - r.localOff)

/-- A context's slot. -/
def slotOf (n : Node) (ctx : Nat) : Option CtxSlot := Tbl.find? n.ctxs.slots ctx

/-- The range of a context's table that covers a PVA (R71, R86). -/
def rangeIn (rs : Tbl Range) (pva : Nat) : Option Range := (rs.find? fun e => covers e.2 pva).map Prod.snd

/-- The range of a context that covers a PVA (R83). -/
def rangeOf (n : Node) (ctx pva : Nat) : Option Range := (slotOf n ctx).bind fun s => rangeIn s.ranges pva

/-- The entry under which an admitted request reaches a PVA: the context's range, or one that RANGE_CLEAR has removed
and not freed (R78). -/
def rangeFor (n : Node) (ctx pva : Nat) : Option Range :=
  match rangeOf n ctx pva with
  | some r => some r
  | none => (n.ctxs.freeing.find? fun f => f.ctx == ctx && covers f.range pva).map (·.range)

/-- Every span of the home space in use, with its context. -/
def spansInUse (n : Node) : List (Nat × Range) :=
  (n.ctxs.slots.flatMap fun c => c.2.ranges.map fun e => (c.1, e.2)) ++
  (n.ctxs.freeing.map fun f => (f.ctx, f.range)) ++
  (n.ml.outs.flatMap fun l => l.2.locals_.map fun r => (l.2.ctx, r))

/-- The home's map of local spans: the context and range of a line (R180). -/
def spanOf (n : Node) (line : Nat) : Option (Nat × Range) := (spansInUse n).find? fun e => holdsLine e.2 line

/-- The key pair a range's data is sealed under; empty after zeroisation (R90, R92). -/
def keysFor (n : Node) (ctx : Nat) (r : Range) : Bytes :=
  if r.shared then ((Tbl.find? n.ctxs.shares r.shareSlot).map (·.keys)).getD []
  else ((slotOf n ctx).map (·.key.keys)).getD []

/-- A node has been declared lost (R415). -/
def isLost (n : Node) (node : Nat) : Bool := n.ml.memb.lost.contains node

/-- The largest payload of the module's own packets (R118). -/
def maxPayload (n : Node) : Nat := if n.alm.personality = 1 then 2048 else 4096

/-! ### Granules and lines of a span -/

/-- The first bytes of the 64 KiB granules that a span of PVAs touches (R83). -/
def granulesOf (pva len : Nat) : List Nat :=
  if len = 0 then []
  else (List.range ((pva + len - 1) / 65536 - pva / 65536 + 1)).map fun i => max pva ((pva / 65536 + i) * 65536)

/-- The lines of a span of PVAs, each as the PVA of its first byte in the span and the bytes it holds of it. -/
def lineParts (pva len : Nat) : List (Nat × Nat) :=
  if len = 0 then []
  else (List.range ((pva + len - 1) / 64 - pva / 64 + 1)).map fun i =>
    let a := max pva ((pva / 64 + i) * 64)
    (a, min (pva + len) ((pva / 64 + i + 1) * 64) - a)

/-! ### The translation cache (R85, R86) -/

/-- A translation is used: its copy moves to the front of its set, or enters it and pushes out the oldest. -/
def touchXlate (n : Node) (ctx : Nat) (r : Range) (pva : Nat) : Node :=
  match slotOf n ctx with
  | none => n
  | some s =>
    let bucket := pva / 2 ^ 30
    let set := (Config.xlateSet s.slotNo bucket).toNat
    let others := (Tbl.getD n.ctxs.xlate set []).filter fun c => !(c.slotNo == s.slotNo && c.bucket == bucket && c.range == r)
    { n with ctxs := { n.ctxs with
        xlate := Tbl.put n.ctxs.xlate set (({ slotNo := s.slotNo, bucket := bucket, range := r } :: others).take 8) } }

/-- Cached copies of the ranges of a context that meet a span are dropped (R78, R79). -/
def dropXlate (n : Node) (slotNo start bytes : Nat) : Node :=
  { n with ctxs := { n.ctxs with
      xlate := (n.ctxs.xlate.map fun s => (s.1, s.2.filter fun c =>
        !(c.slotNo == slotNo && decide (c.range.start < start + bytes ∧ start < c.range.start + rangeBytes c.range)))).filter
          fun s => !s.2.isEmpty } }

/-! ### Context slots -/

/-- The node with a context's slot replaced. -/
def setSlot (n : Node) (ctx : Nat) (s : CtxSlot) : Node :=
  { n with ctxs := { n.ctxs with slots := Tbl.put n.ctxs.slots ctx s } }

/-- The next generation of a context's ranges: it never takes the value 0 (R72). -/
def stepGen (g : Nat) : Nat := if g = 0xFFFFFFFF then 1 else g + 1

/-- A range of a context replaced by a changed copy under a new GEN (R72). -/
def restampRange (n : Node) (ctx : Nat) (r : Range) : Node :=
  match slotOf n ctx with
  | none => n
  | some s => setSlot n ctx { s with ranges := Tbl.put s.ranges r.start { r with gen := s.nextGen }, nextGen := stepGen s.nextGen }

end Sys2Proof.Machine
end

