-- ==== Sys2Proof/Machine/Store.lean ====
section
/-! DEFINITION. The storage tiers as their operations (R289–R305, R321–R328): how a line comes into a tile-store slice,
how it is written back, and how its loss is repaired (R474–R476). -/

namespace Sys2Proof.Machine

/-! ### Slices (R299) -/

/-- A block of a slice. -/
def sliceBlock (n : Node) (b : Nat) : Option TileBlock := Tbl.find? n.mem.blocks b

/-- The line lies in its slice. -/
def lineValid (n : Node) (line : Nat) : Bool :=
  match sliceBlock n (blkOf line) with
  | some t => t.valid.testBit (line % 64)
  | none => false

/-- The plaintext of a line in its slice. -/
def lineData (n : Node) (line : Nat) : Bytes := memRead 0 n.mem.plain (line * 64) 64

/-- The node with a slice block's state replaced. -/
def setBlock (n : Node) (b : Nat) (t : TileBlock) : Node :=
  { n with mem := { n.mem with blocks := Tbl.put n.mem.blocks b t } }

/-- The block leaves its slice, with whatever it holds. -/
def dropBlock (n : Node) (b : Nat) : Node :=
  { n with mem := { n.mem with blocks := Tbl.del n.mem.blocks b, plain := memClear n.mem.plain (b * 4096) 4096 } }

/-- A block is used now: the order of use moves on. -/
def touchBlock (n : Node) (b : Nat) : Node :=
  match sliceBlock n b with
  | none => n
  | some t =>
    let n := setBlock n b { t with use := n.mem.uses }
    { n with mem := { n.mem with uses := n.mem.uses + 1 } }

/-- A request under way still needs a line of the block. -/
def blockInUse (n : Node) (b : Nat) : Bool :=
  n.trk.reqs.any fun r => r.2.units.any fun u => u.lines.any fun l => blkOf l.1 == b

/-- The mask of all 64 lines of a block. -/
def allLines : Nat := 2 ^ 64 - 1

/-! ### Fault telemetry (R499, R523) -/

/-- Offset of a module-wide fault counter: 0 repair reads, 1 resync requests, 2 lines poisoned, 3–10 region resets, 11 lines that
Vigil read, 12 known-answer tests, 13–19 injections and 20–26 skips by kind. -/
def moduleFault (i : Nat) : Nat := 0x137200 + 8 * i

/-- Offset of a tile's fault counter: corrected errors of arrays 0, 1, 2 and of all others, uncorrectable ones likewise, 8 replays,
9 spare swaps, 10 row repairs, 11 cells marked unusable. -/
def tileFault (t i : Nat) : Nat := 0x133200 + t * 0x100 + 8 * i

/-! ### Poison (R210) -/

/-- A line is poisoned. -/
def isPoisoned (n : Node) (line : Nat) : Bool := n.coh.poison.contains line

/-- A line becomes poisoned. -/
def setPoison (n : Node) (line : Nat) : Node :=
  if isPoisoned n line then n
  else bump { n with coh := { n.coh with poison := n.coh.poison ++ [line] } } (moduleFault 2) 1

/-- A line's poison is cleared. -/
def clearPoison (n : Node) (line : Nat) : Node :=
  { n with coh := { n.coh with poison := n.coh.poison.filter (· != line) } }

/-! ### NVMe commands (R323–R326) -/

/-- A dense port. -/
def dportAt (n : Node) (d : Nat) : DensePort := getAt n.mem.dports d DensePort.reset

/-- The metadata of a Write: one entry for each LBA. -/
def writeMeta (b : Nat) (states : List Nat) (data : Bytes) : Bytes :=
  (states.zipIdx).flatMap fun s => lbaMeta (b + s.2) s.1 ((data.drop (s.2 * 4096)).take 4096)

/-- The block number of an LBA of a drive. -/
def blockOfLba (d lba : Nat) : Nat := (denseBase + d * driveSlot) / 4096 + lba

/-- Issues an NVMe command on a dense port; the queue follows the 64 KiB block number (R324, R325). -/
def issueNvme (n : Node) (d opcode lba blocks : Nat) (fua : Bool) (data : Bytes) (states : List Nat) (why : NvmeFor) : Node :=
  let cid := n.mem.nextCid
  let q := 1 + lba / 16 % max 1 (dportAt n d).queues
  let c : NvmeCmd := { port := d, queue := q, opcode := opcode, lba := lba, blocks := blocks, fua := fua, data := data,
                       states := states, purpose := why }
  let n := { n with mem := { n.mem with nvme := Tbl.put n.mem.nvme cid c, nextCid := cid + 1 } }
  emit n (.nvme d cid opcode lba blocks fua data (writeMeta (blockOfLba d lba) states data))

/-- A command outstanding on some LBAs of a drive, of an opcode. -/
def nvmeBusy (n : Node) (d opcode lba blocks : Nat) : Bool :=
  n.mem.nvme.any fun c => c.2.port == d && c.2.opcode == opcode &&
    decide (c.2.lba < lba + blocks ∧ lba < c.2.lba + c.2.blocks)

/-- Writes to some LBAs are outstanding: a Read of them waits. -/
def writeBusy (n : Node) (d lba blocks : Nat) : Bool := nvmeBusy n d 1 lba blocks || nvmeBusy n d 8 lba blocks

/-! ### The stack cache (R302–R304) -/

/-- The frame that holds a 64 KiB block of the dense window. -/
def frameOf (n : Node) (chunk : Nat) : Option (Nat × CacheFrame) := n.mem.frames.find? fun f => f.2.blk == chunk

/-- The node with a frame replaced. -/
def setFrame (n : Node) (f : Nat) (x : CacheFrame) : Node :=
  { n with mem := { n.mem with frames := Tbl.put n.mem.frames f x } }

/-- The number of sets of the stack cache (R302). -/
def frameSets (n : Node) : Nat := cfgNum n 0x0204 * 16384 / 16

/-- The frame's cached bytes of a block. -/
def cachedBlock (n : Node) (b : Nat) : Bytes := memRead 0 n.mem.cache (b * 4096) 4096

/-- Runs of consecutive numbers in a rising list: first number and length. -/
def runsOf : List Nat → List (Nat × Nat)
  | [] => []
  | x :: xs =>
    match runsOf xs with
    | (y, k) :: rest => if y = x + 1 then (x, k + 1) :: rest else (x, 1) :: (y, k) :: rest
    | [] => [(x, 1)]

/-- Writes the dirty sub-blocks of a frame to the drive: each run with one Write, a sub-block in state 0 with Write
Zeroes (R304). -/
def writeFrame (n : Node) (f : Nat) : Node :=
  match Tbl.find? n.mem.frames f with
  | none => n
  | some x =>
    let d := driveOf (x.blk * 65536)
    let dirty := (List.range 16).filter fun i => x.dirty.testBit i
    let zero := dirty.filter fun i => x.states.getD i 0 == 0
    let data := dirty.filter fun i => x.states.getD i 0 != 0
    let lba := fun (i : Nat) => lbaOf (x.blk * 65536 + i * 4096)
    let n := (runsOf data).foldl (fun n r =>
      issueNvme n d 1 (lba r.1) r.2 false (memRead 0 n.mem.cache (x.blk * 65536 + r.1 * 4096) (r.2 * 4096))
        ((List.range r.2).map fun i => x.states.getD (r.1 + i) 0) (.frameWrite f)) n
    let n := zero.foldl (fun n i => issueNvme n d 8 (lba i) 1 false [] [] (.frameWrite f)) n
    setFrame n f { x with dirty := 0 }

/-! ### Reaching the backing store -/

/-- Whether a block lies with a restored chunk that is still served from copy-on-write space (R394). -/
def restoredChunk (n : Node) (b : Nat) : Option CowChunk :=
  match Tbl.find? n.mem.cow (b / 16) with
  | some c => if c.restored then some c else none
  | none => none

/-- The state code and stored bytes of a block where the module can read them at once; none when they lie on a drive or
with a lender. -/
def storedAt (n : Node) (r : Range) (b : Nat) : Option (Nat × Bytes) :=
  match restoredChunk n b with
  | some c => some (c.states.getD (b % 16) 0, memRead 0 c.bytes (b % 16 * 4096) 4096)
  | none =>
    if r.resClass = 0 || r.resClass = 3 then
      some (Tbl.getD n.mem.bstate b 0, memRead 0 n.mem.stack (b * 4096) 4096)
    else if r.resClass = 1 then
      match frameOf n (b / 16) with
      | some (_, x) => if x.filling then none else some (x.states.getD (b % 16) 0, cachedBlock n b)
      | none => none
    else none

/-- A block's state in the stack window; state 0 is not listed (R305). -/
def setState (t : Tbl Nat) (b st : Nat) : Tbl Nat := if st = 0 then Tbl.del t b else Tbl.put t b st

/-- A line's stored copy, or with COMP 1 its block's, has a spoiled symbol check (R495). -/
def checkSpoiled (n : Node) (r : Range) (line : Nat) : Bool :=
  n.mem.badCheck.any fun l => if r.comp then blkOf l == blkOf line else l == line

/-- Stores a block's stored form in its backing store: copy-on-write space, stack memory, or its frame. Stack memory takes fresh
checks with it. -/
def putStored (n : Node) (r : Range) (b st : Nat) (bs : Bytes) : Node :=
  let whole := sliceOf bs 0 4096
  match restoredChunk n b with
  | some c =>
    let c := { c with states := c.states.set (b % 16) st, bytes := memWrite 0 c.bytes (b % 16 * 4096) whole }
    { n with mem := { n.mem with cow := Tbl.put n.mem.cow (b / 16) c } }
  | none =>
    if r.resClass = 1 then
      match frameOf n (b / 16) with
      | some (f, x) =>
        let n := setFrame n f { x with states := x.states.set (b % 16) st, dirty := x.dirty ||| 2 ^ (b % 16) }
        { n with mem := { n.mem with cache := memWrite 0 n.mem.cache (b * 4096) whole } }
      | none => n
    else
      { n with mem := { n.mem with
          bstate := setState n.mem.bstate b st, stack := memWrite 0 n.mem.stack (b * 4096) whole,
          badCheck := n.mem.badCheck.filter fun l => blkOf l != b } }

/-! ### Lenders (R297) -/

/-- A packet to a lender: CTRL_ACCESS, the range's CTX, PVA in the lent window. -/
def lenderPacket (n : Node) (ctx : Nat) (r : Range) (opcode b off : Nat) : Packet :=
  let p := blankPacket r.lenderNode n.nodeId 0 opcode
  { p with
    ctx := BitVec.ofNat 16 ctx, mapgen := BitVec.ofNat 32 (curGen n ctx), flags := 0x24,
    pva := wordOf (r.lenderAddr + (b * 4096 - r.localOff) + off), len := BitVec.ofNat 13 (maxPayload n) }

/-- Offsets of the packets that move one block. -/
def lenderLegs (n : Node) : List Nat := (List.range (4096 / maxPayload n)).map fun i => i * maxPayload n

/-- Reads a block from its lender, when no exchange over it runs. -/
def lenderRead (n : Node) (ctx : Nat) (r : Range) (b : Nat) : Node :=
  if (Tbl.find? n.mem.lentIo b).isSome then n
  else
    let io : LenderIo := { ctx := ctx, write := false, node := r.lenderNode, legs := [], data := List.replicate 4096 0 }
    let out := (lenderLegs n).foldl (fun (a : Node × List (Nat × Nat)) off =>
      let seq := nextSeq a.1 a.1.nodeId r.lenderNode 0
      (sendPacket a.1 (lenderPacket a.1 ctx r 1 b off) (.lender b), a.2 ++ [(seq, off)])) (n, [])
    { out.1 with mem := { out.1.mem with lentIo := Tbl.put out.1.mem.lentIo b { io with legs := out.2 } } }

/-- Writes a block's stored form to its lender. Per-pair order puts a later READ behind it (R297). -/
def lenderWrite (n : Node) (ctx : Nat) (r : Range) (b : Nat) (bs : Bytes) : Node :=
  (lenderLegs n).foldl (fun n off =>
    let p := withPayload (lenderPacket n ctx r 2 b off) ((bs.drop off).take (maxPayload n))
    sendPacket n p (.lender b)) n

/-! ### Write-back (R296, R299) -/

/-- The plaintext of a whole block: its lines in the slice, and for the others what the backing store holds. -/
def blockPlain (n : Node) (ctx : Nat) (r : Range) (b : Nat) : Bytes :=
  let t := sliceBlock n b
  let slice := memRead 0 n.mem.plain (b * 4096) 4096
  let under := match storedAt n r b with
    | some (st, bs) => (openBlock (keysFor n ctx r) r.comp b st bs).getD (List.replicate 4096 0)
    | none => List.replicate 4096 0
  (List.range 64).flatMap fun i =>
    if (t.map fun t => t.valid.testBit i).getD false then (slice.drop (i * 64)).take 64 else (under.drop (i * 64)).take 64

/-- The whole block is at hand: every line is in the slice, or its stored form can be read at once, and none is being repaired. A
TIERED block needs its frame. -/
def blockAtHand (n : Node) (r : Range) (b : Nat) : Bool :=
  !(n.mem.bad.any fun e => blkOf e.1 == b) && !r.storeLost &&
    ((storedAt n r b).isSome || (r.resClass != 1 && ((sliceBlock n b).map fun t => t.valid == allLines).getD false))

/-- Writes a block's dirty lines to its backing store. A DENSE_DIRECT block is written with FUA, one Write at a time;
a block whose key slot is empty stays as it is (R92, R294, R299). -/
def writeBack (n : Node) (b : Nat) : Node :=
  match sliceBlock n b, spanOf n (b * 64) with
  | some t, some (ctx, r) =>
    let keys := keysFor n ctx r
    if t.dirty = 0 || keys.isEmpty || !blockAtHand n r b then n
    else
      let plain := blockPlain n ctx r b
      let clean := fun (n : Node) => setBlock n b { t with dirty := 0 }
      if r.resClass = 2 then
        let d := driveOf (b * 4096)
        let lba := lbaOf (b * 4096)
        if writeBusy n d lba 1 then n
        else
          let s := sealBlock keys r.comp b plain
          clean (issueNvme n d 1 lba 1 true (sliceOf s.2 0 4096) [s.1] (.directWrite b))
      else if r.resClass = 4 then clean (lenderWrite n ctx r b (sealLent keys r.comp b plain))
      else
        let s := sealBlock keys r.comp b plain
        clean (putStored n r b s.1 s.2)
  | _, _ => n

/-- A write-back of the block would need an empty key slot (R92). -/
def keyless (n : Node) (b : Nat) : Bool :=
  match spanOf n (b * 64) with
  | some (ctx, r) => (keysFor n ctx r).isEmpty
  | none => false

/-- The block's dirty lines can be written back now. -/
def canWriteBack (n : Node) (b : Nat) : Bool :=
  match spanOf n (b * 64) with
  | some (_, r) => blockAtHand n r b
  | none => true

/-- A frame leaves the stack cache: the dirty lines of its blocks in slices are written into it first, it is written to
its drive, and its blocks leave their slices. -/
def evictFrame (n : Node) (f : Nat) : Node :=
  match Tbl.find? n.mem.frames f with
  | none => n
  | some x =>
    let bs := (List.range 16).map fun i => x.blk * 16 + i
    let n := bs.foldl writeBack n
    let n := writeFrame n f
    let n := bs.foldl dropBlock n
    { n with mem := { n.mem with frames := Tbl.del n.mem.frames f, cache := memClear n.mem.cache (x.blk * 65536) 65536 } }

/-- A frame that can give way: no request uses a block of it, it is not being filled, and no line in a slice needs an
empty key slot to be written into it. -/
def frameIdle (n : Node) (x : CacheFrame) : Bool :=
  !x.filling && (List.range 16).all fun i =>
    let b := x.blk * 16 + i
    !blockInUse n b && !(keyless n b && ((sliceBlock n b).map (·.dirty)).getD 0 != 0)

/-- Allocates a frame for a 64 KiB block: a free way of its set, or the oldest frame that is idle (R302, R304). None
when every way is in use. -/
def allocFrame (n : Node) (chunk : Nat) : Option (Node × Nat) :=
  let set := Config.frameSet chunk % max 1 (frameSets n)
  let ways := (List.range 16).map fun i => set * 16 + i
  let put := fun (n : Node) (f : Nat) =>
    (setFrame { n with mem := { n.mem with uses := n.mem.uses + 1 } } f
      { blk := chunk, dirty := 0, states := List.replicate 16 0, age := n.mem.uses, filling := true }, f)
  if frameSets n = 0 then none
  else
    match ways.find? fun f => (Tbl.find? n.mem.frames f).isNone with
    | some f => some (put n f)
    | none =>
      let idle := n.mem.frames.filter fun f => ways.contains f.1 && frameIdle n f.2
      let oldest := idle.foldl (fun (best : Option (Nat × CacheFrame)) f =>
        match best with
        | none => some f
        | some g => if f.2.age < g.2.age then some f else some g) none
      oldest.map fun f => put (evictFrame n f.1) f.1

/-- One miss in 64 is sampled, into a table of 4,096 entries (R536). -/
def sampleMiss (n : Node) (chunk : Nat) : Node :=
  let k := n.mem.missCount + 1
  let add := k % 64 == 0 && decide (n.mem.misses.length < 4096)
  { n with mem := { n.mem with missCount := k, misses := if add then n.mem.misses ++ [chunk] else n.mem.misses } }

/-- A request misses the stack cache: a frame is allocated and one Read fetches all 16 LBAs (R303). A Read waits for
Writes outstanding on its LBAs. -/
def fillFrame (n : Node) (chunk : Nat) : Node :=
  if (frameOf n chunk).isSome then n
  else
    let d := driveOf (chunk * 65536)
    let lba := lbaOf (chunk * 65536)
    if writeBusy n d lba 16 then n
    else
      match allocFrame n chunk with
      | none => n
      | some (n, f) => issueNvme (sampleMiss n chunk) d 2 lba 16 false [] [] (.frameFill f)

/-! ### Room in a slice (R299) -/

/-- Why a line is not ready. -/
inductive Fetch where
  /-- The line lies in its slice. -/
  | ready
  /-- It is on its way, or waits for room or repair. -/
  | waits
  /-- The key slot it needs is empty (R92). -/
  | noKey
  deriving DecidableEq, Repr

/-- Blocks a slice can hold: 24 MiB, less what is disabled (R21, R473). -/
def sliceRoom (n : Node) (tile : Nat) : Nat :=
  6144 - ceilDiv (getAt n.flt.tiles tile TileHealth.reset).disabled 4096

/-- Makes room for one block in a slice: the least-recently-used unpinned block that no request uses and whose lines can
be written back leaves. -/
def makeRoom (n : Node) (tile : Nat) : Node × Fetch :=
  let here := n.mem.blocks.filter fun t => t.2.tile == tile
  if here.length < sliceRoom n tile then (n, .ready)
  else
    let free := here.filter fun t => !t.2.pinned && !blockInUse n t.1
    let can := free.filter fun t => t.2.dirty == 0 || (!keyless n t.1 && canWriteBack n t.1)
    let lru := can.foldl (fun (best : Option (Nat × TileBlock)) t =>
      match best with
      | none => some t
      | some u => if t.2.use < u.2.use then some t else some u) none
    match lru with
    | some t => (dropBlock (writeBack n t.1) t.1, .ready)
    | none => (n, if free.any fun t => keyless n t.1 then .noKey else .waits)

/-- The block has a place in its slice, made if need be. -/
def openSlice (n : Node) (b : Nat) : Node × Fetch :=
  if (sliceBlock n b).isSome then (n, .ready)
  else
    let tile := homeTile n (b * 64)
    let m := makeRoom n tile
    if m.2 != .ready then m
    else (setBlock m.1 b { tile := tile, slot := lineSlot (b * 64), valid := 0, dirty := 0, pinned := false, use := m.1.mem.uses },
          .ready)

/-- Installs lines of a block that the slice does not hold yet: line `i` for every `i` in `mask`. -/
def installLines (n : Node) (b mask : Nat) (plain : Bytes) : Node :=
  match sliceBlock n b with
  | none => n
  | some t =>
    let new := (List.range 64).filter fun i => mask.testBit i && !t.valid.testBit i
    let mem := new.foldl (fun m i => memWrite 0 m ((b * 64 + i) * 64) ((plain.drop (i * 64)).take 64)) n.mem.plain
    let valid := new.foldl (fun v i => v ||| 2 ^ i) t.valid
    touchBlock (setBlock { n with mem := { n.mem with plain := mem } } b { t with valid := valid }) b

/-! ### Lines that cannot be read (R474–R476) -/

/-- A READ that asks a range's peer for one line: a repair read at a primary, a resync request at a mirror
(R475, R476). `vsel`: 3 LIVE, 1 IMAGE. -/
def repairPacket (n : Node) (ctx : Nat) (r : Range) (line vsel : Nat) : Packet :=
  let p := blankPacket r.peer n.nodeId 0 1
  { p with
    ctx := BitVec.ofNat 16 ctx, flags := 0x30, pva := wordOf (pvaOf r line), len := 64,
    mapgen := BitVec.ofNat 32 (curGen n ctx), op5 := wordOf (n.nodeId * 2 ^ 32 + vsel * 2 ^ 48) }

/-- An unreadable line with no second copy is poisoned, and the event is logged (R474). -/
def poisonUnread (n : Node) (line : Nat) : Node :=
  let o := openSlice n (blkOf line)
  let n := installLines o.1 (blkOf line) (2 ^ (line % 64)) (List.replicate 4096 0)
  let n := setPoison { n with mem := { n.mem with bad := Tbl.del n.mem.bad line } } line
  logEvent n { otherEvent 3 1 with uclass := 3, unit_ := homeTile n line, data0 := line * 64 }

/-- The repair of one line begins. -/
def repairLine (n : Node) (ctx : Nat) (r : Range) (kind : LineFault) (line : Nat) : Node :=
  if (Tbl.find? n.mem.bad line).isSome || isPoisoned n line then n
  else if r.peer ≠ 0 && !isLost n r.peer then
    let n := { n with mem := { n.mem with bad := Tbl.put n.mem.bad line kind } }
    sendPacket (bump n (moduleFault (bit01 r.mirrorRole)) 1) (repairPacket n ctx r line 3) (.repair line)
  else poisonUnread n line

/-- A line's stored copy cannot be read: it, or with COMP 1 and for an LBA all lines of its block, is repaired (R474). -/
def lineUnreadable (n : Node) (ctx : Nat) (r : Range) (line : Nat) (kind : LineFault) : Node :=
  let lines := if r.comp || kind == .dense || kind == .state then (List.range 64).map fun i => blkOf line * 64 + i else [line]
  (lines.filter fun l => !lineValid n l).foldl (fun n l => repairLine n ctx r kind l) n

/-! ### Fetching (R299, R303, R297) -/

/-- Brings a line into its slice, or starts what brings it. `whole`: the store that needs it overwrites all of it, so
that nothing has to be read where the block is not compressed. -/
def fetchLine (n : Node) (ctx : Nat) (r : Range) (line : Nat) (whole : Bool) : Node × Fetch :=
  let b := blkOf line
  if (Tbl.find? n.mem.bad line).isSome then (n, .waits)
  else if lineValid n line then (touchBlock n b, .ready)
  else if r.storeLost then (n, .waits)
  else if whole && !r.comp && (r.resClass = 0 || r.resClass = 3) then openSlice n b
  else if (keysFor n ctx r).isEmpty then (n, .noKey)
  else
    match storedAt n r b with
    | some (st, bs) =>
      match if checkSpoiled n r line then none else openBlock (keysFor n ctx r) r.comp b st bs with
      | none =>
        if isPoisoned n line then
          let o := openSlice n b
          (installLines o.1 b (2 ^ (line % 64)) (List.replicate 4096 0), o.2)
        else (lineUnreadable n ctx r line (if r.resClass = 1 then .dense else .stack), .waits)
      | some plain =>
        let o := openSlice n b
        if o.2 != .ready then o
        else (installLines o.1 b (if r.comp then allLines else 2 ^ (line % 64)) plain, .ready)
    | none =>
      if r.resClass = 1 then (fillFrame n (b / 16), .waits)
      else if r.resClass = 2 then
        let d := driveOf (b * 4096)
        let lba := lbaOf (b * 4096)
        if nvmeBusy n d 2 lba 1 || writeBusy n d lba 1 then (n, .waits)
        else (issueNvme n d 2 lba 1 false [] [] (.directRead b), .waits)
      else (lenderRead n ctx r b, .waits)

/-- Whether a store to a line of the range must move it out of the slice at once, and so needs its key (R92, R294,
R296). -/
def storeNeedsKey (r : Range) : Bool := r.resClass = 2 || r.resClass = 3

/-- Stores bytes into a line in its slice at an offset. The line becomes valid and dirty; a pinned line is written back
as it becomes dirty, and a DENSE_DIRECT line goes to its drive (R294, R296). -/
def storeLine (n : Node) (r : Range) (line off : Nat) (bs : Bytes) : Node :=
  let b := blkOf line
  match sliceBlock n b with
  | none => n
  | some t =>
    let bit := 2 ^ (line % 64)
    let n := { n with mem := { n.mem with plain := memWrite 0 n.mem.plain (line * 64 + off) bs } }
    let n := touchBlock (setBlock n b { t with valid := t.valid ||| bit, dirty := t.dirty ||| bit }) b
    if r.resClass = 2 || r.resClass = 3 then writeBack n b else n

/-- A DENSE_DIRECT block's last store has not reached the drive (R294). -/
def directPending (n : Node) (b : Nat) : Bool :=
  (n.mem.nvme.any fun c => decide (c.2.purpose = .directWrite b)) ||
  (match spanOf n (b * 64) with
   | some (_, r) => r.resClass = 2 && ((sliceBlock n b).map (·.dirty)).getD 0 != 0
   | none => false)

/-- DENSE_DIRECT blocks that no request uses leave their slices (R294). -/
def releaseDirect (n : Node) : Node :=
  (n.mem.blocks.filter fun t =>
    t.2.dirty == 0 && !blockInUse n t.1 && !directPending n t.1 &&
      (match spanOf n (t.1 * 64) with
       | some (_, r) => r.resClass == 2
       | none => false)).foldl (fun n t => dropBlock n t.1) n

end Sys2Proof.Machine
end

