-- ==== Sys2Proof/Machine/Coherent.lean ====
section
/-! DEFINITION. The directory, its recalls, and the snoop ring, as operations (R175–R192, R201–R210). -/

namespace Sys2Proof.Machine

/-! ### The directory (R180–R182) -/

/-- A line's directory entry; a line in state I has none. -/
def dirOf (n : Node) (line : Nat) : Option DirEntry := Tbl.find? n.coh.dir line

/-- The node with a line's entry replaced, or removed. -/
def setDir (n : Node) (line : Nat) (e : Option DirEntry) : Node :=
  { n with coh := { n.coh with dir := match e with
    | some x => Tbl.put n.coh.dir line x
    | none => Tbl.del n.coh.dir line } }

/-- A recall or invalidation of the line is outstanding (R180). -/
def isPending (n : Node) (line : Nat) : Bool := (Tbl.find? n.coh.recalls line).isSome

/-- Two lines share a directory set: region, slot and set number (R180). -/
def sameSet (a b : Nat) : Bool :=
  hashRegionSlot (a * 64) == hashRegionSlot (b * 64) && directorySet (a * 64) == directorySet (b * 64)

/-- The entries of a line's set. -/
def setEntries (n : Node) (line : Nat) : Tbl DirEntry := n.coh.dir.filter fun e => sameSet e.1 line

/-- The set of a line has no free way (R182). -/
def setFull (n : Node) (line : Nat) : Bool := decide (16 ≤ (setEntries n line).length)

/-- All ways of the set are PENDING (R182). -/
def setAllPending (n : Node) (line : Nat) : Bool :=
  setFull n line && (setEntries n line).all fun e => isPending n e.1

/-- The group of a node in a coarse entry (R181). -/
def groupOf (node : Nat) : Nat := node / 1024

/-- The nodes of a context's admission set, rising. -/
def admittedNodes (n : Node) (ctx : Nat) : List Nat :=
  match slotOf n ctx with
  | some s => (List.range 65536).filter fun i => s.admits.testBit i
  | none => []

/-- The nodes an invalidation of an entry goes to: its sharers, or every admitted node of its marked groups; lost nodes
are left out (R181). -/
def sharersOf (n : Node) (e : DirEntry) : List Nat :=
  let all := if e.coarse then (admittedNodes n e.ctx).filter fun i => e.groups.testBit (groupOf i) else e.ptrs
  all.filter fun i => !isLost n i

/-- The entry records node `x` as a sharer. -/
def recorded (e : DirEntry) (x : Nat) : Bool := !e.coarse && e.ptrs.contains x

/-- The entry with one more sharer: a fifth turns it coarse (R181). -/
def addSharer (e : DirEntry) (x : Nat) : DirEntry :=
  if e.coarse then { e with groups := e.groups ||| 2 ^ groupOf x }
  else if e.ptrs.contains x then e
  else if e.ptrs.length < 4 then { e with ptrs := e.ptrs ++ [x] }
  else { e with coarse := true, groups := (e.ptrs ++ [x]).foldl (fun g i => g ||| 2 ^ groupOf i) 0, ptrs := [] }

/-- A new entry for a grant to `x`. -/
def grantEntry (n : Node) (ctx pva x : Nat) (excl : Bool) : DirEntry :=
  { excl := excl, coarse := false, ptrs := [x], groups := 0, age := n.coh.ages, ctx := ctx, pva := pva }

/-- Records a grant under the next place in the order of grants (R182). -/
def putGrant (n : Node) (line : Nat) (e : DirEntry) : Node :=
  let n := setDir n line (some { e with age := n.coh.ages })
  { n with coh := { n.coh with ages := n.coh.ages + 1 } }

/-! ### Recalls (R183–R185) -/

/-- A FWD packet of the home to a holder (R185). -/
def fwdPacket (n : Node) (node opcode ctx pva line : Nat) : Packet :=
  let p := blankPacket node n.nodeId 1 opcode
  { p with
    ctx := BitVec.ofNat 16 ctx, pva := wordOf pva, mapgen := BitVec.ofNat 32 (curGen n ctx), tag := BitVec.ofNat 32 line }

/-- Sends a recall or invalidation of a line to some nodes and sets the line PENDING (R183, R188). With nobody to send
it to, nothing is outstanding. -/
def sendRecall (n : Node) (line opcode : Nat) (nodes : List Nat) (cause : RecallCause) (ctx pva : Nat) : Node :=
  let out := nodes.foldl (fun (a : Node × List RecallLeg) x =>
    let seq := nextSeq a.1 a.1.nodeId x 1
    (sendPacket a.1 (fwdPacket a.1 x opcode ctx pva line) .protocol, a.2 ++ [{ node := x, seq := seq, wbPending := false }]))
    (n, [])
  if out.2.isEmpty then out.1
  else
    let rc : Recall := { opcode := opcode, legs := out.2, cause := cause, ctx := ctx, pva := pva }
    { out.1 with coh := { out.1.coh with recalls := Tbl.put out.1.coh.recalls line rc } }

/-- Takes every copy of a line away from its holders: INV to sharers but `keep`, RECALL_INV to an owner; an owner or
sharers that are all lost hold nothing, and the entry goes (R188, R209). -/
def withdraw (n : Node) (line : Nat) (keep : Option Nat) (cause : RecallCause) : Node :=
  if isPending n line then n
  else
    match dirOf n line with
    | none => n
    | some e =>
      let nodes := (sharersOf n e).filter fun x => some x != keep
      if nodes.isEmpty then
        match keep with
        | some x => setDir n line (some { e with coarse := false, ptrs := [x], groups := 0 })
        | none => setDir n line none
      else sendRecall n line (if e.excl then 0x41 else 0x40) nodes cause e.ctx e.pva

/-- Asks an owner to keep at most S (R188). -/
def downgrade (n : Node) (line : Nat) (cause : RecallCause) : Node :=
  if isPending n line then n
  else
    match dirOf n line with
    | none => n
    | some e =>
      if !e.excl then n
      else
        let nodes := sharersOf n e
        if nodes.isEmpty then setDir n line none else sendRecall n line 0x42 nodes cause e.ctx e.pva

/-- The victim of a full set: an entry without PENDING, S before E/M, the one granted longest ago (R182). -/
def victimOf (n : Node) (line : Nat) : Option Nat :=
  let free := (setEntries n line).filter fun e => !isPending n e.1
  let shared := free.filter fun e => !e.2.excl
  let pool := if shared.isEmpty then free else shared
  (pool.foldl (fun (best : Option (Nat × DirEntry)) e =>
    match best with
    | none => some e
    | some b => if e.2.age < b.2.age then some e else some b) none).map Prod.fst

/-! ### Operand buffers, lent tables, the snoop ring (R25, R201–R204) -/

/-- A broadcast invalidation of a line is outstanding on the snoop ring. -/
def snooping (n : Node) (line : Nat) : Bool := (Tbl.find? n.coh.snoops line).isSome

/-- A home tile's lent table names the line (R202). -/
def isLent (n : Node) (line : Nat) : Bool :=
  (Tbl.getD n.coh.lent (homeTile n line) []).any fun e => e.line == line

/-- Broadcasts an invalidation of a line (R25, R203). -/
def startSnoop (n : Node) (ctx line : Nat) : Node :=
  if snooping n line then n else { n with coh := { n.coh with snoops := Tbl.put n.coh.snoops line ctx } }

/-- Begins to withdraw the lent copies of a line, when there are any. -/
def withdrawLent (n : Node) (ctx line : Nat) : Node := if isLent n line then startSnoop n ctx line else n

/-- Every live tile has acknowledged the invalidation: the copies of coherent lines are gone and the lent-table entry is
removed (R25, R203). -/
def endSnoop (n : Node) (line : Nat) : Node :=
  if !snooping n line then n
  else
    { n with coh := { n.coh with
        snoops := Tbl.del n.coh.snoops line
        opbuf := n.coh.opbuf.map fun t => (t.1, t.2.filter fun c => !(c.line == line && !c.nc))
        lent := n.coh.lent.map fun t => (t.1, t.2.filter fun e => e.line != line) } }

/-- Drops a tile's operand-buffer copies of NC lines of a context (R149, R150, R157, R278). -/
def dropNc (n : Node) (tile ctx : Nat) : Node :=
  { n with coh := { n.coh with
      opbuf := Tbl.upd n.coh.opbuf tile fun cs => cs.filter fun c => !(c.nc && c.ctx == ctx) } }

/-- Empties a tile's operand buffer (R29, R481). -/
def dropOperands (n : Node) (tile : Nat) : Node := { n with coh := { n.coh with opbuf := Tbl.del n.coh.opbuf tile } }

/-- Copies an operand buffer of 512 KiB holds. -/
def operandRoom : Nat := 8192

/-- Lends a line to another tile's operand buffer: the home tile enters it in its lent table first, and a full table
frees its oldest entry by an invalidation (R202); NC lines are lent without an entry, and a line under invalidation is
not installed (R204). The oldest copy of a full buffer gives way. -/
def lendLine (n : Node) (ctx line tile : Nat) (nc : Bool) : Node :=
  let home := homeTile n line
  if tile = home || snooping n line then n
  else
    let tab := Tbl.getD n.coh.lent home []
    let n := if nc || tab.any (fun e => e.line == line) then n
      else
        let full := decide (8192 ≤ tab.length)
        let n := match (if full then tab.head? else none) with
          | some e => startSnoop n e.ctx e.line
          | none => n
        { n with coh := { n.coh with lent := Tbl.put n.coh.lent home (tab ++ [{ ctx := ctx, line := line }]) } }
    let copies := (Tbl.getD n.coh.opbuf tile []).filter fun c => !(c.line == line)
    let copies := if operandRoom ≤ copies.length then copies.drop 1 else copies
    let copy : OperandCopy := { ctx := ctx, line := line, nc := nc, data := lineData n line }
    { n with coh := { n.coh with opbuf := Tbl.put n.coh.opbuf tile (copies ++ [copy]) } }

/-! ### Making a line ready (R187–R189, R208) -/

/-- What an access wants of a line. -/
inductive Want where
  /-- A read that grants nothing, or an engine's read. -/
  | read
  /-- A caching read by a node (R176). -/
  | cache (x : Nat)
  /-- A store; `whole`: it overwrites all of the line. -/
  | store (whole : Bool)
  deriving DecidableEq, Repr

/-- A range keeps directory state: coherent and at the primary (R175, R179). -/
def coherentAt (r : Range) : Bool := !r.nc && !r.mirrorRole

/-- Only a SHARED 0 range grants copies (R176, R180). -/
def grantsCopies (r : Range) : Bool := coherentAt r && !r.shared

/-- A Leap out of this module is copying the line's 2 MiB chunk (R424 step 3). -/
def leapCopying (n : Node) (ctx pva : Nat) : Bool :=
  n.ml.outs.any fun l => l.2.ctx == ctx && l.2.copying == some ((pva - l.2.start) / 2 ^ 21) && decide (l.2.start ≤ pva)

/-- A store to the line must wait: its write-back's forward is not acknowledged (R191), or its chunk is being copied by
a Leap (R424). -/
def storeHeld (n : Node) (ctx pva line : Nat) : Bool :=
  (match Tbl.find? n.coh.mdirty line with
   | some m => m.evict.isSome
   | none => false) || leapCopying n ctx pva

/-- Does what an access to a line needs first: recalls, invalidations, the fill. The answer says whether the access can
be made now. -/
def prepLine (n : Node) (ctx : Nat) (r : Range) (pva line : Nat) (want : Want) : Node × Fetch :=
  if isPending n line || snooping n line then (n, .waits)
  else
    let needFill := fun (whole : Bool) (n : Node) =>
      if isPending n line || snooping n line then (n, Fetch.waits) else fetchLine n ctx r line whole
    match want with
    | .store whole =>
      if storeHeld n ctx pva line then (n, .waits)
      else
        let n := if coherentAt r then withdrawLent (withdraw n line none .request) ctx line else n
        if storeNeedsKey r && (keysFor n ctx r).isEmpty then (n, .noKey) else needFill whole n
    | .read => needFill false (if coherentAt r then downgrade n line .request else n)
    | .cache x =>
      if !grantsCopies r then needFill false (if coherentAt r then downgrade n line .request else n)
      else
        let n := match dirOf n line with
          | none =>
            if setFull n line then
              match victimOf n line with
              | some v => withdraw n v none .victim
              | none => n
            else if r.w then withdrawLent n ctx line else n
          | some e =>
            if e.excl then (if e.ptrs.contains x then n else downgrade n line .request)
            else if recorded e x && r.w then withdrawLent (withdraw n line (some x) .request) ctx line
            else n
        if (dirOf n line).isNone && setFull n line then (n, .waits) else needFill false n

/-- The grant of a caching read on a line made ready for it, and the entry it leaves (R188): 1 S, 2 E. -/
def grantLine (n : Node) (ctx : Nat) (r : Range) (pva line x : Nat) : Node × Nat :=
  match dirOf n line with
  | none => (putGrant n line (grantEntry n ctx pva x r.w), if r.w then 2 else 1)
  | some e =>
    if e.excl then (n, 2)
    else if recorded e x && r.w then (putGrant n line { e with excl := true, ptrs := [x] }, 2)
    else if recorded e x then (n, 1)
    else (putGrant n line (addSharer e x), 1)

end Sys2Proof.Machine
end

