-- ==== Sys2Proof/Machine/Versions.lean ====
section
/-! DEFINITION. The versions of a chunk (R378–R382) and the forwards that carry stores to the mirror and to a Leap's target
(R372–R376, R425). -/

namespace Sys2Proof.Machine

/-! ### Parts and cuts (R377–R379) -/

/-- Where a store comes from, as far as a cut can tell (R379). -/
inductive Origin where
  /-- A REQ or a write-back of a source at an epoch. -/
  | source (src epoch : Nat)
  /-- A program commit at a run epoch. -/
  | program (epoch : Nat)
  /-- A store of the module's own, beyond every cut. -/
  | own
  deriving DecidableEq, Repr

/-- The part that holds a chunk. -/
def partOf (n : Node) (chunk : Nat) : Option (Nat × Part) := n.sol.parts.find? fun p => p.2.chunks.any fun c => c.1 == chunk

/-- The node with a part replaced. -/
def setPart (n : Node) (k : Nat) (p : Part) : Node := { n with sol := { n.sol with parts := Tbl.put n.sol.parts k p } }

/-- Epoch `x` is at or before `e` (R379). -/
def atOrBefore (x e : Nat) : Bool :=
  let d := (x + 65536 - e % 65536) % 65536
  d == 0 || decide (0x8000 ≤ d)

/-- A part that has not sealed and classifies stores: a primary part in state OPEN. -/
def classifies (p : Part) : Bool := !p.mirror && !p.carried && p.state == 1

/-- A store is in-cut at a part (R379). -/
def inCut (p : Part) : Origin → Bool
  | .source src e => classifies p && atOrBefore e p.epoch && p.srcs.any fun s => s.node == src && !s.pruned
  | .program e => classifies p && atOrBefore e p.epoch
  | .own => false

/-- The image copy of a SPLIT chunk of a part; a restored chunk has none (R378, R394). -/
def imageOf (n : Node) (chunk : Nat) : Option CowChunk :=
  match Tbl.find? n.mem.cow chunk with
  | some c => if c.restored then none else some c
  | none => none

/-- A part that keeps versions: failed parts have none. -/
def keepsVersions (p : Part) : Bool := p.state != 4

/-- A part fails: its image copies are freed, the live versions stand, and the record is due (R381, R384). -/
def failPart (n : Node) (k status : Nat) : Node :=
  match Tbl.find? n.sol.parts k with
  | none => n
  | some p =>
    if p.state = 4 then n
    else
      let n := setPart n k { p with state := 4, status := status, recordDue := true, drainStopped := true }
      let cow := n.mem.cow.filter fun c => !(c.2.part == k && !c.2.restored)
      let left := n.mem.badImage.filter fun l => cow.any fun c => c.1 == chunkOf l
      let n := { n with mem := { n.mem with cow := cow, badImage := left } }
      logEvent n { otherEvent 6 2 with ctx := p.ctx, status := status, data0 := p.cohort }

/-! ### Splitting (R381) -/

/-- Bytes of a part's tables: 8 for each chunk, and 8 for each listed source of a primary part (R385). -/
def tableBytes (p : Part) : Nat := 8 * p.chunks.length + (if p.mirror then 0 else 8 * p.srcs.length)

/-- The parts' tables in all. -/
def tablesBytes (n : Node) : Nat := (n.sol.parts.map fun p => tableBytes p.2).foldl (· + ·) 0

/-- Chunks the copy-on-write pool still has room for (R290). -/
def poolRoom (n : Node) : Nat :=
  (cfgNum n 0x0205 * 2 ^ 30 - tablesBytes n) / 65536 - (n.mem.cow.filter fun c => !c.2.dense).length

/-- Chunks the dense copy-on-write areas of the drives that are up still have room for (R293). -/
def denseRoom (n : Node) : Nat :=
  let up := (List.range 16).filter fun d => fieldOf (dportAt n d).status 1 0 == 2
  up.length * (cfgNum n 0x0206 * 16384) - (n.mem.cow.filter fun c => c.2.dense).length

/-- A block's stored form as a split copies it; none while it must still be fetched. -/
def storedForm (n : Node) (ctx : Nat) (r : Range) (b : Nat) : Option (Nat × Bytes) :=
  let dirty := ((sliceBlock n b).map (·.dirty)).getD 0
  match storedAt n r b with
  | some s => if dirty = 0 then some s else some (sealBlock (keysFor n ctx r) r.comp b (blockPlain n ctx r b))
  | none => if blockAtHand n r b then some (sealBlock (keysFor n ctx r) r.comp b (blockPlain n ctx r b)) else none

/-- Copies a chunk into copy-on-write space for a part: first the pool, then the dense areas. With neither, the part
fails with NO_RESOURCE. While a block of the chunk is still on its way, it waits. -/
def splitChunk (n : Node) (k ctx : Nat) (r : Range) (chunk : Nat) : Node × Fetch :=
  if (imageOf n chunk).isSome then (n, .ready)
  else if poolRoom n = 0 && denseRoom n = 0 then (failPart n k stNoResource, .ready)
  else
    let bs := (List.range 16).map fun i => chunk * 16 + i
    let absent := bs.filter fun b => (storedForm n ctx r b).isNone
    if !absent.isEmpty then
      absent.foldl (fun (a : Node × Fetch) b =>
        let f := fetchLine a.1 ctx r (b * 64) false
        (f.1, if f.2 == .noKey then .noKey else a.2)) (n, .waits)
    else
      let forms := bs.map fun b => (storedForm n ctx r b).getD (0, [])
      let bytes := (forms.zipIdx).foldl (fun m f => memWrite 0 m (f.2 * 4096) (sliceOf f.1.2 0 4096)) []
      let c : CowChunk :=
        { part := k, dense := poolRoom n = 0, states := forms.map Prod.fst, bytes := bytes,
          poison := (n.coh.poison.filter fun l => chunkOf l == chunk).map (· % 1024), fresh := true, restored := false }
      let n := { n with mem := { n.mem with cow := Tbl.put n.mem.cow chunk c } }
      let n := match Tbl.find? n.sol.parts k with
        | some p => setPart n k { p with recordStale := true }
        | none => n
      (n, .ready)

/-! ### The image copy's lines -/

/-- The plaintext of a block of an image copy. -/
def imageBlock (n : Node) (ctx : Nat) (r : Range) (c : CowChunk) (b : Nat) : Option Bytes :=
  let keys := keysFor n ctx r
  if keys.isEmpty then none
  else openBlock keys r.comp b (c.states.getD (b % 16) 0) (memRead 0 c.bytes (b % 16 * 4096) 4096)

/-- The plaintext of a line of an image copy. -/
def imageLine (n : Node) (ctx : Nat) (r : Range) (c : CowChunk) (line : Nat) : Option Bytes :=
  (imageBlock n ctx r c (blkOf line)).map fun p => (p.drop (line % 64 * 64)).take 64

/-- Changes a line of a chunk's image copy by `f`. An image line that cannot be read fails its part (R474). -/
def updateImage (n : Node) (ctx : Nat) (r : Range) (line : Nat) (f : Bytes → Bytes) : Node :=
  match imageOf n (chunkOf line) with
  | none => n
  | some c =>
    match imageBlock n ctx r c (blkOf line) with
    | none => failPart n c.part stAborted
    | some p =>
      let b := blkOf line
      let old := (p.drop (line % 64 * 64)).take 64
      let s := sealBlock (keysFor n ctx r) r.comp b (overlayAt p (line % 64 * 64) (sliceOf (f old) 0 64))
      let c := { c with states := c.states.set (b % 16) s.1,
                        bytes := memWrite 0 c.bytes (b % 16 * 4096) (sliceOf s.2 0 4096) }
      { n with mem := { n.mem with cow := Tbl.put n.mem.cow (chunkOf line) c } }

/-! ### Local Leaps (R424) -/

/-- A store to a COPIED chunk of a local Leap also reaches the new local span. -/
def followLocalLeap (n : Node) (ctx pva line : Nat) : Node :=
  let hits := n.ml.outs.filter fun l =>
    l.2.ctx == ctx && l.2.target == n.nodeId && decide (l.2.start ≤ pva) &&
      l.2.copied.contains ((pva - l.2.start) / 2 ^ 21)
  hits.foldl (fun n l =>
    match l.2.locals_.find? fun r => covers r pva with
    | none => n
    | some r =>
      let dst := lineAt r pva
      let o := openSlice n (blkOf dst)
      storeLine o.1 r dst 0 (lineData o.1 line)) n

/-! ### Applying a store to the versions of its chunk (R380) -/

/-- A line's chunk must be split before this store (R380). -/
def mustSplit (n : Node) (line : Nat) (o : Origin) : Option Nat :=
  match partOf n (chunkOf line) with
  | some (k, p) =>
    if keepsVersions p && !p.mirror && (imageOf n (chunkOf line)).isNone && p.state != 5 && !inCut p o &&
      (p.state == 1 || p.state == 2 || p.state == 3) then some k else none
  | none => none

/-- Splits the line's chunk if this store needs it. -/
def prepSplit (n : Node) (ctx : Nat) (r : Range) (line : Nat) (o : Origin) : Node × Fetch :=
  match mustSplit n line o with
  | some k => splitChunk n k ctx r (chunkOf line)
  | none => (n, .ready)

/-- A line's new value applied to the versions of its chunk: `live` in its slice and, where the store is in-cut on a
SPLIT chunk, `image` of the image copy's own value too. `same`: both receive the same bytes. The answer lists the VSELs
of the forwards it causes (R372, R380): the first beyond-cut store after a split goes BEYOND. -/
def storeVersions (n : Node) (ctx : Nat) (r : Range) (line : Nat) (o : Origin) (same : Bool) (live : Bytes)
    (image : Bytes → Bytes) : Node × List Nat :=
  let pva := pvaOf r line
  let n' := followLocalLeap (storeLine n r line 0 live) ctx pva line
  match partOf n (chunkOf line) with
  | none => (n', [0])
  | some (_, p) =>
    if p.mirror || !keepsVersions p then (n', [0])
    else
      match imageOf n (chunkOf line) with
      | none => (n', [if inCut p o then 0 else 3])
      | some c =>
        if inCut p o then (updateImage n' ctx r line image, if same then [0] else [3, 1])
        else if c.fresh then
          ({ n' with mem := { n'.mem with cow := Tbl.upd n'.mem.cow (chunkOf line) fun c => { c with fresh := false } } }, [2])
        else (n', [3])

/-- A store that gives each version's new line by the same function of its old one. -/
def applyToVersions (n : Node) (ctx : Nat) (r : Range) (line : Nat) (o : Origin) (same : Bool) (f : Bytes → Bytes) :
    Node × List Nat :=
  storeVersions n ctx r line o same (f (lineData n line)) f

/-! ### Forwards (R372, R425) -/

/-- What a forward carries beside its span. -/
structure FwdInfo where
  epoch : Nat
  mapgen : Nat
  origSeq : Nat
  origSrc : Nat
  /-- OPERAND word 6. -/
  word6 : Nat
  poison : Bool
  deriving DecidableEq, Repr

/-- The forward of a store that the primary composes itself (R372, R397). -/
def ownInfo (n : Node) (ctx : Nat) : FwdInfo :=
  { epoch := 0, mapgen := curGen n ctx, origSeq := 0, origSrc := n.nodeId, word6 := 0, poison := false }

/-- A forward: a REQ WRITE that carries PEER (R372). -/
def forwardPacket (n : Node) (dst ctx pva vsel : Nat) (i : FwdInfo) (bs : Bytes) : Packet :=
  let p := withPayload (blankPacket dst n.nodeId 0 2) bs
  { p with
    ctx := BitVec.ofNat 16 ctx, pva := wordOf pva, epoch := BitVec.ofNat 16 i.epoch,
    mapgen := BitVec.ofNat 32 i.mapgen, flags := p.flags ||| 0x10,
    op5 := wordOf (i.origSeq % 2 ^ 32 + i.origSrc % 2 ^ 16 * 2 ^ 32 + vsel * 2 ^ 48), op6 := wordOf i.word6,
    poison := i.poison }

/-- The nodes a store at a PVA is forwarded to: the range's mirror, and the target of a Leap whose copy of the chunk is
done (R372, R425). -/
def forwardTargets (n : Node) (ctx : Nat) (r : Range) (pva : Nat) : List Nat :=
  (if r.peer ≠ 0 && !r.mirrorRole then [r.peer] else []) ++
  ((n.ml.outs.filter fun l =>
    l.2.ctx == ctx && l.2.target != n.nodeId && decide (l.2.start ≤ pva) &&
      l.2.copied.contains ((pva - l.2.start) / 2 ^ 21)).map fun l => l.2.target)

/-- A command's store goes to a mirror: its completion is a mirrored store's (R414). -/
def markMirrored (n : Node) (why : SentFor) (sent : Bool) : Node :=
  match why with
  | .cmdForward tid =>
    if sent then { n with trk := { n.trk with cmds := Tbl.upd n.trk.cmds tid fun c => { c with mirrored := true } } } else n
  | _ => n

/-- Sends forwards of a span, in pieces of at most the personality's payload; answers their destinations and SEQs. -/
def sendForwards (n : Node) (ctx : Nat) (r : Range) (pva vsel : Nat) (i : FwdInfo) (why : SentFor) (bs : Bytes) :
    Node × List (Nat × Nat) :=
  let room := maxPayload n
  let pieces := (List.range (ceilDiv bs.length room)).map fun k => (pva + k * room, (bs.drop (k * room)).take room)
  let out := pieces.foldl (fun (a : Node × List (Nat × Nat)) q =>
    (forwardTargets a.1 ctx r q.1).foldl (fun (a : Node × List (Nat × Nat)) dst =>
      let seq := nextSeq a.1 a.1.nodeId dst 0
      (sendPacket a.1 (forwardPacket a.1 dst ctx q.1 vsel i q.2) why, a.2 ++ [(dst, seq)])) a) (n, [])
  (markMirrored out.1 why (!out.2.isEmpty), out.2)

/-- A line is mirror-dirty because a forward's state was lost (R396). -/
def needsResync (n : Node) (line : Nat) : Bool :=
  match Tbl.find? n.coh.mdirty line with
  | some m => m.evict.isNone || m.resync
  | none => false

/-- Forwards some lines of a range whole: the payload of every store but WRITE and ATOMIC (R372). The lines are
consecutive. -/
def forwardLines (n : Node) (ctx : Nat) (r : Range) (first count vsel : Nat) (i : FwdInfo) (why : SentFor) :
    Node × List (Nat × Nat) :=
  let bs := (List.range count).flatMap fun k =>
    if vsel = 1 then
      match imageOf n (chunkOf (first + k)) with
      | some c => (imageLine n ctx r c (first + k)).getD (List.replicate 64 0)
      | none => List.replicate 64 0
    else lineData n (first + k)
  sendForwards n ctx r (pvaOf r first) vsel i why bs

/-! ### The module's own line stores (R384, R392, R189) -/

/-- A whole line stored by the module itself, or returned by a holder, into a line that is ready: versions, poison and
forwards. Answers the forwards sent. -/
def commitLine (n : Node) (ctx : Nat) (r : Range) (line : Nat) (o : Origin) (why : SentFor) (i : FwdInfo) (bs : Bytes) :
    Node × List (Nat × Nat) :=
  let n := clearPoison (prepSplit n ctx r line o).1 line
  let a := applyToVersions n ctx r line o true fun _ => bs
  a.2.foldl (fun (x : Node × List (Nat × Nat)) v =>
    let f := forwardLines x.1 ctx r line 1 v i why
    (f.1, x.2 ++ f.2)) (a.1, [])

/-! ### Poison forwarded as a value (R210) -/

/-- Poisons a line at the primary and forwards the poison to its mirror. -/
def poisonLine (n : Node) (ctx : Nat) (r : Range) (line : Nat) : Node :=
  let n := setPoison n line
  if r.peer = 0 || r.mirrorRole then n
  else (sendForwards n ctx r (pvaOf r line) 0 { ownInfo n ctx with poison := true } (.lineForward line)
          (List.replicate 64 0)).1

/-! ### Loss of the mirror (R376) -/

/-- The four words of a map operation, or of an image's entry (R407). -/
def mapEntryWords (e : MapEntry) : List Word :=
  [wordOf e.start, wordOf e.chunks, wordOf (e.primary + e.mirror * 2 ^ 16),
   wordOf (e.egen + bit01 e.lost * 2 ^ 32 + e.op * 2 ^ 33)]

/-- The lead of a context's map keepers: the lowest-listed not declared lost (R409). -/
def leadKeeper (n : Node) (keepers : List Nat) : Option Nat := keepers.find? fun k => k != 0 && !isLost n k

/-- Proposes map operations to the lead keeper of a context, when the module knows its keepers (R409, R412). -/
def proposeOps (n : Node) (ctx expect : Nat) (ops : List MapEntry) : Node :=
  match leadKeeper n (((slotOf n ctx).map (·.keepers)).getD []) with
  | none => n
  | some k =>
    sendPacket n (mgtPacket n k 0x91
      ([wordOf (ctx + ops.length * 2 ^ 16), wordOf expect, 0, 0] ++ ops.flatMap mapEntryWords)) .protocol

/-- Reports to the map keepers the extents of a context that have lost their mirror: MIRROR becomes 0 (R376). -/
def reportUnmirrored (n : Node) (ctx mirror : Nat) : Node :=
  let es := ((slotOf n ctx).map fun s => s.kept.filter fun e => e.primary == n.nodeId && e.mirror == mirror).getD []
  if es.isEmpty then n else proposeOps n ctx 0 (es.map fun e => { e with mirror := 0, egen := 0, lost := false, op := 0 })

/-- Forwards to a node count as answered: those of the packets that `dead` picks leave the pair and everything that waits for
them. -/
def dropForwards (n : Node) (node : Nat) (dead : Unanswered → Bool) : Node :=
  let q := pairOf n n.nodeId node
  let hit := fun (u : Unanswered) => u.pkt.cls == 0 && isPeer u.pkt && dead u
  let seqs := (q.sent.filter hit).map fun u => u.pkt.seq.toNat
  let n := setPair n n.nodeId node { q with sent := q.sent.filter fun u => !hit u }
  let drop := fun (l : List (Nat × Nat)) => l.filter fun f => !(f.1 == node && seqs.contains f.2)
  let n := { n with trk := { n.trk with reqs := Tbl.mapVals n.trk.reqs fun e => { e with fwds := drop e.fwds } } }
  let n := { n with prog := { n.prog with runs := Tbl.mapVals n.prog.runs fun e => { e with fwds := drop e.fwds } } }
  let n := { n with sol := { n.sol with parts := Tbl.mapVals n.sol.parts fun e => { e with recFwds := drop e.recFwds } } }
  { n with coh := { n.coh with mdirty := Tbl.mapVals n.coh.mdirty fun e => { e with fwds := drop e.fwds } } }

/-- The primary loses a mirror: PEER_NODE of the affected ranges becomes 0 under new GENs, forwards to it count as
answered, marks of their lines clear, and the extents are reported. `status`: what it answered, or OK when it was
declared lost. -/
def loseMirror (n : Node) (mirror status : Nat) (hit : Nat → Range → Bool) : Node :=
  let gone : List (Nat × Range) := n.ctxs.slots.flatMap fun c =>
    (c.2.ranges.filter fun e => e.2.peer == mirror && !e.2.mirrorRole && hit c.1 e.2).map fun e => (c.1, e.2)
  if gone.isEmpty then n
  else
    let n := gone.foldl (fun n e => restampRange n e.1 { e.2 with peer := 0 }) n
    let inGone := fun (ctx pva : Nat) => gone.any fun e => e.1 == ctx && covers e.2 pva
    let n := dropForwards n mirror fun u => inGone u.pkt.ctx.toNat u.pkt.pva.toNat
    let md := Tbl.mapVals n.coh.mdirty fun e => if inGone e.ctx e.pva then { e with fwds := [], resync := false } else e
    let n := { n with coh := { n.coh with mdirty := md } }
    let n := logEvent n { otherEvent 6 3 with node := mirror, status := status }
    let n := raiseAlert n alFault
    ((gone.map Prod.fst).eraseDups).foldl (fun n c => reportUnmirrored n c mirror) n

end Sys2Proof.Machine
end

