-- ==== Sys2Proof/Machine/Counting.lean ====
section
/-! DEFINITION. Responses and the dedupe window (R240–R245), arrival counters, their waits and their triggers
(R152–R167). -/

namespace Sys2Proof.Machine

/-! ### Responses (R112) -/

/-- Sends a response: class, status, the high half of word 5, word 6 and data. -/
def respond (n : Node) (p : Packet) (cls status hi5 op6 : Nat) (data : Bytes) : Node :=
  let r := responseTo n p cls status
  let r := { r with op5 := wordOf (p.seq.toNat + hi5 * 2 ^ 32), op6 := wordOf op6 }
  sendPacket (markAnswered n p) (if data.isEmpty then r else withPayload r data) .none

/-- OVF_COUNT and NAN_COUNT in one word (R230, R238). -/
def countsWord (ovf nans : Nat) : Nat := satCount ovf + satCount nans * 2 ^ 32

/-! ### Dedupe windows (R240–R245) -/

/-- A source's window. -/
def winOf (n : Node) (src : Nat) : Option DedupeWin := Tbl.find? n.prs.wins src

/-- The record of a request. -/
def recordOf (n : Node) (src seq : Nat) : Option DedupeRec := (winOf n src).bind fun w => Tbl.find? w.recs seq

/-- A source has a request in flight: admitted, parked, held back or waiting for its command. -/
def inFlight (n : Node) (src : Nat) : Bool :=
  n.trk.reqs.any (fun r => r.2.pkt.src.toNat == src) || n.ctr.waits.any (fun w => w.pkt.src.toNat == src) ||
    n.prs.delivered.any (fun p => p.cls == 0 && p.src.toNat == src)

/-- The window whose source has no request in flight and whose last delivery is oldest (R244). -/
def idleWindow (n : Node) : Option Nat :=
  ((n.prs.wins.filter fun w => !inFlight n w.1).foldl (fun (best : Option (Nat × DedupeWin)) w =>
    match best with
    | none => some w
    | some b => if w.2.last < b.2.last then some w else some b) none).map Prod.fst

/-- Gives a source its window, releasing an idle one when all 16,384 are taken; none when no window can be had (R244).
The delivery is entered in the home's order. -/
def takeWindow (n : Node) (src : Nat) : Option Node :=
  let put := fun (n : Node) (w : DedupeWin) =>
    { n with prs := { n.prs with wins := Tbl.put n.prs.wins src { w with last := n.prs.clock }, clock := n.prs.clock + 1 } }
  match winOf n src with
  | some w => some (put n w)
  | none =>
    if n.prs.wins.length < 16384 then some (put n { recs := [], last := 0 })
    else (idleWindow n).map fun k => put { n with prs := { n.prs with wins := Tbl.del n.prs.wins k } } { recs := [], last := 0 }

/-- Records that are neither among the last 256 SEQs delivered nor of a running request leave the window (R240). -/
def pruneRecords (w : DedupeWin) (deliv : Nat) : DedupeWin :=
  { w with recs := w.recs.filter fun r => r.2.status.isNone || decide (serialDist 32 r.1 deliv ≤ 255) }

/-- Sets a request's record. -/
def setRecord (n : Node) (p : Packet) (rec : DedupeRec) : Node :=
  let src := p.src.toNat
  let w := (winOf n src).getD { recs := [], last := n.prs.clock }
  let deliv := (pairOf n p.dst.toNat src).deliv.getD 0 0
  { n with prs := { n.prs with
      wins := Tbl.put n.prs.wins src (pruneRecords { w with recs := Tbl.put w.recs p.seq.toNat rec } deliv) } }

/-- Opens the record of an admitted request: running (R240). -/
def openRecord (n : Node) (p : Packet) : Node :=
  setRecord n p { opcode := p.opcode.toNat, status := none, landed := 0, ovf := 0, nans := 0, result := [], carried := 0 }

/-- Closes the record of a request with its outcome (R240). -/
def closeRecord (n : Node) (p : Packet) (status landed ovf nans : Nat) (result : Bytes) : Node :=
  setRecord n p { opcode := p.opcode.toNat, status := some status, landed := landed, ovf := ovf, nans := nans,
                  result := result, carried := 0 }

/-- The form of an answer to a request that has ended: DAT with the prior value for an ATOMIC done, RSP with VALUE for a
WAIT, RSP with LANDED and counts for a store (R157, R230, R238). -/
def answerEnded (n : Node) (p : Packet) (status landed ovf nans : Nat) (result : Bytes) : Node :=
  let o := p.opcode.toNat
  if o = 3 && status = stOK then respond n p 3 status 0 (countsWord ovf nans) result
  else if o = 7 then respond n p 2 status 0 (leNat result) []
  else if o = 5 || o = 6 then respond n p 2 status landed (countsWord ovf nans) []
  else if o = 2 then respond n p 2 status landed 0 []
  else respond n p 2 status 0 0 []

/-! ### Counters (R152–R156) -/

/-- A counter; free and 0 until set. -/
def counterOf (n : Node) (c : Nat) : Counter :=
  Tbl.getD n.ctr.tab c { value := 0, err := false, bytes := false, owner := 0, trig := none }

/-- The node with a counter replaced. -/
def setCounter (n : Node) (c : Nat) (x : Counter) : Node := { n with ctr := { n.ctr with tab := Tbl.put n.ctr.tab c x } }

/-- The tile that serves a counter (R152). -/
def counterTile (n : Node) (c : Nat) : Nat := slotTile n (c % 64 / 8) (c % 8)

/-- VALUE's maximum. -/
def counterMax : Nat := 2 ^ 64 - 1

/-- The 32 bytes of a completion or notification record (R54, R165). -/
def recordBytes (status opcode ctx tag slot : Nat) (admin : Bool) (mapgen : Nat) (result0 word3 : Word) : Bytes :=
  wordsToBytes
    [wordOf (status + opcode * 2 ^ 8 + ctx * 2 ^ 16 + tag * 2 ^ 32),
     wordOf (slot + bit01 admin * 2 ^ 16 + 2 ^ 31 + mapgen * 2 ^ 32), result0, word3]

/-- A record's CMP write (R54). -/
def cmpPacket (n : Node) (node addr ctx : Nat) (bs : Bytes) : Packet :=
  { withPayload (blankPacket node n.nodeId 4 0x70) bs with ctx := BitVec.ofNat 16 ctx, pva := wordOf addr }

/-- Writes a notification record (R165). -/
def notifyRecord (n : Node) (c : Nat) (x : Counter) (t : Trigger) (status : Nat) : Node :=
  sendPacket n (cmpPacket n t.node t.addr x.owner
    (recordBytes status 0x41 x.owner t.tag c false (curGen n x.owner) (wordOf x.value) (wordOf t.fired))) .protocol

/-- The tile that serves a counter drops its NC operand copies of a WAIT's context, and the WAIT is answered
(R157, R159). -/
def answerWait (n : Node) (p : Packet) (status value : Nat) : Node :=
  let n := if status = stOK then dropNc n (counterTile n p.aux.toNat) p.ctx.toNat else n
  let n := closeRecord n p status 0 0 0 (leBytes 8 value)
  answerEnded n p status 0 0 0 (leBytes 8 value)

/-- Re-evaluates a counter's parked waits (R153, R156, R157). -/
def wakeWaits (n : Node) (c : Nat) : Node :=
  let x := counterOf n c
  let due := n.ctr.waits.filter fun w => w.counter == c && (x.err || decide (w.target ≤ x.value))
  let n := { n with ctr := { n.ctr with waits := n.ctr.waits.filter fun w => !due.contains w } }
  due.foldl (fun n w => answerWait n w.pkt (if x.err then stAborted else stOK) x.value) n

/-- A PROGRAM trigger of a counter is abandoned: ABORTED goes to its descriptor's CMP_NODE, where the descriptor can be
read (R167). A fired run holds no ring slot: its RING_SLOT is a free value. -/
def abandonProgram (n : Node) (x : Counter) (t : Trigger) : Node :=
  match rangeOf n x.owner t.runPva with
  | none => n
  | some r =>
    let line := lineAt r t.runPva
    if !r.r || r.mirrorRole || !lineValid n line || isPoisoned n line then n
    else
      let ws := bytesToWords 8 (lineData n line)
      let node := fieldOf (wordAt ws 1) 15 0
      if node = 0 || decide (0xFFF0 ≤ node) || fieldOf (wordAt ws 1) 20 16 ≠ 0 then n
      else
        let slot := (Config.freeWord n.free).toNat % 65536
        let bs := recordBytes stAborted 0x39 x.owner (fieldOf (wordAt ws 0) 63 32) slot false (curGen n x.owner) 0 0
        sendPacket (stepFree n) (cmpPacket n node (fieldOf (wordAt ws 1) 63 16) x.owner bs) .protocol

/-- ERR becomes set: parked waits are answered ABORTED, and an armed trigger is abandoned and disarmed (R156, R167). -/
def setErr (n : Node) (c : Nat) : Node :=
  let x := counterOf n c
  let n := setCounter n c { x with err := true, trig := none }
  let n := match x.trig with
    | none => n
    | some t => if t.program then abandonProgram n x t else notifyRecord n c { x with err := true } t stAborted
  wakeWaits n c

/-- One evaluation of a counter's trigger: it fires when VALUE is at or above THRESHOLD and ERR is clear (R164). A
PROGRAM firing joins the firings that wait to run; `epoch` is what R281 gives it. -/
def evalTrigger (n : Node) (c : Nat) (epoch : Option Nat) : Node :=
  let x := counterOf n c
  match x.trig with
  | none => n
  | some t =>
    if x.err || decide (x.value < t.threshold) then n
    else
      let fired := t.fired + 1
      let next := t.threshold + t.step
      let trig := if t.rearm && decide (next ≤ counterMax) then some { t with threshold := next, fired := fired } else none
      let n := setCounter n c { x with trig := trig }
      if t.program then
        let f : Firing :=
          { counter := c, arming := t.arming, ctx := x.owner, runPva := t.runPva, n := fired, epoch := epoch,
            waited := false }
        { n with prog := { n.prog with firings := n.prog.firings ++ [f] } }
      else notifyRecord n c x { t with fired := fired } stOK

/-- Re-evaluates a counter after any change of VALUE (R153, R164). -/
def evalCounter (n : Node) (c : Nat) (epoch : Option Nat) : Node := evalTrigger (wakeWaits n c) c epoch

/-- Increments a counter by 1 in PACKETS mode and by `bytes` in BYTES mode; past the maximum, VALUE stays there and ERR
is set (R153, R155). -/
def increment (n : Node) (c bytes : Nat) (epoch : Option Nat) : Node :=
  let x := counterOf n c
  let v := x.value + if x.bytes then bytes else 1
  if counterMax < v then setErr (setCounter n c { x with value := counterMax }) c
  else evalCounter (setCounter n c { x with value := v }) c epoch

end Sys2Proof.Machine
end

