-- ==== Sys2Proof/Machine/Engine.lean ====
section
/-! DEFINITION. How the module's own engines read and write the home space (R139, R188, R208): every line is made ready
first, and one step then reads or commits it. -/

namespace Sys2Proof.Machine

/-- The worse of two answers: an empty key slot, then waiting, then ready. -/
def worseFetch : Fetch → Fetch → Fetch
  | .noKey, _ => .noKey
  | _, .noKey => .noKey
  | .waits, _ => .waits
  | _, .waits => .waits
  | .ready, .ready => .ready

/-- Makes one line of a context ready for an engine. A line that no range of the context covers is never ready. -/
def engineLine (n : Node) (ctx pva : Nat) (want : Want) : Node × Fetch :=
  match rangeFor n ctx pva with
  | none => (n, .waits)
  | some r => prepLine n ctx r pva (lineAt r pva) want

/-- Makes a span ready for an engine's read. -/
def engineReadPrep (n : Node) (ctx pva len : Nat) : Node × Fetch :=
  (lineParts pva len).foldl (fun (a : Node × Fetch) q =>
    let f := engineLine a.1 ctx q.1 .read
    (f.1, worseFetch a.2 f.2)) (n, .ready)

/-- The bytes of a span, from the slices. -/
def spanBytes (n : Node) (ctx pva len : Nat) : Bytes :=
  (lineParts pva len).flatMap fun q =>
    match rangeFor n ctx q.1 with
    | none => List.replicate q.2 0
    | some r => ((lineData n (lineAt r q.1)).drop (q.1 % 64)).take q.2

/-- A line of a span is poisoned. -/
def spanPoisoned (n : Node) (ctx pva len : Nat) : Bool :=
  (lineParts pva len).any fun q =>
    match rangeFor n ctx q.1 with
    | none => false
    | some r => isPoisoned n (lineAt r q.1)

/-- Makes a span ready for an engine's stores. -/
def engineStorePrep (n : Node) (ctx pva len : Nat) (o : Origin) : Node × Fetch :=
  (lineParts pva len).foldl (fun (a : Node × Fetch) q =>
    match rangeFor a.1 ctx q.1 with
    | none => (a.1, worseFetch a.2 .waits)
    | some r =>
      let line := lineAt r q.1
      let f := prepLine a.1 ctx r q.1 line (.store (q.2 == 64))
      if f.2 != .ready then (f.1, worseFetch a.2 f.2)
      else
        let s := prepSplit f.1 ctx r line o
        (s.1, worseFetch a.2 s.2)) (n, .ready)

/-- Commits an engine's bytes over a span made ready: line by line, ascending, each line whole to the mirror. A whole line
clears poison. Answers the forwards sent. -/
def engineCommit (n : Node) (ctx pva : Nat) (o : Origin) (why : SentFor) (i : FwdInfo) (bs : Bytes) :
    Node × List (Nat × Nat) :=
  (lineParts pva bs.length).foldl (fun (a : Node × List (Nat × Nat)) q =>
    match rangeFor a.1 ctx q.1 with
    | none => a
    | some r =>
      let line := lineAt r q.1
      let piece := (bs.drop (q.1 - pva)).take q.2
      let n := if q.2 = 64 then clearPoison a.1 line else a.1
      let v := applyToVersions n ctx r line o true fun old => overlayAt old (q.1 % 64) piece
      v.2.foldl (fun (a : Node × List (Nat × Nat)) vsel =>
        let f := forwardLines a.1 ctx r line 1 vsel i why
        (f.1, a.2 ++ f.2)) (v.1, a.2)) (n, [])

/-- A span lies in ROLE 0 ranges of a context on this module that all grant a right. -/
def spanGranted (n : Node) (ctx pva len : Nat) (right : Range → Bool) : Bool :=
  (granulesOf pva len).all fun g => ((rangeOf n ctx g).map fun r => !r.mirrorRole && !r.departed && right r).getD false

/-- Every granule of a span lies in a ROLE 0 range of the context on this module (R262). -/
def spanHomed (n : Node) (ctx pva len : Nat) : Bool := spanGranted n ctx pva len fun _ => true

/-- A granule of a span lies in a revoked extent of the context (R434). -/
def spanRevoked (n : Node) (ctx pva len : Nat) : Bool :=
  n.ctxs.revs.any fun v => v.ctx == ctx && decide (v.start < pva + len ∧ pva < v.start + v.gran * 65536)

end Sys2Proof.Machine
end

