-- ==== Sys2Proof/Machine/Commands.lean ====
section
/-! DEFINITION. What every command of a ring has in common: its descriptor's header, the checks of R52 and R53, when it
may start, and how it ends (R48–R55). -/

namespace Sys2Proof.Machine

/-! ### The descriptor (R52) -/

/-- A consumed command. -/
def cmdOf (n : Node) (tid : Nat) : Option Cmd := Tbl.find? n.trk.cmds tid

/-- The node with a command's state replaced. -/
def setCmd (n : Node) (tid : Nat) (c : Cmd) : Node := { n with trk := { n.trk with cmds := Tbl.put n.trk.cmds tid c } }

/-- A word of the descriptor. -/
def dword (c : Cmd) (i : Nat) : Word := wordAt c.desc i
/-- OPCODE. -/
def cmdOp (c : Cmd) : Nat := fieldOf (dword c 0) 7 0
/-- CTX. -/
def cmdCtx (c : Cmd) : Nat := fieldOf (dword c 0) 31 16
/-- TAG. -/
def cmdTag (c : Cmd) : Nat := fieldOf (dword c 0) 63 32
/-- CMP_NODE. -/
def cmpNode (c : Cmd) : Nat := fieldOf (dword c 1) 15 0
/-- CMP_ADDR. -/
def cmpAddr (c : Cmd) : Nat := fieldOf (dword c 1) 63 16
/-- CNT_INDEX. -/
def cntIndex (c : Cmd) : Nat := fieldOf (dword c 2) 15 0
/-- CNT_NODE. -/
def cntNode (c : Cmd) : Nat := fieldOf (dword c 2) 31 16
/-- CNT_EN. -/
def cntEn (c : Cmd) : Bool := bitOf (dword c 2) 32

/-- A group address (R413). -/
def isGroup (node : Nat) : Bool := decide (0xFFF0 ≤ node)

/-- No record can be written for the descriptor: CMP_NODE is a group, or CMP_ADDR is misaligned (R52). -/
def recordBad (c : Cmd) : Bool := isGroup (cmpNode c) || fieldOf (dword c 1) 20 16 != 0

/-- CNT_EN names no module (R52). -/
def countBad (c : Cmd) : Bool := cntEn c && (cntNode c == 0 || isGroup (cntNode c))

/-- The common header breaks R52. -/
def headerBad (c : Cmd) : Bool :=
  fieldOf (dword c 0) 15 10 != 0 || fieldOf (dword c 2) 63 33 != 0 || recordBad c || countBad c

/-- The command families that only the admin ring takes (R53). -/
def adminOnly (op : Nat) : Bool := [0x10, 0x11, 0x12, 0x13, 0x18, 0x28, 0x29].contains op

/-- The ring rules of R53 refuse the command; a fired run is held to its counter's owner (R280). -/
def ringDenied (c : Cmd) : Bool := c.ring != 0 && (adminOnly (cmdOp c) || cmdCtx c != c.ring)

/-- The command names a counter of this module that another context owns (R154). -/
def countDenied (n : Node) (c : Cmd) : Bool :=
  cntEn c && isOwn n (cntNode c) && (counterOf n (cntIndex c)).owner != cmdCtx c

/-- A field holds a value that does not fit a PVA (R61). -/
def pvaBad (w : Word) : Bool := fieldOf w 63 57 != 0

/-! ### Starting (R51, R52) -/

/-- The command has completed: its completion has been issued (R55). -/
def cmdCompleted (c : Cmd) : Bool := c.phase == .recordSent || c.phase == .countDue || c.phase == .countSent

/-- Earlier commands of the same ring. -/
def earlierCmds (n : Node) (c : Cmd) : List (Nat × Cmd) :=
  n.trk.cmds.filter fun e => e.2.ring == c.ring && !e.2.fired && decide (e.2.order < c.order)

/-- A consumed command may start: with FENCE, every earlier command of its ring has completed; a fired run ignores
FENCE (R52, R280). -/
def mayStart (n : Node) (c : Cmd) : Bool :=
  c.phase == .consumed && (c.fired || !bitOf (dword c 0) 9 || (earlierCmds n c).all fun e => cmdCompleted e.2)

/-- Runs a command's row: the command is there, has this OPCODE, and may start. -/
def startCmd (n : Node) (tid op : Nat) (f : Cmd → Node) : Node :=
  match cmdOf n tid with
  | none => n
  | some c => if cmdOp c == op && mayStart n c && accepting n then f c else n

/-- Continues a command that has started. -/
def resumeCmd (n : Node) (tid op : Nat) (f : Cmd → Node) : Node :=
  match cmdOf n tid with
  | none => n
  | some c => if cmdOp c == op && c.phase == .running && accepting n then f c else n

/-! ### Ending (R54, R55, R58) -/

/-- A command ends: its status, RESULT0 and word 3 stand, and its completion is due. -/
def endCmd (n : Node) (tid status : Nat) (r0 w3 : Word) : Node :=
  match cmdOf n tid with
  | none => n
  | some c => setCmd n tid { c with phase := .ended, status := status, result0 := r0, word3 := w3 }

/-- A command is refused, with no effect. -/
def refuseCmd (n : Node) (tid status : Nat) : Node := endCmd n tid status 0 0

/-- A command goes on running at a stage. -/
def runStage (n : Node) (tid stage : Nat) (work : List Nat) : Node :=
  match cmdOf n tid with
  | none => n
  | some c => setCmd n tid { c with phase := .running, stage := stage, work := work }

/-- Runs `f` unless one of the checks refuses the command, in their order; the header and the ring rules come into it
as R59 ranks them. -/
def checked (n : Node) (tid : Nat) (c : Cmd) (invalid : Bool) (later : List (Bool × Nat)) (f : Unit → Node) : Node :=
  match firstStatus ([(headerBad c || invalid, stInvalid), (ringDenied c || countDenied n c, stDenied)] ++ later) with
  | some st => refuseCmd n tid st
  | none => f ()

end Sys2Proof.Machine
end

