-- ==== Sys2Proof/Machine/Cohorts.lean ====
section
/-! DEFINITION. What the parts of a cohort do of themselves: the cohort record, the commands that wait on it, and drained
chunks becoming visible (R384, R386, R392–R395). -/

namespace Sys2Proof.Machine

/-! ### The cohort record (R384) -/

/-- A part writes a record: a primary part that a Leap does not carry without one (R384, R426). -/
def writesRecord (p : Part) : Bool := !p.mirror && !p.carried

/-- Chunks of a part with an image copy. -/
def splitCount (n : Node) (k : Nat) : Nat := (n.mem.cow.filter fun c => c.2.part == k && !c.2.restored).length

/-- A chunk of a part whose span has a drain target, and the PVA it drains to (R392). -/
def drainTo (p : Part) (c : Nat × Nat × Nat) : Option Nat :=
  match p.spans[c.2.2]? with
  | some s => if s.drain = 0 then none else some (s.drain + (c.2.1 - s.start))
  | none => none

/-- Chunks of a part that are to be drained. -/
def drainChunks (p : Part) : List Nat := (p.chunks.filter fun c => (drainTo p c).isSome).map Prod.fst

/-- Listed sources neither announced nor pruned. -/
def awaitCount (p : Part) : Nat := (p.srcs.filter fun s => s.cut.isNone && !s.pruned).length

/-- The 64 bytes of a part's record under a new RGEN. -/
def cohortRecord (n : Node) (k : Nat) (p : Part) (rgen : Nat) : Bytes :=
  let w0 := p.cohort + p.state * 2 ^ 16 + (if p.state = 4 then p.status else stOK) * 2 ^ 24 + p.epoch * 2 ^ 32
  let w1 := min p.chunks.length (2 ^ 32 - 1) + min (splitCount n k) (2 ^ 32 - 1) * 2 ^ 32
  let w2 := p.drained.length + (drainChunks p).length * 2 ^ 32
  let body := leBytes 8 w0 ++ leBytes 8 w1 ++ leBytes 8 w2 ++ leBytes 8 (awaitCount p) ++ leBytes 24 0 ++ leBytes 4 rgen
  body ++ leBytes 4 (crc32c body)

/-- A part has forwards or NVMe Writes of its record outstanding: it is not visible at both homes yet. -/
def recordOut (n : Node) (p : Part) : Bool :=
  !p.recFwds.isEmpty ||
    (match rangeFor n p.ctx p.crec with
     | some r => directPending n (blkOf (lineAt r p.crec))
     | none => false)

/-- The part's OPEN has stored to a mirrored range (R414). -/
def markOpener (n : Node) (p : Part) (sent : Bool) : Node :=
  match p.opener with
  | some tid =>
    if sent then { n with trk := { n.trk with cmds := Tbl.upd n.trk.cmds tid fun c => { c with mirrored := true } } } else n
  | none => n

/-- Sends a record to the nodes that follow it besides its own mirror (R426). -/
def followRecords (n : Node) (k : Nat) (p : Part) (bs : Bytes) : Node × List (Nat × Nat) :=
  (p.followers.filter fun x => !isLost n x).foldl (fun (a : Node × List (Nat × Nat)) x =>
    let seq := nextSeq a.1 a.1.nodeId x 0
    (sendPacket a.1 (forwardPacket a.1 x p.ctx p.crec 0 (ownInfo a.1 p.ctx) bs) (.partRecord k), a.2 ++ [(x, seq)])) (n, [])

/-- Writes a part's record as one line, when its line can be stored to now (R384). -/
def writeRecord (n : Node) (k : Nat) : Node :=
  match Tbl.find? n.sol.parts k with
  | none => n
  | some p =>
    if !writesRecord p then setPart n k { p with recordDue := false, recordStale := false }
    else
      let f := engineStorePrep n p.ctx p.crec 64 .own
      if f.2 != .ready then f.1
      else
        match Tbl.find? f.1.sol.parts k with
        | none => f.1
        | some p =>
          let rgen := (p.rgen + 1) % 2 ^ 32
          let c := engineCommit f.1 p.ctx p.crec .own (.partRecord k) (ownInfo f.1 p.ctx) (cohortRecord f.1 k p rgen)
          let d := followRecords c.1 k p (cohortRecord f.1 k p rgen)
          let sent := c.2 ++ d.2
          markOpener (setPart d.1 k { p with
            rgen := rgen, recordDue := false, recordStale := false, recFwds := p.recFwds ++ sent }) p (!sent.isEmpty)

/-- Writes the records whose STATE has changed. -/
def writeDueRecords (n : Node) : Node :=
  ((n.sol.parts.filter fun p => p.2.recordDue).map Prod.fst).foldl writeRecord n

/-! ### Commands that wait (R386, R393) -/

/-- An OPEN completes once its record is visible at both homes (R386). -/
def finishOpens (n : Node) : Node :=
  n.sol.parts.foldl (fun n e =>
    match e.2.opener with
    | some tid =>
      if e.2.recordDue || recordOut n e.2 then n
      else endCmd (setPart n e.1 { e.2 with opener := none }) tid stOK 0 0
    | none => n) n

/-- The parts of a cohort of a context on this module, carried ones among them (R426). -/
def partsOf (n : Node) (ctx cohort : Nat) : Tbl Part := n.sol.parts.filter fun e => e.2.ctx == ctx && e.2.cohort == cohort

/-- COHORT of SEAL_QUERY, RESTORE and DROP. -/
def cohortWord (c : Cmd) : Nat := fieldOf (dword c 3) 15 0

/-- The rank of a STATE: FAILED ranks lowest (R393). -/
def stateRank (s : Nat) : Nat := if s = 4 then 0 else s

/-- The sum of a count over some parts, saturating. -/
def sumOver (ps : Tbl Part) (f : Nat → Part → Nat) (top : Nat) : Nat := min ((ps.map fun e => f e.1 e.2).foldl (· + ·) 0) top

/-- The least advanced STATE of some parts (R393). -/
def leastState (ps : Tbl Part) : Nat :=
  (ps.foldl (fun (best : Option Nat) e =>
    match best with
    | none => some e.2.state
    | some b => if stateRank e.2.state < stateRank b then some e.2.state else some b) none).getD 0

/-- Ends a SEAL_QUERY with what it reports (R393). The field for the number of parts has no room for 256: what it
then holds is a free value. -/
def answerQuery (n : Node) (tid : Nat) (ps : Tbl Part) : Node :=
  let st := ((ps.find? fun e => e.2.state == 4).map fun e => e.2.status).getD stOK
  let count := if ps.length < 256 then ps.length else (Config.freeWord n.free).toNat % 256
  let r0 := leastState ps + count * 2 ^ 8 + sumOver ps (fun _ p => awaitCount p) 0xFFFF * 2 ^ 16 +
    sumOver ps (fun k _ => splitCount n k) (2 ^ 32 - 1) * 2 ^ 32
  let w3 := sumOver ps (fun _ p => p.drained.length) (2 ^ 32 - 1) +
    sumOver ps (fun _ p => (drainChunks p).length) (2 ^ 32 - 1) * 2 ^ 32
  endCmd n tid st (wordOf r0) (wordOf w3)

/-- SEAL_QUERY commands that wait end when no part of their cohort is left OPEN, or when the parts are gone. -/
def finishQueries (n : Node) : Node :=
  (n.trk.cmds.filter fun e => e.2.phase == .running && cmdOp e.2 == 0x22).foldl (fun n e =>
    let ps := partsOf n (cmdCtx e.2) (cohortWord e.2)
    if ps.isEmpty then endCmd n e.1 stAborted 0 0
    else if ps.any fun p => p.2.state == 1 then n
    else answerQuery n e.1 ps) n

/-! ### Drained chunks (R392) -/

/-- Something sent for a purpose is not answered. -/
def awaits (n : Node) (why : SentFor) : Bool :=
  (n.prs.pairs.any fun q => q.2.sent.any fun u => decide (u.purpose = why)) ||
    (match why with
     | .cmdForward tid => n.coh.mdirty.any fun m => m.2.cmds.contains tid
     | _ => false)

/-- A drained chunk is visible at both homes of its target. -/
def drainVisible (n : Node) (k : Nat) (p : Part) (chunk : Nat) : Bool :=
  match (p.chunks.find? fun c => c.1 == chunk).bind (drainTo p) with
  | none => true
  | some pva =>
    !awaits n (.drain k chunk) &&
      (match rangeFor n p.ctx pva with
       | some r => (List.range 16).all fun i => !directPending n (blkOf (lineAt r pva) + i)
       | none => true)

/-- Chunks whose drain has become visible count as drained; with the last one the part is DRAINED. -/
def finishDrains (n : Node) : Node :=
  (n.sol.parts.filter fun e => !e.2.draining.isEmpty).foldl (fun n e =>
    let p := e.2
    let seen := p.draining.filter fun c => drainVisible n e.1 p c
    if seen.isEmpty then n
    else
      let p := { p with draining := p.draining.filter fun c => !seen.contains c, drained := p.drained ++ seen, recordStale := true }
      let all := p.state == 2 && (drainChunks p).all fun c => p.drained.contains c
      setPart n e.1 (if all then { p with state := 3, recordDue := true } else p)) n

/-! ### RESTORE and DROP (R394, R395) -/

/-- A command's own stores, at some lines of its context, are visible at both homes. -/
def cmdStored (n : Node) (tid ctx : Nat) (pvas : List Nat) : Bool :=
  !awaits n (.cmdForward tid) && pvas.all fun pva =>
    match rangeFor n ctx pva with
    | some r => !directPending n (blkOf (lineAt r pva))
    | none => true

/-- A RESTORE that has switched ends when the records of its parts are visible: the parts are freed (R394 step 5). A DROP
ends when its zeroed records are (R395). -/
def finishRestores (n : Node) : Node :=
  (n.trk.cmds.filter fun e => e.2.phase == .running && ((cmdOp e.2 == 0x23 && e.2.stage == 3) || cmdOp e.2 == 0x24)).foldl (fun n e =>
    if cmdOp e.2 = 0x24 then (if cmdStored n e.1 (cmdCtx e.2) e.2.work then endCmd n e.1 stOK 0 0 else n)
    else
      let ps := n.sol.parts.filter fun p => decide (p.2.restoring = some e.1)
      if ps.any fun p => p.2.recordDue || recordOut n p.2 then n
      else
        endCmd { n with sol := { n.sol with parts := n.sol.parts.filter fun p => !decide (p.2.restoring = some e.1) } }
          e.1 stOK 0 0) n

/-- Everything that parts do of themselves. -/
def settleParts (n : Node) : Node :=
  finishRestores (finishQueries (finishOpens (writeDueRecords (finishDrains n))))

end Sys2Proof.Machine
end

