-- ==== Sys2Proof/Machine/MirrorDirty.lean ====
section
/-! DEFINITION. Mirror-dirty lines: how a line whose forward is outstanding, or whose forward state was lost, becomes clean
again (R191, R396, R397, R476). -/

namespace Sys2Proof.Machine

/-- Sends WB_ACK to the sender of a WB_EVICT with this SEQ and TAG, unless it has been lost (R211). -/
def sendWbAck (n : Node) (node seq tag ctx pva status : Nat) : Node :=
  if isLost n node then n
  else
    let p := blankPacket node n.nodeId 2 0x69
    sendPacket n { p with
      ctx := BitVec.ofNat 16 ctx, pva := wordOf pva, tag := BitVec.ofNat 32 tag, mapgen := BitVec.ofNat 32 (curGen n ctx),
      status := BitVec.ofNat 8 status, op5 := wordOf seq } .none

/-- A mark that clears: every forward of the line is answered and no resync is due. -/
def markClears (m : MdLine) : Bool := m.fwds.isEmpty && !m.resync

/-- A mark clears: a WB_EVICT that waited gets its WB_ACK, and the mirror's resync READs are answered. -/
def clearMark (n : Node) (line : Nat) (m : MdLine) : Node :=
  let n := { n with coh := { n.coh with mdirty := Tbl.del n.coh.mdirty line } }
  let n := match m.evict with
    | some (node, seq, tag) => sendWbAck n node seq tag m.ctx m.pva stOK
    | none => n
  m.askers.foldl (fun n p => sendRsp n p stOK 0) n

/-- Marks that can clear do. -/
def clearMarks (n : Node) : Node :=
  (n.coh.mdirty.filter fun e => markClears e.2).foldl (fun n e => clearMark n e.1 e.2) n

/-- The primary resyncs a mirror-dirty line: its whole live value goes to the mirror, and the image copy's line of a SPLIT
chunk too (R397). While the line is on its way into its slice, the resync stays due. -/
def resyncLine (n : Node) (line : Nat) : Node :=
  match Tbl.find? n.coh.mdirty line, spanOf n line with
  | some m, some (ctx, r) =>
    if !m.resync || isPending n line then n
    else
      let f := fetchLine n ctx r line false
      if f.2 != .ready then f.1
      else
        let i := { ownInfo f.1 ctx with poison := isPoisoned f.1 line }
        let live := forwardLines f.1 ctx r line 1 3 i (.lineForward line)
        let all := match imageOf live.1 (chunkOf line) with
          | some _ =>
            let im := forwardLines live.1 ctx r line 1 1 (ownInfo live.1 ctx) (.lineForward line)
            (im.1, live.2 ++ im.2)
          | none => live
        { all.1 with coh := { all.1.coh with mdirty := Tbl.put all.1.coh.mdirty line { m with resync := false, fwds := m.fwds ++ all.2 } } }
  | _, _ => n

end Sys2Proof.Machine
end

