-- ==== Sys2Proof/Machine/Link.lean ====
section
/-! DEFINITION. Commands of the Ohmas link: frames, control flits, widths, bring-up, laser sources, and the exchanges of
sequence state (R97–R138). -/

namespace Sys2Proof.Machine

/-- A command on the data plane. -/
def onNode (s : State) (f : Node → Node) : State := { s with nd := f s.nd }

/-! ### Widths and degrade (R107–R109) -/

/-- The switch count that the module announces with a new mask: any of 2–15 is allowed (R108). -/
def switchCount : Nat := 2

/-- A transmit width change (R108 step 3): LANE_STATE with the new mask; below two groups the port goes down. -/
def changeTxWidth (n : Node) (i mask : Nat) : Node :=
  if portState (portAt n i) != 2 then n
  else if groupCount mask < 2 then portDown n i
  else
    let o := portAt n i
    sendCtrl (setPort n i { o with txSwitch := some (mask, switchCount) }) i (laneStateFlit mask switchCount)

/-- A receive width change asked of the sender (R108 step 2): LANE_STATE naming the mask, with no switch count. -/
def askRxWidth (n : Node) (i mask : Nat) : Node :=
  if portState (portAt n i) != 2 then n
  else if groupCount mask < 2 then portDown n i
  else sendCtrl n i (laneStateFlit mask 0)

/-- A group is marked failed in a direction; one that fails again within 2^30 core cycles of its return stays out until
the next start (R108, R109). -/
def failGroup (n : Node) (i : Nat) (tx : Bool) (g : Nat) (soon : Bool) : Node :=
  let o := portAt n i
  let b := 2 ^ g
  let out := soon && natField o.returned (g + (if tx then 0 else 4)) (g + (if tx then 0 else 4)) == 1
  let o := if tx then { o with txFailed := o.txFailed ||| b, txOut := if out then o.txOut ||| b else o.txOut }
           else { o with rxFailed := o.rxFailed ||| b, rxOut := if out then o.rxOut ||| b else o.rxOut }
  let n := setPort n i o
  let use_ := if tx then txGroups o else rxGroups o
  if natField use_ g g = 0 then n
  else if tx then changeTxWidth n i (use_ ^^^ b) else askRxWidth n i (use_ ^^^ b)

/-- The width of a direction becomes that of a new mask (R108 step 4). -/
def applyWidth (n : Node) (i : Nat) (tx : Bool) (mask : Nat) : Node :=
  let o := portAt n i
  let old := if tx then txGroups o else rxGroups o
  let fewer := decide (groupCount mask < groupCount old)
  let o := if tx then { setTxGroups o mask with txSwitch := none } else { setRxGroups o mask with rxSwitch := none }
  let o := if fewer then { o with status := putField o.status 32 32 1 } else o
  let k := (if tx then 35 else 37) + (if fewer then 0 else 1)
  let n := bump (setPort n i o) (portCounter i k) 1
  if groupCount mask < 2 then portDown n i else n

/-- The switch count of a direction elapses. -/
def widthSwitch (i : Nat) (tx : Bool) (n : Node) : Node :=
  let o := portAt n i
  match (if tx then o.txSwitch else o.rxSwitch) with
  | none => n
  | some (mask, _) => if portState o = 2 then applyWidth n i tx mask else n

/-- Meaning of WIDTH_SWITCH. -/
def execWidthSwitch (port : PortId) (tx : Bool) (s : State) : Host.Outcome State Fault Refusal :=
  .next (onNode s (widthSwitch port.val tx))

/-- Halord revisits a ring (R100): a ring it cannot hold marks its wavelength, and so its group, failed. -/
def ringRevisit (i : Nat) (tx : Bool) (w : Nat) (held soon : Bool) (n : Node) : Node :=
  let o := portAt n i
  let set := fun (m : Nat) => if held then m ||| 2 ^ w else if natField m w w = 1 then m - 2 ^ w else m
  let n := setPort n i (if tx then { o with txLocked := set o.txLocked } else { o with rxLocked := set o.rxLocked })
  if held then n
  else
    let n := logEvent n { otherEvent 2 4 with uclass := 1, unit_ := i, data0 := w }
    failGroup n i tx (w / 4) soon

/-- Meaning of RING_LOCK_REVISIT. -/
def execRingLockRevisit (port : PortId) (tx : Bool) (w : Fin 16) (held soon : Bool) (s : State) :
    Host.Outcome State Fault Refusal := .next (onNode s (ringRevisit port.val tx w.val held soon))

/-- Corrected symbols of a group in a window of 2^24 core cycles: counted, and above DEGRADE_SYM the group is marked
failed in the receive direction (R108). -/
def degradeWindow (i g : Nat) (symbols : List Nat) (soon : Bool) (n : Node) : Node :=
  let n := (List.range 4).foldl (fun n k => bump n (portCounter i (4 * g + k)) (symbols.getD k 0)) n
  let total := (symbols.take 4).foldl (· + ·) 0
  if cfgNum n 0x0107 < total then
    let n := logEvent n { otherEvent 2 5 with uclass := 1, unit_ := i, data0 := g, data1 := total }
    failGroup n i false g soon
  else n

/-- Meaning of DEGRADE_SYMBOL_WINDOW. -/
def execDegradeSymbolWindow (port : PortId) (g : Fin 4) (symbols : List Nat) (soon : Bool) (s : State) :
    Host.Outcome State Fault Refusal := .next (onNode s (degradeWindow port.val g.val symbols soon))

/-- A failed group returns to service, when its rings are locked, it is not out until the next start, OPORT_CFG lets
it, and it did not return within 2^30 core cycles (R109). -/
def returnGroup (i : Nat) (tx : Bool) (g : Nat) (soon : Bool) (n : Node) : Node :=
  let o := portAt n i
  let b := 2 ^ g
  let rb := g + (if tx then 0 else 4)
  let out := natField (if tx then o.txOut else o.rxOut) g g = 1
  let locked := natField (lockedGroups (if tx then o.txLocked else o.rxLocked)) g g = 1
  let use_ := if tx then txGroups o else rxGroups o
  let new := allowedGroups o (use_ ||| b)
  if portState o != 2 || out || !locked || natField use_ g g = 1 || natField new g g = 0 ||
      (soon && natField o.returned rb rb == 1) then n
  else
    let ret := if natField o.returned rb rb = 1 then o.returned else o.returned + 2 ^ rb
    let o := if tx then { o with returned := ret, txFailed := o.txFailed &&& (15 - b) }
             else { o with returned := ret, rxFailed := o.rxFailed &&& (15 - b) }
    let n := setPort n i o
    if tx then changeTxWidth n i new else askRxWidth n i new

/-- Meaning of GROUP_RETURN. -/
def execGroupReturn (port : PortId) (tx : Bool) (g : Fin 4) (soon : Bool) (s : State) :
    Host.Outcome State Fault Refusal := .next (onNode s (returnGroup port.val tx g.val soon))

/-! ### Bring-up (R110, R137) -/

/-- The LANE_STATE exchange is over: HELLO is sent (R110 steps 4 and 5). -/
def lanesAgreed (n : Node) (i mask : Nat) : Node :=
  let o := portAt n i
  let rx := mask &&& rxGroups o
  if groupCount rx < 2 then failBringup n i 4
  else sendHello (setPort n i { setRxGroups o rx with rxSwitch := none }) i

/-- Codewords are aligned on the groups found (R110 step 3): below two groups in a direction bring-up fails, else the
masks are sent and the peer's awaited. -/
def codewordLock (i tx rx : Nat) (n : Node) : Node :=
  let o := portAt n i
  if o.bringup != 3 then n
  else
    let txm := allowedGroups o (lockedGroups o.txLocked &&& tx)
    let rxm := allowedGroups o (lockedGroups o.rxLocked &&& rx)
    if groupCount txm < 2 || groupCount rxm < 2 then failBringup n i 3
    else
      let peer := o.rxSwitch
      let o := { setRxGroups (setTxGroups o txm) rxm with bringup := 4 }
      let n := emit (setPort n i o) (.ctrl i (laneStateFlit txm 0))
      match peer with
      | none => n
      | some (mask, _) => lanesAgreed n i mask

/-- Meaning of CODEWORD_LOCK. -/
def execCodewordLock (port : PortId) (tx rx : BitVec 4) (s : State) : Host.Outcome State Fault Refusal :=
  .next (onNode s (codewordLock port.val tx.toNat rx.toNat))

/-- A LANE_STATE flit (R108, R110). During bring-up it carries the peer's transmit mask; on an up port, a switch count of
2–15 announces the peer's new transmit mask, and none asks the module to reduce or restore its own. -/
def laneState (i : Nat) (flit : Bytes) (n : Node) : Node :=
  let o := portAt n i
  let mask := numAt flit 8 1 % 16
  let count := numAt flit 9 1
  if o.bringup = 4 then lanesAgreed n i mask
  else if o.bringup = 3 then setPort n i { o with rxSwitch := some (mask, 0) }
  else if portState o != 2 then n
  else if count = 0 then changeTxWidth n i (allowedGroups o (mask &&& lockedGroups o.txLocked))
  else setPort n i { o with rxSwitch := some (mask, count) }

/-- Meaning of LANE_STATE. -/
def execLaneState (port : PortId) (flit : Bytes) (s : State) : Host.Outcome State Fault Refusal :=
  .next (onNode s (laneState port.val flit))

/-- The HELLO check of R137 fails. -/
def helloRefused (n : Node) (i node domain : Nat) : Bool :=
  node == 0 || node == n.nodeId || (natField (cfgNum n 0x0102) i i == 1 && domain == n.alm.failureDomain)

/-- A HELLO flit (R110 step 6, R137): the port comes up with the peer's credits, or stays down with PEER_MISMATCH. -/
def hello (i : Nat) (flit : Bytes) (n : Node) : Node :=
  let o := portAt n i
  let node := numAt flit 8 2
  if o.bringup != 6 then n
  else if helloRefused n i node (numAt flit 10 2) then
    failBringup (setPort n i { o with status := putField o.status 33 33 1 }) i 6
  else
    let max := if numAt flit 12 1 = 1 || n.alm.personality = 1 then 2048 else 4096
    let o := { setPortState o 2 with bringup := 0, failedStep := 0, peerMax := max, kaMissed := 0,
                                     credits := (List.range 6).map fun c => numAt flit (16 + 2 * c) 2 }
    flushUnsent (setPort n i { o with status := putField o.status 29 14 node })

/-- Meaning of HELLO. -/
def execHello (port : PortId) (flit : Bytes) (s : State) : Host.Outcome State Fault Refusal :=
  .next (onNode s (hello port.val flit))

/-- 2^24 management cycles after a failed step, bring-up restarts at step 1 (R110). -/
def retryBringup (i : Nat) (n : Node) : Node :=
  let o := portAt n i
  if o.failedStep != 0 && portState o = 0 then beginBringup n i else n

/-- Meaning of PORT_BRINGUP_RETRY. -/
def execPortBringupRetry (port : PortId) (s : State) : Host.Outcome State Fault Refusal :=
  .next (onNode s (retryBringup port.val))

/-! ### Laser sources (R99, R618) -/

/-- A cluster's ports stop transmitting and go down (R99). -/
def stopCluster (e kind : Nat) (n : Node) : Node :=
  let n := { n with power := { n.power with elsOk := n.power.elsOk.filter (· != e) } }
  let n := logEvent n { otherEvent 2 kind with data0 := e }
  (List.range 4).foldl (fun n k => portDown n (4 * e + k)) n

/-- Meaning of ELS_OUTPUT_LOW. -/
def execElsOutputLow (e : RegionId) (s : State) : Host.Outcome State Fault Refusal := .next (onNode s (stopCluster e.val 6))

/-- Meaning of ELS_REMOVED: the feed is removed, the ports stop, and the removal is logged. -/
def execElsRemoved (e : RegionId) (s : State) : Host.Outcome State Fault Refusal := .next (onNode s (stopCluster e.val 7))

/-- A new ELS is seated: when it meets ELS_MIN, the cluster's ports are brought up (R618 step 4). -/
def insertEls (e : Nat) (ok : Bool) (n : Node) : Node :=
  let n := logEvent n { otherEvent 2 8 with data0 := e, data1 := bit01 ok }
  if !ok then n
  else
    let n := { n with power := { n.power with elsOk := n.power.elsOk.filter (· != e) ++ [e] } }
    (List.range 4).foldl (fun n k => if portState (portAt n (4 * e + k)) = 0 then beginBringup n (4 * e + k) else n) n

/-- Meaning of ELS_INSERTED. -/
def execElsInserted (e : RegionId) (conforming : Bool) (s : State) : Host.Outcome State Fault Refusal :=
  .next (onNode s (insertEls e.val conforming))

/-! ### Control flits -/

/-- CREDIT: counts of credits returned (R105, R120). -/
def takeCredits (i : Nat) (flit : Bytes) (n : Node) : Node :=
  let o := portAt n i
  setPort n i { o with credits := (List.range 6).map fun c => o.credits.getD c 0 + numAt flit (8 + 2 * c) 2 }

/-- Meaning of CREDIT. -/
def execCredit (port : PortId) (flit : Bytes) (s : State) : Host.Outcome State Fault Refusal :=
  .next (onNode s (takeCredits port.val flit))

/-- A good frame was received: the keep-alive count starts again (R106). -/
def goodFrame (i : Nat) (n : Node) : Node := setPort n i { portAt n i with kaMissed := 0 }

/-- Meaning of KEEPALIVE. -/
def execKeepalive (port : PortId) (_flit : Bytes) (s : State) : Host.Outcome State Fault Refusal :=
  .next (onNode s (goodFrame port.val))

/-- KA_PERIOD elapses on a port: it sends KEEPALIVE, and one more period has passed without a frame. A feigned loss
counts its periods on port 0 (R106). -/
def sendKeepalive (i : Nat) (n : Node) : Node :=
  let n := if i = 0 then { n with flt := { n.flt with feign := n.flt.feign - 1 } } else n
  let o := portAt n i
  if portState o != 2 then n
  else
    let n := setPort n i { o with kaCount := (o.kaCount + 1) % 2 ^ 32, kaMissed := o.kaMissed + 1 }
    sendCtrl n i (keepaliveFlit ((o.kaCount + 1) % 2 ^ 32))

/-- Meaning of KEEPALIVE_SEND. -/
def execKeepaliveSend (port : PortId) (s : State) : Host.Outcome State Fault Refusal :=
  .next (onNode s (sendKeepalive port.val))

/-- Keep-alive is lost on an up port: KA_LOST, and the port goes down (R104, R106). -/
def loseKeepalive (i : Nat) (n : Node) : Node :=
  let o := portAt n i
  if portState o != 2 then n
  else portDown (bump (setPort n i { o with status := putField o.status 30 30 1 }) (portCounter i 39) 1) i

/-- Meaning of KEEPALIVE_LOST. -/
def execKeepaliveLost (port : PortId) (s : State) : Host.Outcome State Fault Refusal :=
  .next (onNode s (loseKeepalive port.val))

/-- A REPLAY_REQ: the frames from the named FSEQ are sent again in order; when that FSEQ has been replayed eight times
without being acknowledged, the port goes down with REPLAY_EXH (R104). -/
def replay (i : Nat) (flit : Bytes) (n : Node) : Node :=
  let o := portAt n i
  let e := numAt flit 8 2
  let count := if o.replayed.1 = e then o.replayed.2 else 0
  if portState o != 2 && o.bringup != 6 then n
  else if 8 ≤ count then portDown (setPort n i { o with status := putField o.status 31 31 1 }) i
  else
    let again := o.replay.filter fun f => serialLe 16 e f.1
    let n := setPort n i { o with replayed := (e, count + 1) }
    let n := bump (bump n (portCounter i 33) 1) (portCounter i 34) again.length
    if framesStopped n then n
    else again.foldl (fun n f => emit n (.frame i
      (frameTrailer f.2.1 f.2.2.1 (o.fseqRx != 1) f.1 (o.fseqRx + 2 ^ 16 - 1) f.2.2.2) f.2.2.2)) n

/-- Meaning of REPLAY_REQ. -/
def execReplayReq (port : PortId) (flit : Bytes) (s : State) : Host.Outcome State Fault Refusal :=
  .next (onNode s (replay port.val flit))

/-- An accepted control flit acts by its CTYPE; a reserved one is discarded and counted (R105). -/
def controlFlit (i : Nat) (flit : Bytes) (n : Node) : Node :=
  let t := numAt flit 0 1
  if t = 1 then takeCredits i flit n
  else if t = 2 then replay i flit n
  else if t = 3 then laneState i flit n
  else if t = 4 then goodFrame i n
  else if t = 5 then hello i flit n
  else bump n (portCounter i 42) 1

/-! ### Frames (R103, R111) -/

/-- The receive buffer of a packet is free: its credits go back with a CREDIT flit (R120, R121). -/
def returnCredits (n : Node) (i vc flits : Nat) : Node :=
  let o := portAt n i
  let owed := modAt o.owed vc (· + creditUnits n flits)
  sendCtrl (setPort n i { o with owed := [0, 0, 0, 0, 0, 0] }) i (creditFlit owed)

/-- The flits gathered on a VC make a packet, which arrives, when its class is the VC's (R117). -/
def packetComplete (n : Node) (i vc : Nat) (flits : List Bytes) : Node :=
  let o := portAt n i
  let n := setPort n i { o with assembling := Tbl.del o.assembling vc }
  let n := returnCredits n i vc flits.length
  match flits with
  | [] => n
  | h :: data =>
    let p := packetOfFlits h data.flatten
    if hcrcOk p && p.cls.toNat != vc then discardPacket n i 42 false p else arrive n i p

/-- Data flits that a header announces (R111). -/
def announcedFlits (h : Bytes) : Nat :=
  let p := packetOfFlits h []
  if hasPayload p then ceilDiv p.len.toNat 64 else 0

/-- A HEAD or DATA flit accepted on a VC. -/
def takeFlit (n : Node) (i ftype vc : Nat) (flit : Bytes) : Node :=
  let o := portAt n i
  let have_ := Tbl.getD o.assembling vc []
  if ftype = 1 then
    let n := if have_.isEmpty then n else packetComplete n i vc have_
    if announcedFlits flit = 0 then packetComplete n i vc [flit]
    else
      let o := portAt n i
      setPort n i { o with assembling := Tbl.put o.assembling vc [flit] }
  else if have_.isEmpty then bump (returnCredits n i vc 1) (portCounter i 42) 1
  else
    let flits := have_ ++ [flit]
    if announcedFlits (flits.headD []) < flits.length then packetComplete n i vc flits
    else setPort n i { o with assembling := Tbl.put o.assembling vc flits }

/-- A frame is discarded: the first one since frames were in order asks for a replay (R103). -/
def discardFrame (n : Node) (i : Nat) : Node :=
  let o := portAt n i
  if o.awaitReplay then n
  else sendCtrl (setPort n i { o with awaitReplay := true }) i (replayReqFlit o.fseqRx)

/-- A frame arrives (R101–R103). Its acknowledgement is taken from any good frame; HEAD, DATA and CTRL are accepted only
in FSEQ order. -/
def receiveFrame (i w : Nat) (trailer : Word) (flit : Bytes) (fecOk : Bool) (n : Node) : Node :=
  let o := portAt n i
  let ftype := fieldOf trailer 3 0
  let vc := fieldOf trailer 6 4
  let fseq := fieldOf trailer 23 8
  if portState o != 2 && o.bringup != 6 then n
  else if !fecOk then discardFrame (bump n (portCounter i (16 + w)) 1) i
  else if fieldOf trailer 63 40 != frameCrc flit (fieldOf trailer 39 0) then
    discardFrame (bump n (portCounter i 32) 1) i
  else if 4 ≤ ftype || 6 ≤ vc then discardFrame n i
  else
    let n := goodFrame i n
    let n := if bitOf trailer 7 then ackFrames n i (fieldOf trailer 39 24) else n
    if ftype = 0 then n
    else if fseq != (portAt n i).fseqRx then discardFrame n i
    else
      let o := portAt n i
      let n := setPort n i { o with fseqRx := (fseq + 1) % 2 ^ 16, awaitReplay := false }
      if ftype = 3 then controlFlit i flit n else takeFlit n i ftype vc flit

/-- Meaning of FRAME_RECEIVE. -/
def execFrameReceive (port : PortId) (w : Fin 16) (trailer : Word) (flit : Bytes) (fecOk : Bool) (s : State) :
    Host.Outcome State Fault Refusal := .next (onNode s (receiveFrame port.val w.val trailer flit fecOk))

/-! ### SEQ_RESET (R122) -/

/-- What a node knows of a peer before any exchange, keeping what it has to send: SEQs start at 1 again. -/
def Pair.restarted (q : Pair) : Pair := { q with usable := false, resetting := false, next := [1, 1, 1, 1, 1, 1], sent := [] }

/-- The receive state of a pair is discarded, and the dedupe window of its source with it (R122, R244). -/
def forgetReceived (n : Node) (own peer : Nat) : Node :=
  let q := pairOf n own peer
  let freed := fun (i : Nat) => ((q.reorder.filter fun p => orderIndex p == i).map flitBytes).foldl (· + ·) 0
  let n := setPair n own peer { q with deliv := [0, 0, 0], reorder := [], dups := [[], [], []], marks := [], refused := [], open_ := [],
                                       held := [], rcvdCmp := 0, cmpAhead := [] }
  { n with prs := { n.prs with
    held := (List.range 3).map fun i => n.prs.held.getD i 0 - freed i
    wins := if own = n.nodeId then Tbl.del n.prs.wins peer else n.prs.wins
    delivered := n.prs.delivered.filter fun p => !(p.src.toNat == peer && p.dst.toNat == own) } }

/-- A SEQ_RESET (R122): a new incarnation discards the receive state, and makes a known pair start over; ACK 0 is
answered; ACK 1 after the module's own ACK 0 makes the pair usable and lets its waiting packets go. -/
def seqReset (p : Packet) (n : Node) : Node :=
  let r := present n p
  if !r.2 then r.1
  else
    let n := r.1
    let own := p.dst.toNat
    let peer := p.src.toNat
    let ack := p.aux.getLsbD 0
    let q := pairOf n own peer
    let inc := p.tag.toNat
    let n := if q.inc = some inc then n
      else
        let n := forgetReceived n own peer
        let q' := { pairOf n own peer with inc := some inc }
        if q.inc.isSome then startExchange (setPair n own peer (Pair.restarted q')) own peer else setPair n own peer q'
    if !ack then sendUnnumbered n (seqResetPacket n own peer true)
    else
      let q := pairOf n own peer
      if q.resetting && !q.usable then
        let n := setPair n own peer { q with usable := true, resetting := false, waiting := [] }
        q.waiting.foldl transmit n
      else n

/-- Meaning of SEQ_RESET. -/
def execSeqReset (p : Packet) (s : State) : Host.Outcome State Fault Refusal := .next (onNode s (seqReset p))

/-- SYNC_CYCLES elapse before a pair is usable: its SEQ_RESET is sent again (R122). -/
def repeatReset (own peer : Nat) (n : Node) : Node :=
  let q := pairOf n own peer
  if q.resetting && !q.usable then sendUnnumbered n (seqResetPacket n own peer false) else n

/-- Meaning of SEQ_RESET_REPEAT, for each of the module's own nodes that has the exchange with the peer open. -/
def execSeqResetRepeat (peer : NodeId) (s : State) : Host.Outcome State Fault Refusal :=
  let n := repeatReset s.nd.nodeId peer.toNat s.nd
  .next { s with nd := if bridgeId n = 0 then n else repeatReset (bridgeId n) peer.toNat n }

/-! ### SEQ_SYNC (R130, R131) -/

/-- The highest SEQ such that every packet of a class up to it has been answered: below the first open one, or all that
were received. -/
def answeredUpTo (q : Pair) (cls rcvd : Nat) : Nat :=
  (q.open_.filter fun o => o.1 == cls).foldl (fun a o => if serialLe 32 o.2 a then (o.2 + 2 ^ 32 - 1) % 2 ^ 32 else a) rcvd

/-- The payload of a SEQ_SYNC for a pair (R130). -/
def syncPayload (q : Pair) (answer : Bool) : Bytes :=
  let w := fun (rcvd cls : Nat) => wordOf (rcvd + answeredUpTo q cls rcvd * 2 ^ 32)
  wordsToBytes [w (q.deliv.getD 0 0) 0, w (q.deliv.getD 1 0) 1, w q.rcvdCmp 4,
    wordOf (q.deliv.getD 2 0 + bit01 answer * 2 ^ 32), 0, 0, 0, 0]

/-- Sends a SEQ_SYNC. -/
def sendSync (n : Node) (own peer : Nat) (answer : Bool) : Node :=
  sendUnnumbered n (withPayload (blankPacket peer own 5 0x80) (syncPayload (pairOf n own peer) answer))

/-- SYNC_CYCLES elapse: a SEQ_SYNC goes to every node that owes an answer (R130). -/
def syncPeriod (n : Node) : Node :=
  (n.prs.pairs.filter fun kv => !kv.2.sent.isEmpty).foldl
    (fun n kv => sendSync n (kv.1 / 65536) (kv.1 % 65536) false) n

/-- Meaning of SEQ_SYNC_PERIOD. -/
def execSeqSyncPeriod (s : State) : Host.Outcome State Fault Refusal := .next (onNode s syncPeriod)

/-- Sends an old packet again with its SEQ, counted by class on the port it takes. -/
def resend (n : Node) (p : Packet) : Node :=
  transmit (bump n (portCounter ((portChoice n p).getD 0) (55 + p.cls.toNat)) 1) p

/-- Whether a SEQ_SYNC makes a packet be sent again (R131): above RCVD and sent before the previous SEQ_SYNC, or at or
below ANS without an answer. -/
def mustResend (u : Unanswered) (ws : List Word) : Bool :=
  let c := u.pkt.cls.toNat
  let w := wordAt ws (if c = 0 then 0 else if c = 1 then 1 else if c = 4 then 2 else 3)
  let s := u.pkt.seq.toNat
  let above := serialLt 32 (fieldOf w 31 0) s
  !u.backoff && ((above && u.beforeSync) || (c != 5 && serialLe 32 s (fieldOf w 63 32)))

/-- A SEQ_SYNC (R130, R131): ANSWER 0 is answered at once; packets the peer lacks, or whose answer the module lacks, are
sent again; received MGT packets are settled. -/
def seqSync (p : Packet) (n : Node) : Node :=
  let r := present n p
  if !r.2 then r.1
  else
    let n := r.1
    let own := p.dst.toNat
    let peer := p.src.toNat
    let ws := bytesToWords 8 (payloadOf p)
    let q := pairOf n own peer
    let again := q.sent.filter fun u => mustResend u ws
    let kept := q.sent.filter fun u => !(u.pkt.cls == 5 && serialLe 32 u.pkt.seq.toNat (fieldOf (wordAt ws 3) 31 0))
    let n := setPair n own peer { q with sent := kept.map fun u => { u with beforeSync := true } }
    let n := again.foldl (fun n u => resend n u.pkt) n
    if bitOf (wordAt ws 3) 32 then n else sendSync n own peer true

/-- Meaning of SEQ_SYNC. -/
def execSeqSync (p : Packet) (s : State) : Host.Outcome State Fault Refusal := .next (onNode s (seqSync p))

/-- The back-off of a refused packet of the module's own elapses: it is sent again with its SEQ, once no refused packet of
the pair and class with a lower SEQ still waits (R127, R142, R626). -/
def retryResend (own peer cls seq : Nat) (n : Node) : Node :=
  let q := pairOf n own peer
  let waiting := fun (u : Unanswered) => u.backoff && u.pkt.cls.toNat == cls
  let earlier := q.sent.any fun u => waiting u && serialLt 32 u.pkt.seq.toNat seq
  match q.sent.find? fun u => waiting u && u.pkt.seq.toNat == seq with
  | none => n
  | some u =>
    if earlier then n
    else
      let sent := q.sent.map fun v =>
        if waiting v && v.pkt.seq.toNat == seq then { v with backoff := false } else v
      transmit (setPair n own peer { q with sent := sent }) u.pkt

/-- Meaning of RETRY_RESEND, for each of the module's own nodes. -/
def execRetryResend (peer : NodeId) (cls : Fin 6) (seq : BitVec 32) (s : State) : Host.Outcome State Fault Refusal :=
  let n := retryResend s.nd.nodeId peer.toNat cls.val seq.toNat s.nd
  .next { s with nd := if bridgeId n = 0 then n else retryResend (bridgeId n) peer.toNat cls.val seq.toNat n }

end Sys2Proof.Machine
end

