-- ==== Sys2Proof/Machine/ProgOps.lean ====
section
/-! DEFINITION. Element programs as plain functions: micro-ops, their encoding rules, lanes, and the block a program
computes (R248–R273). -/

namespace Sys2Proof.Machine

/-! ### Encoding (R264–R266) -/

/-- A micro-op's fields (R264). -/
structure MicroOp where
  opc : Nat
  vd : Nat
  va : Nat
  vb : Nat
  vc : Nat
  pen : Bool
  psel : Nat
  rnd : Nat
  bk : Bool
  mod : Nat
  deriving DecidableEq, Repr

/-- The fields of a micro-op's 32 bits. -/
def microOp (w : Nat) : MicroOp :=
  { opc := natField w 31 26, vd := natField w 25 22, va := natField w 21 18, vb := natField w 17 14,
    vc := natField w 13 10, pen := natField w 9 9 == 1, psel := natField w 8 7, rnd := natField w 6 5,
    bk := natField w 4 4 == 1, mod := natField w 3 0 }

/-- Floating arithmetic that reads VA and B: FADD, FSUB, FMUL, FMA, FNMA. -/
def narrowOp (o : Nat) : Bool := decide (0x08 ≤ o ∧ o ≤ 0x0C)

/-- Opcodes that read B. -/
def readsB (o : Nat) : Bool :=
  decide (0x08 ≤ o ∧ o ≤ 0x0E) || o == 0x18 || o == 0x19 || o == 0x1A || decide (0x20 ≤ o ∧ o ≤ 0x2A) || o == 0x34

/-- Opcodes marked "rounds". -/
def rounds (o : Nat) : Bool :=
  o == 0x02 || narrowOp o || o == 0x14 || o == 0x30 || o == 0x31 || o == 0x32 || o == 0x34

/-- Opcodes that read VA as a V register. -/
def readsVA (o : Nat) : Bool :=
  o == 0x02 || o == 0x03 || decide (0x08 ≤ o ∧ o ≤ 0x12) || decide (0x13 ≤ o ∧ o ≤ 0x16) || o == 0x18 || o == 0x19 ||
  o == 0x1A || decide (0x20 ≤ o ∧ o ≤ 0x2B) || decide (0x30 ≤ o ∧ o ≤ 0x34) || decide (0x38 ≤ o ∧ o ≤ 0x3A)

/-- Opcodes that write a V register. -/
def writesVD (o : Nat) : Bool :=
  o == 0x01 || o == 0x03 || o == 0x04 || o == 0x05 || decide (0x08 ≤ o ∧ o ≤ 0x16) || o == 0x1A ||
  decide (0x20 ≤ o ∧ o ≤ 0x2B) || decide (0x30 ≤ o ∧ o ≤ 0x34)

/-- Opcodes whose VD names a P register or an accumulator in bits 23:22. -/
def writesSmall (o : Nat) : Bool := o == 0x18 || o == 0x19 || o == 0x1B || decide (0x38 ≤ o ∧ o ≤ 0x3A)

/-- Assigned opcodes (R266). -/
def opcodeAssigned (o : Nat) : Bool := readsVA o || writesVD o || writesSmall o

/-- MOD is one that the opcode allows. -/
def modOk (m : MicroOp) : Bool :=
  let o := m.opc
  if o = 0x01 then true
  else if o = 0x02 then m.mod / 2 % 2 == 0
  else if narrowOp o then decide (m.mod ≤ 9)
  else if o = 0x18 || o = 0x19 then decide (m.mod ≤ 7)
  else if o = 0x1A then decide (m.mod ≤ 3)
  else if o = 0x1B then decide (m.mod ≤ 5)
  else if o = 0x32 then decide (1 ≤ m.mod ∧ m.mod ≤ 0xA)
  else if o = 0x33 then decide (5 ≤ m.mod ∧ m.mod ≤ 9)
  else m.mod == 0

/-- The encoding rules of R265 for one micro-op. -/
def microOk (m : MicroOp) : Bool :=
  let o := m.opc
  opcodeAssigned o && modOk m &&
  (if writesSmall o then decide (m.vd ≤ 3) else writesVD o || m.vd == 0) &&
  (if readsVA o then true else if o = 0x04 then decide (m.va ≤ 7) else if o = 0x1B then decide (m.va ≤ 3) else m.va == 0) &&
  (if readsB o then !m.bk || decide (m.vb ≤ 7)
   else if o = 0x1B then !m.bk && decide (m.vb ≤ 3) && (decide (m.mod ≤ 3) || m.vb == 0) else !m.bk && m.vb == 0) &&
  (o == 0x0B || o == 0x0C || m.vc == 0) &&
  (m.pen || m.psel == 0) && (o != 0x1B || !m.pen) &&
  (o != 0x1B || m.mod != 5 || m.va == 0) &&
  decide (m.rnd ≤ 2) && (rounds o || m.rnd == 0)

/-- An accumulator is named both by RIADD and by a floating reduction (R260). -/
def accClash (ms : List MicroOp) : Bool :=
  ms.any fun a => a.opc == 0x3A && ms.any fun b => (b.opc == 0x38 || b.opc == 0x39) && b.vd == a.vd

/-- A program that PROGRAM_LOAD accepts (R260). -/
def codeOk (code : List Nat) : Bool :=
  let ms := code.map microOp
  ms.all microOk && !accClash ms

/-! ### Lanes -/

/-- The exact value of a lane read as FP32. -/
def laneF (x : Nat) : FVal := ffDecode ffFP32 (x % 2 ^ 32)

/-- The value of a lane read as INT32. -/
def laneI (x : Nat) : Int := toSigned 32 x

/-- A lane holding an exact value rounded into FP32. -/
def putF (mode : RMode) (v : FVal) : Rounded := ffRound ffFP32 mode v

/-- What a lane becomes, with the overflows it counts. -/
structure LaneOut where
  val : Nat
  ovf : Nat
  nans : Nat
  deriving DecidableEq, Repr

/-- A lane value that counts nothing. -/
def quiet (v : Nat) : LaneOut := ⟨v, 0, 0⟩

/-- A rounded result as a lane: only its overflow counts (R272). -/
def laneOf (r : Rounded) : LaneOut := ⟨r.code, bit01 r.ovf, 0⟩

/-! ### Square roots and approximations (R266, R268) -/

/-- The integer square root by `k` bits. -/
def isqrtBits : Nat → Nat → Nat → Nat
  | 0, _, r => r
  | k + 1, n, r => let c := r + 2 ^ k; isqrtBits k n (if c * c ≤ n then c else r)

/-- The integer square root. -/
def isqrt (n : Nat) : Nat := isqrtBits (Nat.log2 n / 2 + 1) n 0

/-- √(m × 2^e) to 80 bits and a sticky bit: rounding it into FP32 rounds the exact root. -/
def rootOf (m : Nat) (e : Int) : FVal :=
  let odd := e % 2 != 0
  let big := (if odd then 2 * m else m) * 2 ^ 160
  let r := isqrt big
  let sticky := if r * r = big then 0 else 1
  .fin false (2 * r + sticky) ((if odd then e - 1 else e) / 2 - 81)

/-- FSQRT: √VA, NaN for a negative value; −0 keeps its sign. -/
def fsqrt (v : FVal) : FVal :=
  match v with
  | .fin neg m e => if m = 0 then v else if neg then .nan else rootOf m e
  | .inf neg => if neg then .nan else v
  | .nan => .nan

/-- `2^(−2^−i)`-style table for exponentials: the i-th root of two by repeated square roots, as `x / 2^64`. -/
def exp2Steps : Nat → Nat → Nat → Nat → Nat
  | 0, _, _, acc => acc
  | k + 1, root, f, acc =>
    let root := isqrt (root * 2 ^ 64)
    let acc := if f / 2 ^ k % 2 = 1 then acc * root / 2 ^ 64 else acc
    exp2Steps k root f acc

/-- 2^x for a finite x = ±m × 2^e, to about 2^-57: the power of two and a 64-bit fraction from 1 to 2. -/
def exp2Of (neg : Bool) (m : Nat) (e : Int) : FVal :=
  let fx : Int := if 0 ≤ e + 64 then (m : Int) * 2 ^ (e + 64).toNat else (m / 2 ^ (-(e + 64)).toNat : Nat)
  let fx := if neg then -fx else fx
  let k := fx / 2 ^ 64
  .fin false (exp2Steps 64 (2 ^ 65) (fx % 2 ^ 64).toNat (2 ^ 64)) (k - 64)

/-- Bits of log2 of a number in [1, 2), given as `x / 2^80`, by repeated squaring. -/
def log2Steps : Nat → Nat → Nat → Nat
  | 0, _, acc => acc
  | k + 1, x, acc =>
    let y := x * x / 2 ^ 80
    if y ≥ 2 ^ 81 then log2Steps k (y / 2) (2 * acc + 1) else log2Steps k y (2 * acc)

/-- log2 of m × 2^e for m > 0, to about 2^-60. -/
def log2Of (m : Nat) (e : Int) : FVal :=
  let b := Nat.log2 m
  let x := m * 2 ^ 80 / 2 ^ b
  let v : Int := ((b : Int) + e) * 2 ^ 60 + (log2Steps 60 x 0 : Nat)
  .fin (decide (v < 0)) v.natAbs (-60)

/-- |a − b| ≤ tol. -/
def fvNear (a b tol : FVal) : Bool := !fvLt tol (fvAbs (fvAdd a (fvNeg b)))

/-- 2^k. -/
def fvPow2 (k : Int) : FVal := .fin false 1 k

/-- Whether a candidate lies within the bound of R268 around an accurate value: relative 2^-22, or absolute `floor`
where that is larger. -/
def withinBound (c v : FVal) (floor : Option FVal) : Bool :=
  fvNear c v (fvMul (fvAbs v) (fvPow2 (-22))) ||
    match floor with
    | some f => fvNear c v f
    | none => false

/-- The approximated result: the implementation's own choice where it lies within the bound, else the accurate value
rounded. -/
def approxOf (op x : Nat) (v : FVal) (floor : Option FVal) : Nat :=
  let c := (Config.approx op x).toNat
  if withinBound (laneF c) v floor then c else (putF .rne v).code

/-- The value is a whole number: its magnitude. -/
def wholeOf (m : Nat) (e : Int) : Option Nat :=
  if 0 ≤ e then some (m * 2 ^ e.toNat)
  else if m % 2 ^ (-e).toNat = 0 then some (m / 2 ^ (-e).toNat) else none

/-- The canonical NaN of FP32. -/
def nan32 : Nat := 0x7FC00000
/-- +infinity of FP32. -/
def inf32 : Nat := 0x7F800000

/-- FRCP, FRSQRT, FEXP2 and FLOG2 with their special values (R268). -/
def approxOp (op x : Nat) : Nat :=
  match laneF x with
  | .nan => nan32
  | .inf neg =>
    if op = 0x12 then (if neg then 2 ^ 31 else 0)
    else if op = 0x13 then (if neg then nan32 else 0)
    else if op = 0x15 then (if neg then 0 else inf32)
    else if neg then nan32 else inf32
  | .fin neg m e =>
    if op = 0x12 then
      if m = 0 then inf32 + (if neg then 2 ^ 31 else 0)
      else
        let v : FVal := .fin neg (2 ^ 120 / m) (-e - 120)
        approxOf op x v (if fvLt (fvAbs v) (fvPow2 (-126)) then some (fvPow2 (-149)) else none)
    else if op = 0x13 then
      if m = 0 then inf32 + (if neg then 2 ^ 31 else 0)
      else if neg then nan32
      else
        match rootOf m e with
        | .fin _ rm re => approxOf op x (.fin false (2 ^ 240 / rm) (-re - 240)) none
        | v => (putF .rne v).code
    else if op = 0x15 then
      if !neg && !fvLt (.fin neg m e) (.fin false 128 0) then inf32
      else if neg && fvLt (.fin neg m e) (.fin true 150 0) then 0
      else
        match (if m = 0 then some 0 else wholeOf m e) with
        | some k =>
          if neg && decide (149 < k) then approxOf op x (exp2Of neg m e) (some (fvPow2 (-149)))
          else (putF .rne (fvPow2 (if neg then -(k : Int) else k))).code
        | none =>
          let v := exp2Of neg m e
          if fvLt v (fvPow2 (-126)) then (Config.approx op x).toNat else approxOf op x v none
    else
      if m = 0 then inf32 + 2 ^ 31
      else if neg then nan32
      else if m = 2 ^ Nat.log2 m then (putF .rne (fvOfInt ((Nat.log2 m : Int) + e))).code
      else
        let v := log2Of m e
        let near := !fvLt (.fin false m e) (fvPow2 (-1)) && !fvLt (fvPow2 1) (.fin false m e)
        if near then
          let c := (Config.approx op x).toNat
          if fvNear (laneF c) v (fvPow2 (-22)) then c else (putF .rne v).code
        else approxOf op x v none

/-! ### One lane of a micro-op (R266, R267) -/

/-- FCMP's conditions; NaN makes every one false but NE and UNORD. -/
def fcmp (cond : Nat) (a b : FVal) : Bool :=
  let un := fvIsNan a || fvIsNan b
  if cond = 0 then !un && fvEq a b
  else if cond = 1 then un || !fvEq a b
  else if cond = 2 then fvLt a b
  else if cond = 3 then !un && !fvLt b a
  else if cond = 4 then fvLt b a
  else if cond = 5 then !un && !fvLt a b
  else if cond = 6 then un
  else !un

/-- ICMP's conditions. -/
def icmp (cond a b : Nat) : Bool :=
  if cond = 0 then a == b
  else if cond = 1 then a != b
  else if cond = 2 then decide (laneI a < laneI b)
  else if cond = 3 then decide (laneI a ≤ laneI b)
  else if cond = 4 then decide (laneI b < laneI a)
  else if cond = 5 then decide (laneI b ≤ laneI a)
  else if cond = 6 then decide (a < b)
  else decide (a ≤ b)

/-- PLOG of two predicate masks, over the active lanes (R251, R266). -/
def plog (op a b active : Nat) : Nat :=
  (if op = 0 then a &&& b else if op = 1 then a ||| b else if op = 2 then a ^^^ b
   else if op = 3 then a &&& (b ^^^ (2 ^ 64 - 1)) else if op = 4 then a ^^^ (2 ^ 64 - 1) else active) &&& active

/-- The number of 1 bits among the `k` low bits. -/
def popBits (k x : Nat) : Nat := ((List.range k).filter fun i => x.testBit i).length

/-- The integer and logic micro-ops on a lane. -/
def intOp (o a b : Nat) : Nat :=
  let w := 2 ^ 32
  if o = 0x20 then (a + b) % w
  else if o = 0x21 then (a + w - b) % w
  else if o = 0x22 then a * b % w
  else if o = 0x23 then (if laneI a < laneI b then a else b)
  else if o = 0x24 then (if laneI a < laneI b then b else a)
  else if o = 0x25 then a &&& b
  else if o = 0x26 then a ||| b
  else if o = 0x27 then a ^^^ b
  else if o = 0x28 then a * 2 ^ (b % 32) % w
  else if o = 0x29 then a / 2 ^ (b % 32)
  else ofSigned 32 (laneI a / 2 ^ (b % 32))

/-- The floating arithmetic of FADD to FNMA on exact values. -/
def fpArith (o : Nat) (a b c : FVal) : FVal :=
  if o = 0x08 then fvAdd a b
  else if o = 0x09 then fvAdd a (fvNeg b)
  else if o = 0x0A then fvMul a b
  else if o = 0x0B then fvAdd (fvMul a b) c
  else fvAdd c (fvNeg (fvMul a b))

/-- FSGN. -/
def fsgn (x : Nat) : Nat :=
  match laneF x with
  | .nan => nan32
  | .inf neg => if neg then 0xBF800000 else 0x3F800000
  | .fin neg m _ => if m = 0 then x else if neg then 0xBF800000 else 0x3F800000

/-- The micro-ops that work on one lane alone: `a` is VA, `b` is B, `c` is VC, `mode` the rounding of the lane. -/
def laneOp (m : MicroOp) (mode : RMode) (a b c : Nat) : LaneOut :=
  let o := m.opc
  if o = 0x03 then quiet a
  else if narrowOp o then laneOf (putF mode (fpArith o (laneF a) (laneF b) (laneF c)))
  else if o = 0x0D then quiet (putF .rne (fvMin (laneF a) (laneF b))).code
  else if o = 0x0E then quiet (putF .rne (fvMax (laneF a) (laneF b))).code
  else if o = 0x0F then quiet (putF .rne (fvAbs (laneF a))).code
  else if o = 0x10 then quiet (putF .rne (fvNeg (laneF a))).code
  else if o = 0x11 then quiet (fsgn a)
  else if o = 0x14 then laneOf (putF mode (fsqrt (laneF a)))
  else if o = 0x12 || o = 0x13 || o = 0x15 || o = 0x16 then quiet (approxOp o a)
  else if o = 0x2B then quiet (popBits 32 a)
  else if o = 0x30 then
    let r := fvToInt 32 mode (laneF a)
    ⟨r.code, bit01 r.ovf, bit01 r.isNan⟩
  else if o = 0x31 then laneOf (putF mode (fvOfInt (laneI a)))
  else if o = 0x34 then laneOf (putF mode (fvScale (laneF a) (laneI b)))
  else quiet (intOp o a b)

/-! ### Blocks (R249, R251, R252) -/

/-- The registers of a block. -/
structure BlockRegs where
  /-- V0–V15, 64 lanes each. -/
  v : List (List Nat)
  /-- P0–P3. -/
  p : List Nat
  ovf : Nat
  nans : Nat
  /-- Elements stored: stream, component, lanes' mask and values, with the micro-op's rounding and place. -/
  stores : List (Nat × Nat × Nat × List Nat × Nat × Nat)
  /-- Contributions to A0–A3. -/
  accs : List (Option Nat)
  deriving DecidableEq, Repr

/-- A register's 64 lanes. -/
def vReg (s : BlockRegs) (i : Nat) : List Nat := s.v.getD i (List.replicate 64 0)

/-- The rounding of a lane under RND; STOCH draws under R271 at seed `s` and index `i`. -/
def roundOf (rnd s i : Nat) : RMode := if rnd = 0 then .rne else if rnd = 1 then .rtz else .stoch (stochRandom s i)

/-- The lanes that take part: active, and named by the predicate with PEN (R251, R252). -/
def lanesOf (m : MicroOp) (s : BlockRegs) (active : Nat) : Nat :=
  if m.pen then active &&& s.p.getD m.psel 0 else active

/-- The B operand: a K register in every lane, or VB. -/
def bOf (m : MicroOp) (s : BlockRegs) (ks : List Nat) : List Nat :=
  if m.bk then List.replicate 64 (ks.getD m.vb 0) else vReg s m.vb

/-- Values of a half-register quantised into a format, lanes outside `mask` counting as 0: the decoded values and the
scale (R226, R267). -/
def quantHalf (fmt : Nat) (mode : Nat → RMode) (mask base : Nat) (xs : List Nat) : List FVal × Nat × Nat :=
  let vs := (List.range 32).map fun i => if mask.testBit (base + i) then laneF (xs.getD (base + i) 0) else .fin false 0 0
  let q := quantiseBlock fmt (fun i => mode (base + i)) vs
  (blockValues fmt q.block, q.block.scale, q.ovf)

/-- One value rounded into a format that is not block-scaled, and back. -/
def quantPlain (fmt : Nat) (mode : RMode) (v : FVal) : FVal × Nat :=
  if fmt = 0xA then
    let r := fvToInt 8 mode v
    (fvOfInt (toSigned 8 r.code), bit01 r.ovf)
  else match fmtFloat? fmt with
    | some f => let r := ffRound f mode v; (ffDecode f r.code, bit01 r.ovf)
    | none => (v, 0)

/-- All 64 lanes quantised into a format and decoded, with each lane's overflow count; the scales of the two halves. -/
def quantLanes (fmt : Nat) (mode : Nat → RMode) (mask : Nat) (xs : List Nat) : List (FVal × Nat) × List Nat :=
  if fmtIsBlock fmt then
    let lo := quantHalf fmt mode mask 0 xs
    let hi := quantHalf fmt mode mask 32 xs
    let isInf := fun (i : Nat) => bit01 (mask.testBit i && fvIsInf (laneF (xs.getD i 0)))
    (((lo.1 ++ hi.1).zipIdx).map (fun v => (v.1, isInf v.2)), [lo.2.1, hi.2.1])
  else ((List.range 64).map fun i => quantPlain fmt (mode i) (laneF (xs.getD i 0)), [0, 0])

/-- Inserts a lane by the key of the fixed order (R273). -/
def insertLane (i : Nat) : List Nat → List Nat
  | [] => [i]
  | j :: js => if Config.laneKey i < Config.laneKey j then i :: j :: js else j :: insertLane i js

/-- Pairs of neighbours combined, once. -/
def pairUp (f : Nat → Nat → Nat) : List Nat → List Nat
  | a :: b :: rest => f a b :: pairUp f rest
  | l => l

/-- A list reduced in pairs, level by level. -/
def pairTree (f : Nat → Nat → Nat) : Nat → List Nat → Option Nat
  | 0, l => l.head?
  | k + 1, l => if l.length ≤ 1 then l.head? else pairTree f k (pairUp f l)

/-- Two partial results of a reduction: RFADD rounds to FP32, RFMAX, RIADD wraps (R273). -/
def reduceTwo (op a b : Nat) : Nat :=
  if op = 0x38 then (putF .rne (fvAdd (laneF a) (laneF b))).code
  else if op = 0x39 then (putF .rne (fvMax (laneF a) (laneF b))).code
  else (a + b) % 2 ^ 32

/-- What RFADD, RFMAX and RIADD start from (R273). -/
def accStart (op : Nat) : Nat := if op = 0x39 then 0xFF800000 else 0

/-- A block's contribution to an accumulator, from the lanes that take part. -/
def contribution (op mask : Nat) (xs : List Nat) : Option Nat :=
  let lanes := ((List.range 64).filter fun i => mask.testBit i).foldl (fun l i => insertLane i l) []
  pairTree (reduceTwo op) 7 (lanes.map fun i => xs.getD i 0)

/-- What a block reads of a stream: stream and component give 64 lanes with the overflows LD counts in each. -/
abbrev StreamReader := Nat → Nat → List LaneOut

/-- Lanes replaced where they take part, with their counts. -/
def writeLanes (s : BlockRegs) (vd mask : Nat) (outs : List LaneOut) : BlockRegs :=
  let old := vReg s vd
  let new := (List.range 64).map fun i => if mask.testBit i then (outs.getD i (quiet 0)).val else old.getD i 0
  let hit := (outs.zipIdx).filter fun o => mask.testBit o.2
  { s with v := s.v.set vd new, ovf := s.ovf + (hit.map fun o => o.1.ovf).foldl (· + ·) 0,
           nans := s.nans + (hit.map fun o => o.1.nans).foldl (· + ·) 0 }

/-- Predicate bits replaced where lanes take part. -/
def writePred (s : BlockRegs) (p mask bits : Nat) : BlockRegs :=
  let old := s.p.getD p 0
  { s with p := s.p.set p ((old &&& (mask ^^^ (2 ^ 64 - 1))) ||| (bits &&& mask)) }

/-- One micro-op at position `pos` of block `blk` (R266). -/
def runMicro (ks : List Nat) (seed blk active : Nat) (rd : StreamReader) (pos : Nat) (m : MicroOp) (s : BlockRegs) :
    BlockRegs :=
  let mask := lanesOf m s active
  let a := vReg s m.va
  let b := bOf m s ks
  let c := vReg s m.vc
  let mode := fun (j : Nat) => roundOf m.rnd (seed ^^^ (pos * 2 ^ 56)) (64 * blk + j)
  let o := m.opc
  if o = 0x01 then writeLanes s m.vd mask (rd (m.mod % 4) (m.mod / 4))
  else if o = 0x02 then { s with stores := s.stores ++ [(m.mod % 2, m.mod / 4, mask, a, m.rnd, pos)] }
  else if o = 0x04 then writeLanes s m.vd mask (List.replicate 64 (quiet (ks.getD (m.va % 8) 0)))
  else if o = 0x05 then writeLanes s m.vd mask ((List.range 64).map fun j => quiet ((64 * blk + j) % 2 ^ 32))
  else if o = 0x18 then
    writePred s m.vd mask (((List.range 64).filter fun j => fcmp m.mod (laneF (a.getD j 0)) (laneF (b.getD j 0))).foldl
      (fun x j => x ||| 2 ^ j) 0)
  else if o = 0x19 then
    writePred s m.vd mask (((List.range 64).filter fun j => icmp m.mod (a.getD j 0) (b.getD j 0)).foldl
      (fun x j => x ||| 2 ^ j) 0)
  else if o = 0x1A then
    let p := s.p.getD m.mod 0
    writeLanes s m.vd mask ((List.range 64).map fun j => quiet (if p.testBit j then a.getD j 0 else b.getD j 0))
  else if o = 0x1B then
    { s with p := s.p.set m.vd (plog m.mod (s.p.getD m.va 0) (s.p.getD m.vb 0) active) }
  else if o = 0x32 then
    let q := quantLanes m.mod mode mask a
    writeLanes s m.vd mask (q.1.map fun v => let r := putF .rne v.1; ⟨r.code, v.2 + bit01 r.ovf, 0⟩)
  else if o = 0x33 then
    let q := quantLanes m.mod mode mask a
    writeLanes s m.vd mask ((List.range 64).map fun j => quiet (q.2.getD (j / 32) 0))
  else if decide (0x38 ≤ o ∧ o ≤ 0x3A) then
    match contribution o mask a with
    | none => s
    | some x =>
      let acc := match s.accs.getD m.vd none with
        | none => x
        | some y => reduceTwo o y x
      { s with accs := s.accs.set m.vd (some acc) }
  else if narrowOp o && m.mod != 0 then
    let qa := (quantLanes m.mod (fun _ => .rne) mask a).1
    let qb := (quantLanes m.mod (fun _ => .rne) mask b).1
    let d : FVal × Nat := (.nan, 0)
    writeLanes s m.vd mask ((List.range 64).map fun j =>
      laneOf (putF (mode j) (fpArith o (qa.getD j d).1 (qb.getD j d).1 (laneF (c.getD j 0)))))
  else writeLanes s m.vd mask ((List.range 64).map fun j => laneOp m (mode j) (a.getD j 0) (b.getD j 0) (c.getD j 0))

/-- The active mask of block `blk` of a run of `count` records (R251). -/
def activeMask (count blk : Nat) : Nat := 2 ^ min 64 (count - 64 * blk) - 1

/-- A block at its start (R249). -/
def BlockRegs.start (active : Nat) : BlockRegs :=
  { v := List.replicate 16 (List.replicate 64 0), p := List.replicate 4 active, ovf := 0, nans := 0, stores := [],
    accs := [none, none, none, none] }

/-- A block's micro-ops in order (R276). -/
def runBlock (code ks : List Nat) (seed blk active : Nat) (rd : StreamReader) : BlockRegs :=
  (code.zipIdx).foldl (fun s w => runMicro ks seed blk active rd w.2 (microOp w.1) s) (BlockRegs.start active)

end Sys2Proof.Machine
end

