-- ==== Sys2Proof/Machine/Programs.lean ====
section
/-! DEFINITION. Element programs on the module: slots, the checks of PROGRAM_RUN, blocks, reductions, and the firings of
PROGRAM triggers (R248–R288, R166). -/

namespace Sys2Proof.Machine

/-- Offset of the program counters (R288, R523): runs admitted, blocks run, replays, slice swaps, firings that waited,
runs ended by a failure. -/
def progCounter (k : Nat) : Nat := 0x133100 + 8 * k

/-! ### Sparse stores -/

/-- Bytes to store, by PVA. -/
abbrev Patch := Tbl Byte

/-- Bytes laid into a patch from a PVA upwards. -/
def putBytes (p : Patch) (pva : Nat) : Bytes → Patch
  | [] => p
  | b :: bs => putBytes (Tbl.put p pva b) (pva + 1) bs

/-- The lines a patch touches, rising, as the PVA of their first byte, each with its bytes. -/
def patchLines (p : Patch) : List (Nat × Patch) :=
  ((p.map fun e => e.1 / 64).eraseDups).map fun l => (l * 64, p.filter fun e => e.1 / 64 == l)

/-- A line with a patch laid over it. -/
def patchLine (base : Nat) (p : Patch) (old : Bytes) : Bytes :=
  (List.range 64).map fun i => Tbl.getD p (base + i) (old.getD i 0)

/-- Makes the lines of a patch ready for the module's stores. -/
def patchPrep (n : Node) (ctx : Nat) (o : Origin) (p : Patch) : Node × Fetch :=
  (patchLines p).foldl (fun (a : Node × Fetch) l =>
    match rangeFor a.1 ctx l.1 with
    | none => (a.1, worseFetch a.2 .waits)
    | some r =>
      let line := lineAt r l.1
      let f := prepLine a.1 ctx r l.1 line (.store (l.2.length == 64))
      if f.2 != .ready then (f.1, worseFetch a.2 f.2)
      else
        let s := prepSplit f.1 ctx r line o
        (s.1, worseFetch a.2 s.2)) (n, .ready)

/-- A patch covers part of a poisoned line (R284). -/
def patchPoisoned (n : Node) (ctx : Nat) (p : Patch) : Bool :=
  (patchLines p).any fun l => l.2.length != 64 &&
    match rangeFor n ctx l.1 with
    | none => false
    | some r => isPoisoned n (lineAt r l.1)

/-- Commits a patch over lines made ready, in ascending order; a line covered whole loses its poison. Answers the
forwards sent. -/
def patchCommit (n : Node) (ctx : Nat) (o : Origin) (why : SentFor) (i : FwdInfo) (p : Patch) : Node × List (Nat × Nat) :=
  (patchLines p).foldl (fun (a : Node × List (Nat × Nat)) l =>
    match rangeFor a.1 ctx l.1 with
    | none => a
    | some r =>
      let line := lineAt r l.1
      let n := if l.2.length = 64 then clearPoison a.1 line else a.1
      let v := applyToVersions n ctx r line o true (patchLine l.1 l.2)
      v.2.foldl (fun (a : Node × List (Nat × Nat)) vsel =>
        let f := forwardLines a.1 ctx r line 1 vsel i why
        (f.1, a.2 ++ f.2)) (v.1, a.2)) (n, [])

/-! ### Slots (R258–R260) -/

/-- A program slot; free with PGEN 0 until loaded. -/
def progSlot (n : Node) (k : Nat) : ProgSlot := Tbl.getD n.prog.slots k { owner := 0, pgen := 0, code := [] }

/-- The node with a slot replaced. -/
def setProgSlot (n : Node) (k : Nat) (x : ProgSlot) : Node :=
  { n with prog := { n.prog with slots := Tbl.put n.prog.slots k x } }

/-- Reserved fields of PROGRAM_LOAD, and CTX 0 (R259, R60). -/
def loadReserved (c : Cmd) : Bool :=
  cmdCtx c == 0 || fieldOf (dword c 3) 15 10 != 0 || fieldOf (dword c 3) 23 22 != 0 || fieldOf (dword c 3) 63 25 != 0 ||
  pvaBad (dword c 4) || dword c 5 != 0 || dword c 6 != 0 || dword c 7 != 0

/-- A slot that another context owns, named on a context ring (R260). -/
def slotForeign (n : Node) (c : Cmd) : Bool :=
  let own := (progSlot n (fieldOf (dword c 3) 9 0)).owner
  c.ring != 0 && own != 0 && own != cmdCtx c

/-- PROGRAM_LOAD with UNLOAD 0 (R260). -/
def programLoad (tid : Nat) (n : Node) : Node :=
  startCmd n tid 0x38 fun c =>
    if bitOf (dword c 3) 24 then n
    else
      let k := fieldOf (dword c 3) 9 0
      let ops := fieldOf (dword c 3) 21 16
      let pva := (dword c 4).toNat
      let ctx := cmdCtx c
      let bad := loadReserved c || decide (ops = 0 ∨ 32 < ops) || pva % 64 != 0 || !spanHomed n ctx pva (4 * ops)
      checked n tid c bad [(slotForeign n c || !spanGranted n ctx pva (4 * ops) (·.r), stDenied)] fun _ =>
        let f := engineReadPrep n ctx pva (4 * ops)
        if f.2 = .noKey then refuseCmd f.1 tid stInternal
        else if f.2 = .waits then f.1
        else if spanPoisoned f.1 ctx pva (4 * ops) then refuseCmd f.1 tid stPoisoned
        else
          let bs := spanBytes f.1 ctx pva (4 * ops)
          let code := (List.range ops).map fun i => numAt bs (4 * i) 4
          if !codeOk code then refuseCmd f.1 tid stInvalid
          else
            let g := stepGen (progSlot f.1 k).pgen
            endCmd (setProgSlot f.1 k { owner := ctx, pgen := g, code := code }) tid stOK (wordOf g) 0

/-- PROGRAM_LOAD. -/
def execProgramLoad (tid : Nat) (s : State) : Host.Outcome State Fault Refusal := .next (onNode s (programLoad tid))

/-- PROGRAM_LOAD with UNLOAD 1: the slot is free, PGEN stays (R260). -/
def programUnload (tid : Nat) (n : Node) : Node :=
  startCmd n tid 0x38 fun c =>
    if !bitOf (dword c 3) 24 then n
    else
      let k := fieldOf (dword c 3) 9 0
      let bad := loadReserved c || fieldOf (dword c 3) 21 16 != 0 || dword c 4 != 0
      checked n tid c bad [(slotForeign n c, stDenied)] fun _ =>
        let g := (progSlot n k).pgen
        endCmd (setProgSlot n k { owner := 0, pgen := g, code := [] }) tid stOK (wordOf g) 0

/-- PROGRAM_LOAD with UNLOAD 1. -/
def execProgramUnload (tid : Nat) (s : State) : Host.Outcome State Fault Refusal := .next (onNode s (programUnload tid))

/-! ### Streams (R254–R257) -/

/-- The stream entry at word `w` of a parameter block. -/
def streamEntry (ws : List Word) (w : Nat) : Stream :=
  { base := (wordAt ws w).toNat, fmt := fieldOf (wordAt ws (w + 1)) 3 0, g := fieldOf (wordAt ws (w + 1)) 5 4 + 1,
    en := bitOf (wordAt ws (w + 1)) 6 }

/-- Element bytes of a format that is not block-scaled. -/
def elemBytes (fmt : Nat) : Nat := fmtBits fmt / 8

/-- Bytes of the element plane of a block-scaled stream (R219). -/
def planeBytes (fmt count : Nat) : Nat := ceilDiv count 32 * (4 * fmtBits fmt)

/-- First byte of the scale plane (R219). -/
def scaleBase (st : Stream) (count : Nat) : Nat := st.base + ceilDiv (planeBytes st.fmt count) 64 * 64

/-- The extent of a stream (R255). -/
def streamExtent (st : Stream) (count : Nat) : Nat :=
  if fmtIsBlock st.fmt then scaleBase st count - st.base + ceilDiv count 32 else st.g * count * elemBytes st.fmt

/-- A stream breaks the format, G, alignment or extent rules of R255 and R256. -/
def streamBad (st : Stream) (count : Nat) : Bool :=
  !fmtTileValid st.fmt || (fmtIsBlock st.fmt && st.g != 1) ||
  (if fmtIsBlock st.fmt then st.base % 64 != 0 else st.base % max 1 (elemBytes st.fmt) != 0) ||
  decide (2 ^ 57 < st.base + streamExtent st count)

/-- Two spans meet. -/
def spansMeet (a la b lb : Nat) : Bool := decide (a < b + lb ∧ b < a + la)

/-- Two streams meet. -/
def streamsMeet (count : Nat) (a b : Stream) : Bool := spansMeet a.base (streamExtent a count) b.base (streamExtent b count)

/-- An output in place of an input (R257). -/
def inPlace (o i : Stream) : Bool := i.en && i.base == o.base && i.fmt == o.fmt && i.g == o.g

/-- LD micro-ops of a program that read stream `k`. -/
def loads (ms : List MicroOp) (k : Nat) : List MicroOp := ms.filter fun m => m.opc == 1 && m.mod % 4 == k
/-- ST micro-ops of a program that write stream `k`. -/
def storesTo (ms : List MicroOp) (k : Nat) : List MicroOp := ms.filter fun m => m.opc == 2 && m.mod % 2 == k

/-- What a parameter block asks for (R253). -/
structure RunParams where
  streams : List Stream
  consts : List Nat
  seed : Nat
  redPva : Nat
  redEn : Bool
  seedAdv : Bool
  reserved : Bool
  deriving DecidableEq, Repr

/-- Reads a parameter block. -/
def paramsOf (ws : List Word) : RunParams :=
  let entries := [0, 2, 4, 6, 8, 10]
  { streams := entries.map (streamEntry ws)
    consts := (List.range 8).map fun k => fieldOf (wordAt ws (12 + k / 2)) (k % 2 * 32 + 31) (k % 2 * 32)
    seed := (wordAt ws 16).toNat
    redPva := fieldOf (wordAt ws 17) 56 0
    redEn := bitOf (wordAt ws 18) 0
    seedAdv := bitOf (wordAt ws 18) 1
    reserved := (entries.any fun w => pvaBad (wordAt ws w) || fieldOf (wordAt ws (w + 1)) 63 7 != 0) ||
      pvaBad (wordAt ws 17) || fieldOf (wordAt ws 18) 63 2 != 0 || [19, 20, 21, 22, 23].any fun w => wordAt ws w != 0 }

/-- Stream `k` of 0–5: I0–I3, then O0 and O1. -/
def streamAt (l : List Stream) (k : Nat) : Stream := l.getD k { base := 0, fmt := 0, g := 1, en := false }

/-- Step 6 of R262 for one span: alignment and extent are checked by the caller. -/
def spanChecks (n : Node) (ctx pva len : Nat) (bad : Bool) (right : Range → Bool) : List (Bool × Nat) :=
  [(bad || !spanHomed n ctx pva len, stInvalid), (spanRevoked n ctx pva len, stRevoked),
   (!spanGranted n ctx pva len right, stDenied)]

/-- Step 7 of R262: streams and program at odds. -/
def runClash (q : RunParams) (count : Nat) (ms : List MicroOp) : Bool :=
  let ins := q.streams.take 4
  let outs := q.streams.drop 4
  let named := (List.range 4).any (fun k => (loads ms k).any fun m => !(streamAt ins k).en || (streamAt ins k).g ≤ m.mod / 4) ||
    (List.range 2).any (fun k => (storesTo ms k).any fun m => !(streamAt outs k).en || (streamAt outs k).g ≤ m.mod / 4)
  let o0 := streamAt outs 0
  let o1 := streamAt outs 1
  let overlap := (o0.en && o1.en && streamsMeet count o0 o1) ||
    outs.any fun o => o.en && ins.any fun i => i.en && streamsMeet count o i && !inPlace o i
  let missed := (List.range 2).any fun k =>
    let o := streamAt outs k
    o.en && !(ins.any (inPlace o)) && (List.range o.g).any fun c => !(storesTo ms k).any fun m => m.mod / 4 == c
  let red := q.redEn && q.streams.any fun st => st.en && spansMeet q.redPva 16 st.base (streamExtent st count)
  let pen := (List.range 2).any fun k => fmtIsBlock (streamAt outs k).fmt && (streamAt outs k).en &&
    (storesTo ms k).any (·.pen)
  !(q.streams.any (·.en)) || named || overlap || missed || red || pen

/-- Steps 6 and 7 of R262. -/
def runChecks (n : Node) (ctx count : Nat) (q : RunParams) (ms : List MicroOp) : List (Bool × Nat) :=
  ((q.streams.zipIdx).flatMap fun e =>
    if !e.1.en then []
    else spanChecks n ctx e.1.base (streamExtent e.1 count) (streamBad e.1 count) fun r => if e.2 < 4 then r.r else r.w) ++
  (if q.redEn then spanChecks n ctx q.redPva 16 (q.redPva % 16 != 0 || decide (2 ^ 57 < q.redPva + 16)) (·.w) else []) ++
  [(runClash q count ms, stInvalid)]

/-! ### Starting a run (R261, R262, R280) -/

/-- Reserved fields of PROGRAM_RUN; EPOCH_SRC 1 belongs to fired runs alone. -/
def runReserved (c : Cmd) : Bool :=
  cmdCtx c == 0 || fieldOf (dword c 3) 15 10 != 0 || fieldOf (dword c 3) 31 17 != 0 || pvaBad (dword c 4) ||
  fieldOf (dword c 4) 5 0 != 0 || fieldOf (dword c 5) 47 40 != 0 || dword c 6 != 0 || dword c 7 != 0 ||
  (bitOf (dword c 3) 16 && !c.fired)

/-- The run's epoch (R281). -/
def runEpoch (c : Cmd) (fired : Option Firing) : Nat :=
  let own := fieldOf (dword c 5) 63 48
  if bitOf (dword c 3) 16 then ((fired.bind (·.epoch)).getD own) else own

/-- Starts a run whose command has reached its turn. The node is unchanged but for what it fetches while the parameter
block is on its way. -/
def beginRun (n : Node) (tid : Nat) (c : Cmd) (fired : Option Firing) : Node :=
  let ctx := cmdCtx c
  let slot := progSlot n (fieldOf (dword c 3) 9 0)
  let count := fieldOf (dword c 5) 39 0
  let pva := (dword c 4).toNat
  checked n tid c (runReserved c)
    [(slot.owner == 0 || slot.pgen != fieldOf (dword c 3) 63 32, stInvalid), (slot.owner != ctx, stDenied)] fun _ =>
    if count = 0 then endCmd n tid stOK 0 0
    else if !spanHomed n ctx pva 192 then refuseCmd n tid stInvalid
    else if decide (256 ≤ n.prog.runs.length) then n
    else
      let f := engineReadPrep n ctx pva 192
      let q := paramsOf (bytesToWords 24 (spanBytes f.1 ctx pva 192))
      if f.2 = .noKey then refuseCmd f.1 tid stInternal
      else if f.2 = .waits then f.1
      else
        match firstStatus ([(q.reserved, stInvalid), (!spanGranted n ctx pva 192 (·.r), stDenied),
            (spanPoisoned f.1 ctx pva 192, stPoisoned)] ++ runChecks n ctx count q (slot.code.map microOp)) with
        | some st => refuseCmd f.1 tid st
        | none =>
          let run : ProgRun :=
            { tid := tid, ctx := ctx, code := slot.code, streams := q.streams, consts := q.consts,
              seed := (q.seed + (if q.seedAdv then (fired.map (·.n)).getD 0 else 0)) % 2 ^ 64, redPva := q.redPva,
              redEn := q.redEn, count := count, epoch := runEpoch c fired, done := [], tiles := [], accs := [], ovf := 0,
              nans := 0, bytes := 0, poisoned := false, aborted := false, redDone := false, fwds := [],
              arming := fired.map (·.arming) }
          let n := { f.1 with prog := { f.1.prog with runs := Tbl.put f.1.prog.runs tid run } }
          runStage (bump n (progCounter 0) 1) tid 0 []

/-- PROGRAM_RUN, from a ring or fired. -/
def programRun (tid : Nat) (n : Node) : Node := startCmd n tid 0x39 fun c => beginRun n tid c none

/-- PROGRAM_RUN. -/
def execProgramRun (tid : Nat) (s : State) : Host.Outcome State Fault Refusal := .next (onNode s (programRun tid))

/-! ### Firings (R166, R280) -/

/-- A run of the arming has not completed, or an earlier firing of it waits. -/
def armingBusy (n : Node) (arming : Nat) : Bool :=
  n.trk.cmds.any fun c => c.2.fired && c.2.work.head? == some arming && !cmdCompleted c.2

/-- The descriptor at RUN_PVA can be read by the owner's context (R166). -/
def runReadable (n : Node) (f : Firing) : Bool :=
  f.runPva % 64 == 0 && spanGranted n f.ctx f.runPva 64 (·.r) && !spanRevoked n f.ctx f.runPva 64

/-- A firing leaves the list of those that wait. -/
def dropFiring (n : Node) (f : Firing) : Node := { n with prog := { n.prog with firings := n.prog.firings.erase f } }

/-- Tries to start a firing: its descriptor is read and run as a PROGRAM_RUN in a tracker of its own. A descriptor that
cannot be read is logged and runs nothing; one that fails the checks is logged and completes with its status. The command
keeps the arming's number. -/
def fireOne (n : Node) (f : Firing) : Node :=
  if armingBusy n f.arming || decide (256 ≤ n.prog.runs.length) then n
  else
    let log := fun (n : Node) => logEvent n { otherEvent 3 4 with uclass := 1, ctx := f.ctx, data0 := f.counter, data1 := f.runPva }
    if !runReadable n f then log (dropFiring n f)
    else
      let p := engineReadPrep n f.ctx f.runPva 64
      if p.2 = .waits then p.1
      else if p.2 = .noKey || spanPoisoned p.1 f.ctx f.runPva 64 then log (dropFiring p.1 f)
      else
        let desc := bytesToWords 8 (spanBytes p.1 f.ctx f.runPva 64)
        let tid := p.1.trk.nextTid
        let c : Cmd :=
          { ring := f.ctx, fired := true, slot := (Config.freeWord p.1.free).toNat % 65536, desc := desc, writer := 0,
            region := f.ctx % 8, order := tid, phase := .consumed, status := 0, result0 := 0, word3 := 0, landed := 0,
            setErr := false, stage := 0, work := [f.arming], waits := [], mirrored := false }
        let n' := setCmd { stepFree p.1 with trk := { p.1.trk with nextTid := tid + 1 } } tid c
        let n'' := if cmdOp c = 0x39 then beginRun n' tid c (some f) else refuseCmd n' tid stInvalid
        match cmdOf n'' tid with
        | none => n
        | some d =>
          if d.phase = .consumed then
            { n'' with trk := { n''.trk with cmds := Tbl.del n''.trk.cmds tid, nextTid := tid } }
          else
            let n'' := dropFiring (setCmd n'' tid { d with work := [f.arming] }) f
            if d.phase = .ended && d.status != stOK then log n'' else n''

/-- Starts the firings that can start, in order; one that cannot is counted once as having waited (R280). -/
def startFirings (n : Node) : Node :=
  n.prog.firings.foldl (fun n f =>
    let n := fireOne n f
    if n.prog.firings.contains f && !f.waited then
      let fs := n.prog.firings.map fun g => if g == f then { f with waited := true } else g
      bump { n with prog := { n.prog with firings := fs } } (progCounter 4) 1
    else n) n

/-- A waiting firing of an arming may start (R280). -/
def firingResume (arming : Nat) (n : Node) : Node :=
  match n.prog.firings.find? fun f => f.arming == arming with
  | none => n
  | some f => if accepting n then fireOne n f else n

/-- PROGRAM_FIRING_RESUME. -/
def execProgramFiringResume (arming : Nat) (s : State) : Host.Outcome State Fault Refusal :=
  .next (onNode s (firingResume arming))

/-! ### Blocks (R275–R279) -/

/-- The bytes of stream `st` that block `blk` covers: spans of PVA and length. -/
def blockSpans (st : Stream) (count blk : Nat) : List (Nat × Nat) :=
  let k := min 64 (count - 64 * blk)
  if fmtIsBlock st.fmt then
    let groups := ceilDiv k 32
    let sz := 4 * fmtBits st.fmt
    [(st.base + 2 * blk * sz, groups * sz), (scaleBase st count + 2 * blk, groups)]
  else [(st.base + 64 * blk * st.g * elemBytes st.fmt, k * st.g * elemBytes st.fmt)]

/-- The home tile of a PVA of a context. -/
def pvaTile (n : Node) (ctx pva : Nat) : Nat := ((rangeFor n ctx pva).map fun r => homeTile n (lineAt r pva)).getD 0

/-- The tile that runs a block: the home of the anchor stream's first byte for it (R275). -/
def blockTile (n : Node) (run : ProgRun) (blk : Nat) : Nat :=
  let order := [4, 5, 0, 1, 2, 3]
  match order.find? fun k => (streamAt run.streams k).en with
  | none => 0
  | some k =>
    match (blockSpans (streamAt run.streams k) run.count blk).head? with
    | none => 0
    | some sp => pvaTile n run.ctx sp.1

/-- A line as a tile reads it: its own, its copy of another tile's line, or a fresh copy of it (R201, R275). -/
def tileLine (n : Node) (ctx : Nat) (r : Range) (line tile : Nat) (keep : Bool) : Node × Bytes :=
  if homeTile n line = tile then (n, lineData n line)
  else
    match (Tbl.getD n.coh.opbuf tile []).find? fun c => c.line == line && c.ctx == ctx with
    | some c => (n, c.data)
    | none => (if keep || r.nc then lendLine n ctx line tile r.nc else n, lineData n line)

/-- Bytes of a span as a tile reads them; `stored`: lines that the block itself will store to. -/
def tileRead (n : Node) (ctx tile pva len : Nat) (stored : List Nat) : Node × Bytes :=
  (lineParts pva len).foldl (fun (a : Node × Bytes) q =>
    match rangeFor a.1 ctx q.1 with
    | none => (a.1, a.2 ++ List.replicate q.2 0)
    | some r =>
      let line := lineAt r q.1
      let t := tileLine a.1 ctx r line tile (!stored.contains line)
      (t.1, a.2 ++ (t.2.drop (q.1 % 64)).take q.2)) (n, [])

/-- One element as LD gives it (R256). -/
def loadElem (fmt code : Nat) : LaneOut :=
  if fmt = 0x0 || fmt = 0xB then quiet code
  else if fmt = 0xA then quiet (ofSigned 32 (toSigned 8 code))
  else if fmt = 0xC then
    let r := satSigned 32 (toSigned 64 code)
    ⟨r.1, bit01 r.2, 0⟩
  else match fmtFloat? fmt with
    | some f => quiet (putF .rne (ffDecode f code)).code
    | none => quiet 0

/-- The 64 lanes that LD gives for a component of a block's bytes: spans as `blockSpans` names them. -/
def loadLanes (st : Stream) (count blk : Nat) (bs : List Bytes) (comp : Nat) : List LaneOut :=
  let k := min 64 (count - 64 * blk)
  if fmtIsBlock st.fmt then
    let sz := 4 * fmtBits st.fmt
    let elems := bs.getD 0 []
    let scales := bs.getD 1 []
    (List.range 64).map fun j =>
      if k ≤ j then quiet 0
      else
        let codes := unpackElems (fmtBits st.fmt) 32 ((elems.drop (j / 32 * sz)).take sz)
        let v := (blockValues st.fmt ⟨(scales.getD (j / 32) 0).toNat, [codes.getD (j % 32) 0]⟩).getD 0 .nan
        let r := putF .rne v
        laneOf r
  else
    let sz := elemBytes st.fmt
    (List.range 64).map fun j =>
      if k ≤ j then quiet 0 else loadElem st.fmt (numAt (bs.getD 0 []) ((j * st.g + comp) * sz) sz)

/-- One lane as ST writes it: the element's code, with its overflow and NaN counts (R256, R272). -/
def storeElem (fmt : Nat) (mode : RMode) (x : Nat) : LaneOut :=
  if fmt = 0x0 then ⟨x, 0, bit01 (fvIsNan (laneF x))⟩
  else if fmt = 0xB then quiet x
  else if fmt = 0xC then quiet (ofSigned 64 (toSigned 32 x))
  else if fmt = 0xA then
    let r := satSigned 8 (toSigned 32 x)
    ⟨r.1, bit01 r.2, 0⟩
  else match fmtFloat? fmt with
    | some f =>
      let r := ffRound f mode (laneF x)
      ⟨r.code, bit01 r.ovf, bit01 r.isNan⟩
    | none => quiet 0

/-- What an ST adds to a block's patch, with its counts (R256, R271). -/
def storePatch (st : Stream) (count blk seed : Nat) (p : Patch) (comp mask : Nat) (xs : List Nat) (rnd : Nat) :
    Patch × Nat × Nat :=
  let k := min 64 (count - 64 * blk)
  let mode := fun (j : Nat) => roundOf rnd seed ((64 * blk + j) * st.g + comp)
  if fmtIsBlock st.fmt then
    let sz := 4 * fmtBits st.fmt
    (List.range (ceilDiv k 32)).foldl (fun (a : Patch × Nat × Nat) h =>
      let vs := (List.range 32).map fun i =>
        if mask.testBit (32 * h + i) then laneF (xs.getD (32 * h + i) 0) else .fin false 0 0
      let q := quantiseBlock st.fmt (fun i => mode (32 * h + i)) vs
      let p := putBytes a.1 (st.base + (2 * blk + h) * sz) (packElems (fmtBits st.fmt) q.block.elems)
      (putBytes p (scaleBase st count + 2 * blk + h) (leBytes 1 q.block.scale), a.2.1 + q.ovf, a.2.2 + q.nans)) (p, 0, 0)
  else
    let sz := elemBytes st.fmt
    ((List.range 64).filter fun j => mask.testBit j).foldl (fun (a : Patch × Nat × Nat) j =>
      let e := storeElem st.fmt (mode j) (xs.getD j 0)
      (putBytes a.1 (st.base + ((64 * blk + j) * st.g + comp) * sz) (leBytes sz e.val), a.2.1 + e.ovf, a.2.2 + e.nans))
      (p, 0, 0)

/-- The bytes a block stores to one output stream, with the counts of its STs. -/
def outputPatch (run : ProgRun) (blk k : Nat) (b : BlockRegs) : Patch × Nat × Nat :=
  let st := streamAt run.streams (4 + k)
  (b.stores.filter fun e => e.1 == k).foldl (fun (a : Patch × Nat × Nat) e =>
    let r := storePatch st run.count blk run.seed a.1 e.2.1 e.2.2.1 e.2.2.2.1 e.2.2.2.2.1
    (r.1, a.2.1 + r.2.1, a.2.2 + r.2.2)) ([], 0, 0)

/-- A tile's copy of the accumulators with a block's contributions added (R273). -/
def addContribution (ms : List MicroOp) (old : List Nat) (new : List (Option Nat)) : List Nat :=
  (List.range 4).map fun a =>
    match new.getD a none, ms.find? fun m => decide (0x38 ≤ m.opc ∧ m.opc ≤ 0x3A) && m.vd == a with
    | some x, some m => reduceTwo m.opc (old.getD a 0) x
    | _, _ => old.getD a 0

/-- The accumulators before any contribution (R273). -/
def accsStart (ms : List MicroOp) : List Nat :=
  (List.range 4).map fun a =>
    match ms.find? fun m => decide (0x38 ≤ m.opc ∧ m.opc ≤ 0x3A) && m.vd == a with
    | some m => accStart m.opc
    | none => 0

/-- The node with a run replaced. -/
def setRun (n : Node) (tid : Nat) (r : ProgRun) : Node := { n with prog := { n.prog with runs := Tbl.put n.prog.runs tid r } }

/-- Blocks of a run. -/
def runBlocks (r : ProgRun) : Nat := ceilDiv r.count 64

/-- The lines that some spans touch are at hand for a tile's read. -/
def prepSpans (n : Node) (ctx : Nat) (spans : List (Nat × Nat)) : Node × Fetch :=
  spans.foldl (fun (a : Node × Fetch) sp =>
    let f := engineReadPrep a.1 ctx sp.1 sp.2
    (f.1, worseFetch a.2 f.2)) (n, .ready)

/-- Computes a block on its tile, from lines that are all at hand: its registers after the last micro-op. -/
def computeBlock (n : Node) (run : ProgRun) (blk tile : Nat) (stored : List Nat) : Node × BlockRegs :=
  let ms := run.code.map microOp
  let ins := (List.range 4).filter fun k => (streamAt run.streams k).en && !(loads ms k).isEmpty
  let read := ins.foldl (fun (a : Node × Tbl (List Bytes)) k =>
    let t := (blockSpans (streamAt run.streams k) run.count blk).foldl (fun (b : Node × List Bytes) sp =>
      let r := tileRead b.1 run.ctx tile sp.1 sp.2 stored
      (r.1, b.2 ++ [r.2])) (a.1, [])
    (t.1, Tbl.put a.2 k t.2)) (n, [])
  let rd : StreamReader := fun k comp => loadLanes (streamAt run.streams k) run.count blk (Tbl.getD read.2 k []) comp
  (read.1, runBlock run.code run.consts run.seed blk (activeMask run.count blk) rd)

/-- A block ends without committing: the run will be POISONED, or is short of a key (R284, R92). -/
def failBlock (n : Node) (tid : Nat) (run : ProgRun) (blk : Nat) (lost : Bool) : Node :=
  setRun n tid { run with done := run.done ++ [blk], poisoned := run.poisoned || !lost, aborted := run.aborted || lost }

/-- The input streams that a run's program reads. -/
def runInputs (run : ProgRun) : List Nat :=
  (List.range 4).filter fun k => (streamAt run.streams k).en && !(loads (run.code.map microOp) k).isEmpty

/-- The spans of a block's inputs. -/
def inputSpans (run : ProgRun) (blk : Nat) : List (Nat × Nat) :=
  (runInputs run).flatMap fun k => blockSpans (streamAt run.streams k) run.count blk

/-- What a block stores to O0 and O1, with the counts of its STs. -/
def blockOuts (n : Node) (run : ProgRun) (blk : Nat) : (Patch × Nat × Nat) × (Patch × Nat × Nat) :=
  let dry := (computeBlock n run blk (blockTile n run blk) []).2
  (outputPatch run blk 0 dry, outputPatch run blk 1 dry)

/-- The tile's first block of a run drops its NC operand copies of the context (R278). -/
def joinTile (n : Node) (tid : Nat) (run : ProgRun) (tile : Nat) : Node × ProgRun :=
  if run.tiles.contains tile then (n, run)
  else
    let run := { run with tiles := run.tiles ++ [tile] }
    (setRun (dropNc n tile run.ctx) tid run, run)

/-- Every line that a block reads or stores to is at hand. -/
def prepBlock (n : Node) (run : ProgRun) (blk : Nat) : Node × Fetch :=
  let f := prepSpans n run.ctx (inputSpans run blk)
  if f.2 != .ready then f
  else
    let o := blockOuts f.1 run blk
    let g := patchPrep f.1 run.ctx (.program run.epoch) o.1.1
    let h := patchPrep g.1 run.ctx (.program run.epoch) o.2.1
    (h.1, worseFetch g.2 h.2)

/-- A block would read a poisoned line, or store to part of one (R284). -/
def blockPoisoned (n : Node) (run : ProgRun) (blk : Nat) : Bool :=
  let o := blockOuts n run blk
  (inputSpans run blk).any (fun sp => spanPoisoned n run.ctx sp.1 sp.2) || patchPoisoned n run.ctx o.1.1 || patchPoisoned n run.ctx o.2.1

/-- A block whose lines are all at hand computes, and commits its outputs, O0 then O1 (R276). -/
def commitBlock (n : Node) (tid : Nat) (run : ProgRun) (blk : Nat) : Node :=
  let tile := blockTile n run blk
  let o := blockOuts n run blk
  let org : Origin := .program run.epoch
  let stored := (patchLines o.1.1 ++ patchLines o.2.1).filterMap fun l => (rangeFor n run.ctx l.1).map fun r => lineAt r l.1
  let c := computeBlock n run blk tile stored
  let i : FwdInfo := { ownInfo c.1 run.ctx with epoch := run.epoch }
  let a := patchCommit c.1 run.ctx org (.cmdForward tid) i o.1.1
  let b := patchCommit a.1 run.ctx org (.cmdForward tid) i o.2.1
  let ms := run.code.map microOp
  let accs := addContribution ms (Tbl.getD run.accs tile (accsStart ms)) c.2.accs
  let run := { run with
    done := run.done ++ [blk], accs := Tbl.put run.accs tile accs, ovf := run.ovf + c.2.ovf + o.1.2.1 + o.2.2.1,
    nans := run.nans + c.2.nans + o.1.2.2 + o.2.2.2, bytes := run.bytes + o.1.1.length + o.2.1.length,
    fwds := run.fwds ++ a.2 ++ b.2 }
  bump (setRun b.1 tid run) (progCounter 1) 1

/-- A block of a run may begin: it has not run, its tile serves, and the module accepts. -/
def blockDue (n : Node) (run : ProgRun) (blk : Nat) : Bool :=
  let tile := blockTile n run blk
  !run.aborted && !run.done.contains blk && decide (blk < runBlocks run) && accepting n &&
    (getAt n.flt.tiles tile TileHealth.reset).leaving.isNone && !(getAt n.flt.regions (tile / 8) RegionState.reset).resetting

/-- A tile runs one block of a run: it reads every line it needs, computes, and commits its outputs. While a line is on its
way, the block has not begun. -/
def programBlock (tid blk : Nat) (n : Node) : Node :=
  match Tbl.find? n.prog.runs tid with
  | none => n
  | some run =>
    if !blockDue n run blk then n
    else
      let j := joinTile n tid run (blockTile n run blk)
      let f := prepBlock j.1 j.2 blk
      if f.2 = .noKey then failBlock f.1 tid j.2 blk true
      else if f.2 = .waits then f.1
      else if blockPoisoned f.1 j.2 blk then failBlock f.1 tid j.2 blk false
      else commitBlock f.1 tid j.2 blk

/-- PROGRAM_BLOCK. -/
def execProgramBlock (tid block : Nat) (s : State) : Host.Outcome State Fault Refusal := .next (onNode s (programBlock tid block))

/-! ### The end of a run (R263, R273, R283, R284) -/

/-- Inserts a tile by the key of an order of combination. -/
def insertTile (free t : Nat) : List Nat → List Nat
  | [] => [t]
  | u :: us => if Config.tileKey free t < Config.tileKey free u then t :: u :: us else u :: insertTile free t us

/-- The accumulators of a run: the tiles' copies combined in no fixed order. One that a sum and a maximum both name has no
stated value. -/
def runAccs (n : Node) (run : ProgRun) : List Nat :=
  let ms := run.code.map microOp
  let order := (Tbl.keysOf run.accs).foldl (fun l t => insertTile n.free t l) []
  (List.range 4).map fun a =>
    let named := ms.filter fun m => decide (0x38 ≤ m.opc ∧ m.opc ≤ 0x3A) && m.vd == a
    match named.head? with
    | none => 0
    | some m =>
      if named.any fun k => k.opc != m.opc then (Config.freeWord (n.free + 1 + a)).toNat % 2 ^ 32
      else order.foldl (fun acc t => reduceTwo m.opc acc ((Tbl.getD run.accs t []).getD a 0)) (accStart m.opc)

/-- The run ends: its command takes its status and its run slot is free (R263). -/
def closeRun (n : Node) (tid : Nat) (run : ProgRun) (accs : List Nat) : Node :=
  let n := { n with prog := { n.prog with runs := Tbl.del n.prog.runs tid }, free := n.free + 5 }
  let st := if run.aborted then (if run.bytes = 0 then stInternal else stPartial)
    else if run.poisoned then stPoisoned else stOK
  let n := if st = stOK then n else bump n (progCounter 5) 1
  let n := match cmdOf n tid with
    | some c => setCmd n tid { c with setErr := c.setErr || run.aborted, stage := run.epoch + 1 }
    | none => n
  endCmd n tid st
    (if st = stOK then wordOf (accs.getD 0 0 + accs.getD 1 0 * 2 ^ 32) else wordOf run.bytes)
    (wordOf (countsWord run.ovf run.nans))

/-- Every block of a run has finished and every committed line is visible: the accumulators are combined, written to
RED_PVA where asked, and the command ends (R273, R278). -/
def runComplete (tid : Nat) (n : Node) : Node :=
  match Tbl.find? n.prog.runs tid with
  | none => n
  | some run =>
    let finished := run.aborted || decide (run.done.length = runBlocks run)
    let resync := n.coh.mdirty.any fun m => m.2.cmds.contains tid
    if !finished || !run.fwds.isEmpty || resync || !accepting n then n
    else
      let accs := runAccs n run
      if run.redEn && !run.redDone && !run.aborted && !run.poisoned then
        let bs := accs.flatMap (leBytes 4)
        let org : Origin := .program run.epoch
        let f := engineStorePrep n run.ctx run.redPva 16 org
        if f.2 = .noKey then closeRun f.1 tid { run with aborted := true } accs
        else if f.2 = .waits then f.1
        else if spanPoisoned f.1 run.ctx run.redPva 16 then closeRun f.1 tid { run with poisoned := true } accs
        else
          let i : FwdInfo := { ownInfo f.1 run.ctx with epoch := run.epoch }
          let c := engineCommit f.1 run.ctx run.redPva org (.cmdForward tid) i bs
          if c.2.isEmpty then closeRun c.1 tid run accs
          else
            -- the record of what was written stays with the run until its forwards are answered
            setRun c.1 tid { run with redDone := true, fwds := c.2, accs := [(0, accs)], tiles := [0] }
      else if run.redDone then closeRun n tid run ((Tbl.getD run.accs 0 accs))
      else closeRun n tid run accs

/-- PROGRAM_RUN_COMPLETE. -/
def execProgramRunComplete (tid : Nat) (s : State) : Host.Outcome State Fault Refusal := .next (onNode s (runComplete tid))

end Sys2Proof.Machine
end

