-- ==== Sys2Proof/Machine/MapOps.lean ====
section
/-! DEFINITION. Map images as bytes, fetching a map, and the routing of the module's own requests (R407, R411, R624). -/

namespace Sys2Proof.Machine

/-! ### Images (R407) -/

/-- The header words of an image, CHECK left 0. -/
def imageHeader (m : MapImage) : List Word :=
  [wordOf (m.ctx + m.gen * 2 ^ 32), wordOf m.entries.length,
   wordOf (m.keepers.getD 0 0 + m.keepers.getD 1 0 * 2 ^ 16 + m.keepers.getD 2 0 * 2 ^ 32), 0, 0, 0, 0, 0]

/-- The entry bytes of an image. -/
def entryBytes (m : MapImage) : Bytes := m.entries.flatMap fun e => wordsToBytes (mapEntryWords e)

/-- An image's bytes: the header with its CHECK, then the entries. -/
def mapBytes (m : MapImage) : Bytes :=
  let h := (wordsToBytes (imageHeader m)).take 60
  let es := entryBytes m
  h ++ leBytes 4 (crc32c (h ++ es)) ++ es

/-- A map entry or operation from its four words. -/
def mapEntryOf (ws : List Word) : MapEntry :=
  { start := fieldOf (wordAt ws 0) 56 0, chunks := fieldOf (wordAt ws 1) 31 0, primary := fieldOf (wordAt ws 2) 15 0,
    mirror := fieldOf (wordAt ws 2) 31 16, egen := fieldOf (wordAt ws 3) 31 0, lost := bitOf (wordAt ws 3) 32,
    op := fieldOf (wordAt ws 3) 34 33 }

/-- Reads an image; none where its CHECK or its size does not match. -/
def mapOfBytes (bs : Bytes) : Option MapImage :=
  let h := bytesToWords 8 bs
  let next := fieldOf (wordAt h 1) 16 0
  let es := (bs.drop 64).take (32 * next)
  if bs.length < 64 || es.length ≠ 32 * next || 65536 < next then none
  else if numAt bs 60 4 ≠ crc32c (bs.take 60 ++ es) then none
  else
    some { ctx := fieldOf (wordAt h 0) 15 0, gen := fieldOf (wordAt h 0) 63 32,
           keepers := [fieldOf (wordAt h 2) 15 0, fieldOf (wordAt h 2) 31 16, fieldOf (wordAt h 2) 47 32]
           entries := (List.range next).map fun i => mapEntryOf (bytesToWords 4 (es.drop (32 * i))) }

/-- Map generation `a` is newer than `b` (R407). -/
def mapNewer (a b : Nat) : Bool := a != 0 && (b == 0 || serialLt 32 b a)

/-! ### Fetching (R411, R418, R624) -/

/-- A fetch for a context is under way. -/
def fetching (n : Node) (ctx : Nat) : Bool :=
  n.prs.pairs.any fun q => q.2.sent.any fun u => u.pkt.cls == 5 && u.pkt.opcode == 0x94 && numAt u.pkt.data 0 2 == ctx

/-- Fetches a context's map from a keeper the module knows, unless a fetch is under way. -/
def fetchMap (n : Node) (ctx : Nat) : Node :=
  if fetching n ctx then n
  else match leadKeeper n (((slotOf n ctx).map (·.keepers)).getD []) with
    | none => n
    | some k => sendPacket n (mgtPacket n k 0x94 [wordOf ctx, 0]) .protocol

/-! ### Routing (R624) -/

/-- Where an engine packet goes. -/
inductive Route where
  /-- The home of its PVA. -/
  | home (node : Nat)
  /-- No extent covers it, or no keeper is known: as if refused with DENIED. -/
  | nowhere
  /-- Its extent is marked LOST: as if ABORTED. -/
  | lost
  /-- The map must be fetched first. -/
  | wait
  deriving DecidableEq, Repr

/-- The entry of a list that covers a PVA. -/
def entryFor (es : List MapEntry) (pva : Nat) : Option MapEntry :=
  es.find? fun e => decide (e.start ≤ pva ∧ pva < e.start + e.chunks * 2 ^ 21)

/-- Routes a packet of the module's own engines. -/
def routeOf (n : Node) (ctx pva : Nat) : Route :=
  let of := fun (e : MapEntry) => if e.lost then Route.lost else if e.primary = 0 then .nowhere else .home e.primary
  match entryFor (((slotOf n ctx).map (·.kept)).getD []) pva with
  | some e => of e
  | none =>
    match Tbl.find? n.ctxs.images ctx with
    | some m => (match entryFor m.entries pva with
      | some e => of e
      | none => .nowhere)
    | none =>
      if (leadKeeper n (((slotOf n ctx).map (·.keepers)).getD [])).isNone then .nowhere else .wait

end Sys2Proof.Machine
end

