-- ==== Sys2Proof/Machine/Operands.lean ====
section
/-! DEFINITION. Tile descriptors, stored layouts and transfer images (R308–R315), and the conversion of elements between
formats (R309, R313). Everything here is a plain function of a descriptor and of bytes. -/

namespace Sys2Proof.Machine

/-! ### The descriptor (R308) -/

/-- A tile descriptor, with the PVA of its first stored byte. -/
structure TileDesc where
  pva : Nat
  fmt : Nat
  xfmt : Nat
  slay : Nat
  xlay : Nat
  dcomp : Bool
  rows : Nat
  cols : Nat
  pitch : Nat
  splane : Nat
  /-- A reserved bit is set. -/
  reserved : Bool
  deriving DecidableEq, Repr

/-- The descriptor that OPERAND words 5 and 6 spell. -/
def tileDesc (pva : Nat) (w5 w6 : Word) : TileDesc :=
  { pva := pva, fmt := fieldOf w5 3 0, xfmt := fieldOf w5 7 4, slay := fieldOf w5 10 8, xlay := fieldOf w5 13 11,
    dcomp := bitOf w5 14, rows := fieldOf w5 28 16, cols := fieldOf w5 44 32, pitch := fieldOf w6 31 0,
    splane := fieldOf w6 63 32,
    reserved := bitOf w5 15 || fieldOf w5 31 29 != 0 || fieldOf w5 63 45 != 0 }

/-- The block edge of a layout code; 0 for ROW and COL. -/
def layoutEdge : Nat → Nat
  | 2 => 16
  | 3 => 32
  | 4 => 64
  | _ => 0

/-- The minimum PITCH of a layout, in bytes (R310). -/
def minPitch (lay fmt rows cols : Nat) : Nat :=
  if lay = 0 then ceilDiv (cols * fmtBits fmt) 8
  else if lay = 1 then ceilDiv (rows * fmtBits fmt) 8
  else cols * layoutEdge lay * (fmtBits fmt / 8)

/-- Elements along a layout's contiguous dimension. -/
def lineElems (lay rows cols : Nat) : Nat := if lay = 1 then rows else cols

/-- A layout suits a format and a tile's size. -/
def layoutOk (lay fmt rows cols : Nat) : Bool :=
  decide (lay ≤ 4) &&
  (if lay ≤ 1 then !fmtIsBlock fmt || lineElems lay rows cols % 32 == 0
   else !fmtIsBlock fmt && rows % layoutEdge lay == 0 && cols % layoutEdge lay == 0)

/-- Bytes of the transfer image when its format is not block-scaled. -/
def plainImageBytes (d : TileDesc) : Nat := d.rows * d.cols * (fmtBits d.xfmt / 8)

/-- The module converts between two formats (R309). -/
def convertible (a b : Nat) : Bool := (decide (a ≤ 9) && decide (b ≤ 9)) || (fmtIsInt a && fmtIsInt b)

/-- DCOMP's conditions (R315). -/
def dcompOk (d : TileDesc) (p48 : Bool) : Bool :=
  d.fmt == d.xfmt && !fmtIsBlock d.fmt && d.slay == 0 && d.xlay == 0 && d.pitch == minPitch 0 d.fmt d.rows d.cols &&
  d.pva % 4096 == 0 && plainImageBytes d % 4096 == 0 && !p48

/-- The descriptor meets R308 to R311 and R315. -/
def descOk (d : TileDesc) (p48 : Bool) : Bool :=
  !d.reserved && fmtTileValid d.fmt && fmtTileValid d.xfmt && convertible d.fmt d.xfmt &&
  decide (1 ≤ d.rows ∧ d.rows ≤ 4096 ∧ 1 ≤ d.cols ∧ d.cols ≤ 4096) &&
  layoutOk d.slay d.fmt d.rows d.cols && layoutOk d.xlay d.xfmt d.rows d.cols &&
  decide (minPitch d.slay d.fmt d.rows d.cols ≤ d.pitch) &&
  (if 2 ≤ d.slay || fmtIsBlock d.fmt then d.pva % 64 == 0 else d.pva % max 1 (fmtBits d.fmt / 8) == 0) &&
  (fmtIsBlock d.fmt || d.splane == 0) && (!d.dcomp || dcompOk d p48)

/-! ### Places of elements (R310, R311) -/

/-- The place of an element within its block row, swizzled: the byte offset of column `j` of row `i`. -/
def swizzled (edge sz i j : Nat) : Nat :=
  let o := j * sz
  if 32 ≤ edge * sz then ((o / 16) ^^^ (i % (edge * sz / 16))) * 16 + o % 16 else o

/-- The byte offset of element (r, c) from the tile's first byte, in a format whose elements are whole bytes. -/
def elemOffset (lay fmt pitch r c : Nat) : Nat :=
  let sz := fmtBits fmt / 8
  if lay = 0 then r * pitch + c * sz
  else if lay = 1 then c * pitch + r * sz
  else
    let b := layoutEdge lay
    r / b * pitch + c / b * (b * b * sz) + r % b * (b * sz) + swizzled b sz (r % b) (c % b)

/-- The row and column of element `k` of the transfer image, in the image's byte order. -/
def imageElem (d : TileDesc) (k : Nat) : Nat × Nat :=
  if d.xlay = 0 then (k / d.cols, k % d.cols)
  else if d.xlay = 1 then (k % d.rows, k / d.rows)
  else
    let b := layoutEdge d.xlay
    let sz := fmtBits d.xfmt / 8
    let blk := k / (b * b)
    let i := k % (b * b) / b
    let j := swizzled b sz i (k % b) / sz
    (blk / (d.cols / b) * b + i, blk % (d.cols / b) * b + j)

/-- A stored scale group of a block-scaled tile (R311): line `k`, group `g`. -/
def storedGroup (d : TileDesc) (r c : Nat) : Nat × Nat := if d.slay = 0 then (r, c / 32) else (c, r / 32)

/-- The place of an element within its stored group. -/
def placeInGroup (d : TileDesc) (r c : Nat) : Nat := if d.slay = 0 then c % 32 else r % 32

/-- First byte of a stored group's elements. -/
def groupPva (d : TileDesc) (k g : Nat) : Nat := d.pva + k * d.pitch + g * (4 * fmtBits d.fmt)

/-- The byte that holds a stored group's scale. -/
def scalePva (d : TileDesc) (k g : Nat) : Nat :=
  d.pva + d.splane * 64 + k * (lineElems d.slay d.rows d.cols / 32) + g

/-- The spans of PVAs a stored tile occupies, in ascending lines of its layout. -/
def storedSpans (d : TileDesc) : List (Nat × Nat) :=
  let lines := if d.slay = 1 then d.cols else d.rows
  let len := lineElems d.slay d.rows d.cols
  if fmtIsBlock d.fmt then
    ((List.range lines).map fun k => (d.pva + k * d.pitch, len * fmtBits d.fmt / 8)) ++
      [(d.pva + d.splane * 64, lines * (len / 32))]
  else if d.slay ≤ 1 then (List.range lines).map fun k => (d.pva + k * d.pitch, len * (fmtBits d.fmt / 8))
  else
    let b := layoutEdge d.slay
    (List.range (d.rows / b)).map fun k => (d.pva + k * d.pitch, d.cols * b * (fmtBits d.fmt / 8))

/-! ### Bundles (R312) -/

/-- Scale groups of the transfer image. -/
def imageGroups (d : TileDesc) : Nat := d.rows * d.cols / 32

/-- Element bytes of one group of the transfer format. -/
def groupBytes (fmt : Nat) : Nat := 4 * fmtBits fmt

/-- Bytes of a full bundle. -/
def bundleBytes (fmt : Nat) : Nat := 64 + 32 * groupBytes fmt

/-- Groups of bundle `b`. -/
def bundleGroups (d : TileDesc) (b : Nat) : Nat := min 32 (imageGroups d - 32 * b)

/-- Bytes of bundle `b`. -/
def bundleLen (d : TileDesc) (b : Nat) : Nat := 64 + bundleGroups d b * groupBytes d.xfmt

/-- Bytes of the transfer image (R312). -/
def imageBytes (d : TileDesc) : Nat :=
  if fmtIsBlock d.xfmt then ceilDiv (imageGroups d) 32 * 64 + imageGroups d * groupBytes d.xfmt else plainImageBytes d

/-- The rows and columns of the 32 elements of transfer group `t`. -/
def imageGroup (d : TileDesc) (t : Nat) : List (Nat × Nat) :=
  let per := lineElems d.xlay d.rows d.cols / 32
  (List.range 32).map fun i => if d.xlay = 0 then (t / per, t % per * 32 + i) else (t % per * 32 + i, t / per)

/-- The bundles a packet at OFFSET with LEN carries whole; none when it carries anything else. -/
def wholeBundles (d : TileDesc) (off len : Nat) : Option (List Nat) :=
  let full := bundleBytes d.xfmt
  if off % full ≠ 0 then none
  else
    let first := off / full
    let total := ceilDiv (imageGroups d) 32
    let k := ceilDiv len full
    let bs := (List.range k).map fun i => first + i
    if first + k ≤ total && decide (0 < k) && ((bs.map (bundleLen d)).foldl (· + ·) 0 == len) then some bs else none

/-- A TILE_WRITE or TILE_ACC packet's OFFSET and LEN meet R313 and R315. -/
def trainOk (d : TileDesc) (off len : Nat) : Bool :=
  off % 64 == 0 &&
  (if d.dcomp then off % 4096 == 0 && (len == 4096 || (len % 512 == 0 && decide (len < 4096))) && decide (off + 4096 ≤ imageBytes d)
   else if fmtIsBlock d.xfmt then (wholeBundles d off len).isSome
   else len % max 1 (fmtBits d.xfmt / 8) == 0 && decide (off + len ≤ imageBytes d))

/-! ### Converting elements (R309, R222–R224) -/

/-- An element code of a format that is not block-scaled, converted: the code, its overflow and whether it counts as NaN.
An element whose format does not change keeps its code. -/
def convertPlain (src dst code : Nat) : Rounded :=
  match fmtFloat? dst with
  | some f =>
    if src = dst then ⟨code, false, fvIsNan (ffDecode f code)⟩
    else match fmtFloat? src with
      | some g => ffRound f .rne (ffDecode g code)
      | none => ⟨code, false, false⟩
  | none =>
    let r := satSigned (fmtBits dst) (toSigned (fmtBits src) code)
    ⟨r.1, r.2, false⟩

/-- An exact value rounded into a floating format that is not block-scaled. -/
def roundInto (dst : Nat) (v : FVal) : Rounded :=
  match fmtFloat? dst with
  | some f => ffRound f .rne v
  | none => ⟨0, false, false⟩

/-- The exact value of a floating element code of a format that is not block-scaled. -/
def valueOf (src code : Nat) : FVal :=
  match fmtFloat? src with
  | some f => ffDecode f code
  | none => .fin false 0 0

/-- NaN elements of a stored or carried group. -/
def groupNans (fmt : Nat) (b : ScaledBlock) : Nat := ((blockValues fmt b).filter fvIsNan).length

/-! ### What a packet stores (R236–R238, R313) -/

/-- One element that arrives: its row and column, and its code or value. -/
inductive Incoming where
  /-- A code in the transfer format. -/
  | code (r c x : Nat)
  /-- A value from a block-scaled transfer group. -/
  | value (r c : Nat) (v : FVal)
  deriving DecidableEq, Repr

/-- Row and column of an element that arrives. -/
def Incoming.place : Incoming → Nat × Nat
  | .code r c _ => (r, c)
  | .value r c _ => (r, c)

/-- One unit of commit: the part of the payload it takes, the elements, and the transfer groups it carries whole, each with
its block. -/
structure TileUnit where
  payOff : Nat
  payLen : Nat
  elems : List Incoming
  groups : List (Nat × ScaledBlock)
  deriving DecidableEq, Repr

/-- The 64-byte lines, by PVA, that an element's stored bytes touch. -/
def elemLines (d : TileDesc) (r c : Nat) : List Nat :=
  if fmtIsBlock d.fmt then
    let g := storedGroup d r c
    let a := groupPva d g.1 g.2
    let z := scalePva d g.1 g.2
    ([a / 64, (a + groupBytes d.fmt - 1) / 64, z / 64].map (· * 64)).eraseDups
  else
    let a := d.pva + elemOffset d.slay d.fmt d.pitch r c
    let z := a + fmtBits d.fmt / 8 - 1
    ([a / 64, z / 64].map (· * 64)).eraseDups

/-- What two neighbouring elements must share to be committed together: the stored line, for a block-scaled format the one in
which their groups begin (R238). -/
def commitKey (d : TileDesc) (r c : Nat) : List Nat :=
  if fmtIsBlock d.fmt then let g := storedGroup d r c; [groupPva d g.1 g.2 / 64] else elemLines d r c

/-- Runs of consecutive payload elements that are committed together. -/
def plainUnits (d : TileDesc) (base : Nat) : List Incoming → List TileUnit
  | [] => []
  | e :: es =>
    let sz := fmtBits d.xfmt / 8
    match plainUnits d (base + sz) es with
    | u :: us =>
      let same := match u.elems.head? with
        | some h => decide (commitKey d e.place.1 e.place.2 = commitKey d h.place.1 h.place.2)
        | none => false
      if same then { u with payOff := base, payLen := u.payLen + sz, elems := e :: u.elems } :: us
      else { payOff := base, payLen := sz, elems := [e], groups := [] } :: u :: us
    | [] => [{ payOff := base, payLen := sz, elems := [e], groups := [] }]

/-- One bundle as a unit of commit. -/
def bundleUnit (d : TileDesc) (payOff b : Nat) (bs : Bytes) : TileUnit :=
  let gs := (List.range (bundleGroups d b)).map fun i =>
    let codes := unpackElems (fmtBits d.xfmt) 32 ((bs.drop (64 + i * groupBytes d.xfmt)).take (groupBytes d.xfmt))
    (32 * b + i, ScaledBlock.mk (bs.getD i 0).toNat codes)
  { payOff := payOff, payLen := bundleLen d b,
    elems := gs.flatMap fun g =>
      List.zipWith (fun rc v => Incoming.value rc.1 rc.2 v) (imageGroup d g.1) (blockValues d.xfmt g.2)
    groups := gs }

/-- The units of commit of a packet's payload, in payload order (R238). `bs` are the image bytes the packet carries. -/
def tileUnits (d : TileDesc) (off : Nat) (bs : Bytes) : List TileUnit :=
  if fmtIsBlock d.xfmt then
    let go := ((wholeBundles d off bs.length).getD []).foldl (fun (a : List TileUnit × Nat) b =>
      (a.1 ++ [bundleUnit d a.2 b ((bs.drop a.2).take (bundleLen d b))], a.2 + bundleLen d b)) ([], 0)
    go.1
  else
    let sz := fmtBits d.xfmt / 8
    let first := off / max 1 sz
    plainUnits d 0 ((List.range (bs.length / max 1 sz)).map fun i =>
      let rc := imageElem d (first + i)
      .code rc.1 rc.2 (numAt' bs (i * sz) sz))
where
  /-- A little-endian number of `n` bytes at offset `o`. -/
  numAt' (bs : Bytes) (o n : Nat) : Nat := leNat ((bs.drop o).take n)

/-- The lines a unit touches, by PVA, in the order in which its elements name them. -/
def unitLines (d : TileDesc) (u : TileUnit) : List Nat := (u.elems.flatMap fun e => elemLines d e.place.1 e.place.2).eraseDups

/-- Bytes a tile request stores, with the elements it counts (R224). -/
structure TileBytes where
  /-- Bytes by PVA. -/
  bytes : Tbl Byte
  ovf : Nat
  nans : Nat
  deriving DecidableEq, Repr

/-- Lays bytes at a PVA. -/
def layBytes (t : Tbl Byte) (pva : Nat) : Bytes → Tbl Byte
  | [] => t
  | b :: bs => layBytes (Tbl.put t pva b) (pva + 1) bs

/-- The value an element brings, exactly. -/
def Incoming.exact (xfmt : Nat) : Incoming → FVal
  | .code _ _ x => valueOf xfmt x
  | .value _ _ v => v

/-- The stored code an element leaves in a format that is not block-scaled; `old` is the code there (R236, R309). -/
def newPlain (d : TileDesc) (acc : Bool) (old : Nat) (e : Incoming) : Rounded :=
  match e with
  | .code _ _ x => if acc then accElem d.fmt old x else convertPlain d.xfmt d.fmt x
  | .value _ _ v => roundInto d.fmt v

/-- Elements of a unit laid into a stored format that is not block-scaled. `get` reads a stored byte. -/
def storePlain (d : TileDesc) (acc : Bool) (get : Nat → Byte) (u : TileUnit) : TileBytes :=
  let sz := fmtBits d.fmt / 8
  u.elems.foldl (fun (t : TileBytes) e =>
    let a := d.pva + elemOffset d.slay d.fmt d.pitch e.place.1 e.place.2
    let old := leNat ((List.range sz).map fun i => get (a + i))
    let r := newPlain d acc old e
    { bytes := layBytes t.bytes a (leBytes sz r.code), ovf := t.ovf + bit01 r.ovf, nans := t.nans + bit01 r.isNan })
    { bytes := [], ovf := 0, nans := 0 }

/-- The stored groups a unit touches. -/
def unitGroups (d : TileDesc) (u : TileUnit) : List (Nat × Nat) :=
  (u.elems.map fun e => storedGroup d e.place.1 e.place.2).eraseDups

/-- A stored group as its bytes spell it. -/
def readGroup (d : TileDesc) (get : Nat → Byte) (k g : Nat) : ScaledBlock :=
  let bs := (List.range (groupBytes d.fmt)).map fun i => get (groupPva d k g + i)
  ⟨(get (scalePva d k g)).toNat, unpackElems (fmtBits d.fmt) 32 bs⟩

/-- A transfer group that is a stored group in the same format and needs no conversion. -/
def wholeGroup (d : TileDesc) (acc : Bool) (u : TileUnit) (k g : Nat) : Option ScaledBlock :=
  if acc || d.fmt != d.xfmt || d.slay != d.xlay then none
  else (u.groups.find? fun t => match (imageGroup d t.1).head? with
    | some rc => storedGroup d rc.1 rc.2 == (k, g)
    | none => false).map Prod.snd

/-- One stored group with the elements of a unit replaced or added into it, quantised again with a new scale
(R236, R313): the block, the overflows of the covered elements, and 32 for a NaN block. -/
def newGroup (d : TileDesc) (acc : Bool) (old : ScaledBlock) (es : List Incoming) : Quantised :=
  let ov := blockValues d.fmt old
  let vals := (List.range 32).map fun i =>
    let here := es.filter fun e => placeInGroup d e.place.1 e.place.2 == i
    match here.getLast? with
    | none => ov.getD i (.fin false 0 0)
    | some e =>
      let v := e.exact d.xfmt
      if acc then viaFP32 (fvAdd (ov.getD i (.fin false 0 0)) v) else v
  let q := quantiseBlock d.fmt (fun _ => .rne) vals
  let covered := (List.range 32).filter fun i => es.any fun e => placeInGroup d e.place.1 e.place.2 == i
  let inf := (covered.filter fun i => fvIsInf (vals.getD i .nan)).length
  { block := q.block, ovf := if q.block.scale = 0xFF then 0 else inf, nans := q.nans }

/-- Elements of a unit laid into a block-scaled stored format. -/
def storeGroups (d : TileDesc) (acc : Bool) (get : Nat → Byte) (u : TileUnit) : TileBytes :=
  (unitGroups d u).foldl (fun (t : TileBytes) kg =>
    let q : Quantised := match wholeGroup d acc u kg.1 kg.2 with
      | some b => ⟨b, 0, groupNans d.fmt b⟩
      | none => newGroup d acc (readGroup d get kg.1 kg.2)
          (u.elems.filter fun e => storedGroup d e.place.1 e.place.2 == kg)
    let bytes := layBytes t.bytes (groupPva d kg.1 kg.2) (packElems (fmtBits d.fmt) q.block.elems)
    { bytes := layBytes bytes (scalePva d kg.1 kg.2) (leBytes 1 q.block.scale), ovf := t.ovf + q.ovf,
      nans := t.nans + q.nans }) { bytes := [], ovf := 0, nans := 0 }

/-- What a unit stores over bytes that `get` reads. -/
def unitStore (d : TileDesc) (acc : Bool) (get : Nat → Byte) (u : TileUnit) : TileBytes :=
  if fmtIsBlock d.fmt then storeGroups d acc get u else storePlain d acc get u

/-- The bytes whose new value rests on the payload alone: elements of a plain format, groups that the unit covers whole. -/
def unitCovers (d : TileDesc) (u : TileUnit) : List Nat :=
  if fmtIsBlock d.fmt then
    (unitGroups d u).flatMap fun kg =>
      let n := ((u.elems.filter fun e => storedGroup d e.place.1 e.place.2 == kg).map fun e =>
        placeInGroup d e.place.1 e.place.2).eraseDups.length
      if n = 32 then
        ((List.range (groupBytes d.fmt)).map fun i => groupPva d kg.1 kg.2 + i) ++ [scalePva d kg.1 kg.2] else []
  else
    u.elems.flatMap fun e =>
      (List.range (fmtBits d.fmt / 8)).map fun i => d.pva + elemOffset d.slay d.fmt d.pitch e.place.1 e.place.2 + i

/-! ### What a TILE_READ returns (R314) -/

/-- The exact value of a stored element. -/
def storedValue (d : TileDesc) (get : Nat → Byte) (r c : Nat) : FVal :=
  if fmtIsBlock d.fmt then
    let g := storedGroup d r c
    (blockValues d.fmt (readGroup d get g.1 g.2)).getD (placeInGroup d r c) .nan
  else
    let sz := fmtBits d.fmt / 8
    valueOf d.fmt (leNat ((List.range sz).map fun i => get (d.pva + elemOffset d.slay d.fmt d.pitch r c + i)))

/-- A stored element converted into the transfer format, where that is not block-scaled. -/
def readPlain (d : TileDesc) (get : Nat → Byte) (r c : Nat) : Rounded :=
  if fmtIsBlock d.fmt then roundInto d.xfmt (storedValue d get r c)
  else
    let sz := fmtBits d.fmt / 8
    convertPlain d.fmt d.xfmt (leNat ((List.range sz).map fun i => get (d.pva + elemOffset d.slay d.fmt d.pitch r c + i)))

/-- A transfer group as a TILE_READ builds it: copied where the format and its direction are the stored ones. -/
def readImageGroup (d : TileDesc) (get : Nat → Byte) (t : Nat) : Quantised :=
  let rcs := imageGroup d t
  if d.fmt = d.xfmt && d.slay = d.xlay then
    match rcs.head? with
    | some rc =>
      let g := storedGroup d rc.1 rc.2
      let b := readGroup d get g.1 g.2
      ⟨b, 0, groupNans d.fmt b⟩
    | none => ⟨⟨0, []⟩, 0, 0⟩
  else quantiseBlock d.xfmt (fun _ => .rne) (rcs.map fun rc => storedValue d get rc.1 rc.2)

/-- One bundle of a transfer image, with its counts. -/
def imageBundle (d : TileDesc) (get : Nat → Byte) (b : Nat) : Bytes × Nat × Nat :=
  let qs := (List.range (bundleGroups d b)).map fun i => readImageGroup d get (32 * b + i)
  let scales := qs.map fun q => BitVec.ofNat 8 q.block.scale
  (sliceOf scales 0 64 ++ qs.flatMap fun q => packElems (fmtBits d.xfmt) q.block.elems,
   (qs.map (·.ovf)).foldl (· + ·) 0, (qs.map (·.nans)).foldl (· + ·) 0)

/-- The transfer image of a stored tile, with OVF_COUNT and NAN_COUNT. -/
def transferImage (d : TileDesc) (get : Nat → Byte) : Bytes × Nat × Nat :=
  if fmtIsBlock d.xfmt then
    (List.range (ceilDiv (imageGroups d) 32)).foldl (fun (a : Bytes × Nat × Nat) b =>
      let x := imageBundle d get b
      (a.1 ++ x.1, a.2.1 + x.2.1, a.2.2 + x.2.2)) ([], 0, 0)
  else
    let rs := (List.range (d.rows * d.cols)).map fun k => let rc := imageElem d k; readPlain d get rc.1 rc.2
    (rs.flatMap fun r => leBytes (fmtBits d.xfmt / 8) r.code, (rs.map fun r => bit01 r.ovf).foldl (· + ·) 0,
     (rs.map fun r => bit01 r.isNan).foldl (· + ·) 0)

end Sys2Proof.Machine
end

