-- ==== Sys2Proof/Machine/Traffic.lean ====
section
/-! DEFINITION. Commands of scheduling, shaping and policing (R437–R468), and the staging discipline every staged object
shares (R455–R460). -/

namespace Sys2Proof.Machine

/-! ### Staging (R455–R460) -/

/-- The next generation of a staged object: 0xFFFF steps to 1 (R457). -/
def nextGen (g : Nat) : Nat := if g = 0xFFFF then 1 else g + 1

/-- A status register after a commit: CFG_ERR on a refusal, GEN of the object (R457, R460). -/
def commitStatus (st : Word) (ok : Bool) (gen : Nat) : Word :=
  putField (if ok then st else putField st 0 0 1) 31 16 gen

/-- A traffic block of a port. -/
def trafAt (n : Node) (i : Nat) : TrafficPort := getAt n.traf i TrafficPort.reset

/-- The node with a port's traffic block replaced. -/
def setTraf (n : Node) (i : Nat) (t : TrafficPort) : Node := { n with traf := putAt n.traf i t }

/-- Refused commits and direct writes of a traffic block: counters 25 and 26 of R466's list for a port. -/
def trafCounter (i k : Nat) : Nat := 0x110000 + i * 0x100 + 8 * k

/-- Counts a refused commit on a port's traffic block. -/
def countRefused (n : Node) (i : Nat) (ok : Bool) : Node := if ok then n else bump n (trafCounter i 25) 1

/-! ### The scheduler (R439–R444) -/

/-- Class order of a TC queue: RSP, CMP, DAT, FWD, REQ; MGT before them. -/
def tcClassOrder : List Nat := [5, 2, 4, 3, 1, 0]

/-- A packet can be sent now: its class holds credit for all of its flits, and the replay buffer has room (R104, R120). -/
def canSend (n : Node) (o : OPort) (p : Packet) : Bool :=
  decide (creditUnits n (1 + dataFlits p) ≤ o.credits.getD p.cls.toNat 0) &&
  decide (o.replay.length + 1 + dataFlits p ≤ 8192)

/-- The eligible head packet of a TC queue (R439). -/
def tcHead (n : Node) (o : OPort) (q : TcQueue) : Option Packet :=
  (tcClassOrder.filterMap fun c => (q.fifos.getD c []).head?).find? fun p => canSend n o p

/-- L / WEIGHT with 16 fractional bits (R441). -/
def tagStep (q : TcQueue) (p : Packet) : Nat := flitBytes p * 65536 / max 1 (tcWeight q)

/-- The finish tag of a TC for its head packet. -/
def finishTag (q : TcQueue) (p : Packet) : Nat := (q.s + tagStep q p) % 2 ^ 48

/-- The TC to send from: TC 7 first, then the smallest finish tag, ties to the lower number (R441). -/
def chooseTc (n : Node) (i : Nat) : Option (Nat × Packet) :=
  let t := trafAt n i
  let o := portAt n i
  let head := fun k => (tcHead n o (getAt t.tcs k TcQueue.reset)).map fun p => (k, p)
  match head 7 with
  | some x => some x
  | none =>
    ((List.range 7).filterMap head).foldl (fun best x =>
      match best with
      | none => some x
      | some b =>
        if serialLt 48 (finishTag (getAt t.tcs x.1 TcQueue.reset) x.2) (finishTag (getAt t.tcs b.1 TcQueue.reset) b.2)
        then some x else some b) none

/-- TCs 0–6 that hold any packet. -/
def backlogged (t : TrafficPort) : List Nat := (List.range 7).filter fun k => tcBacklogged (getAt t.tcs k TcQueue.reset)

/-- The traffic block after a packet of a TC has been sent: its tags step and V advances (R441, R443). -/
def afterSend (t : TrafficPort) (k : Nat) (p : Packet) : TrafficPort :=
  let q := getAt t.tcs k TcQueue.reset
  let f := finishTag q p
  let q' := { q with fifos := modAt q.fifos p.cls.toNat fun l => l.drop 1 }
  if k = 7 then { t with tcs := putAt t.tcs k q' }
  else
    let weights := ((backlogged t).map fun j => tcWeight (getAt t.tcs j TcQueue.reset)).foldl (· + ·) 0
    let v := (t.v + flitBytes p * 65536 / max 1 weights) % 2 ^ 48
    let t := { t with tcs := putAt t.tcs k { q' with s := f, f := f } }
    let starts := (backlogged t).map fun j => (getAt t.tcs j TcQueue.reset).s
    match starts with
    | [] => { t with v := v }
    | x :: xs => { t with v := tagMax v (xs.foldl (fun a b => if serialLt 48 b a then b else a) x) }

/-- The flits of a packet: its header, then its data in 64-byte pieces (R111). -/
def packetFlits (p : Packet) : List Bytes :=
  packetHeader p :: (List.range (dataFlits p)).map fun k => sliceOf p.data (64 * k) 64

/-- Sends a packet's frames on a port: credits are consumed, and the packet stays on record until its last frame is
acknowledged (R104, R120, R129). -/
def sendOnPort (n : Node) (i : Nat) (p : Packet) : Node :=
  let o := portAt n i
  let cls := p.cls.toNat
  let n := setPort n i { o with credits := modAt o.credits cls fun c => c - creditUnits n (1 + dataFlits p) }
  let fs := packetFlits p
  let n := (fs.zipIdx).foldl (fun n f => sendFrame n i (if f.2 = 0 then 1 else 2) cls f.1) n
  let o := portAt n i
  setPort n i { o with onWire := o.onWire ++ [((o.fseqTx + 2 ^ 16 - 1) % 2 ^ 16, p)] }

/-- The scheduler of an up port chooses the next packet and sends it; a TC that holds packets but no eligible head is
counted as passed over (R439, R441, R466). -/
def scheduleOne (i : Nat) (n : Node) : Node :=
  if portState (portAt n i) != 2 || framesStopped n then n
  else
    let t := trafAt n i
    let o := portAt n i
    let passed := (List.range 8).filter fun k =>
      let q := getAt t.tcs k TcQueue.reset
      tcBacklogged q && (tcHead n o q).isNone
    let n' := passed.foldl (fun n k => bump n (trafCounter i (16 + k)) 1) n
    match chooseTc n i with
    | none => n'
    | some (k, p) =>
      let n' := bump (bump n' (trafCounter i (2 * k)) 1) (trafCounter i (2 * k + 1)) (flitBytes p)
      sendOnPort (setTraf n' i (afterSend t k p)) i p

/-- Meaning of SCHEDULER_SELECT. -/
def execSchedulerSelect (port : PortId) (s : State) : Host.Outcome State Fault Refusal :=
  .next (onNode s (scheduleOne port.val))

/-! ### Token buckets (R445) -/

/-- One core cycle of a bucket: RATE / 65,536 tokens, capped at BURST. -/
def refill (b : Bucket) : Bucket :=
  { b with level := min (b.level + (fieldOf b.rate 31 0 : Nat)) ((fieldOf b.burst 31 0 * 65536 : Nat) : Int) }

/-- One core cycle of a context's shaper on a port: it refills and passes what has become eligible. -/
def refillShaper (i ctx : Nat) (n : Node) : Node :=
  let t := trafAt n i
  match Tbl.find? t.shapers ctx with
  | none => n
  | some sh =>
    let n := if shaperCount sh = 0 then n else bump n (trafCounter i 24) 1
    setTraf n i (runShaper { t with shapers := Tbl.put t.shapers ctx { sh with bucket := refill sh.bucket } } ctx)

/-- One core cycle of a context's policer. -/
def refillPolicer (ctx : Nat) (n : Node) : Node :=
  { n with pol := { n.pol with buckets := Tbl.upd n.pol.buckets ctx refill } }

/-- Meaning of TOKEN_REFILL. -/
def execTokenRefill (port : Option PortId) (ctx : BitVec 16) (s : State) : Host.Outcome State Fault Refusal :=
  .next (onNode s (match port with
    | some i => refillShaper i.val ctx.toNat
    | none => refillPolicer ctx.toNat))

/-! ### Commits (R457, R462–R466) -/

/-- SHP_CFG as the personality resets it (R9, R464). -/
def shpCfgReset (a : Almanac) : Word := if a.personality = 1 then 0x10 else 0

/-- A bucket at its reset values with its level at 0 (R468). -/
def Bucket.fresh (a : Almanac) : Bucket := { cfg := shpCfgReset a, rate := 0, burst := 0, gen := 0, level := 0 }

/-- A shaper at its reset values. -/
def Shaper.fresh (a : Almanac) : Shaper := { bucket := Bucket.fresh a, dat := [], fwd := [], req := [] }

/-- Every staged TC_CFG of a port is valid: no WEIGHT 0, no reserved bit (R457, R462). -/
def tcCfgOk (c : Word) : Bool := fieldOf c 7 0 != 0 && fieldOf c 15 9 == 0 && fieldOf c 63 40 == 0

/-- SCHED_COMMIT: the seven TC_CFG registers become live together, or none does. -/
def schedCommit (i : Nat) (w : Word) (n : Node) : Node :=
  if !bitOf w 0 then n
  else
    let t := trafAt n i
    let ok := (List.range 7).all fun k => tcCfgOk (getAt t.tcs k TcQueue.reset).cfgStage
    let gen := if ok then nextGen t.gen else t.gen
    let live := fun (k : Nat) (q : TcQueue) => if k < 7 then { q with cfgLive := q.cfgStage } else q
    let tcs := if ok then Vector.ofFn fun (k : Fin 8) => live k.val (t.tcs.get k) else t.tcs
    countRefused (setTraf n i { t with tcs := tcs, gen := gen, stat := commitStatus t.stat ok gen }) i ok

/-- Meaning of SCHED_COMMIT. -/
def execSchedCommit (port : PortId) (w : Word) (s : State) : Host.Outcome State Fault Refusal :=
  .next (onNode s (schedCommit port.val w))

/-- A staged bucket's registers are valid: no reserved bit set, and a shaper's TC is not 7 (R464–R466). -/
def bucketCfgOk (shaper : Bool) (st : Word × Word × Word) : Bool :=
  fieldOf st.1 7 6 == 0 && fieldOf st.1 63 16 == 0 && fieldOf st.2.1 63 32 == 0 && fieldOf st.2.2 63 32 == 0 &&
  (if shaper then fieldOf st.1 3 1 != 7 else fieldOf st.1 3 1 == 0)

/-- A bucket after an accepted commit: the staged values, and the level at BURST or 0 by TOKEN_ON_COMMIT (R448). -/
def commitBucket (b : Bucket) (st : Word × Word × Word) : Bucket :=
  { cfg := st.1, rate := st.2.1, burst := st.2.2, gen := nextGen b.gen,
    level := if bitOf st.1 5 then 0 else ((fieldOf st.2.2 31 0 * 65536 : Nat) : Int) }

/-- The staged copy of a bucket as a selector write loads it. -/
def bucketStage (b : Bucket) : Word × Word × Word := (b.cfg, b.rate, b.burst)

/-- SHP_SEL: the staging copy takes the selected shaper's live values; a context that is not active, or a reserved bit,
loads reset values and sets SEL_ERR (R459, R463). -/
def shpSel (i : Nat) (w : Word) (n : Node) : Node :=
  let t := trafAt n i
  match (if fieldOf w 63 16 = 0 then Tbl.find? t.shapers (fieldOf w 15 0) else none) with
  | some sh =>
    setTraf n i { t with shpSel := w, shpStage := bucketStage sh.bucket, shpStat := putField t.shpStat 31 16 sh.bucket.gen }
  | none =>
    setTraf n i { t with shpSel := w, shpStage := bucketStage (Bucket.fresh n.alm),
                         shpStat := putField (putField t.shpStat 2 2 1) 31 16 0 }

/-- Meaning of SHP_SEL. -/
def execShpSel (port : PortId) (w : Word) (s : State) : Host.Outcome State Fault Refusal :=
  .next (onNode s (shpSel port.val w))

/-- SHP_COMMIT: the selected shaper takes the staged values and its level is set again; what has become eligible leaves
(R448, R449, R457). -/
def shpCommit (i : Nat) (w : Word) (n : Node) : Node :=
  if !bitOf w 0 then n
  else
    let t := trafAt n i
    let ctx := fieldOf t.shpSel 15 0
    match (if fieldOf t.shpSel 63 16 = 0 && bucketCfgOk true t.shpStage
           then Tbl.find? t.shapers ctx else none) with
    | some sh =>
      let b := commitBucket sh.bucket t.shpStage
      let t := { t with shapers := Tbl.put t.shapers ctx { sh with bucket := b },
                        shpStat := commitStatus t.shpStat true b.gen }
      setTraf n i (runShaper t ctx)
    | none => countRefused (setTraf n i { t with shpStat := putField t.shpStat 0 0 1 }) i false

/-- Meaning of SHP_COMMIT. -/
def execShpCommit (port : PortId) (w : Word) (s : State) : Host.Outcome State Fault Refusal :=
  .next (onNode s (shpCommit port.val w))

/-- POL_SEL (R459, R466). -/
def polSel (w : Word) (n : Node) : Node :=
  match (if fieldOf w 63 16 = 0 then Tbl.find? n.pol.buckets (fieldOf w 15 0) else none) with
  | some b =>
    { n with pol := { n.pol with polSel := w, polStage := bucketStage b, polStat := putField n.pol.polStat 31 16 b.gen } }
  | none =>
    { n with pol := { n.pol with polSel := w, polStage := bucketStage (Bucket.fresh n.alm),
                                 polStat := putField (putField n.pol.polStat 2 2 1) 31 16 0 } }

/-- Meaning of POL_SEL. -/
def execPolSel (w : Word) (s : State) : Host.Outcome State Fault Refusal := .next (onNode s (polSel w))

/-- POL_COMMIT (R448, R450, R457, R466). -/
def polCommit (w : Word) (n : Node) : Node :=
  if !bitOf w 0 then n
  else
    let ctx := fieldOf n.pol.polSel 15 0
    match (if fieldOf n.pol.polSel 63 16 = 0 && bucketCfgOk false n.pol.polStage
           then Tbl.find? n.pol.buckets ctx else none) with
    | some b =>
      let b' := commitBucket b n.pol.polStage
      { n with pol := { n.pol with buckets := Tbl.put n.pol.buckets ctx b',
                                   polStat := commitStatus n.pol.polStat true b'.gen } }
    | none => { n with pol := { n.pol with polStat := putField n.pol.polStat 0 0 1 } }

/-- Meaning of POL_COMMIT. -/
def execPolCommit (w : Word) (s : State) : Host.Outcome State Fault Refusal := .next (onNode s (polCommit w))

/-! ### Policing (R450–R454) -/

/-- DELAY of a policing refusal (R452, R454). -/
def policeDelay (b : Bucket) : Nat :=
  let rate := fieldOf b.rate 31 0
  if rate = 0 || fieldOf b.burst 31 0 = 0 then 4095
  else min 4095 (ceilDiv ((-b.level).toNat / rate + 1) 256)

/-- The policer's verdict on a REQ of a context: none when it conforms and has paid, else the DELAY of its refusal.
Counters: packets policed, conforming and refused, by context slot. -/
def police (n : Node) (p : Packet) : Node × Option Nat :=
  match Tbl.find? n.pol.buckets p.ctx.toNat with
  | none => (n, none)
  | some b =>
    let slot := ((Tbl.find? n.ctxs.slots p.ctx.toNat).map (·.slotNo)).getD 0
    let off := 0x112000 + slot * 0x20
    let n := bump n off 1
    if bucketOpen b then
      (bump { n with pol := { n.pol with buckets := Tbl.put n.pol.buckets p.ctx.toNat (bucketPay b p) } } (off + 8) 1, none)
    else (bump n (off + 16) 1, some (policeDelay b))

/-! ### Ports' own commits (R135, R136) -/

/-- A staged OPORT_CFG is valid: MAX_WIDTH not 0, at least two groups, no reserved bit. -/
def oportCfgOk (c : Word) : Bool := fieldOf c 2 1 != 0 && decide (2 ≤ groupCount (fieldOf c 6 3)) && fieldOf c 63 7 == 0

/-- OPORT_COMMIT: ENABLE brings the port up or takes it down to DISABLED; a change of width on an up port runs through
R108 (R135, R136). -/
def oportCommit (i : Nat) (w : Word) (n : Node) : Node :=
  if !bitOf w 0 then n
  else
    let o := portAt n i
    if !oportCfgOk o.cfgStage then
      setPort n i { o with stat := commitStatus o.stat false o.gen }
    else
      let gen := nextGen o.gen
      let o := { o with cfgLive := o.cfgStage, gen := gen, stat := commitStatus o.stat true gen }
      let n := setPort n i o
      if !bitOf o.cfgLive 0 then takeDown n i 3
      else if portState o = 2 then
        let tx := allowedGroups o (lockedGroups o.txLocked)
        let rx := allowedGroups o (lockedGroups o.rxLocked)
        let n := if tx = txGroups o then n else changeTxWidth n i tx
        if rx = rxGroups (portAt n i) || portState (portAt n i) != 2 then n else askRxWidth n i rx
      else if portState o = 3 then beginBringup (setPort n i (setPortState o 0)) i
      else n

/-- Meaning of OPORT_COMMIT. -/
def execOportCommit (port : PortId) (w : Word) (s : State) : Host.Outcome State Fault Refusal :=
  .next (onNode s (oportCommit port.val w))

end Sys2Proof.Machine
end

