-- ==== Sys2Proof/Machine/ReqOps.lean ====
section
/-! DEFINITION. Requests at the home: what each may not be, the checks of R59 and R83, why one is refused with RETRY, and
how it is admitted (R17, R83, R141–R160, R206, R207, R242, R418, R451). -/

namespace Sys2Proof.Machine

/-! ### Kinds of request (R113, R114, R151) -/

/-- LEN 0 and PAYLOAD 0 on a READ or WRITE: a PROBE in every respect (R151). -/
def isZeroLength (p : Packet) : Bool := (p.opcode == 1 || p.opcode == 2) && p.len == 0 && !hasPayload p

/-- The request is a PROBE. -/
def isProbe (p : Packet) : Bool := p.opcode == 8 || isZeroLength p

/-- The request names data tiles. -/
def isTile (p : Packet) : Bool := p.opcode == 4 || p.opcode == 5 || p.opcode == 6

/-- The request reads data. -/
def isRead (p : Packet) : Bool := (p.opcode == 1 && !isZeroLength p) || p.opcode == 4

/-- The request stores data (R141). -/
def storesData (p : Packet) : Bool := isStore p && !isZeroLength p

/-- A request that the home translates: neither WAIT nor PROBE. -/
def translated (p : Packet) : Bool := !isProbe p && p.opcode != 7

/-- The tile descriptor of a request. -/
def descOf (p : Packet) : TileDesc := tileDesc p.pva.toNat p.op5 p.op6

/-- The image bytes a tile packet carries, decoded where it carries a codec block (R315). -/
def tilePayload (p : Packet) : Option Bytes :=
  let bs := payloadOf p
  if (descOf p).dcomp && p.len != 4096 then codecDecode (bs.length / 512) bs else some bs

/-- Bytes of a WRITE, READ or ATOMIC at its PVA. -/
def spanLen (p : Packet) : Nat := if p.opcode = 3 then atomicWidth (natField p.subop.toNat 3 0) else p.len.toNat

/-! ### INVALID (R59 step 1) -/

/-- A node known to be an SX-96 module. -/
def isSx96 (n : Node) (node : Nat) : Bool := isOwn n node || ((Tbl.find? n.ml.memb.known node).map Prod.snd).getD false

/-- A PROBE breaks R151 or R153. -/
def probeBad (n : Node) (p : Packet) : Bool :=
  let operand := p.op5 != 0 || p.op6 != 0
  isAcquire p || p.deadline != 0 || hasPayload p || p.len != 0 || (p.opcode == 8 && p.pva != 0) ||
  (operand && (!isSx96 n p.src.toNat || p.op6 != 0 || fieldOf p.op5 62 40 != 0 || !isCnt p))

/-- An ATOMIC breaks R227 or R228. -/
def atomicBad (p : Packet) : Bool :=
  let ty := natField p.subop.toNat 3 0
  let aop := natField p.subop.toNat 7 4
  let w := atomicWidth ty
  !hasPayload p || !fmtAtomicValid ty || !atomicPairOk aop ty || p.len.toNat != (if aop = 9 then 2 * w else w) ||
  p.pva.toNat % max 1 w != 0 || p.deadline != 0 || isAcquire p

/-- A tile request breaks R308 to R316. -/
def tileBad (n : Node) (p : Packet) : Bool :=
  let d := descOf p
  let off := p.offset.toNat
  !descOk d (n.alm.personality == 1) ||
  (if p.opcode = 4 then isCnt p || hasPayload p || p.len != 0 || !isLast p
   else isAcquire p || p.deadline != 0 || !hasPayload p || !trainOk d off p.len.toNat ||
     (p.opcode == 6 && (d.xfmt != d.fmt || d.dcomp)) || (tilePayload p).isNone)

/-- A request is malformed or uses what its operation does not take (R59 step 1). -/
def reqInvalid (n : Node) (p : Packet) : Bool :=
  fieldOf p.pva 63 57 != 0 || p.ctx == 0 || isPeer p ||
  (if isProbe p then probeBad n p
   else if p.opcode = 1 then isCnt p || hasPayload p || decide (maxPayload n < p.len.toNat)
   else if p.opcode = 2 then !hasPayload p || isAcquire p || p.deadline != 0
   else if p.opcode = 3 then atomicBad p
   else if isTile p then tileBad n p
   else isCnt p || isAcquire p || hasPayload p || p.len != 0 || p.pva != 0)

/-! ### Lines (R84, R144) -/

/-- The lines a request touches, as the PVA of their first byte, in its own order. -/
def touchedLines (p : Packet) : List Nat :=
  if isProbe p || p.opcode = 7 then []
  else if p.opcode = 4 then
    ((storedSpans (descOf p)).flatMap fun s => (lineParts s.1 s.2).map fun q => q.1 / 64 * 64).eraseDups
  else if isTile p then
    ((tileUnits (descOf p) p.offset.toNat ((tilePayload p).getD [])).flatMap (unitLines (descOf p))).eraseDups
  else (lineParts p.pva.toNat (spanLen p)).map fun q => q.1 / 64 * 64

/-- The granules of some lines. -/
def granulesFor (lines : List Nat) : List Nat := (lines.map fun l => l / 65536 * 65536).eraseDups

/-- The right an operation needs (R73). -/
def rightFor (p : Packet) (r : Range) : Bool :=
  if isRead p then r.r else if p.opcode = 2 || p.opcode = 5 then r.w else r.a

/-! ### The checks above RETRY (R59, R83, R418, R434, R154) -/

/-- A node is in a context's admission set (R63). -/
def isAdmitted (n : Node) (ctx node : Nat) : Bool := ((slotOf n ctx).map fun s => s.admits.testBit node).getD false

/-- A line of the request is in a departed range or one whose primary is elsewhere (R418). -/
def isMoved (n : Node) (ctx : Nat) (gs : List Nat) : Bool :=
  gs.any fun g => ((rangeOf n ctx g).map fun r => r.departed || (r.mirrorRole && r.arrivingFrom == 0)).getD false

/-- A granule lies in a revoked extent (R434). -/
def isRevoked (n : Node) (ctx : Nat) (gs : List Nat) : Bool := gs.any fun g => spanRevoked n ctx g 65536

/-- The request names a counter of another context (R154). -/
def counterDenied (n : Node) (p : Packet) : Bool :=
  (isCnt p || p.opcode == 7) && (counterOf n p.aux.toNat).owner != p.ctx.toNat

/-- The refusals ranked above RETRY, in order. -/
def reqChecks (n : Node) (p : Packet) : List (Bool × Nat) :=
  let ctx := p.ctx.toNat
  let bad := reqInvalid n p
  let gs := if bad || !translated p then [] else granulesFor (touchedLines p)
  let active := (slotOf n ctx).isSome
  [(bad, stInvalid), (active && translated p && isMoved n ctx gs, stMoved),
   (active && translated p && isRevoked n ctx gs, stRevoked),
   (!active || !isAdmitted n ctx p.src.toNat || counterDenied n p ||
     gs.any (fun g => !((rangeOf n ctx g).map (rightFor p)).getD false), stDenied)]

/-- The request's map is newer than the home's (R418). -/
def mapAhead (n : Node) (p : Packet) : Bool :=
  translated p && ((slotOf n p.ctx.toNat).map fun s => mapNewer p.mapgen.toNat s.curGen).getD false

/-! ### Refusing with RETRY (R142, R206, R207, R453) -/

/-- The region that admits a request (R17). -/
def reqRegion (n : Node) (p : Packet) (lines : List (Nat × Nat)) : Nat :=
  match lines.head? with
  | some l => lineRegion l.1
  | none => if p.opcode = 7 || isCnt p then counterTile n p.aux.toNat / 8 else 0

/-- A request's starvation record. -/
def starveOf (n : Node) (region : Nat) (p : Packet) : Option StarveRec :=
  (Tbl.getD n.trk.starve region []).find? fun s => s.src == p.src.toNat && s.seq == p.seq.toNat

/-- The node with a region's starvation records replaced. -/
def setStarve (n : Node) (region : Nat) (l : List StarveRec) : Node :=
  { n with trk := { n.trk with starve := Tbl.put n.trk.starve region l } }

/-- The record with the lowest count below 16. -/
def weakest (l : List StarveRec) : Option StarveRec :=
  (l.filter fun s => s.count < 16).foldl (fun (b : Option StarveRec) s =>
    match b with
    | none => some s
    | some t => if s.count < t.count then some s else some t) none

/-- Counts a refusal that R206 counts; with all 4,096 records taken, it takes over the weakest. -/
def countRefusal (n : Node) (region : Nat) (p : Packet) : Node :=
  let l := Tbl.getD n.trk.starve region []
  let new : StarveRec := { src := p.src.toNat, seq := p.seq.toNat, count := 1 }
  match starveOf n region p with
  | some s => setStarve n region (l.map fun t => if t == s then { s with count := s.count + 1 } else t)
  | none =>
    if l.length < 4096 then setStarve n region (l ++ [new])
    else match weakest l with
      | some w => setStarve n region (l.map fun t => if t == w then new else t)
      | none => n

/-- A request's starvation record is released (R206). -/
def dropStarve (n : Node) (region : Nat) (p : Packet) : Node :=
  match starveOf n region p with
  | some s => setStarve n region ((Tbl.getD n.trk.starve region []).erase s)
  | none => n

/-- The request has been refused 16 times (R207). -/
def isEscalated (n : Node) (region : Nat) (p : Packet) : Bool := ((starveOf n region p).map fun s => decide (16 ≤ s.count)).getD false

/-- Refuses a request with RETRY: a store sets the pair's retry mark, and the SEQ is kept until it is delivered again
(R142, R453). -/
def refuseRetry (n : Node) (p : Packet) (cause delay : Nat) : Node :=
  let own := p.dst.toNat
  let peer := p.src.toNat
  let q := pairOf n own peer
  let s := p.seq.toNat
  let q := { q with
    refused := s :: q.refused.filter (· != s)
    marks := if storesData p then q.marks.filter (fun m => m.1 != s) ++ [(s, delay)] else q.marks }
  sendRetry (setPair n own peer q) p cause delay

/-- The mark that holds back a store: an earlier store of its pair was refused and has not been delivered again. -/
def markBefore (n : Node) (p : Packet) : Option (Nat × Nat) :=
  (pairOf n p.dst.toNat p.src.toNat).marks.find? fun m => serialLt 32 m.1 p.seq.toNat

/-! ### Trackers (R17, R207, R232) -/

/-- Trackers that admitted requests and started commands hold in a region. -/
def trackersUsed (n : Node) (region : Nat) (escalated : Bool) : Nat :=
  let reqs := (n.trk.reqs.filter fun q => q.2.escalated == escalated).map fun q =>
    bit01 (q.2.region == region) +
      (if q.2.lines.length ≤ 1 then 0 else (q.2.units.flatMap fun u => u.lines.filter fun l => lineRegion l.1 == region).length)
  let cmds := if escalated then 0 else (n.trk.cmds.filter fun c => c.2.region == region).length
  reqs.foldl (· + ·) cmds

/-- Trackers a request needs in a region. -/
def trackersNeeded (region : Nat) (lines : List (Nat × Nat)) (r : Nat) : Nat :=
  bit01 (r == region) + (if lines.length ≤ 1 then 0 else (lines.filter fun l => lineRegion l.1 == r).length)

/-- Every region a request needs has trackers for it: 64 of 4,096 are kept for escalated requests, each of which needs
one. -/
def trackersFree (n : Node) (region : Nat) (lines : List (Nat × Nat)) (escalated : Bool) : Bool :=
  (List.range 8).all fun r =>
    let need := trackersNeeded region lines r
    if escalated then need == 0 || decide ((n.trk.reqs.filter fun q => q.2.escalated &&
        (q.2.region == r || q.2.lines.any fun l => lineRegion l.1 == r)).length < 64)
    else decide (trackersUsed n r false + need + (getAt n.flt.regions r RegionState.reset).trackersOut ≤ 4032) || need == 0

/-! ### Why a request is refused with RETRY -/

/-- A chunk whose part is being restored (R394). -/
def restoringAt (n : Node) (line : Nat) : Bool := ((partOf n (chunkOf line)).map fun p => p.2.restoring.isSome).getD false

/-- A PVA lies in an extent whose Leap has closed it to new requests (R424 step 5). -/
def leapClosed (n : Node) (ctx pva : Nat) : Bool :=
  n.ml.outs.any fun l => l.2.ctx == ctx && !l.2.asMirror && decide (5 ≤ l.2.step) &&
    decide (l.2.start ≤ pva ∧ pva < l.2.start + l.2.chunks * 2 ^ 21)

/-- Lines whose marks stand in the mirror-dirty list (R396). -/
def mdirtyFull (n : Node) : Bool := decide (16384 ≤ (n.coh.mdirty.filter fun m => m.2.inList).length)

/-- Requests that wait at a PENDING line (R187). -/
def waitersAt (n : Node) (line : Nat) : Nat :=
  (n.trk.reqs.filter fun q => q.2.units.any fun u => u.lines.any fun l => l.1 == line).length

/-- A caching read, as far as the request alone shows (R176). -/
def wantsCopy (p : Packet) (r : Range) : Bool :=
  p.opcode == 1 && p.len == 64 && p.pva.toNat % 64 == 0 && grantsCopies r && !isPeer p

/-- A line of the request is too busy: its wait list is full, or its set has no way that is not PENDING
(R182, R187). -/
def lineBusy (n : Node) (p : Packet) (lines : List (Nat × Nat)) : Bool :=
  lines.any fun l => match rangeOf n p.ctx.toNat l.2 with
    | none => false
    | some r => coherentAt r && ((isPending n l.1 && decide (8 ≤ waitersAt n l.1)) ||
        (wantsCopy p r && (dirOf n l.1).isNone && setAllPending n l.1))

/-- Regions and tiles that cannot take a request's lines now (R18, R29). -/
def placeBusy (n : Node) (region : Nat) (lines : List (Nat × Nat)) (p : Packet) : Bool :=
  let down := fun (r : Nat) => (getAt n.flt.regions r RegionState.reset).resetting
  down region || lines.any (fun l => down (lineRegion l.1) || n.flt.moving.contains (8 * lineRegion l.1 + lineSlot l.1)) ||
    ((p.opcode == 7 || (isProbe p && isCnt p)) && n.flt.moving.contains (p.aux.toNat % 64))

/-- The causes of RETRY that no resource of the request's own decides, in order: cause and whether R206 counts it. -/
def retryCauses (n : Node) (region : Nat) (lines : List (Nat × Nat)) (p : Packet) : List (Bool × Nat) :=
  let ctx := p.ctx.toNat
  let any := fun (f : Range → Bool) => lines.any fun l => ((rangeOf n ctx l.2).map f).getD false
  [(n.power.entry != 0, 0), (n.ml.memb.suspended, 9), (any (fun r => r.arrivingFrom != 0), 8), (lines.any (fun l => leapClosed n ctx l.2), 8),
   (lines.any (fun l => restoringAt n l.1), 8), (placeBusy n region lines p, 4), (any (·.storeLost), 0),
   (storesData p && mdirtyFull n && any (fun r => r.peer != 0), 10)]

/-! ### Units (R144, R238) -/

/-- The local line of a line's PVA. -/
def localLine (n : Node) (ctx pva : Nat) : Nat := ((rangeOf n ctx pva).map fun r => lineAt r pva).getD 0

/-- The commit units of a request, in its own order. -/
def unitsOf (n : Node) (p : Packet) : List CommitUnit :=
  let ctx := p.ctx.toNat
  let line := fun (pva : Nat) => (localLine n ctx pva, pva)
  if isProbe p || p.opcode = 7 then []
  else if p.opcode = 4 then (touchedLines p).map fun l => { lines := [line l], payOff := 0, payLen := 0 }
  else if isTile p then
    let d := descOf p
    (tileUnits d p.offset.toNat ((tilePayload p).getD [])).map fun u =>
      { lines := (unitLines d u).map line, payOff := u.payOff, payLen := u.payLen }
  else
    (lineParts p.pva.toNat (spanLen p)).map fun q =>
      { lines := [line (q.1 / 64 * 64)], payOff := q.1 - p.pva.toNat, payLen := q.2 }

/-! ### Poison at admission (R210, R239) -/

/-- The bytes of a line that a WRITE or TILE_WRITE packet overwrites without reading. -/
def coveredBytes (p : Packet) (pva : Nat) : Nat :=
  if p.opcode = 2 then
    (((lineParts p.pva.toNat (spanLen p)).find? fun q => q.1 / 64 * 64 == pva).map Prod.snd).getD 0
  else if p.opcode = 5 then
    let d := descOf p
    (((tileUnits d p.offset.toNat ((tilePayload p).getD [])).flatMap (unitCovers d)).eraseDups.filter fun a =>
      a / 64 * 64 == pva).length
  else 0

/-- The request covers a line whole, so that its store clears poison. -/
def coversWhole (p : Packet) (pva : Nat) : Bool := coveredBytes p pva == 64

/-- A store meets poison at its admission. -/
def poisonedAtStart (n : Node) (p : Packet) (lines : List (Nat × Nat)) : Bool :=
  storesData p && lines.any fun l => isPoisoned n l.1 && !coversWhole p l.2

/-! ### Admission -/

/-- A request that has been answered at once leaves a closed record. -/
def endAtOnce (n : Node) (p : Packet) (status : Nat) : Node :=
  answerEnded (closeRecord n p status 0 0 0 []) p status 0 0 0 []

/-- The entries a request is admitted under: START and GEN (R79). -/
def entriesUnder (n : Node) (ctx : Nat) (lines : List (Nat × Nat)) : List (Nat × Nat) :=
  (lines.filterMap fun l => (rangeOf n ctx l.2).map fun r => (r.start, r.gen)).eraseDups

/-- Gives an admitted request its tracker and its running record. -/
def giveTracker (n : Node) (p : Packet) (region : Nat) (lines : List (Nat × Nat)) (esc : Bool) : Node :=
  let units := unitsOf n p
  let q : Req :=
    { pkt := p, region := region, escalated := esc, units := units, taken := [], landed := 0, ovf := 0, nans := 0, result := [],
      status := none, grant := 0, fwds := [], under := entriesUnder n p.ctx.toNat lines, lines := lines,
      lostState := false, late := false, recopy := [] }
  let tid := n.trk.nextTid
  let n := openRecord n p
  let n := (granulesFor (lines.map Prod.snd)).foldl (fun n g => match rangeOf n p.ctx.toNat g with
    | some r => touchXlate n p.ctx.toNat r g
    | none => n) n
  { n with trk := { n.trk with reqs := Tbl.put n.trk.reqs tid q, nextTid := tid + 1 } }

/-- A WAIT that passed every check: answered, or parked in the wait table (R156–R158). -/
def startWait (n : Node) (p : Packet) : Node :=
  let x := counterOf n p.aux.toNat
  if x.err then answerWait n p stAborted x.value
  else if decide (p.op5.toNat ≤ x.value) then answerWait n p stOK x.value
  else if decide (8192 ≤ n.ctr.waits.length) then refuseRetry n p 3 (retryHint n)
  else
    let w : ParkedWait := { counter := p.aux.toNat, target := p.op5.toNat, pkt := p }
    let n := openRecord n p
    { n with ctr := { n.ctr with waits := n.ctr.waits ++ [w] } }

/-- The escalation queue of a region holds the request, or takes it when it has room (R207). -/
def queueEscalated (n : Node) (region : Nat) (p : Packet) : Node :=
  let l := Tbl.getD n.trk.escal region []
  let e := (p.src.toNat, p.seq.toNat)
  if l.contains e || decide (1024 ≤ l.length) then n
  else { n with trk := { n.trk with escal := Tbl.put n.trk.escal region (l ++ [e]) } }

/-- A freed reserved tracker is held for the head of the escalation queue. -/
def escalTurn (n : Node) (region : Nat) (p : Packet) : Bool :=
  match (Tbl.getD n.trk.escal region []).head? with
  | none => true
  | some e => e == (p.src.toNat, p.seq.toNat)

/-- The lines of a request: local line and PVA. -/
def reqLines (n : Node) (p : Packet) : List (Nat × Nat) := (touchedLines p).map fun l => (localLine n p.ctx.toNat l, l)

/-- A request that passed the checks above RETRY: refused with RETRY for want of something, or admitted, its source's window taken
(R451, R207). The flag says which. -/
def admits (n : Node) (p : Packet) : Node × Bool :=
  let lines := reqLines n p
  let region := reqRegion n p lines
  let esc := isEscalated n region p
  match (if storesData p then markBefore n p else none) with
  | some m => (refuseRetry (countRefusal n region p) p 6 m.2, false)
  | none =>
    match firstStatus (retryCauses n region lines p) with
    | some cause => (refuseRetry n p cause 0, false)
    | none =>
      let v := police n p
      match v.2 with
      | some delay => (refuseRetry v.1 p 1 delay, false)
      | none =>
        let n := v.1
        if esc && !(trackersFree n region lines true && escalTurn n region p) then
          (refuseRetry (queueEscalated n region p) p 7 0, false)
        else if !esc && !trackersFree n region lines false then (refuseRetry (countRefusal n region p) p 5 0, false)
        else if !esc && lineBusy n p lines then (refuseRetry (countRefusal n region p) p 7 0, false)
        else
          match takeWindow n p.src.toNat with
          | none => (refuseRetry n p 12 0, false)
          | some n =>
            let n := dropStarve n region p
            let es := (Tbl.getD n.trk.escal region []).filter (· != (p.src.toNat, p.seq.toNat))
            ({ n with trk := { n.trk with escal := Tbl.put n.trk.escal region es } }, true)

/-- An admitted request begins. -/
def beginReq (n : Node) (p : Packet) (region : Nat) (lines : List (Nat × Nat)) (esc : Bool) : Node :=
  if p.opcode = 7 then startWait n p
  else if poisonedAtStart n p lines then endAtOnce n p stPoisoned
  else giveTracker n p region lines esc

/-- A request that passed the checks above RETRY: refused, or admitted and begun. -/
def admitReq (n : Node) (p : Packet) : Node :=
  let a := admits n p
  let lines := reqLines n p
  let region := reqRegion n p lines
  if a.2 then beginReq a.1 p region lines (isEscalated n region p) else a.1

/-- A pair's later packets are held back: an ACQUIRE read has data left to read, or a PROBE is not answered (R141). -/
def pairHeld (n : Node) (own peer : Nat) : Bool :=
  n.trk.reqs.any fun q => q.2.pkt.dst.toNat == own && q.2.pkt.src.toNat == peer &&
    (isProbe q.2.pkt || (isAcquire q.2.pkt && !q.2.units.isEmpty))

/-- Refuses a request for good: RSP with a status, no record (R59, R243). -/
def refuseReq (n : Node) (p : Packet) (status : Nat) : Node := sendRsp n p status 0

/-- A new request is on its pair's list of those to be answered; its earlier refusal is forgotten (R142, R242). -/
def noteReq (n : Node) (p : Packet) : Node :=
  let q := pairOf n p.dst.toNat p.src.toNat
  let s := p.seq.toNat
  let q := { q with refused := q.refused.filter (· != s), marks := q.marks.filter fun m => m.1 != s,
                    open_ := if q.open_.contains (0, s) then q.open_ else q.open_ ++ [(0, s)] }
  setPair n p.dst.toNat p.src.toNat q

/-- A delivered request that is no duplicate: checked and admitted (R59, R418). The bridge's node is no home: a write to it is
acknowledged, discarded, counted and logged, and nothing else can be asked of it (R200). -/
def newRequest (n : Node) (p : Packet) : Node :=
  let own := p.dst.toNat
  let peer := p.src.toNat
  let n := noteReq n p
  if own != n.nodeId then
    (if p.opcode = 2 then
       refuseReq (bump (logEvent n { otherEvent 6 32 with node := peer, data0 := p.pva.toNat }) 0x139008 1) p stOK
     else refuseReq n p stInvalid)
  else if reqInvalid n p then refuseReq n p stInvalid
  else if mapAhead n p then refuseRetry (fetchMap n p.ctx.toNat) p 8 0
  else match firstStatus (reqChecks n p) with
    | some st => refuseReq n p st
    | none => admitReq n p

/-- How the dedupe window resolves a delivered REQ (R242). -/
inductive DupFate where
  /-- It is no duplicate. -/
  | fresh
  /-- Its original is running, held or waiting: the copy is dropped. -/
  | drop
  /-- Its record answers it. -/
  | answer (rec : DedupeRec)
  /-- It is older than the window. -/
  | stale
  deriving DecidableEq, Repr

/-- Resolves a delivered REQ against its pair's state and its source's window. -/
def dupFate (n : Node) (p : Packet) : DupFate :=
  let q := pairOf n p.dst.toNat p.src.toNat
  let s := p.seq.toNat
  if q.held.any fun h => h.seq == p.seq then .drop
  else match recordOf n p.src.toNat s with
    | some r => if r.status.isNone then .drop else .answer r
    | none =>
      if q.open_.contains (0, s) || q.refused.contains s then .fresh
      else if decide (serialDist 32 s (q.deliv.getD 0 0) ≤ 255) && (winOf n p.src.toNat).isSome then .fresh
      else .stale

/-- A suspended module refuses the duplicate of a request that has ended too; a store's leaves a retry mark, which the next copy
that is delivered takes away (R142, R414). -/
def refuseDuplicate (n : Node) (p : Packet) : Node :=
  let q := pairOf n p.dst.toNat p.src.toNat
  let marks := if storesData p then q.marks ++ [(p.seq.toNat, 0)] else q.marks
  sendRetry (setPair n p.dst.toNat p.src.toNat { q with marks := marks }) p 9 0

/-- The refusal of a request is forgotten once it is delivered again (R142). -/
def dropMark (n : Node) (p : Packet) : Node :=
  let q := pairOf n p.dst.toNat p.src.toNat
  setPair n p.dst.toNat p.src.toNat { q with marks := q.marks.filter fun m => m.1 != p.seq.toNat }

/-- A delivered request reaches the home agent (R141, R242). -/
def takeRequest (n : Node) (p : Packet) : Node :=
  match dupFate n p with
  | .drop => n
  | .stale => refuseReq n p stStaleSeq
  | .answer r =>
    let n := dropMark n p
    let st := r.status.getD stOK
    if n.ml.memb.suspended then refuseDuplicate n p
    else if isRead p && st == stOK then
      (match firstStatus (reqChecks n p) with
       | some _ => refuseReq n p stStaleSeq
       | none => if mapAhead n p then refuseReq n p stStaleSeq else admitReq n p)
    else answerEnded n p st r.landed r.ovf r.nans r.result
  | .fresh =>
    if pairHeld n p.dst.toNat p.src.toNat then
      let q := pairOf n p.dst.toNat p.src.toNat
      setPair n p.dst.toNat p.src.toNat { q with held := q.held ++ [p] }
    else newRequest n p

end Sys2Proof.Machine
end

