-- ==== Sys2Proof/Machine/Serve.lean ====
section
/-! DEFINITION. How admitted requests are performed: the order among them, reads line by line, stores unit by unit, and
how each ends (R141–R151, R176, R188, R207, R210, R229, R236–R239, R313–R320, R372–R375). -/

namespace Sys2Proof.Machine

/-! ### Order (R141, R187, R207) -/

/-- Two requests come from one pair. -/
def samePair (a b : Packet) : Bool := a.src == b.src && a.dst == b.dst

/-- A request has no earlier request of its own pair in a tracker. -/
def firstOfPair (n : Node) (tid : Nat) (q : Req) : Bool :=
  !n.trk.reqs.any fun e => decide (e.1 < tid) && samePair e.2.pkt q.pkt

/-- Request `a` comes before request `b`: their pair's order, then escalated ones that nothing of their own pair holds
back, then the order of admission. -/
def comesBefore (n : Node) (ta : Nat) (a : Req) (tb : Nat) (b : Req) : Bool :=
  let headA := a.escalated && firstOfPair n ta a
  let headB := b.escalated && firstOfPair n tb b
  if samePair a.pkt b.pkt || headA == headB then decide (ta < tb) else headA

/-- A request that comes before still has the line to perform. -/
def lineTaken (n : Node) (tid : Nat) (q : Req) (line : Nat) : Bool :=
  n.trk.reqs.any fun e => e.1 != tid && comesBefore n e.1 e.2 tid q &&
    e.2.units.any fun u => u.lines.any fun l => l.1 == line

/-- Every earlier store of the pair has been performed (R141). -/
def storeTurn (n : Node) (tid : Nat) (q : Req) : Bool :=
  !n.trk.reqs.any fun e => decide (e.1 < tid) && samePair e.2.pkt q.pkt && storesData e.2.pkt && !e.2.units.isEmpty

/-- The node with a request replaced. -/
def setReq (n : Node) (tid : Nat) (q : Req) : Node := { n with trk := { n.trk with reqs := Tbl.put n.trk.reqs tid q } }

/-- A request leaves its tracker. -/
def dropReq (n : Node) (tid : Nat) : Node := { n with trk := { n.trk with reqs := Tbl.del n.trk.reqs tid } }

/-- A request stops with a status: its remaining units are not performed. -/
def stopReq (q : Req) (status : Nat) : Req := { q with units := [], status := some status }

/-! ### Reads (R176, R188, R210, R314) -/

/-- One line of a read: made ready, then taken at a single version with the grant it brings. -/
def readUnit (n : Node) (tid : Nat) (q : Req) (u : CommitUnit) (rest : List CommitUnit) : Node × Bool :=
  let ctx := q.pkt.ctx.toNat
  match u.lines.head? with
  | none => (setReq n tid { q with units := rest }, true)
  | some (line, pva) =>
    match rangeFor n ctx pva with
    | none => (n, false)
    | some r =>
      let x := q.pkt.src.toNat
      let f := prepLine n ctx r pva line (if wantsCopy q.pkt r then .cache x else .read)
      if f.2 = .noKey then (setReq f.1 tid (stopReq q stInternal), true)
      else if f.2 = .waits then (f.1, false)
      else
        let bad := isPoisoned f.1 line
        let g := if wantsCopy q.pkt r && !bad then grantLine f.1 ctx r pva line x else (f.1, 0)
        let t : ReadLine := { line := line, pva := pva, data := lineData g.1 line, poison := bad, cheap := false }
        (setReq g.1 tid { q with units := rest, taken := q.taken ++ [t], grant := g.2 }, true)

/-- A read's lines are independent of each other: each unit that can be read now is read. -/
def readUnits (n : Node) (tid : Nat) : Node × Bool :=
  match Tbl.find? n.trk.reqs tid with
  | none => (n, false)
  | some q =>
    q.units.foldl (fun (a : Node × Bool) u =>
      match Tbl.find? a.1.trk.reqs tid with
      | none => a
      | some q =>
        if !q.units.contains u || u.lines.any (fun l => lineTaken a.1 tid q l.1) then a
        else
          let f := readUnit a.1 tid q u (q.units.erase u)
          (f.1, a.2 || f.2)) (n, false)

/-- The status of a read whose lines are all taken (R318). -/
def readStatus (q : Req) : Nat :=
  match q.status with
  | some st => st
  | none => if q.taken.any (·.poison) then stPoisoned else if q.taken.any (·.cheap) then stLateCheap else stOK

/-- A byte of what a read has taken. -/
def takenByte (q : Req) (pva : Nat) : Byte :=
  match q.taken.find? fun t => t.pva / 64 == pva / 64 with
  | some t => t.data.getD (pva % 64) 0
  | none => 0

/-- The DAT packets of a TILE_READ: OFFSET, LAST on the highest, the counts in word 6 (R314, R315). -/
def sendTrain (n : Node) (p : Packet) (status : Nat) : Bytes → Nat → Node :=
  fun image counts =>
    let d := descOf p
    let size := if d.dcomp then 4096 else maxPayload n
    let k := ceilDiv image.length size
    let n := markAnswered n p
    (List.range k).foldl (fun n i =>
      let piece := (image.drop (i * size)).take size
      let bs := if d.dcomp then
          (let f := codecForm piece
           if 1 ≤ f.1 && f.1 ≤ 7 then f.2 else piece)
        else piece
      let r := withPayload (responseTo n p 3 status) bs
      let r := { r with op6 := wordOf counts, offset := BitVec.ofNat 32 (i * size),
                        flags := if i + 1 = k then r.flags ||| 0x20 else r.flags &&& ~~~(0x20 : BitVec 16) }
      sendPacket n r .none) n

/-- Answers a read that has ended (R177, R314, R150). -/
def answerRead (n : Node) (q : Req) (status : Nat) : Node :=
  let p := q.pkt
  let n := match isAcquire p, q.lines.head? with
    | true, some l => dropNc n (homeTile n l.1) p.ctx.toNat
    | _, _ => n
  let n := closeRecord n p status 0 0 0 []
  if status != stOK && status != stLateCheap then respond n p 2 status 0 0 []
  else if p.opcode = 4 then
    let t := transferImage (descOf p) (takenByte q)
    sendTrain n p status t.1 (countsWord t.2.1 t.2.2)
  else
    let bs := (List.range p.len.toNat).map fun i => takenByte q (p.pva.toNat + i)
    respond n p 3 status (if status = stOK then q.grant else 0) 0 bs

/-! ### Stores (R144, R229, R236–R239, R313) -/

/-- A byte of the live version, or of the image copy where the chunk has one. -/
def versionByte (n : Node) (ctx : Nat) (image : Bool) (pva : Nat) : Byte :=
  match rangeFor n ctx pva with
  | none => 0
  | some r =>
    let line := lineAt r pva
    let live := lineData n line
    let bs := if image then
        (match imageOf n (chunkOf line) with
         | some c => (imageLine n ctx r c line).getD live
         | none => live)
      else live
    bs.getD (pva % 64) 0

/-- What one unit stores, over one version. -/
structure UnitEffect where
  /-- Bytes by PVA. -/
  bytes : Patch
  ovf : Nat
  nans : Nat
  /-- The prior value of an ATOMIC. -/
  prior : Bytes
  deriving DecidableEq, Repr

/-- The effect of a unit over the bytes that `get` reads. -/
def unitEffect (p : Packet) (u : CommitUnit) (get : Nat → Byte) : UnitEffect :=
  let pva := p.pva.toNat
  if p.opcode = 3 then
    let ty := natField p.subop.toNat 3 0
    let w := atomicWidth ty
    let old := (List.range w).map fun i => get (pva + i)
    let bs := payloadOf p
    let r := atomicApply (natField p.subop.toNat 7 4) ty (leNat old) (leNat (bs.take w)) (leNat ((bs.drop w).take w))
    { bytes := putBytes [] pva (leBytes w r.value), ovf := bit01 r.ovf, nans := bit01 r.isNan, prior := old }
  else if p.opcode = 2 then
    { bytes := putBytes [] (pva + u.payOff) (((payloadOf p).drop u.payOff).take u.payLen), ovf := 0, nans := 0, prior := [] }
  else
    let d := descOf p
    match (tileUnits d p.offset.toNat ((tilePayload p).getD [])).find? fun t => t.payOff == u.payOff with
    | none => { bytes := [], ovf := 0, nans := 0, prior := [] }
    | some t =>
      let s := unitStore d (p.opcode == 6) get t
      { bytes := s.bytes, ovf := s.ovf, nans := s.nans, prior := [] }

/-- The unit overwrites all of a line. -/
def unitWhole (p : Packet) (u : CommitUnit) (pva : Nat) : Bool :=
  if p.opcode = 2 then u.payLen == 64
  else if p.opcode = 5 then
    let d := descOf p
    match (tileUnits d p.offset.toNat ((tilePayload p).getD [])).find? fun t => t.payOff == u.payOff with
    | none => false
    | some t => ((unitCovers d t).eraseDups.filter fun a => a / 64 * 64 == pva).length == 64
  else false

/-- Where a request's stores come from. -/
def reqOrigin (p : Packet) : Origin := .source p.src.toNat p.epoch.toNat

/-- Makes all lines of a unit ready for its store, and splits their chunks where needed. -/
def prepUnit (n : Node) (q : Req) (u : CommitUnit) : Node × Fetch :=
  let ctx := q.pkt.ctx.toNat
  u.lines.foldl (fun (a : Node × Fetch) l =>
    match rangeFor a.1 ctx l.2 with
    | none => (a.1, .waits)
    | some r =>
      let f := prepLine a.1 ctx r l.2 l.1 (.store (unitWhole q.pkt u l.2))
      if f.2 != .ready then (f.1, worseFetch a.2 f.2)
      else
        let s := prepSplit f.1 ctx r l.1 (reqOrigin q.pkt)
        (s.1, worseFetch a.2 s.2)) (n, .ready)

/-- Word 6 of a forward (R372). -/
def outcomeWord (p : Packet) (final : Bool) (status landed ovf nans : Nat) : Nat :=
  p.opcode.toNat + (if final then 2 ^ 8 + status * 2 ^ 16 + min landed 4096 * 2 ^ 24 + min ovf 4096 * 2 ^ 37 +
    min nans 4096 * 2 ^ 50 else 0)

/-- What the forwards of a request carry. -/
def reqInfo (p : Packet) (word6 : Nat) : FwdInfo :=
  { epoch := p.epoch.toNat, mapgen := p.mapgen.toNat, origSeq := p.seq.toNat, origSrc := p.src.toNat, word6 := word6,
    poison := false }

/-- The span and bytes of a forward of one line of a unit, by VSEL: a WRITE's own span, an ATOMIC's result, else the whole
line (R372). -/
def forwardSpan (n : Node) (p : Packet) (u : CommitUnit) (line pva vsel : Nat) : Nat × Bytes :=
  let ctx := p.ctx.toNat
  let get := fun (a : Nat) => versionByte n ctx (vsel == 1) a
  if p.opcode = 2 then
    (p.pva.toNat + u.payOff, (List.range u.payLen).map fun i => get (p.pva.toNat + u.payOff + i))
  else if p.opcode = 3 then
    (p.pva.toNat, (List.range (spanLen p)).map fun i => get (p.pva.toNat + i))
  else if vsel = 1 then (pva, (List.range 64).map fun i => get (pva + i))
  else (pva, lineData n line)

/-- Sends one forward of a request to the homes that need it. -/
def sendReqForward (n : Node) (tid : Nat) (q : Req) (pva vsel word6 : Nat) (bs : Bytes) : Node × List (Nat × Nat) :=
  match rangeFor n q.pkt.ctx.toNat pva with
  | none => (n, [])
  | some r =>
    if !needsResync n (lineAt r pva) then sendForwards n q.pkt.ctx.toNat r pva vsel (reqInfo q.pkt word6) (.forward tid) bs
    else
      -- a line whose forward state was lost goes whole, and that forward is its resync (R397)
      let f := sendForwards n q.pkt.ctx.toNat r (pva / 64 * 64) vsel (reqInfo q.pkt word6) (.forward tid)
        (lineData n (lineAt r pva))
      ({ f.1 with coh := { f.1.coh with
          mdirty := Tbl.upd f.1.coh.mdirty (lineAt r pva) fun m => { m with resync := false, fwds := m.fwds ++ f.2 } } }, f.2)

/-- A store that its tag puts within the cut of a part that has sealed is logged (R380). -/
def logLateCut (n : Node) (line : Nat) (p : Packet) : Node :=
  match partOf n (chunkOf line) with
  | some (_, x) =>
    if !x.mirror && !x.carried && (x.state == 2 || x.state == 3) && atOrBefore p.epoch.toNat x.epoch &&
        x.srcs.any (fun s => s.node == p.src.toNat && !s.pruned) then
      logEvent n { otherEvent 6 5 with ctx := p.ctx.toNat, node := p.src.toNat, data0 := line * 64 }
    else n
  | none => n

/-- Commits a unit made ready: every line in one step, then its forwards in commit order. -/
def commitUnit (n : Node) (tid : Nat) (q : Req) (u : CommitUnit) (rest : List CommitUnit) : Node :=
  let p := q.pkt
  let ctx := p.ctx.toNat
  let same := p.opcode != 3 && p.opcode != 6
  let live := unitEffect p u (versionByte n ctx false)
  let image := if same then live else unitEffect p u (versionByte n ctx true)
  let stored := u.lines.foldl (fun (a : Node × List (Nat × Nat × Nat)) l =>
    match rangeFor a.1 ctx l.2 with
    | none => a
    | some r =>
      let n := if coversWhole p l.2 then clearPoison a.1 l.1 else a.1
      let n := logLateCut n l.1 p
      let v := storeVersions n ctx r l.1 (reqOrigin p) same (patchLine l.2 live.bytes (lineData n l.1))
        (patchLine l.2 image.bytes)
      (v.1, a.2 ++ v.2.map fun s => (l.1, l.2, s))) (n, [])
  let q := { q with units := rest, landed := q.landed + u.payLen, ovf := q.ovf + live.ovf, nans := q.nans + live.nans,
                    result := live.prior }
  let count := stored.2.length
  let sent := (stored.2.zipIdx).foldl (fun (a : Node × List (Nat × Nat)) e =>
    let final := rest.isEmpty && e.2 + 1 == count
    let span := forwardSpan a.1 p u e.1.1 e.1.2.1 e.1.2.2
    let f := sendReqForward a.1 tid q span.1 e.1.2.2 (outcomeWord p final stOK q.landed q.ovf q.nans) span.2
    (f.1, a.2 ++ f.2)) (stored.1, [])
  let q := { q with fwds := q.fwds ++ sent.2,
                    status := if rest.isEmpty then some stOK else q.status }
  setReq sent.1 tid q

/-- A store stops before it has performed all its units. Where forwards have gone without FINAL, the line committed last
goes again with the outcome. -/
def stopStore (n : Node) (tid : Nat) (q : Req) (u : CommitUnit) (status : Nat) : Node :=
  let p := q.pkt
  let st := if status = stInternal && q.landed != 0 then stPartial else status
  let stopped := stopReq q st
  if q.landed = 0 || p.opcode = 3 then setReq n tid stopped
  else
    let done := (unitsOf n p).filter fun v => decide (v.payOff < u.payOff)
    match done.getLast?.bind fun v => v.lines.getLast?.map fun l => (v, l) with
    | none => setReq n tid stopped
    | some (v, l) =>
      let span := forwardSpan n p v l.1 l.2 0
      let f := sendReqForward n tid stopped span.1 3 (outcomeWord p true st q.landed q.ovf q.nans) span.2
      setReq f.1 tid { stopped with fwds := stopped.fwds ++ f.2 }

/-- The next unit of a store: performed when it is its turn and its lines are ready. -/
def storeUnit (n : Node) (tid : Nat) : Node × Bool :=
  match Tbl.find? n.trk.reqs tid with
  | none => (n, false)
  | some q =>
    match q.units with
    | [] => (n, false)
    | u :: rest =>
      if !storeTurn n tid q || u.lines.any (fun l => lineTaken n tid q l.1) then (n, false)
      else if u.lines.any (fun l => isPoisoned n l.1 && !coversWhole q.pkt l.2) then (stopStore n tid q u stPoisoned, true)
      else
        let f := prepUnit n q u
        if f.2 = .noKey then
          (stopStore (logEvent f.1 { otherEvent 3 6 with ctx := q.pkt.ctx.toNat }) tid q u stInternal, true)
        else if f.2 = .waits then (f.1, false)
        else (commitUnit f.1 tid q u rest, true)

/-! ### Ending (R146, R153, R375) -/

/-- A request increments its counter after its response (R153). -/
def countReq (n : Node) (q : Req) (status : Nat) : Node :=
  let p := q.pkt
  let counts := status == stOK || status == stPartial || (status == stPoisoned && q.landed != 0)
  if !isCnt p || isPeer p || !counts then n
  else
    let c := p.aux.toNat
    if isProbe p then
      if p.op5 != 0 && bitOf p.op5 63 then setErr n c
      else increment n c (fieldOf p.op5 39 0) (some p.epoch.toNat)
    else increment n c (if p.opcode = 3 then spanLen p else q.landed) (some p.epoch.toNat)

/-- Everything the completion of a store waits for has come about: its forwards are answered, its dense lines are on
their drive, no line of it is mirror-dirty, and a suspended module withholds it (R146, R294, R375, R397,
R414). -/
def storeSettled (n : Node) (q : Req) : Bool :=
  q.fwds.isEmpty && (q.recopy.all fun x => ((Tbl.find? n.ml.outs x.1).map fun l => l.copied.contains x.2).getD true) &&
  !q.lines.any (fun l => directPending n (blkOf l.1) || (Tbl.find? n.coh.mdirty l.1).isSome) &&
    !(n.ml.memb.suspended && q.lines.any fun l => ((rangeFor n q.pkt.ctx.toNat l.2).map fun r => r.peer != 0).getD false)

/-- No earlier request of the pair is unanswered, parked WAITs apart (R141, R151). -/
def probeTurn (n : Node) (tid : Nat) (q : Req) : Bool := firstOfPair n tid q

/-- Ends a request that has nothing left to do: its answer, then its counter (R153). The flag says whether it ended. -/
def finishReq (n : Node) (tid : Nat) : Node × Bool :=
  match Tbl.find? n.trk.reqs tid with
  | none => (n, false)
  | some q =>
    if !q.units.isEmpty then (n, false)
    else if isProbe q.pkt then
      if !probeTurn n tid q then (n, false)
      else (countReq (answerEnded (closeRecord (dropReq n tid) q.pkt stOK 0 0 0 []) q.pkt stOK 0 0 0 []) q stOK, true)
    else if isRead q.pkt then (answerRead (dropReq n tid) q (readStatus q), true)
    else if !storeSettled n q then (n, false)
    else
      let st := q.status.getD stOK
      let n := closeRecord (dropReq n tid) q.pkt st q.landed q.ovf q.nans q.result
      -- a store whose request state was lost ends without a response (R398)
      if q.lostState then (n, true) else
      (countReq (answerEnded n q.pkt st q.landed q.ovf q.nans q.result) q st, true)

/-! ### Settling -/

/-- One request does what it can. -/
def advanceReq (n : Node) (tid : Nat) : Node × Bool :=
  match Tbl.find? n.trk.reqs tid with
  | none => (n, false)
  | some q =>
    let a := if isRead q.pkt then readUnits n tid
             else if storesData q.pkt && !q.units.isEmpty then storeUnit n tid else (n, false)
    let f := finishReq a.1 tid
    (f.1, a.2 || f.2)

/-- Packets held back behind an ACQUIRE read or a PROBE are admitted once nothing holds them (R141). -/
def releaseHeld (n : Node) : Node × Bool :=
  n.prs.pairs.foldl (fun (a : Node × Bool) e =>
    match (Tbl.getD a.1.prs.pairs e.1 Pair.fresh).held with
    | [] => a
    | p :: rest =>
      if pairHeld a.1 p.dst.toNat p.src.toNat then a
      else
        let q := pairOf a.1 p.dst.toNat p.src.toNat
        (newRequest (setPair a.1 p.dst.toNat p.src.toNat { q with held := rest }) p, true)) (n, false)

/-- One pass over every request in its tracker, then over what is held back. -/
def settlePass (n : Node) : Node × Bool :=
  let a := (Tbl.keysOf n.trk.reqs).foldl (fun (a : Node × Bool) tid =>
    let f := advanceReq a.1 tid
    (f.1, a.2 || f.2)) (n, false)
  let h := releaseHeld a.1
  (h.1, a.2 || h.2)

/-- Passes while something moves. -/
def settleLoop : Nat → Node → Node
  | 0, n => n
  | fuel + 1, n =>
    let a := settlePass n
    if a.2 then settleLoop fuel a.1 else a.1

/-- The passes that all waiting work can need. -/
def settleFuel (n : Node) : Nat :=
  let own := (n.trk.reqs.map fun e => e.2.units.length + 2).foldl (· + ·) 2
  n.prs.pairs.foldl (fun k e => e.2.held.foldl (fun k p => k + (unitsOf n p).length + 3) k) own

/-- Lets every mirror-dirty line, request, firing and part do what it now can; dense blocks that nothing uses leave their
slices (R280, R294, R384, R397). -/
def settle (n : Node) : Node :=
  let n := clearMarks n
  releaseDirect (settleParts (startFirings (settleLoop (settleFuel n) n)))

end Sys2Proof.Machine
end

