-- ==== Sys2Proof/Machine/Rings.lean ====
section
/-! DEFINITION. Command rings: their registers, how a command is consumed, how it completes, and the control region by
which nodes reach them (R37–R57, R153, R456, R625). -/

namespace Sys2Proof.Machine

/-! ### Rings -/

/-- A ring is reachable: the admin ring always, a context's while the context is active (R39). -/
def ringReachable (n : Node) (k : Nat) : Bool := k == 0 || (slotOf n k).isSome

/-- A ring. -/
def ringOf (n : Node) (k : Nat) : Ring := Tbl.getD n.rings k Ring.reset

/-- The node with a ring replaced. -/
def setRing (n : Node) (k : Nat) (r : Ring) : Node := { n with rings := Tbl.put n.rings k r }

/-- The region that serves a ring (R37). -/
def ringRegion (k : Nat) : Nat := k % 8

/-- Live ENABLE. -/
def ringEnabled (r : Ring) : Bool := bitOf r.cfgLive 0
/-- SIZE_LOG2. -/
def ringLog (cfg : Word) : Nat := fieldOf cfg 11 8
/-- Slots of the ring. -/
def ringSlots (r : Ring) : Nat := 2 ^ ringLog r.cfgLive

/-- The words of a slot. -/
def slotWords (r : Ring) (slot : Nat) : List Word := bytesToWords 8 (memRead 0 r.storage (slot * 64) 64)

/-- PHASE of the descriptor in a slot. -/
def slotPhase (r : Ring) (slot : Nat) : Bool := bitOf (wordAt (slotWords r slot) 0) 8

/-- A ring whose consumption has ended returns to its start once nothing is in flight (R42). -/
def ringIdle (r : Ring) : Ring :=
  if r.draining && r.inflight == 0 then { r with head := 0, phase := true, draining := false } else r

/-! ### Consuming (R48, R51) -/

/-- A tracker of the ring's region is free for a command. -/
def cmdTrackerFree (n : Node) (region : Nat) : Bool :=
  let rs := getAt n.flt.regions region RegionState.reset
  !rs.resetting && decide (trackersUsed n region false + 1 + rs.trackersOut ≤ 4032)

/-- A ring's position after one descriptor. -/
def ringNext (r : Ring) : Ring :=
  if r.head + 1 < ringSlots r then { r with head := r.head + 1 } else { r with head := 0, phase := !r.phase }

/-- The command that a slot's descriptor starts, in its tracker. -/
def consumedCmd (n : Node) (k : Nat) (r : Ring) : Cmd :=
  { ring := k, fired := false, slot := r.head, desc := slotWords r r.head, writer := Tbl.getD r.writers r.head 0,
    region := ringRegion k, order := n.trk.nextTid, phase := .consumed, status := 0, result0 := 0, word3 := 0, landed := 0,
    setErr := false, stage := 0, work := [], waits := [], mirrored := false }

/-- The command codes of R53. -/
def commandCodes : List Nat :=
  [0x01, 0x02, 0x10, 0x11, 0x12, 0x13, 0x18, 0x20, 0x21, 0x22, 0x23, 0x24, 0x28, 0x29, 0x30, 0x31, 0x32, 0x33, 0x38, 0x39, 0x40, 0x41]

/-- A descriptor names no command: a reserved code, KOP or HOP (R53, R65, R349). -/
def codeReserved (ws : List Word) : Bool :=
  let op := fieldOf (wordAt ws 0) 7 0
  let kop := fieldOf (wordAt ws 3) 3 0
  !commandCodes.contains op || (op == 0x13 && !decide (1 ≤ kop ∧ kop ≤ 6)) || (op == 0x33 && fieldOf (wordAt ws 4) 1 0 == 3)

/-- A command that names nothing completes with INVALID as it is consumed. -/
def orInvalid (c : Cmd) : Cmd := if codeReserved c.desc then { c with phase := .ended, status := stInvalid } else c

/-- Consumes descriptors from HEAD while their PHASE matches and trackers are free. -/
def consumeRing (k : Nat) : Nat → Node → Node
  | 0, n => n
  | fuel + 1, n =>
    let r := ringOf n k
    if !ringEnabled r || r.stopped || slotPhase r r.head != r.phase then setRing n k { r with stalled := false }
    else if !cmdTrackerFree n (ringRegion k) then setRing n k { r with stalled := true }
    else
      let c := orInvalid (consumedCmd n k r)
      let n' := setCmd { n with trk := { n.trk with nextTid := n.trk.nextTid + 1 } } n.trk.nextTid c
      consumeRing k fuel (setRing n' k { ringNext r with inflight := r.inflight + 1 })

/-- Consumes what a ring holds: no more than twice around. -/
def consume (n : Node) (k : Nat) : Node := if ringReachable n k && n.power.entry == 0 then consumeRing k 2048 n else n

/-! ### RING_COMMIT, RING_DOORBELL, ring entries (R41–R43, R50) -/

/-- A commit of RING_CFG is refused (R42). -/
def ringCommitBad (r : Ring) : Bool :=
  let size := ringLog r.cfgStage
  decide (size < 6 ∨ 10 < size) || (ringEnabled r && size != ringLog r.cfgLive) ||
  (bitOf r.cfgStage 0 && (r.draining || (r.stopped && r.inflight != 0)))

/-- A write to a ring's commit register (R42, R457). -/
def commitRing (n : Node) (k : Nat) (w : Word) : Node :=
  if !ringReachable n k || !bitOf w 0 then n
  else
    let r := ringOf n k
    if ringCommitBad r then setRing n k { r with status := putField r.status 1 1 1 }
    else
      let was := ringEnabled r
      let r := { r with cfgLive := r.cfgStage, gen := nextGen r.gen }
      if bitOf r.cfgLive 0 then
        if was then setRing n k r
        else consume (setRing n k { r with storage := [], writers := [], stopped := false }) k
      else setRing n k (ringIdle { r with draining := was || r.draining, stopped := false })

/-- RING_COMMIT. -/
def ringCommit (k : Nat) (w : Word) (n : Node) : Node := if accepting n then commitRing n k w else n

/-- RING_COMMIT. -/
def execRingCommit (ring : BitVec 16) (w : Word) (s : State) : Host.Outcome State Fault Refusal :=
  .next (onNode s (ringCommit ring.toNat w))

/-- A write to a ring's doorbell (R43). -/
def ringDoorbell (k : Nat) (w : Word) (n : Node) : Node :=
  if accepting n && ringReachable n k then consume (setRing n k { ringOf n k with tailHint := fieldOf w 15 0 }) k else n

/-- RING_DOORBELL. -/
def execRingDoorbell (ring : BitVec 16) (w : Word) (s : State) : Host.Outcome State Fault Refusal :=
  .next (onNode s (ringDoorbell ring.toNat w))

/-- The slot holds a valid descriptor that is not yet consumed (R50). -/
def slotUnconsumed (r : Ring) (slot : Nat) : Bool :=
  slotPhase r slot == (if r.head ≤ slot then r.phase else !r.phase)

/-- A 64-byte store to a slot: it lands, or overruns and stops the ring (R50). -/
def storeSlot (n : Node) (k slot : Nat) (bs : Bytes) (writer : Nat) : Node :=
  let r := ringOf n k
  if ringEnabled r && !r.stopped && slotUnconsumed r slot then
    setRing n k (ringIdle { r with status := putField r.status 0 0 1, stopped := true, draining := true })
  else setRing n k { r with storage := memWrite 0 r.storage (slot * 64) (sliceOf bs 0 64), writers := Tbl.put r.writers slot writer }

/-- A store to a ring slot within the ring's size. -/
def ringEntryWrite (k slot : Nat) (bs : Bytes) (writer : Nat) (n : Node) : Node :=
  if accepting n && ringReachable n k && decide (slot < ringSlots (ringOf n k)) then storeSlot n k slot bs writer else n

/-- RING_ENTRY_WRITE. -/
def execRingEntryWrite (ring slot : BitVec 16) (data : Bytes) (writer : NodeId) (s : State) : Host.Outcome State Fault Refusal :=
  .next (onNode s (ringEntryWrite ring.toNat slot.toNat data writer.toNat))

/-- Rings of a region that stopped for want of a tracker go on (R51). -/
def trackerFreed (region : Nat) (n : Node) : Node :=
  if !accepting n then n
  else ((n.rings.filter fun e => ringRegion e.1 == region && e.2.stalled).map Prod.fst).foldl consume n

/-- TRACKER_FREED. -/
def execTrackerFreed (r : RegionId) (s : State) : Host.Outcome State Fault Refusal := .next (onNode s (trackerFreed r.val))

/-! ### Completion (R54–R56, R153) -/

/-- A command leaves its tracker for good. -/
def dropCmd (n : Node) (tid : Nat) : Node := { n with trk := { n.trk with cmds := Tbl.del n.trk.cmds tid } }

/-- A command's ring has one command less in flight (R42, R46). -/
def leaveRing (n : Node) (c : Cmd) : Node :=
  if c.fired then n
  else
    let r := ringOf n c.ring
    setRing n c.ring (ringIdle { r with inflight := r.inflight - 1 })

/-- The counter increment of a command is due. -/
def countDue (c : Cmd) : Bool := cntEn c && !countBad c

/-- A command's record is done with: its increment stands out, or the command is gone. -/
def afterRecord (n : Node) (tid : Nat) (c : Cmd) : Node :=
  if countDue c then setCmd n tid { c with phase := .countDue } else dropCmd n tid

/-- The completion record of a command (R54). -/
def completionRecord (n : Node) (c : Cmd) : Packet :=
  cmpPacket n (cmpNode c) (cmpAddr c) (cmdCtx c)
    (recordBytes c.status (cmdOp c) (cmdCtx c) (cmdTag c) c.slot (!c.fired && c.ring == 0) (curGen n (cmdCtx c)) c.result0 c.word3)

/-- A node that cannot take a record any more loses it, which is logged (R56). -/
def logLostRecord (n : Node) (c : Cmd) : Node :=
  logEvent n { otherEvent 3 7 with ctx := c.ring, node := cmpNode c, data0 := c.slot, data1 := cmdTag c }

/-- Every effect of an ended command is visible: its record goes out (R55). -/
def commandComplete (tid : Nat) (n : Node) : Node :=
  match cmdOf n tid with
  | none => n
  | some c =>
    let resync := n.coh.mdirty.any fun m => m.2.cmds.contains tid
    if c.phase != .ended || !accepting n || resync || (n.ml.memb.suspended && c.mirrored) then n
    else
      let n := leaveRing n c
      if cmpNode c = 0 || recordBad c then afterRecord n tid c
      else if isLost n (cmpNode c) then afterRecord (logLostRecord n c) tid c
      else
        setCmd (sendPacket n (completionRecord n c) (.record tid)) tid { c with phase := .recordSent }

/-- COMMAND_COMPLETE. -/
def execCommandComplete (tid : Nat) (s : State) : Host.Outcome State Fault Refusal := .next (onNode s (commandComplete tid))

/-- The counter PROBE of a command (R153). -/
def countProbePacket (n : Node) (c : Cmd) : Packet :=
  let p := blankPacket (cntNode c) n.nodeId 0 8
  { p with ctx := BitVec.ofNat 16 (cmdCtx c), flags := 0x28, aux := BitVec.ofNat 16 (cntIndex c),
           mapgen := BitVec.ofNat 32 (curGen n (cmdCtx c)),
           op5 := wordOf (if c.setErr then 2 ^ 63 else c.landed % 2 ^ 40) }

/-- The epoch that a command's increment gives a run it fires: its own run epoch, for a PROGRAM_RUN (R281). -/
def runEpochOf (c : Cmd) : Option Nat :=
  if cmdOp c != 0x39 then none else some (if c.stage = 0 then fieldOf (dword c 5) 63 48 else c.stage - 1)

/-- The record is acknowledged, or none was due: the counter increment is made here, or sent to the module that holds the
counter (R55, R153). -/
def countCommand (tid : Nat) (n : Node) : Node :=
  match cmdOf n tid with
  | none => n
  | some c =>
    if !(c.phase == .recordSent || c.phase == .countDue) || !accepting n then n
    else
      let peer := cmpNode c
      let q := pairOf n n.nodeId peer
      let n := if c.phase == .recordSent then
          setPair n n.nodeId peer { q with sent := q.sent.filter fun u => u.purpose != .record tid } else n
      if !countDue c then dropCmd n tid
      else if isOwn n (cntNode c) then
        let n := dropCmd n tid
        if (counterOf n (cntIndex c)).owner != cmdCtx c then n
        else settle (if c.setErr then setErr n (cntIndex c) else
          increment n (cntIndex c) c.landed (runEpochOf c))
      else setCmd (sendPacket n (countProbePacket n c) (.countProbe tid)) tid { c with phase := .countSent }

/-- COMPLETION_COUNTER_INCREMENT. -/
def execCompletionCounterIncrement (tid : Nat) (s : State) : Host.Outcome State Fault Refusal :=
  .next (onNode s (countCommand tid))

/-- The answer to a counter PROBE: a refusal is logged (R153). -/
def counterProbeAnswer (p : Packet) (n : Node) : Node :=
  let a := takeAnswer n p
  match a.2 with
  | some (.countProbe tid) =>
    let st := p.status.toNat
    if st = stRetry then a.1
    else
      let n := dropCmd a.1 tid
      if st = stOK then n
      else logEvent n { otherEvent 3 8 with node := p.src.toNat, status := st, ctx := p.ctx.toNat }
  | _ => a.1

/-- COUNTER_PROBE_ANSWER. -/
def execCounterProbeAnswer (p : Packet) (s : State) : Host.Outcome State Fault Refusal := .next (onNode s (counterProbeAnswer p))

/-! ### The control region (R38–R40, R456, R625) -/

/-- What an offset of the control region names: a control block or an entry window, its ring and the offset within. -/
inductive CtrlPlace where
  | block (ring off : Nat)
  | window (ring off : Nat)
  | nothing
  deriving DecidableEq, Repr

/-- Where a control offset lies (R38). -/
def ctrlPlace (a : Nat) : CtrlPlace :=
  if a < 0x1000 then .block 0 a
  else if a < 0x10001000 then .block (a / 0x1000 - 1) (a % 0x1000)
  else if decide (0x000100000000 ≤ a ∧ a < 0x000100010000) then .window 0 (a - 0x000100000000)
  else if decide (0x000200000000 ≤ a ∧ a < 0x000300000000) then .window ((a - 0x000200000000) / 0x10000) (a % 0x10000)
  else .nothing

/-- A control access is malformed (R625). -/
def ctrlBad (p : Packet) : Bool :=
  let a := p.pva.toNat
  let len := p.len.toNat
  let write := p.opcode == 2
  !(p.opcode == 1 || p.opcode == 2) || len == 0 || write != hasPayload p || isCnt p || isAcquire p || isPeer p || p.deadline != 0 ||
  (match ctrlPlace a with
   | .block k off => a % 8 != 0 || len % 8 != 0 || ctrlPlace (a + len - 1) != .block k (off + len - 1)
   | .window k off => a % (if write then 64 else 8) != 0 || len % (if write then 64 else 8) != 0 ||
       ctrlPlace (a + len - 1) != .window k (off + len - 1)
   | .nothing => true)

/-- The ring an access addresses. -/
def ctrlRing (p : Packet) : Nat :=
  match ctrlPlace p.pva.toNat with
  | .block k _ => k
  | .window k _ => k
  | .nothing => 0

/-- The offset of an access within its block or window. -/
def ctrlOff (p : Packet) : Nat :=
  match ctrlPlace p.pva.toNat with
  | .block _ o => o
  | .window _ o => o
  | .nothing => 0

/-- The access is to an entry window. -/
def ctrlEntries (p : Packet) : Bool :=
  match ctrlPlace p.pva.toNat with
  | .window _ _ => true
  | _ => false

/-- An access is refused with DENIED (R39, R40, R625). -/
def ctrlDenied (n : Node) (p : Packet) : Bool :=
  let k := ctrlRing p
  let driver := n.alm.driverNodes.contains p.src.toNat
  let node := k != 0 && isAdmitted n k p.src.toNat
  let off := ctrlOff p
  let len := p.len.toNat
  let withheld := p.opcode == 2 && !ctrlEntries p &&
    (List.range (len / 8)).any fun i => [0x000, 0x008, 0x020, 0x800].contains (off + 8 * i)
  p.ctx.toNat != k || !ringReachable n k || !(driver || (node && !withheld)) ||
  (ctrlEntries p && decide (64 * ringSlots (ringOf n k) < off + len))

/-- A register of a ring control block as a read returns it. -/
def ringRegister (r : Ring) (off : Nat) : Word :=
  if off = 0x000 then r.cfgStage
  else if off = 0x018 then wordOf (r.head + bit01 r.phase * 2 ^ 16)
  else if off = 0x020 then r.status
  else if off = 0x028 then wordOf r.inflight
  else if off = 0x800 then r.cfgLive
  else if off = 0x808 then wordOf r.gen
  else 0

/-- A write to a register of a ring control block. -/
def writeRingRegister (n : Node) (k off : Nat) (w : Word) : Node :=
  let r := ringOf n k
  if off = 0x000 then setRing n k { r with cfgStage := w &&& 0xF01 }
  else if off = 0x008 then commitRing n k w
  else if off = 0x010 then ringDoorbell k w n
  else if off = 0x020 then setRing n k { r with status := r.status &&& ~~~(w &&& 7) }
  else if off = 0x800 then setRing n k { r with status := putField r.status 2 2 1 }
  else n

/-- A control access that may be made: its effect and its answer. -/
def doCtrl (n : Node) (p : Packet) : Node :=
  let k := ctrlRing p
  let off := ctrlOff p
  let len := p.len.toNat
  let bs := payloadOf p
  if p.opcode = 2 then
    let n := if ctrlEntries p then
        (List.range (len / 64)).foldl (fun n i => storeSlot n k (off / 64 + i) ((bs.drop (64 * i)).take 64) p.src.toNat) n
      else (List.range (len / 8)).foldl (fun n i => writeRingRegister n k (off + 8 * i) (wordOf (numAt bs (8 * i) 8))) n
    answerEnded (closeRecord n p stOK len 0 0 []) p stOK len 0 0 []
  else
    let r := ringOf n k
    let out := if ctrlEntries p then memRead 0 r.storage off len
      else (List.range (len / 8)).flatMap fun i => leBytes 8 (ringRegister r (off + 8 * i)).toNat
    respond (closeRecord n p stOK 0 0 0 []) p 3 stOK 0 0 out

/-- A new control access: INVALID, DENIED, RETRY, or its effect (R59, R18). A store waits behind a refused one like any
other (R142). -/
def newCtrl (n : Node) (p : Packet) : Node :=
  let n := noteReq n p
  if ctrlBad p then refuseReq n p stInvalid
  else if ctrlDenied n p then refuseReq n p stDenied
  else match (if storesData p then markBefore n p else none) with
    | some m => refuseRetry (countRefusal n 0 p) p 6 m.2
    | none =>
      if n.ml.memb.suspended then refuseRetry n p 9 0
      else match takeWindow n p.src.toNat with
        | none => refuseRetry n p 12 0
        | some n => doCtrl n p

/-- A delivered control access (R242). -/
def takeCtrl (n : Node) (p : Packet) : Node :=
  match dupFate n p with
  | .drop => n
  | .stale => refuseReq n p stStaleSeq
  | .answer r =>
    let n := dropMark n p
    let st := r.status.getD stOK
    if n.ml.memb.suspended then refuseDuplicate n p
    else if p.opcode = 1 && st == stOK then (if ctrlBad p || ctrlDenied n p then refuseReq n p stStaleSeq else doCtrl n p)
    else answerEnded n p st r.landed r.ovf r.nans r.result
  | .fresh => newCtrl n p

end Sys2Proof.Machine
end

