-- ==== Sys2Proof/Machine/Requests.lean ====
section
/-! DEFINITION. The remote memory operations of a home: READ, WRITE, ATOMIC, the tile operations, WAIT and PROBE, accesses to
the control region, and deadlines (R113–R117, R139–R160, R176, R229, R236, R313–R320, R625). -/

namespace Sys2Proof.Machine

/-- An earlier REQ packet of the pair has been delivered and its command has not run yet (R141). -/
def earlierDelivered (n : Node) (p : Packet) : Bool :=
  n.prs.delivered.any fun q => q.cls == 0 && samePair q p && serialLt 32 q.seq.toNat p.seq.toNat

/-- Runs a REQ packet's command: only on a packet of its kind, in its pair's order, while the module accepts requests; then
everything that waits moves on. -/
def takeRow (kind : Packet → Bool) (f : Node → Packet → Node) (p : Packet) (n : Node) : Node :=
  if !accepting n || p.cls != 0 || !kind p then n
  else
    let a := present n p
    if !a.2 then a.1
    else if earlierDelivered a.1 p then { a.1 with prs := { a.1.prs with delivered := a.1.prs.delivered ++ [p] } }
    else settle (f a.1 p)

/-- A request to home space with this OPCODE, carrying neither CTRL_ACCESS nor a mirror's PEER. -/
def homeKind (opcode : Nat) (p : Packet) : Bool :=
  p.opcode.toNat == opcode && !isCtrl p && !isZeroLength p && !(isPeer p && decide (opcode ≤ 2))

/-- READ. -/
def readReq (p : Packet) (n : Node) : Node := takeRow (homeKind 1) takeRequest p n
/-- READ (R176, R188). -/
def execRead (p : Packet) (s : State) : Host.Outcome State Fault Refusal := .next (onNode s (readReq p))

/-- WRITE. -/
def writeReq (p : Packet) (n : Node) : Node := takeRow (homeKind 2) takeRequest p n
/-- WRITE (R144, R146). -/
def execWrite (p : Packet) (s : State) : Host.Outcome State Fault Refusal := .next (onNode s (writeReq p))

/-- ATOMIC. -/
def atomicReq (p : Packet) (n : Node) : Node := takeRow (homeKind 3) takeRequest p n
/-- ATOMIC (R227–R235). -/
def execAtomic (p : Packet) (s : State) : Host.Outcome State Fault Refusal := .next (onNode s (atomicReq p))

/-- TILE_READ. -/
def tileReadReq (p : Packet) (n : Node) : Node := takeRow (homeKind 4) takeRequest p n
/-- TILE_READ (R314). -/
def execTileRead (p : Packet) (s : State) : Host.Outcome State Fault Refusal := .next (onNode s (tileReadReq p))

/-- TILE_WRITE. -/
def tileWriteReq (p : Packet) (n : Node) : Node := takeRow (homeKind 5) takeRequest p n
/-- TILE_WRITE (R313). -/
def execTileWrite (p : Packet) (s : State) : Host.Outcome State Fault Refusal := .next (onNode s (tileWriteReq p))

/-- TILE_ACC. -/
def tileAccReq (p : Packet) (n : Node) : Node := takeRow (homeKind 6) takeRequest p n
/-- TILE_ACC (R236–R239). -/
def execTileAcc (p : Packet) (s : State) : Host.Outcome State Fault Refusal := .next (onNode s (tileAccReq p))

/-- WAIT. -/
def waitReq (p : Packet) (n : Node) : Node := takeRow (homeKind 7) takeRequest p n
/-- WAIT (R156–R160). -/
def execWait (p : Packet) (s : State) : Host.Outcome State Fault Refusal := .next (onNode s (waitReq p))

/-- PROBE, and the READ or WRITE of no bytes that R151 treats as one. -/
def probeKind (p : Packet) : Bool := !isCtrl p && isProbe p

/-- PROBE. -/
def probeReq (p : Packet) (n : Node) : Node := takeRow probeKind takeRequest p n
/-- PROBE (R151). -/
def execProbe (p : Packet) (s : State) : Host.Outcome State Fault Refusal := .next (onNode s (probeReq p))

/-- A request that carries CTRL_ACCESS. -/
def ctrlReq (p : Packet) (n : Node) : Node := takeRow isCtrl takeCtrl p n
/-- CONTROL_REGION_ACCESS (R38–R40, R625). -/
def execControlRegionAccess (p : Packet) (s : State) : Host.Outcome State Fault Refusal := .next (onNode s (ctrlReq p))

/-! ### Deadlines (R159, R316–R320) -/

/-- A parked WAIT's deadline passes: LATE_FAIL, with VALUE as it stands (R159). -/
def waitLate (src seq : Nat) (n : Node) : Node :=
  match n.ctr.waits.find? fun w => w.pkt.src.toNat == src && w.pkt.seq.toNat == seq && w.pkt.deadline != 0 with
  | none => n
  | some w =>
    answerWait { n with ctr := { n.ctr with waits := n.ctr.waits.erase w } } w.pkt stLateFail (counterOf n w.counter).value

/-- WAIT_DEADLINE_EXPIRY. -/
def execWaitDeadlineExpiry (src : NodeId) (seq : BitVec 32) (s : State) : Host.Outcome State Fault Refusal :=
  .next (onNode s (waitLate src.toNat seq.toNat))

/-- A line of the home space as its home copy stands, where it can be read at once. -/
def peekLine (n : Node) (line : Nat) : Option Bytes :=
  match spanOf n line with
  | none => none
  | some (ctx, r) =>
    if lineValid n line then some (lineData n line)
    else
      let keys := keysFor n ctx r
      if keys.isEmpty then none
      else match storedAt n r (blkOf line) with
        | none => none
        | some (st, bs) => (openBlock keys r.comp (blkOf line) st bs).map fun p => (p.drop (line % 64 * 64)).take 64

/-- The request can be served from a shadow copy (R319). -/
def shadowSuits (p : Packet) : Bool :=
  if p.opcode = 4 then (descOf p).fmt == 0 else p.pva.toNat % 4 == 0 && p.len.toNat % 4 == 0

/-- Bytes of one element of a shadow copy. -/
def shadowSize (r : Range) : Nat := fmtBits r.shadowFmt / 8

/-- First local offset of the 16 shadow elements of a line. -/
def shadowOff (r : Range) (pva : Nat) : Nat := r.dlAux * 65536 + (pva / 64 * 64 - r.start) / 4 * shadowSize r

/-- The shadow of a line lies in ranges that may hold it: STACK_PINNED or TILE_PINNED, of the same context (R295). -/
def shadowHeld (n : Node) (ctx : Nat) (r : Range) (pva : Nat) : Bool :=
  match spanOf n (shadowOff r pva / 64) with
  | some (c, x) => c == ctx && (x.resClass == 0 || x.resClass == 3)
  | none => false

/-- A line served from its shadow: each element widened exactly to FP32 (R319). -/
def shadowLine (n : Node) (ctx : Nat) (r : Range) (line pva : Nat) : Option ReadLine :=
  let sz := shadowSize r
  let off := shadowOff r pva
  if !shadowHeld n ctx r pva then none
  else match peekLine n (off / 64), fmtFloat? r.shadowFmt with
    | some bs, some f =>
      let data := (List.range 16).flatMap fun i =>
        leBytes 4 (ffRound ffFP32 .rne (ffDecode f (numAt bs (off % 64 + i * sz) sz))).code
      some { line := line, pva := pva, data := data, poison := isPoisoned n (off / 64), cheap := true }
    | _, _ => none

/-- A line served from its range's fill pattern (R320). -/
def fillLine (r : Range) (line pva : Nat) : ReadLine :=
  { line := line, pva := pva, poison := false, cheap := true
    data := (List.range 64).map fun i => BitVec.ofNat 8 (r.dlAux / 256 ^ ((line * 64 + i) % 4)) }

/-- An unread line at the limit: what serves it, whether it is waited for, and whether the request fails. -/
structure LateLine where
  taken : Option ReadLine
  waits : Bool
  fails : Bool
  deriving DecidableEq, Repr

/-- The deadline policy applied to one unread line (R318). -/
def lateLine (n : Node) (p : Packet) (line pva : Nat) : LateLine :=
  match rangeFor n p.ctx.toNat pva with
  | none => ⟨none, false, true⟩
  | some r =>
    if r.dlPolicy = 0 then ⟨none, true, false⟩
    else if r.dlPolicy = 2 then ⟨some (fillLine r line pva), false, false⟩
    else if r.dlPolicy = 1 && shadowSuits p then
      match shadowLine n p.ctx.toNat r line pva with
      | some t => ⟨some t, false, false⟩
      | none => ⟨none, false, true⟩
    else ⟨none, false, true⟩

/-- A shadow span that no longer lies where it may is logged (R319). -/
def shadowGone (n : Node) (p : Packet) (pva : Nat) : Bool :=
  match rangeFor n p.ctx.toNat pva with
  | none => false
  | some r => r.dlPolicy = 1 && shadowSuits p && !shadowHeld n p.ctx.toNat r pva

/-- A read's deadline passes: every unread line is treated by its range's policy (R318). -/
def readLate (src seq : Nat) (n : Node) : Node :=
  match n.trk.reqs.find? fun e => e.2.pkt.src.toNat == src && e.2.pkt.seq.toNat == seq with
  | none => n
  | some (tid, q) =>
    if !isRead q.pkt || q.pkt.deadline == 0 || q.late || q.units.isEmpty || !accepting n then n
    else
      let open_ := q.units.flatMap (·.lines)
      let fate := fun (l : Nat × Nat) => lateLine n q.pkt l.1 l.2
      let n := if open_.any fun l => shadowGone n q.pkt l.2 then
          logEvent n { otherEvent 4 9 with ctx := q.pkt.ctx.toNat, data0 := q.pkt.pva.toNat } else n
      let q := { q with late := true, taken := q.taken ++ open_.filterMap fun l => (fate l).taken,
                        units := q.units.filter fun u => u.lines.any fun l => (fate l).waits }
      let q := if open_.any fun l => (fate l).fails then
          stopReq q (if q.taken.any (·.poison) then stPoisoned else stLateFail) else q
      settle (setReq n tid q)

/-- DEADLINE_EXPIRY. -/
def execDeadlineExpiry (src : NodeId) (seq : BitVec 32) (s : State) : Host.Outcome State Fault Refusal :=
  .next (onNode s (readLate src.toNat seq.toNat))

end Sys2Proof.Machine
end

