-- ==== Sys2Proof/Machine/Recalls.lean ====
section
/-! DEFINITION. Answers to recalls, write-backs, the end of a snoop-ring invalidation, and what the loss of a holder does to
the lines it held (R183–R192, R203, R209–R211). -/

namespace Sys2Proof.Machine

/-! ### The legs of a recall (R185) -/

/-- The line whose recall a node answers: the recall has a leg to it with this SEQ. -/
def recallOf (n : Node) (node seq : Nat) : Option (Nat × Recall) :=
  n.coh.recalls.find? fun e => e.2.legs.any fun l => l.node == node && l.seq == seq

/-- An answer's code, class and shape are valid for a recall (R184). -/
def answerValid (rc : Recall) (p : Packet) : Bool :=
  let o := p.opcode.toNat
  let data := o == 0x61 || o == 0x63
  let codes := if rc.opcode = 0x40 then [0x60] else if rc.opcode = 0x41 then [0x60, 0x61, 0x64] else [0x60, 0x61, 0x62, 0x63, 0x64]
  codes.contains o && p.cls == (if data then 3 else 2) && (!data || (hasPayload p && p.len == 64)) &&
  p.ctx.toNat == rc.ctx && p.pva.toNat == rc.pva

/-- The node of a line's entry no longer holds it; the entry of a line that nobody holds goes. -/
def dropHolder (n : Node) (line x : Nat) : Node :=
  match dirOf n line with
  | none => n
  | some e =>
    if e.coarse then n
    else
      let ptrs := e.ptrs.filter (· != x)
      setDir n line (if ptrs.isEmpty then none else some { e with ptrs := ptrs })

/-- The owner keeps the line in S. -/
def keepShared (n : Node) (line : Nat) : Node :=
  match dirOf n line with
  | none => n
  | some e => setDir n line (some { e with excl := false })

/-- A leg of a recall is answered: with the last one the recall ends, and a coarse entry that was invalidated goes. -/
def endLeg (n : Node) (line x : Nat) : Node :=
  match Tbl.find? n.coh.recalls line with
  | none => n
  | some rc =>
    let legs := rc.legs.filter fun l => l.node != x
    if !legs.isEmpty then
      { n with coh := { n.coh with recalls := Tbl.put n.coh.recalls line { rc with legs := legs } } }
    else
      let n := { n with coh := { n.coh with recalls := Tbl.del n.coh.recalls line } }
      match dirOf n line with
      | some e => if e.coarse && rc.opcode == 0x40 then setDir n line none else n
      | none => n

/-- The FWD packet with this SEQ no longer awaits its answer. -/
def settleFwd (n : Node) (peer seq : Nat) : Node :=
  let q := pairOf n n.nodeId peer
  setPair n n.nodeId peer { q with sent := q.sent.filter fun u => !(u.pkt.cls == 1 && u.pkt.seq.toNat == seq) }

/-- Data returned for a line whose copies are being discarded is dropped (R78, R394). -/
def discardsData : RecallCause → Bool
  | .clear _ => true
  | .restore _ => true
  | _ => false

/-! ### Returned data (R189–R191) -/

/-- Makes a line ready to take a whole line of returned data: room in its slice, and a split where one is needed. A line
whose key slot is empty is taken into its slice all the same (R92). -/
def prepReturn (n : Node) (ctx : Nat) (r : Range) (line : Nat) (o : Origin) : Node × Fetch :=
  let f := fetchLine n ctx r line true
  let f := if f.2 == .noKey then openSlice f.1 (blkOf line) else f
  if f.2 != .ready then (f.1, .waits)
  else
    let s := prepSplit f.1 ctx r line o
    (s.1, if s.2 == .ready then .ready else .waits)

/-- What the forward of returned data carries. -/
def returnInfo (n : Node) (ctx epoch mapgen : Nat) : FwdInfo := { ownInfo n ctx with epoch := epoch, mapgen := mapgen }

/-- The packet goes back among those delivered: its command is given again. -/
def putBack (n : Node) (p : Packet) : Node := { n with prs := { n.prs with delivered := n.prs.delivered ++ [p] } }

/-- Applies returned data to a line made ready; answers the forwards sent. -/
def applyReturn (n : Node) (ctx : Nat) (r : Range) (line epoch : Nat) (p : Packet) : Node × List (Nat × Nat) :=
  commitLine n ctx r line (.source p.src.toNat epoch) (.lineForward line) (returnInfo n ctx epoch p.mapgen.toNat)
    (sliceOf (payloadOf p) 0 64)

/-- An answer that the home does not take is logged (R185). -/
def logBadAnswer (n : Node) (p : Packet) : Node :=
  logEvent n { otherEvent 3 11 with node := p.src.toNat, ctx := p.ctx.toNat, data0 := p.pva.toNat, data1 := p.opcode.toNat }

/-- An answer to a recall (R185, R188, R192). -/
def recallAnswer (p : Packet) (n : Node) : Node :=
  let o := p.opcode.toNat
  if !decide (0x60 ≤ o ∧ o ≤ 0x64) || !accepting n then n
  else
    let a := present n p
    if !a.2 then a.1
    else
      let n := a.1
      let x := p.src.toNat
      match recallOf n x (reqSeq p) with
      | none => logBadAnswer n p
      | some (line, rc) =>
        if !answerValid rc p then logBadAnswer n p
        else if o = 0x64 then
          let legs := rc.legs.map fun l => if l.node == x then { l with wbPending := true } else l
          settleFwd { n with coh := { n.coh with recalls := Tbl.put n.coh.recalls line { rc with legs := legs } } } x (reqSeq p)
        else
          let data := (o == 0x61 || o == 0x63) && !discardsData rc.cause
          let finish := fun (n : Node) =>
            let n := settleFwd n x (reqSeq p)
            let n := if o == 0x62 || o == 0x63 then keepShared n line else dropHolder n line x
            settle (endLeg n line x)
          match (if data then spanOf n line else none) with
          | none => finish n
          | some (ctx, r) =>
            let epoch := fieldOf p.op5 47 32
            let f := prepReturn n ctx r line (.source x epoch)
            if f.2 != .ready then putBack f.1 p
            else finish (applyReturn f.1 ctx r line epoch p).1

/-- RECALL_ANSWER. -/
def execRecallAnswer (p : Packet) (s : State) : Host.Outcome State Fault Refusal := .next (onNode s (recallAnswer p))

/-! ### Voluntary write-back (R191, R192) -/

/-- A line whose write-back was applied: MDIRTY is set while its forward is not acknowledged; unmirrored, the WB_ACK goes
at once (R191). -/
def evictApplied (n : Node) (line ctx : Nat) (p : Packet) (fwds : List (Nat × Nat)) : Node :=
  if fwds.isEmpty then sendWbAck n p.src.toNat p.seq.toNat p.tag.toNat ctx p.pva.toNat stOK
  else
    let old := (Tbl.find? n.coh.mdirty line).getD
      { evict := none, inList := false, resync := false, fwds := [], ctx := ctx, pva := p.pva.toNat, askers := [], cmds := [] }
    let m := { old with evict := some (p.src.toNat, p.seq.toNat, p.tag.toNat), fwds := old.fwds ++ fwds }
    { n with coh := { n.coh with mdirty := Tbl.put n.coh.mdirty line m } }

/-- WB_EVICT (R191, R192). -/
def wbEvict (p : Packet) (n : Node) : Node :=
  if p.opcode != 0x68 || p.cls != 3 || !accepting n then n
  else
    let a := present n p
    if !a.2 then a.1
    else
      let n := a.1
      let x := p.src.toNat
      let ctx := p.ctx.toNat
      let pva := p.pva.toNat
      let ack := fun (n : Node) (st : Nat) => sendWbAck n x p.seq.toNat p.tag.toNat ctx pva st
      let refuse := fun (n : Node) => ack (logBadAnswer n p) stInvalid
      match rangeFor n ctx pva with
      | none => refuse n
      | some r =>
        let line := lineAt r pva
        let rcl := (Tbl.find? n.coh.recalls line).filter fun rc => rc.opcode != 0x40 && rc.legs.any fun l => l.node == x
        let owner := ((dirOf n line).map fun e => e.excl && e.ptrs.contains x).getD false
        if pva % 64 != 0 || !hasPayload p || p.len != 64 || (rcl.isNone && !owner) then refuse n
        else if rcl.isNone && !isAdmitted n ctx x then ack n stDenied
        else
          let finish := fun (n : Node) =>
            let n := match rcl with
              | some rc => ((rc.legs.filter fun l => l.node == x).foldl (fun n l => settleFwd n x l.seq) n)
              | none => n
            endLeg (dropHolder n line x) line x
          if (rcl.map fun rc => discardsData rc.cause).getD false then settle (ack (finish n) stOK)
          else
            let f := prepReturn n ctx r line (.source x p.epoch.toNat)
            if f.2 != .ready then putBack f.1 p
            else
              let c := applyReturn f.1 ctx r line p.epoch.toNat p
              settle (evictApplied (finish c.1) line ctx p c.2)

/-- WB_EVICT. -/
def execWbEvict (p : Packet) (s : State) : Host.Outcome State Fault Refusal := .next (onNode s (wbEvict p))

/-- Every live tile has acknowledged an invalidation on the snoop ring (R25, R203). -/
def snoopComplete (line : Nat) (n : Node) : Node := if accepting n && snooping n line then settle (endSnoop n line) else n

/-- SNOOP_INVALIDATION_COMPLETE. -/
def execSnoopInvalidationComplete (line : Nat) (s : State) : Host.Outcome State Fault Refusal :=
  .next (onNode s (snoopComplete line))

/-! ### Loss of a holder (R209–R211) -/

/-- A line owned by a lost node returns to I; with POISON_ON_LOSS in a coherent range it is poisoned (R210). -/
def ownerLost (n : Node) (line x : Nat) : Node :=
  let n := dropHolder n line x
  match spanOf n line with
  | some (ctx, r) => if r.poisonOnLoss && !r.nc then poisonLine n ctx r line else n
  | none => n

/-- The entries of the directory that name a node. -/
def heldBy (n : Node) (x : Nat) : List (Nat × Bool) :=
  (n.coh.dir.filter fun e => recorded e.2 x).map fun e => (e.1, e.2.excl)

/-- A holder is lost: its pointers go, the lines it owned return to I, and recalls pending at it count as answered with
ACK_I. -/
def holderLost (n : Node) (x : Nat) : Node :=
  let n := (heldBy n x).foldl (fun n e => if e.2 then ownerLost n e.1 x else dropHolder n e.1 x) n
  let pend := (n.coh.recalls.filter fun e => e.2.legs.any fun l => l.node == x).map Prod.fst
  pend.foldl (fun n line => endLeg n line x) n

end Sys2Proof.Machine
end

