-- ==== Sys2Proof/Machine/Keys.lean ====
section
/-! DEFINITION. KEY_LOAD: context and share keys, admission sets, and the life of a context (R62–R70, R81, R434, R445,
R598). -/

namespace Sys2Proof.Machine

/-! ### Order of range and key commands (R81) -/

/-- The opcodes that take effect in ring order within a context: range and key commands, and REVOKE (R81, R433). -/
def rangeKeyOp (op : Nat) : Bool := [0x10, 0x11, 0x12, 0x13, 0x18].contains op

/-- Every earlier range and key command of the command's context has taken effect. -/
def rangeTurn (n : Node) (c : Cmd) : Bool :=
  (earlierCmds n c).all fun e => !(rangeKeyOp (cmdOp e.2) && cmdCtx e.2 == cmdCtx c && e.2.phase == .consumed)

/-! ### The descriptor (R64) -/

/-- KOP. -/
def keyKop (c : Cmd) : Nat := fieldOf (dword c 3) 3 0
/-- SHARE_SLOT. -/
def keySlotNo (c : Cmd) : Nat := fieldOf (dword c 3) 17 8
/-- KEY_GEN. -/
def keyGen (c : Cmd) : Nat := fieldOf (dword c 3) 63 32
/-- KEY_SALT. -/
def keySalt (c : Cmd) : Nat := (dword c 4).toNat
/-- SHARE_ID. -/
def keyShareId (c : Cmd) : Nat := fieldOf (dword c 5) 31 0
/-- KEEPER0 to KEEPER2. -/
def keyKeepers (c : Cmd) : List Nat := [fieldOf (dword c 6) 15 0, fieldOf (dword c 6) 31 16, fieldOf (dword c 6) 47 32]
/-- FIRST_NODE. -/
def keyFirst (c : Cmd) : Nat := fieldOf (dword c 4) 15 0
/-- LAST_NODE. -/
def keyLast (c : Cmd) : Nat := fieldOf (dword c 4) 31 16

/-- A field that KOP leaves reserved is not 0. -/
def keyReserved (c : Cmd) : Bool :=
  let k := keyKop c
  let share := k == 3 || k == 4
  let key := k == 1 || k == 3
  fieldOf (dword c 3) 7 4 != 0 || fieldOf (dword c 3) 31 18 != 0 || (!share && keySlotNo c != 0) || (!key && keyGen c != 0) ||
  (if key then false else if k == 5 || k == 6 then fieldOf (dword c 4) 63 32 != 0 else dword c 4 != 0) ||
  (k != 3 && keyShareId c != 0) || fieldOf (dword c 5) 63 32 != 0 ||
  (if k == 1 then fieldOf (dword c 6) 63 48 != 0 else dword c 6 != 0) || dword c 7 != 0

/-! ### Deriving keys (R66, R67) -/

/-- What KEY_LOAD needs of Halord: the owner storage key register, the Unsealed latch, and whether scan or debug has
cleared the keys since the last cold reset. -/
structure KeyGate where
  master : Bytes
  unsealed : Bool
  cleared : Bool
  deriving DecidableEq, Repr

/-- The gate as the security state sets it. -/
def keyGate (h : Halord) : KeyGate := { master := h.sec.storageKey, unsealed := h.sec.unsealed, cleared := h.sec.cleared }

/-- A context's key pair (R66). -/
def contextKey (master : Bytes) (ctx gen salt : Nat) : Bytes :=
  hkdf512 master (leBytes 8 salt) (asciiOf "SX96-CTX" ++ leBytes 2 ctx ++ leBytes 4 gen) 64

/-- A share key pair (R66). -/
def shareKey (master : Bytes) (ident gen salt : Nat) : Bytes :=
  hkdf512 master (leBytes 8 salt) (asciiOf "SX96-SHR" ++ leBytes 4 ident ++ leBytes 4 gen) 64

/-- The key check value (R67). -/
def keyCheck (keys : Bytes) : Word := wordOf (leNat ((aesEncrypt (keys.take 32) (List.replicate 16 0)).take 8))

/-- The refusals of a KEY_LOAD, in their order (R59, R68): INVALID, UNSEALED, DENIED, then NO_RESOURCE. -/
def keyChecked (g : KeyGate) (n : Node) (tid : Nat) (c : Cmd) (invalid full : Bool) (f : Unit → Node) : Node :=
  match firstStatus [(headerBad c || keyReserved c || invalid, stInvalid), (g.unsealed, stUnsealed),
      (ringDenied c || countDenied n c || g.master.isEmpty || g.cleared, stDenied), (full, stNoResource)] with
  | some st => refuseCmd n tid st
  | none => f ()

/-- Runs a KEY_LOAD row: the command is there with this KOP, may start, and it is its turn. -/
def keyRow (kop tid : Nat) (n : Node) (f : Cmd → Node) : Node :=
  startCmd n tid 0x13 fun c => if keyKop c == kop && rangeTurn n c then f c else n

/-! ### Contexts (R62, R65, R598) -/

/-- A context is active. -/
def ctxActive (n : Node) (ctx : Nat) : Bool := (slotOf n ctx).isSome

/-- The lowest free context slot number. -/
def freeSlotNo (n : Node) : Nat :=
  ((List.range 4096).find? fun k => !n.ctxs.slots.any fun s => s.2.slotNo == k).getD 0

/-- A port's traffic block with a new shaper for a context (R445). -/
def addShaper (ctx : Nat) (a : Almanac) (t : TrafficPort) : TrafficPort :=
  { t with shapers := Tbl.put t.shapers ctx (Shaper.fresh a) }

/-- A context becomes active: slot, shapers on every port, and the module is Active with its first one (R62, R445,
R598). -/
def openContext (n : Node) (ctx : Nat) (key : KeySlot) : Node :=
  let s : CtxSlot :=
    { slotNo := freeSlotNo n, key := key, admits := 0, ranges := [], nextGen := 1, keepers := [], curGen := 0, kept := [] }
  let n := setSlot n ctx s
  let n := { n with traf := n.traf.map (addShaper ctx n.alm) }
  let n := { n with pol := { n.pol with buckets := Tbl.put n.pol.buckets ctx (Bucket.fresh n.alm) } }
  let n := { n with rings := Tbl.put n.rings ctx Ring.reset }
  if n.power.state = 2 then { n with power := { n.power with state := 3 } } else n

/-- KEEPER0–2 are neither all 0 nor three distinct node IDs. -/
def keepersBad (ks : List Nat) : Bool :=
  !(ks.all (· == 0)) && !(ks.all (fun k => decide (1 ≤ k ∧ k ≤ 0xFFEF)) && distinctNats ks)

/-- The inputs of a context key agree with those installed. -/
def sameCtxKey (s : CtxSlot) (c : Cmd) : Bool := s.key.gen == keyGen c && s.key.salt == keySalt c

/-- The keepers that a CTX_KEY records. -/
def recordKeepers (n : Node) (ctx : Nat) (ks : List Nat) : Node :=
  match slotOf n ctx with
  | some s => if ks.getD 0 0 = 0 then n else setSlot n ctx { s with keepers := ks }
  | none => n

/-- KEY_LOAD with KOP CTX_KEY. -/
def loadCtxKey (g : KeyGate) (tid : Nat) (n : Node) : Node :=
  keyRow 1 tid n fun c =>
    let ctx := cmdCtx c
    let old := slotOf n ctx
    let clash := (old.map fun s => !s.ranges.isEmpty && !sameCtxKey s c).getD false
    let full := old.isNone && decide (4096 ≤ n.ctxs.slots.length)
    keyChecked g n tid c (ctx == 0 || clash || keepersBad (keyKeepers c)) full fun _ =>
      let fresh : KeySlot :=
        { gen := keyGen c, salt := keySalt c, ident := ctx, keys := contextKey g.master ctx (keyGen c) (keySalt c) }
      let n := match old with
        | none => openContext n ctx fresh
        | some s => if sameCtxKey s c then n else setSlot n ctx { s with key := fresh }
      let n := recordKeepers n ctx (keyKeepers c)
      endCmd n tid stOK (keyCheck (((slotOf n ctx).map (·.key.keys)).getD [])) 0

/-- KEY_LOAD_CTX_KEY. -/
def execKeyLoadCtxKey (tid : Nat) (s : State) : Host.Outcome State Fault Refusal := .next (onNode s (loadCtxKey (keyGate s.hl) tid))

/-- Every counter of a context becomes free: its waits are answered ABORTED, and its trigger is cancelled (R162). -/
def freeCounters (n : Node) (ctx : Nat) : Node :=
  ((n.ctr.tab.filter fun e => e.2.owner == ctx).map Prod.fst).foldl (fun n k =>
    let x := counterOf n k
    let due := n.ctr.waits.filter fun w => w.counter == k
    let n := setCounter n k { x with owner := 0, trig := none }
    let n := { n with ctr := { n.ctr with waits := n.ctr.waits.filter fun w => w.counter != k } }
    due.foldl (fun n w => answerWait n w.pkt stAborted x.value) n) n

/-- A freed shaper's packets leave by the TC queue it named (R467). -/
def freeShaper (ctx : Nat) (t : TrafficPort) : TrafficPort :=
  match Tbl.find? t.shapers ctx with
  | none => t
  | some sh =>
    let tc := fieldOf sh.bucket.cfg 3 1
    (sh.dat ++ sh.fwd ++ sh.req).foldl (fun t p => pushTc t tc p) { t with shapers := Tbl.del t.shapers ctx }

/-- A context stops being active: everything that belongs to it goes (R65, R162, R260, R434, R445). With the last one the
module is Ready again (R598). -/
def closeContext (n : Node) (ctx : Nat) : Node :=
  match slotOf n ctx with
  | none => n
  | some s =>
    let n := freeCounters n ctx
    let n := { n with prog := { n.prog with
        slots := Tbl.mapVals n.prog.slots fun p => if p.owner = ctx then { p with owner := 0, code := [] } else p } }
    let n := { n with traf := n.traf.map (freeShaper ctx), pol := { n.pol with buckets := Tbl.del n.pol.buckets ctx } }
    let n := { n with rings := Tbl.del n.rings ctx }
    let n := { n with ctxs := { n.ctxs with
        slots := Tbl.del n.ctxs.slots ctx
        revs := n.ctxs.revs.filter fun v => v.ctx != ctx
        xlate := (n.ctxs.xlate.map fun t => (t.1, t.2.filter fun x => x.slotNo != s.slotNo)).filter fun t => !t.2.isEmpty } }
    if n.ctxs.slots.isEmpty && n.power.state = 3 then { n with power := { n.power with state := 2 } } else n

/-- KEY_LOAD with KOP CTX_CLEAR. -/
def loadCtxClear (g : KeyGate) (tid : Nat) (n : Node) : Node :=
  keyRow 2 tid n fun c =>
    let ctx := cmdCtx c
    let r := ringOf n ctx
    let busy := (slotOf n ctx).any fun s => !s.ranges.isEmpty || ringEnabled r || r.inflight != 0
    keyChecked g n tid c (ctx == 0 || busy) false fun _ => endCmd (closeContext n ctx) tid stOK 0 0

/-- KEY_LOAD_CTX_CLEAR. -/
def execKeyLoadCtxClear (tid : Nat) (s : State) : Host.Outcome State Fault Refusal :=
  .next (onNode s (loadCtxClear (keyGate s.hl) tid))

/-! ### Share keys (R65) -/

/-- Some range refers to a share slot. -/
def shareUsed (n : Node) (k : Nat) : Bool := n.ctxs.slots.any fun s => s.2.ranges.any fun r => r.2.shared && r.2.shareSlot == k

/-- The node with a share slot replaced. -/
def setShare (n : Node) (k : Nat) (x : KeySlot) : Node := { n with ctxs := { n.ctxs with shares := Tbl.put n.ctxs.shares k x } }

/-- A share slot holds the key that a descriptor's inputs give. -/
def sameShare (x : KeySlot) (c : Cmd) : Bool := x.gen == keyGen c && x.salt == keySalt c && x.ident == keyShareId c

/-- KEY_LOAD with KOP SHARE_KEY. -/
def loadShareKey (g : KeyGate) (tid : Nat) (n : Node) : Node :=
  keyRow 3 tid n fun c =>
    let k := keySlotNo c
    let held := (Tbl.find? n.ctxs.shares k).filter fun x => !x.keys.isEmpty
    let clash := (held.any fun x => !sameShare x c) && shareUsed n k
    keyChecked g n tid c (cmdCtx c != 0 || clash) false fun _ =>
      let fresh : KeySlot :=
        { gen := keyGen c, salt := keySalt c, ident := keyShareId c, keys := shareKey g.master (keyShareId c) (keyGen c) (keySalt c) }
      let n := if held.any fun x => sameShare x c then n else setShare n k fresh
      endCmd n tid stOK (keyCheck (((Tbl.find? n.ctxs.shares k).map (·.keys)).getD [])) 0

/-- KEY_LOAD_SHARE_KEY. -/
def execKeyLoadShareKey (tid : Nat) (s : State) : Host.Outcome State Fault Refusal :=
  .next (onNode s (loadShareKey (keyGate s.hl) tid))

/-- KEY_LOAD with KOP SHARE_CLEAR. -/
def loadShareClear (g : KeyGate) (tid : Nat) (n : Node) : Node :=
  keyRow 4 tid n fun c =>
    let k := keySlotNo c
    keyChecked g n tid c (cmdCtx c != 0 || shareUsed n k) false fun _ =>
      endCmd { n with ctxs := { n.ctxs with shares := Tbl.del n.ctxs.shares k } } tid stOK 0 0

/-- KEY_LOAD_SHARE_CLEAR. -/
def execKeyLoadShareClear (tid : Nat) (s : State) : Host.Outcome State Fault Refusal :=
  .next (onNode s (loadShareClear (keyGate s.hl) tid))

/-! ### Admission (R63, R65, R70) -/

/-- The bits of nodes FIRST_NODE to LAST_NODE. -/
def nodeSpan (first last : Nat) : Nat := 2 ^ (last + 1) - 2 ^ first

/-- ADMIT and EXPEL name no span of nodes, or an inactive context. -/
def spanBad (n : Node) (c : Cmd) : Bool :=
  !ctxActive n (cmdCtx c) || decide (keyLast c < keyFirst c) || decide (keyFirst c < 1) || decide (0xFFEF < keyLast c)

/-- The node with a context's admission set changed. -/
def changeAdmits (n : Node) (ctx : Nat) (f : Nat → Nat) : Node :=
  match slotOf n ctx with
  | none => n
  | some s => setSlot n ctx { s with admits := f s.admits }

/-- KEY_LOAD with KOP ADMIT. -/
def loadAdmit (g : KeyGate) (tid : Nat) (n : Node) : Node :=
  keyRow 5 tid n fun c =>
    keyChecked g n tid c (spanBad n c) false fun _ =>
      endCmd (changeAdmits n (cmdCtx c) fun a => a ||| nodeSpan (keyFirst c) (keyLast c)) tid stOK 0 0

/-- KEY_LOAD_ADMIT. -/
def execKeyLoadAdmit (tid : Nat) (s : State) : Host.Outcome State Fault Refusal := .next (onNode s (loadAdmit (keyGate s.hl) tid))

/-- KEY_LOAD with KOP EXPEL. -/
def loadExpel (g : KeyGate) (tid : Nat) (n : Node) : Node :=
  keyRow 6 tid n fun c =>
    keyChecked g n tid c (spanBad n c) false fun _ =>
      let m := nodeSpan (keyFirst c) (keyLast c)
      endCmd (changeAdmits n (cmdCtx c) fun a => a - (a &&& m)) tid stOK 0 0

/-- KEY_LOAD_EXPEL. -/
def execKeyLoadExpel (tid : Nat) (s : State) : Host.Outcome State Fault Refusal := .next (onNode s (loadExpel (keyGate s.hl) tid))

end Sys2Proof.Machine
end

