-- ==== Sys2Proof/Machine/Ranges.lean ====
section
/-! DEFINITION. The range commands RANGE_SET, RANGE_CLEAR and RANGE_INVAL, and REVOKE with its undoing (R71–R82, R213, R295,
R296, R432–R435). -/

namespace Sys2Proof.Machine

/-! ### Range entries as words (R71) -/

/-- The range of an entry's words 0–4, with a GEN. -/
def rangeOfWords (ws : List Word) (gen : Nat) : Range :=
  let f := fun (w hi lo : Nat) => fieldOf (wordAt ws w) hi lo
  let b := fun (i : Nat) => bitOf (wordAt ws 3) i
  { start := f 0 56 0, gran := f 1 31 0, dlAux := f 1 63 32, localOff := f 2 47 0, peer := f 2 63 48, r := b 0, w := b 1,
    a := b 2, resClass := f 3 6 4, nc := b 7, comp := b 8, poisonOnLoss := b 9, dlPolicy := f 3 11 10, mirrorRole := b 12,
    shared := b 13, shareSlot := f 3 23 14, shadowFmt := f 3 27 24, lenderNode := f 4 15 0, lenderAddr := f 4 63 16,
    gen := gen, arrivingFrom := 0, peer2 := 0, departed := false, storeLost := false }

/-- Words 0–5 of a range's entry. -/
def rangeWords (r : Range) : List Word :=
  [wordOf r.start, wordOf (r.gran + r.dlAux * 2 ^ 32), wordOf (r.localOff + r.peer * 2 ^ 48),
   wordOf (bit01 r.r + bit01 r.w * 2 + bit01 r.a * 4 + r.resClass * 2 ^ 4 + bit01 r.nc * 2 ^ 7 + bit01 r.comp * 2 ^ 8 +
     bit01 r.poisonOnLoss * 2 ^ 9 + r.dlPolicy * 2 ^ 10 + bit01 r.mirrorRole * 2 ^ 12 + bit01 r.shared * 2 ^ 13 +
     r.shareSlot * 2 ^ 14 + r.shadowFmt * 2 ^ 24),
   wordOf (r.lenderNode + r.lenderAddr * 2 ^ 16), wordOf r.gen]

/-- An entry's words break the layout of R71; `top` is what word 3 holds above its fields. -/
def rangeReserved (ws : List Word) (top : Nat) : Bool :=
  let r := rangeOfWords ws 0
  pvaBad (wordAt ws 0) || r.start % 65536 != 0 || r.gran == 0 || (r.dlPolicy != 1 && r.dlPolicy != 2 && r.dlAux != 0) ||
  r.localOff % 65536 != 0 || bitOf (wordAt ws 3) 3 || decide (4 < r.resClass) || top != 0 ||
  (!r.shared && r.shareSlot != 0) || (r.dlPolicy != 1 && r.shadowFmt != 0) ||
  (r.resClass != 4 && (r.lenderNode != 0 || r.lenderAddr != 0)) || r.lenderAddr % 65536 != 0

/-! ### Local spans (R75, R289–R295) -/

/-- One past a range's local span. -/
def localEnd (r : Range) : Nat := r.localOff + rangeBytes r

/-- Two ranges' local spans meet. -/
def localsMeet (a b : Range) : Bool := decide (a.localOff < localEnd b ∧ b.localOff < localEnd a)

/-- Two ranges may share a local span (R75). -/
def maySharePlace (a b : Range) : Bool :=
  a.shared && b.shared && a.shareSlot == b.shareSlot && a.resClass == b.resClass && a.nc == b.nc && a.comp == b.comp

/-- Two ranges' PVA spans meet. -/
def rangesMeet (a b : Range) : Bool := decide (a.start < b.start + rangeBytes b ∧ b.start < a.start + rangeBytes a)

/-- First local offset past the usable stack window (R290). -/
def stackHome (n : Node) : Nat := min stackTop (cfgNum n 0x0203 * 2 ^ 30)

/-- STATE of a dense port is UP. -/
def dportUp (n : Node) (d : Nat) : Bool := decide (d < 16) && fieldOf (dportAt n d).status 1 0 == 2

/-- Bytes of a drive's usable capacity (R293). -/
def usableBytes (n : Node) (d : Nat) : Nat := min ((dportAt n d).nsBlocks * 4096) driveSlot

/-- A span lies within the window its class requires and, in the dense window, within one slot clear of the dense
copy-on-write area (R293, R295). -/
def windowOk (n : Node) (r : Range) : Bool :=
  if r.resClass = 0 || r.resClass = 3 then decide (localEnd r ≤ stackHome n)
  else if r.resClass = 4 then decide (stackTop ≤ r.localOff ∧ localEnd r ≤ denseBase)
  else
    let d := driveOf r.localOff
    let base := denseBase + d * driveSlot
    decide (denseBase ≤ r.localOff) && decide (localEnd r ≤ base + driveSlot) && decide (d < 16) &&
      !(dportUp n d && cfgNum n 0x0206 != 0 &&
        decide (base + (usableBytes n d - cfgNum n 0x0206 * 2 ^ 30) < localEnd r ∧ r.localOff < base + usableBytes n d))

/-- The ranges of a context cover a local span from an offset upwards, in ranges of class 0 or 3; one range a step. -/
def localCovered (rs : List Range) (stop : Nat) : Nat → Nat → Bool
  | 0, o => decide (stop ≤ o)
  | fuel + 1, o =>
    if stop ≤ o then true
    else match rs.find? fun r => decide (r.localOff ≤ o ∧ o < localEnd r) with
      | none => false
      | some r => localCovered rs stop fuel (localEnd r)

/-- The shadow of a SHADOW range lies where R295 allows it. -/
def shadowOk (rs : List Range) (r : Range) : Bool :=
  if r.dlPolicy != 1 then true
  else
    let held := rs.filter fun x => x.resClass == 0 || x.resClass == 3
    let bytes := rangeBytes r / 4 * shadowSize r
    decide (1 ≤ r.shadowFmt ∧ r.shadowFmt ≤ 4) &&
      localCovered held (r.dlAux * 65536 + bytes) (held.length + 1) (r.dlAux * 65536)

/-- The drive that a dense range needs is not up, or the span reaches beyond it (R295). -/
def driveShort (n : Node) (r : Range) : Bool :=
  (r.resClass == 1 || r.resClass == 2) &&
    (!dportUp n (driveOf r.localOff) ||
      decide (denseBase + driveOf r.localOff * driveSlot + usableBytes n (driveOf r.localOff) < localEnd r))

/-! ### Pinning (R75, R295, R296) -/

/-- The TILE_PINNED ranges of the module. -/
def pinnedRanges (n : Node) : List Range :=
  n.ctxs.slots.flatMap fun s => (s.2.ranges.filter fun r => r.2.resClass == 3).map Prod.snd

/-- The 4 KiB blocks of a range. -/
def rangeBlocks (r : Range) : List Nat := (List.range (r.gran * 16)).map fun i => r.localOff / 4096 + i

/-- A new TILE_PINNED range would pass the module's limit, or a tile's 20 MiB. -/
def pinShort (n : Node) (r : Range) : Bool :=
  r.resClass == 3 &&
    (let all := r :: pinnedRanges n
     decide (cfgNum n 0x0208 * 2 ^ 20 < (all.map rangeBytes).foldl (· + ·) 0) ||
       (List.range 64).any fun t =>
         decide (20 * 256 < ((all.flatMap rangeBlocks).filter fun b => homeTile n (b * 4096 / 64) == t).length))

/-- Pins one block in its slice and brings in its lines. -/
def pinBlock (n : Node) (ctx : Nat) (r : Range) (b : Nat) : Node × Fetch :=
  let o := openSlice n b
  if o.2 != .ready then o
  else
    let n := match sliceBlock o.1 b with
      | some t => setBlock o.1 b { t with pinned := true }
      | none => o.1
    (List.range 64).foldl (fun (a : Node × Fetch) i =>
      let f := fetchLine a.1 ctx r (b * 64 + i) false
      (f.1, worseFetch a.2 f.2)) (n, .ready)

/-! ### Spans freed by RANGE_CLEAR (R78) -/

/-- A line lies in a range's local span. -/
def inSpan (r : Range) (line : Nat) : Bool := holdsLine r line

/-- A block lies in a range's local span. -/
def blockIn (r : Range) (b : Nat) : Bool := holdsLine r (b * 64)

/-- The contents of a local span are gone: slices, frames, stack memory, block states, operand copies and every mark
(R78 step 4). -/
def discardSpan (n : Node) (r : Range) : Node :=
  let n := ((n.mem.blocks.filter fun t => blockIn r t.1).map Prod.fst).foldl dropBlock n
  let frames := n.mem.frames.filter fun f => decide (r.localOff ≤ f.2.blk * 65536 ∧ f.2.blk * 65536 < localEnd r)
  let cache := frames.foldl (fun m f => memClear m (f.2.blk * 65536) 65536) n.mem.cache
  let kept := n.mem.frames.filter fun f => !frames.contains f
  let n := { n with mem := { n.mem with
      frames := kept
      cache := cache
      stack := memClear n.mem.stack r.localOff (rangeBytes r)
      bstate := n.mem.bstate.filter fun e => !blockIn r e.1
      lentIo := n.mem.lentIo.filter fun e => !blockIn r e.1
      cow := n.mem.cow.filter fun e => !(e.2.restored && inSpan r (e.1 * 1024))
      bad := n.mem.bad.filter fun e => !inSpan r e.1
      badCheck := n.mem.badCheck.filter fun l => !inSpan r l
      badImage := n.mem.badImage.filter fun l => !inSpan r l } }
  { n with coh := { n.coh with
      opbuf := n.coh.opbuf.map fun t => (t.1, t.2.filter fun c => !inSpan r c.line)
      lent := n.coh.lent.map fun t => (t.1, t.2.filter fun e => !inSpan r e.line)
      poison := n.coh.poison.filter fun l => !inSpan r l
      mdirty := n.coh.mdirty.filter fun e => !inSpan r e.1 } }

/-- Releases a dense span on its drive: deallocated, and written with zeros where the namespace does not report that
deallocated metadata reads as zero. -/
def releaseSpan (n : Node) (r : Range) (tid : Nat) : Node :=
  let d := driveOf r.localOff
  if !(r.resClass == 1 || r.resClass == 2) || !dportUp n d then n
  else
    let lba := lbaOf r.localOff
    let n := issueNvme n d 9 lba (r.gran * 16) false [] [] (.release tid)
    if (dportAt n d).deallocZero then n else issueNvme n d 8 lba (r.gran * 16) false [] [] (.release tid)

/-- A request was admitted under an entry. -/
def admittedUnder (n : Node) (ctx : Nat) (r : Range) : Bool :=
  n.trk.reqs.any fun q => q.2.pkt.ctx.toNat == ctx && q.2.under.contains (r.start, r.gen)

/-- Removed entries of departed ranges, which no command waits for, are freed once nothing runs under them (R417). -/
def sweepDeparted (n : Node) : Node :=
  (n.ctxs.freeing.filter fun f => f.tid == 0 && !admittedUnder n f.ctx f.range).foldl (fun n f =>
    let n := releaseSpan (discardSpan n f.range) f.range 0
    { n with ctxs := { n.ctxs with freeing := n.ctxs.freeing.erase f } }) n

/-! ### RANGE_SET (R74, R75, R295, R296) -/

/-- A range command's row: the command is there, may start, and it is its turn. -/
def rangeRow (op tid : Nat) (n : Node) (f : Node → Cmd → Node) : Node :=
  startCmd n tid op fun c => if rangeTurn n c then f (sweepDeparted n) c else n

/-- The entry words of a RANGE_SET, REPLACE cleared. -/
def setWords (c : Cmd) : List Word := [dword c 3, dword c 4, dword c 5, dword c 6 &&& 0x7FFFFFFFFFFFFFFF, dword c 7]
/-- REPLACE. -/
def setReplaces (c : Cmd) : Bool := bitOf (dword c 6) 63

/-- The ranges of a context. -/
def rangesOf (n : Node) (ctx : Nat) : List Range := ((slotOf n ctx).map fun s => s.ranges.map Prod.snd).getD []

/-- What a REPLACE may change, taken over; the rest stays. -/
def replaceIn (old new : Range) : Range :=
  { old with
    r := new.r, w := new.w, a := new.a, dlPolicy := new.dlPolicy, dlAux := new.dlAux, shadowFmt := new.shadowFmt,
    poisonOnLoss := new.poisonOnLoss, peer := new.peer }

/-- A REPLACE changes only what it may. -/
def replaceOk (old new : Range) : Bool :=
  replaceIn new old == { old with gen := new.gen, arrivingFrom := 0, peer2 := 0, departed := false, storeLost := false }

/-- Every span of the home space that a new range must keep clear of: other ranges', and those a local Leap is filling. -/
def otherSpans (n : Node) (ctx : Nat) (r : Range) (replace : Bool) : List Range :=
  let own := fun (c : Nat) (x : Range) => replace && c == ctx && x.start == r.start
  (n.ctxs.slots.flatMap fun s => (s.2.ranges.filter fun e => !own s.1 e.2).map Prod.snd) ++
  (n.ml.outs.flatMap fun l => l.2.locals_)

/-- PEER_NODE names no possible partner (R370): the module itself, a node the membership protocol does not know, one of the
module's own failure domain; or the range is a mirror in class LENT. -/
def peerBad (n : Node) (r : Range) : Bool :=
  r.peer != 0 &&
    (isOwn n r.peer || (r.mirrorRole && r.resClass == 4) ||
      (match Tbl.find? n.ml.memb.known r.peer with
       | none => true
       | some k => k.1 == n.alm.failureDomain))

/-- The INVALID cases of R75, R295 and R370. -/
def setInvalid (n : Node) (ctx : Nat) (r : Range) (replace : Bool) : Bool :=
  let rs := rangesOf n ctx
  decide (2 ^ 57 < r.start + rangeBytes r) || decide (2 ^ 48 < localEnd r) ||
  (if replace then !(rs.any fun x => x.start == r.start && x.gran == r.gran && replaceOk x r) else rs.any (rangesMeet r)) ||
  (r.resClass == 4 && (r.peer == 0 || r.peer == r.lenderNode)) ||
  (r.shared && (((Tbl.find? n.ctxs.shares r.shareSlot).map (·.keys)).getD []).isEmpty) ||
  ((otherSpans n ctx r replace).any fun x => localsMeet r x && !maySharePlace r x) ||
  !windowOk n r || !shadowOk rs r || peerBad n r

/-- The NO_RESOURCE cases of R75 and R295. -/
def setShort (n : Node) (ctx : Nat) (r : Range) (replace : Bool) : Bool :=
  !replace &&
    (decide (2 ^ 20 ≤ (rangesOf n ctx).length) ||
     decide (cfgNum n 0x0207 * 8192 ≤ (n.ctxs.slots.map fun s => s.2.ranges.length).foldl (· + ·) 0) ||
     pinShort n r || driveShort n r)

/-- The node with a range put into a context's table under the next GEN (R72). -/
def putRange (n : Node) (ctx : Nat) (r : Range) : Node :=
  match slotOf n ctx with
  | none => n
  | some s => setSlot n ctx { s with ranges := Tbl.put s.ranges r.start { r with gen := s.nextGen }, nextGen := stepGen s.nextGen }

/-- The local span of a new range meets one that RANGE_CLEAR has not freed (R81). -/
def waitsForSpan (n : Node) (r : Range) : Bool := n.ctxs.freeing.any fun f => localsMeet r f.range

/-- Brings the lines of a new TILE_PINNED range into their slices; the command completes once all are there. -/
def pinRange (n : Node) (tid ctx start gen : Nat) : Node :=
  match rangeOf n ctx start with
  | none => endCmd n tid stOK (wordOf gen) 0
  | some r =>
    let f := (rangeBlocks r).foldl (fun (a : Node × Fetch) b =>
      let o := pinBlock a.1 ctx r b
      (o.1, worseFetch a.2 o.2)) (n, .ready)
    if f.2 = .ready then endCmd f.1 tid stOK (wordOf gen) 0
    else if f.2 = .noKey then endCmd f.1 tid stInternal 0 0
    else f.1

/-- A RANGE_SET takes effect. -/
def setRange (n : Node) (tid : Nat) (c : Cmd) : Node :=
  let ctx := cmdCtx c
  let rep := setReplaces c
  let new := rangeOfWords (setWords c) 0
  let bad := ctx == 0 || rangeReserved (setWords c) (fieldOf (dword c 6) 62 28) || setInvalid n ctx new rep
  if !rep && !bad && waitsForSpan n new then n
  else
    checked n tid c bad [(!ctxActive n ctx, stDenied), (setShort n ctx new rep, stNoResource)] fun _ =>
      let gen := ((slotOf n ctx).map (·.nextGen)).getD 0
      match (if rep then rangeOf n ctx new.start else none) with
      | some old =>
        let n := putRange n ctx (replaceIn old new)
        endCmd n tid stOK (wordOf gen) 0
      | none =>
        let n := putRange n ctx new
        if new.resClass = 3 then pinRange (runStage n tid 1 [gen]) tid ctx new.start gen else settle (endCmd n tid stOK (wordOf gen) 0)

/-- RANGE_SET: it takes effect, or goes on bringing the lines of a TILE_PINNED range into their slices. -/
def rangeSet (tid : Nat) (n : Node) : Node :=
  match cmdOf n tid with
  | none => n
  | some c =>
    if c.phase == .running then resumeCmd n tid 0x10 fun c => settle (pinRange n tid (cmdCtx c) (fieldOf (dword c 3) 56 0) (c.work.getD 0 0))
    else rangeRow 0x10 tid n fun n c => setRange n tid c

/-- RANGE_SET. -/
def execRangeSet (tid : Nat) (s : State) : Host.Outcome State Fault Refusal := .next (onNode s (rangeSet tid))

/-! ### RANGE_CLEAR (R76–R78) -/

/-- START of RANGE_CLEAR, RANGE_INVAL and REVOKE. -/
def spanStart (c : Cmd) : Nat := fieldOf (dword c 3) 56 0
/-- LEN_GRAN in bytes. -/
def spanSize (c : Cmd) : Nat := fieldOf (dword c 4) 31 0 * 65536
/-- ALL. -/
def spanAll (c : Cmd) : Bool := bitOf (dword c 4) 63

/-- The words of RANGE_CLEAR and RANGE_INVAL are malformed (R76, R79). -/
def spanReserved (c : Cmd) : Bool :=
  pvaBad (dword c 3) || spanStart c % 65536 != 0 || fieldOf (dword c 4) 62 32 != 0 || dword c 5 != 0 || dword c 6 != 0 || dword c 7 != 0 ||
  (if spanAll c then spanStart c != 0 || spanSize c != 0 else spanSize c == 0)

/-- A range lies wholly inside the command's span. -/
def whollyIn (c : Cmd) (r : Range) : Bool :=
  spanAll c || decide (spanStart c ≤ r.start ∧ r.start + rangeBytes r ≤ spanStart c + spanSize c)

/-- A range meets the command's span. -/
def meetsSpan (c : Cmd) (r : Range) : Bool :=
  spanAll c || decide (r.start < spanStart c + spanSize c ∧ spanStart c < r.start + rangeBytes r)

/-- A range holds a version not dropped, or takes part in a Leap (R77). -/
def rangeHeld (n : Node) (ctx : Nat) (r : Range) : Bool :=
  (n.sol.parts.any fun p => p.2.chunks.any fun k => inSpan r (k.1 * 1024)) || (n.mem.cow.any fun k => inSpan r (k.1 * 1024)) ||
  (n.ml.outs.any fun l => l.2.ctx == ctx && decide (l.2.start < r.start + rangeBytes r ∧ r.start < l.2.start + l.2.chunks * 2 ^ 21)) ||
  (n.ml.ins.any fun l => l.ctx == ctx && decide (l.start < r.start + rangeBytes r ∧ r.start < l.start + l.chunks * 2 ^ 21))

/-- A RANGE_CLEAR takes effect: the ranges leave the table and their cached translations go (R78 step 1). A departed range
is removed for good at once (R417). -/
def beginClear (n : Node) (tid : Nat) (c : Cmd) : Node :=
  let ctx := cmdCtx c
  let rs := rangesOf n ctx
  let hit := rs.filter (whollyIn c)
  checked n tid c (ctx == 0 || spanReserved c || rs.any fun r => meetsSpan c r && !whollyIn c r)
      [(!ctxActive n ctx, stDenied), (hit.any fun r => !r.departed && rangeHeld n ctx r, stDenied)] fun _ =>
    match slotOf n ctx with
    | none => n
    | some s =>
      let n := setSlot n ctx { s with ranges := s.ranges.filter fun e => !whollyIn c e.2 }
      let n := hit.foldl (fun n r => dropXlate n s.slotNo r.start (rangeBytes r)) n
      let gone := hit.map fun r => ({ ctx := ctx, range := r, tid := if r.departed then 0 else tid } : FreeingRange)
      let n := sweepDeparted { n with ctxs := { n.ctxs with freeing := n.ctxs.freeing ++ gone } }
      if gone.all fun f => f.tid == 0 then endCmd n tid stOK (wordOf hit.length) 0
      else runStage n tid 2 [hit.length]

/-- The removed ranges of a command that are not freed. -/
def clearing (n : Node) (tid : Nat) : List FreeingRange := n.ctxs.freeing.filter fun f => f.tid == tid

/-- Step 2 is over: nothing admitted under the removed entries runs. -/
def clearDrained (n : Node) (fs : List FreeingRange) : Bool :=
  !fs.any fun f => admittedUnder n f.ctx f.range || n.prog.runs.any fun r => r.2.ctx == f.ctx

/-- Directory entries and recalls of lines in some removed spans. -/
def clearHeldLines (n : Node) (fs : List FreeingRange) : List Nat :=
  let hit := fun (line : Nat) => fs.any fun f => inSpan f.range line
  (Tbl.keysOf n.coh.dir ++ Tbl.keysOf n.coh.recalls).filter hit

/-- Lines of removed spans that operand buffers or lent tables name. -/
def clearLentLines (n : Node) (fs : List FreeingRange) : List (Nat × Nat) :=
  let hit := fun (line : Nat) => fs.any fun f => inSpan f.range line
  ((n.coh.lent.flatMap fun t => t.2.map fun e => (e.ctx, e.line)) ++
    (n.coh.opbuf.flatMap fun t => (t.2.filter fun c => !c.nc).map fun c => (c.ctx, c.line))).filter fun e => hit e.2

/-- NVMe commands outstanding on the drives of some removed spans. -/
def clearNvmeBusy (n : Node) (fs : List FreeingRange) : Bool :=
  fs.any fun f => (f.range.resClass == 1 || f.range.resClass == 2) && n.mem.nvme.any fun c =>
    c.2.port == driveOf f.range.localOff && decide (c.2.lba < lbaOf f.range.localOff + f.range.gran * 16 ∧
      lbaOf f.range.localOff < c.2.lba + c.2.blocks)

/-- A RANGE_CLEAR goes on: its steps 2 to 5, as far as each can go now. -/
def goOnClear (n : Node) (tid : Nat) (c : Cmd) : Node :=
  let fs := clearing n tid
  let free := fun (n : Node) =>
    settle (endCmd { n with ctxs := { n.ctxs with freeing := n.ctxs.freeing.filter fun f => f.tid != tid } } tid stOK
      (wordOf (c.work.getD 0 0)) 0)
  if c.stage = 2 then
    if !clearDrained n fs then n
    else
      let n := (clearHeldLines n fs).foldl (fun n line => withdraw n line none (.clear tid)) n
      if !(clearHeldLines n fs).isEmpty then n
      else
        let n := (clearLentLines n fs).foldl (fun n e => startSnoop n e.1 e.2) n
        if (n.coh.snoops.any fun e => fs.any fun f => inSpan f.range e.1) || clearNvmeBusy n fs then n
        else
          let n := fs.foldl (fun n f => releaseSpan (discardSpan n f.range) f.range tid) n
          if n.mem.nvme.any fun x => decide (x.2.purpose = .release tid) then runStage n tid 3 c.work else free n
  else if n.mem.nvme.any fun x => decide (x.2.purpose = .release tid) then n
  else free n

/-- RANGE_CLEAR. -/
def rangeClear (tid : Nat) (n : Node) : Node :=
  match cmdOf n tid with
  | none => n
  | some c =>
    if c.phase == .running then resumeCmd n tid 0x11 fun c => goOnClear n tid c
    else
      rangeRow 0x11 tid n fun n c =>
        let n := beginClear n tid c
        match cmdOf n tid with
        | some c => if c.phase == .running then goOnClear n tid c else n
        | none => n

/-- RANGE_CLEAR. -/
def execRangeClear (tid : Nat) (s : State) : Host.Outcome State Fault Refusal := .next (onNode s (rangeClear tid))

/-! ### RANGE_INVAL (R79) -/

/-- The requests of a context that RANGE_INVAL waits for: those admitted under an entry of the span that has since been
replaced or removed. -/
def staleRequests (n : Node) (c : Cmd) : List Nat :=
  let ctx := cmdCtx c
  let rs := rangesOf n ctx
  let stale := fun (u : Nat × Nat) =>
    !(rs.any fun r => r.start == u.1 && r.gen == u.2) &&
      (spanAll c || (rs.any fun r => r.start == u.1 && meetsSpan c r) ||
       (n.ctxs.freeing.any fun f => f.ctx == ctx && f.range.start == u.1 && f.range.gen == u.2 && meetsSpan c f.range))
  (n.trk.reqs.filter fun q => q.2.pkt.ctx.toNat == ctx && q.2.under.any stale).map Prod.fst

/-- RANGE_INVAL goes on: it completes once every request it waits for has ended. -/
def goOnInval (n : Node) (tid : Nat) (c : Cmd) : Node :=
  if c.waits.any fun t => (Tbl.find? n.trk.reqs t).isSome then n else endCmd n tid stOK (wordOf c.waits.length) 0

/-- A RANGE_INVAL takes effect. -/
def beginInval (n : Node) (tid : Nat) (c : Cmd) : Node :=
  let ctx := cmdCtx c
  checked n tid c (ctx == 0 || spanReserved c) [(!ctxActive n ctx, stDenied)] fun _ =>
    match slotOf n ctx with
    | none => n
    | some s =>
      let n := if spanAll c then dropXlate n s.slotNo 0 (2 ^ 57) else dropXlate n s.slotNo (spanStart c) (spanSize c)
      let c := { c with phase := .running, stage := 1, waits := staleRequests n c }
      goOnInval (setCmd n tid c) tid c

/-- RANGE_INVAL. -/
def rangeInval (tid : Nat) (n : Node) : Node :=
  match cmdOf n tid with
  | none => n
  | some c =>
    if c.phase == .running then resumeCmd n tid 0x12 fun c => goOnInval n tid c
    else rangeRow 0x12 tid n fun n c => beginInval n tid c

/-- RANGE_INVAL. -/
def execRangeInval (tid : Nat) (s : State) : Host.Outcome State Fault Refusal := .next (onNode s (rangeInval tid))

/-! ### REVOKE (R213, R432–R435) -/

/-- REINSTATE. -/
def revokeUndoes (c : Cmd) : Bool := bitOf (dword c 4) 32

/-- The words of a REVOKE are malformed (R432). -/
def revokeReserved (c : Cmd) : Bool :=
  pvaBad (dword c 3) || spanStart c % 65536 != 0 || spanSize c == 0 || fieldOf (dword c 4) 63 33 != 0 || dword c 5 != 0 ||
  dword c 6 != 0 || dword c 7 != 0

/-- A revocation lies wholly inside the command's span. -/
def revInside (c : Cmd) (v : Revocation) : Bool :=
  v.ctx == cmdCtx c && decide (spanStart c ≤ v.start ∧ v.start + v.gran * 65536 ≤ spanStart c + spanSize c)

/-- A revocation meets the command's span. -/
def revMeets (c : Cmd) (v : Revocation) : Bool :=
  v.ctx == cmdCtx c && decide (v.start < spanStart c + spanSize c ∧ spanStart c < v.start + v.gran * 65536)

/-- The command's span lies wholly inside a revocation. -/
def revCovers (c : Cmd) (v : Revocation) : Bool :=
  v.ctx == cmdCtx c && decide (v.start ≤ spanStart c ∧ spanStart c + spanSize c ≤ v.start + v.gran * 65536)

/-- A PVA lies in the command's span. -/
def pvaInSpan (c : Cmd) (pva : Nat) : Bool := decide (spanStart c ≤ pva ∧ pva < spanStart c + spanSize c)

/-- Directory entries of lines in the revoked extent. -/
def revokedLines (n : Node) (c : Cmd) : List Nat :=
  (n.coh.dir.filter fun e => e.2.ctx == cmdCtx c && pvaInSpan c e.2.pva).map Prod.fst

/-- Lent lines of the revoked extent. -/
def revokedLent (n : Node) (c : Cmd) : List Nat :=
  let rs := rangesOf n (cmdCtx c)
  ((n.coh.lent.flatMap fun t => t.2.filter fun e => e.ctx == cmdCtx c).filter fun e =>
    rs.any fun r => inSpan r e.line && pvaInSpan c (pvaOf r e.line)).map (·.line)

/-- Opcodes of the index commands (R335). -/
def isIndexOp (op : Nat) : Bool := decide (0x30 ≤ op ∧ op ≤ 0x33)

/-- Requests, runs and index commands admitted on the span that have not ended (R433 step 3). -/
def revokeWaits (n : Node) (c : Cmd) : List Nat × List Nat :=
  ((n.trk.reqs.filter fun q => q.2.pkt.ctx.toNat == cmdCtx c && q.2.lines.any fun l => pvaInSpan c l.2).map Prod.fst,
   (n.trk.cmds.filter fun e => e.2.phase == .running && cmdCtx e.2 == cmdCtx c &&
      (isIndexOp (cmdOp e.2) || cmdOp e.2 == 0x39)).map Prod.fst)

/-- Leaps out of this module whose extent meets the span: their targets are told of the revocation (R435). -/
def revokeTargets (n : Node) (c : Cmd) : List Nat :=
  (n.ml.outs.filter fun l => l.2.ctx == cmdCtx c && l.2.target != n.nodeId && decide (1 ≤ l.2.step ∧ l.2.step < 7) &&
    decide (l.2.start < spanStart c + spanSize c ∧ spanStart c < l.2.start + l.2.chunks * 2 ^ 21)).map fun l => l.2.target

/-- Passes a revocation to a Leap's target, in a LEAP_OPEN that names no extent. -/
def passRevocation (n : Node) (tid target ctx start gran : Nat) : Node :=
  sendPacket n (mgtPacket n target 0xB5 [wordOf ctx, 0, 0, wordOf (2 ^ 32), 0, 0, 0, 0, wordOf start, wordOf gran]) (.engine tid 0)

/-- Something that the module sent for a command is not answered. -/
def awaitsFor (n : Node) (tid : Nat) : Bool :=
  n.prs.pairs.any fun q => q.2.sent.any fun u => match u.purpose with
    | .engine t _ => t == tid
    | _ => false

/-- A REVOKE goes on: it withdraws what holders and operand buffers have of the extent, and completes when the directory is
empty of it, the requests it waits for have ended and any Leap target holds the revocation. -/
def goOnRevoke (n : Node) (tid : Nat) (c : Cmd) : Node :=
  let fresh := (revokedLines n c).filter fun l => !isPending n l
  let n := fresh.foldl (fun n l => withdraw n l none (.revoke tid)) n
  let n := (revokedLent n c).foldl (fun n l => startSnoop n (cmdCtx c) l) n
  let c := { c with work := [c.work.getD 0 0, c.work.getD 1 0 + fresh.length] }
  let n := setCmd n tid c
  let busy := c.waits.any fun t => (Tbl.find? n.trk.reqs t).isSome ||
    ((Tbl.find? n.trk.cmds t).map fun x => x.phase == .running).getD false
  if !(revokedLines n c).isEmpty || !(revokedLent n c).isEmpty || busy || awaitsFor n tid then n
  else endCmd n tid stOK (wordOf (c.work.getD 0 0)) (wordOf (c.work.getD 1 0 % 2 ^ 32))

/-- A REVOKE takes effect: the revocation is entered, unless an existing one covers it (R433 step 1, R434). -/
def beginRevoke (n : Node) (tid : Nat) (c : Cmd) : Node :=
  let held := n.ctxs.revs.any (revCovers c)
  checked n tid c (cmdCtx c == 0 || revokeReserved c) [(!held && decide (1024 ≤ n.ctxs.revs.length), stNoResource)] fun _ =>
    let v : Revocation := { ctx := cmdCtx c, start := spanStart c, gran := fieldOf (dword c 4) 31 0 }
    let w := revokeWaits n c
    let n := if held then n else { n with ctxs := { n.ctxs with revs := n.ctxs.revs ++ [v] } }
    let n := (revokeTargets n c).foldl (fun n t => passRevocation n tid t v.ctx v.start v.gran) n
    let c := { c with phase := .running, stage := 1, work := [w.1.length, 0], waits := w.1 ++ w.2 }
    goOnRevoke (setCmd n tid c) tid c

/-- REVOKE with REINSTATE 0. -/
def revoke (tid : Nat) (n : Node) : Node :=
  match cmdOf n tid with
  | none => n
  | some c =>
    if revokeUndoes c then n
    else if c.phase == .running then resumeCmd n tid 0x18 fun c => settle (goOnRevoke n tid c)
    else rangeRow 0x18 tid n fun n c => beginRevoke n tid c

/-- REVOKE. -/
def execRevoke (tid : Nat) (s : State) : Host.Outcome State Fault Refusal := .next (onNode s (revoke tid))

/-- REVOKE with REINSTATE 1: the revocations wholly inside the span go (R434). -/
def reinstate (tid : Nat) (n : Node) : Node :=
  rangeRow 0x18 tid n fun n c =>
    if !revokeUndoes c then n
    else
      checked n tid c (cmdCtx c == 0 || revokeReserved c || n.ctxs.revs.any fun v => revMeets c v && !revInside c v) [] fun _ =>
        endCmd { n with ctxs := { n.ctxs with revs := n.ctxs.revs.filter fun v => !revInside c v } } tid stOK 0 0

/-- REVOKE_REINSTATE. -/
def execRevokeReinstate (tid : Nat) (s : State) : Host.Outcome State Fault Refusal := .next (onNode s (reinstate tid))

end Sys2Proof.Machine
end

