-- ==== Sys2Proof/Machine/CounterCmds.lean ====
section
/-! DEFINITION. COUNTER_SET and COUNTER_ARM (R154, R161–R164). -/

namespace Sys2Proof.Machine

/-- INDEX of COUNTER_SET and COUNTER_ARM. -/
def cntTarget (c : Cmd) : Nat := fieldOf (dword c 3) 15 0

/-! ### COUNTER_SET (R161, R162) -/

/-- SET_OWNER. -/
def setsOwner (c : Cmd) : Bool := bitOf (dword c 3) 17

/-- A reserved field of COUNTER_SET is not 0. -/
def counterSetReserved (c : Cmd) : Bool :=
  fieldOf (dword c 3) 31 19 != 0 || fieldOf (dword c 3) 63 48 != 0 || (!setsOwner c && fieldOf (dword c 3) 47 32 != 0) ||
  dword c 5 != 0 || dword c 6 != 0 || dword c 7 != 0

/-- A counter's owner changes: its parked waits are answered ABORTED and its trigger is cancelled (R162). -/
def changeOwner (n : Node) (k owner : Nat) : Node :=
  let x := counterOf n k
  if x.owner = owner then n
  else
    let due := n.ctr.waits.filter fun w => w.counter == k
    let n := setCounter n k { x with owner := owner, trig := none }
    let n := { n with ctr := { n.ctr with waits := n.ctr.waits.filter fun w => w.counter != k } }
    due.foldl (fun n w => answerWait n w.pkt stAborted x.value) n

/-- COUNTER_SET at its single effect point. On a context ring it may neither set the owner nor name a counter that the context
does not own. -/
def counterSet (tid : Nat) (n : Node) : Node :=
  startCmd n tid 0x40 fun c =>
    let k := cntTarget c
    let x := counterOf n k
    checked n tid c (cmdCtx c == 0 || counterSetReserved c)
        [(c.ring != 0 && (setsOwner c || x.owner != cmdCtx c), stDenied)] fun _ =>
      let trig := if bitOf (dword c 3) 18 then none else x.trig
      let n := setCounter n k { x with value := (dword c 4).toNat, bytes := bitOf (dword c 3) 16, err := false, trig := trig }
      let n := if setsOwner c then changeOwner n k (fieldOf (dword c 3) 47 32) else n
      settle (endCmd (evalCounter n k none) tid stOK (wordOf x.value) 0)

/-- COUNTER_SET. -/
def execCounterSet (tid : Nat) (s : State) : Host.Outcome State Fault Refusal := .next (onNode s (counterSet tid))

/-! ### COUNTER_ARM (R163, R164) -/

/-- ACTION. -/
def armAction (c : Cmd) : Nat := fieldOf (dword c 3) 17 16
/-- REARM. -/
def armRearms (c : Cmd) : Bool := bitOf (dword c 3) 18
/-- STEP. -/
def armStep (c : Cmd) : Nat := fieldOf (dword c 3) 63 32
/-- NOTIFY_NODE. -/
def armNode (c : Cmd) : Nat := fieldOf (dword c 5) 15 0
/-- NOTIFY_ADDR. -/
def armAddr (c : Cmd) : Nat := fieldOf (dword c 5) 63 16
/-- RUN_PVA. -/
def armRunPva (c : Cmd) : Nat := fieldOf (dword c 6) 56 0

/-- COUNTER_ARM breaks R163. -/
def armInvalid (c : Cmd) : Bool :=
  fieldOf (dword c 3) 31 19 != 0 || decide (1 < armAction c) || (armRearms c == (armStep c == 0)) || fieldOf (dword c 7) 63 32 != 0 ||
  (if armAction c = 0 then dword c 6 != 0 || armNode c == 0 || isGroup (armNode c) || armAddr c % 32 != 0
   else dword c 5 != 0 || pvaBad (dword c 6) || armRunPva c % 64 != 0 || dword c 7 != 0)

/-- The trigger that a COUNTER_ARM arms. -/
def armTrigger (c : Cmd) (arming : Nat) : Trigger :=
  { program := armAction c == 1, rearm := armRearms c, step := armStep c, threshold := (dword c 4).toNat, node := armNode c,
    addr := armAddr c, runPva := armRunPva c, tag := fieldOf (dword c 7) 31 0, fired := 0, arming := arming }

/-- COUNTER_ARM: the new arming takes the place of an unfired one, and is evaluated at once. -/
def counterArm (tid : Nat) (n : Node) : Node :=
  startCmd n tid 0x41 fun c =>
    let k := cntTarget c
    let x := counterOf n k
    checked n tid c (cmdCtx c == 0 || armInvalid c) [(x.owner != cmdCtx c, stDenied)] fun _ =>
      let n := setCounter n k { x with trig := some (armTrigger c n.ctr.armings) }
      let n := { n with ctr := { n.ctr with armings := n.ctr.armings + 1 } }
      settle (endCmd (evalTrigger n k none) tid stOK (wordOf x.value) 0)

/-- COUNTER_ARM. -/
def execCounterArm (tid : Nat) (s : State) : Host.Outcome State Fault Refusal := .next (onNode s (counterArm tid))

end Sys2Proof.Machine
end

