-- ==== Sys2Proof/Machine/CopyEngine.lean ====
section
/-! DEFINITION. The copy engines: COPY and FILL, and the answers to their READs and WRITEs (R168–R172, R420, R421,
R624). An engine has one packet outstanding, and works upwards. -/

namespace Sys2Proof.Machine

/-! ### Descriptors (R168, R169) -/

/-- The command is a COPY; otherwise a FILL. -/
def isCopy (c : Cmd) : Bool := cmdOp c == 1
/-- LENGTH. -/
def engLength (c : Cmd) : Nat := fieldOf (dword c 5) 39 0
/-- SRC_PVA. -/
def engSrc (c : Cmd) : Nat := fieldOf (dword c 3) 56 0
/-- DST_PVA. -/
def engDst (c : Cmd) : Nat := fieldOf (dword c 4) 56 0
/-- The destination context: DST_CTX of a COPY, where it is not 0. -/
def engDstCtx (c : Cmd) : Nat :=
  let d := fieldOf (dword c 5) 55 40
  if isCopy c && d != 0 then d else cmdCtx c

/-- The descriptor is malformed, its spans overlap, or one reaches beyond 2^57 (R168–R170). -/
def engInvalid (c : Cmd) : Bool :=
  let len := engLength c
  cmdCtx c == 0 || pvaBad (dword c 4) || fieldOf (dword c 6) 63 17 != 0 || dword c 7 != 0 || decide (2 ^ 57 < engDst c + len) ||
  (if isCopy c then
    pvaBad (dword c 3) || fieldOf (dword c 5) 63 56 != 0 || decide (2 ^ 57 < engSrc c + len) ||
      (engDstCtx c == cmdCtx c && decide (engSrc c < engDst c + len ∧ engDst c < engSrc c + len))
   else fieldOf (dword c 5) 63 40 != 0)

/-! ### Progress

`work` of a running COPY or FILL: bytes landed; the map generation its next packet needs; SEQ and destination of the
packet outstanding; then the bytes of the WRITE in hand. Stages: 1 the next piece is due, 2 its READ is out, 3 its WRITE
is due, 4 its WRITE is out, 5 the WRITE's home was lost and its outcome must be asked for, 6 that question is out. -/

/-- Bytes landed. -/
def engDone (c : Cmd) : Nat := c.work.getD 0 0
/-- The generation the next packet needs. -/
def engGen (c : Cmd) : Nat := c.work.getD 1 0
/-- The WRITE's bytes in hand. -/
def engBytes (c : Cmd) : Bytes := (c.work.drop 4).map fun b => BitVec.ofNat 8 b
/-- The command at a stage. -/
def engStage (c : Cmd) (stage done gen seq node : Nat) (bs : Bytes) : Cmd :=
  { c with phase := .running, stage := stage, work := done :: gen :: seq :: node :: bs.map BitVec.toNat }

/-- Bytes of the next piece: no larger than a packet, and within one 2 MiB chunk of each span, so that each packet has one
home. -/
def engPiece (n : Node) (c : Cmd) : Nat :=
  let d := engDone c
  let left := fun (pva : Nat) => 2 ^ 21 - (pva + d) % 2 ^ 21
  min (min (engLength c - d) (maxPayload n)) (if isCopy c then min (left (engSrc c)) (left (engDst c)) else left (engDst c))

/-- The newer of two map generations. -/
def newerGen (a b : Nat) : Nat := if mapNewer b a then b else a

/-- The newest generation of a context's map that the module holds. -/
def knownGen (n : Node) (ctx : Nat) : Nat :=
  newerGen (curGen n ctx) (((Tbl.find? n.ctxs.images ctx).map (·.gen)).getD 0)

/-- The route of an engine packet under a map no older than a generation (R420, R624). -/
def engRoute (n : Node) (ctx pva gen : Nat) : Route :=
  if mapNewer gen (curGen n ctx) then
    match (Tbl.find? n.ctxs.images ctx).filter fun m => !mapNewer gen m.gen with
    | none => .wait
    | some m => match entryFor m.entries pva with
      | none => .nowhere
      | some e => if e.lost then .lost else if e.primary = 0 then .nowhere else .home e.primary
  else routeOf n ctx pva

/-- The command ends: OK with LENGTH, else its status, or PARTIAL once any byte has landed (R170, R172, R624). -/
def engEnd (n : Node) (tid : Nat) (c : Cmd) (status done : Nat) : Node :=
  let st := if status = stOK then stOK else if 0 < done then stPartial else status
  setCmd n tid { c with phase := .ended, status := st, result0 := wordOf done, word3 := 0, landed := done, work := [] }

/-- An enabled bridge window names a context, or a host's request waits for its map (R198). -/
def bridgeNeeds (n : Node) (ctx : Nat) : Bool :=
  n.bridge.wins.toList.any (fun w => bitOf w.cfg 0 && fieldOf w.cfg 31 16 == ctx) ||
    n.bridge.reqs.any fun r => r.pkt.ctx.toNat == ctx

/-- A context's commands, or the bridge, may need its full map image. -/
def needsImage (n : Node) (ctx : Nat) : Bool :=
  bridgeNeeds n ctx ||
  n.trk.cmds.any fun e => e.2.phase == .running && (cmdCtx e.2 == ctx || engDstCtx e.2 == ctx) &&
    [1, 2, 0x30, 0x31, 0x32, 0x33].contains (cmdOp e.2)

/-- Map images that no running command needs are given up (R624). -/
def sweepImages (n : Node) : Node :=
  { n with ctxs := { n.ctxs with images := n.ctxs.images.filter fun m => needsImage n m.1 } }

/-- An engine needs a map: it is fetched, when there is room to hold another image (R624). -/
def engFetch (n : Node) (ctx : Nat) : Node :=
  let n := sweepImages n
  if (Tbl.find? n.ctxs.images ctx).isNone && decide (256 ≤ n.ctxs.images.length) then n else fetchMap n ctx

/-- A READ or WRITE of an engine. -/
def engPacket (n : Node) (home ctx pva opcode : Nat) : Packet :=
  { blankPacket home n.nodeId 0 opcode with
    ctx := BitVec.ofNat 16 ctx, pva := wordOf pva, mapgen := BitVec.ofNat 32 (knownGen n ctx) }

/-- Sends an engine's packet and notes it. -/
def engSend (n : Node) (tid : Nat) (c : Cmd) (stage home : Nat) (p : Packet) (bs : Bytes) : Node :=
  let seq := nextSeq n n.nodeId home p.cls.toNat
  let n := sendPacket n p (.engine tid stage)
  setCmd n tid (engStage c stage (engDone c) (engGen c) seq home bs)

/-- Sends the WRITE in hand, or what stands in its way ends the command or makes it wait. -/
def engWrite (n : Node) (tid : Nat) (c : Cmd) (bs : Bytes) : Node :=
  let ctx := engDstCtx c
  let pva := engDst c + engDone c
  let wait := setCmd n tid (engStage c 3 (engDone c) (engGen c) 0 0 bs)
  match engRoute n ctx pva (engGen c) with
  | .wait => engFetch wait ctx
  | .nowhere => engEnd n tid c stDenied (engDone c)
  | .lost => engEnd n tid c stAborted (engDone c)
  | .home h =>
    let p := withPayload (engPacket n h ctx pva 2) bs
    let p := if bitOf (dword c 6) 16 then
        { p with flags := p.flags ||| 8, aux := BitVec.ofNat 16 (fieldOf (dword c 6) 15 0) } else p
    engSend n tid c 4 h p bs

/-- The bytes that a FILL stores in its next piece. -/
def fillBytes (n : Node) (c : Cmd) : Bytes :=
  (List.range (engPiece n c)).map fun i => BitVec.ofNat 8 ((dword c 3).toNat / 256 ^ ((engDone c + i) % 8))

/-- The next piece: its READ, or for a FILL its WRITE. -/
def engNext (n : Node) (tid : Nat) (c : Cmd) : Node :=
  if engLength c ≤ engDone c then engEnd n tid c stOK (engDone c)
  else if !isCopy c then engWrite n tid c (fillBytes n c)
  else
    let ctx := cmdCtx c
    let pva := engSrc c + engDone c
    match engRoute n ctx pva (engGen c) with
    | .wait => engFetch (setCmd n tid (engStage c 1 (engDone c) (engGen c) 0 0 [])) ctx
    | .nowhere => engEnd n tid c stDenied (engDone c)
    | .lost => engEnd n tid c stAborted (engDone c)
    | .home h => engSend n tid c 2 h { engPacket n h ctx pva 1 with len := BitVec.ofNat 13 (engPiece n c) } []

/-- Asks the home that took over from a lost one what became of the WRITE (R421). -/
def engAdopt (n : Node) (tid : Nat) (c : Cmd) : Node :=
  let ctx := engDstCtx c
  let lost := c.work.getD 3 0
  match engRoute n ctx (engDst c + engDone c) (engGen c) with
  | .wait => engFetch n ctx
  | .nowhere => engEnd n tid c stDenied (engDone c)
  | .lost => engEnd n tid c stAborted (engDone c)
  | .home h =>
    if h = lost then engFetch n ctx
    else
      let p := mgtPacket n h 0xB1 [wordOf (lost + 2 ^ 16), wordOf (c.work.getD 2 0)]
      let n := sendPacket n p (.engine tid 6)
      setCmd n tid { c with stage := 6 }

/-- A running COPY or FILL does what it now can. -/
def engGo (n : Node) (tid : Nat) : Node :=
  match cmdOf n tid with
  | none => n
  | some c =>
    if c.phase != .running || !(cmdOp c == 1 || cmdOp c == 2) then n
    else if c.stage = 1 then engNext n tid c
    else if c.stage = 3 then engWrite n tid c (engBytes c)
    else if c.stage = 5 then engAdopt n tid c
    else n

/-- Every COPY and FILL that waited for a map goes on (R420, R624). -/
def engGoAll (n : Node) : Node := (Tbl.keysOf n.trk.cmds).foldl engGo n

/-! ### LENGTH 0 (R171) -/

/-- The home that a write of a PVA would go to, when the module's maps show it. -/
def engHome (n : Node) (ctx pva : Nat) : Option Nat :=
  match engRoute n ctx pva 0 with
  | .home h => some h
  | _ => none

/-- Whether an earlier command's destination span has a byte homed at a node; a chunk whose home the maps do not show counts
as homed there. -/
def engSharesHome (n : Node) (e : Cmd) (home : Nat) : Bool :=
  let first := engDst e / 2 ^ 21
  (List.range ((engDst e + engLength e - 1) / 2 ^ 21 - first + 1)).any fun i =>
    match engRoute n (engDstCtx e) (max (engDst e) ((first + i) * 2 ^ 21)) 0 with
    | .home h => h == home
    | .wait => true
    | _ => false

/-- A command of LENGTH 0 may complete: every earlier COPY and FILL of its ring that shares its destination home, or every
one where no extent covers DST_PVA, has completed. -/
def engFenceOpen (n : Node) (c : Cmd) : Bool :=
  let earlier := ((earlierCmds n c).map Prod.snd).filter fun e => (cmdOp e == 1 || cmdOp e == 2) && !cmdCompleted e
  match engHome n (engDstCtx c) (engDst c) with
  | some h => !earlier.any fun e => if engLength e = 0 then engHome n (engDstCtx e) (engDst e) == some h else engSharesHome n e h
  | none => earlier.isEmpty

/-- A command of LENGTH 0: a fence. While its home must still be learned, the map is fetched. -/
def engZero (n : Node) (tid : Nat) (c : Cmd) : Node :=
  match engRoute n (engDstCtx c) (engDst c) 0 with
  | .wait => engFetch n (engDstCtx c)
  | _ => if engFenceOpen n c then engEnd n tid c stOK 0 else n

/-! ### COPY and FILL -/

/-- A COPY or FILL starts, or goes on where it waits. -/
def engRow (op tid : Nat) (n : Node) : Node :=
  match cmdOf n tid with
  | none => n
  | some c =>
    if c.phase == .running then
      resumeCmd n tid op fun c => if engLength c = 0 then engZero n tid c else engGo n tid
    else
      startCmd n tid op fun c =>
        checked n tid c (engInvalid c) [(isCopy c && c.ring != 0 && fieldOf (dword c 5) 55 40 != 0, stDenied)] fun _ =>
          if engLength c = 0 then
            let c := { c with phase := .running }
            engZero (setCmd n tid c) tid c
          else
            let c := engStage c 1 0 0 0 0 []
            engNext (setCmd n tid c) tid c

/-- COPY. -/
def execCopy (tid : Nat) (s : State) : Host.Outcome State Fault Refusal := .next (onNode s (engRow 1 tid))

/-- FILL. -/
def execFill (tid : Nat) (s : State) : Host.Outcome State Fault Refusal := .next (onNode s (engRow 2 tid))

/-! ### Answers (R124, R170, R172, R420) -/

/-- Bytes that a store's answer says have landed. -/
def landedOf (p : Packet) : Nat := fieldOf p.op5 44 32

/-- A WRITE has ended with a status, `landed` bytes of it in place. -/
def engWritten (n : Node) (tid : Nat) (c : Cmd) (status landed : Nat) : Node :=
  let size := (engBytes c).length
  if status = stOK then
    let c := engStage c 1 (engDone c + size) (engGen c) 0 0 []
    engNext (setCmd n tid c) tid c
  else engEnd n tid c status (engDone c + min landed size)

/-- An answer to an engine's READ, WRITE or question to an adopting home. -/
def engAnswer (n : Node) (tid stage : Nat) (p : Packet) : Node :=
  match cmdOf n tid with
  | none => n
  | some c =>
    let st := p.status.toNat
    if c.phase != .running || c.stage != stage || st = stRetry then n
    else if stage = 6 then
      let rec0 := bytesToWords 2 (payloadOf p)
      let was := fieldOf (wordAt rec0 0) 39 32
      if was = stRetry || was = stStaleSeq then engWrite n tid c (engBytes c)
      else engWritten n tid c was (fieldOf (wordAt rec0 0) 52 40)
    else if st = stMoved then
      let gen := newerGen (engGen c) p.mapgen.toNat
      if stage = 2 then engNext n tid (engStage c 1 (engDone c) gen 0 0 [])
      else engWrite n tid (engStage c 3 (engDone c) gen 0 0 (engBytes c)) (engBytes c)
    else if stage = 2 then
      if st = stOK && p.cls == 3 then
        let bs := sliceOf (payloadOf p) 0 (engPiece n c)
        engWrite n tid c bs
      else engEnd n tid c st (engDone c)
    else engWritten n tid c st (landedOf p)

/-- The home of an engine's packet is declared lost: a READ is sent again, and of a WRITE the outcome is asked for (R421). -/
def engLost (n : Node) (lost : Nat) : Node :=
  n.trk.cmds.foldl (fun n e =>
    match cmdOf n e.1 with
    | none => n
    | some c =>
      if c.phase != .running || !(cmdOp c == 1 || cmdOp c == 2) || c.work.getD 3 0 != lost then n
      else if c.stage = 2 then setCmd n e.1 (engStage c 1 (engDone c) (engGen c) 0 0 [])
      else if c.stage = 4 then setCmd n e.1 { c with stage := 5 }
      else n) n

end Sys2Proof.Machine
end

