-- ==== Sys2Proof/Machine/Solstice.lean ====
section
/-! DEFINITION. Solstice: the commands that open, announce, query, restore and drop a cohort's parts, and what its parts do as
their sources end (R377–R395, R400, R404). -/

namespace Sys2Proof.Machine

/-! ### SOLSTICE_OPEN (R383–R386) -/

/-- NSPAN. -/
def openSpans (c : Cmd) : Nat := fieldOf (dword c 3) 47 32
/-- NSRC. -/
def openSources (c : Cmd) : Nat := fieldOf (dword c 3) 63 48
/-- SPAN_PVA. -/
def openSpanPva (c : Cmd) : Nat := (dword c 4).toNat
/-- SRC_PVA. -/
def openSrcPva (c : Cmd) : Nat := (dword c 5).toNat
/-- CREC_PVA. -/
def openCrec (c : Cmd) : Nat := (dword c 6).toNat

/-- A field of SOLSTICE_OPEN lies outside its range (R383). -/
def openReserved (c : Cmd) : Bool :=
  cmdCtx c == 0 || cohortWord c == 0 || openSpans c == 0 || decide (4096 < openSpans c) || decide (4096 < openSources c) ||
  pvaBad (dword c 4) || pvaBad (dword c 5) || pvaBad (dword c 6) || openSpanPva c % 64 != 0 || openSrcPva c % 8 != 0 ||
  (openSources c == 0 && openSrcPva c != 0) || openCrec c % 64 != 0 || dword c 7 != 0

/-- A span lies in ranges of a context on this module that grant R, in either role. -/
def spanReadable (n : Node) (ctx pva len : Nat) : Bool :=
  (granulesOf pva len).all fun g => ((rangeOf n ctx g).map fun r => !r.departed && r.r).getD false

/-- The span entries, from their bytes. -/
def spanEntries (count : Nat) (bs : Bytes) : List (List Word) :=
  (List.range count).map fun i => bytesToWords 4 (bs.drop (32 * i))

/-- A span entry holds a value it may not (R383). -/
def entryBad (ws : List Word) : Bool :=
  pvaBad (wordAt ws 0) || (wordAt ws 0).toNat % 65536 != 0 || fieldOf (wordAt ws 1) 63 32 != 0 || wordAt ws 1 == 0 ||
  pvaBad (wordAt ws 2) || (wordAt ws 2).toNat % 65536 != 0 || wordAt ws 3 != 0 ||
  decide (2 ^ 57 < (wordAt ws 0).toNat + (wordAt ws 1).toNat * 65536)

/-- A span entry as the part keeps it. -/
def spanEntry (ws : List Word) : CohortSpan :=
  { start := (wordAt ws 0).toNat, gran := fieldOf (wordAt ws 1) 31 0, drain := (wordAt ws 2).toNat }

/-- Two runs of bytes meet. -/
def bytesMeet (a la b lb : Nat) : Bool := decide (a < b + lb ∧ b < a + la)

/-- Some two spans of a list overlap. -/
def cohortSpansMeet : List CohortSpan → Bool
  | [] => false
  | s :: rest => (rest.any fun t => bytesMeet s.start (s.gran * 65536) t.start (t.gran * 65536)) || cohortSpansMeet rest

/-- The chunks of a span in the ranges of one ROLE and PEER_NODE: chunk of the home space, PVA, span index (R377). -/
def chunksOfSpan (rs : List Range) (role : Bool) (peer : Nat) (s : CohortSpan) (i : Nat) : List (Nat × Nat × Nat) :=
  (rs.filter fun r => r.mirrorRole == role && r.peer == peer && !r.departed).flatMap fun r =>
    let lo := max r.start s.start
    let hi := min (r.start + rangeBytes r) (s.start + s.gran * 65536)
    (List.range ((hi - lo) / 65536)).map fun g =>
      let pva := lo + g * 65536
      (chunkOf (lineAt r pva), pva, i)

/-- A drain span lies wholly in DENSE_DIRECT ROLE 0 ranges of the context that grant W. -/
def drainHeld (n : Node) (ctx : Nat) (s : CohortSpan) : Bool :=
  spanGranted n ctx s.drain (s.gran * 65536) fun r => r.resClass == 2 && r.w

/-- The part that a SOLSTICE_OPEN would make. -/
def newPart (n : Node) (tid : Nat) (c : Cmd) (r : Range) (spans : List CohortSpan) (srcs : List Nat) : Part :=
  let ctx := cmdCtx c
  let chunks := (spans.zipIdx).flatMap fun s => chunksOfSpan (rangesOf n ctx) r.mirrorRole r.peer s.1 s.2
  { ctx := ctx, cohort := cohortWord c, epoch := fieldOf (dword c 3) 31 16, mirror := r.mirrorRole, carried := false,
    spans := spans, srcs := srcs.map fun x => { node := x, cut := none, pruned := false, lost := false },
    crec := openCrec c, state := 1, status := stOK, chunks := chunks, drained := [], draining := [], drainStopped := false,
    rgen := 0, recordStale := false, recordDue := !r.mirrorRole, recFwds := [], followers := [],
    opener := if r.mirrorRole then none else some tid, restoring := none }

/-- The INVALID cases of R385 that the lists, the parts and the record decide. -/
def openInvalid (n : Node) (p : Part) (record : Bytes) : Bool :=
  let own := n.sol.parts.map Prod.snd
  let drains := p.spans.filter fun s => s.drain != 0
  let spans := p.spans ++ (own.filter fun o => o.ctx == p.ctx).flatMap fun o => o.spans
  cohortSpansMeet p.spans ||
  (own.any fun o => o.chunks.any fun k => p.chunks.any fun x => x.1 == k.1) ||
  (own.any fun o => o.ctx == p.ctx && o.cohort != p.cohort && o.chunks.any fun k =>
    p.spans.any fun s => bytesMeet s.start (s.gran * 65536) k.2.1 65536) ||
  (p.srcs.any fun s => s.node == 0 || isGroup s.node || ((Tbl.find? n.ml.memb.known s.node).map Prod.snd).getD false) ||
  (own.any fun o => o.ctx == p.ctx && o.crec == p.crec) ||
  (own.any fun o => o.ctx == p.ctx && o.cohort == p.cohort && o.epoch != p.epoch) ||
  (record.any fun b => b != 0) ||
  (!p.mirror && drains.any fun s => !drainHeld n p.ctx s) ||
  (drains.any fun s => spans.any fun t => bytesMeet s.drain (s.gran * 65536) t.start (t.gran * 65536))

/-- The NO_RESOURCE cases of R385. -/
def openShort (n : Node) (p : Part) : Bool :=
  decide (256 ≤ n.sol.parts.length) ||
  decide (cfgNum n 0x0205 * 2 ^ 30 < tablesBytes n + tableBytes p + 65536 * (n.mem.cow.filter fun c => !c.2.dense).length)

/-- The range that may hold a cohort record: of the context, on this module, granting R and W (R385). -/
def crecRange (n : Node) (c : Cmd) : Option Range :=
  match rangeOf n (cmdCtx c) (openCrec c) with
  | some r => if r.r && r.w && !r.departed then some r else none
  | none => none

/-- A SOLSTICE_OPEN whose lists and record line are at hand takes effect. -/
def openPart (n : Node) (tid : Nat) (c : Cmd) (r : Range) : Node :=
  let ctx := cmdCtx c
  let raw := spanEntries (openSpans c) (spanBytes n ctx (openSpanPva c) (32 * openSpans c))
  let srcBytes := spanBytes n ctx (openSrcPva c) (2 * openSources c)
  let srcs := ((List.range (openSources c)).map fun i => leNat ((srcBytes.drop (2 * i)).take 2)).eraseDups
  let p := newPart n tid c r (raw.map spanEntry) srcs
  checked n tid c (raw.any entryBad || openInvalid n p (spanBytes n ctx (openCrec c) 64)) [(openShort n p, stNoResource)] fun _ =>
    let k := n.sol.nextPart
    let n := { n with sol := { parts := Tbl.put n.sol.parts k p, nextPart := k + 1 } }
    if p.mirror then endCmd n tid stOK 0 0 else settle (runStage n tid 1 [])

/-- SOLSTICE_OPEN: the lists it names must lie in ranges of the context on this module that grant R. -/
def solsticeOpen (tid : Nat) (n : Node) : Node :=
  startCmd n tid 0x20 fun c =>
    let ctx := cmdCtx c
    let early := openReserved c || (crecRange n c).isNone
    match (if early then none else crecRange n c) with
    | none => checked n tid c true [] fun _ => n
    | some r =>
      let lists := spanReadable n ctx (openSpanPva c) (32 * openSpans c) && spanReadable n ctx (openSrcPva c) (2 * openSources c)
      if headerBad c || ringDenied c || countDenied n c || !lists then checked n tid c false [(!lists, stDenied)] fun _ => n
      else
        let a := engineReadPrep n ctx (openSpanPva c) (32 * openSpans c)
        let b := engineReadPrep a.1 ctx (openSrcPva c) (2 * openSources c)
        let d := engineReadPrep b.1 ctx (openCrec c) 64
        let f := worseFetch a.2 (worseFetch b.2 d.2)
        let bad := spanPoisoned d.1 ctx (openSpanPva c) (32 * openSpans c) || spanPoisoned d.1 ctx (openSrcPva c) (2 * openSources c) ||
          spanPoisoned d.1 ctx (openCrec c) 64
        if f = .noKey then refuseCmd d.1 tid stInternal
        else if f = .waits then d.1
        else if bad then refuseCmd d.1 tid stPoisoned
        else openPart d.1 tid c r

/-- SOLSTICE_OPEN. -/
def execSolsticeOpen (tid : Nat) (s : State) : Host.Outcome State Fault Refusal := .next (onNode s (solsticeOpen tid))

/-! ### SOLSTICE_ANNOUNCE (R388, R389) -/

/-- AUTO. -/
def annAuto (c : Cmd) : Bool := bitOf (dword c 3) 32
/-- SOURCE. -/
def annSource (c : Cmd) : Nat := fieldOf (dword c 3) 15 0
/-- EPOCH. -/
def annEpoch (c : Cmd) : Nat := fieldOf (dword c 3) 31 16

/-- The words of an announce are malformed (R388). -/
def annReserved (c : Cmd) : Bool :=
  cmdCtx c == 0 || fieldOf (dword c 3) 63 33 != 0 || fieldOf (dword c 4) 63 32 != 0 || dword c 5 != 0 || dword c 6 != 0 ||
  dword c 7 != 0 || (annAuto c && dword c 4 != 0)

/-- The delivered point of the REQs a source sends to this module (R126). -/
def reqPoint (n : Node) (src : Nat) : Nat := (pairOf n n.nodeId src).deliv.getD 0 0

/-- An announce applies to a part (R389). -/
def annApplies (c : Cmd) (p : Part) : Bool :=
  classifies p && p.ctx == cmdCtx c && p.epoch == annEpoch c && p.srcs.any fun s => s.node == annSource c && !s.pruned

/-- The cut of a source raised to a value: the higher of the two in serial arithmetic. -/
def raiseCut (src cut : Nat) (s : CohortSource) : CohortSource :=
  if s.node != src || s.pruned then s
  else { s with cut := match s.cut with
    | none => some cut
    | some old => some (if serialLt 32 old cut then cut else old) }

/-- SOLSTICE_ANNOUNCE. -/
def solsticeAnnounce (tid : Nat) (n : Node) : Node :=
  startCmd n tid 0x21 fun c =>
    checked n tid c (annReserved c) [(c.ring != 0 && annSource c != c.writer, stDenied)] fun _ =>
      let cut := if annAuto c then reqPoint n (annSource c) else (dword c 4).toNat
      let hit := n.sol.parts.filter fun e => annApplies c e.2
      let n := hit.foldl (fun n e => setPart n e.1 { e.2 with
        srcs := e.2.srcs.map (raiseCut (annSource c) cut), recordStale := true }) n
      endCmd n tid stOK (wordOf hit.length) 0

/-- SOLSTICE_ANNOUNCE. -/
def execSolsticeAnnounce (tid : Nat) (s : State) : Host.Outcome State Fault Refusal := .next (onNode s (solsticeAnnounce tid))

/-! ### SOLSTICE_SEAL_QUERY (R393) -/

/-- Words 4 to 7 and the rest of word 3 are reserved: `top` is the first reserved bit of word 3. -/
def cohortReserved (c : Cmd) (top : Nat) : Bool :=
  cmdCtx c == 0 || cohortWord c == 0 || fieldOf (dword c 3) 63 top != 0 || dword c 4 != 0 || dword c 5 != 0 || dword c 6 != 0 ||
  dword c 7 != 0

/-- SOLSTICE_SEAL_QUERY. -/
def solsticeSealQuery (tid : Nat) (n : Node) : Node :=
  startCmd n tid 0x22 fun c =>
    let ps := partsOf n (cmdCtx c) (cohortWord c)
    checked n tid c (cohortReserved c 17 || ps.isEmpty) [] fun _ =>
      if bitOf (dword c 3) 16 && ps.any fun p => p.2.state == 1 then runStage n tid 1 [] else answerQuery n tid ps

/-- SOLSTICE_SEAL_QUERY. -/
def execSolsticeSealQuery (tid : Nat) (s : State) : Host.Outcome State Fault Refusal := .next (onNode s (solsticeSealQuery tid))

/-! ### PART_SEAL and SOURCE_PRUNE (R390, R391) -/

/-- A REQ of a source has been delivered and has not ended, or was refused and not sent again, at or below a SEQ. -/
def reqUnended (n : Node) (src cut : Nat) : Bool :=
  let q := pairOf n n.nodeId src
  let hit := fun (p : Packet) => p.src.toNat == src && p.dst.toNat == n.nodeId && p.cls == 0 && serialLe 32 p.seq.toNat cut
  (q.open_.any fun o => o.1 == 0 && serialLe 32 o.2 cut) || (q.refused.any fun s => serialLe 32 s cut) || q.held.any hit ||
  n.prs.delivered.any hit || (n.trk.reqs.any fun e => hit e.2.pkt) || n.ctr.waits.any fun w => hit w.pkt

/-- A source no longer holds a part's seal back: it was pruned, or has announced and everything up to its cut has ended. -/
def sourceEnded (n : Node) (s : CohortSource) : Bool :=
  s.pruned ||
    (match s.cut with
     | none => false
     | some c => serialLe 32 c (reqPoint n s.node) && !reqUnended n s.node c)

/-- The epoch that a waiting firing's run would carry, from its descriptor (R280, R281); none while the descriptor is not at
hand. -/
def firingEpoch (n : Node) (f : Firing) : Option Nat :=
  match rangeOf n f.ctx f.runPva with
  | none => none
  | some r => (peekLine n (lineAt r f.runPva)).map fun bs =>
      let ws := bytesToWords 8 bs
      let own := fieldOf (wordAt ws 5) 63 48
      if bitOf (wordAt ws 3) 16 then f.epoch.getD own else own

/-- A run or a waiting firing of the part's context at or before its epoch holds the seal back. A firing whose descriptor is
not at hand counts as one. -/
def runsHold (n : Node) (p : Part) : Bool :=
  (n.prog.runs.any fun r => r.2.ctx == p.ctx && atOrBefore r.2.epoch p.epoch) ||
  n.prog.firings.any fun f => f.ctx == p.ctx && ((firingEpoch n f).map fun e => atOrBefore e p.epoch).getD true

/-- Every seal condition of R390 holds. -/
def sealReady (n : Node) (p : Part) : Bool :=
  classifies p && p.srcs.all (sourceEnded n) && !runsHold n p &&
    !n.coh.mdirty.any fun m => p.chunks.any fun c => c.1 == chunkOf m.1

/-- PART_SEAL: the part seals, its record is written and its drain starts. -/
def partSeal (k : Nat) (n : Node) : Node :=
  match Tbl.find? n.sol.parts k with
  | none => n
  | some p =>
    if !accepting n || !sealReady n p then n
    else settle (setPart n k { p with state := 2, recordDue := true })

/-- PART_SEAL. -/
def execPartSeal (part : Nat) (s : State) : Host.Outcome State Fault Refusal := .next (onNode s (partSeal part))

/-- A source of a part is pruned: its cut is its pair's delivered point. -/
def pruneSource (src cut : Nat) (s : CohortSource) : CohortSource :=
  if s.node == src && s.lost && !s.pruned then { s with cut := some cut, pruned := true } else s

/-- SOURCE_PRUNE: a listed source declared lost counts as unlisted once every admitted request of the pair has ended. -/
def sourcePrune (k src : Nat) (n : Node) : Node :=
  match Tbl.find? n.sol.parts k with
  | none => n
  | some p =>
    let due := classifies p && p.srcs.any fun s => s.node == src && s.lost && !s.pruned
    let busy := n.trk.reqs.any fun e => e.2.pkt.src.toNat == src && e.2.pkt.dst.toNat == n.nodeId
    if !accepting n || !due || busy then n
    else settle (setPart n k { p with srcs := p.srcs.map (pruneSource src (reqPoint n src)), recordStale := true })

/-- SOURCE_PRUNE. -/
def execSourcePrune (part : Nat) (src : NodeId) (s : State) : Host.Outcome State Fault Refusal :=
  .next (onNode s (sourcePrune part src.toNat))

/-! ### DRAIN_CHUNK (R392) -/

/-- A chunk's image is at hand: an image copy, or a live version whose lines lie in their slices. -/
def prepImage (n : Node) (ctx : Nat) (r : Range) (chunk : Nat) : Node × Fetch :=
  if (imageOf n chunk).isSome && n.mem.badImage.any (fun l => chunkOf l == chunk) then (n, .waits)
  else if (imageOf n chunk).isSome then (n, if (keysFor n ctx r).isEmpty then .noKey else .ready)
  else
    (List.range 1024).foldl (fun (a : Node × Fetch) i =>
      let f := fetchLine a.1 ctx r (chunk * 1024 + i) false
      (f.1, worseFetch a.2 f.2)) (n, .ready)

/-- A line of a chunk's image, as it stands. -/
def imageOfLine (n : Node) (ctx : Nat) (r : Range) (line : Nat) : Option Bytes :=
  match imageOf n (chunkOf line) with
  | some c => imageLine n ctx r c line
  | none => some (lineData n line)

/-- Lines of a chunk whose image is poisoned, within the chunk. -/
def imagePoison (n : Node) (chunk : Nat) : List Nat :=
  match imageOf n chunk with
  | some c => c.poison
  | none => (n.coh.poison.filter fun l => chunkOf l == chunk).map (· % 1024)

/-- A drain stops: the part stays SEALED, and the refusal is logged. -/
def stopDrain (n : Node) (k : Nat) (p : Part) : Node :=
  logEvent (setPart n k { p with drainStopped := true }) { otherEvent 6 11 with ctx := p.ctx, data0 := p.cohort }

/-- Poisons the drained copies of lines whose image is poisoned (R210). -/
def poisonDrained (n : Node) (ctx pva : Nat) (lines : List Nat) : Node :=
  lines.foldl (fun n i =>
    match rangeOf n ctx (pva + i * 64) with
    | some r => poisonLine n ctx r (lineAt r (pva + i * 64))
    | none => n) n

/-- Drains one chunk of a sealed part to its target, once its image and its target are ready. -/
def drainInto (n : Node) (k : Nat) (p : Part) (chunk pva : Nat) : Node :=
  if !spanGranted n p.ctx pva 65536 fun r => r.resClass == 2 && r.w then stopDrain n k p
  else
    match spanOf n (chunk * 1024) with
    | none => stopDrain n k p
    | some (ctx, r) =>
      let a := prepImage n ctx r chunk
      let b := engineStorePrep a.1 p.ctx pva 65536 .own
      let f := worseFetch a.2 b.2
      if f = .noKey then stopDrain b.1 k p
      else if f = .waits then b.1
      else
        let lines := (List.range 1024).map fun i => imageOfLine b.1 ctx r (chunk * 1024 + i)
        if lines.any Option.isNone then failPart b.1 k stAborted
        else
          let bs := lines.flatMap fun l => l.getD []
          let c := engineCommit b.1 p.ctx pva .own (.drain k chunk) (ownInfo b.1 p.ctx) bs
          let n := poisonDrained c.1 p.ctx pva (imagePoison b.1 chunk)
          match Tbl.find? n.sol.parts k with
          | some p => setPart n k { p with draining := p.draining ++ [chunk] }
          | none => n

/-- DRAIN_CHUNK. -/
def drainChunk (k chunk : Nat) (n : Node) : Node :=
  match Tbl.find? n.sol.parts k with
  | none => n
  | some p =>
    if !accepting n || !writesRecord p || p.state != 2 || p.drainStopped || p.drained.contains chunk || p.draining.contains chunk then n
    else
      match (p.chunks.find? fun c => c.1 == chunk).bind (drainTo p) with
      | none => n
      | some pva => settle (drainInto n k p chunk pva)

/-- DRAIN_CHUNK. -/
def execDrainChunk (part chunk : Nat) (s : State) : Host.Outcome State Fault Refusal := .next (onNode s (drainChunk part chunk))

/-- COHORT_RECORD_WRITE: a record whose counts have changed is written again (R384). -/
def recordTick (k : Nat) (n : Node) : Node :=
  match Tbl.find? n.sol.parts k with
  | none => n
  | some p => if accepting n && (p.recordStale || p.recordDue) then settle (writeRecord n k) else n

/-- COHORT_RECORD_WRITE. -/
def execCohortRecordWrite (part : Nat) (s : State) : Host.Outcome State Fault Refusal := .next (onNode s (recordTick part))

/-! ### SOLSTICE_RESTORE (R394) -/

/-- Some parts hold a line's chunk. -/
def partsHold (ps : Tbl Part) (line : Nat) : Bool := ps.any fun p => p.2.chunks.any fun c => c.1 == chunkOf line

/-- The parts that a RESTORE is restoring. -/
def restoringParts (n : Node) (tid : Nat) : Tbl Part := n.sol.parts.filter fun p => decide (p.2.restoring = some tid)

/-- Step 2 is over: no admitted request touches the parts' chunks, no run of the context is under way, no line of them is
mirror-dirty. -/
def restoreDrained (n : Node) (ctx : Nat) (ps : Tbl Part) : Bool :=
  !(n.trk.reqs.any fun q => q.2.lines.any fun l => partsHold ps l.1) && !(n.prog.runs.any fun r => r.2.ctx == ctx) &&
    !n.coh.mdirty.any fun m => partsHold ps m.1

/-- Held lines of the parts, with recalls outstanding on them. -/
def restoreHeld (n : Node) (ps : Tbl Part) : List Nat :=
  (Tbl.keysOf n.coh.dir ++ Tbl.keysOf n.coh.recalls).filter fun l => partsHold ps l

/-- Lent copies of lines of the parts. -/
def restoreLent (n : Node) (ps : Tbl Part) : List (Nat × Nat) :=
  ((n.coh.lent.flatMap fun t => t.2.map fun e => (e.ctx, e.line)) ++
    (n.coh.opbuf.flatMap fun t => (t.2.filter fun c => !c.nc).map fun c => (c.ctx, c.line))).filter fun e => partsHold ps e.2

/-- Pins the block again with its lines, after a TILE_PINNED chunk has changed its version. -/
def repin (n : Node) (ctx : Nat) (r : Range) (b : Nat) : Node :=
  if r.resClass = 3 then (pinBlock n ctx r b).1 else n

/-- One chunk's image copy becomes its live version: the old live storage goes, with its slices, its frame and its poison. -/
def switchChunk (n : Node) (chunk : Nat) : Node :=
  match imageOf n chunk, spanOf n (chunk * 1024) with
  | some c, some (ctx, r) =>
    let bs := (List.range 16).map fun i => chunk * 16 + i
    let n := bs.foldl dropBlock n
    let frames := n.mem.frames.filter fun f => f.2.blk != chunk
    let n := { n with mem := { n.mem with
        cow := Tbl.put n.mem.cow chunk { c with restored := true }
        frames := frames
        cache := memClear n.mem.cache (chunk * 65536) 65536
        bad := n.mem.bad.filter fun e => chunkOf e.1 != chunk } }
    let poison := (n.coh.poison.filter fun l => chunkOf l != chunk) ++ c.poison.map fun i => chunk * 1024 + i
    let n := { n with coh := { n.coh with poison := poison } }
    bs.foldl (fun n b => repin n ctx r b) n
  | _, _ => n

/-- Step 4: every SPLIT chunk of the parts switches in one change. -/
def switchParts (n : Node) (ps : Tbl Part) : Node :=
  ps.foldl (fun n p =>
    let n := p.2.chunks.foldl (fun n c => switchChunk n c.1) n
    setPart n p.1 { p.2 with state := 5, recordDue := writesRecord p.2, drainStopped := true }) n

/-- A RESTORE goes on, as far as it can. -/
def goOnRestore (n : Node) (tid : Nat) (c : Cmd) : Node :=
  let ps := restoringParts n tid
  if c.stage != 2 || !restoreDrained n (cmdCtx c) ps then n
  else
    let prim := ps.filter fun p => !p.2.mirror
    let n := (restoreHeld n prim).foldl (fun n l => withdraw n l none (.restore tid)) n
    let n := (restoreLent n ps).foldl (fun n e => startSnoop n e.1 e.2) n
    let n := (List.range 64).foldl (fun n t => dropNc n t (cmdCtx c)) n
    if !(restoreHeld n prim).isEmpty || n.coh.snoops.any (fun e => partsHold ps e.1) then n
    else runStage (switchParts n ps) tid 3 []

/-- SOLSTICE_RESTORE. -/
def solsticeRestore (tid : Nat) (n : Node) : Node :=
  match cmdOf n tid with
  | none => n
  | some c =>
    if c.phase == .running then resumeCmd n tid 0x23 fun c => settle (goOnRestore n tid c)
    else
      startCmd n tid 0x23 fun c =>
        let ps := partsOf n (cmdCtx c) (cohortWord c)
        if ps.any fun p => p.2.restoring.isSome then n
        else
          checked n tid c (cohortReserved c 16 || ps.isEmpty || ps.any fun p => p.2.state != 2 && p.2.state != 3) [] fun _ =>
            let n := ps.foldl (fun n p => setPart n p.1 { p.2 with restoring := some tid, drainStopped := true }) n
            let n := runStage n tid 2 []
            match cmdOf n tid with
            | some c => settle (goOnRestore n tid c)
            | none => n

/-- SOLSTICE_RESTORE. -/
def execSolsticeRestore (tid : Nat) (s : State) : Host.Outcome State Fault Refusal := .next (onNode s (solsticeRestore tid))

/-- The chunk of a restored chunk's home storage takes over again. -/
def copyBackStack (n : Node) (chunk : Nat) (c : CowChunk) : Node :=
  (List.range 16).foldl (fun n i =>
    let b := chunk * 16 + i
    { n with mem := { n.mem with
        bstate := setState n.mem.bstate b (c.states.getD i 0)
        stack := memWrite 0 n.mem.stack (b * 4096) (memRead 0 c.bytes (i * 4096) 4096)
        badCheck := n.mem.badCheck.filter fun l => blkOf l != b } }) n

/-- A restored chunk of the dense window goes into a frame, dirty in every sub-block. -/
def copyBackFrame (n : Node) (chunk : Nat) (c : CowChunk) : Option Node :=
  match (match frameOf n chunk with
         | some (f, _) => some (n, f)
         | none => allocFrame n chunk) with
  | none => none
  | some (n, f) =>
    (Tbl.find? n.mem.frames f).map fun x =>
      let n := setFrame n f { x with dirty := 65535, states := c.states, filling := false }
      { n with mem := { n.mem with cache := memWrite 0 n.mem.cache (chunk * 65536) (memRead 0 c.bytes 0 65536) } }

/-- A restored chunk is written to its drive, block by block with FUA. -/
def copyBackDirect (n : Node) (chunk : Nat) (c : CowChunk) : Node :=
  (List.range 16).foldl (fun n i =>
    let b := chunk * 16 + i
    issueNvme n (driveOf (b * 4096)) 1 (lbaOf (b * 4096)) 1 true (memRead 0 c.bytes (i * 4096) 4096) [c.states.getD i 0]
      (.directWrite b)) n

/-- A restored chunk is written to its lender. -/
def copyBackLent (n : Node) (ctx : Nat) (r : Range) (chunk : Nat) (c : CowChunk) : Option Node :=
  let keys := keysFor n ctx r
  if keys.isEmpty then none
  else
    some <| (List.range 16).foldl (fun n i =>
      let b := chunk * 16 + i
      let plain := (openBlock keys r.comp b (c.states.getD i 0) (memRead 0 c.bytes (i * 4096) 4096)).getD (List.replicate 4096 0)
      lenderWrite n ctx r b (sealLent keys r.comp b plain)) n

/-- The node with a restored chunk's copy-on-write space freed. -/
def freeRestored (n : Node) (chunk : Nat) : Node := { n with mem := { n.mem with cow := Tbl.del n.mem.cow chunk } }

/-- RESTORE_COPY_BACK: a restored chunk returns to its home storage, and its copy-on-write space is freed. -/
def restoreCopyBack (chunk : Nat) (n : Node) : Node :=
  match Tbl.find? n.mem.cow chunk with
  | none => n
  | some c =>
    if !c.restored || !accepting n then n
    else
      match spanOf n (chunk * 1024) with
      | none => freeRestored n chunk
      | some (ctx, r) =>
        let done := fun (o : Option Node) => (o.map fun n => settle (freeRestored n chunk)).getD n
        if r.resClass = 1 then done (copyBackFrame n chunk c)
        else if r.resClass = 2 then
          (if writeBusy n (driveOf (chunk * 65536)) (lbaOf (chunk * 65536)) 16 then n else done (some (copyBackDirect n chunk c)))
        else if r.resClass = 4 then done (copyBackLent n ctx r chunk c)
        else done (some (copyBackStack n chunk c))

/-- RESTORE_COPY_BACK. -/
def execRestoreCopyBack (chunk : Nat) (s : State) : Host.Outcome State Fault Refusal := .next (onNode s (restoreCopyBack chunk))

/-! ### SOLSTICE_DROP (R395) -/

/-- Frees some parts: their image copies and tables go, and live versions are untouched. -/
def freeParts (n : Node) (ks : List Nat) : Node :=
  { n with
    mem := { n.mem with cow := n.mem.cow.filter fun c => c.2.restored || !ks.contains c.2.part }
    sol := { n.sol with parts := n.sol.parts.filter fun p => !ks.contains p.1 } }

/-- SOLSTICE_DROP: once the records of the primary parts can be written, the parts are freed and the records zeroed. An OPEN
that still waits for a part's record ends, and so does a RESTORE that has not switched. -/
def dropCohort (n : Node) (tid : Nat) (c : Cmd) : Node :=
  let ps := partsOf n (cmdCtx c) (cohortWord c)
  let recs := (ps.filter fun p => writesRecord p.2).map fun p => p.2.crec
  let f := recs.foldl (fun (a : Node × Fetch) pva =>
    let g := engineStorePrep a.1 (cmdCtx c) pva 64 .own
    (g.1, worseFetch a.2 g.2)) (n, .ready)
  if f.2 = .noKey then refuseCmd f.1 tid stInternal
  else if f.2 = .waits then f.1
  else
    let n := ps.foldl (fun n p =>
      let n := match p.2.opener with
        | some t => endCmd n t stAborted 0 0
        | none => n
      match p.2.restoring with
      | some t => endCmd n t stAborted 0 0
      | none => n) f.1
    let n := freeParts n (ps.map Prod.fst)
    let n := recs.foldl (fun n pva =>
      (engineCommit n (cmdCtx c) pva .own (.cmdForward tid) (ownInfo n (cmdCtx c)) (List.replicate 64 0)).1) n
    settle (runStage n tid 1 recs)

/-- SOLSTICE_DROP. -/
def solsticeDrop (tid : Nat) (n : Node) : Node :=
  startCmd n tid 0x24 fun c =>
    let ps := partsOf n (cmdCtx c) (cohortWord c)
    let bad := cohortReserved c 16 || ps.isEmpty
    if ps.any fun p => p.2.state == 5 then n
    else if bad || headerBad c || ringDenied c || countDenied n c then checked n tid c bad [] fun _ => n
    else dropCohort n tid c

/-- SOLSTICE_DROP. -/
def execSolsticeDrop (tid : Nat) (s : State) : Host.Outcome State Fault Refusal := .next (onNode s (solsticeDrop tid))

end Sys2Proof.Machine
end

