-- ==== Sys2Proof/Machine/Mirror.lean ====
section
/-! DEFINITION. What a mirror does with forwards and repair reads, and what a primary does with the reads of a mirror that cannot
read a line (R95, R241, R372–R375, R382, R425, R474–R476). -/

namespace Sys2Proof.Machine

/-! ### Forwards at a mirror (R372, R373) -/

/-- A forward: a REQ WRITE that carries PEER. -/
def isForward (p : Packet) : Bool := p.opcode == 2 && isPeer p && !isCtrl p && !isZeroLength p

/-- VSEL. -/
def vselOf (p : Packet) : Nat := fieldOf p.op5 49 48
/-- ORIG_SEQ. -/
def origSeq (p : Packet) : Nat := fieldOf p.op5 31 0
/-- ORIG_SRC. -/
def origSrc (p : Packet) : Nat := fieldOf p.op5 47 32

/-- A packet that carries PEER is malformed in what R113 and R372 fix. -/
def peerInvalid (n : Node) (p : Packet) : Bool :=
  fieldOf p.pva 63 57 != 0 || p.ctx == 0 || isCnt p || isAcquire p || p.deadline != 0 || fieldOf p.op5 63 50 != 0 ||
  (if p.opcode = 2 then !hasPayload p || fieldOf p.op6 15 9 != 0 || bitOf p.op6 63 || decide (maxPayload n < p.len.toNat)
   else hasPayload p || p.len != 64 || p.pva.toNat % 64 != 0 || origSeq p != 0 || origSrc p != p.src.toNat ||
     !(vselOf p == 1 || vselOf p == 3))

/-- A range takes forwards from a node: a mirror's from its primary, or from the target of its primary's Leap (R424 step 4);
an arriving range's from the Leap's source. -/
def takesForwards (r : Range) (src : Nat) : Bool :=
  !r.departed && ((r.mirrorRole && (r.peer == src || r.peer2 == src)) || (r.arrivingFrom != 0 && r.arrivingFrom == src))

/-- The lines of a packet's span: local line, PVA of its first byte in the span, bytes. -/
def peerLines (n : Node) (p : Packet) : List (Nat × Nat × Nat) :=
  (lineParts p.pva.toNat p.len.toNat).map fun q => (localLine n p.ctx.toNat q.1, q.1, q.2)

/-- A whole line of a forward repairs a line that could not be read; a part of one is discarded (R476). -/
def dropRepair (n : Node) (p : Packet) : Node :=
  (peerLines n p).foldl (fun n l =>
    if l.2.2 != 64 then n
    else if vselOf p = 1 then { n with mem := { n.mem with badImage := n.mem.badImage.filter (· != l.1) } }
    else { n with mem := { n.mem with bad := Tbl.del n.mem.bad l.1 } }) n

/-- A line that a forward covers in part while it cannot be read. -/
def discarded (n : Node) (line : Nat) : Bool := (Tbl.find? n.mem.bad line).isSome

/-- Makes a forward's lines ready: its live lines in their slices, and with BEYOND, or the image of an arriving chunk, the
chunk split (R372, R426). -/
def prepForward (n : Node) (p : Packet) : Node × Fetch :=
  let ctx := p.ctx.toNat
  (peerLines n p).foldl (fun (a : Node × Fetch) l =>
    match rangeOf a.1 ctx l.2.1 with
    | none => a
    | some r =>
      let splits := vselOf p = 2 || (vselOf p = 1 && r.arrivingFrom != 0)
      if (vselOf p = 1 && !splits) || discarded a.1 l.1 then a
      else
        let f := fetchLine a.1 ctx r l.1 (l.2.2 == 64)
        let f := if f.2 == .ready && storeNeedsKey r && (keysFor f.1 ctx r).isEmpty then (f.1, Fetch.noKey) else f
        if f.2 != .ready then (f.1, worseFetch a.2 f.2)
        else
          match partOf f.1 (chunkOf l.1) with
          | some (k, x) =>
            if splits && keepsVersions x && (imageOf f.1 (chunkOf l.1)).isNone then
              let s := splitChunk f.1 k ctx r (chunkOf l.1)
              (s.1, worseFetch a.2 s.2)
            else (f.1, a.2)
          | none => (f.1, a.2)) (n, .ready)

/-- Poison of an image copy's line follows the poison its forward carries. -/
def poisonImage (n : Node) (line : Nat) (set : Bool) : Node :=
  { n with mem := { n.mem with cow := Tbl.upd n.mem.cow (chunkOf line) fun c =>
      { c with poison := (c.poison.filter (· != line % 1024)) ++ (if set then [line % 1024] else []) } } }

/-- Applies one line of a forward to the versions its VSEL names. -/
def applyForwardLine (n : Node) (p : Packet) (l : Nat × Nat × Nat) : Node :=
  let ctx := p.ctx.toNat
  match rangeOf n ctx l.2.1 with
  | none => n
  | some r =>
    let bs := ((payloadOf p).drop (l.2.1 - p.pva.toNat)).take l.2.2
    let whole := l.2.2 == 64
    let n := if vselOf p = 1 || discarded n l.1 then n
      else
        let n := storeLine n r l.1 (l.2.1 % 64) bs
        if p.poison then setPoison n l.1 else if whole then clearPoison n l.1 else n
    if (vselOf p = 0 || vselOf p = 1) && (imageOf n (chunkOf l.1)).isSome then
      let n := updateImage n ctx r l.1 fun old => overlayAt old (l.2.1 % 64) bs
      if p.poison then poisonImage n l.1 true else if whole then poisonImage n l.1 false else n
    else n

/-- A record of a mirror window not yet begun. -/
def DedupeRec.opened (op : Nat) : DedupeRec :=
  { opcode := op, status := none, landed := 0, ovf := 0, nans := 0, result := [], carried := 0 }

/-- The mirror record of an original request after one of its forwards (R241). `prior`: the bytes read before the forward was
applied. -/
def mirrorRecord (n : Node) (p : Packet) (prior : Bytes) : Node :=
  let key := pairKey (origSrc p) p.src.toNat
  let op := fieldOf p.op6 7 0
  let w := Tbl.getD n.prs.mirrorWins key { recs := [], last := origSeq p }
  let rec0 := Tbl.getD w.recs (origSeq p) (DedupeRec.opened op)
  let live := vselOf p != 1
  let rec1 := { rec0 with
    carried := rec0.carried + (if live && op == 2 then p.len.toNat else 0)
    result := if live && op == 3 then prior else rec0.result }
  let rec2 := if bitOf p.op6 8 then
      { rec1 with
        status := some (fieldOf p.op6 23 16), landed := fieldOf p.op6 36 24, ovf := fieldOf p.op6 49 37
        nans := fieldOf p.op6 62 50 }
    else rec1
  let last := if serialLt 32 w.last (origSeq p) then origSeq p else w.last
  { n with prs := { n.prs with
      mirrorWins := Tbl.put n.prs.mirrorWins key (pruneRecords { recs := Tbl.put w.recs (origSeq p) rec2, last := last } last) } }

/-- A mirror part follows its primary's writes of the cohort record (R382). -/
def followRecord (n : Node) (p : Packet) (l : Nat × Nat × Nat) : Node :=
  if vselOf p = 1 || l.2.2 != 64 then n
  else
    match n.sol.parts.find? fun e => (e.2.mirror || e.2.carried) && e.2.ctx == p.ctx.toNat && e.2.crec == l.2.1 with
    | none => n
    | some (k, x) =>
      let bs := ((payloadOf p).drop (l.2.1 - p.pva.toNat)).take 64
      let st := (bs.getD 2 0).toNat
      let x := { x with rgen := leNat ((bs.drop 56).take 4) }
      let n := setPart n k x
      if bs.all fun b => b == 0 then freeParts n [k]
      else if st = 2 && x.state == 1 then setPart n k { x with state := 2 }
      else if st = 4 then failPart n k (bs.getD 3 0).toNat
      else n

/-- A forward applied whole: its lines ascending, the mirror record of its original, the parts that follow. -/
def applyForward (n : Node) (p : Packet) : Node :=
  let ctx := p.ctx.toNat
  let ls := peerLines n p
  let prior := ls.flatMap fun l => ((lineData n l.1).drop (l.2.1 % 64)).take l.2.2
  let role := ((rangeOf n ctx p.pva.toNat).map fun r => r.mirrorRole && r.arrivingFrom == 0).getD false
  let n := ls.foldl (fun n l => applyForwardLine n p l) n
  let n := if role && origSrc p != p.src.toNat then mirrorRecord n p prior else n
  ls.foldl (fun n l => followRecord n p l) n

/-- The tracker of an applied forward: it is answered once its dense lines are on their drive. -/
def forwardTracker (n : Node) (p : Packet) : Node :=
  let lines := (peerLines n p).map fun l => (l.1, l.2.1 / 64 * 64)
  let q : Req :=
    { pkt := p, region := reqRegion n p lines, escalated := false, units := [], taken := [], landed := p.len.toNat, ovf := 0, nans := 0,
      result := [], status := some stOK, grant := 0, fwds := [], under := entriesUnder n p.ctx.toNat lines,
      lines := lines, lostState := false, late := false, recopy := [] }
  { openRecord n p with trk := { n.trk with reqs := Tbl.put n.trk.reqs n.trk.nextTid q, nextTid := n.trk.nextTid + 1 } }

/-- A forward that is no duplicate. -/
def newForward (n : Node) (p : Packet) : Node :=
  let ctx := p.ctx.toNat
  let opened := noteReq n p
  let lines := (peerLines n p).map fun l => (l.1, l.2.1 / 64 * 64)
  let taken := (granulesOf p.pva.toNat p.len.toNat).all fun g => ((rangeOf n ctx g).map fun r => takesForwards r p.src.toNat).getD false
  let follows := p.len == 64 && p.pva.toNat % 64 == 0 && n.sol.parts.any fun e => e.2.mirror && e.2.ctx == ctx && e.2.crec == p.pva.toNat
  if peerInvalid n p then refuseReq opened p stInvalid
  else if !taken && follows then
    -- a record that this module follows and does not hold (R426)
    let n := followRecord opened p (0, p.pva.toNat, 64)
    endAtOnce n p stOK
  else if !taken then
    refuseReq (logEvent opened { otherEvent 6 10 with ctx := ctx, node := p.src.toNat, data0 := p.pva.toNat }) p stDenied
  else match markBefore opened p with
    | some m => refuseRetry opened p 6 m.2
    | none =>
      if lines.any fun l => restoringAt n l.1 then refuseRetry opened p 8 0
      else if placeBusy n (reqRegion n p lines) lines p then refuseRetry opened p 4 0
      else
        match takeWindow opened p.src.toNat with
        | none => refuseRetry opened p 12 0
        | some win =>
          let f := prepForward (dropRepair n p) p
          if f.2 = .noKey then refuseReq (noteReq f.1 p) p stInternal
          else if f.2 = .waits then putBack f.1 p
          else
            let n := noteReq { f.1 with prs := win.prs } p
            forwardTracker (applyForward n p) p

/-- Resolves a packet with PEER against its pair's window (R373). -/
def takePeer (fresh : Node → Packet → Node) (again : Node → Packet → Node) (n : Node) (p : Packet) : Node :=
  match dupFate n p with
  | .drop => n
  | .stale => refuseReq n p stStaleSeq
  | .answer r => if isRead p && r.status == some stOK then again n p else answerEnded n p (r.status.getD stOK) r.landed r.ovf r.nans r.result
  | .fresh => if pairHeld n p.dst.toNat p.src.toNat then putBack n p else fresh n p

/-- PEER_FORWARD. -/
def peerForward (p : Packet) (n : Node) : Node := takeRow isForward (takePeer newForward newForward) p n

/-- PEER_FORWARD. -/
def execPeerForward (p : Packet) (s : State) : Host.Outcome State Fault Refusal := .next (onNode s (peerForward p))

/-! ### Repair reads (R475) -/

/-- A READ that carries PEER. -/
def isPeerRead (p : Packet) : Bool := p.opcode == 1 && isPeer p && !isCtrl p && !isZeroLength p

/-- A READ with PEER from the mirror of a line this module is primary of. -/
def fromMirror (n : Node) (p : Packet) : Bool :=
  ((rangeOf n p.ctx.toNat p.pva.toNat).map fun r => !r.mirrorRole && r.peer != 0 && r.peer == p.src.toNat).getD false

/-- A READ with PEER ends at once with a status, and data where it is OK. -/
def answerPeerRead (n : Node) (p : Packet) (status : Nat) (data : Bytes) : Node :=
  let n := closeRecord n p status 0 0 0 []
  if status = stOK then respond n p 3 status 0 0 data else respond n p 2 status 0 0 []

/-- Serves a repair read from the mirror's copy of a line, once its dedupe window is there. -/
def serveRepair (n : Node) (p : Packet) (r : Range) : Node :=
  let ctx := p.ctx.toNat
  let line := lineAt r p.pva.toNat
  match takeWindow (noteReq n p) p.src.toNat with
  | none => refuseRetry (noteReq n p) p 12 0
  | some opened =>
    if vselOf p = 1 && (imageOf n (chunkOf line)).isSome then
      match (imageOf n (chunkOf line)).bind fun c => if c.poison.contains (line % 1024) then none else imageLine n ctx r c line with
      | some bs => answerPeerRead opened p stOK bs
      | none => answerPeerRead opened p stPoisoned []
    else if discarded n line || isPoisoned n line then answerPeerRead opened p stPoisoned []
    else
      let f := fetchLine opened ctx r line false
      if f.2 = .noKey then answerPeerRead f.1 p stInternal []
      else if f.2 = .ready then answerPeerRead f.1 p stOK (lineData f.1 line)
      else if discarded f.1 line || isPoisoned f.1 line then answerPeerRead f.1 p stPoisoned []
      else putBack { f.1 with prs := n.prs } p

/-- A repair read that is no duplicate: served only for the sender whose mirror this module is. -/
def newRepair (n : Node) (p : Packet) : Node :=
  let ctx := p.ctx.toNat
  if peerInvalid n p then refuseReq (noteReq n p) p stInvalid
  else
    match (rangeOf n ctx p.pva.toNat).filter fun r => r.mirrorRole && r.peer == p.src.toNat && !r.departed with
    | none => refuseReq (noteReq n p) p stDenied
    | some r =>
      let line := lineAt r p.pva.toNat
      if placeBusy n (lineRegion line) [(line, p.pva.toNat)] p then refuseRetry (noteReq n p) p 4 0 else serveRepair n p r

/-- REPAIR_READ. -/
def repairRead (p : Packet) (n : Node) : Node :=
  takeRow (fun p => isPeerRead p && !fromMirror n p) (takePeer newRepair newRepair) p n

/-- REPAIR_READ. -/
def execRepairRead (p : Packet) (s : State) : Host.Outcome State Fault Refusal := .next (onNode s (repairRead p))

/-! ### Resync requests (R476) -/

/-- A mirror's READ of a line it cannot read, no duplicate: the line is marked mirror-dirty and resynced, and the READ is
answered when the mark clears. A full list is answered with RETRY (R396). -/
def newResync (n : Node) (p : Packet) : Node :=
  let ctx := p.ctx.toNat
  let n := noteReq n p
  if peerInvalid n p then refuseReq n p stInvalid
  else
    match rangeOf n ctx p.pva.toNat with
    | none => refuseReq n p stDenied
    | some r =>
      let line := lineAt r p.pva.toNat
      let inList := (dirOf n line).isNone
      if placeBusy n (lineRegion line) [(line, p.pva.toNat)] p then refuseRetry n p 4 0
      else if inList && mdirtyFull n && (Tbl.find? n.coh.mdirty line).isNone then refuseRetry n p 10 0
      else
        let m := (Tbl.find? n.coh.mdirty line).getD
          { evict := none, inList := inList, resync := true, fwds := [], ctx := ctx, pva := p.pva.toNat, askers := [], cmds := [] }
        let m := { m with resync := true, askers := m.askers ++ [p] }
        resyncLine { n with coh := { n.coh with mdirty := Tbl.put n.coh.mdirty line m } } line

/-- A copy of a mirror's READ: its original is answered when the mark clears. -/
def againResync (n : Node) (p : Packet) : Node :=
  if n.coh.mdirty.any fun m => m.2.askers.any fun a => a.seq == p.seq && a.src == p.src then n else newResync n p

/-- RESYNC_REQUEST. -/
def resyncRequest (p : Packet) (n : Node) : Node :=
  takeRow (fun p => isPeerRead p && fromMirror n p) (takePeer againResync againResync) p n

/-- RESYNC_REQUEST. -/
def execResyncRequest (p : Packet) (s : State) : Host.Outcome State Fault Refusal := .next (onNode s (resyncRequest p))

/-- MIRROR_RESYNC. -/
def mirrorResync (line : Nat) (n : Node) : Node := if accepting n then settle (resyncLine n line) else n

/-- MIRROR_RESYNC. -/
def execMirrorResync (line : Nat) (s : State) : Host.Outcome State Fault Refusal := .next (onNode s (mirrorResync line))

/-! ### Answers to repair reads (R474) -/

/-- A repaired line takes its place: the data reaches every tier that held the bad copy. -/
def lineRepaired (n : Node) (line : Nat) (bs : Bytes) : Node :=
  let n := { n with mem := { n.mem with bad := Tbl.del n.mem.bad line } }
  match spanOf n line with
  | some (ctx, r) =>
    let n := storeLine n r line 0 (sliceOf bs 0 64)
    let pva := pvaOf r line
    -- the target of a Leap takes the repaired line as a store (R500)
    ((forwardTargets n ctx r pva).filter (· != r.peer)).foldl (fun n dst =>
      sendPacket n (forwardPacket n dst ctx pva 3 (ownInfo n ctx) (sliceOf bs 0 64)) (.lineForward line)) n
  | none => n

/-- The answer to a repair read of a line of an image copy: data repairs it; a refusal by the mirror fails the part (R474). -/
def imageRepaired (n : Node) (line : Nat) (p : Packet) : Node :=
  let waits := n.mem.badImage.contains line
  let n := { n with mem := { n.mem with badImage := n.mem.badImage.filter (· != line) } }
  if !waits || (p.status.toNat = stOK && p.cls != 3) then n
  else
    match spanOf n line, imageOf n (chunkOf line) with
    | some (ctx, r), some c =>
      if p.status.toNat = stOK then updateImage n ctx r line fun _ => sliceOf (payloadOf p) 0 64
      else failPart n c.part stAborted
    | _, _ => n

/-- REPAIR_READ_ANSWER: data repairs the line; POISONED or another refusal poisons it; OK without data says that the primary
has resynced it. -/
def repairAnswer (p : Packet) (n : Node) : Node :=
  if !(p.opcode == 1) || !(p.cls == 2 || p.cls == 3) || !accepting n then n
  else
    let a := present n p
    if !a.2 then a.1
    else
      match (sentFor a.1 p).map fun u => u.purpose with
      | none => a.1
      | some (SentFor.repair line) =>
        let st := p.status.toNat
        if st = stRetry then settleSent a.1 p
        else if st = stOK && p.cls == 3 then
          let o := openSlice a.1 (blkOf line)
          if o.2 != .ready then putBack o.1 p
          else
            let n := settleSent o.1 p
            settle (if discarded n line then lineRepaired n line (payloadOf p) else n)
        else if st = stOK then settleSent a.1 p
        else
          let n := settleSent a.1 p
          settle (if discarded n line then poisonUnread n line else n)
      | some (SentFor.repairImage line) =>
        let n := settleSent a.1 p
        if p.status.toNat = stRetry then n else settle (imageRepaired n line p)
      | some _ => n

/-- REPAIR_READ_ANSWER. -/
def execRepairReadAnswer (p : Packet) (s : State) : Host.Outcome State Fault Refusal := .next (onNode s (repairAnswer p))

end Sys2Proof.Machine
end

