-- ==== Sys2Proof/Machine/MapKeep.lean ====
section
/-! DEFINITION. Map keepers: creating a map, proposals and the agreement among the three keepers, subscribers, and when a change
takes effect (R407–R412, R430). The manual gives the messages among keepers their codes and not their layouts: 0x96 offers
an image, 0x97 accepts it and 0x98 does not, 0x99 commits it, 0x9A passes a proposal to the lead, 0x9B asks it to change
the keepers. -/

namespace Sys2Proof.Machine

/-! ### Management packets -/

/-- MGT is served from step 8 of a start on (R566), and by a failed module too (R20). -/
def mgtServed (n : Node) : Bool := !n.power.off && n.power.refclk && (decide (2 ≤ n.power.state) || n.power.stepsDone.contains 7)

/-- Runs an MGT packet's command: only on a packet of its kind. -/
def takeMgt (kind : Nat → Bool) (f : Node → Packet → Node) (p : Packet) (n : Node) : Node :=
  if !mgtServed n || p.cls != 5 || !kind p.opcode.toNat then n
  else
    let a := present n p
    if a.2 then f a.1 p else a.1

/-- A node that may send what passes only between SX-96 modules. -/
def isModule (n : Node) (node : Nat) : Bool := isSx96 n node || n.alm.membKeepers.contains node

/-- A packet that only SX-96 modules send comes from another node: it is discarded and logged (R412). -/
def foreignMgt (n : Node) (p : Packet) : Node := logEvent n { otherEvent 6 12 with node := p.src.toNat, data0 := p.opcode.toNat }

/-- The words of a packet's payload. -/
def mgtWords (p : Packet) (count : Nat) : List Word := bytesToWords count (payloadOf p)

/-- A train of MGT packets: the body in pieces at their OFFSETs, then the first 64 bytes in the packet with LAST (R411). -/
def sendMgtTrain (n : Node) (base : Packet) (bs : Bytes) (why : SentFor) : Node :=
  let room := maxPayload n
  let body := bs.drop 64
  let n := (List.range (ceilDiv body.length room)).foldl (fun n k =>
    let p := withPayload { base with offset := BitVec.ofNat 32 (64 + k * room) } ((body.drop (k * room)).take room)
    sendPacket n { p with flags := p.flags &&& ~~~(0x20 : BitVec 16) } .protocol) n
  sendPacket n (withPayload { base with offset := 0 } (bs.take 64)) why

/-- A packet of a train arrives: with LAST, the train's bytes are whole. -/
def takeTrain (n : Node) (p : Packet) : Node × Option Bytes :=
  let src := p.src.toNat
  let bs := overlayAt (Tbl.getD n.ml.partial_ src []) p.offset.toNat (payloadOf p)
  if isLast p then ({ n with ml := { n.ml with partial_ := Tbl.del n.ml.partial_ src } }, some bs)
  else ({ n with ml := { n.ml with partial_ := Tbl.put n.ml.partial_ src bs } }, none)

/-- A request to which only its sender, SEQ and TAG matter for the answer. -/
def askOf (n : Node) (node seq tag : Nat) : Packet :=
  { blankPacket n.nodeId node 5 0x91 with seq := BitVec.ofNat 32 seq, tag := BitVec.ofNat 32 tag }

/-- MAP_RESULT (R409). -/
def mapResult (n : Node) (ask : Packet) (status gen : Nat) : Node :=
  sendPacket n { responseTo n ask 5 status with opcode := 0x92, mapgen := BitVec.ofNat 32 gen } .none

/-- A map image pushed to a node: the header line goes last. `ask`: the MAP_FETCH it answers. -/
def pushImage (n : Node) (dst buf : Nat) (ask : Option Packet) (m : MapImage) : Node :=
  let p := blankPacket dst n.nodeId 5 0x95
  let p := { p with pva := wordOf buf, mapgen := BitVec.ofNat 32 m.gen,
                    tag := (ask.map (·.tag)).getD 0, op5 := wordOf ((ask.map fun a => a.seq.toNat).getD 0) }
  sendMgtTrain n p (mapBytes m) .protocol

/-! ### The keepers of a map (R408, R409) -/

/-- A map kept here. -/
def keptOf (n : Node) (ctx : Nat) : Option KeptMap := Tbl.find? n.ml.kept ctx

/-- The node with a kept map replaced. -/
def setKept (n : Node) (ctx : Nat) (k : KeptMap) : Node := { n with ml := { n.ml with kept := Tbl.put n.ml.kept ctx k } }

/-- Keepers of a map that have not been declared lost. -/
def liveKeepers (n : Node) (k : KeptMap) : List Nat := k.image.keepers.filter fun x => x != 0 && !isLost n x

/-- The other live keepers. -/
def otherKeepers (n : Node) (k : KeptMap) : List Nat := (liveKeepers n k).filter (· != n.nodeId)

/-- This module leads a map's keepers. -/
def isLead (n : Node) (k : KeptMap) : Bool := !k.joining && leadKeeper n k.image.keepers == some n.nodeId

/-- The image is written at KEEP_PVA, once its lines can be stored to. -/
def storeKept (n : Node) (ctx : Nat) : Node :=
  match keptOf n ctx with
  | none => n
  | some k =>
    let bs := mapBytes k.image
    if !k.unstored || k.joining then n
    else
      let f := engineStorePrep n ctx k.keepPva bs.length .own
      if f.2 != .ready then f.1
      else setKept (engineCommit f.1 ctx k.keepPva .own .protocol (ownInfo f.1 ctx) bs).1 ctx { k with unstored := false }

/-- Every kept image that has changed is written. -/
def storeKepts (n : Node) : Node := (Tbl.keysOf n.ml.kept).foldl storeKept n

/-! ### MAP_CREATE -/

/-- A driver node of the Almanac. -/
def isDriver (n : Node) (node : Nat) : Bool := n.alm.driverNodes.contains node

/-- The failure domain of a node, as far as the module knows it. -/
def domainOf (n : Node) (node : Nat) : Option Nat :=
  if node = n.nodeId then some n.alm.failureDomain else (Tbl.find? n.ml.memb.known node).map Prod.fst

/-- Two nodes are known to share a failure domain. -/
def sameDomain (n : Node) (a b : Nat) : Bool :=
  match domainOf n a, domainOf n b with
  | some x, some y => x == y
  | _, _ => false

/-- Three nodes cannot be the keepers of a map: two are equal, one is no module, or two share a failure domain. -/
def keepersClash (n : Node) (ks : List Nat) : Bool :=
  let known := fun (x : Nat) => ((Tbl.find? n.ml.memb.known x).map fun k => !k.2).getD false
  ks.length != 3 || ks.any (fun x => x == 0 || isGroup x || known x) || ks.eraseDups.length != 3 ||
    ks.any fun a => ks.any fun b => a != b && sameDomain n a b

/-- MAP_CREATE (R408). -/
def createMap (n : Node) (p : Packet) : Node :=
  let ws := mgtWords p 3
  let ctx := fieldOf (wordAt ws 0) 15 0
  let join := bitOf (wordAt ws 0) 16
  let ks := [fieldOf (wordAt ws 0) 47 32, fieldOf (wordAt ws 0) 63 48, fieldOf (wordAt ws 1) 15 0]
  let keep := (wordAt ws 2).toNat
  let bad := (payloadOf p).length < 24 || ctx == 0 || fieldOf (wordAt ws 0) 31 17 != 0 || fieldOf (wordAt ws 1) 63 16 != 0 ||
    pvaBad (wordAt ws 2) || keep % 2 ^ 22 != 0 || keepersClash n ks || !ks.contains n.nodeId || (keptOf n ctx).isSome
  let held := ((rangeOf n ctx keep).map fun r =>
    !r.mirrorRole && !r.departed && r.r && r.w && decide (keep + 2 ^ 22 ≤ r.start + rangeBytes r)).getD false
  if bad then mapResult n p stInvalid 0
  else if !isDriver n p.src.toNat || !held then mapResult n p stDenied 0
  else if decide (64 ≤ n.ml.kept.length) then mapResult n p stNoResource 0
  else
    let image : MapImage := { ctx := ctx, gen := if join then 0 else 1, keepers := ks, entries := [] }
    let ask : MapProposal :=
      { sender := p.src.toNat, tag := p.tag.toNat, seq := p.seq.toNat, expect := 0, ops := [], gen := 0, acks := [],
        committed := false, via := p.src.toNat, keepers := [], refusedBy := [] }
    let k : KeptMap :=
      { image := image, keepPva := keep, subs := [], props := if join then [ask] else [], accepted := none, joining := join,
        unstored := true }
    let n := setKept n ctx k
    if join then sendPacket n (mgtPacket n (ks.getD 0 0) 0x94 [wordOf ctx, 0]) .protocol
    else mapResult (storeKept n ctx) p stOK 1

/-- MAP_CREATE. -/
def execMapCreate (p : Packet) (s : State) : Host.Outcome State Fault Refusal :=
  .next (onNode s (takeMgt (· == 0x90) createMap p))

/-! ### What a proposal makes (R409) -/

/-- An operation's words hold what they may not. -/
def opBad (ws : List Word) : Bool :=
  let e := mapEntryOf ws
  pvaBad (wordAt ws 0) || e.start % 2 ^ 21 != 0 || fieldOf (wordAt ws 1) 63 32 != 0 || e.chunks == 0 ||
  decide (2 ^ 57 < e.start + e.chunks * 2 ^ 21) || fieldOf (wordAt ws 2) 63 32 != 0 || e.egen != 0 || e.lost || decide (1 < e.op) ||
  fieldOf (wordAt ws 3) 63 35 != 0

/-- An entry put into a list sorted by START. -/
def putEntry : List MapEntry → MapEntry → List MapEntry
  | [], e => [e]
  | f :: rest, e => if e.start < f.start then e :: f :: rest else if e.start = f.start then e :: rest else f :: putEntry rest e

/-- Who proposes. -/
structure Proposer where
  node : Nat
  driver : Bool
  /-- The keepers themselves, after a loss (R401). -/
  keepers : Bool
  deriving DecidableEq, Repr

/-- A PUT over an entry changes its homes only as its sender may. -/
def homesOk (n : Node) (by_ : Proposer) (old new : MapEntry) : Bool :=
  by_.keepers || (old.primary == new.primary && old.mirror == new.mirror) ||
  (new.mirror == 0 && new.primary == old.primary) ||
  (by_.driver && new.primary == old.mirror && new.mirror == 0 && isLost n old.primary) ||
  by_.node == old.primary

/-- One operation applied to the entries of a map; none where the proposal is INVALID. -/
def applyOp (n : Node) (by_ : Proposer) (gen : Nat) (es : List MapEntry) (o : MapEntry) : Option (List MapEntry) :=
  match es.find? fun e => e.start == o.start with
  | none =>
    if o.op = 1 || (!by_.driver && !by_.keepers) || o.primary = 0 || o.mirror = o.primary then none
    else some (putEntry es { o with egen := gen, op := 0 })
  | some old =>
    if o.op = 1 then some (es.filter fun e => e.start != o.start)
    else if o.primary = 0 || o.mirror = o.primary || !homesOk n by_ old o then none
    else some (putEntry es { o with egen := gen, op := 0 })

/-- Entries sorted by START do not overlap. -/
def entriesClear : List MapEntry → Bool
  | e :: f :: rest => decide (e.start + e.chunks * 2 ^ 21 ≤ f.start) && entriesClear (f :: rest)
  | _ => true

/-- The image a proposal makes; none where it is INVALID. It is applied whole or not at all. -/
def imageAfter (n : Node) (by_ : Proposer) (m : MapImage) (ops : List MapEntry) (keepers : List Nat) : Option MapImage :=
  let gen := stepGen m.gen
  match ops.foldl (fun (es : Option (List MapEntry)) o => es.bind fun es => applyOp n by_ gen es o) (some m.entries) with
  | none => none
  | some es =>
    if !entriesClear es || decide (65536 < es.length) then none
    else some { m with gen := gen, entries := es, keepers := if keepers.isEmpty then m.keepers else keepers }

/-- Who made a proposal. -/
def proposerOf (n : Node) (p : MapProposal) : Proposer := { node := p.sender, driver := isDriver n p.sender, keepers := p.sender == 0 }

/-- Why a proposal is refused, in the order of R409's table. -/
def proposalFault (n : Node) (k : KeptMap) (p : MapProposal) : Option Nat :=
  let by_ := proposerOf n p
  firstStatus
    [(!by_.keepers && !by_.driver && !isModule n p.sender, stDenied),
     (p.expect != 0 && p.expect != k.image.gen, stAborted), (decide ((liveKeepers n k).length < 2), stAborted),
     ((imageAfter n by_ k.image p.ops p.keepers).isNone, stInvalid)]

/-- A proposal's answer goes to the node it came from; the keepers' own has none. -/
def answerProposal (n : Node) (p : MapProposal) (status gen : Nat) : Node :=
  if p.via = 0 then n else mapResult n (askOf n p.via p.seq p.tag) status gen

/-- An image is offered to the other live keepers. -/
def offerImage (n : Node) (k : KeptMap) (m : MapImage) : Node :=
  (otherKeepers n k).foldl (fun n x => sendMgtTrain n (blankPacket x n.nodeId 5 0x96) (mapBytes m) .protocol) n

/-- The lead takes its proposals in turn: each that is refused is answered, and the first that stands is offered. -/
def leadGo (ctx : Nat) : Nat → Node → Node
  | 0, n => n
  | fuel + 1, n =>
    match keptOf n ctx with
    | none => n
    | some k =>
      if !isLead n k || k.accepted.isSome then n
      else
        match k.props with
        | [] => n
        | p :: rest =>
          if p.gen != 0 then n
          else
            match proposalFault n k p, imageAfter n (proposerOf n p) k.image p.ops p.keepers with
            | none, some m => offerImage (setKept n ctx { k with accepted := some m, props := { p with gen := m.gen } :: rest }) k m
            | st, _ => leadGo ctx fuel (answerProposal (setKept n ctx { k with props := rest }) p (st.getD stInvalid) k.image.gen)

/-- The lead of a map goes on with its proposals. -/
def leadOn (n : Node) (ctx : Nat) : Node := leadGo ctx (((keptOf n ctx).map fun k => k.props.length).getD 0) n

/-! ### Committing (R409, R410, R430) -/

/-- Nodes that some entries name as homes. -/
def homesIn (es : List MapEntry) : List Nat := ((es.flatMap fun e => [e.primary, e.mirror]).filter (· != 0)).eraseDups

/-- Entries of one list that another does not hold as they are. -/
def changedEntries (a b : List MapEntry) : List MapEntry := a.filter fun e => !b.contains e

/-- After a commit, the primary of an extent it leaves unmirrored is ordered to mirror it again, unless a driver proposed the
change (R430). -/
def orderMirrors (n : Node) (ctx : Nat) (es : List MapEntry) : Node :=
  (es.filter fun e => e.mirror == 0 && e.primary != 0 && !e.lost && !isLost n e.primary).foldl (fun n e =>
    sendPacket n (mgtPacket n e.primary 0xB0
      [wordOf e.start, wordOf e.chunks, wordOf (2 ^ 16), 0, 0, wordOf ctx]) .protocol) n

/-- The lead commits the image it has offered, tells the other keepers, and pushes it to every module named as a home, to
every subscriber, and to keepers that are new. -/
def commitMap (n : Node) (ctx : Nat) : Node :=
  match keptOf n ctx with
  | none => n
  | some k =>
    match k.accepted with
    | none => n
    | some m =>
      let changed := changedEntries m.entries k.image.entries
      let touched := homesIn (changed ++ changedEntries k.image.entries m.entries)
      let head := k.props.head?.filter fun p => p.gen == m.gen
      let props := match head with
        | some p => { p with committed := true, acks := touched.filter fun x => isModule n x && !isLost n x } :: k.props.drop 1
        | none => k.props
      let n := setKept n ctx { k with image := m, accepted := none, unstored := true, props := props }
      let n := storeKept n ctx
      let n := (otherKeepers n k).foldl (fun n x => sendPacket n (mgtPacket n x 0x99 [wordOf ctx, wordOf m.gen]) .protocol) n
      let joined := m.keepers.filter fun x => !k.image.keepers.contains x
      let homes := ((homesIn k.image.entries ++ homesIn m.entries ++ joined).eraseDups).filter fun x =>
        isModule n x && !isLost n x && !k.subs.any fun s => s.node == x
      let n := homes.foldl (fun n x => pushImage n x 0 none m) n
      let n := k.subs.foldl (fun n s => pushImage n s.node s.buf none m) n
      if (head.map fun p => isDriver n p.sender).getD false then n else orderMirrors n ctx changed

/-- A committed change takes effect: its proposer is answered with OK, and the next proposal's turn comes (R410). -/
def changeEffect (ctx : Nat) (n : Node) : Node :=
  match keptOf n ctx with
  | none => n
  | some k =>
    match k.props with
    | p :: rest =>
      if !mgtServed n || !p.committed || !p.acks.isEmpty then n
      else leadOn (answerProposal (setKept n ctx { k with props := rest }) p stOK k.image.gen) ctx
    | [] => n

/-- MAP_CHANGE_EFFECT. -/
def execMapChangeEffect (ctx : BitVec 16) (s : State) : Host.Outcome State Fault Refusal :=
  .next (onNode s (changeEffect ctx.toNat))

/-- Another keeper does not accept, or is lost: without one that might, the proposal is answered with ABORTED. -/
def offerFails (n : Node) (ctx : Nat) : Node :=
  match keptOf n ctx with
  | none => n
  | some k =>
    match k.props with
    | p :: rest =>
      let may := (otherKeepers n k).filter fun x => !p.refusedBy.contains x
      if !isLead n k || p.gen = 0 || p.committed || !may.isEmpty then n
      else leadOn (answerProposal (setKept n ctx { k with accepted := none, props := rest }) p stAborted k.image.gen) ctx
    | [] => n

/-! ### Proposals (R409) -/

/-- A proposal joins those of its map, at the lead. -/
def enqueueProposal (n : Node) (ctx : Nat) (p : MapProposal) : Node :=
  match keptOf n ctx with
  | none => answerProposal n p stInvalid 0
  | some k => leadOn (setKept n ctx { k with props := k.props ++ [p] }) ctx

/-- The keepers' own proposal after the loss of a node: extents whose primary it was pass to their mirrors, those it mirrored
lose their mirror, and those that no live home is left for are LOST (R401). -/
def lossOps (n : Node) (m : MapImage) (lost : Nat) : List MapEntry :=
  (m.entries.filter fun e => !e.lost && (e.primary == lost || e.mirror == lost)).map fun e =>
    if e.primary = lost then
      if e.mirror = 0 || isLost n e.mirror then { e with lost := true, egen := 0 } else { e with primary := e.mirror, mirror := 0, egen := 0 }
    else { e with mirror := 0, egen := 0 }

/-- A proposal of the keepers themselves. -/
def keepersProposal (ops : List MapEntry) (keepers : List Nat) : MapProposal :=
  { sender := 0, tag := 0, seq := 0, expect := 0, ops := ops, gen := 0, acks := [], committed := false, via := 0,
    keepers := keepers, refusedBy := [] }

/-- Reads the operations of MAP_PROPOSE: inline, or from a span on this module. None while their lines are on their way. -/
def readOps (n : Node) (ctx nops pva : Nat) (p : Packet) : Node × Option (List (List Word)) :=
  let split := fun (bs : Bytes) => (List.range nops).map fun i => bytesToWords 4 (bs.drop (32 * i))
  if pva = 0 then (n, some (split ((payloadOf p).drop 32)))
  else
    let f := engineReadPrep n ctx pva (32 * nops)
    if f.2 = .waits then (f.1, none) else (f.1, some (split (spanBytes f.1 ctx pva (32 * nops))))

/-- Passes a proposal to the lead keeper, with its sender, SEQ and TAG (R409). -/
def passProposal (n : Node) (lead : Nat) (ctx expect : Nat) (p : Packet) (ops : List (List Word)) : Node :=
  let h := [wordOf (p.src.toNat + p.tag.toNat * 2 ^ 32), wordOf p.seq.toNat, wordOf (ctx + ops.length * 2 ^ 16), wordOf expect, 0, 0, 0, 0]
  sendMgtTrain n (blankPacket lead n.nodeId 5 0x9A) (wordsToBytes (h ++ ops.flatten)) .protocol

/-- MAP_PROPOSE (R409). -/
def proposeMap (n : Node) (p : Packet) : Node :=
  let ws := mgtWords p 4
  let ctx := fieldOf (wordAt ws 0) 15 0
  let nops := fieldOf (wordAt ws 0) 28 16
  let expect := fieldOf (wordAt ws 1) 31 0
  let pva := (wordAt ws 2).toNat
  let bad := (payloadOf p).length < 32 || ctx == 0 || fieldOf (wordAt ws 0) 63 29 != 0 || nops == 0 || decide (4096 < nops) ||
    fieldOf (wordAt ws 1) 63 32 != 0 || pvaBad (wordAt ws 2) || wordAt ws 3 != 0 || pva % 64 != 0 ||
    (pva == 0 && (decide (127 < nops) || decide ((payloadOf p).length < 32 + 32 * nops)))
  match keptOf n ctx with
  | none => mapResult n p stInvalid 0
  | some k =>
    let gen := k.image.gen
    if !isDriver n p.src.toNat && !isModule n p.src.toNat then mapResult n p stDenied gen
    else if bad then mapResult n p stInvalid gen
    else if pva != 0 && !spanReadable n ctx pva (32 * nops) then mapResult n p stDenied gen
    else
      let r := readOps n ctx nops pva p
      match r.2 with
      | none => putBack r.1 p
      | some ops =>
        if ops.any opBad then mapResult r.1 p stInvalid gen
        else if isLead n k then
          enqueueProposal r.1 ctx
            { sender := p.src.toNat, tag := p.tag.toNat, seq := p.seq.toNat, expect := expect, ops := ops.map mapEntryOf, gen := 0,
              acks := [], committed := false, via := p.src.toNat, keepers := [], refusedBy := [] }
        else match leadKeeper n k.image.keepers with
          | some l => passProposal r.1 l ctx expect p ops
          | none => mapResult r.1 p stAborted gen

/-- MAP_PROPOSE. -/
def execMapPropose (p : Packet) (s : State) : Host.Outcome State Fault Refusal :=
  .next (onNode s (takeMgt (· == 0x91) proposeMap p))

/-! ### Agreement (R409) -/

/-- An offered image: accepted when it follows the committed generation and no other of that generation has been accepted. -/
def offered (n : Node) (p : Packet) (bs : Bytes) : Node :=
  match mapOfBytes bs with
  | none => n
  | some m =>
    match keptOf n m.ctx with
    | none => n
    | some k =>
      let ok := !k.joining && m.gen == stepGen k.image.gen && k.image.keepers.contains p.src.toNat &&
        (k.accepted.isNone || k.accepted == some m)
      let n := if ok then setKept n m.ctx { k with accepted := some m } else n
      sendPacket n (mgtPacket n p.src.toNat (if ok then 0x97 else 0x98) [wordOf m.ctx, wordOf m.gen]) .protocol

/-- Another keeper accepts the image that the lead offered: it commits. -/
def acceptedBy (n : Node) (p : Packet) : Node :=
  let ws := mgtWords p 2
  let ctx := fieldOf (wordAt ws 0) 15 0
  match keptOf n ctx with
  | none => n
  | some k =>
    if isLead n k && k.image.keepers.contains p.src.toNat && (k.accepted.map (·.gen)) == some (wordAt ws 1).toNat then commitMap n ctx else n

/-- Another keeper does not accept. -/
def notAcceptedBy (n : Node) (p : Packet) : Node :=
  let ws := mgtWords p 2
  let ctx := fieldOf (wordAt ws 0) 15 0
  match keptOf n ctx with
  | none => n
  | some k =>
    match k.props with
    | q :: rest =>
      if q.gen == (wordAt ws 1).toNat && q.gen != 0 then
        offerFails (setKept n ctx { k with props := { q with refusedBy := q.refusedBy ++ [p.src.toNat] } :: rest }) ctx
      else n
    | [] => n

/-- The lead has committed: this keeper's copy follows; without the image it fetches it. -/
def committedBy (n : Node) (p : Packet) : Node :=
  let ws := mgtWords p 2
  let ctx := fieldOf (wordAt ws 0) 15 0
  match keptOf n ctx with
  | none => n
  | some k =>
    match k.accepted with
    | some m =>
      if m.gen = (wordAt ws 1).toNat then storeKept (setKept n ctx { k with image := m, accepted := none, unstored := true }) ctx
      else sendPacket n (mgtPacket n p.src.toNat 0x94 [wordOf ctx, 0]) .protocol
    | none =>
      if k.image.gen = (wordAt ws 1).toNat then n else sendPacket n (mgtPacket n p.src.toNat 0x94 [wordOf ctx, 0]) .protocol

/-- A proposal that another keeper has passed on. -/
def passedOn (n : Node) (p : Packet) (bs : Bytes) : Node :=
  let h := bytesToWords 8 bs
  let ctx := fieldOf (wordAt h 2) 15 0
  let nops := fieldOf (wordAt h 2) 28 16
  let ops := (List.range nops).map fun i => mapEntryOf (bytesToWords 4 (bs.drop (64 + 32 * i)))
  let sender := fieldOf (wordAt h 0) 15 0
  enqueueProposal n ctx
    { sender := sender, tag := p.tag.toNat, seq := p.seq.toNat, expect := fieldOf (wordAt h 3) 31 0, ops := ops, gen := 0, acks := [],
      committed := false, via := p.src.toNat, keepers := [], refusedBy := [] }

/-- A replacement keeper that holds the image asks for the new triple. -/
def keepersAsked (n : Node) (p : Packet) : Node :=
  let ws := mgtWords p 2
  let ctx := fieldOf (wordAt ws 0) 15 0
  let ks := [fieldOf (wordAt ws 1) 15 0, fieldOf (wordAt ws 1) 31 16, fieldOf (wordAt ws 1) 47 32]
  if keepersClash n ks || (keptOf n ctx).isNone then n else enqueueProposal n ctx (keepersProposal [] ks)

/-- MAP_AGREEMENT (R409, R412). -/
def agreeMap (n : Node) (p : Packet) : Node :=
  let o := p.opcode.toNat
  if !isModule n p.src.toNat then foreignMgt n p
  else if o = 0x96 || o = 0x9A then
    let t := takeTrain n p
    match t.2 with
    | none => t.1
    | some bs => if o = 0x96 then offered t.1 p bs else passedOn t.1 p bs
  else if o = 0x97 then acceptedBy n p
  else if o = 0x98 then notAcceptedBy n p
  else if o = 0x99 then committedBy n p
  else if o = 0x9B then keepersAsked n p
  else n

/-- MAP_AGREEMENT. -/
def execMapAgreement (p : Packet) (s : State) : Host.Outcome State Fault Refusal :=
  .next (onNode s (takeMgt (fun o => decide (0x96 ≤ o ∧ o ≤ 0x9F)) agreeMap p))

/-! ### Subscribers (R411) -/

/-- MAP_SUBSCRIBE. -/
def subscribe (n : Node) (p : Packet) : Node :=
  let ws := mgtWords p 2
  let ctx := fieldOf (wordAt ws 0) 15 0
  let buf := (wordAt ws 1).toNat
  let bad := (payloadOf p).length < 16 || ctx == 0 || fieldOf (wordAt ws 0) 63 17 != 0 || fieldOf (wordAt ws 1) 63 48 != 0 || buf % 64 != 0
  match keptOf n ctx with
  | none => mapResult n p stInvalid 0
  | some k =>
    let others := k.subs.filter fun s => s.node != p.src.toNat
    if bad || k.joining then mapResult n p stInvalid k.image.gen
    else if bitOf (wordAt ws 0) 16 then mapResult (setKept n ctx { k with subs := others }) p stOK k.image.gen
    else if decide (1024 ≤ others.length) then mapResult n p stNoResource k.image.gen
    else mapResult (setKept n ctx { k with subs := others ++ [{ node := p.src.toNat, buf := buf }] }) p stOK k.image.gen

/-- MAP_SUBSCRIBE. -/
def execMapSubscribe (p : Packet) (s : State) : Host.Outcome State Fault Refusal :=
  .next (onNode s (takeMgt (· == 0x93) subscribe p))

/-- MAP_FETCH: one push to the fetcher. -/
def fetchFrom (n : Node) (p : Packet) : Node :=
  let ws := mgtWords p 2
  let ctx := fieldOf (wordAt ws 0) 15 0
  let bad := (payloadOf p).length < 16 || ctx == 0 || fieldOf (wordAt ws 0) 63 16 != 0 || fieldOf (wordAt ws 1) 63 48 != 0 ||
    (wordAt ws 1).toNat % 64 != 0
  match keptOf n ctx with
  | none => mapResult n p stInvalid 0
  | some k => if bad || k.joining then mapResult n p stInvalid k.image.gen else pushImage n p.src.toNat (wordAt ws 1).toNat (some p) k.image

/-- MAP_FETCH. -/
def execMapFetch (p : Packet) (s : State) : Host.Outcome State Fault Refusal :=
  .next (onNode s (takeMgt (· == 0x94) fetchFrom p))

/-! ### ADOPT_QUERY (R421) -/

/-- The record of an ADOPT_ANSWER for one SEQ of a requester to the lost node. -/
def adoptRecord (n : Node) (src lost seq : Nat) : Bytes :=
  let word := fun (st landed : Nat) => wordOf (seq + st * 2 ^ 32 + landed * 2 ^ 40)
  match Tbl.find? n.prs.mirrorWins (pairKey src lost) with
  | none => wordsToBytes [word stRetry 0, 0, 0, 0]
  | some w =>
    match Tbl.find? w.recs seq with
    | some r => wordsToBytes [word (r.status.getD stRetry) r.landed, wordOf (countsWord r.ovf r.nans)] ++ sliceOf r.result 0 16
    | none =>
      let below := serialLe 32 seq w.last && decide (255 < serialDist 32 seq w.last)
      wordsToBytes [word (if below then stStaleSeq else stRetry) 0, 0, 0, 0]

/-- A queried record's request is still running: the answer waits (R421). -/
def adoptRunning (n : Node) (src lost seq : Nat) : Bool :=
  match (Tbl.find? n.prs.mirrorWins (pairKey src lost)).bind fun w => Tbl.find? w.recs seq with
  | some r => r.status.isNone
  | none => false

/-- ADOPT_QUERY. -/
def adopt (n : Node) (p : Packet) : Node :=
  let w0 := wordAt (mgtWords p 1) 0
  let lost := fieldOf w0 15 0
  let count := fieldOf w0 31 16
  let seqs := (List.range count).map fun i => leNat (((payloadOf p).drop (8 + 4 * i)).take 4)
  if fieldOf w0 63 32 != 0 || count == 0 || decide (120 < count) || decide ((payloadOf p).length < 8 + 4 * count) then
    logEvent n { otherEvent 6 13 with node := p.src.toNat }
  else if seqs.any fun s => adoptRunning n p.src.toNat lost s then putBack n p
  else
    let bs := seqs.flatMap fun s => adoptRecord n p.src.toNat lost s
    sendPacket n { withPayload (responseTo n p 5 stOK) bs with opcode := 0xB2 } .none

/-- ADOPT_QUERY. -/
def execAdoptQuery (p : Packet) (s : State) : Host.Outcome State Fault Refusal :=
  .next (onNode s (takeMgt (· == 0xB1) adopt p))

end Sys2Proof.Machine
end

