-- ==== Sys2Proof/Machine/LeapOps.lean ====
section
/-! DEFINITION. How a Leap goes on at its source: what it moves, its chunks, its closing, its proposal and its end, and the local
Leaps of a reclaim (R422–R431). The manual gives the Leap exchange its codes and not its layouts: 0xB5 LEAP_OPEN, 0xB6
READY, 0xB7 LEAP_PEER, 0xB8 the release of what a Leap holds.

The steps of a running Leap: 1 LEAP_OPEN is out, 3 chunks are copied, 4 LEAP_PEER is out, 5 the extent is closed and drains,
7 the proposal is out, 8 the proposal must be made again. -/

namespace Sys2Proof.Machine

/-! ### What a Leap moves -/

/-- One past the extent's last byte. -/
def leapEnd (l : LeapOut) : Nat := l.start + l.chunks * 2 ^ 21

/-- A PVA of a context lies in the extent. -/
def inLeap (l : LeapOut) (ctx pva : Nat) : Bool := l.ctx == ctx && decide (l.start ≤ pva ∧ pva < leapEnd l)

/-- The Leap stays on this module. -/
def isLocalLeap (n : Node) (l : LeapOut) : Bool := isOwn n l.target

/-- A reclaim's extent that is handed over to its mirror (R431). -/
def isHandover (n : Node) (l : LeapOut) : Bool := l.reclaim.isSome && !isLocalLeap n l

/-- The ranges that a Leap moves: the context's ROLE 0 ranges in the extent; those a reclaim frees are LENT. -/
def leapRanges (n : Node) (l : LeapOut) : List Range :=
  (rangesOf n l.ctx).filter fun r => !r.mirrorRole && !r.departed && decide (r.start < leapEnd l ∧ l.start < r.start + rangeBytes r) &&
    (l.reclaim.isNone || r.resClass == 4)

/-- The mirror of the extent; 0 where it has none. -/
def leapMirror (n : Node) (l : LeapOut) : Nat := (((leapRanges n l).map (·.peer)).find? (· != 0)).getD 0

/-- Revocations that meet the extent. -/
def leapRevs (n : Node) (l : LeapOut) : List Revocation :=
  n.ctxs.revs.filter fun v => v.ctx == l.ctx && decide (v.start < leapEnd l ∧ l.start < v.start + v.gran * 65536)

/-- The module's own parts with chunks in the extent, failed and restored ones left out. -/
def leapParts (n : Node) (l : LeapOut) : Tbl Part :=
  n.sol.parts.filter fun e => !e.2.mirror && e.2.ctx == l.ctx && (e.2.state == 1 || e.2.state == 2 || e.2.state == 3) &&
    e.2.chunks.any fun c => inLeap l l.ctx c.2.1

/-- The words that tell a target of a part. -/
def partWords (p : Part) : List Word :=
  [wordOf (p.cohort + p.epoch * 2 ^ 16 + p.state * 2 ^ 32), wordOf p.crec, wordOf p.spans.length] ++
  p.spans.flatMap fun s => [wordOf s.start, wordOf s.gran, wordOf s.drain]

/-- A Leap under way. -/
def leapOf (n : Node) (k : Nat) : Option LeapOut := Tbl.find? n.ml.outs k

/-- The node with a Leap replaced. -/
def setLeap (n : Node) (k : Nat) (l : LeapOut) : Node := { n with ml := { n.ml with outs := Tbl.put n.ml.outs k l } }

/-- LEAP_OPEN: the extent, its range entries, its revocations and its parts (R424 step 1). Without range entries it only tells
the target how the parts stand. -/
def sendLeapOpen (n : Node) (l : LeapOut) (withRanges : Bool) (why : SentFor) : Node :=
  let rs := if withRanges then leapRanges n l else []
  let vs := if withRanges then leapRevs n l else []
  let ps := (leapParts n l).map Prod.snd
  let word6 := (l.tclass.getD 0) + bit01 l.tclass.isSome * 8 + bit01 (l.tcomp.getD false) * 16 + bit01 l.tcomp.isSome * 32
  let h := [wordOf (l.ctx + bit01 l.asMirror * 2 ^ 16), wordOf l.start, wordOf l.chunks, wordOf (rs.length + vs.length * 2 ^ 32),
            wordOf ps.length, wordOf word6, wordOf (leapMirror n l), 0]
  let body := rs.flatMap rangeWords ++ (vs.flatMap fun v => [wordOf v.start, wordOf v.gran]) ++ ps.flatMap partWords
  sendMgtTrain n (blankPacket l.target n.nodeId 5 0xB5) (wordsToBytes (h ++ body)) why

/-- Tells a node to release what it holds for a Leap: its ARRIVING ranges, or a mirror's second sender of forwards. -/
def sendRelease (n : Node) (node : Nat) (l : LeapOut) (done : Bool) : Node :=
  if isLost n node then n
  else sendPacket n (mgtPacket n node 0xB8 [wordOf (l.ctx + bit01 done * 2 ^ 16), wordOf l.start, wordOf l.chunks]) .protocol

/-! ### Spans for arriving ranges (R424 step 2) -/

/-- Puts a number in its place in a rising list. -/
def putUp (x : Nat) : List Nat → List Nat
  | [] => [x]
  | h :: rest => if h ≤ x then h :: putUp x rest else x :: h :: rest

/-- The numbers of a list, rising. -/
def sortUp (l : List Nat) : List Nat := l.foldr putUp []

/-- Free local spans that might hold a range, lowest first: from the start of each window, and from the end of each span in
use. -/
def spanStarts (n : Node) : List Nat :=
  let ends := (spansInUse n).map fun e => localEnd e.2
  let bases := 0 :: (List.range 16).map fun d => denseBase + d * driveSlot
  (sortUp (bases ++ ends)).eraseDups

/-- The lowest free local span of a range's class, clear of some others too. -/
def allocSpan (n : Node) (others : List Range) (r : Range) : Option Range :=
  let dense := r.resClass == 1 || r.resClass == 2
  let fits := fun (o : Nat) =>
    let x := { r with localOff := o }
    windowOk n x && !driveShort n x && (!dense || decide (denseBase ≤ o)) &&
      !((spansInUse n).any fun e => localsMeet x e.2) && !others.any fun y => localsMeet x y
  ((sortUp (spanStarts n ++ others.map localEnd)).find? fits).map fun o => { r with localOff := o }

/-- Spans for some ranges, in order; none where one finds no span. -/
def allocSpans (n : Node) (rs : List Range) : Option (List Range) :=
  rs.foldl (fun (a : Option (List Range)) r => a.bind fun got => (allocSpan n got r).map fun x => got ++ [x]) (some [])

/-- A range as its new home holds it: in the class and compression asked for. A LENT range needs a class. -/
def leapedRange (tclass : Option Nat) (tcomp : Option Bool) (r : Range) : Range :=
  { r with resClass := tclass.getD r.resClass, comp := tcomp.getD r.comp, lenderNode := 0, lenderAddr := 0, storeLost := false }

/-- Room for some ranges in a class: spans, and pins for those to be TILE_PINNED. -/
def leapSpans (n : Node) (rs : List Range) (tclass : Option Nat) (tcomp : Option Bool) : Option (List Range) :=
  let new := rs.map (leapedRange tclass tcomp)
  if new.any fun r => r.resClass == 4 || pinShort n r then none else allocSpans n new

/-! ### Copying chunks (R424 step 3, R426) -/

/-- The next chunk to copy: the lowest not COPIED. -/
def nextChunk (l : LeapOut) : Option Nat := (List.range l.chunks).find? fun c => !l.copied.contains c

/-- The 4 KiB pieces of a chunk in the Leap's ranges: range and PVA. -/
def chunkPieces (n : Node) (l : LeapOut) (c : Nat) : List (Range × Nat) :=
  let lo := l.start + c * 2 ^ 21
  (leapRanges n l).flatMap fun r =>
    let a := max lo r.start
    let b := min (lo + 2 ^ 21) (r.start + rangeBytes r)
    (List.range ((b - a) / 4096)).map fun i => (r, a + i * 4096)

/-- With ROLE_T 0 the copy of a chunk waits while its part is OPEN, or SEALED with the chunk still to be drained (R426). -/
def copyWaits (n : Node) (l : LeapOut) (pieces : List (Range × Nat)) : Bool :=
  !l.asMirror && !isLocalLeap n l && pieces.any fun q =>
    match partOf n (chunkOf (lineAt q.1 q.2)) with
    | none => false
    | some (_, p) =>
      let c := chunkOf (lineAt q.1 q.2)
      p.state == 1 || (p.state == 2 && (drainChunks p).contains c && !p.drained.contains c)

/-- Makes all lines of a chunk readable at once; nothing is recalled. -/
def prepPieces (n : Node) (l : LeapOut) (pieces : List (Range × Nat)) : Node × Fetch :=
  pieces.foldl (fun (a : Node × Fetch) q =>
    let first := lineAt q.1 q.2
    (List.range 64).foldl (fun (a : Node × Fetch) i =>
      if isPoisoned a.1 (first + i) then a
      else
        let f := fetchLine a.1 l.ctx q.1 (first + i) false
        (f.1, worseFetch a.2 f.2)) a) (n, .ready)

/-- The bytes of a piece in one of its versions. -/
def pieceBytes (n : Node) (l : LeapOut) (q : Range × Nat) (image : Bool) : Bytes :=
  let first := lineAt q.1 q.2
  (List.range 64).flatMap fun i =>
    if image then
      match imageOf n (chunkOf first) with
      | some c => (imageLine n l.ctx q.1 c (first + i)).getD (List.replicate 64 0)
      | none => List.replicate 64 0
    else lineData n (first + i)

/-- Sends one piece of a chunk in one version, then its poisoned lines again as poison (R210). -/
def sendPiece (n : Node) (k : Nat) (l : LeapOut) (c : Nat) (q : Range × Nat) (vsel : Nat) (bad : List Nat) : Node :=
  let room := maxPayload n
  let bs := pieceBytes n l q (vsel == 1)
  let why := SentFor.leapChunk k c
  let send := fun (n : Node) (pva : Nat) (poison : Bool) (bs : Bytes) =>
    sendPacket n (forwardPacket n l.target l.ctx pva vsel { ownInfo n l.ctx with poison := poison } bs) why
  let n := (List.range (4096 / room)).foldl (fun n i => send n (q.2 + i * room) false ((bs.drop (i * room)).take room)) n
  bad.foldl (fun n i => send n (q.2 + i * 64) true (List.replicate 64 0)) n

/-- Sends a chunk to the target: a SPLIT chunk in both versions. -/
def sendChunk (n : Node) (k : Nat) (l : LeapOut) (c : Nat) (pieces : List (Range × Nat)) : Node :=
  pieces.foldl (fun n q =>
    let first := lineAt q.1 q.2
    let bad := (List.range 64).filter fun i => isPoisoned n (first + i)
    match imageOf n (chunkOf first) with
    | none => sendPiece n k l c q 0 bad
    | some im =>
      let n := sendPiece n k l c q 3 bad
      sendPiece n k l c q 1 ((List.range 64).filter fun i => im.poison.contains ((first + i) % 1024))) n

/-- Copies a chunk to the new local spans, where their blocks have a place in their slices. -/
def copyLocally (n : Node) (l : LeapOut) (pieces : List (Range × Nat)) : Node × Bool :=
  let dsts := pieces.filterMap fun q => (l.locals_.find? fun r => covers r q.2).map fun r => (q, r)
  let o := dsts.foldl (fun (a : Node × Fetch) d =>
    let f := openSlice a.1 (blkOf (lineAt d.2 d.1.2))
    (f.1, worseFetch a.2 f.2)) (n, .ready)
  if o.2 != .ready then (o.1, false)
  else
    (dsts.foldl (fun n d =>
      let src := lineAt d.1.1 d.1.2
      let dst := lineAt d.2 d.1.2
      (List.range 64).foldl (fun n i =>
        let n := (openSlice n (blkOf dst)).1
        storeLine n d.2 (dst + i) 0 (lineData n (src + i))) n) o.1, true)

/-! ### Ending (R424 step 9, R427, R428) -/

/-- The RECLAIM_DONE of a reclaim (R431). -/
def reclaimDone (n : Node) (r : Reclaim) : Node :=
  let ask := { blankPacket n.nodeId r.lender 5 0xB3 with seq := BitVec.ofNat 32 r.seq, tag := BitVec.ofNat 32 r.tag }
  let p := withPayload (responseTo n ask 5 stOK) (wordsToBytes [wordOf r.addr, wordOf r.gran])
  sendPacket n { p with opcode := 0xB4 } .none

/-- The lender's storage of a LENT range meets a reclaimed span. -/
def reclaimMeets (q : Reclaim) (r : Range) : Bool :=
  r.resClass == 4 && !r.departed && !r.mirrorRole && r.lenderNode == q.lender &&
    decide (r.lenderAddr < q.addr + q.gran * 65536 ∧ q.addr < r.lenderAddr + rangeBytes r)

/-- The ranges a reclaim still has to handle, with their contexts. -/
def reclaimLeft (n : Node) (q : Reclaim) : List (Nat × Range) :=
  n.ctxs.slots.flatMap fun s => (s.2.ranges.filter fun e => reclaimMeets q e.2).map fun e => (s.1, e.2)

/-- A Leap of a context meets a range. -/
def leapMeets (n : Node) (ctx start bytes : Nat) : Bool :=
  n.ml.outs.any fun l => l.2.ctx == ctx && decide (l.2.start < start + bytes ∧ start < leapEnd l.2)

/-- A Leap not yet under way. -/
def newLeap (ctx start chunks target : Nat) : LeapOut :=
  { ctx := ctx, start := start, chunks := chunks, target := target, asMirror := false, tclass := none, tcomp := none, step := 1,
    copied := [], again := 0, copying := none, sentChunk := false, proposals := 0, tid := 0, order := none, refusals := 0,
    abort := none, switched := 0, locals_ := [], reclaim := none }

/-- A Leap begins. -/
def addLeap (n : Node) (l : LeapOut) : Node :=
  { n with ml := { n.ml with outs := Tbl.put n.ml.outs n.ml.nextLeap l, nextLeap := n.ml.nextLeap + 1 } }

/-- A range of a reclaim begins its local Leap, or where there is no span for it, its extent closes to be handed over to its
mirror (R431). -/
def reclaimStart (n : Node) (q : Reclaim) (ctx : Nat) (r : Range) : Node :=
  let start := r.start / 2 ^ 21 * 2 ^ 21
  let chunks := ceilDiv (r.start + rangeBytes r - start) (2 ^ 21)
  let l := { newLeap ctx start chunks n.nodeId with
             tclass := some (if cfgNum n 0x0209 = 1 then 1 else 0), reclaim := some (q.lender, q.seq, q.tag), step := 3 }
  match leapSpans n (leapRanges n l) l.tclass none with
  | some rs => addLeap n { l with locals_ := rs }
  | none =>
    match (entryFor (((slotOf n ctx).map (·.kept)).getD []) r.start), decide (r.peer = 0) with
    | some e, false => addLeap n { l with start := e.start, chunks := e.chunks, target := r.peer, tclass := none, step := 5 }
    | _, _ => n

/-- Reclaims go on: each range not yet handled and in no Leap begins; one with no range left is done. -/
def reclaimsGo (n : Node) : Node :=
  n.ml.reclaims.foldl (fun n q =>
    if (reclaimLeft n q).isEmpty then
      reclaimDone { n with ml := { n.ml with reclaims := n.ml.reclaims.erase q } } q
    else
      (reclaimLeft n q).foldl (fun n e => if leapMeets n e.1 e.2.start (rangeBytes e.2) then n else reclaimStart n q e.1 e.2) n) n

/-- What a Leap's target no longer follows: the records of parts, unless it has become the record's own mirror. -/
def dropFollower (n : Node) (l : LeapOut) (keep : Bool) : Node :=
  if !l.asMirror then n
  else
    let parts := Tbl.mapVals n.sol.parts fun p =>
      let own := ((rangeOf n p.ctx p.crec).map fun r => r.peer == l.target).getD false
      if p.ctx == l.ctx && (!keep || own) then { p with followers := p.followers.filter (· != l.target) } else p
    { n with sol := { n.sol with parts := parts } }

/-- Forwards of a Leap to its target count as answered (R428). -/
def dropLeapForwards (n : Node) (l : LeapOut) : Node :=
  dropForwards n l.target fun u =>
    inLeap l u.pkt.ctx.toNat u.pkt.pva.toNat ||
      (l.asMirror && u.pkt.ctx.toNat == l.ctx && (match u.purpose with
        | .partRecord k => ((Tbl.find? n.sol.parts k).map fun p => p.followers.contains l.target).getD false
        | _ => false))

/-- A Leap ends with a status: its command, the order it answers and a LEAP_ABORT that waited end with it, and what it holds at
other nodes is released. -/
def endLeap (n : Node) (k status : Nat) : Node :=
  match leapOf n k with
  | none => n
  | some l =>
    let ok := status == stOK
    let far := !isLocalLeap n l && !isHandover n l
    let m := leapMirror n l
    let n := { n with ml := { n.ml with outs := Tbl.del n.ml.outs k } }
    let n := if far then sendRelease n l.target l ok else n
    let n := if far && !l.asMirror && decide (4 ≤ l.step) && m != 0 then sendRelease n m l ok else n
    let n := if far then dropFollower (if ok then n else dropLeapForwards n l) l ok else n
    let n := if ok then n else l.locals_.foldl discardSpan n
    let n := match l.order with
      | some (node, seq, tag) => mapResult n (askOf n node seq tag) status (curGen n l.ctx)
      | none => n
    let n := match l.abort with
      | some t => refuseCmd n t (if ok then stInvalid else stOK)
      | none => n
    let n := if l.tid = 0 then n
      else if ok then endCmd n l.tid stOK (wordOf l.copied.length) (wordOf (l.switched + l.again * 2 ^ 32))
      else refuseCmd n l.tid status
    settle (reclaimsGo n)

/-! ### Closing and switching (R424 steps 5 to 8) -/

/-- The proposal of step 7, with EXPECT_GEN the module's CUR_GEN: the target takes the role asked for; an extent reclaimed goes to
its mirror. Without a live keeper it is made again later. -/
def proposeLeap (n : Node) (k : Nat) (l : LeapOut) : Node :=
  let m := leapMirror n l
  let homes := if isHandover n l then (l.target, 0) else if l.asMirror then (n.nodeId, l.target) else (l.target, m)
  let e : MapEntry := { start := l.start, chunks := l.chunks, primary := homes.1, mirror := homes.2, egen := 0, lost := false, op := 0 }
  let gen := curGen n l.ctx
  match leadKeeper n (((slotOf n l.ctx).map (·.keepers)).getD []) with
  | none => setLeap n k { l with step := 8 }
  | some lead =>
    sendPacket (setLeap n k { l with step := 7, switched := gen })
      (mgtPacket n lead 0x91 ([wordOf (l.ctx + 2 ^ 16), wordOf gen, 0, 0] ++ mapEntryWords e)) (.leap k)

/-- Steps 5 and 6 are over: nothing admitted in the extent runs, nothing of it is held, lent or being recalled, and every forward
of it is answered. -/
def leapQuiet (n : Node) (l : LeapOut) : Bool :=
  let hit := fun (line : Nat) => (leapRanges n l).any fun r => inSpan r line
  !(n.trk.reqs.any fun q => q.2.lines.any fun x => inLeap l q.2.pkt.ctx.toNat x.2) && !(n.prog.runs.any fun r => r.2.ctx == l.ctx) &&
    !(n.trk.cmds.any fun e => e.2.phase == .running && cmdCtx e.2 == l.ctx && isIndexOp (cmdOp e.2)) &&
    !(Tbl.keysOf n.coh.dir ++ Tbl.keysOf n.coh.recalls ++ Tbl.keysOf n.coh.snoops ++ Tbl.keysOf n.coh.mdirty).any hit &&
    !n.prs.pairs.any fun q => q.2.sent.any fun u => u.pkt.cls == 0 && isPeer u.pkt && inLeap l u.pkt.ctx.toNat u.pkt.pva.toNat

/-- What holders and operand buffers have of the extent is withdrawn (R424 step 6). -/
def leapWithdraw (n : Node) (k : Nat) (l : LeapOut) : Node :=
  let hit := fun (line : Nat) => (leapRanges n l).any fun r => inSpan r line
  let n := ((Tbl.keysOf n.coh.dir).filter hit).foldl (fun n x => withdraw n x none (.leap k)) n
  let lent := (n.coh.lent.flatMap fun t => t.2) ++
    n.coh.opbuf.flatMap fun t => (t.2.filter fun c => !c.nc).map fun c => ({ ctx := c.ctx, line := c.line } : LentEntry)
  let n := (lent.filter fun e => hit e.line).foldl (fun n e => startSnoop n e.ctx e.line) n
  (List.range 64).foldl (fun n t => dropNc n t l.ctx) n

/-- The image copy of a chunk moves to its new place, sealed anew under its new address. -/
def moveImage (n : Node) (ctx : Nat) (old new : Range) (chunk : Nat) : Node :=
  let to_ := chunkOf (lineAt new (pvaOf old (chunk * 1024)))
  let n := { n with sol := { n.sol with parts := Tbl.mapVals n.sol.parts fun p =>
      let f := fun (c : Nat) => if c = chunk then to_ else c
      if p.ctx != ctx then p
      else { p with chunks := p.chunks.map fun c => (f c.1, c.2.1, c.2.2), drained := p.drained.map f, draining := p.draining.map f } } }
  match Tbl.find? n.mem.cow chunk with
  | none => n
  | some c =>
    let forms := (List.range 16).map fun i =>
      sealBlock (keysFor n ctx new) new.comp (to_ * 16 + i)
        ((openBlock (keysFor n ctx old) old.comp (chunk * 16 + i) (c.states.getD i 0) (memRead 0 c.bytes (i * 4096) 4096)).getD
          (List.replicate 4096 0))
    let bytes := (forms.zipIdx).foldl (fun m f => memWrite 0 m (f.2 * 4096) (sliceOf f.1.2 0 4096)) []
    { n with mem := { n.mem with
        cow := Tbl.put (Tbl.del n.mem.cow chunk) to_ { c with states := forms.map Prod.fst, bytes := bytes } } }

/-- A range takes its new local span under a new GEN, and its old one is freed, unless another range shares it (R424). -/
def switchRange (n : Node) (ctx : Nat) (old new : Range) : Node :=
  let n := (List.range old.gran).foldl (fun n i => moveImage n ctx old new (old.localOff / 65536 + i)) n
  let moved := (n.coh.poison.filter (inSpan old)).map fun x => lineAt new (pvaOf old x)
  let n := putRange n ctx { new with r := old.r, w := old.w, a := old.a, peer := old.peer, dlPolicy := old.dlPolicy, dlAux := old.dlAux,
                                     shadowFmt := old.shadowFmt, poisonOnLoss := old.poisonOnLoss }
  let n := match slotOf n ctx with
    | some s => dropXlate n s.slotNo old.start (rangeBytes old)
    | none => n
  let n := { n with coh := { n.coh with poison := n.coh.poison.filter (fun x => !inSpan new x) ++ moved } }
  if (spansInUse n).any fun e => localsMeet e.2 old then n else releaseSpan (discardSpan n old) old 0

/-- A local Leap switches: its ranges take their new spans, and no map changes (R424). -/
def switchLocal (n : Node) (k : Nat) (l : LeapOut) : Node :=
  let rs := leapRanges n l
  let n := setLeap n k { l with locals_ := [], switched := curGen n l.ctx }
  let n := rs.foldl (fun n old => match l.locals_.find? fun r => r.start == old.start with
    | some new => switchRange n l.ctx old new
    | none => n) n
  endLeap n k stOK

/-- A Leap whose extent is closed goes on once it is drained: a local Leap switches, another tells the target how its parts stand
and proposes. -/
def leapDrain (n : Node) (k : Nat) : Node :=
  match leapOf n k with
  | none => n
  | some l =>
    if l.step != 5 then n
    else
      let n := settle (leapWithdraw n k l)
      if !leapQuiet n l then n
      else if isLocalLeap n l then switchLocal n k l
      else if isHandover n l then proposeLeap n k l
      else proposeLeap (if (n.sol.parts.any fun p => p.2.ctx == l.ctx) then sendLeapOpen n l false .protocol else n) k l

/-- Every chunk is COPIED: LEAP_PEER, the closing of the extent, or the proposal is next. -/
def leapCopied (n : Node) (k : Nat) (l : LeapOut) : Node :=
  let m := leapMirror n l
  let l := { l with copying := none, sentChunk := false }
  if l.asMirror then proposeLeap n k l
  else if isLocalLeap n l || m = 0 then setLeap n k { l with step := 5 }
  else
    sendPacket (setLeap n k { l with step := 4 })
      (mgtPacket n m 0xB7 [wordOf (l.ctx + l.target * 2 ^ 16), wordOf l.start, wordOf l.chunks]) (.leap k)

/-- One chunk of a Leap, as far as it can go now: sent, or copied in place. The flag says that it is COPIED. -/
def leapChunkGo (n : Node) (k : Nat) (l : LeapOut) (c : Nat) : Node × Bool :=
  if l.sentChunk then (n, !awaits n (.leapChunk k c))
  else
    let n := setLeap n k { l with copying := some c }
    let pieces := chunkPieces n l c
    if copyWaits n l pieces then (n, false)
    else
      let f := prepPieces n l pieces
      if f.2 = .noKey then (endLeap f.1 k stInternal, false)
      else if f.2 = .waits then (f.1, false)
      else if isLocalLeap n l then copyLocally f.1 l pieces
      else (sendChunk (setLeap f.1 k { l with copying := some c, sentChunk := true }) k l c pieces, false)

/-- A Leap goes on with its chunks, one at a time, ascending. -/
def leapChunks (k : Nat) : Nat → Node → Node
  | 0, n => n
  | fuel + 1, n =>
    match leapOf n k with
    | none => n
    | some l =>
      if l.step != 3 then n
      else
        match (match l.copying with
               | some c => some c
               | none => nextChunk l) with
        | none => leapCopied n k l
        | some c =>
          let a := leapChunkGo n k l c
          if !a.2 then a.1
          else
            match leapOf a.1 k with
            | none => a.1
            | some l =>
              leapChunks k fuel (setLeap a.1 k { l with copied := l.copied ++ [c], copying := none, sentChunk := false })

/-- A Leap that copies goes on. -/
def leapGo (n : Node) (k : Nat) : Node := leapChunks k (((leapOf n k).map (·.chunks)).getD 0 + 1) n

/-! ### Starting (R423, R430) -/

/-- The extent of a Leap in the map entries this module keeps, as its primary. -/
def leapEntry (n : Node) (ctx start chunks : Nat) : Option MapEntry :=
  (((slotOf n ctx).map (·.kept)).getD []).find? fun e => e.start == start && e.chunks == chunks && e.primary == n.nodeId && !e.lost

/-- The words of LEAP_START, from its word 3 on, break R422; `order`: of a LEAP_ORDER, where TARGET may be 0. -/
def leapReserved (ws : List Word) (order : Bool) : Bool :=
  pvaBad (wordAt ws 0) || fieldOf (wordAt ws 1) 63 32 != 0 || fieldOf (wordAt ws 2) 63 17 != 0 || fieldOf (wordAt ws 3) 63 6 != 0 ||
  decide (3 < fieldOf (wordAt ws 3) 2 0) || wordAt ws 4 != 0 || isGroup (fieldOf (wordAt ws 2) 15 0) ||
  (!order && fieldOf (wordAt ws 2) 15 0 == 0)

/-- The Leap that the words of LEAP_START ask for. -/
def leapAsked (ctx : Nat) (ws : List Word) : LeapOut :=
  let w := wordAt ws 3
  { newLeap ctx (wordAt ws 0).toNat (fieldOf (wordAt ws 1) 31 0) (fieldOf (wordAt ws 2) 15 0) with
    asMirror := bitOf (wordAt ws 2) 16
    tclass := if bitOf w 3 then some (fieldOf w 2 0) else none
    tcomp := if bitOf w 5 then some (bitOf w 4) else none }

/-- The INVALID cases of R423. -/
def leapInvalid (n : Node) (l : LeapOut) : Bool :=
  match leapEntry n l.ctx l.start l.chunks with
  | none => true
  | some e =>
    (rangesOf n l.ctx).any (fun r => decide (r.start < leapEnd l ∧ l.start < r.start + rangeBytes r) &&
      !decide (l.start ≤ r.start ∧ r.start + rangeBytes r ≤ leapEnd l)) ||
    leapMeets n l.ctx l.start (l.chunks * 2 ^ 21) ||
    (if isLocalLeap n l then l.asMirror || (l.tclass.isNone && l.tcomp.isNone)
     else if l.asMirror then l.target == e.mirror || sameDomain n l.target n.nodeId
     else e.mirror != 0 && (l.target == e.mirror || sameDomain n l.target e.mirror))

/-- The modules that are offered to become the mirror, in ascending node order from above this one, wrapping (R430). -/
def orderTargets (n : Node) : List Nat :=
  let all := sortUp ((n.ml.memb.known.filter fun e => e.2.2 && !isOwn n e.1 && !isLost n e.1).map Prod.fst)
  (all.filter fun x => decide (n.nodeId < x)) ++ all.filter fun x => decide (x < n.nodeId)

/-- The next offer of an ordered Leap that seeks a target; after 64 refusals, or with nobody to ask, the order is answered with
NO_RESOURCE and logged (R430). -/
def offerNext (n : Node) (k : Nat) (l : LeapOut) : Node :=
  let ts := orderTargets n
  match ts[l.refusals % max 1 ts.length]? with
  | none => endLeap (logEvent n { otherEvent 6 14 with ctx := l.ctx }) k stNoResource
  | some t =>
    if 64 ≤ l.refusals then endLeap (logEvent n { otherEvent 6 14 with ctx := l.ctx }) k stNoResource
    else
      let l := { l with target := t, step := 1 }
      sendLeapOpen (setLeap n k l) l true (.leap k)

/-- A Leap that passed its checks begins: a local one copies at once, another opens at its target. -/
def beginLeap (n : Node) (l : LeapOut) (seek : Bool) : Node :=
  let k := n.ml.nextLeap
  if seek then offerNext (addLeap n l) k l
  else if isLocalLeap n l then
    match leapSpans n (leapRanges n l) l.tclass l.tcomp with
    | none => endLeap (addLeap n l) k stNoResource
    | some rs => settle (leapGo (addLeap n { l with locals_ := rs, step := 3 }) k)
  else if isLost n l.target then endLeap (addLeap n l) k stAborted
  else sendLeapOpen (addLeap n l) l true (.leap k)

end Sys2Proof.Machine
end

