-- ==== Sys2Proof/Machine/Leap.lean ====
section
/-! DEFINITION. The commands and messages of a Leap, at its source, its target and the mirror, and RECLAIM (R422–R431). -/

namespace Sys2Proof.Machine

/-! ### LEAP_START and LEAP_ABORT (R423, R427) -/

/-- The context's map is not known yet, and a keeper is (R417, R624). -/
def mapAbsent (n : Node) (ctx : Nat) : Bool :=
  ctxActive n ctx && curGen n ctx == 0 && (leadKeeper n (((slotOf n ctx).map (·.keepers)).getD [])).isSome

/-- LEAP_START. -/
def leapStart (tid : Nat) (n : Node) : Node :=
  startCmd n tid 0x28 fun c =>
    let ws := c.desc.drop 3
    let l := { leapAsked (cmdCtx c) ws with tid := tid }
    let bad := cmdCtx c == 0 || leapReserved ws false
    if !bad && mapAbsent n (cmdCtx c) then fetchMap n (cmdCtx c)
    else
      checked n tid c (bad || leapInvalid n l) [(decide (16 ≤ n.ml.outs.length), stNoResource)] fun _ =>
        beginLeap (runStage n tid 1 []) l false

/-- LEAP_START. -/
def execLeapStart (tid : Nat) (s : State) : Host.Outcome State Fault Refusal := .next (onNode s (leapStart tid))

/-- The Leap that a LEAP_ABORT names. -/
def leapNamed (n : Node) (c : Cmd) : Option (Nat × LeapOut) :=
  n.ml.outs.find? fun e => e.2.ctx == cmdCtx c && e.2.start == (dword c 3).toNat && e.2.chunks == (dword c 4).toNat

/-- LEAP_ABORT: before the proposal, or while it must be made again, the Leap stops; while a proposal is unanswered, the abort waits
for the answer. -/
def leapAbort (tid : Nat) (n : Node) : Node :=
  startCmd n tid 0x29 fun c =>
    let bad := pvaBad (dword c 3) || dword c 5 != 0 || dword c 6 != 0 || dword c 7 != 0
    match leapNamed n c with
    | none => checked n tid c true [] fun _ => n
    | some (k, l) =>
      checked n tid c (bad || l.abort.isSome) [] fun _ =>
        let n := setLeap (runStage n tid 1 []) k { l with abort := some tid }
        if l.step = 7 then n else endLeap n k stAborted

/-- LEAP_ABORT. -/
def execLeapAbort (tid : Nat) (s : State) : Host.Outcome State Fault Refusal := .next (onNode s (leapAbort tid))

/-! ### LEAP_ORDER (R430) -/

/-- LEAP_ORDER: as LEAP_START, for a map keeper, which the end of the Leap answers. -/
def takeOrder (n : Node) (p : Packet) : Node :=
  let ws := mgtWords p 6
  let ctx := fieldOf (wordAt ws 5) 15 0
  let seek := fieldOf (wordAt ws 2) 15 0 == 0
  let l := { leapAsked ctx (ws.take 5) with order := some (p.src.toNat, p.seq.toNat, p.tag.toNat) }
  let bad := (payloadOf p).length < 48 || ctx == 0 || fieldOf (wordAt ws 5) 63 16 != 0 || leapReserved (ws.take 5) true || (seek && !l.asMirror)
  if !isModule n p.src.toNat then foreignMgt n p
  else if !bad && mapAbsent n ctx then putBack (fetchMap n ctx) p
  else if !ctxActive n ctx then mapResult n p stDenied 0
  else if bad || leapInvalid n l then mapResult n p stInvalid (curGen n ctx)
  else if 16 ≤ n.ml.outs.length then mapResult n p stNoResource (curGen n ctx)
  else beginLeap n l seek

/-- LEAP_ORDER. -/
def execLeapOrder (p : Packet) (s : State) : Host.Outcome State Fault Refusal := .next (onNode s (takeMgt (· == 0xB0) takeOrder p))

/-! ### LEAP_OPEN at the target (R423, R424 step 2, R426, R435) -/

/-- What a LEAP_OPEN says. -/
structure OpenAsk where
  ctx : Nat
  asMirror : Bool
  start : Nat
  chunks : Nat
  ranges : List Range
  revs : List Revocation
  parts : List Part
  tclass : Option Nat
  tcomp : Option Bool
  mirror : Nat
  deriving DecidableEq, Repr

/-- Reads the parts of a LEAP_OPEN. -/
def partsIn (ctx : Nat) (asMirror : Bool) : Nat → List Word → List Part
  | 0, _ => []
  | k + 1, ws =>
    let w := wordAt ws 0
    let spans := (wordAt ws 2).toNat
    let st := fieldOf w 39 32
    let p : Part :=
      { ctx := ctx, cohort := fieldOf w 15 0, epoch := fieldOf w 31 16, mirror := asMirror, carried := !asMirror,
        spans := (List.range spans).map fun i =>
          { start := (wordAt ws (3 + 3 * i)).toNat, gran := (wordAt ws (4 + 3 * i)).toNat, drain := (wordAt ws (5 + 3 * i)).toNat }
        srcs := [], crec := (wordAt ws 1).toNat, state := if asMirror then min st 2 else max st 2, status := stOK, chunks := [],
        drained := [], draining := [], drainStopped := true, rgen := 0, recordStale := false, recordDue := false, recFwds := [],
        followers := [], opener := none, restoring := none }
    p :: partsIn ctx asMirror k (ws.drop (3 + 3 * spans))

/-- Reads a LEAP_OPEN. -/
def openAsk (bs : Bytes) : OpenAsk :=
  let ws := bytesToWords (bs.length / 8) bs
  let nr := fieldOf (wordAt ws 3) 31 0
  let nv := fieldOf (wordAt ws 3) 63 32
  let ctx := fieldOf (wordAt ws 0) 15 0
  let role := bitOf (wordAt ws 0) 16
  let w6 := wordAt ws 5
  let vs := ws.drop (8 + 6 * nr)
  { ctx := ctx, asMirror := role, start := (wordAt ws 1).toNat, chunks := (wordAt ws 2).toNat
    ranges := (List.range nr).map fun i => rangeOfWords (ws.drop (8 + 6 * i)) 0
    revs := (List.range nv).map fun i => { ctx := ctx, start := (wordAt vs (2 * i)).toNat, gran := (wordAt vs (2 * i + 1)).toNat }
    parts := partsIn ctx role (wordAt ws 4).toNat (vs.drop (2 * nv))
    tclass := if bitOf w6 3 then some (fieldOf w6 2 0) else none
    tcomp := if bitOf w6 5 then some (bitOf w6 4) else none
    mirror := fieldOf (wordAt ws 6) 15 0 }

/-- READY, or the refusal of a Leap message. -/
def leapReply (n : Node) (p : Packet) (status : Nat) : Node :=
  sendPacket n { responseTo n p 5 status with opcode := 0xB6 } .none

/-- Revocations passed by a Leap's source are entered, those that are there already left out. -/
def addRevs (n : Node) (vs : List Revocation) : Node :=
  { n with ctxs := { n.ctxs with revs := n.ctxs.revs ++ vs.filter fun v => !n.ctxs.revs.contains v } }

/-- Makes the parts of a Leap over its arriving ranges: a carried part's chunks come drained (R426). -/
def addLeapParts (n : Node) (ctx : Nat) (rs : List Range) (ps : List Part) : Node :=
  ps.foldl (fun n p =>
    let chunks := (p.spans.zipIdx).flatMap fun s => chunksOfSpan rs p.mirror ((rs.head?.map (·.peer)).getD 0) s.1 s.2
    let p := { p with ctx := ctx, chunks := chunks }
    let p := { p with drained := if p.mirror then [] else drainChunks p }
    if chunks.isEmpty then n
    else { n with sol := { parts := Tbl.put n.sol.parts n.sol.nextPart p, nextPart := n.sol.nextPart + 1 } }) n

/-- Pins the blocks of arriving TILE_PINNED ranges. -/
def pinArriving (n : Node) (ctx : Nat) (rs : List Range) : Node :=
  rs.foldl (fun n r => if r.resClass = 3 then (rangeBlocks r).foldl (fun n b => (pinBlock n ctx r b).1) n else n) n

/-- The extent of a Leap in PVAs meets a range. -/
def openMeets (o : OpenAsk) (r : Range) : Bool :=
  decide (r.start < o.start + o.chunks * 2 ^ 21 ∧ o.start < r.start + rangeBytes r)

/-- Carried parts of an extent. -/
def carriedParts (n : Node) (o : OpenAsk) : List (Nat × Part) :=
  n.sol.parts.filter fun e => e.2.carried && e.2.ctx == o.ctx && e.2.chunks.any fun c =>
    decide (o.start ≤ c.2.1 ∧ c.2.1 < o.start + o.chunks * 2 ^ 21)

/-- The source tells how its parts stand before the switch: carried parts whose part is gone are freed, the others follow its
state. -/
def updateCarried (n : Node) (o : OpenAsk) : Node :=
  let mine := carriedParts n o
  let gone := mine.filter fun e => !o.parts.any fun p => p.cohort == e.2.cohort
  let n := freeParts n (gone.map Prod.fst)
  mine.foldl (fun n e =>
    match Tbl.find? n.sol.parts e.1, o.parts.find? fun p => p.cohort == e.2.cohort with
    | some x, some p => setPart n e.1 { x with state := p.state }
    | _, _ => n) n

/-- The ranges a Leap would bring, as this module would hold them. -/
def arrivingRanges (o : OpenAsk) (src : Nat) : List Range :=
  o.ranges.map fun r => { r with mirrorRole := o.asMirror, peer := if o.asMirror then src else o.mirror, arrivingFrom := src, peer2 := 0 }

/-- Why the target refuses an extent, if it does (R423). -/
def openRefusal (n : Node) (src : Nat) (o : OpenAsk) : Option Nat :=
  let rs := arrivingRanges o src
  let noKey := rs.any fun r => r.shared && (((Tbl.find? n.ctxs.shares r.shareSlot).map (·.keys)).getD []).isEmpty
  let bad := (o.asMirror && sameDomain n src n.nodeId) || noKey || (rangesOf n o.ctx).any (openMeets o)
  let full := decide (16 ≤ n.ml.ins.length) || decide (1024 < (addRevs n o.revs).ctxs.revs.length) ||
    decide (256 < n.sol.parts.length + o.parts.length) || decide (2 ^ 20 < (rangesOf n o.ctx).length + rs.length) ||
    decide (cfgNum n 0x0207 * 8192 < (n.ctxs.slots.map fun s => s.2.ranges.length).foldl (· + ·) 0 + rs.length)
  firstStatus [(bad, stInvalid), (!ctxActive n o.ctx, stDenied), (full, stNoResource)]

/-- The target takes an extent up: its ranges arrive, with the source's revocations and parts (R424 step 2). -/
def acceptOpen (n : Node) (src : Nat) (o : OpenAsk) (rs : List Range) : Node :=
  let n := rs.foldl (fun n r => putRange n o.ctx r) (addRevs n o.revs)
  let n := addLeapParts n o.ctx rs o.parts
  let i : LeapIn := { ctx := o.ctx, start := o.start, chunks := o.chunks, source := src }
  pinArriving { n with ml := { n.ml with ins := n.ml.ins ++ [i] } } o.ctx rs

/-- LEAP_OPEN at the target, all of it arrived. -/
def takeOpen (n : Node) (p : Packet) (o : OpenAsk) : Node :=
  let src := p.src.toNat
  if o.chunks = 0 then
    (if 1024 < (addRevs n o.revs).ctxs.revs.length then leapReply n p stNoResource else leapReply (addRevs n o.revs) p stOK)
  else if o.ranges.isEmpty && (n.ml.ins.any fun i => i.ctx == o.ctx && i.start == o.start && i.source == src) then
    leapReply (updateCarried n o) p stOK
  else
    match openRefusal n src o, leapSpans n (arrivingRanges o src) o.tclass o.tcomp with
    | some st, _ => leapReply n p st
    | none, none => leapReply n p stNoResource
    | none, some rs => leapReply (acceptOpen n src o rs) p stOK

/-- LEAP_OPEN: a train, between modules only. -/
def leapOpenTrain (n : Node) (p : Packet) : Node :=
  if !isModule n p.src.toNat then foreignMgt n p
  else
    let t := takeTrain n p
    match t.2 with
    | none => t.1
    | some bs => takeOpen t.1 p (openAsk bs)

/-- LEAP_OPEN. -/
def execLeapOpen (p : Packet) (s : State) : Host.Outcome State Fault Refusal := .next (onNode s (takeMgt (· == 0xB5) leapOpenTrain p))

/-! ### READY at the source (R424 steps 3 to 5, R430) -/

/-- The target has answered LEAP_OPEN, or the mirror LEAP_PEER. -/
def leapAnswered (n : Node) (k status : Nat) : Node :=
  match leapOf n k with
  | none => n
  | some l =>
    if l.step = 1 then
      if status = stOK then
        -- a mirror to be follows the records of the parts it takes chunks of (R426)
        let follow := if l.asMirror then Tbl.keysOf (leapParts n l) else []
        let n := follow.foldl (fun n i => match Tbl.find? n.sol.parts i with
          | some p =>
            let own := ((rangeOf n p.ctx p.crec).map fun r => r.peer == l.target).getD false
            if own then n else setPart n i { p with followers := p.followers ++ [l.target] }
          | none => n) n
        settle (leapGo (setLeap n k { l with step := 3 }) k)
      else if l.order.isSome && l.tid = 0 && l.reclaim.isNone then offerNext n k { l with refusals := l.refusals + 1 }
      else endLeap n k status
    else if l.step = 4 then (if status = stOK then settle (setLeap n k { l with step := 5 }) else endLeap n k stAborted)
    else n

/-- READY, or the refusal of a Leap message; between modules only. -/
def takeReady (n : Node) (p : Packet) : Node :=
  if !isModule n p.src.toNat then foreignMgt n p
  else
    match (sentFor n p).map fun u => u.purpose with
    | some (SentFor.leap k) => leapAnswered (settleSent n p) k p.status.toNat
    | some (SentFor.engine _ _) => settleSent n p
    | some SentFor.protocol => settleSent n p
    | _ => n

/-- LEAP_READY. -/
def execLeapReady (p : Packet) (s : State) : Host.Outcome State Fault Refusal := .next (onNode s (takeMgt (· == 0xB6) takeReady p))

/-! ### LEAP_PEER at the mirror, and releases (R424 steps 4 and 9, R427) -/

/-- A mirror's ranges of an extent, by their primary. -/
def mirrorHeld (n : Node) (ctx start chunks src : Nat) : List Range :=
  (rangesOf n ctx).filter fun r => r.mirrorRole && !r.departed && r.peer == src && r.arrivingFrom == 0 &&
    decide (start ≤ r.start ∧ r.start < start + chunks * 2 ^ 21)

/-- A mirror's ranges change the second node whose forwards they take. -/
def setPeer2 (n : Node) (ctx : Nat) (rs : List Range) (node : Nat) : Node :=
  rs.foldl (fun n r => match slotOf n ctx with
    | some s => setSlot n ctx { s with ranges := Tbl.put s.ranges r.start { r with peer2 := node } }
    | none => n) n

/-- The ARRIVING ranges of a Leap that did not switch are freed, with their parts (R427, R428). -/
def freeArriving (n : Node) (i : LeapIn) : Node :=
  let rs := (rangesOf n i.ctx).filter fun r => r.arrivingFrom == i.source &&
    decide (i.start ≤ r.start ∧ r.start < i.start + i.chunks * 2 ^ 21)
  let own := fun (c : Nat × Nat × Nat) => rs.any fun r => inSpan r (c.1 * 1024)
  let n := freeParts n ((n.sol.parts.filter fun e => (e.2.carried || e.2.mirror) && e.2.chunks.any own).map Prod.fst)
  let n := match slotOf n i.ctx with
    | none => n
    | some s => setSlot n i.ctx { s with ranges := s.ranges.filter fun e => !rs.contains e.2 }
  let n := rs.foldl (fun n r => releaseSpan (discardSpan n r) r 0) n
  { n with ml := { n.ml with ins := n.ml.ins.erase i } }

/-- The release of what a Leap holds here. -/
def takeRelease (n : Node) (p : Packet) (ctx start chunks : Nat) (done : Bool) : Node :=
  let src := p.src.toNat
  let n := setPeer2 n ctx ((rangesOf n ctx).filter fun r => r.peer2 != 0 && (done || r.peer == src) &&
    decide (start ≤ r.start ∧ r.start < start + chunks * 2 ^ 21)) 0
  match n.ml.ins.find? fun i => i.ctx == ctx && i.start == start && i.source == src with
  | none => n
  | some i => if done then { n with ml := { n.ml with ins := n.ml.ins.erase i } } else freeArriving n i

/-- LEAP_PEER, or a release; between modules only. -/
def takeLeapPeer (n : Node) (p : Packet) : Node :=
  let ws := mgtWords p 3
  let ctx := fieldOf (wordAt ws 0) 15 0
  let start := (wordAt ws 1).toNat
  let chunks := (wordAt ws 2).toNat
  if !isModule n p.src.toNat then foreignMgt n p
  else if p.opcode == 0xB8 then takeRelease n p ctx start chunks (bitOf (wordAt ws 0) 16)
  else
    let rs := mirrorHeld n ctx start chunks p.src.toNat
    if rs.isEmpty then leapReply n p stDenied
    else leapReply (setPeer2 n ctx rs (fieldOf (wordAt ws 0) 31 16)) p stOK

/-- LEAP_PEER. -/
def execLeapPeer (p : Packet) (s : State) : Host.Outcome State Fault Refusal :=
  .next (onNode s (takeMgt (fun o => o == 0xB7 || o == 0xB8) takeLeapPeer p))

/-! ### Progress (R424) -/

/-- LEAP_CHUNK_COPIED: the chunk in hand goes on, and with every write of it answered it is COPIED. -/
def leapChunkCopied (k chunk : Nat) (n : Node) : Node :=
  match leapOf n k with
  | none => n
  | some l =>
    if !accepting n || l.step != 3 || (l.copying != some chunk && (l.copying.isSome || nextChunk l != some chunk)) then n
    else settle (leapGo n k)

/-- LEAP_CHUNK_COPIED. -/
def execLeapChunkCopied (leap chunk : Nat) (s : State) : Host.Outcome State Fault Refusal :=
  .next (onNode s (leapChunkCopied leap chunk))

/-- LEAP_DRAINED. -/
def leapDrained (k : Nat) (n : Node) : Node := if accepting n then leapDrain n k else n

/-- LEAP_DRAINED. -/
def execLeapDrained (leap : Nat) (s : State) : Host.Outcome State Fault Refusal := .next (onNode s (leapDrained leap))

/-! ### RECLAIM (R431) -/

/-- RECLAIM: a lender asks for its storage back. -/
def takeReclaim (n : Node) (p : Packet) : Node :=
  let ws := mgtWords p 2
  let q : Reclaim := { lender := p.src.toNat, addr := (wordAt ws 0).toNat, gran := fieldOf (wordAt ws 1) 31 0, tag := p.tag.toNat,
                       seq := p.seq.toNat }
  if (payloadOf p).length < 16 || fieldOf (wordAt ws 0) 63 48 != 0 || q.addr % 65536 != 0 || fieldOf (wordAt ws 1) 63 32 != 0 || q.gran == 0 then
    logEvent n { otherEvent 6 15 with node := p.src.toNat }
  else
    let n := reclaimsGo { n with ml := { n.ml with reclaims := n.ml.reclaims ++ [q] } }
    settle ((Tbl.keysOf n.ml.outs).foldl leapGo n)

/-- RECLAIM. -/
def execReclaim (p : Packet) (s : State) : Host.Outcome State Fault Refusal := .next (onNode s (takeMgt (· == 0xB3) takeReclaim p))

end Sys2Proof.Machine
end

