-- ==== Sys2Proof/Machine/Power.lean ====
section
/-! DEFINITION. Power input, rails, the steps of a start and Standby (R34, R544–R570, R598–R607). -/

namespace Sys2Proof.Machine

/-- The power record changed. -/
def setPower (s : State) (f : Power → Power) : State := { s with nd := { s.nd with power := f s.nd.power } }

/-! ### Input power and reset (R599, R602, R603) -/

/-- VIN_40V enters 34–46 V: out of Off, with RESET_N high, a cold start begins; in any other state the input is only
noted. -/
def powerInputUp (hostEn : Bool) (s : State) : State :=
  let s := setPower s fun p => { p with input := true }
  if s.nd.power.off && !s.nd.power.resetLow then coldStart s hostEn else s

/-- Meaning of POWER_INPUT_UP. -/
def execPowerInputUp (hostEn : Bool) (s : State) : Host.Outcome State Fault Refusal := .next (powerInputUp hostEn s)

/-- The module goes Off. `domains` are those that stay on. -/
def goOff (s : State) (domains : List Nat) : State :=
  let s := { s with nd := clearData s.nd }
  setPower s fun p => { p with off := true, state := 0, step := 0, holding := false, entry := 0, standbyWaits := false,
                               brownOut := false, railStep := 0, rising := [], stepsDone := [], domains := domains,
                               stacksUp := [], denseDone := [], stackTries := Vector.replicate 8 0 }

/-- RESET_N low: Off, with every domain except AON off (R599). -/
def resetAssert (s : State) : State :=
  let aon := if s.nd.power.domains.contains 0 then [0] else []
  setPower (goOff s aon) fun p => { p with resetLow := true }

/-- Meaning of RESET_N_ASSERT. -/
def execResetNAssert (s : State) : Host.Outcome State Fault Refusal := .next (resetAssert s)

/-- RESET_N high again: a cold start, with the input in range (R599). -/
def resetRelease (hostEn : Bool) (s : State) : State :=
  let held := s.nd.power.resetLow
  let s := setPower s fun p => { p with resetLow := false }
  if held && s.nd.power.input then coldStart s hostEn else s

/-- Meaning of RESET_N_RELEASE. -/
def execResetNRelease (hostEn : Bool) (s : State) : Host.Outcome State Fault Refusal := .next (resetRelease hostEn s)

/-- The 40 V input is lost: Off with AON off, and log entries not yet in flash are lost with it (R526, R602). -/
def loseInput (s : State) : State :=
  let s := setPower (goOff s []) fun p => { p with input := false }
  { s with nd := { s.nd with log := { s.nd.log with staged := [] } } }

/-- Meaning of OVER_VOLTAGE_TRIP. -/
def execOverVoltageTrip (s : State) : Host.Outcome State Fault Refusal := .next (loseInput s)

/-- The effect of AON_TRIP: as the over-voltage trip. -/
def aonTrip (s : State) : State := loseInput s

/-- Meaning of AON_TRIP. -/
def execAonTrip (s : State) : Host.Outcome State Fault Refusal := .next (aonTrip s)

/-- A brown-out: with AON on, the module drops to Standby at once; in Standby or Off the state is unchanged
(R599, R605, R622). -/
def brownOut (s : State) : State :=
  let s := setPower s fun p => { p with input := false }
  if s.nd.power.off || s.nd.power.state = 1 || !s.nd.power.domains.contains 0 then s
  else enterStandby s 0x0502 true

/-- Meaning of BROWN_OUT. -/
def execBrownOut (s : State) : Host.Outcome State Fault Refusal := .next (brownOut s)

/-- The second means of Standby exit: Standby entered by brown-out, with no POWER_REQ Standby since (R599). -/
def autoExit (s : State) : State :=
  let s := setPower s fun p => { p with input := true }
  if !s.nd.power.off && s.nd.power.state = 1 && s.nd.power.brownOut then standbyExit s else s

/-- Meaning of STANDBY_AUTO_EXIT. -/
def execStandbyAutoExit (s : State) : Host.Outcome State Fault Refusal := .next (autoExit s)

/-- The input capacitance is charged: AON's rails start (R603, R606). -/
def capacitanceCharged (s : State) : State :=
  if s.nd.power.railStep = 1 && s.nd.power.input && !s.nd.power.resetLow then raiseRails s 2 else s

/-- Meaning of INPUT_CAPACITANCE_CHARGED. -/
def execInputCapacitanceCharged (s : State) : Host.Outcome State Fault Refusal := .next (capacitanceCharged s)

/-! ### Rails (R606, R607) -/

/-- A rail of a domain being raised reaches 90 % of its setpoint. -/
def railUp (d : Nat) (s : State) : State :=
  match s.nd.power.rising.find? fun r => r.1 == d with
  | none => s
  | some (_, c) =>
    if c + 1 < railCount d then
      setPower s fun p => { p with rising := p.rising.map fun r => if r.1 = d then (d, c + 1) else r }
    else
      let s := setPower s fun p => { p with rising := p.rising.filter (fun r => r.1 != d), domains := p.domains ++ [d] }
      if s.nd.power.rising.isEmpty then railsComplete s else s

/-- Meaning of RAIL_IN_WINDOW. -/
def execRailInWindow (domain : Fin 83) (s : State) : Host.Outcome State Fault Refusal := .next (railUp domain.val s)

/-- The dense ports of some port blocks DISABLED (R557, R607). -/
def disableDenses (m : Tiers) (blocks : List Nat) : Tiers :=
  let off := fun (i : Fin 16) => blocks.contains (i.val / 2)
  let ports := Vector.ofFn fun (i : Fin 16) =>
    let q := m.dports.get i
    if off i then { q with status := putField q.status 1 0 3 } else q
  { m with dports := ports }

/-- A rail leaves or misses its window (R607): AON takes the module Off, a P domain disables its six ports, any
other domain fails the module, and during a start the start. -/
def railFault (d : Nat) (s : State) : State :=
  if d = 0 then goOff s []
  else if 75 ≤ d then
    let n := disableBlock s.nd (d - 75)
    let n := { n with mem := disableDenses n.mem [d - 75] }
    let s := { s with nd := logEvent n { otherEvent 5 1 with data0 := d } }
    let s := setPower s fun p => { p with rising := p.rising.filter (fun r => r.1 != d) }
    if s.nd.power.railStep = 14 && s.nd.power.rising.isEmpty then railsComplete s else s
  else
    let s := { s with nd := failModule s.nd 20 d }
    if s.nd.power.state = 0 && !s.nd.power.off then failStart s (s.nd.power.step + 1) 0 else s

/-- Meaning of RAIL_FAULT. -/
def execRailFault (domain : Fin 83) (s : State) : Host.Outcome State Fault Refusal := .next (railFault domain.val s)

/-! ### BIST (R555–R561) -/

/-- The successor of a tile: the next live tile of its region in ascending slot order, wrapping (R29). -/
def successorTile (n : Node) (t : Nat) : Option Nat :=
  let r := t / 8
  let order := (List.range 7).map fun k => 8 * r + (t % 8 + 1 + k) % 8
  order.find? fun u => let h := getAt n.flt.tiles u TileHealth.reset; !h.retired && !h.gated && h.leaving.isNone

/-- HREMAP with every entry that names tile `t` pointed at `u` (R29 step 6). -/
def remapTile (f : Faults) (t u : Nat) : Faults :=
  { f with hremap := f.hremap.map fun row => row.map fun x => if x = t then u else x }

/-- What became of a failure, and the node with it handled: OUTCOME of R560. Spares of a sub-array are counted
under 2 × (ARRAY × 65,536 + SUBARRAY) for rows and one more for columns (R471). -/
def settleFailure (n : Node) (f : BistFailure) : Node × Nat :=
  let u := f.unit_.toNat
  let a := f.array.toNat
  let key := 2 * (a * 65536 + f.subarray.toNat) + bit01 f.colOnly
  let limit := if a = 0 then (if f.colOnly then 2 else 4) else if f.colOnly then 1 else 2
  let setTile := fun (t : TileHealth) => { n with flt := { n.flt with tiles := putAt n.flt.tiles u t } }
  if f.uclass = 0 then
    let t := getAt n.flt.tiles u TileHealth.reset
    if a = 3 then
      (setTile { t with lanesOut := t.lanesOut + 1, retired := t.retired || decide (8 ≤ t.lanesOut) },
        if 8 ≤ t.lanesOut then 4 else 2)
    else if a = 4 then
      (setTile { t with hamOut := t.hamOut + 1, retired := t.retired || decide (2 ≤ t.hamOut) },
        if 2 ≤ t.hamOut then 4 else 2)
    else if a = 5 then
      (setTile { t with alusOut := t.alusOut + 1, retired := t.retired || decide (1 ≤ t.alusOut) },
        if 1 ≤ t.alusOut then 4 else 3)
    else if 6 ≤ a ∧ a ≤ 8 then (setTile { t with retired := true }, 4)
    else if Tbl.getD t.spares key 0 < limit then
      (setTile { t with spares := Tbl.put t.spares key (Tbl.getD t.spares key 0 + 1) }, bit01 f.colOnly)
    else
      let disabled := t.disabled + (if a = 0 then Config.rowBytes else 0)
      (setTile { t with disabled := disabled, retired := t.retired || decide (2 ^ 22 < disabled) },
        if 2 ^ 22 < disabled then 4 else 3)
  else if f.uclass = 1 then
    let r := getAt n.flt.regions u RegionState.reset
    let r := { r with trackersOut := r.trackersOut + (if a = 0x10 then 1 else 0) }
    ({ n with flt := { n.flt with regions := putAt n.flt.regions u r } }, 3)
  else if f.uclass = 2 then (n, if a = 0x23 || a = 0x24 then 7 else 3)
  else if f.uclass = 3 then
    ({ n with flt := { n.flt with blocksOut := if n.flt.blocksOut.contains u then n.flt.blocksOut
                                              else n.flt.blocksOut ++ [u] } }, 6)
  else (n, 5)

/-- Whether a chip-level failure still finds a spare row or column of its logic-die sub-array: the failures before it
in the same sub-array are fewer than the spares (R471). -/
def chipSpare (before : List BistFailure) (f : BistFailure) : Bool :=
  f.uclass = 2 && decide ((before.filter fun g =>
    g.uclass == f.uclass && g.array == f.array && g.subarray == f.subarray && g.colOnly == f.colOnly).length <
    (if f.colOnly then 1 else 2))

/-- The two words of a BIST result entry (R559). -/
def bistEntry (f : BistFailure) (outcome : Nat) : Bytes :=
  leBytes 1 f.uclass.toNat ++ leBytes 1 f.unit_.toNat ++ leBytes 1 f.array.toNat ++ leBytes 1 f.kind.toNat ++
  leBytes 2 f.row.toNat ++ leBytes 2 f.col.toNat ++
  leBytes 8 (f.bit.toNat + outcome * 2 ^ 8 + f.subarray.toNat * 2 ^ 16)

/-- One entry of the repair record (R561): OUTCOME 0–3 or 5. -/
def repairEntry (f : BistFailure) (outcome : Nat) : Bytes :=
  let place := if outcome = 1 then f.col.toNat else f.row.toNat
  leBytes 8 (f.uclass.toNat + f.unit_.toNat * 2 ^ 8 + f.array.toNat * 2 ^ 16 + outcome * 2 ^ 24 +
    f.subarray.toNat * 2 ^ 32 + place * 2 ^ 48)

/-- Every failure settled in turn: the node, the outcomes in order. -/
def settleAll : List BistFailure → List BistFailure → Node → List Nat → Node × List Nat
  | [], _, n, os => (n, os)
  | f :: rest, before, n, os =>
    if chipSpare before f then settleAll rest (before ++ [f]) n (os ++ [bit01 f.colOnly])
    else
      let r := settleFailure n f
      settleAll rest (before ++ [f]) r.1 (os ++ [r.2])

/-- A flash record: its header with the CRC over the header's first 60 bytes and the entries (R558). -/
def flashRecord (w0 w1 : Nat) (entries : Bytes) : Bytes :=
  let head := leBytes 8 w0 ++ leBytes 8 w1 ++ List.replicate 44 0
  head ++ leBytes 4 (crc32c (head ++ entries)) ++ entries

/-- The BIST result record rewritten at step 4 (R558). -/
def writeBistRecord (h : Halord) (boot : Nat) (fs : List BistFailure) (os : List Nat) : Halord :=
  let kept := (fs.zip os).take 16380
  let entries := kept.flatMap fun x => bistEntry x.1 x.2
  let w0 := boot + kept.length * 2 ^ 32 + bit01 (decide (16380 < fs.length)) * 2 ^ 46
  flashWrite (flashErase h 0x60A0000 0x40000) 0x60A0000 (flashRecord w0 (os.filter (· == 7)).length entries)

/-- The repair record with the new repairs added to those it held (R472, R561). -/
def writeRepairRecord (h : Halord) (boot : Nat) (fs : List BistFailure) (os : List Nat) : Halord :=
  let nent := fieldOf (wordOf (leNat (flashRead h 0x6080000 8))) 45 32
  let old := if nent ≤ 8184 && recordOk h 0x6080000 (8 * nent) then flashRead h 0x6080040 (8 * nent) else []
  let new := ((fs.zip os).filter fun x => decide (x.2 ≤ 3) || x.2 == 5).flatMap fun x => repairEntry x.1 x.2
  let entries := (old ++ new).take (8184 * 8)
  flashWrite (flashErase h 0x6080000 0x10000) 0x6080000 (flashRecord (boot + entries.length / 8 * 2 ^ 32) 0 entries)

/-- The tiles retired at a start point their HREMAP entries at their successors, and are logged (R557). -/
def retireAtStart (s : State) : State :=
  (List.range 64).foldl (fun s t =>
    if (getAt s.nd.flt.tiles t TileHealth.reset).retired then
      match successorTile s.nd t with
      | none => s
      | some u =>
        let h := getAt s.nd.flt.tiles t TileHealth.reset
        let f := { s.nd.flt with tiles := putAt s.nd.flt.tiles t { h with state := putField h.state 45 45 1 } }
        logIn { s with nd := { s.nd with flt := remapTile f t u } }
          { sev := sevWarn, code := 0x121, uclass := 3, unit_ := t, data0 := t, data1 := u }
    else s) s

/-- A region without a live tile (R32). -/
def deadRegion (n : Node) : Bool :=
  (List.range 8).any fun r => (List.range 8).all fun k =>
    let t := getAt n.flt.tiles (8 * r + k) TileHealth.reset
    t.retired || t.gated

/-- The head sends ENUM with ADDR 2 and its GROUP_BASE (R508 step 1, step 4). -/
def sendEnum (s : State) : State :=
  let n := { s.nd with chainAddr := 1 }
  let h := { s.hl with chain := { s.hl.chain with base := n.alm.groupBase, enumOut := true } }
  { s with hl := h, nd := emit n (.chain (chainEncode
      { dst := 0, src := 1, type := 1, tag := 0, status := 0, payload := [2, 0] ++ leBytes 2 n.alm.groupBase })) }

/-- Step 7: Halord commits OPORT_CFG with GEN 1 for each enabled port of a working block and runs R110 (R565). -/
def commitPortsAtStart (n : Node) : Node :=
  (List.range 32).foldl (fun n i =>
    let o := portAt n i
    if bitOf o.cfgStage 0 && !n.flt.blocksOut.contains (i / 4) then
      beginBringup (setPort n i { setPortState o 0 with cfgLive := o.cfgStage, gen := 1,
                                                        stat := putField o.stat 31 16 1 }) i
    else n) n

/-- Dense ports that a start waits for: enabled, in a working port block (R564). -/
def densesToBringUp (n : Node) : List Nat :=
  (List.range 16).filter fun d => natField (cfgNum n 0x0201) d d == 1 && !n.flt.blocksOut.contains (d / 2)

/-- The module's place in the chain is settled: it holds a node ID (R509, R545 step 7). -/
def enumerated (s : State) : Bool := s.nd.nodeId != 0

/-- Begins and completes the steps of R545 whose conditions hold: 5 once a node ID is held, 6 once stacks and dense
ports are done, 7 then. -/
def advanceStart (s : State) : State :=
  let p := s.nd.power
  if p.off || p.state != 0 || p.holding || !p.stepsDone.contains 4 then s
  else
    let s := if !p.stepsDone.contains 5 && enumerated s then stepEnded (completeStep s 5) else s
    let six := s.nd.power.state == 0 && !s.nd.power.stepsDone.contains 6 && s.nd.power.stacksUp.length == 8 &&
      (densesToBringUp s.nd).all (fun d => s.nd.power.denseDone.contains d)
    let s := if six then stepEnded (completeStep s 6) else s
    if s.nd.power.state = 0 && s.nd.power.stepsDone.contains 5 && s.nd.power.stepsDone.contains 6 &&
        !s.nd.power.stepsDone.contains 7 then
      stepEnded (completeStep { s with nd := commitPortsAtStart s.nd } 7)
    else s

/-- A chain address and GROUP_BASE recorded from ENUM give the node ID, when the bases agree (R509, R570). -/
def takeNodeId (s : State) : State :=
  let n := s.nd
  if n.chainAddr = 0 || !n.alm.adopted then s
  else if s.hl.chain.base = n.alm.groupBase then { s with nd := { n with nodeId := s.hl.chain.base + n.chainAddr - 1 } }
  else { s with hl := { s.hl with chain := { s.hl.chain with status := putField s.hl.chain.status 9 9 1 } } }

/-- BIST ends: failures are settled and recorded, tiles retired, the identity key derived; step 4 completes and the
chain is enumerated (R555–R561, R508). -/
def bistComplete (fs : List BistFailure) (s : State) : State :=
  let p := s.nd.power
  if p.off || p.state != 0 || p.holding || p.railStep != 0 || !p.stepsDone.contains 3 || p.stepsDone.contains 4 then s
  else
    let (n, os) := settleAll fs [] s.nd []
    let s := { s with nd := n }
    let h := writeRepairRecord (writeBistRecord s.hl n.power.bootCount fs os) n.power.bootCount fs os
    let s := retireAtStart { s with hl := { h with sec := openSecretPath h.sec } }
    let s := logIn s { sev := sevNotice, code := 0x120, data0 := min fs.length 16380, data1 := (os.filter (· == 7)).length }
    if deadRegion s.nd || os.contains 7 then failStart s 4 0x120
    else
      let s := { s with nd := s.nd.flt.blocksOut.foldl disableBlock s.nd }
      let s := { s with nd := { s.nd with mem := disableDenses s.nd.mem s.nd.flt.blocksOut } }
      let s := stepEnded (completeStep s 4)
      if s.nd.power.state = 1 then s
      else if s.nd.power.hostEn then sendEnum s
      else advanceStart (takeNodeId s)

/-- Meaning of BIST_COMPLETE. -/
def execBistComplete (failures : List BistFailure) (s : State) : Host.Outcome State Fault Refusal :=
  .next (bistComplete failures s)

/-! ### Step 6 (R563, R564) -/

/-- A step 6 is open: step 4 has passed and 6 has not. -/
def inStepSix (p : Power) : Bool :=
  !p.off && p.state == 0 && !p.holding && p.stepsDone.contains 4 && !p.stepsDone.contains 6

/-- A training attempt of a stack ends (R563): three failures, or a line left uncorrectable, fail the start. -/
def stackTrained (r : Nat) (trained badLine : Bool) (s : State) : State :=
  if !inStepSix s.nd.power || s.nd.power.stacksUp.contains r then s
  else if !trained then
    let tries := getAt s.nd.power.stackTries r 0 + 1
    let s := setPower s fun p => { p with stackTries := putAt p.stackTries r tries }
    let s := logIn s { sev := sevWarn, code := 0x130, uclass := 5, unit_ := r, data0 := r, data1 := tries }
    if 3 ≤ tries then failStart s 6 0x130 else s
  else if badLine then failStart s 6 0x130
  else advanceStart (setPower s fun p => { p with stacksUp := p.stacksUp ++ [r] })

/-- Meaning of STACK_TRAINING_DONE. -/
def execStackTrainingDone (r : RegionId) (trained badLine : Bool) (s : State) : Host.Outcome State Fault Refusal :=
  .next (stackTrained r.val trained badLine s)

/-- CAP_GIB: the smaller of the namespace and the slot (R293). -/
def capGib (nsBlocks : Nat) : Nat := min (nsBlocks * 4096 / 2 ^ 30) 16320

/-- A dense port after its bring-up: up, with its drive's capacity and DPORT_CFG committed with GEN 1, or down
(R322, R323, R325, R564). -/
def densePortUp (q : DensePort) (present trained fmtOk : Bool) (nsBlocks queues : Nat) (deallocZero : Bool) : DensePort :=
  let st := putField (putField q.status 2 2 (bit01 present)) 5 5 (bit01 (trained && !fmtOk) ||| fieldOf q.status 5 5)
  if present && trained && fmtOk then
    { q with status := putField (putField st 1 0 2) 47 16 (capGib nsBlocks), cfgLive := q.cfgStage, gen := 1,
             stat := putField q.stat 31 16 1, nsBlocks := nsBlocks, queues := min queues 64,
             deallocZero := deallocZero, timeouts := 0 }
  else { q with status := putField st 1 0 0 }

/-- A dense port's bring-up ends in step 6 (R564). -/
def denseBringup (d : Nat) (present trained fmtOk : Bool) (nsBlocks queues : Nat) (deallocZero : Bool) (s : State) : State :=
  if !inStepSix s.nd.power || !(densesToBringUp s.nd).contains d || s.nd.power.denseDone.contains d then s
  else
    let q := densePortUp (getAt s.nd.mem.dports d DensePort.reset) present trained fmtOk nsBlocks queues deallocZero
    let s := { s with nd := { s.nd with mem := { s.nd.mem with dports := putAt s.nd.mem.dports d q } } }
    let s := if present && trained && fmtOk then s else
      alertIn (logIn s { sev := sevWarn, code := 0x131, uclass := 2, unit_ := d, data0 := d, data1 := q.status.toNat }) alDrive
    advanceStart (setPower s fun p => { p with denseDone := p.denseDone ++ [d] })

/-- Meaning of DENSE_PORT_BRINGUP_DONE. -/
def execDensePortBringupDone (d : DenseId) (present trained fmtOk : Bool) (nsBlocks queues : Nat) (deallocZero : Bool)
    (s : State) : Host.Outcome State Fault Refusal :=
  .next (denseBringup d.val present trained fmtOk nsBlocks queues deallocZero s)

/-! ### Joining (R566) -/

/-- Some Ohmas port is up. -/
def anyPortUp (n : Node) : Bool := n.ports.toList.any fun o => portState o == 2

/-- The bridge's node joins as an endpoint of its own, under its own SEQ_RESETs (R197). -/
def joinBridge (n : Node) : Node :=
  let b := bridgeId n
  if b = 0 then n
  else
    let n := { n with bridge := { n.bridge with joined := false, joinAcks := [] } }
    (keepersNow n).foldl (fun n k =>
      sendPacket n { mgtPacket n k 0xA2 [wordOf n.alm.failureDomain] with src := BitVec.ofNat 16 b } .protocol) n

/-- Step 8: with a port up and a node ID held, the module steps its incarnation and sends MEMB_JOIN to each membership
keeper; the SEQ_RESET of R122 is its first exchange with each (R122, R413, R566). -/
def joinFabric (s : State) : State :=
  let n := s.nd
  if n.power.off || n.power.state != 0 || n.power.holding || !n.power.stepsDone.contains 7 || n.nodeId = 0 ||
      !anyPortUp n || n.ml.memb.joined then s
  else
    let n := { n with prs := { PairState.reset with incarnation := (n.prs.incarnation + 1) % 2 ^ 32 } }
    let n := { n with ml := { n.ml with memb := { n.ml.memb with joinAcks := [] } } }
    let n := (keepersNow n).foldl (fun n k =>
      if k = n.nodeId then n
      else sendPacket n (mgtPacket n k 0xA2 [wordOf (n.alm.failureDomain + 2 ^ 16)]) .protocol) n
    { s with nd := joinBridge n }

/-- Meaning of START_JOIN_FABRIC. -/
def execStartJoinFabric (s : State) : Host.Outcome State Fault Refusal := .next (joinFabric s)

/-! ### REFCLK (R34) -/

/-- REFCLK is lost: in Ready or Active the module stops accepting requests, holds its state, and logs the loss. -/
def refclkLoss (s : State) : State :=
  if s.nd.power.off || s.nd.power.state < 2 then s
  else logIn (setPower s fun p => { p with refclk := false }) (otherEvent 5 2)

/-- Meaning of REFCLK_LOSS. -/
def execRefclkLoss (s : State) : Host.Outcome State Fault Refusal := .next (refclkLoss s)

/-- REFCLK returns and the PLL locks: the module resumes. -/
def refclkReturn (s : State) : State := setPower s fun p => { p with refclk := true }

/-- Meaning of REFCLK_RETURN. -/
def execRefclkReturn (s : State) : Host.Outcome State Fault Refusal := .next (refclkReturn s)

/-! ### POWER_REQ and Standby (R540, R570, R599, R604) -/

/-- A POWER_REQ without effect is counted and logged (R599). -/
def countRequest (s : State) : State :=
  logIn (setPower s fun p => { p with noChange := p.noChange + 1 }) (otherEvent 5 3)

/-- A firmware session's bytes are still being programmed into the inactive slot (R542, R579, R596). -/
def flashBusy (h : Halord) : Bool :=
  match h.session with
  | some x => x.kind == 0 && decide (x.programmed < x.bytes.length)
  | none => false

/-- POWER_REQ Standby: in Ready or Active an ordered entry begins; during a start it waits for the step in progress; in
Standby it is recorded, so that the automatic return of R599 no longer applies (R570, R604, R622). -/
def requestStandby (s : State) : State :=
  let p := s.nd.power
  if p.off then s
  else if p.state = 1 then countRequest (setPower s fun p => { p with brownOut := false })
  else if p.state = 0 then
    if p.holding then enterStandby s 0x0501 false else setPower s fun p => { p with standbyWaits := true }
  else if p.entry != 0 then s
  else if flashBusy s.hl then setPower s fun p => { p with standbyWaits := true }
  else setPower s fun p => { p with entry := 1 }

/-- Meaning of POWER_REQ_STANDBY. -/
def execPowerReqStandby (s : State) : Host.Outcome State Fault Refusal := .next (requestStandby s)

/-- POWER_REQ Ready: in Standby a Standby exit; during a start no effect; in Ready or Active it names no change
(R544, R570, R599). -/
def requestReady (s : State) : State :=
  let p := s.nd.power
  if p.off || p.state = 0 then s
  else if p.state = 1 then standbyExit s
  else countRequest s

/-- Meaning of POWER_REQ_READY. -/
def execPowerReqReady (s : State) : Host.Outcome State Fault Refusal := .next (requestReady s)

/-- Meaning of POWER_REQ_NO_CHANGE. -/
def execPowerReqNoChange (s : State) : Host.Outcome State Fault Refusal :=
  .next (if s.nd.power.off then s else countRequest s)

end Sys2Proof.Machine
end

