-- ==== Sys2Proof/Machine/Dense.lean ====
section
/-! DEFINITION. Drives and lenders: what they answer, their timeouts, their loss and their return (R297, R303, R304, R322–R330). -/

namespace Sys2Proof.Machine

/-! ### Fills (R303, R323, R474) -/

/-- The node with a dense port replaced. -/
def setDport (n : Node) (d : Nat) (q : DensePort) : Node := { n with mem := { n.mem with dports := putAt n.mem.dports d q } }

/-- An NVMe command leaves the table. -/
def dropNvme (n : Node) (cid : Nat) : Node := { n with mem := { n.mem with nvme := Tbl.del n.mem.nvme cid } }

/-- A drive has answered: its timeouts are no longer consecutive (R326). -/
def portAnswered (n : Node) (d : Nat) : Node := setDport n d { dportAt n d with timeouts := 0 }

/-- The state codes of the blocks that a Read returned; 15, which is no state, for one that fails its check (R323). -/
def readStates (b : Nat) (count : Nat) (ok : Bool) (data md : Bytes) : List Nat :=
  (List.range count).map fun i =>
    if ok then (lbaState (b + i) (sliceOf data (i * 4096) 4096) (sliceOf md (i * 16) 16)).getD 15 else 15

/-- A frame's Read has ended: the frame is installed. -/
def frameFilled (n : Node) (f : Nat) (ok : Bool) (data md : Bytes) : Node :=
  match Tbl.find? n.mem.frames f with
  | none => n
  | some x =>
    let n := setFrame n f { x with states := readStates (x.blk * 16) 16 ok data md, filling := false }
    { n with mem := { n.mem with cache := memWrite 0 n.mem.cache (x.blk * 65536) (sliceOf data 0 65536) } }

/-- Lines of a block that the slice lacks, for which the store beneath has nothing readable: poisoned ones stay so, the others are
repaired. -/
def blockUnreadable (n : Node) (ctx : Nat) (r : Range) (b : Nat) : Node :=
  let lines := (List.range 64).map fun i => b * 64 + i
  let n := (lines.filter (isPoisoned n)).foldl (fun n l => installLines n b (2 ^ (l % 64)) (List.replicate 4096 0)) n
  lineUnreadable n ctx r (b * 64) .dense

/-- The block of a DENSE_DIRECT range has been read: its lines enter their slice. The flag says that there was room for them. -/
def directRead (n : Node) (b : Nat) (ok : Bool) (data md : Bytes) : Node × Bool :=
  match spanOf n (b * 64) with
  | none => (n, true)
  | some (ctx, r) =>
    let o := openSlice n b
    if o.2 != .ready then (o.1, false)
    else
      let st := (readStates b 1 ok data md).getD 0 15
      match (if (keysFor n ctx r).isEmpty then some none else
        (openBlock (keysFor n ctx r) r.comp b st (sliceOf data 0 4096)).map some) with
      | none => (blockUnreadable o.1 ctx r b, true)
      | some none => (o.1, true)
      | some (some plain) => (installLines o.1 b allLines plain, true)

/-- STACK_CACHE_FILL_COMPLETE. -/
def fillComplete (cid : Nat) (data md : Bytes) (n : Node) : Node :=
  match Tbl.find? n.mem.nvme cid with
  | none => n
  | some c =>
    match c.purpose with
    | .frameFill f => if accepting n then settle (frameFilled (portAnswered (dropNvme n cid) c.port) f true data md) else n
    | _ => n

/-- STACK_CACHE_FILL_COMPLETE. -/
def execStackCacheFillComplete (cid : Nat) (data meta_ : Bytes) (s : State) : Host.Outcome State Fault Refusal :=
  .next (onNode s (fillComplete cid data meta_))

/-! ### Loss of a drive (R326, R327, R428) -/

/-- A range lies in a drive's slot. -/
def onDrive (d : Nat) (r : Range) : Bool := (r.resClass == 1 || r.resClass == 2) && driveOf r.localOff == d

/-- The record of a request that is refused after all leaves its window. -/
def forgetRecord (n : Node) (p : Packet) : Node :=
  let f := fun (w : DedupeWin) => { w with recs := Tbl.del w.recs p.seq.toNat }
  { n with prs := { n.prs with wins := Tbl.upd n.prs.wins p.src.toNat f } }

/-- A request that still has to reach some lines is refused with RETRY; one that has stored part of its bytes ends with PARTIAL. -/
def turnAway (n : Node) (hit : Nat → Bool) : Node :=
  (n.trk.reqs.filter fun q => q.2.units.any fun u => u.lines.any fun l => hit l.1).foldl (fun n q =>
    if q.2.landed = 0 && q.2.fwds.isEmpty then refuseRetry (forgetRecord (dropReq n q.1) q.2.pkt) q.2.pkt 0 0
    else match q.2.units with
      | u :: _ => stopStore n q.1 q.2 u stPartial
      | [] => n) n

/-- The map operations that report extents lost here: as primary, they pass to their mirrors; as mirror, they lose it. -/
def lostOps (n : Node) (ctx : Nat) (rs : List Range) : List MapEntry :=
  let es := (((slotOf n ctx).map (·.kept)).getD []).filter fun e => !e.lost && rs.any fun r =>
    decide (e.start ≤ r.start ∧ r.start < e.start + e.chunks * 2 ^ 21)
  es.filterMap fun e =>
    if e.primary = n.nodeId && e.mirror ≠ 0 then some { e with primary := e.mirror, mirror := 0, egen := 0, op := 0 }
    else if e.mirror = n.nodeId then some { e with mirror := 0, egen := 0, op := 0 }
    else none

/-- Storage behind some ranges is lost: requests that wait on it are turned away, what the module caches of it is discarded, their
extents are reported to the keepers, and Leaps that move them end (R298, R327, R428). -/
def loseStore (n : Node) (hit : Range → Bool) : Node :=
  let gone : List (Nat × Range) := n.ctxs.slots.flatMap fun s =>
    (s.2.ranges.filter fun e => hit e.2 && !e.2.storeLost).map fun e => (s.1, e.2)
  let inGone := fun (line : Nat) => gone.any fun e => inSpan e.2 line
  let n := turnAway n inGone
  let n := gone.foldl (fun n e =>
    let n := discardSpan n e.2
    match slotOf n e.1 with
    | some s => setSlot n e.1 { s with ranges := Tbl.put s.ranges e.2.start { e.2 with storeLost := true } }
    | none => n) n
  let leaps := (n.ml.outs.filter fun l => !isHandover n l.2 && gone.any fun e => inLeap l.2 e.1 e.2.start).map Prod.fst
  let n := leaps.foldl (fun n k => endLeap n k stAborted) n
  let ins := n.ml.ins.filter fun i => gone.any fun e => e.1 == i.ctx && e.2.arrivingFrom == i.source
  let n := ins.foldl freeArriving n
  ((gone.map Prod.fst).eraseDups).foldl (fun n ctx =>
    let ops := lostOps n ctx ((gone.filter fun e => e.1 == ctx).map Prod.snd)
    if ops.isEmpty then n else proposeOps n ctx 0 ops) n

/-- A drive is declared lost. -/
def driveLost (n : Node) (d : Nat) : Node :=
  let q := dportAt n d
  let n := setDport n d { q with status := putField (putField q.status 3 3 1) 1 0 0, timeouts := 0 }
  let n := { n with mem := { n.mem with nvme := n.mem.nvme.filter fun c => c.2.port != d } }
  let n := loseStore n (onDrive d)
  let dense := (n.mem.cow.filter fun c => c.2.dense && !c.2.restored).map fun c => c.2.part
  let n := dense.eraseDups.foldl (fun n k => failPart n k stAborted) n
  let n := raiseAlert (logEvent n { otherEvent 4 1 with uclass := 2, unit_ := d }) alDrive
  settle n

/-! ### Completions and timeouts (R324–R326) -/

/-- A command is issued once more on another queue. -/
def reissue (n : Node) (cid : Nat) (c : NvmeCmd) : Node :=
  let n := dropNvme n cid
  let q := 1 + c.queue % max 1 (dportAt n c.port).queues
  let next := n.mem.nextCid
  let n := { n with mem := { n.mem with
      nvme := Tbl.put n.mem.nvme next { c with queue := q }, nextCid := next + 1 } }
  emit n (.nvme c.port next c.opcode c.lba c.blocks c.fua c.data (writeMeta (blockOfLba c.port c.lba) c.states c.data))

/-- Aborts a command, on the admin queue. -/
def abortNvme (n : Node) (cid : Nat) (c : NvmeCmd) : Node :=
  let next := n.mem.nextCid
  let a : NvmeCmd := { port := c.port, queue := 0, opcode := 8, lba := 0, blocks := 0, fua := false, data := [], states := [],
                       purpose := .abort cid }
  let n := { n with mem := { n.mem with nvme := Tbl.put n.mem.nvme next a, nextCid := next + 1 } }
  emit n (.nvme c.port next 8 cid 0 false [] [])

/-- A command has gone unanswered, or failed: it is aborted and issued once more; the drive's second such in a row declares it
lost. -/
def nvmeFails (n : Node) (cid : Nat) (c : NvmeCmd) : Node :=
  let q := dportAt n c.port
  let n := setDport n c.port { q with status := putField q.status 4 4 1, timeouts := q.timeouts + 1 }
  let n := logEvent n { otherEvent 4 2 with uclass := 2, unit_ := c.port }
  if 2 ≤ q.timeouts + 1 then driveLost n c.port
  else
    match c.purpose with
    | .abort _ => dropNvme n cid
    | _ => reissue (abortNvme n cid c) cid c

/-- NVME_TIMEOUT. -/
def nvmeTimeout (cid : Nat) (n : Node) : Node :=
  match Tbl.find? n.mem.nvme cid with
  | none => n
  | some c => nvmeFails n cid c

/-- NVME_TIMEOUT. -/
def execNvmeTimeout (cid : Nat) (s : State) : Host.Outcome State Fault Refusal := .next (onNode s (nvmeTimeout cid))

/-- What a completed command leaves to do. -/
def nvmeDone (n : Node) (cid : Nat) (c : NvmeCmd) (ok : Bool) (data md : Bytes) : Node :=
  let done := portAnswered (dropNvme n cid) c.port
  match c.purpose with
  | .frameFill f => frameFilled done f ok data md
  | .directRead b =>
    let r := directRead done b ok data md
    if r.2 then r.1 else { r.1 with mem := { r.1.mem with nvme := Tbl.put r.1.mem.nvme cid c } }
  | .directWrite b => if ok then writeBack done b else nvmeFails n cid c
  | .abort _ => done
  | .frameWrite _ => if ok then done else nvmeFails n cid c
  | .flush => if ok then done else nvmeFails n cid c
  | .release _ => if ok then done else nvmeFails n cid c

/-- NVME_COMPLETION. A block read for which there is no room yet keeps its command: the completion is given again. -/
def nvmeCompletion (cid : Nat) (ok : Bool) (data md : Bytes) (n : Node) : Node :=
  match Tbl.find? n.mem.nvme cid with
  | none => n
  | some c => settle (nvmeDone n cid c ok data md)

/-- NVME_COMPLETION. -/
def execNvmeCompletion (cid : Nat) (ok : Bool) (data meta_ : Bytes) (s : State) : Host.Outcome State Fault Refusal :=
  .next (onNode s (nvmeCompletion cid ok data meta_))

/-! ### Drives that leave and come (R326, R328) -/

/-- DRIVE_REMOVED. -/
def driveRemoved (d : Nat) (n : Node) : Node :=
  let q := dportAt n d
  let up := fieldOf q.status 1 0 == 2
  let n := setDport n d { q with status := putField q.status 2 2 0 }
  if up then driveLost n d else n

/-- DRIVE_REMOVED. -/
def execDriveRemoved (d : DenseId) (s : State) : Host.Outcome State Fault Refusal := .next (onNode s (driveRemoved d.val))

/-- DRIVE_ADDED: brought up as at a start, without touching its contents; DPORT_CFG keeps its generation. -/
def driveAdded (d : Nat) (trained fmtOk : Bool) (nsBlocks queues : Nat) (deallocZero : Bool) (n : Node) : Node :=
  let q := dportAt n d
  if !accepting n || fieldOf q.status 1 0 == 2 then n
  else if !bitOf q.cfgLive 0 then setDport n d { q with status := putField q.status 2 2 1 }
  else
    let up := densePortUp q true trained fmtOk nsBlocks queues deallocZero
    let n := setDport n d { up with cfgLive := q.cfgLive, gen := q.gen, stat := q.stat }
    if trained && fmtOk then settle n
    else
      raiseAlert (logEvent n { sev := sevWarn, code := 0x131, uclass := 2, unit_ := d, data0 := d, data1 := up.status.toNat }) alDrive

/-- DRIVE_ADDED. -/
def execDriveAdded (d : DenseId) (trained fmtOk : Bool) (nsBlocks queues : Nat) (deallocZero : Bool) (s : State) :
    Host.Outcome State Fault Refusal :=
  .next (onNode s (driveAdded d.val trained fmtOk nsBlocks queues deallocZero))

/-! ### DPORT_COMMIT (R330) -/

/-- Ranges lie in a drive's slot. -/
def driveUsed (n : Node) (d : Nat) : Bool := (spansInUse n).any fun e => onDrive d e.2

/-- DPORT_COMMIT: ENABLE takes effect; clearing it while ranges lie in the slot is refused. -/
def dportCommit (d : Nat) (w : Word) (n : Node) : Node :=
  let q := dportAt n d
  let enable := bitOf q.cfgStage 0
  if n.power.off || !bitOf w 0 then n
  else if !enable && bitOf q.cfgLive 0 && driveUsed n d then setDport n d { q with stat := commitStatus q.stat false q.gen }
  else
    let was := bitOf q.cfgLive 0
    let gen := nextGen q.gen
    let q' := { q with cfgLive := q.cfgStage, gen := gen, stat := commitStatus q.stat true gen }
    if enable = was then setDport n d q'
    else if enable then setDport n d { q' with status := putField q'.status 1 0 1 }
    else
      let n := driveLost (setDport n d q') d
      let q := dportAt n d
      setDport n d { q with status := putField q.status 1 0 3 }

/-- DPORT_COMMIT. -/
def execDportCommit (d : DenseId) (w : Word) (s : State) : Host.Outcome State Fault Refusal :=
  .next (onNode s (dportCommit d.val w))

/-! ### Lenders (R297) -/

/-- The lender's bytes of a block have all arrived: its lines enter their slice. The flag says that there was room for them. -/
def lentArrived (n : Node) (b : Nat) (io : LenderIo) : Node × Bool :=
  match spanOf n (b * 64) with
  | none => (n, true)
  | some (ctx, r) =>
    let o := openSlice n b
    if o.2 != .ready then (o.1, false)
    else if (keysFor n ctx r).isEmpty then (o.1, true)
    else match openLent (keysFor n ctx r) r.comp b io.data with
      | none => (blockUnreadable o.1 ctx r b, true)
      | some plain => (installLines o.1 b allLines plain, true)

/-- A lender's answer to a READ of a block. -/
def lentRead (n : Node) (p : Packet) (b : Nat) (io : LenderIo) : Node :=
  match io.legs.find? fun l => l.1 == reqSeq p with
  | none => settleSent n p
  | some leg =>
    let keep := fun (n : Node) (io : Option LenderIo) =>
      { n with mem := { n.mem with lentIo := match io with
        | some io => Tbl.put n.mem.lentIo b io
        | none => Tbl.del n.mem.lentIo b } }
    if p.status.toNat != stOK then
      let n := keep (settleSent n p) none
      match spanOf n (b * 64) with
      | some (ctx, r) => settle (blockUnreadable (openSlice n b).1 ctx r b)
      | none => n
    else
      let io := { io with legs := io.legs.erase leg, data := overlayAt io.data leg.2 (sliceOf (payloadOf p) 0 (maxPayload n)) }
      if !io.legs.isEmpty then keep (settleSent n p) (some io)
      else
        let a := lentArrived n b io
        if a.2 then settle (keep (settleSent a.1 p) none) else putBack a.1 p

/-- LENDER_RESPONSE: a lender's answer to a READ or WRITE of a block; one refused with RETRY is sent again (R626). -/
def lenderResponse (p : Packet) (n : Node) : Node :=
  if !(p.opcode == 1 || p.opcode == 2) || !(p.cls == 2 || p.cls == 3) || !accepting n then n
  else
    let a := present n p
    if !a.2 then a.1
    else
      match (sentFor a.1 p).map fun u => u.purpose with
      | some (SentFor.lender b) =>
        if p.status.toNat = stRetry then settleSent a.1 p
        else if p.opcode = 2 then
          let n := settleSent a.1 p
          settle (if p.status.toNat = stOK then n
            else logEvent n { otherEvent 4 3 with node := p.src.toNat, status := p.status.toNat, data0 := b * 4096 })
        else match Tbl.find? a.1.mem.lentIo b with
          | some io => lentRead a.1 p b io
          | none => settleSent a.1 p
      | some _ => n
      | none => a.1

/-- LENDER_RESPONSE. -/
def execLenderResponse (p : Packet) (s : State) : Host.Outcome State Fault Refusal := .next (onNode s (lenderResponse p))

end Sys2Proof.Machine
end

