-- ==== Sys2Proof/Machine/EngineIo.lean ====
section
/-! DEFINITION. Reads and writes of a context's pool by packets, for the index commands and the coordinator (R139, R347, R355,
R360, R420, R421, R624). A command has one packet outstanding, and works upwards. -/

namespace Sys2Proof.Machine

/-- What a command is reading or writing. -/
def ioOf (n : Node) (tid : Nat) : Option EngIo := Tbl.find? n.srch.ios tid

/-- The node with a command's transfer replaced. -/
def setIo (n : Node) (tid : Nat) (io : EngIo) : Node := { n with srch := { n.srch with ios := Tbl.put n.srch.ios tid io } }

/-- A command's transfer is done with. -/
def dropIo (n : Node) (tid : Nat) : Node := { n with srch := { n.srch with ios := Tbl.del n.srch.ios tid } }

/-- A transfer that has ended with a status. -/
def ioEnd (n : Node) (tid : Nat) (io : EngIo) (status : Nat) : Node := setIo n tid { io with stage := 0, status := some status }

/-- Bytes of the next packet: no larger than a packet, and within one 2 MiB chunk. -/
def ioPiece (n : Node) (io : EngIo) : Nat :=
  let left := io.size - io.done
  if io.ctrl.isSome then left else min (min left (maxPayload n)) (2 ^ 21 - (io.pva + io.done) % 2 ^ 21)

/-- The packet of a transfer's next piece. -/
def ioPacket (n : Node) (io : EngIo) (home : Nat) : Packet :=
  let pva := io.pva + io.done
  let k := ioPiece n io
  let p := engPacket n home io.ctx pva (if io.atomic then 3 else if io.write then 2 else 1)
  if io.atomic then { withPayload p (leBytes 8 1) with subop := 3 }
  else if io.write then
    let p := withPayload p ((io.data.drop io.done).take k)
    if io.ctrl.isSome then { p with flags := p.flags ||| 4 } else p
  else { p with len := BitVec.ofNat 13 k }

/-- The next packet of a transfer goes out, or what stands in its way ends it or makes it wait. -/
def ioSend (n : Node) (tid : Nat) (io : EngIo) : Node :=
  let send := fun (h : Nat) =>
    let p := ioPacket n io h
    let seq := nextSeq n n.nodeId h 0
    setIo (sendPacket n p (.engine tid 7)) tid { io with stage := 2, seq := seq, node := h }
  match io.ctrl with
  | some h => send h
  | none =>
    match engRoute n io.ctx (io.pva + io.done) io.gen with
    | .wait => engFetch (setIo n tid { io with stage := 1 }) io.ctx
    | .nowhere => ioEnd n tid io stDenied
    | .lost => ioEnd n tid io stAborted
    | .home h => send h

/-- Asks the home that took over from a lost one what became of a store (R421). -/
def ioAdopt (n : Node) (tid : Nat) (io : EngIo) : Node :=
  match engRoute n io.ctx (io.pva + io.done) io.gen with
  | .wait => engFetch n io.ctx
  | .nowhere => ioEnd n tid io stDenied
  | .lost => ioEnd n tid io stAborted
  | .home h =>
    if h = io.node then engFetch n io.ctx
    else
      setIo (sendPacket n (mgtPacket n h 0xB1 [wordOf (io.node + 2 ^ 16), wordOf io.seq]) (.engine tid 8)) tid { io with stage := 6 }

/-- A transfer goes on. -/
def ioGo (n : Node) (tid : Nat) : Node :=
  match ioOf n tid with
  | none => n
  | some io =>
    if io.stage = 1 then (if io.size ≤ io.done then ioEnd n tid io stOK else ioSend n tid io)
    else if io.stage = 5 then ioAdopt n tid io
    else n

/-- A transfer not yet begun. -/
def newIo (ctx pva size : Nat) (write : Bool) (data : Bytes) : EngIo :=
  { ctx := ctx, write := write, atomic := false, ctrl := none, pva := pva, size := size, data := data, done := 0, gen := 0,
    stage := 1, seq := 0, node := 0, status := none }

/-- Begins a read of a span. -/
def startRead (n : Node) (tid ctx pva size : Nat) : Node := ioGo (setIo n tid (newIo ctx pva size false [])) tid

/-- Begins a write of a span. -/
def startWrite (n : Node) (tid ctx pva : Nat) (bs : Bytes) : Node := ioGo (setIo n tid (newIo ctx pva bs.length true bs)) tid

/-- Begins a write to a module's control region (R38). -/
def startCtrl (n : Node) (tid ctx node off : Nat) (bs : Bytes) : Node :=
  ioGo (setIo n tid { newIo ctx off bs.length true bs with ctrl := some node }) tid

/-- Begins an INT64 ATOMIC ADD of 1. -/
def startAdd (n : Node) (tid ctx pva : Nat) : Node := ioGo (setIo n tid { newIo ctx pva 8 true [] with atomic := true }) tid

/-- A piece has been read or written. -/
def ioPieceDone (n : Node) (tid : Nat) (io : EngIo) (bs : Bytes) : Node :=
  let k := ioPiece n io
  let data := if io.atomic then sliceOf bs 0 8 else if io.write then io.data else io.data ++ sliceOf bs 0 k
  let io := { io with done := io.done + k, data := data, stage := 1 }
  ioGo (setIo n tid io) tid

/-- An answer to a packet of a transfer, or to the question of what became of one. -/
def ioAnswer (n : Node) (tid stage : Nat) (p : Packet) : Node :=
  match ioOf n tid with
  | none => n
  | some io =>
    let st := p.status.toNat
    if st = stRetry then n
    else if stage = 8 && io.stage = 6 then
      let rec0 := bytesToWords 2 (payloadOf p)
      let was := fieldOf (wordAt rec0 0) 39 32
      if was = stRetry || was = stStaleSeq then ioSend n tid io
      else if was = stOK then ioPieceDone n tid io ((payloadOf p).drop 16)
      else ioEnd n tid io was
    else if stage = 7 && io.stage = 2 then
      if st = stMoved then ioSend n tid { io with stage := 1, gen := newerGen io.gen p.mapgen.toNat }
      else if st = stOK then ioPieceDone n tid io (payloadOf p)
      else ioEnd n tid io st
    else n

/-- The home of a transfer's packet is declared lost: a read goes again, of a store the outcome is asked for; a control region is
gone with its module. -/
def iosLost (n : Node) (lost : Nat) : Node :=
  n.srch.ios.foldl (fun n e =>
    let io := e.2
    if io.node != lost || io.stage != 2 then n
    else if io.ctrl.isSome then ioEnd n e.1 io stAborted
    else setIo n e.1 { io with stage := if io.write then 5 else 1 }) n

/-- Transfers that waited for a map go on. -/
def iosGo (n : Node) : Node := (Tbl.keysOf n.srch.ios).foldl ioGo n

end Sys2Proof.Machine
end

