-- ==== Sys2Proof/Machine/Shards.lean ====
section
/-! DEFINITION. The structures of an index shard: its header, its records, its side list, and the publish of its live line
(R333–R345, R353, R354). -/

namespace Sys2Proof.Machine

/-! ### The header (R336–R338) -/

/-- No edge, or no entry. -/
def noSlot : Nat := 0xFFFFFFFF

/-- A header line passes its CHECK. -/
def lineChecks (bs : Bytes) : Bool := numAt bs 60 4 == crc32c (bs.take 60)

/-- A header line with its CHECK: words 0–6, and the low half of word 7. -/
def checkedLine (ws : List Word) (low : Nat) : Bytes :=
  let body := (wordsToBytes (ws.take 7)) ++ leBytes 4 low
  body ++ leBytes 4 (crc32c body)

/-- Reads the live line. -/
def liveOf (bs : Bytes) : ShardLive :=
  let ws := bytesToWords 8 bs
  { isn := fieldOf (wordAt ws 0) 47 0, mainN := fieldOf (wordAt ws 1) 31 0, entry := fieldOf (wordAt ws 1) 63 32,
    head := fieldOf (wordAt ws 2) 47 0, tail := fieldOf (wordAt ws 3) 47 0, freeTo := fieldOf (wordAt ws 4) 47 0,
    area := fieldOf (wordAt ws 5) 0 0, lgen := fieldOf (wordAt ws 7) 31 0 }

/-- The bytes of a live line. -/
def liveBytes (l : ShardLive) : Bytes :=
  checkedLine [wordOf l.isn, wordOf (l.mainN + l.entry * 2 ^ 32), wordOf l.head, wordOf l.tail, wordOf l.freeTo, wordOf l.area, 0] l.lgen

/-- Reads the fixed line. -/
def geoOf (ctx hdr : Nat) (bs : Bytes) : ShardGeo :=
  let ws := bytesToWords 8 bs
  let w := wordAt ws 0
  { ctx := ctx, hdr := hdr, graph := bitOf w 0, cw := fieldOf w 14 8, deg := fieldOf w 22 16, sideLog := fieldOf w 28 24,
    area0 := fieldOf (wordAt ws 1) 56 0, area1 := fieldOf (wordAt ws 2) 56 0, cap := fieldOf (wordAt ws 3) 31 0 }

/-- The bytes of a fixed line. -/
def geoBytes (g : ShardGeo) : Bytes :=
  checkedLine [wordOf (bit01 g.graph + g.cw * 2 ^ 8 + g.deg * 2 ^ 16 + g.sideLog * 2 ^ 24), wordOf g.area0, wordOf g.area1, wordOf g.cap,
    0, 0, 0] 0

/-! ### Sizes and places (R339, R340) -/

/-- CB. -/
def codeBytes (g : ShardGeo) : Nat := 8 * g.cw
/-- RSZ. -/
def recSize (g : ShardGeo) : Nat := 64 * ceilDiv (32 + codeBytes g + 4 * g.deg) 64
/-- ESZ. -/
def entrySize (g : ShardGeo) : Nat := 64 * ceilDiv (32 + codeBytes g) 64
/-- Entries of the side list. -/
def sideRoom (g : ShardGeo) : Nat := 2 ^ g.sideLog
/-- First byte of the side list. -/
def sideBase (g : ShardGeo) : Nat := g.hdr + 4096
/-- The PVA of a side position. -/
def sidePva (g : ShardGeo) (p : Nat) : Nat := sideBase g + p % sideRoom g * entrySize g
/-- First byte of an area. -/
def areaPva (g : ShardGeo) (a : Nat) : Nat := if a = 0 then g.area0 else g.area1
/-- The PVA of a slot. -/
def slotPva (g : ShardGeo) (a s : Nat) : Nat := areaPva g a + s * recSize g

/-- The spans of a shard: header, side list, areas. -/
def shardSpans (g : ShardGeo) : List (Nat × Nat) :=
  [(g.hdr, 128), (sideBase g, sideRoom g * entrySize g), (g.area0, g.cap * recSize g)] ++
  (if g.area1 = 0 then [] else [(g.area1, g.cap * recSize g)])

/-- Some two of some spans meet. -/
def anyMeet : List (Nat × Nat) → Bool
  | [] => false
  | s :: rest => (rest.any fun t => bytesMeet s.1 s.2 t.1 t.2) || anyMeet rest

/-- The fields of a fixed line lie in their ranges (R338). -/
def geoValid (g : ShardGeo) : Bool :=
  decide (1 ≤ g.cw ∧ g.cw ≤ 64) && (if g.graph then decide (4 ≤ g.deg ∧ g.deg ≤ 64) && g.deg % 4 == 0 else g.deg == 0) &&
  decide (21 ≤ g.sideLog ∧ g.sideLog ≤ 24) && g.area0 % 64 == 0 && g.area1 % 64 == 0 && decide (1 ≤ g.cap ∧ g.cap < noSlot) &&
  g.hdr % 64 == 0

/-- The structures lie in ROLE 0 ranges of the context that this module homes, and clear of one another (R336). -/
def geoHomed (n : Node) (g : ShardGeo) : Bool :=
  (shardSpans g).all (fun s => decide (s.1 + s.2 ≤ 2 ^ 57) && spanHomed n g.ctx s.1 s.2) && !anyMeet (shardSpans g)

/-- How a shard's header stands. -/
inductive HeaderIs where
  /-- It can be used. -/
  | good (g : ShardGeo) (l : ShardLive)
  /-- The command ends with a status. -/
  | ends (status : Nat)
  /-- Its lines, or the map, are on their way. -/
  | waits
  deriving DecidableEq, Repr

/-- Where a header that this module does not home lies: MOVED when the map names another home (R347, R359). -/
def headerElsewhere (n : Node) (ctx hdr : Nat) : Node × HeaderIs :=
  match routeOf n ctx hdr with
  | .home h => (n, .ends (if h = n.nodeId then stInvalid else stMoved))
  | .wait => (engFetch n ctx, .waits)
  | _ => (n, .ends stInvalid)

/-- The two header lines, in slices. -/
def headerLines (n : Node) (ctx hdr : Nat) : Bytes := spanBytes n ctx hdr 128

/-- Reads and checks a shard's header. -/
def readHeader (n : Node) (ctx hdr : Nat) : Node × HeaderIs :=
  if hdr % 64 != 0 || decide (2 ^ 57 < hdr + 128) then (n, .ends stInvalid)
  else if !spanHomed n ctx hdr 128 then headerElsewhere n ctx hdr
  else if spanRevoked n ctx hdr 128 then (n, .ends stRevoked)
  else
    let f := engineReadPrep n ctx hdr 128
    if f.2 = .noKey then (f.1, .ends stInternal)
    else if f.2 = .waits then (f.1, .waits)
    else if spanPoisoned f.1 ctx hdr 128 then (f.1, .ends stPoisoned)
    else
      let bs := headerLines f.1 ctx hdr
      let g := geoOf ctx hdr (bs.drop 64)
      if !lineChecks (bs.take 64) || !lineChecks (bs.drop 64) || !geoValid g || !geoHomed f.1 g then (f.1, .ends stInvalid)
      else if (shardSpans g).any (fun s => spanRevoked f.1 ctx s.1 s.2) then (f.1, .ends stRevoked)
      else (f.1, .good g (liveOf (bs.take 64)))

/-- Every structure of a shard grants a right. -/
def shardGrants (n : Node) (g : ShardGeo) (right : Range → Bool) : Bool :=
  (shardSpans g).all fun s => spanGranted n g.ctx s.1 s.2 right

/-! ### Records (R339, R341) -/

/-- A main record or side entry as read. -/
structure RecView where
  id : Nat
  attr : Nat
  seq : Nat
  op : Nat
  del : Nat
  /-- It carries a reserved value. -/
  bad : Bool
  poisoned : Bool
  code : Bytes
  edges : List Nat
  deriving DecidableEq, Repr

/-- Reads a record of the main area, or an entry of the side list. -/
def recView (g : ShardGeo) (side poisoned : Bool) (bs : Bytes) : RecView :=
  let ws := bytesToWords 4 bs
  let op := fieldOf (wordAt ws 2) 63 56
  let del := fieldOf (wordAt ws 3) 47 0
  let rsv := fieldOf (wordAt ws 2) 55 48 != 0 || fieldOf (wordAt ws 3) 63 48 != 0
  { id := (wordAt ws 0).toNat, attr := (wordAt ws 1).toNat, seq := fieldOf (wordAt ws 2) 47 0, op := op, del := del,
    bad := rsv || (if side then !(op == 1 || op == 2) || del != 0 else op != 0), poisoned := poisoned,
    code := sliceOf (bs.drop 32) 0 (codeBytes g),
    edges := (List.range g.deg).map fun i => numAt bs (32 + codeBytes g + 4 * i) 4 }

/-- Reads a record from the pool, once its lines are ready. -/
def readRec (n : Node) (g : ShardGeo) (side : Bool) (pva : Nat) : Node × Fetch × RecView :=
  let size := if side then entrySize g else recSize g
  let f := engineReadPrep n g.ctx pva size
  (f.1, f.2, recView g side (spanPoisoned f.1 g.ctx pva size) (spanBytes f.1 g.ctx pva size))

/-- The bytes of a main record (R339). -/
def mainBytes (g : ShardGeo) (id attr seq del : Nat) (code : Bytes) (edges : List Nat) : Bytes :=
  let head := wordsToBytes [wordOf id, wordOf attr, wordOf seq, wordOf del]
  sliceOf (head ++ sliceOf code 0 (codeBytes g) ++ (List.range g.deg).flatMap fun i => leBytes 4 (edges.getD i noSlot)) 0 (recSize g)

/-- The bytes of a side entry (R339). -/
def sideBytes (g : ShardGeo) (id attr seq op : Nat) (code : Bytes) : Bytes :=
  sliceOf (wordsToBytes [wordOf id, wordOf attr, wordOf (seq + op * 2 ^ 56), 0] ++ sliceOf code 0 (codeBytes g)) 0 (entrySize g)

/-- The number of 1 bits of a byte. -/
def popByte (b : Byte) : Nat := (List.range 8).countP fun i => b.getLsbD i

/-- The Hamming distance of two codes (R333). -/
def codeDistance (a b : Bytes) : Nat := ((a.zip b).map fun x => popByte (x.1 ^^^ x.2)).foldl (· + ·) 0

/-! ### The activity table (R353) -/

/-- A shard's entry. -/
def actOf (n : Node) (ctx hdr : Nat) : Option ShardAct := n.srch.acts.find? fun a => a.ctx == ctx && a.hdr == hdr

/-- The entry of a shard of which nothing runs. -/
def emptyAct (ctx hdr : Nat) : ShardAct :=
  { ctx := ctx, hdr := hdr, queries := [], harvest := none, mutations := [], publishing := none }

/-- Changes a shard's entry; one with nothing left is freed. -/
def changeAct (n : Node) (ctx hdr : Nat) (f : ShardAct → ShardAct) : Node :=
  let a := f ((actOf n ctx hdr).getD (emptyAct ctx hdr))
  let rest := n.srch.acts.filter fun a => !(a.ctx == ctx && a.hdr == hdr)
  { n with srch := { n.srch with acts := if a = emptyAct ctx hdr then rest else rest ++ [a] } }

/-- SIDE_FREE as it can now stand: the lowest SIDE_HEAD that a running query captured, or SIDE_HEAD. -/
def freeNow (n : Node) (g : ShardGeo) (head : Nat) : Nat :=
  (((actOf n g.ctx g.hdr).map (·.queries)).getD []).foldl (fun m q => min m q.2.2) head

/-! ### Publishing (R342, R354) -/

/-- A DENSE_DIRECT block of a context has not reached its drive. -/
def ctxDirectPending (n : Node) (ctx : Nat) : Bool :=
  n.mem.blocks.any (fun t => ((spanOf n (t.1 * 64)).map fun e => e.1 == ctx).getD false && directPending n t.1) ||
  n.mem.nvme.any fun c => match c.2.purpose with
    | .directWrite b => ((spanOf n (b * 64)).map fun e => e.1 == ctx).getD false
    | _ => false

/-- Every store that a command has made is visible at both homes. -/
def ownVisible (n : Node) (tid ctx : Nat) : Bool := !awaits n (.cmdForward tid) && !ctxDirectPending n ctx

/-- Another command's publish of the shard is on its way. -/
def publishHeld (n : Node) (g : ShardGeo) (tid : Nat) : Bool :=
  match (actOf n g.ctx g.hdr).bind (·.publishing) with
  | some t => t != tid
  | none => false

/-- A HARVEST of a shard runs, or waits to. -/
def harvestDue (n : Node) (g : ShardGeo) : Bool :=
  (actOf n g.ctx g.hdr).any (fun a => a.harvest.isSome) ||
    n.trk.cmds.any fun e => cmdOp e.2 == 0x33 && cmdCtx e.2 == g.ctx && (dword e.2 3).toNat == g.hdr &&
      (e.2.phase == .consumed || e.2.phase == .running)

/-- A command of the module's own: it holds no ring slot and writes no record. -/
def ownCmd (n : Node) (ctx region : Nat) (desc : List Word) : Cmd :=
  { ring := ctx, fired := true, slot := 0, desc := desc, writer := n.nodeId, region := region, order := n.trk.nextTid,
    phase := .consumed, status := 0, result0 := 0, word3 := 0, landed := 0, setErr := false, stage := 0, work := [],
    waits := [], mirrored := false }

/-- Gives a command of the module's own its tracker. -/
def addOwnCmd (n : Node) (c : Cmd) : Node :=
  { n with trk := { n.trk with cmds := Tbl.put n.trk.cmds n.trk.nextTid c, nextTid := n.trk.nextTid + 1 } }

/-- The region of a shard's header. -/
def shardRegion (n : Node) (g : ShardGeo) : Nat := lineRegion (localLine n g.ctx g.hdr)

/-- A publish leaves 2^20 or more entries unmerged: the module starts a MERGE by itself, and logs it (R354). -/
def forceMerge (n : Node) (g : ShardGeo) (l : ShardLive) : Node :=
  if l.tail - l.head < 2 ^ 20 || harvestDue n g then n
  else
    let n := logEvent n { otherEvent 6 20 with ctx := g.ctx, data0 := g.hdr }
    addOwnCmd n (ownCmd n g.ctx (shardRegion n g) [wordOf (0x33 + g.ctx * 2 ^ 16), 0, 0, wordOf g.hdr, 0, 0, 0, 0])

/-- Publishes: the live line, changed by `f`, is stored as one line, with SIDE_FREE as it can now stand. -/
def publish (n : Node) (tid : Nat) (g : ShardGeo) (f : ShardLive → ShardLive) : Node × Fetch :=
  if publishHeld n g tid then (n, .waits)
  else
    let a := engineStorePrep n g.ctx g.hdr 64 .own
    if a.2 != .ready then a
    else
      let r := engineReadPrep a.1 g.ctx g.hdr 64
      if r.2 != .ready then r
      else
        let l := f (liveOf (spanBytes r.1 g.ctx g.hdr 64))
        let l := { l with freeTo := freeNow r.1 g l.head, lgen := (l.lgen + 1) % 2 ^ 32 }
        let n := (engineCommit r.1 g.ctx g.hdr .own (.cmdForward tid) (ownInfo r.1 g.ctx) (liveBytes l)).1
        (forceMerge (changeAct n g.ctx g.hdr fun a => { a with publishing := some tid }) g l, .ready)

/-- A publish has become visible. -/
def published (n : Node) (g : ShardGeo) : Node := changeAct n g.ctx g.hdr fun a => { a with publishing := none }

/-- The live line as it stands in its slice. -/
def liveNow (n : Node) (g : ShardGeo) : ShardLive := liveOf (spanBytes n g.ctx g.hdr 64)

/-- A command of the index ends: what it runs is done with. -/
def endIndexCmd (n : Node) (tid status : Nat) (r0 w3 : Word) : Node :=
  let n := { n with srch := { n.srch with
      ios := Tbl.del n.srch.ios tid, queries := Tbl.del n.srch.queries tid, muts := Tbl.del n.srch.muts tid,
      harvests := Tbl.del n.srch.harvests tid, coords := Tbl.del n.srch.coords tid } }
  endCmd n tid status r0 w3

end Sys2Proof.Machine
end

