-- ==== Sys2Proof/Machine/Search.lean ====
section
/-! DEFINITION. Shard queries: the query block, the scan of the window and the area, the traversal of a graph, and the result
list (R334, R335, R343, R344, R355–R359, R363, R364). -/

namespace Sys2Proof.Machine

/-! ### Query blocks (R334, R355) -/

/-- Reads a query block's header; its CODE comes later. -/
def queryBlockOf (bs : Bytes) : QueryBlock :=
  let ws := bytesToWords 8 bs
  let w := wordAt ws 0
  { k := fieldOf w 10 0, maxDist := fieldOf w 28 16, fop := fieldOf w 34 32, cw := fieldOf w 46 40, fmask := (wordAt ws 1).toNat,
    fval := (wordAt ws 2).toNat, budget := fieldOf (wordAt ws 3) 31 0, ef := fieldOf (wordAt ws 3) 47 32,
    shardPva := (wordAt ws 4).toNat, nshard := (wordAt ws 5).toNat, code := [] }

/-- A query block breaks R334 or R355; `whole`: its shard table is checked too, which shards ignore. -/
def queryBad (bs : Bytes) (whole : Bool) : Bool :=
  let ws := bytesToWords 8 bs
  let w := wordAt ws 0
  let q := queryBlockOf bs
  decide (1024 < q.k) || fieldOf w 15 11 != 0 || decide (4096 < q.maxDist) || fieldOf w 31 29 != 0 || decide (5 < q.fop) ||
  fieldOf w 39 35 != 0 || decide (q.cw < 1 ∨ 64 < q.cw) || fieldOf w 63 47 != 0 || (q.fop == 0 && (q.fmask != 0 || q.fval != 0)) ||
  (q.fop == 3 && q.fval != 0) || fieldOf (wordAt ws 3) 63 48 != 0 || (q.ef != 0 && decide (q.ef < q.k)) || wordAt ws 6 != 0 ||
  wordAt ws 7 != 0 ||
  (whole && (pvaBad (wordAt ws 4) || q.shardPva % 16 != 0 || decide (q.nshard < 1 ∨ 4096 < q.nshard)))

/-- A vector passes the filter (R334). -/
def passes (q : QueryBlock) (attr : Nat) : Bool :=
  let x := attr &&& q.fmask
  match q.fop with
  | 0 => true
  | 1 => x == q.fval
  | 2 => x != q.fval
  | 3 => x != 0
  | 4 => decide (x ≤ q.fval)
  | _ => decide (q.fval ≤ x)

/-- Bytes of a scratch slot (R358). -/
def slotSize (k : Nat) : Nat := 64 * ceilDiv (64 + 16 * k) 64

/-! ### Candidates (R335, R358) -/

/-- The order of entries within a shard. -/
def hitLe (a b : Hit) : Bool := decide (a.dist < b.dist) || (a.dist == b.dist && decide (a.id ≤ b.id))

/-- A candidate enters a list in order; the list keeps `k`. -/
def addHit (k : Nat) (x : Hit) : List Hit → List Hit
  | [] => if k = 0 then [] else [x]
  | h :: rest =>
    if k = 0 then []
    else if hitLe h x then h :: addHit (k - 1) x rest
    else (x :: h :: rest).take k

/-- A visible vector is examined: a candidate when it passes the filter and lies within MAXDIST. -/
def examine (q : QueryBlock) (r : QueryRun) (v : RecView) : QueryRun :=
  if !passes q v.attr then r
  else
    let d := codeDistance q.code v.code
    if q.maxDist < d then r
    else { r with count := r.count + 1, best := addHit q.k { dist := d, id := v.id, attr := v.attr % 2 ^ 32 } r.best }

/-- A record is skipped and counted in BAD; a poisoned one makes the query PARTIAL (R341, R363). -/
def skipBad (r : QueryRun) (v : RecView) : QueryRun := { r with bad := r.bad + 1, part := r.part || v.poisoned }

/-- The window holds a DELETE of this ID with a higher SEQ (R343). -/
def deleted (r : QueryRun) (v : RecView) : Bool := r.dels.any fun d => d.1 == v.id && decide (v.seq < d.2)

/-- A main record is visible to the query (R343). -/
def recVisible (r : QueryRun) (l : ShardLive) (v : RecView) : Bool :=
  decide (v.seq ≤ l.isn) && (v.del == 0 || decide (l.isn < v.del)) && !deleted r v

/-- The query has read as much as it may. -/
def spent (q : QueryBlock) (r : QueryRun) : Bool := q.budget != 0 && decide (q.budget ≤ r.examined)

/-! ### Scanning -/

/-- How far a scan has come. -/
inductive Scan where
  | more
  | waits
  | noKey
  deriving DecidableEq, Repr

/-- A fetch as the scan sees it. -/
def scanOf : Fetch → Scan
  | .ready => .more
  | .waits => .waits
  | .noKey => .noKey

/-- Reads the window, newest entry first, so that every DELETE is known before what it deletes. `r.pos`: entries left. -/
def scanWindow (q : QueryBlock) (g : ShardGeo) (l : ShardLive) : Nat → Node → QueryRun → Node × QueryRun × Scan
  | 0, n, r => (n, r, .more)
  | fuel + 1, n, r =>
    if r.pos = 0 then (n, r, .more)
    else if spent q r then (n, { r with part := true, pos := 0, stage := 5 }, .more)
    else
      let a := readRec n g true (sidePva g (l.head + r.pos - 1))
      if a.2.1 != .ready then (a.1, r, scanOf a.2.1)
      else
        let v := a.2.2
        let r := { r with pos := r.pos - 1, examined := r.examined + 1 }
        let r := if v.bad || v.poisoned then skipBad r v
          else if v.op = 2 then { r with dels := (v.id, v.seq) :: r.dels }
          else if deleted r v then r else examine q r v
        scanWindow q g l fuel a.1 r

/-- Reads the captured area slot by slot. `r.pos`: the next slot. -/
def scanArea (q : QueryBlock) (g : ShardGeo) (l : ShardLive) : Nat → Node → QueryRun → Node × QueryRun × Scan
  | 0, n, r => (n, r, .more)
  | fuel + 1, n, r =>
    if l.mainN ≤ r.pos then (n, r, .more)
    else if spent q r then (n, { r with part := true, pos := l.mainN }, .more)
    else
      let a := readRec n g false (slotPva g l.area r.pos)
      if a.2.1 != .ready then (a.1, r, scanOf a.2.1)
      else
        let v := a.2.2
        let r := { r with pos := r.pos + 1, examined := r.examined + 1 }
        let r := if v.bad || v.poisoned then skipBad r v else if recVisible r l v then examine q r v else r
        scanArea q g l fuel a.1 r

/-! ### Traversing a graph (R344, R359)

The traversal is best-first with a beam: the nearest node not yet expanded is expanded, as long as it is no farther than the
beam's farthest node or the beam has room. -/

/-- A traversal. -/
structure Beam where
  /-- Nodes not yet expanded, nearest first: distance and slot. -/
  front : List (Nat × Nat)
  /-- The nearest nodes read. -/
  top : List (Nat × Nat)
  /-- Every node read, in order. -/
  read : List (Nat × RecView)
  /-- Nodes it may still read; none: no limit. -/
  left : Option Nat
  cut : Bool
  deriving DecidableEq, Repr

/-- Puts a node into a list of nodes, nearest first, ties to the lower slot. -/
def putNode (x : Nat × Nat) : List (Nat × Nat) → List (Nat × Nat)
  | [] => [x]
  | h :: rest =>
    if decide (h.1 < x.1) || (h.1 == x.1 && decide (h.2 ≤ x.2)) then h :: putNode x rest else x :: h :: rest

/-- Reads one node into the traversal. -/
def beamRead (g : ShardGeo) (area ef : Nat) (code : Bytes) (n : Node) (b : Beam) (s : Nat) : Node × Fetch × Beam :=
  if b.left == some 0 then (n, .ready, { b with cut := true })
  else
    let a := readRec n g false (slotPva g area s)
    if a.2.1 != .ready then (a.1, a.2.1, b)
    else
      let v := a.2.2
      let b := { b with read := b.read ++ [(s, v)], left := b.left.map (· - 1) }
      if v.bad || v.poisoned then (a.1, .ready, b)
      else
        let x := (codeDistance code v.code, s)
        let far := (b.top.getLast?.map Prod.fst).getD 0
        if decide (b.top.length < ef) || decide (x.1 < far) then
          (a.1, .ready, { b with front := putNode x b.front, top := (putNode x b.top).take ef })
        else (a.1, .ready, b)

/-- Reads some nodes that the traversal has not read. -/
def beamReadAll (g : ShardGeo) (area ef : Nat) (code : Bytes) : List Nat → Node → Beam → Node × Fetch × Beam
  | [], n, b => (n, .ready, b)
  | s :: rest, n, b =>
    if b.cut || decide (g.cap ≤ s) || b.read.any (fun x => x.1 == s) then beamReadAll g area ef code rest n b
    else
      let a := beamRead g area ef code n b s
      if a.2.1 != .ready then a else beamReadAll g area ef code rest a.1 a.2.2

/-- The traversal goes on until no node is left to expand. -/
def beamGo (g : ShardGeo) (area ef : Nat) (code : Bytes) : Nat → Node → Beam → Node × Fetch × Beam
  | 0, n, b => (n, .ready, b)
  | fuel + 1, n, b =>
    match b.front with
    | [] => (n, .ready, b)
    | x :: rest =>
      let far := (b.top.getLast?.map Prod.fst).getD 0
      if b.cut || (decide (ef ≤ b.top.length) && decide (far < x.1)) then (n, .ready, b)
      else
        let edges := ((b.read.find? fun r => r.1 == x.2).map fun r => r.2.edges).getD []
        let a := beamReadAll g area ef code edges n { b with front := rest }
        if a.2.1 != .ready then a else beamGo g area ef code fuel a.1 a.2.2

/-- Traverses a graph from its ENTRY towards a code. While a line is on its way the traversal is made again from the start. -/
def traverse (n : Node) (g : ShardGeo) (area entry ef : Nat) (code : Bytes) (left : Option Nat) : Node × Fetch × Beam :=
  let b : Beam := { front := [], top := [], read := [], left := left, cut := false }
  if g.cap ≤ entry then (n, .ready, b)
  else
    let a := beamReadAll g area ef code [entry] n b
    if a.2.1 != .ready then a else beamGo g area ef code g.cap a.1 a.2.2

/-- What a query takes from a traversal: its visible nodes below the captured MAIN_N. -/
def takeBeam (q : QueryBlock) (l : ShardLive) (r : QueryRun) (b : Beam) : QueryRun :=
  let r := b.read.foldl (fun r x =>
    let v := x.2
    let r := { r with examined := r.examined + 1 }
    if v.bad || v.poisoned then skipBad r v
    else if decide (x.1 < l.mainN) && recVisible r l v then examine q r v else r) r
  { r with part := r.part || b.cut }

/-! ### Running (R359) -/

/-- The node with a shard query replaced. -/
def setQuery (n : Node) (tid : Nat) (r : QueryRun) : Node := { n with srch := { n.srch with queries := Tbl.put n.srch.queries tid r } }

/-- The header of a shard's list (R358). -/
def scratchHeader (r : QueryRun) : Bytes :=
  wordsToBytes [wordOf (r.status + 2 ^ 8 + r.best.length * 2 ^ 16 + r.shardNo * 2 ^ 32), wordOf r.count, wordOf r.examined,
    wordOf ((r.live.map (·.isn)).getD 0), wordOf (r.bad * 2 ^ 32), 0, 0, 0]

/-- The entries of a list. -/
def hitBytes (shard : Nat) (hs : List Hit) : Bytes :=
  hs.flatMap fun h => wordsToBytes [wordOf h.id, wordOf (h.dist + shard * 2 ^ 16 + h.attr * 2 ^ 32)]

/-- The query leaves the activity table. -/
def leaveActs (n : Node) (tid : Nat) (r : QueryRun) : Node :=
  match r.geo with
  | some g => changeAct n g.ctx g.hdr fun a => { a with queries := a.queries.filter fun q => q.1 != tid }
  | none => n

/-- A shard query writes its list: the entries, then the header with DONE. -/
def writeList (n : Node) (tid ctx : Nat) (r : QueryRun) : Node :=
  let n := leaveActs n tid r
  if r.best.isEmpty then startWrite (setQuery n tid { r with stage := 6 }) tid ctx r.res (scratchHeader r)
  else startWrite (setQuery n tid { r with stage := 5 }) tid ctx (r.res + 64) (hitBytes r.shardNo r.best)

/-- A shard query ends its search. -/
def endQuery (n : Node) (tid ctx : Nat) (r : QueryRun) (status : Nat) : Node :=
  let r := if status = stOK || status = stPartial then r else { r with best := [], count := 0, examined := 0, bad := 0, live := none }
  writeList n tid ctx { r with status := status }

/-- The search of the window and the area goes on. -/
def queryScan (n : Node) (tid ctx : Nat) (r : QueryRun) (q : QueryBlock) (g : ShardGeo) (l : ShardLive) : Node :=
  let w := if r.stage = 3 then scanWindow q g l (r.pos + 1) n r else (n, r, Scan.more)
  if w.2.2 = .noKey then endQuery w.1 tid ctx w.2.1 stInternal
  else if w.2.2 = .waits then setQuery w.1 tid w.2.1
  else
    let r := if w.2.1.stage = 3 then { w.2.1 with stage := 4, pos := 0 } else w.2.1
    let finish := fun (n : Node) (r : QueryRun) => endQuery n tid ctx r (if r.part then stPartial else stOK)
    if r.stage != 4 then finish w.1 r
    else if g.graph && q.k != 0 then
      let left := if q.budget = 0 then none else some (q.budget - r.examined)
      let b := traverse w.1 g l.area l.entry (if q.ef = 0 then max (2 * q.k) 64 else q.ef) q.code left
      if b.2.1 = .noKey then endQuery b.1 tid ctx r stInternal
      else if b.2.1 = .waits then setQuery b.1 tid r
      else finish b.1 (takeBeam q l r b.2.2)
    else
      let a := scanArea q g l (l.mainN + 1) w.1 r
      if a.2.2 = .noKey then endQuery a.1 tid ctx a.2.1 stInternal
      else if a.2.2 = .waits then setQuery a.1 tid a.2.1
      else finish a.1 a.2.1

/-- The query block is read: the header, the rights, and the snapshot come next (R359 steps 1 to 4). Without room in the activity
table it waits. -/
def queryStart (n : Node) (tid : Nat) (c : Cmd) (r : QueryRun) (q : QueryBlock) : Node :=
  let ctx := cmdCtx c
  let h := readHeader n ctx (dword c 6).toNat
  match h.2 with
  | .waits => setQuery h.1 tid r
  | .ends st => endQuery h.1 tid ctx r st
  | .good g l =>
    if q.cw != g.cw then endQuery h.1 tid ctx r stInvalid
    else if !shardGrants h.1 g (·.r) then endQuery h.1 tid ctx r stDenied
    else
      let held := (h.1.srch.acts.filter fun a => !a.queries.isEmpty)
      if 4096 ≤ held.length && !(held.any fun a => a.ctx == ctx && a.hdr == g.hdr) then setQuery h.1 tid r
      else
        let n := changeAct h.1 ctx g.hdr fun a => { a with queries := a.queries ++ [(tid, l.area, l.head)] }
        let r := { r with geo := some g, live := some l, stage := 3, pos := l.tail - l.head }
        queryScan (setQuery n tid r) tid ctx r q g l

/-- A transfer of a shard query has ended. -/
def queryIoDone (n : Node) (tid : Nat) (c : Cmd) (r : QueryRun) (io : EngIo) (status : Nat) : Node :=
  let ctx := cmdCtx c
  let n := dropIo n tid
  let qry := (dword c 3).toNat
  if r.stage = 1 then
    if status != stOK then endQuery n tid ctx r status
    else
      match r.query with
      | none =>
        if queryBad io.data false then endQuery n tid ctx r stInvalid
        else
          let q := queryBlockOf io.data
          startRead (setQuery n tid { r with query := some q }) tid ctx (qry + 64) (8 * q.cw)
      | some q =>
        let q := { q with code := io.data }
        let r := { r with query := some q, stage := 2 }
        queryStart (setQuery n tid r) tid c r q
  else if r.stage = 5 then
    (if status = stOK then startWrite (setQuery n tid { r with stage := 6 }) tid ctx r.res (scratchHeader r)
     else endIndexCmd n tid status 0 0)
  else endIndexCmd n tid (if status = stOK then r.status else if r.status = stOK || r.status = stPartial then status else r.status) 0 0

/-- A running shard query goes on. A query block whose code could not be read whole is read again. -/
def queryGo (n : Node) (tid : Nat) : Node :=
  match cmdOf n tid, Tbl.find? n.srch.queries tid with
  | some c, some r =>
    match ioOf n tid with
    | some io => (match io.status with
      | some st => queryIoDone n tid c r io st
      | none => ioGo n tid)
    | none =>
      match r.query, r.geo, r.live with
      | some q, some g, some l => if r.stage = 3 || r.stage = 4 then queryScan n tid (cmdCtx c) r q g l else n
      | some q, none, none => if r.stage = 2 then queryStart n tid c r q else n
      | _, _, _ => n
  | _, _ => n

/-- Transfers can end one after another: a command goes on until none has just ended. -/
def goOn (f : Node → Nat → Node) (tid : Nat) : Nat → Node → Node
  | 0, n => n
  | fuel + 1, n =>
    let n := f n tid
    match ioOf n tid with
    | some io => if io.status.isSome then goOn f tid fuel n else n
    | none => n

/-- The words of a SEARCH with SUB 1 are malformed (R357). -/
def shardReserved (c : Cmd) : Bool :=
  cmdCtx c == 0 || pvaBad (dword c 3) || (dword c 3).toNat % 64 != 0 || pvaBad (dword c 4) || (dword c 4).toNat % 64 != 0 ||
  dword c 5 != 0 || pvaBad (dword c 6) || fieldOf (dword c 7) 15 1 != 0 || fieldOf (dword c 7) 63 28 != 0

/-- A shard query not yet begun. -/
def newQuery (c : Cmd) : QueryRun :=
  { res := (dword c 4).toNat, shardNo := fieldOf (dword c 7) 27 16, query := none, geo := none, live := none, stage := 1, pos := 0,
    dels := [], best := [], count := 0, examined := 0, bad := 0, part := false, status := stOK }

/-- SEARCH with SUB 1: at most 1,024 run at once, and the next waits. -/
def searchShard (tid : Nat) (n : Node) : Node :=
  match cmdOf n tid with
  | none => n
  | some c =>
    if !bitOf (dword c 7) 0 then n
    else if c.phase == .running then resumeCmd n tid 0x30 fun _ => settle (goOn queryGo tid 4 n)
    else
      startCmd n tid 0x30 fun c =>
        if 1024 ≤ n.srch.queries.length then n
        else
          checked n tid c (shardReserved c) [] fun _ =>
            let n := setQuery (runStage n tid 1 []) tid (newQuery c)
            settle (goOn queryGo tid 4 (startRead n tid (cmdCtx c) (dword c 3).toNat 64))

/-- SEARCH_SHARD. -/
def execSearchShard (tid : Nat) (s : State) : Host.Outcome State Fault Refusal := .next (onNode s (searchShard tid))

end Sys2Proof.Machine
end

