-- ==== Sys2Proof/Machine/Index.lean ====
section
/-! DEFINITION. INDEX_INSERT and INDEX_DELETE, and the freeing of side-list positions (R342, R346–R348, R353, R354). -/

namespace Sys2Proof.Machine

/-- The node with a mutation replaced. -/
def setMut (n : Node) (tid : Nat) (r : MutRun) : Node := { n with srch := { n.srch with muts := Tbl.put n.srch.muts tid r } }

/-- Entries that a group takes: up to 64. -/
def groupSize (r : MutRun) : Nat := min 64 (r.count - r.done)

/-- Bytes of one entry of a source. -/
def sourceSize (r : MutRun) : Nat := if r.insert then entrySize r.geo else 8

/-- A mutation leaves its shard's queue and ends. What it published stands (R347). -/
def endMut (n : Node) (tid : Nat) (r : MutRun) (status : Nat) : Node :=
  let n := changeAct n r.geo.ctx r.geo.hdr fun a => { a with
    mutations := a.mutations.filter (· != tid), publishing := if a.publishing = some tid then none else a.publishing }
  let st := if status = stOK then stOK else if r.done = 0 then status else stPartial
  endIndexCmd n tid st (wordOf r.done) (wordOf r.lastSeq)

/-- The source of the next group is read, or the command is done. -/
def readSource (n : Node) (tid : Nat) (r : MutRun) : Node :=
  if r.count ≤ r.done then endMut n tid r stOK
  else startRead (setMut n tid { r with stage := 1 }) tid r.geo.ctx (r.src + sourceSize r * r.done) (sourceSize r * groupSize r)

/-- A source entry of an INDEX_INSERT is bad (R347). -/
def sourceBad (g : ShardGeo) (bs : Bytes) : Bool :=
  let v := recView g false false bs
  v.bad || v.seq != 0 || v.del != 0

/-- The entries of a source, up to a bad one. -/
def goodEntries (r : MutRun) (bs : Bytes) : Nat → Nat → Nat
  | 0, k => k
  | fuel + 1, k =>
    if groupSize r ≤ k || (r.insert && sourceBad r.geo (sliceOf (bs.drop (k * sourceSize r)) 0 (sourceSize r))) then k
    else goodEntries r bs fuel (k + 1)

/-- The side entry that a source entry becomes. -/
def entryOf (r : MutRun) (bs : Bytes) (seq : Nat) : Bytes :=
  if r.insert then
    let v := recView r.geo false false (sliceOf bs 0 (entrySize r.geo))
    sideBytes r.geo v.id v.attr seq 1 v.code
  else sideBytes r.geo (numAt bs 0 8) 0 seq 2 []

/-- Every position of a group is ready to be stored. -/
def prepGroup (n : Node) (g : ShardGeo) (tail k : Nat) : Node × Fetch :=
  (List.range k).foldl (fun (a : Node × Fetch) i =>
    let f := engineStorePrep a.1 g.ctx (sidePva g (tail + i)) (entrySize g) .own
    (f.1, worseFetch a.2 f.2)) (n, .ready)

/-- Stores the entries of a group (R342). -/
def storeGroup (n : Node) (tid : Nat) (r : MutRun) (l : ShardLive) (bs : Bytes) (k : Nat) : Node :=
  (List.range k).foldl (fun n i =>
    (engineCommit n r.geo.ctx (sidePva r.geo (l.tail + i)) .own (.cmdForward tid) (ownInfo n r.geo.ctx)
      (entryOf r (bs.drop (i * sourceSize r)) (l.isn + 1 + i))).1) n

/-- The source of a group is read: its entries are stored when the side list has room for them; otherwise the mutation waits, or
ends when no merge can make room (R348). -/
def storeStage (n : Node) (tid : Nat) (r : MutRun) (bs : Bytes) : Node :=
  let k := goodEntries r bs 64 0
  let f := engineReadPrep n r.geo.ctx r.geo.hdr 64
  if k = 0 then endMut n tid r stInvalid
  else if f.2 = .noKey then endMut f.1 tid r stInternal
  else if f.2 = .waits then f.1
  else
    let l := liveNow f.1 r.geo
    if sideRoom r.geo < l.tail - l.freeTo + k then
      (if l.freeTo < freeNow f.1 r.geo l.head then
        let p := publish f.1 tid r.geo id
        if p.2 = .ready then setMut p.1 tid { r with stage := 5 } else p.1
      else if r.geo.cap ≤ l.mainN then endMut f.1 tid r stNoResource
      else f.1)
    else
      let p := prepGroup f.1 r.geo l.tail k
      if p.2 = .noKey then endMut p.1 tid r stInternal
      else if p.2 = .waits then p.1
      else setMut (storeGroup p.1 tid r l bs k) tid { r with stage := 3, group := k, stops := decide (k < groupSize r) }

/-- A group's entries are visible: it is published. -/
def publishStage (n : Node) (tid : Nat) (r : MutRun) : Node :=
  if !ownVisible n tid r.geo.ctx then n
  else
    let p := publish n tid r.geo fun l => { l with isn := l.isn + r.group, tail := l.tail + r.group }
    if p.2 = .noKey then endMut p.1 tid r stInternal
    else if p.2 = .waits then p.1
    else setMut p.1 tid { r with stage := 4, lastSeq := (liveNow p.1 r.geo).isn }

/-- A running mutation goes on, when it is the first of its shard. -/
def mutGo (n : Node) (tid : Nat) : Node :=
  match Tbl.find? n.srch.muts tid with
  | none => n
  | some r =>
    if ((actOf n r.geo.ctx r.geo.hdr).bind fun a => a.mutations.head?) != some tid then n
    else if r.stage = 0 then readSource n tid r
    else if r.stage = 1 then
      (match ioOf n tid with
       | none => readSource n tid r
       | some io =>
         match io.status with
         | none => ioGo n tid
         | some st => if st = stOK then storeStage (setMut n tid { r with stage := 2 }) tid { r with stage := 2 } io.data
                      else endMut n tid r st)
    else if r.stage = 2 then ((ioOf n tid).map fun io => storeStage n tid r io.data).getD n
    else if r.stage = 3 then publishStage n tid r
    else if !ownVisible n tid r.geo.ctx then n
    else if r.stage = 5 then setMut (published n r.geo) tid { r with stage := 2 }
    else
      let r := { r with done := r.done + r.group }
      let n := dropIo (published n r.geo) tid
      if r.stops then endMut n tid r stInvalid else readSource n tid r

/-- The words of INDEX_INSERT and INDEX_DELETE are malformed (R346). -/
def mutReserved (c : Cmd) (insert : Bool) : Bool :=
  cmdCtx c == 0 || pvaBad (dword c 3) || pvaBad (dword c 4) || (dword c 4).toNat % (if insert then 64 else 8) != 0 ||
  fieldOf (dword c 5) 63 17 != 0 || decide (65536 < fieldOf (dword c 5) 16 0) || dword c 6 != 0 || dword c 7 != 0

/-- A mutation is checked and takes its place behind the earlier ones of its shard (R342, R347). -/
def startMut (n : Node) (tid : Nat) (c : Cmd) (insert : Bool) : Node :=
  checked n tid c (mutReserved c insert) [] fun _ =>
    let ctx := cmdCtx c
    let h := readHeader n ctx (dword c 3).toNat
    match h.2 with
    | .waits => h.1
    | .ends st => refuseCmd h.1 tid st
    | .good g _ =>
      if !(spanGranted h.1 ctx g.hdr 128 (·.w) && spanGranted h.1 ctx (sideBase g) (sideRoom g * entrySize g) (·.w)) then
        refuseCmd h.1 tid stDenied
      else
        let count := fieldOf (dword c 5) 16 0
        if count = 0 then refuseCmd h.1 tid stOK
        else
          let r : MutRun := { geo := g, insert := insert, src := (dword c 4).toNat, count := count, done := 0, lastSeq := 0,
                              stage := 0, group := 0, stops := false }
          let n := changeAct (runStage h.1 tid 1 []) ctx g.hdr fun a => { a with mutations := a.mutations ++ [tid] }
          goOn mutGo tid 4 (setMut n tid r)

/-- INDEX_INSERT and INDEX_DELETE. Given again, the row carries on a command that has started. -/
def indexMutation (tid op : Nat) (insert : Bool) (n : Node) : Node :=
  match cmdOf n tid with
  | none => n
  | some c =>
    if c.phase == .running then resumeCmd n tid op fun _ => settle (goOn mutGo tid 4 n)
    else startCmd n tid op fun c => settle (startMut n tid c insert)

/-- INDEX_INSERT. -/
def execIndexInsert (tid : Nat) (s : State) : Host.Outcome State Fault Refusal := .next (onNode s (indexMutation tid 0x31 true))

/-- INDEX_DELETE. -/
def execIndexDelete (tid : Nat) (s : State) : Host.Outcome State Fault Refusal := .next (onNode s (indexMutation tid 0x32 false))

/-- A mutation that waits for room looks again (R348). -/
def roomFreed (tid : Nat) (n : Node) : Node :=
  match Tbl.find? n.srch.muts tid with
  | some r => if accepting n && (r.stage == 2 || r.stage == 5) then settle (goOn mutGo tid 4 n) else n
  | none => n

/-- SIDE_LIST_ROOM_FREED. -/
def execSideListRoomFreed (tid : Nat) (s : State) : Host.Outcome State Fault Refusal := .next (onNode s (roomFreed tid))

end Sys2Proof.Machine
end

