-- ==== Sys2Proof/Machine/Harvest.lean ====
section
/-! DEFINITION. HARVEST: merging a side list, compacting an area and creating a shard (R349–R354). -/

namespace Sys2Proof.Machine

/-- The node with a HARVEST replaced. -/
def setHarvest (n : Node) (tid : Nat) (r : HarvestRun) : Node :=
  { n with srch := { n.srch with harvests := Tbl.put n.srch.harvests tid r } }

/-- Stores to be made ready together, and then made: PVA and bytes. -/
abbrev Stores := List (Nat × Bytes)

/-- Makes every store of a list ready. -/
def prepStores (n : Node) (ctx : Nat) (ss : Stores) : Node × Fetch :=
  ss.foldl (fun (a : Node × Fetch) s =>
    let f := engineStorePrep a.1 ctx s.1 s.2.length .own
    (f.1, worseFetch a.2 f.2)) (n, .ready)

/-- Makes the stores of a list, once all are ready. -/
def makeStores (n : Node) (tid ctx : Nat) (ss : Stores) : Node × Fetch :=
  let p := prepStores n ctx ss
  if p.2 != .ready then p
  else (ss.foldl (fun n s => (engineCommit n ctx s.1 .own (.cmdForward tid) (ownInfo n ctx) s.2).1) p.1, .ready)

/-- A HARVEST ends. The outcome of a MERGE that the module started itself is logged (R354). -/
def endHarvest (n : Node) (tid : Nat) (r : HarvestRun) (status : Nat) : Node :=
  let forced := ((cmdOf n tid).map (·.fired)).getD false
  let n := changeAct n r.geo.ctx r.geo.hdr fun a => { a with
    harvest := none, publishing := if a.publishing = some tid then none else a.publishing }
  let n := if forced then logEvent n { otherEvent 6 21 with ctx := r.geo.ctx, status := status, data0 := r.geo.hdr } else n
  if status = stOK || status = stNoResource then
    endIndexCmd n tid status (wordOf r.merged) (wordOf (r.mainN + (if r.compact then r.removed * 2 ^ 32 else 0)))
  else endIndexCmd n tid status 0 0

/-! ### MERGE (R351) -/

/-- The place of an edge within its record. -/
def edgePva (g : ShardGeo) (area s i : Nat) : Nat := slotPva g area s + 32 + codeBytes g + 4 * i

/-- The visible nodes of a traversal, nearest first, ties to the lower slot. -/
def nearestOf (code : Bytes) (mainN : Nat) (b : Beam) : List (Nat × Nat) :=
  (b.read.filter fun x => !x.2.bad && !x.2.poisoned && x.2.del == 0 && decide (x.1 < mainN)).foldl
    (fun l x => putNode (codeDistance code x.2.code, x.1) l) []

/-- The farthest edge of a record: distance and index. Edges to records that cannot be read count as farthest. -/
def farthestEdge (g : ShardGeo) (area : Nat) (v : RecView) : List (Nat × Nat) → Node → Nat × Nat → Node × Fetch × (Nat × Nat)
  | [], n, far => (n, .ready, far)
  | e :: rest, n, far =>
    let a := readRec n g false (slotPva g area e.1)
    if a.2.1 != .ready then (a.1, a.2.1, far)
    else
      let d := if a.2.2.bad || a.2.2.poisoned then 8 * codeBytes g + 1 else codeDistance v.code a.2.2.code
      farthestEdge g area v rest a.1 (if far.1 < d then (d, e.2) else far)

/-- The store of a reverse edge to a new record, when its neighbour takes one. -/
def reverseEdge (g : ShardGeo) (area new : Nat) (n : Node) (x : Nat × Nat) : Node × Fetch × Stores :=
  let a := readRec n g false (slotPva g area x.2)
  if a.2.1 != .ready then (a.1, a.2.1, [])
  else
    let v := a.2.2
    let es := v.edges.zipIdx
    match es.find? fun e => g.cap ≤ e.1 with
    | some e => (a.1, .ready, [(edgePva g area x.2 e.2, leBytes 4 new)])
    | none =>
      let f := farthestEdge g area v es a.1 (0, 0)
      if f.2.1 != .ready then (f.1, f.2.1, [])
      else (f.1, .ready, if x.1 < f.2.2.1 then [(edgePva g area x.2 f.2.2.2, leBytes 4 new)] else [])

/-- The stores that put a new record into the current area. -/
def insertStores (n : Node) (g : ShardGeo) (area : Nat) (r : HarvestRun) (v : RecView) : Node × Fetch × Stores :=
  let rec0 := fun (es : List Nat) => (slotPva g area r.mainN, mainBytes g v.id v.attr v.seq 0 v.code es)
  if !g.graph then (n, .ready, [rec0 []])
  else
    let b := traverse n g area r.entry (max (2 * g.deg) 64) v.code none
    if b.2.1 != .ready then (b.1, b.2.1, [])
    else
      let near := (nearestOf v.code r.mainN b.2.2).take g.deg
      near.foldl (fun (a : Node × Fetch × Stores) x =>
        let e := reverseEdge g area r.mainN a.1 x
        (e.1, worseFetch a.2.1 e.2.1, a.2.2 ++ e.2.2)) (b.1, .ready, [rec0 (near.map Prod.snd)])

/-- A DELETE looks at the next slots of the area, and marks the records that it removes. -/
def deleteSlots (tid : Nat) (g : ShardGeo) (area : Nat) (v : RecView) : Nat → Node → HarvestRun → Node × Fetch × HarvestRun
  | 0, n, r => (n, .ready, r)
  | fuel + 1, n, r =>
    if r.mainN ≤ r.slot then (n, .ready, r)
    else
      let a := readRec n g false (slotPva g area r.slot)
      if a.2.1 != .ready then (a.1, a.2.1, r)
      else
        let x := a.2.2
        if !x.bad && !x.poisoned && x.id == v.id && decide (x.seq < v.seq) && x.del == 0 then
          let m := makeStores a.1 tid g.ctx [(slotPva g area r.slot + 24, leBytes 8 v.seq)]
          if m.2 != .ready then (m.1, m.2, r) else deleteSlots tid g area v fuel m.1 { r with slot := r.slot + 1 }
        else deleteSlots tid g area v fuel a.1 { r with slot := r.slot + 1 }

/-- Merges the next entry. -/
def mergeOne (tid area : Nat) (n : Node) (r : HarvestRun) : Node × Fetch × HarvestRun :=
  let g := r.geo
  let e := readRec n g true (sidePva g r.pos)
  let v := e.2.2
  let next := { r with pos := r.pos + 1, slot := 0, merged := r.merged + 1 }
  if e.2.1 != .ready then (e.1, e.2.1, r)
  else if v.bad || v.poisoned then (e.1, .ready, { next with merged := r.merged })
  else if v.op = 2 then
    let d := deleteSlots tid g area v (r.mainN + 1) e.1 r
    if d.2.1 != .ready then d else (d.1, .ready, next)
  else if g.cap ≤ r.mainN then (e.1, .ready, { r with full := true })
  else
    let s := insertStores e.1 g area r v
    if s.2.1 != .ready then (s.1, s.2.1, r)
    else
      let m := makeStores s.1 tid g.ctx s.2.2
      if m.2 != .ready then (m.1, m.2, r)
      else (m.1, .ready, { next with mainN := r.mainN + 1, entry := if g.graph && r.entry = noSlot then r.mainN else r.entry })

/-- Merges entries until none is left, the area is full, or a line is on its way. -/
def mergeAll (tid area : Nat) : Nat → Node → HarvestRun → Node × Fetch × HarvestRun
  | 0, n, r => (n, .ready, r)
  | fuel + 1, n, r =>
    if r.full || decide (r.upTo ≤ r.pos) then (n, .ready, r)
    else
      let a := mergeOne tid area n r
      if a.2.1 != .ready then a else mergeAll tid area fuel a.1 a.2.2

/-! ### COMPACT (R352) -/

/-- The new slot of a kept record. -/
def newSlot (kept : List Nat) (s : Nat) : Option Nat := (kept.zipIdx.find? fun e => e.1 == s).map Prod.snd

/-- Finds the records to keep: DEL_SEQ 0, and neither malformed nor poisoned. -/
def findKept (area : Nat) : Nat → Node → HarvestRun → Node × Fetch × HarvestRun
  | 0, n, r => (n, .ready, r)
  | fuel + 1, n, r =>
    if r.mainN ≤ r.slot then (n, .ready, r)
    else
      let a := readRec n r.geo false (slotPva r.geo area r.slot)
      if a.2.1 != .ready then (a.1, a.2.1, r)
      else
        let keep := !a.2.2.bad && !a.2.2.poisoned && a.2.2.del == 0
        findKept area fuel a.1 { r with slot := r.slot + 1, kept := if keep then r.kept ++ [r.slot] else r.kept }

/-- The kept out-neighbours of a removed record, nearest to `v` first. The record itself is not its own neighbour. -/
def keptNeighbours (g : ShardGeo) (area self : Nat) (kept : List Nat) (v : RecView) :
    List Nat → Node → List (Nat × Nat) → Node × Fetch × List (Nat × Nat)
  | [], n, l => (n, .ready, l)
  | s :: rest, n, l =>
    if s = self || !kept.contains s then keptNeighbours g area self kept v rest n l
    else
      let a := readRec n g false (slotPva g area s)
      if a.2.1 != .ready then (a.1, a.2.1, l)
      else keptNeighbours g area self kept v rest a.1 (putNode (codeDistance v.code a.2.2.code, s) l)

/-- Rewrites the edges of a kept record, in order. `done`: the edges rewritten so far; `have_`: the slots that are edges. -/
def rewriteEdges (r : HarvestRun) (area self : Nat) (v : RecView) :
    List Nat → Node → List Nat → List Nat → Node × Fetch × List Nat
  | [], n, done, _ => (n, .ready, done)
  | e :: rest, n, done, have_ =>
    match newSlot r.kept e with
    | some s => rewriteEdges r area self v rest n (done ++ [s]) have_
    | none =>
      if r.mainN ≤ e then rewriteEdges r area self v rest n (done ++ [noSlot]) have_
      else
        let a := readRec n r.geo false (slotPva r.geo area e)
        if a.2.1 != .ready then (a.1, a.2.1, done)
        else
          let k := keptNeighbours r.geo area self r.kept v a.2.2.edges a.1 []
          if k.2.1 != .ready then (k.1, k.2.1, done)
          else
            match k.2.2.find? fun x => !have_.contains x.2 with
            | some x => rewriteEdges r area self v rest k.1 (done ++ [(newSlot r.kept x.2).getD noSlot]) (x.2 :: have_)
            | none => rewriteEdges r area self v rest k.1 (done ++ [noSlot]) have_

/-- Copies kept records into the other area. `r.pos`: the next new slot. -/
def copyKept (tid area : Nat) : Nat → Node → HarvestRun → Node × Fetch × HarvestRun
  | 0, n, r => (n, .ready, r)
  | fuel + 1, n, r =>
    match r.kept[r.pos]? with
    | none => (n, .ready, r)
    | some s =>
      let a := readRec n r.geo false (slotPva r.geo area s)
      let v := a.2.2
      if a.2.1 != .ready then (a.1, a.2.1, r)
      else
        let e := rewriteEdges r area s v v.edges a.1 [] (v.edges.filter r.kept.contains)
        if e.2.1 != .ready then (e.1, e.2.1, r)
        else
          let m := makeStores e.1 tid r.geo.ctx [(slotPva r.geo (1 - area) r.pos, mainBytes r.geo v.id v.attr v.seq 0 v.code e.2.2)]
          if m.2 != .ready then (m.1, m.2, r) else copyKept tid area fuel m.1 { r with pos := r.pos + 1 }

/-- ENTRY after a COMPACT. -/
def newEntry (r : HarvestRun) : Nat :=
  if !r.geo.graph then r.entry
  else (newSlot r.kept r.entry).getD (if r.kept.isEmpty then noSlot else 0)

/-! ### Running -/

/-- A part of the work has come as far as it can: without a key the command ends, and while a line is on its way it waits. -/
def harvestWork (tid : Nat) (a : Node × Fetch × HarvestRun) (f : Node → HarvestRun → Node) : Node :=
  if a.2.1 = .noKey then endHarvest a.1 tid a.2.2 stInternal
  else if a.2.1 = .waits then setHarvest a.1 tid a.2.2
  else f a.1 a.2.2

/-- What the command stored is visible: the publish goes out. -/
def harvestPublish (n : Node) (tid : Nat) (r : HarvestRun) (next : Nat) (f : ShardLive → ShardLive) : Node :=
  if !ownVisible n tid r.geo.ctx then setHarvest n tid r
  else
    let p := publish n tid r.geo f
    if p.2 = .noKey then endHarvest p.1 tid r stInternal
    else if p.2 = .waits then setHarvest p.1 tid r
    else setHarvest p.1 tid { r with stage := next }

/-- A MERGE has merged: it publishes. With nothing to merge, it publishes SIDE_FREE alone, if that changes. -/
def mergePublish (n : Node) (tid : Nat) (r : HarvestRun) : Node :=
  let f := engineReadPrep n r.geo.ctx r.geo.hdr 64
  if f.2 = .noKey then endHarvest f.1 tid r stInternal
  else if f.2 = .waits then setHarvest f.1 tid r
  else
    let l := liveNow f.1 r.geo
    if l.head = r.pos && l.tail = l.head && freeNow f.1 r.geo l.head = l.freeTo then setHarvest f.1 tid { r with stage := 3 }
    else harvestPublish f.1 tid r 3 fun l => { l with mainN := r.mainN, entry := r.entry, head := r.pos }

/-- INIT: the fixed line, then the live line once that is visible (R350). -/
def initStep (n : Node) (tid : Nat) (r : HarvestRun) : Node :=
  if !ownVisible n tid r.geo.ctx then n
  else if r.stage = 11 then endHarvest n tid { r with mainN := 0 } stOK
  else
    let entry := if r.geo.graph && r.mainN != 0 then 0 else noSlot
    let live : ShardLive := { isn := 0, mainN := r.mainN, entry := entry, head := 0, tail := 0, freeTo := 0, area := 0, lgen := 1 }
    let s := if r.stage = 9 then (r.geo.hdr + 64, geoBytes r.geo) else (r.geo.hdr, liveBytes live)
    let m := makeStores n tid r.geo.ctx [s]
    if m.2 = .noKey then endHarvest m.1 tid r stInternal
    else if m.2 = .waits then m.1
    else setHarvest m.1 tid { r with stage := r.stage + 1 }

/-- One stage of a running HARVEST. -/
def harvestStep (n : Node) (tid : Nat) : Node :=
  match Tbl.find? n.srch.harvests tid with
  | none => n
  | some r =>
    if 9 ≤ r.stage then initStep n tid r
    else
      let h := engineReadPrep n r.geo.ctx r.geo.hdr 128
      if h.2 = .noKey then endHarvest h.1 tid r stInternal
      else if h.2 = .waits then h.1
      else
        let n := h.1
        let area := (liveNow n r.geo).area
        if r.stage = 1 then
          harvestWork tid (mergeAll tid area (r.upTo - r.pos + 1) n r) fun n r => mergePublish n tid { r with stage := 2 }
        else if r.stage = 2 then mergePublish n tid r
        else if r.stage = 3 then
          (if !ownVisible n tid r.geo.ctx then n
           else
             let n := if (actOf n r.geo.ctx r.geo.hdr).bind (·.publishing) = some tid then published n r.geo else n
             if r.compact then setHarvest n tid { r with stage := 4 }
             else endHarvest n tid r (if r.full then stNoResource else stOK))
        else if r.stage = 4 then
          (if (((actOf n r.geo.ctx r.geo.hdr).map (·.queries)).getD []).any fun q => q.2.1 == 1 - area then n
           else setHarvest n tid { r with stage := 5, slot := 0, kept := [] })
        else if r.stage = 5 then
          harvestWork tid (findKept area (r.mainN + 1) n r) fun n r =>
            setHarvest n tid { r with stage := 6, pos := 0, removed := r.mainN - r.kept.length }
        else if r.stage = 6 then
          harvestWork tid (copyKept tid area (r.kept.length + 1) n r) fun n r => setHarvest n tid { r with stage := 7 }
        else if r.stage = 7 then
          harvestPublish n tid { r with mainN := r.kept.length } 8 fun l =>
            { l with mainN := r.kept.length, entry := newEntry r, area := 1 - l.area }
        else if !ownVisible n tid r.geo.ctx then n
        else endHarvest (published n r.geo) tid r stOK

/-- A running HARVEST goes through as many stages as it can. -/
def harvestGo (tid : Nat) : Nat → Node → Node
  | 0, n => n
  | fuel + 1, n => harvestGo tid fuel (harvestStep n tid)

/-- The words of a MERGE or COMPACT are malformed (R349). -/
def harvestReserved (c : Cmd) : Bool :=
  cmdCtx c == 0 || pvaBad (dword c 3) || fieldOf (dword c 4) 63 2 != 0 || dword c 5 != 0 || dword c 6 != 0 || dword c 7 != 0

/-- An earlier HARVEST of the shard has yet to end (R349). -/
def harvestBehind (n : Node) (c : Cmd) : Bool :=
  ((actOf n (cmdCtx c) (dword c 3).toNat).bind (·.harvest)).isSome ||
    n.trk.cmds.any fun e => cmdOp e.2 == 0x33 && cmdCtx e.2 == cmdCtx c && dword e.2 3 == dword c 3 &&
      decide (e.2.order < c.order) && (e.2.phase == .consumed || e.2.phase == .running)

/-- A MERGE or COMPACT is checked and begins. -/
def startHarvest (n : Node) (tid : Nat) (c : Cmd) (compact : Bool) : Node :=
  checked n tid c (harvestReserved c) [] fun _ =>
    let h := readHeader n (cmdCtx c) (dword c 3).toNat
    match h.2 with
    | .waits => h.1
    | .ends st => refuseCmd h.1 tid st
    | .good g l =>
      if compact && g.area1 = 0 then refuseCmd h.1 tid stInvalid
      else if !shardGrants h.1 g (·.w) then refuseCmd h.1 tid stDenied
      else
        let r : HarvestRun := { geo := g, compact := compact, stage := 1, upTo := l.tail, pos := l.head, slot := 0, mainN := l.mainN,
                                entry := l.entry, merged := 0, full := false, kept := [], removed := 0 }
        let n := changeAct (runStage h.1 tid 1 []) g.ctx g.hdr fun a => { a with harvest := some tid }
        harvestGo tid 8 (setHarvest n tid r)

/-- The shard that an INIT is to create. -/
def initGeo (c : Cmd) : ShardGeo :=
  geoOf (cmdCtx c) (dword c 3).toNat (wordsToBytes [dword c 7 &&& 0x1FFFFFFF, dword c 5, dword c 6, wordOf (fieldOf (dword c 7) 63 32)])

/-- The words of an INIT are malformed, or name a shard that cannot be (R349, R350). -/
def initReserved (n : Node) (c : Cmd) : Bool :=
  let g := initGeo c
  cmdCtx c == 0 || pvaBad (dword c 3) || fieldOf (dword c 4) 31 2 != 0 || pvaBad (dword c 5) || pvaBad (dword c 6) ||
  bitOf (dword c 7) 1 || fieldOf (dword c 7) 7 2 != 0 || bitOf (dword c 7) 15 || bitOf (dword c 7) 23 || fieldOf (dword c 7) 31 29 != 0 ||
  !geoValid g || decide (g.cap < fieldOf (dword c 4) 63 32) || !geoHomed n g

/-- An INIT is checked and begins. -/
def startInit (n : Node) (tid : Nat) (c : Cmd) : Node :=
  let g := initGeo c
  checked n tid c (initReserved n c)
      [(!shardGrants n g (·.w), stDenied), ((shardSpans g).any fun s => spanRevoked n g.ctx s.1 s.2, stRevoked)] fun _ =>
    let f := engineReadPrep n g.ctx g.hdr 64
    if f.2 = .noKey then refuseCmd f.1 tid stInternal
    else if f.2 = .waits then f.1
    else if !spanPoisoned f.1 g.ctx g.hdr 64 && lineChecks (spanBytes f.1 g.ctx g.hdr 64) then refuseCmd f.1 tid stInvalid
    else
      let r : HarvestRun := { geo := g, compact := false, stage := 9, upTo := 0, pos := 0, slot := 0,
                              mainN := fieldOf (dword c 4) 63 32, entry := 0, merged := 0, full := false, kept := [], removed := 0 }
      let n := changeAct (runStage f.1 tid 1 []) g.ctx g.hdr fun a => { a with harvest := some tid }
      harvestGo tid 4 (setHarvest n tid r)

/-- HARVEST with one HOP. Given again, the row carries on a command that has started. -/
def harvest (tid hop : Nat) (f : Node → Cmd → Node) (n : Node) : Node :=
  match cmdOf n tid with
  | none => n
  | some c =>
    if fieldOf (dword c 4) 1 0 != hop then n
    else if c.phase == .running then resumeCmd n tid 0x33 fun _ => settle (harvestGo tid 8 n)
    else if harvestBehind n c then n
    else startCmd n tid 0x33 fun c => settle (f n c)

/-- HARVEST_MERGE. -/
def execHarvestMerge (tid : Nat) (s : State) : Host.Outcome State Fault Refusal :=
  .next (onNode s (harvest tid 0 fun n c => startHarvest n tid c false))

/-- HARVEST_COMPACT. -/
def execHarvestCompact (tid : Nat) (s : State) : Host.Outcome State Fault Refusal :=
  .next (onNode s (harvest tid 1 fun n c => startHarvest n tid c true))

/-- HARVEST_INIT. -/
def execHarvestInit (tid : Nat) (s : State) : Host.Outcome State Fault Refusal :=
  .next (onNode s (harvest tid 2 fun n c => startInit n tid c))

end Sys2Proof.Machine
end

