-- ==== Sys2Proof/Machine/Coordinate.lean ====
section
/-! DEFINITION. Coordinated queries: dispatching the shards and merging their lists (R356–R358, R360–R364). -/

namespace Sys2Proof.Machine

/-- The node with a coordinated query replaced. -/
def setCoord (n : Node) (tid : Nat) (r : Coord) : Node := { n with srch := { n.srch with coords := Tbl.put n.srch.coords tid r } }

/-- MCNT of a coordinated query. -/
def mergeCounter (c : Cmd) : Nat := fieldOf (dword c 7) 63 48

/-- A shard of the table (R356). -/
def shardOf (bs : Bytes) : CoordShard :=
  let ws := bytesToWords 2 bs
  { hdr := fieldOf (wordAt ws 0) 56 0, slotPva := fieldOf (wordAt ws 1) 56 0, rlog2 := fieldOf (wordAt ws 1) 63 60, home := 0, gen := 0,
    moved := 0, failed := none, slot := [] }

/-- The shard in hand changed. -/
def Coord.withShard (r : Coord) (i : Nat) (f : CoordShard → CoordShard) : Coord :=
  { r with shards := r.shards.modify i f }

/-- K of the query. -/
def coordK (r : Coord) : Nat := (r.query.map (·.k)).getD 0

/-- First byte of a shard's scratch slot (R358). -/
def scratchPva (c : Cmd) (r : Coord) (i : Nat) : Nat := (dword c 5).toNat + i * slotSize (coordK r)

/-- The map generation that a shard's route comes from. -/
def usedGen (n : Node) (ctx pva gen : Nat) : Nat :=
  if !mapNewer gen (curGen n ctx) && (entryFor (((slotOf n ctx).map (·.kept)).getD []) pva).isSome then curGen n ctx
  else ((Tbl.find? n.ctxs.images ctx).map (·.gen)).getD 0

/-! ### Dispatching (R360 steps 2 and 3) -/

/-- The next shard to be dispatched: its slot is zeroed first. With none left, the query waits for MCNT. -/
def coordNext (n : Node) (tid : Nat) (c : Cmd) (r : Coord) : Node :=
  match r.todo with
  | [] => setCoord n tid { r with stage := 8 }
  | i :: rest =>
    startWrite (setCoord n tid { r with stage := 3, shard := i, todo := rest }) tid (cmdCtx c) (scratchPva c r i)
      (List.replicate (slotSize (coordK r)) 0)

/-- The shard in hand has failed at the coordinator. -/
def coordFail (n : Node) (tid : Nat) (c : Cmd) (r : Coord) (status : Nat) : Node :=
  coordNext n tid c (r.withShard r.shard fun s => { s with failed := some status })

/-- The descriptor of a shard query. -/
def shardDescriptor (n : Node) (c : Cmd) (r : Coord) (s : CoordShard) (phase : Nat) : List Word :=
  let tag := cmdTag c % 65536 * 65536 + r.shard
  [wordOf (0x30 + phase * 2 ^ 8 + cmdCtx c * 2 ^ 16 + tag * 2 ^ 32), 0, wordOf (mergeCounter c + n.nodeId * 2 ^ 16 + 2 ^ 32),
   dword c 3, wordOf (scratchPva c r r.shard), 0, wordOf s.hdr, wordOf (1 + r.shard * 2 ^ 16)]

/-- Routes the shard in hand. One homed here runs without a ring slot. -/
def coordRoute (n : Node) (tid : Nat) (c : Cmd) (r : Coord) : Node :=
  let ctx := cmdCtx c
  match r.shards[r.shard]? with
  | none => coordNext n tid c r
  | some s =>
    match engRoute n ctx s.hdr s.gen with
    | .wait => engFetch (setCoord n tid { r with stage := 4 }) ctx
    | .nowhere => coordFail n tid c r stDenied
    | .lost => coordFail n tid c r stAborted
    | .home h =>
      let next := (usedGen n ctx s.hdr s.gen + 1) % 2 ^ 32
      let r := r.withShard r.shard fun s => { s with home := h, gen := next }
      if h = n.nodeId then
        let n := addOwnCmd n (ownCmd n ctx c.region (shardDescriptor n c r s 0))
        coordNext n tid c { r with expected := r.expected + 1 }
      else startAdd (setCoord n tid { r with stage := 5 }) tid ctx s.slotPva

/-- The ATOMIC has answered: the descriptor goes into its ring slot. -/
def coordWrite (n : Node) (tid : Nat) (c : Cmd) (r : Coord) (s : CoordShard) (v : Nat) : Node :=
  let ds := shardDescriptor n c r s (1 - v / 2 ^ s.rlog2 % 2)
  startCtrl (setCoord n tid { r with stage := 6, prior := v }) tid (cmdCtx c) s.home
    (0x200000000 + 0x10000 * cmdCtx c + 64 * (v % 2 ^ s.rlog2)) (wordsToBytes ds)

/-- The descriptor is written: the doorbell follows. Its tail hint is the slot after the descriptor's. -/
def coordDoorbell (n : Node) (tid : Nat) (c : Cmd) (r : Coord) (s : CoordShard) : Node :=
  startCtrl (setCoord n tid { r with stage := 7 }) tid (cmdCtx c) s.home (0x1000 * (cmdCtx c + 1) + 0x10)
    (leBytes 8 ((r.prior + 1) % 2 ^ s.rlog2))

/-! ### Merging (R361) -/

/-- The status of a shard: its own, once its slot says DONE. -/
def shardStatus (s : CoordShard) : Nat :=
  match s.failed with
  | some st => st
  | none =>
    let w := numAt s.slot 0 8
    if w / 256 % 2 = 0 then stInternal else w % 256

/-- A shard answered OK or PARTIAL. -/
def shardAnswered (s : CoordShard) : Bool := shardStatus s == stOK || shardStatus s == stPartial

/-- An entry of a result list. -/
structure MergedHit where
  hit : Hit
  shard : Nat
  deriving DecidableEq, Repr

/-- The order of R358. -/
def mergedLe (a b : MergedHit) : Bool :=
  decide (a.hit.dist < b.hit.dist) || (a.hit.dist == b.hit.dist && (decide (a.hit.id < b.hit.id) ||
    (a.hit.id == b.hit.id && decide (a.shard ≤ b.shard))))

/-- Puts an entry in its place. -/
def putMerged (x : MergedHit) : List MergedHit → List MergedHit
  | [] => [x]
  | h :: rest => if mergedLe h x then h :: putMerged x rest else x :: h :: rest

/-- The entries of a scratch slot. -/
def slotHits (k : Nat) (s : CoordShard) : List MergedHit :=
  (List.range (min k (numAt s.slot 2 2 % 2048))).map fun i =>
    let w := wordOf (numAt s.slot (64 + 16 * i + 8) 8)
    { hit := { dist := fieldOf w 12 0, id := numAt s.slot (64 + 16 * i) 8, attr := fieldOf w 63 32 }, shard := fieldOf w 27 16 }

/-- The first K entries of every slot that answered. -/
def mergedHits (r : Coord) : List MergedHit :=
  let k := coordK r
  (r.shards.filter shardAnswered).foldl (fun l s => ((slotHits k s).foldl (fun l x => putMerged x l) l).take k) []

/-- The sum over the slots that answered. -/
def slotSum (r : Coord) (f : Bytes → Nat) : Nat := ((r.shards.filter shardAnswered).map fun s => f s.slot).foldl (· + ·) 0

/-- NOK. -/
def coordOk (r : Coord) : Nat := (r.shards.filter shardAnswered).length

/-- The final STATUS. -/
def coordStatus (r : Coord) : Nat :=
  if r.shards.all fun s => shardStatus s == stOK then stOK
  else if r.shards.any shardAnswered then stPartial
  else ((r.shards.head?).map shardStatus).getD stInternal

/-- The final list's header. -/
def finalHeader (r : Coord) : Bytes :=
  let hits := mergedHits r
  wordsToBytes [wordOf (coordStatus r + 2 ^ 8 + hits.length * 2 ^ 16 + coordOk r * 2 ^ 32),
    wordOf (slotSum r fun b => numAt b 8 8), wordOf (slotSum r fun b => numAt b 16 8), 0,
    wordOf (r.shards.length - coordOk r + (slotSum r fun b => numAt b 36 4) * 2 ^ 32), 0, 0, 0]

/-- The result list is written: entries, then header. -/
def coordResult (n : Node) (tid : Nat) (c : Cmd) (r : Coord) : Node :=
  let hits := mergedHits r
  let res := (dword c 4).toNat
  if hits.isEmpty then startWrite (setCoord n tid { r with stage := 11 }) tid (cmdCtx c) res (finalHeader r)
  else
    startWrite (setCoord n tid { r with stage := 10 }) tid (cmdCtx c) (res + 64)
      (hits.flatMap fun h => hitBytes h.shard [h.hit])

/-- Slots are read in order; then shards that answered MOVED, fewer than eight times, go out again (R362), or the lists are
merged. -/
def coordReadFrom (n : Node) (tid : Nat) (c : Cmd) (r : Coord) : List Nat → Node
  | [] =>
    let again := (List.range r.shards.length).filter fun i =>
      ((r.shards[i]?).map fun s => s.failed.isNone && shardStatus s == stMoved && decide (s.moved < 7)).getD false
    if again.isEmpty then coordResult n tid c r
    else
      let r := again.foldl (fun (r : Coord) i => r.withShard i fun s => { s with moved := s.moved + 1, slot := [] }) r
      coordNext n tid c { r with todo := again }
  | i :: rest =>
    match r.shards[i]? with
    | none => coordReadFrom n tid c r rest
    | some s =>
      if s.failed.isSome || !s.slot.isEmpty then coordReadFrom n tid c r rest
      else startRead (setCoord n tid { r with stage := 9, shard := i }) tid (cmdCtx c) (scratchPva c r i) (slotSize (coordK r))

/-- The slots that are not yet read are read. -/
def coordRead (n : Node) (tid : Nat) (c : Cmd) (r : Coord) : Node := coordReadFrom n tid c r (List.range r.shards.length)

/-- The coordinated query completes. -/
def coordEnd (n : Node) (tid : Nat) (r : Coord) : Node :=
  endIndexCmd n tid (coordStatus r)
    (wordOf (if coordK r = 0 then slotSum r fun b => numAt b 8 8 else (mergedHits r).length))
    (wordOf (coordOk r + (r.shards.length - coordOk r) * 2 ^ 32))

/-! ### Running -/

/-- A transfer of a coordinated query has ended. -/
def coordIoDone (n : Node) (tid : Nat) (c : Cmd) (r : Coord) (io : EngIo) (status : Nat) : Node :=
  let n := dropIo n tid
  let s := r.shards[r.shard]?
  if r.stage = 1 then
    if status != stOK then endIndexCmd n tid status 0 0
    else if queryBad io.data true then endIndexCmd n tid stInvalid 0 0
    else
      let q := queryBlockOf io.data
      startRead (setCoord n tid { r with query := some q, stage := 2 }) tid (cmdCtx c) q.shardPva (16 * q.nshard)
  else if r.stage = 2 then
    if status != stOK then endIndexCmd n tid status 0 0
    else
      let count := io.data.length / 16
      let k := mergeCounter c
      let n := evalCounter (setCounter n k { counterOf n k with value := 0, bytes := false, err := false }) k none
      coordNext n tid c { r with shards := (List.range count).map fun i => shardOf (io.data.drop (16 * i)), todo := List.range count }
  else if r.stage = 3 then (if status != stOK then endIndexCmd n tid status 0 0 else coordRoute n tid c { r with stage := 4 })
  else if r.stage = 5 then
    (match s with
     | some x => if status = stOK then coordWrite n tid c r x (numAt io.data 0 8) else coordFail n tid c r status
     | none => coordNext n tid c r)
  else if r.stage = 6 then
    (match s with
     | some x => if status = stOK then coordDoorbell n tid c r x else coordFail n tid c r status
     | none => coordNext n tid c r)
  else if r.stage = 7 then
    (if status = stOK then coordNext n tid c { r with expected := r.expected + 1 } else coordFail n tid c r status)
  else if r.stage = 9 then
    (if status = stOK then coordRead n tid c (r.withShard r.shard fun s => { s with slot := io.data })
     else coordRead n tid c (r.withShard r.shard fun s => { s with failed := some status }))
  else if r.stage = 10 then
    (if status = stOK then startWrite (setCoord n tid { r with stage := 11 }) tid (cmdCtx c) (dword c 4).toNat (finalHeader r)
     else endIndexCmd n tid status 0 0)
  else if status = stOK then coordEnd n tid r
  else endIndexCmd n tid status 0 0

/-- A running coordinated query goes on. -/
def coordGo (n : Node) (tid : Nat) : Node :=
  match cmdOf n tid, Tbl.find? n.srch.coords tid with
  | some c, some r =>
    match ioOf n tid with
    | some io => (match io.status with
      | some st => coordIoDone n tid c r io st
      | none => ioGo n tid)
    | none => if r.stage = 4 then coordRoute n tid c r else n
  | _, _ => n

/-- The words of a SEARCH with SUB 0 are malformed (R357). -/
def coordReserved (c : Cmd) : Bool :=
  cmdCtx c == 0 || pvaBad (dword c 3) || (dword c 3).toNat % 64 != 0 || pvaBad (dword c 4) || (dword c 4).toNat % 64 != 0 ||
  pvaBad (dword c 5) || (dword c 5).toNat % 64 != 0 || dword c 6 != 0 || fieldOf (dword c 7) 47 1 != 0

/-- SEARCH with SUB 0: at most 256 run at once, and the next waits (R365). Given again, the row carries on a query that has
started. -/
def searchCoordinated (tid : Nat) (n : Node) : Node :=
  match cmdOf n tid with
  | none => n
  | some c =>
    if bitOf (dword c 7) 0 then n
    else if c.phase == .running then resumeCmd n tid 0x30 fun _ => settle (goOn coordGo tid 8 n)
    else
      startCmd n tid 0x30 fun c =>
        if 256 ≤ n.srch.coords.length then n
        else
          checked n tid c (coordReserved c) [((counterOf n (mergeCounter c)).owner != cmdCtx c, stDenied)] fun _ =>
            let r : Coord := { query := none, shards := [], stage := 1, shard := 0, todo := [], expected := 0, prior := 0 }
            let n := setCoord (runStage n tid 1 []) tid r
            settle (goOn coordGo tid 8 (startRead n tid (cmdCtx c) (dword c 3).toNat 64))

/-- SEARCH_COORDINATED. -/
def execSearchCoordinated (tid : Nat) (s : State) : Host.Outcome State Fault Refusal := .next (onNode s (searchCoordinated tid))

/-- COORDINATOR_MERGE: MCNT shows every dispatch done, so the slots are read, and then merged. -/
def coordinatorMerge (tid : Nat) (n : Node) : Node :=
  resumeCmd n tid 0x30 fun c =>
    match Tbl.find? n.srch.coords tid with
    | none => n
    | some r =>
      if r.stage = 8 && decide (r.expected ≤ (counterOf n (mergeCounter c)).value) then
        settle (goOn coordGo tid 8 (coordRead n tid c r))
      else settle (goOn coordGo tid 8 n)

/-- COORDINATOR_MERGE. -/
def execCoordinatorMerge (tid : Nat) (s : State) : Host.Outcome State Fault Refusal := .next (onNode s (coordinatorMerge tid))

/-- A module is declared lost: shards dispatched to it that the coordinator still waits for count as failed (R361). -/
def coordsLost (n : Node) (lost : Nat) : Node :=
  n.srch.coords.foldl (fun n e =>
    let r := e.2
    let hit := fun (s : CoordShard) => s.home == lost && s.failed.isNone && s.slot.isEmpty
    let inHand := if decide (3 ≤ r.stage ∧ r.stage ≤ 7) then some r.shard else none
    let gone := (List.range r.shards.length).filter fun i =>
      some i != inHand && !r.todo.contains i && ((r.shards[i]?).map hit).getD false
    if r.stage < 3 || 9 ≤ r.stage then n
    else
      let r := gone.foldl (fun (r : Coord) i => r.withShard i fun s => { s with failed := some stAborted }) r
      setCoord n e.1 { r with expected := r.expected - gone.length }) n

end Sys2Proof.Machine
end

