-- ==== Sys2Proof/Machine/Bridge.lean ====
section
/-! DEFINITION. The host bridge: host requests through its windows, snoops of the host, its loss, its windows' commits and the
notification window (R57, R193–R200, R420, R421). -/

namespace Sys2Proof.Machine

/-- The node with its bridge changed. -/
def onBridge (n : Node) (f : Bridge → Bridge) : Node := { n with bridge := f n.bridge }

/-- Something is sent to the host. -/
def toHost (n : Node) (name : String) (addr : Nat) (data : Bytes) : Node := emit n (.host name addr data)

/-- Requests of the host that no window takes, discarded writes, and unknown requests are counted and logged (R194, R198, R200). -/
def countHost (n : Node) (kind a : Nat) : Node :=
  bump (logEvent n { otherEvent 6 (30 + kind) with node := bridgeId n, data0 := a }) (0x139000 + 8 * (if kind = 2 then 1 else if kind = 0 then 0 else 2)) 1

/-! ### Windows (R198) -/

/-- Bytes of a window. -/
def winSize (w : BridgeWin) : Nat := fieldOf w.cfg 63 48 * 2 ^ 28
/-- DPA_BASE. -/
def winDpa (w : BridgeWin) : Nat := fieldOf w.dpa 43 0
/-- PVA_BASE. -/
def winPva (w : BridgeWin) : Nat := fieldOf w.pva 56 0
/-- CTX. -/
def winCtx (w : BridgeWin) : Nat := fieldOf w.cfg 31 16
/-- EPOCH. -/
def winEpoch (w : BridgeWin) : Nat := fieldOf w.cfg 47 32

/-- The enabled window that holds a DPA; a bridge without a node has none. -/
def windowFor (n : Node) (dpa : Nat) : Option BridgeWin :=
  if bridgeId n = 0 then none
  else n.bridge.wins.toList.find? fun w => bitOf w.cfg 0 && decide (winDpa w ≤ dpa ∧ dpa < winDpa w + winSize w)

/-- The PVA of a DPA. -/
def pvaFor (w : BridgeWin) (dpa : Nat) : Nat := winPva w + (dpa - winDpa w)

/-- The enabled window that maps to a context's PVA. -/
def windowTo (n : Node) (ctx pva : Nat) : Option BridgeWin :=
  n.bridge.wins.toList.find? fun w => bitOf w.cfg 0 && winCtx w == ctx && decide (winPva w ≤ pva ∧ pva < winPva w + winSize w)

/-! ### Requests for the host (R194) -/

/-- A host request that is not sent, or that fails: a read gets poisoned data, a write its Cmp. -/
def hostFails (n : Node) (tag : Nat) (owed : HostOwed) : Node :=
  match owed with
  | .readAny | .readShared | .readPlain => toHost (toHost n "MemData, poisoned" tag []) "Cmp" tag []
  | .evict | .write => toHost n "Cmp" tag []

/-- A write of the host is answered once no other part of it is left. -/
def hostWritten (n : Node) (tag : Nat) : Node :=
  if n.bridge.reqs.any fun r => r.hostTag == tag then n else toHost n "Cmp" tag []

/-- The bridge's request leaves its list. -/
def dropHostReq (n : Node) (r : HostReq) : Node := onBridge n fun b => { b with reqs := b.reqs.filter (· != r) }

/-- A host request that cannot be sent ends. -/
def refuseHost (n : Node) (r : HostReq) (kind : Nat) : Node :=
  let n := dropHostReq (countHost n kind r.pkt.pva.toNat) r
  if r.owed = .write || r.owed = .evict then hostWritten n r.hostTag else hostFails n r.hostTag r.owed

/-- The query about a store whose home was lost (R421). -/
def askAdopted (n : Node) (r : HostReq) (h : Nat) : Node :=
  let q := mgtPacket n h 0xB1 [wordOf (r.lostHome + 2 ^ 16), wordOf r.pkt.seq.toNat]
  let n := sendPacket n { q with src := BitVec.ofNat 16 (bridgeId n) } .protocol
  onBridge n fun b => { b with reqs := b.reqs.map fun x => if x = r then { r with asked := true } else x }

/-- Routes a request of the bridge and sends it; without a map it waits for one (R198, R624). -/
def routeHost (n : Node) (r : HostReq) : Node :=
  let ctx := r.pkt.ctx.toNat
  match engRoute n ctx r.pkt.pva.toNat r.pkt.mapgen.toNat with
  | .wait => engFetch n ctx
  | .nowhere => refuseHost n r 0
  | .lost => refuseHost n r 0
  | .home h =>
    if r.lostHome != 0 then (if h = r.lostHome || r.asked then n else askAdopted n r h)
    else
      let b := bridgeId n
      let p := { r.pkt with dst := BitVec.ofNat 16 h, src := BitVec.ofNat 16 b, mapgen := BitVec.ofNat 32 (knownGen n ctx) }
      let p := { p with seq := BitVec.ofNat 32 (nextSeq n b h p.cls.toNat) }
      let n := sendPacket n p .protocol
      onBridge n fun b => { b with reqs := b.reqs.map fun x => if x = r then { r with pkt := p } else x }

/-- A new request of the bridge. -/
def askHost (n : Node) (tag : Nat) (owed : HostOwed) (p : Packet) : Node :=
  let r : HostReq := { hostTag := tag, owed := owed, pkt := p, lostHome := 0, asked := false }
  routeHost (onBridge n fun b => { b with reqs := b.reqs ++ [r] }) r

/-- A packet of the bridge through a window, not yet addressed. -/
def hostPacket (w : BridgeWin) (cls opcode pva : Nat) : Packet :=
  { blankPacket 0 0 cls opcode with
    ctx := BitVec.ofNat 16 (winCtx w), epoch := BitVec.ofNat 16 (winEpoch w), pva := wordOf pva }

/-- A caching read: a READ of the line (R176). -/
def hostCaching (w : BridgeWin) (pva : Nat) : Packet := { hostPacket w 0 1 pva with len := 64 }

/-- A non-caching read: a TILE_READ of one row of 64 INT8 elements, which no home takes for a caching read (R176). -/
def hostPlain (w : BridgeWin) (pva : Nat) : Packet :=
  { hostPacket w 0 4 pva with op5 := wordOf (0xA + 0xA * 2 ^ 4 + 2 ^ 16 + 64 * 2 ^ 32), op6 := 64 }

/-- The host's requests are served: the bridge has not declared its host lost. -/
def hostServed (n : Node) : Bool := accepting n && n.bridge.hostUp

/-- A host request whose DPA no window holds (R198). -/
def unmapped (n : Node) (m : HostM2S) (owed : HostOwed) : Node := hostFails (countHost n 0 m.dpa.toNat) m.tag.toNat owed

/-- MemRd and MemRdData. -/
def hostRead (m : HostM2S) (n : Node) : Node :=
  if !hostServed n then n
  else
    let owed : HostOwed := if m.meta_ = 2 then .readAny else if m.meta_ = 3 then .readShared else .readPlain
    let dpa := m.dpa.toNat / 64 * 64
    match windowFor n dpa with
    | none => unmapped n m owed
    | some w =>
      let pva := pvaFor w dpa
      askHost n m.tag.toNat owed (if owed = .readPlain then hostPlain w pva else hostCaching w pva)

/-- HOST_MEMRD. -/
def execHostMemrd (m : HostM2S) (_dataOnly : Bool) (s : State) : Host.Outcome State Fault Refusal := .next (onNode s (hostRead m))

/-- The host holds a line in E or M, as the bridge has recorded it. -/
def hostOwns (n : Node) (ctx pva : Nat) : Bool := n.bridge.holds.contains (pva, ctx, true)

/-- The host no longer holds a line. -/
def hostDrops (n : Node) (ctx pva : Nat) : Node :=
  onBridge n fun b => { b with holds := b.holds.filter fun h => !(h.1 == pva && h.2.1 == ctx) }

/-- The host holds a line, in E or in S. -/
def hostTakes (n : Node) (ctx pva : Nat) (excl : Bool) : Node :=
  onBridge (hostDrops n ctx pva) fun b => { b with holds := b.holds ++ [(pva, ctx, excl)] }

/-- MemWr: data for a snoop under way, a WB_EVICT from the recorded holder, or a WRITE. -/
def hostWrite (m : HostM2S) (n : Node) : Node :=
  if !hostServed n then n
  else
    let dpa := m.dpa.toNat / 64 * 64
    let tag := m.tag.toNat
    let data := sliceOf m.data 0 64
    match windowFor n dpa with
    | none => unmapped n m .write
    | some w =>
      let pva := pvaFor w dpa
      let ctx := winCtx w
      if n.bridge.snoops.any fun s => s.fwd.ctx.toNat == ctx && s.fwd.pva.toNat == pva && s.fwd.opcode != 0x40 then
        let n := onBridge n fun b => { b with snoops := b.snoops.map fun s =>
          if s.fwd.ctx.toNat == ctx && s.fwd.pva.toNat == pva then { s with dirty := some data } else s }
        toHost n "Cmp" tag []
      else if m.meta_ = 0 && hostOwns n ctx pva then askHost n tag .evict (withPayload (hostPacket w 3 0x68 pva) data)
      else askHost n tag .write (withPayload (hostPacket w 0 2 pva) data)

/-- HOST_MEMWR. -/
def execHostMemwr (m : HostM2S) (s : State) : Host.Outcome State Fault Refusal := .next (onNode s (hostWrite m))

/-- Contiguous runs of enabled bytes: first byte and length. -/
def enabledRuns (e : BitVec 64) : List (Nat × Nat) :=
  (List.range 64).foldr (fun i runs =>
    if !e.getLsbD i then runs
    else match runs with
      | (a, k) :: rest => if a = i + 1 then (i, k + 1) :: rest else (i, 1) :: runs
      | [] => [(i, 1)]) []

/-- MemWrPtl: one WRITE for each run of enabled bytes. -/
def hostPartial (m : HostM2S) (n : Node) : Node :=
  if !hostServed n then n
  else
    let dpa := m.dpa.toNat / 64 * 64
    match windowFor n dpa with
    | none => unmapped n m .write
    | some w =>
      let runs := enabledRuns m.enables
      if runs.isEmpty then toHost n "Cmp" m.tag.toNat []
      else runs.foldl (fun n r =>
        askHost n m.tag.toNat .write (withPayload (hostPacket w 0 2 (pvaFor w dpa + r.1)) (sliceOf m.data r.1 r.2))) n

/-- HOST_MEMWRPTL. -/
def execHostMemwrptl (m : HostM2S) (s : State) : Host.Outcome State Fault Refusal := .next (onNode s (hostPartial m))

/-- HOST_MEMSPECRD: dropped. -/
def execHostMemspecrd (_m : HostM2S) (s : State) : Host.Outcome State Fault Refusal := .next s

/-- HOST_OTHER_M2S: completed with Cmp and logged; no line changes. -/
def execHostOtherM2s (m : HostM2S) (opcode : BitVec 4) (s : State) : Host.Outcome State Fault Refusal :=
  .next (onNode s fun n => if hostServed n then toHost (countHost n 1 opcode.toNat) "Cmp" m.tag.toNat [] else n)

/-! ### Answers to the bridge's requests -/

/-- The request that a response answers. -/
def hostReqFor (n : Node) (p : Packet) : Option HostReq :=
  n.bridge.reqs.find? fun r => r.pkt.dst == p.src && r.pkt.seq.toNat == reqSeq p &&
    (if r.owed = .evict then p.opcode == 0x69 else p.opcode == r.pkt.opcode)

/-- Data for the host: MemData, then the completion that its grant gives (R194). -/
def hostData (n : Node) (r : HostReq) (p : Packet) : Node :=
  let ctx := r.pkt.ctx.toNat
  let pva := r.pkt.pva.toNat
  let grant := if r.pkt.opcode = 1 then fieldOf p.op5 35 32 else 0
  let n := if grant = 2 then hostTakes n ctx pva true else if grant = 1 then hostTakes n ctx pva false else n
  let n := toHost n "MemData" r.hostTag (sliceOf (payloadOf p) 0 64)
  toHost n (if r.owed = .readPlain || grant = 0 then "Cmp" else if r.owed = .readAny && grant = 2 then "Cmp-E" else "Cmp-S") r.hostTag []

/-- A request goes out again, to the home that a newer map names (R420). -/
def reroute (n : Node) (r : HostReq) (gen : Nat) : Node :=
  let r' := { r with pkt := { r.pkt with dst := 0, mapgen := BitVec.ofNat 32 gen }, lostHome := 0, asked := false }
  routeHost (onBridge n fun b => { b with reqs := b.reqs.map fun x => if x = r then r' else x }) r'

/-- An answer to a request of the bridge that is still owed to its host. -/
def hostAnswered (n : Node) (r : HostReq) (p : Packet) : Node :=
  let st := p.status.toNat
  if st = stMoved then reroute n r (newerGen r.pkt.mapgen.toNat p.mapgen.toNat)
  else match r.owed with
    | .write => hostWritten (dropHostReq n r) r.hostTag
    | .evict =>
      if st = stDenied then onBridge n fun b => { b with reqs := b.reqs.map fun x => if x = r then { r with asked := true } else x }
      else hostWritten (dropHostReq (hostDrops n r.pkt.ctx.toNat r.pkt.pva.toNat) r) r.hostTag
    | _ => if st = stOK then hostData (dropHostReq n r) r p else hostFails (dropHostReq n r) r.hostTag r.owed

/-- The promoted home says what became of a store (R421). -/
def hostAdopted (n : Node) (r : HostReq) (p : Packet) : Node :=
  let was := fieldOf (wordOf (numAt (payloadOf p) 0 8)) 39 32
  if was = stRetry || was = stStaleSeq then reroute n r r.pkt.mapgen.toNat
  else hostWritten (dropHostReq n r) r.hostTag

/-- A response to a request of the bridge. WB_ACK answers a WB_EVICT, which stands on no list of REQs; refused with RETRY, it goes
again with its SEQ (R399). -/
def bridgeResponse (p : Packet) (n : Node) : Node :=
  if bridgeId n = 0 || p.dst.toNat != bridgeId n || !accepting n then n
  else
    let a := present n p
    if !a.2 then a.1
    else if p.opcode = 0xB2 then
      match a.1.bridge.reqs.find? fun r => r.lostHome != 0 && r.asked && numAt (payloadOf p) 0 4 == r.pkt.seq.toNat with
      | some r => hostAdopted (settleSent a.1 p) r p
      | none => a.1
    else
      let n := if p.opcode = 0x69 then a.1 else settleSent a.1 p
      if p.status.toNat = stRetry && p.opcode != 0x69 then n
      else match hostReqFor n p with
        | some r => if p.status.toNat = stRetry then transmit n r.pkt else hostAnswered n r p
        | none => n

/-- BRIDGE_REQUEST_RESPONSE. -/
def execBridgeRequestResponse (p : Packet) (s : State) : Host.Outcome State Fault Refusal := .next (onNode s (bridgeResponse p))

/-- Requests that waited for a map go on. -/
def bridgeGo (n : Node) : Node :=
  (n.bridge.reqs.filter fun r => r.pkt.dst = 0 || r.lostHome != 0).foldl routeHost n

/-- A home is declared lost: the bridge's reads of it go elsewhere, and of its stores the outcome is asked for. A WB_EVICT goes out
again as a WRITE. -/
def bridgeLost (n : Node) (lost : Nat) : Node :=
  (n.bridge.reqs.filter fun r => r.pkt.dst.toNat == lost && r.lostHome == 0).foldl (fun n r =>
    let gen := (knownGen n r.pkt.ctx.toNat + 1) % 2 ^ 32
    let r' := if r.owed = .write then { r with lostHome := lost, pkt := { r.pkt with mapgen := BitVec.ofNat 32 gen } }
      else if r.owed = .evict then
        { r with owed := .write, asked := false, pkt := { r.pkt with dst := 0, cls := 0, opcode := 2, mapgen := BitVec.ofNat 32 gen } }
      else { r with pkt := { r.pkt with dst := 0, mapgen := BitVec.ofNat 32 gen } }
    onBridge n fun b => { b with reqs := b.reqs.map fun x => if x = r then r' else x }) n

/-! ### Snoops of the host (R186, R195) -/

/-- The bridge's answer to a FWD packet (R185). -/
def answerSnoop (n : Node) (f : Packet) (opcode : Nat) (data : Option Bytes) : Node :=
  let epoch := ((windowTo n f.ctx.toNat f.pva.toNat).map winEpoch).getD 0
  let p := { blankPacket f.src.toNat f.dst.toNat (if data.isSome then 3 else 2) opcode with
    ctx := f.ctx, pva := f.pva, tag := f.tag, op5 := wordOf (f.seq.toNat + epoch * 2 ^ 32) }
  sendPacket (markAnswered n f) (match data with | some bs => withPayload p bs | none => p) .none

/-- The WB_EVICT of a line that awaits its WB_ACK, or was denied. -/
def evictOf (n : Node) (ctx pva : Nat) : Option HostReq :=
  n.bridge.reqs.find? fun r => r.owed = .evict && r.pkt.ctx.toNat == ctx && r.pkt.pva.toNat == pva

/-- A FWD packet to the bridge becomes a snoop of the host; while a WB_EVICT of the line is in flight it is answered WB_PENDING, and
data that a home denied goes back now. -/
def bridgeSnoop (p : Packet) (n : Node) : Node :=
  if bridgeId n = 0 || p.dst.toNat != bridgeId n || p.cls != 1 || !hostServed n then n
  else
    let a := present n p
    if !a.2 then a.1
    else
      let n := a.1
      let ctx := p.ctx.toNat
      let pva := p.pva.toNat
      match (if p.opcode = 0x40 then none else evictOf n ctx pva) with
      | some r =>
        if r.asked then hostWritten (dropHostReq (hostDrops (answerSnoop n p 0x61 (some (sliceOf (payloadOf r.pkt) 0 64))) ctx pva) r) r.hostTag
        else answerSnoop n p 0x64 none
      | none =>
        match windowTo n ctx pva with
        | none => answerSnoop n p 0x60 none
        | some w =>
          let n := onBridge n fun b => { b with snoops := b.snoops ++ [{ fwd := p, dirty := none }] }
          toHost n (if p.opcode = 0x42 then "BISnpData" else "BISnpInv") (winDpa w + (pva - winPva w)) []

/-- BRIDGE_FWD_SNOOP. -/
def execBridgeFwdSnoop (p : Packet) (s : State) : Host.Outcome State Fault Refusal := .next (onNode s (bridgeSnoop p))

/-- A BIRsp answers the oldest snoop of its line. A host keeps S only after BISnpData. -/
def hostBirsp (pva ctx : Nat) (shared : Bool) (dirty : Option Bytes) (n : Node) : Node :=
  match n.bridge.snoops.find? fun s => s.fwd.ctx.toNat == ctx && s.fwd.pva.toNat == pva with
  | none => n
  | some s =>
    if !hostServed n then n
    else
      let keeps := shared && s.fwd.opcode == 0x42
      let data := if s.fwd.opcode = 0x40 then none else (match dirty with | some d => some (sliceOf d 0 64) | none => s.dirty)
      let n := onBridge n fun b => { b with snoops := b.snoops.erase s }
      let n := if keeps then hostTakes n ctx pva false else hostDrops n ctx pva
      answerSnoop n s.fwd (if data.isSome then (if keeps then 0x63 else 0x61) else if keeps then 0x62 else 0x60) data

/-- HOST_BIRSP. -/
def execHostBirsp (pva : Word) (ctx : BitVec 16) (shared : Bool) (dirty : Option Bytes) (s : State) :
    Host.Outcome State Fault Refusal := .next (onNode s (hostBirsp pva.toNat ctx.toNat shared dirty))

/-- HOST_BICONFLICT: answered BIConflictAck. -/
def execHostBiconflict (tag : BitVec 16) (s : State) : Host.Outcome State Fault Refusal :=
  .next (onNode s fun n => if hostServed n then toHost n "BIConflictAck" tag.toNat [] else n)

/-! ### Losing the host (R196) -/

/-- The bridge declares its host lost, reports its node, and stops. -/
def loseHost (n : Node) : Node :=
  if bridgeId n = 0 || !hostServed n then n
  else
    let n := logEvent n { otherEvent 6 33 with node := bridgeId n }
    reportNode (onBridge n fun b => { b with hostUp := false, reqs := [], snoops := [], holds := [] }) (bridgeId n)

/-- BRIDGE_HOST_LOST. -/
def execBridgeHostLost (s : State) : Host.Outcome State Fault Refusal := .next (onNode s loseHost)

/-- BISNP_TIMEOUT: a snoop has stayed unanswered. -/
def execBisnpTimeout (s : State) : Host.Outcome State Fault Refusal :=
  .next (onNode s fun n => if n.bridge.snoops.isEmpty then n else loseHost n)

/-- The host has enumerated the bridge again: it starts every pair over, and joins again (R122, R196, R413). -/
def reenumerate (n : Node) : Node :=
  if bridgeId n = 0 || n.bridge.hostUp || !accepting n then n
  else
    let b := bridgeId n
    let own := fun (k : Nat) => k / 65536 == b
    let n := { n with prs := { n.prs with
      incarnation := (n.prs.incarnation + 1) % 2 ^ 32
      pairs := n.prs.pairs.filter fun e => !own e.1 } }
    joinBridge (onBridge n fun b => { b with hostUp := true })

/-- BRIDGE_HOST_REENUMERATE. -/
def execBridgeHostReenumerate (s : State) : Host.Outcome State Fault Refusal := .next (onNode s reenumerate)

/-! ### Notifications (R57, R200) -/

/-- A vector is sent, or pends while it is masked. -/
def raiseVector (n : Node) (v : Nat) : Node :=
  if n.bridge.masked.contains v then
    onBridge n fun b => { b with pendingVec := if b.pendingVec.contains v then b.pendingVec else b.pendingVec ++ [v] }
  else emit n (.msix v)

/-- A CMP write to the bridge's node. -/
def notifyWrite (p : Packet) (n : Node) : Node :=
  if bridgeId n = 0 || p.dst.toNat != bridgeId n || p.cls != 4 || !accepting n then n
  else
    let a := present n p
    if !a.2 then a.1
    else
      let n := a.1
      let addr := p.pva.toNat
      let ok := addr % 32 == 0 && decide (addr < 65536) && p.len == 32 && hasPayload p && bitOf n.bridge.ntfLive.1 0
      let n := if ok then
          raiseVector (toHost n "memory write" (n.bridge.ntfLive.2.toNat + addr) (sliceOf (payloadOf p) 0 32)) (addr / 32)
        else countHost n 2 addr
      sendRsp n p stOK 0

/-- BRIDGE_NOTIFY_WRITE. -/
def execBridgeNotifyWrite (p : Packet) (s : State) : Host.Outcome State Fault Refusal := .next (onNode s (notifyWrite p))

/-- The host unmasks a vector: one that pends is sent. -/
def unmaskVector (v : Nat) (n : Node) : Node :=
  let due := n.bridge.pendingVec.contains v
  let n := onBridge n fun b => { b with masked := b.masked.filter (· != v), pendingVec := b.pendingVec.filter (· != v) }
  if due then emit n (.msix v) else n

/-- MSIX_VECTOR_UNMASK. -/
def execMsixVectorUnmask (v : Fin 2048) (s : State) : Host.Outcome State Fault Refusal := .next (onNode s (unmaskVector v.val))

/-! ### Windows and their commits (R199, R455–R460) -/

/-- A window of the bridge. -/
def winAt (n : Node) (i : Nat) : BridgeWin := getAt n.bridge.wins i BridgeWin.reset

/-- HB_WIN_SEL: the staging copy takes the selected window's values. -/
def selectWindow (w : Word) (n : Node) : Node :=
  let bad := fieldOf w 63 3 != 0
  let x := if bad then BridgeWin.reset else winAt n (fieldOf w 2 0)
  let st := if bad then putField n.bridge.winStat 2 2 1 else n.bridge.winStat
  onBridge n fun b => { b with winSel := w, winStage := (x.cfg, x.dpa, x.pva), winStat := putField st 31 16 x.gen }

/-- HB_WIN_SEL. -/
def execHbWinSel (w : Word) (s : State) : Host.Outcome State Fault Refusal := .next (onNode s (selectWindow w))

/-- A staged window may take the place of the selected one (R199). -/
def windowFits (n : Node) (i : Nat) (x : BridgeWin) : Bool :=
  fieldOf x.cfg 15 1 == 0 && fieldOf x.dpa 63 44 == 0 && fieldOf x.pva 63 57 == 0 &&
  (!bitOf x.cfg 0 ||
    (winCtx x != 0 && winSize x != 0 && decide (winDpa x + winSize x ≤ 2 ^ 44) && decide (winPva x + winSize x ≤ 2 ^ 57) &&
     winDpa x % 2 ^ 28 == 0 && winPva x % 2 ^ 21 == 0 &&
     (List.range 8).all fun j => j == i || !bitOf (winAt n j).cfg 0 ||
       !bytesMeet (winDpa x) (winSize x) (winDpa (winAt n j)) (winSize (winAt n j))))

/-- HB_WIN_COMMIT: an enabled window's map is subscribed to. -/
def commitWindow (w : Word) (n : Node) : Node :=
  if !bitOf w 0 then n
  else
    let i := fieldOf n.bridge.winSel 2 0
    let st := n.bridge.winStage
    let x : BridgeWin := { cfg := st.1, dpa := st.2.1, pva := st.2.2, gen := nextGen (winAt n i).gen }
    if fieldOf n.bridge.winSel 63 3 != 0 || !windowFits n i x then
      onBridge n fun b => { b with winStat := putField b.winStat 0 0 1 }
    else
      let n := onBridge n fun b => { b with wins := putAt b.wins i x, winStat := commitStatus b.winStat true x.gen }
      if bitOf x.cfg 0 && (Tbl.find? n.ctxs.images (winCtx x)).isNone then engFetch n (winCtx x) else n

/-- HB_WIN_COMMIT. -/
def execHbWinCommit (w : Word) (s : State) : Host.Outcome State Fault Refusal := .next (onNode s (commitWindow w))

/-- HB_NTF_COMMIT. -/
def commitNotify (w : Word) (n : Node) : Node :=
  if !bitOf w 0 then n
  else
    let st := n.bridge.ntfStage
    if fieldOf st.1 63 1 != 0 || (bitOf st.1 0 && fieldOf st.2 15 0 != 0) then
      onBridge n fun b => { b with ntfStat := putField b.ntfStat 0 0 1 }
    else onBridge n fun b => { b with ntfLive := st, ntfGen := nextGen b.ntfGen, ntfStat := commitStatus b.ntfStat true (nextGen b.ntfGen) }

/-- HB_NTF_COMMIT. -/
def execHbNtfCommit (w : Word) (s : State) : Host.Outcome State Fault Refusal := .next (onNode s (commitNotify w))

end Sys2Proof.Machine
end

