-- ==== Sys2Proof/Machine/Pushes.lean ====
section
/-! DEFINITION. Map images as they arrive: at keepers, at homes, at engines and the bridge; and the results of what this module
asked of keepers (R400, R401, R408–R411, R417, R424 step 8, R428). -/

namespace Sys2Proof.Machine

/-! ### At a keeper (R408–R410) -/

/-- The image of a context reaches one of its keepers: a joining keeper takes it and asks for its triple, or finds itself named;
another takes a generation it missed. -/
def pushToKeeper (n : Node) (m : MapImage) : Node :=
  match keptOf n m.ctx with
  | none => n
  | some k =>
    if k.joining then
      if m.keepers.contains n.nodeId then
        let n := setKept n m.ctx { k with image := m, joining := false, props := [], unstored := true }
        storeKept (k.props.foldl (fun n p => answerProposal n p stOK m.gen) n) m.ctx
      else
        let ks := k.image.keepers
        let n := setKept n m.ctx { k with image := { m with keepers := ks } }
        match leadKeeper n m.keepers with
        | some l => sendPacket n (mgtPacket n l 0x9B
            [wordOf m.ctx, wordOf (ks.getD 0 0 + ks.getD 1 0 * 2 ^ 16 + ks.getD 2 0 * 2 ^ 32)]) .protocol
        | none => n
    else if mapNewer m.gen k.image.gen then
      let acc := k.accepted.filter fun a => mapNewer a.gen m.gen
      storeKept (setKept n m.ctx { k with image := m, accepted := acc, unstored := true }) m.ctx
    else n

/-! ### At a home (R417) -/

/-- A range is given up: no chunk of it stays in a part, and its image copies are freed (R424). -/
def departRange (n : Node) (ctx : Nat) (r : Range) : Node :=
  let mine := fun (c : Nat) => inSpan r (c * 1024)
  let n := match slotOf n ctx with
    | some s => setSlot n ctx { s with ranges := Tbl.put s.ranges r.start { r with departed := true, arrivingFrom := 0, peer2 := 0 } }
    | none => n
  let had := Tbl.keysOf (n.sol.parts.filter fun p => p.2.chunks.any fun c => mine c.1)
  let n := { n with
    mem := { n.mem with cow := n.mem.cow.filter fun c => c.2.restored || !mine c.1 }
    sol := { n.sol with parts := Tbl.mapVals n.sol.parts fun p =>
      { p with chunks := p.chunks.filter fun c => !mine c.1, drained := p.drained.filter fun c => !mine c,
               draining := p.draining.filter fun c => !mine c } } }
  freeParts n (had.filter fun k => ((Tbl.find? n.sol.parts k).map fun p => (p.mirror || p.carried) && p.chunks.isEmpty).getD false)

/-- The mirror records of requests to a lost primary whose last forward never came are closed (R241). -/
def closeMirrorRecords (n : Node) (lost : Nat) : Node :=
  let close := fun (r : DedupeRec) => if r.status.isNone then { r with status := some stPartial, landed := r.carried, ovf := 0, nans := 0 } else r
  { n with prs := { n.prs with mirrorWins := n.prs.mirrorWins.map fun w =>
      if w.1 % 65536 = lost then (w.1, { w.2 with recs := Tbl.mapVals w.2.recs close }) else w } }

/-- A mirror part becomes a primary part: one that had not sealed fails with ABORTED, another drains again from its first chunk
(R400). -/
def promotePart (n : Node) (k : Nat) : Node :=
  match Tbl.find? n.sol.parts k with
  | none => n
  | some p =>
    let q := { p with mirror := false, srcs := [], drained := if p.state = 3 then drainChunks { p with mirror := false } else [],
                      draining := [], drainStopped := false, recFwds := [], followers := [] }
    let n := setPart n k q
    if p.state = 1 then failPart n k stAborted else n

/-- A mirror's ranges become the primary's: ROLE 0 and PEER_NODE 0 under new GENs (R401 step 3). -/
def promoteRanges (n : Node) (ctx : Nat) (rs : List Range) : Node :=
  let peers := (rs.map (·.peer)).eraseDups
  let n := rs.foldl (fun n r => restampRange n ctx { r with mirrorRole := false, peer := 0, peer2 := 0, arrivingFrom := 0 }) n
  let n := peers.foldl closeMirrorRecords n
  let hit := fun (p : Part) => p.mirror && p.chunks.any fun c => rs.any fun r => inSpan r (c.1 * 1024)
  (Tbl.keysOf (n.sol.parts.filter fun p => hit p.2)).foldl promotePart n

/-- The entry of an image that covers a range. -/
def entryOver (m : MapImage) (r : Range) : Option MapEntry :=
  m.entries.find? fun e => decide (e.start ≤ r.start ∧ r.start + rangeBytes r ≤ e.start + e.chunks * 2 ^ 21)

/-- The role that an entry gives a node: some false primary, some true mirror. -/
def roleIn (e : Option MapEntry) (node : Nat) : Option Bool :=
  match e with
  | none => none
  | some e => if e.lost then none else if e.primary = node then some false else if e.mirror = node then some true else none

/-- Forwards to an old mirror that a Leap has replaced count as answered. -/
def replaceMirror (n : Node) (ctx : Nat) (r : Range) (new : Nat) : Node :=
  let n := restampRange n ctx { r with peer := new }
  dropForwards n r.peer fun u => u.pkt.ctx.toNat == ctx && covers r u.pkt.pva.toNat

/-- What a pushed image does to one range. -/
def pushToRange (m : MapImage) (n : Node) (r : Range) : Node :=
  let ctx := m.ctx
  let e := entryOver m r
  let mirror := ((e.map (·.mirror)).getD 0)
  if r.departed then n
  else if r.arrivingFrom != 0 then
    if roleIn e n.nodeId = some r.mirrorRole then
      let peer := if r.mirrorRole then (e.map (·.primary)).getD 0 else mirror
      restampRange n ctx { r with arrivingFrom := 0, peer2 := 0, peer := peer }
    else n
  else
    match roleIn e n.nodeId with
    | none => departRange n ctx r
    | some false =>
      if r.mirrorRole then promoteRanges n ctx [r]
      else if mirror = 0 && r.peer != 0 then loseMirror n r.peer stOK fun c x => c == ctx && x.start == r.start
      else if mirror != r.peer && mirror != 0 && n.ml.outs.any fun l => l.2.asMirror && l.2.target == mirror && inLeap l.2 ctx r.start then
        replaceMirror n ctx r mirror
      else n
    | some true =>
      if !r.mirrorRole then departRange n ctx r
      else
        let p := (e.map (·.primary)).getD 0
        if p = r.peer2 && p != r.peer then restampRange n ctx { r with peer := p, peer2 := 0 } else n

/-- Ranges that are promoted together come first, so that a part over several of them is promoted once. -/
def pushPromotes (m : MapImage) (n : Node) (r : Range) : Bool :=
  !r.departed && r.arrivingFrom == 0 && r.mirrorRole && roleIn (entryOver m r) n.nodeId == some false

/-- A pushed image is applied for an active context: CUR_GEN, the keepers, the kept entries and every range. -/
def pushToHome (n : Node) (m : MapImage) : Node :=
  match slotOf n m.ctx with
  | none => n
  | some s =>
    if !mapNewer m.gen s.curGen then n
    else
      let names := fun (e : MapEntry) => e.primary == n.nodeId || e.mirror == n.nodeId
      let kept := m.entries.filter fun e => names e && s.ranges.any fun r => covers { r.2 with start := e.start, gran := e.chunks * 32 } r.1
      let n := setSlot n m.ctx { s with curGen := m.gen, keepers := m.keepers, kept := kept }
      let up := (rangesOf n m.ctx).filter (pushPromotes m n)
      let n := if up.isEmpty then n else promoteRanges n m.ctx up
      (rangesOf n m.ctx).foldl (pushToRange m) n

/-- Engines and the bridge keep a context's whole map while they need it (R198, R624). -/
def pushToImages (n : Node) (m : MapImage) : Node :=
  let newer := ((Tbl.find? n.ctxs.images m.ctx).map fun i => mapNewer m.gen i.gen).getD true
  if newer && needsImage n m.ctx then { n with ctxs := { n.ctxs with images := Tbl.put n.ctxs.images m.ctx m } } else n

/-! ### What goes on after a push, or a loss -/

/-- The switch that a Leap proposed has happened, as this module's ranges show. -/
def leapSwitched (n : Node) (l : LeapOut) : Bool :=
  if l.asMirror then leapMirror n l == l.target && !(leapRanges n l).isEmpty else (leapRanges n l).isEmpty

/-- A Leap whose proposal must be made again is, or it has switched meanwhile (R428). -/
def reproposeLeaps (n : Node) : Node :=
  (n.ml.outs.filter fun l => l.2.step == 8).foldl (fun n e =>
    if leapSwitched n e.2 then endLeap (setLeap n e.1 { e.2 with switched := curGen n e.2.ctx }) e.1 stOK else proposeLeap n e.1 e.2) n

/-- Index commands, searches and coordinated queries that can go on do. -/
def indexGo (n : Node) : Node :=
  let n := (Tbl.keysOf n.srch.queries).foldl (fun n t => goOn queryGo t 4 n) n
  let n := (Tbl.keysOf n.srch.muts).foldl (fun n t => goOn mutGo t 4 n) n
  (Tbl.keysOf n.srch.coords).foldl (fun n t => goOn coordGo t 8 n) n

/-- Everything that waited for a newer map, or for what a loss has changed. -/
def afterMap (n : Node) : Node :=
  settle (bridgeGo (indexGo (iosGo (engGoAll (reclaimsGo (reproposeLeaps n))))))

/-- A MAP_FETCH that a push answers is settled. -/
def settleFetch (n : Node) (p : Packet) (ctx : Nat) : Node :=
  let own := p.dst.toNat
  let q := pairOf n own p.src.toNat
  setPair n own p.src.toNat { q with sent := q.sent.filter fun u =>
    !(u.pkt.cls == 5 && u.pkt.opcode == 0x94 && (u.pkt.seq.toNat == reqSeq p || numAt u.pkt.data 0 2 == ctx)) }

/-- MAP_PUSH: an image whose CHECK fails is discarded. -/
def takePush (n : Node) (p : Packet) : Node :=
  if !isModule n p.src.toNat then foreignMgt n p
  else
    let t := takeTrain n p
    match t.2 with
    | none => t.1
    | some bs =>
      match mapOfBytes bs with
      | none => logEvent t.1 { otherEvent 6 16 with node := p.src.toNat }
      | some m =>
        let n := settleFetch t.1 p m.ctx
        let n := pushToImages (pushToHome (pushToKeeper n m) m) m
        afterMap (mapResult n p stOK m.gen)

/-- MAP_PUSH. -/
def execMapPush (p : Packet) (s : State) : Host.Outcome State Fault Refusal := .next (onNode s (takeMgt (· == 0x95) takePush p))

/-! ### MAP_RESULT -/

/-- The proposal of a Leap is answered (R427, R428). -/
def leapProposed (n : Node) (k status gen : Nat) : Node :=
  match leapOf n k with
  | none => n
  | some l =>
    if l.step != 7 then n
    else if status = stOK then endLeap (setLeap n k { l with switched := gen }) k stOK
    else if status != stAborted || l.abort.isSome then endLeap n k stAborted
    else if gen = l.switched then setLeap n k { l with step := 8 }
    else if 8 ≤ l.proposals then endLeap n k stAborted
    else
      let l := { l with proposals := l.proposals + 1 }
      if curGen n l.ctx = gen then proposeLeap n k l else setLeap n k { l with step := 8 }

/-- A module has applied a push: its acknowledgement counts for the change that waits for it (R410). -/
def pushAcked (n : Node) (ctx node : Nat) : Node :=
  match keptOf n ctx with
  | none => n
  | some k =>
    match k.props with
    | p :: rest =>
      if p.committed then setKept n ctx { k with props := { p with acks := p.acks.filter (· != node) } :: rest } else n
    | [] => n

/-- MAP_RESULT: of a Leap's proposal, of a proposal passed on, of a push, or of another message. -/
def takeResult (n : Node) (p : Packet) : Node :=
  match sentFor n p with
  | none => n
  | some u =>
    let n := settleSent n p
    let o := u.pkt.opcode.toNat
    let st := p.status.toNat
    let gen := p.mapgen.toNat
    match u.purpose with
    | .leap k => settle (leapProposed n k st gen)
    | _ =>
      if o = 0x95 then pushAcked n (numAt u.pkt.data 0 2) p.src.toNat
      else if o = 0x9A then
        mapResult n (askOf n (numAt u.pkt.data 0 2) (numAt u.pkt.data 8 4) (numAt u.pkt.data 4 4)) st gen
      else n

/-- MAP_RESULT. -/
def execMapResult (p : Packet) (s : State) : Host.Outcome State Fault Refusal := .next (onNode s (takeMgt (· == 0x92) takeResult p))

end Sys2Proof.Machine
end

