-- ==== Sys2Proof/Machine/Members.lean ====
section
/-! DEFINITION. Membership: joins, beats, suspicion and the declaration of a loss, with everything that a declared loss does
(R56, R160, R173, R209, R298, R361, R376, R391, R401, R413–R416, R421, R428, R566, R567, R569, R574, R604).

The manual gives the membership agreement its codes and not its layouts: 0xA5 tells another keeper of a suspicion or its
withdrawal, and 0xA6 is a list of members: a 64-byte header with the count and VIEW, then 8 bytes for each member. -/

namespace Sys2Proof.Machine

/-- The node with its membership changed. -/
def onMemb (n : Node) (f : Membership → Membership) : Node := { n with ml := { n.ml with memb := f n.ml.memb } }

/-- This module acts as a membership keeper: it is one of the three, and a member (R413, R566). -/
def isMembKeeper (n : Node) : Bool := n.ml.memb.joined && (keepersNow n).contains n.nodeId

/-- Fewer than two membership keepers are live (R416, R604). -/
def keepersShort (n : Node) : Bool := decide ((keepersNow n).length < 2)

/-- A membership message comes from no keeper: it is discarded and logged (R412). -/
def fromKeeper (n : Node) (p : Packet) : Bool := n.alm.membKeepers.contains p.src.toNat

/-! ### The member list -/

/-- The bytes of a list of members. -/
def memberList (view : Nat) (ms : Tbl Member) : Bytes :=
  wordsToBytes [wordOf ms.length, wordOf view, 0, 0, 0, 0, 0, 0] ++
    wordsToBytes (ms.map fun m => wordOf (m.1 + m.2.domain * 2 ^ 16 + bit01 m.2.sx96 * 2 ^ 32))

/-- Sends a list of members to a node. -/
def sendMembers (n : Node) (dst : Nat) (ms : Tbl Member) : Node :=
  sendMgtTrain n (blankPacket dst n.nodeId 5 0xA6) (memberList n.ml.memb.view ms) .protocol

/-- A member is known: a node that was lost is so no longer. -/
def addMember (n : Node) (node domain : Nat) (sx96 : Bool) : Node :=
  onMemb n fun m => { m with
    known := Tbl.put m.known node (domain, sx96)
    members := Tbl.put m.members node { domain := domain, sx96 := sx96, suspects := [] }
    lost := m.lost.filter (· != node) }

/-- A list of members arrives: they are added, and VIEW follows. -/
def takeMembers (n : Node) (bs : Bytes) : Node :=
  let view := numAt bs 8 4
  let n := onMemb n fun m => { m with view := if serialLt 32 m.view view then view else m.view }
  (List.range (numAt bs 0 8)).foldl (fun n i =>
    let w := wordOf (numAt bs (64 + 8 * i) 8)
    if fieldOf w 15 0 = n.nodeId then n else addMember n (fieldOf w 15 0) (fieldOf w 31 16) (bitOf w 32)) n

/-! ### Joining (R413, R566) -/

/-- A listed keeper that has not joined yet answers another listed one: the first two see each other (R566). -/
def bootstraps (n : Node) (p : Packet) : Bool :=
  !n.ml.memb.joined && n.power.stepsDone.contains 7 && (keepersNow n).contains n.nodeId && (keepersNow n).contains p.src.toNat

/-- MEMB_JOIN at a keeper: answered with VIEW; every member learns of the joiner, and the joiner of every member. -/
def takeJoin (n : Node) (p : Packet) : Node :=
  let w := wordAt (mgtWords p 1) 0
  let x := p.src.toNat
  if (payloadOf p).length < 8 || fieldOf w 63 17 != 0 || isGroup x then logEvent n { otherEvent 6 17 with node := x }
  else if keepersShort n || !(isMembKeeper n || bootstraps n p) then n
  else
    let n := addMember n x (fieldOf w 15 0) (bitOf w 16)
    let n := onMemb n fun m => { m with view := max m.view 1 }
    let n := sendPacket n { withPayload (responseTo n p 5 stOK) (wordsToBytes [wordOf n.ml.memb.view]) with opcode := 0xA1 } .none
    let own : Tbl Member := [(n.nodeId, { domain := n.alm.failureDomain, sx96 := true, suspects := [] })]
    let n := if bitOf w 16 then sendMembers n x (own ++ n.ml.memb.members.filter fun m => m.1 != x) else n
    sendMembers n 0xFFF1 (n.ml.memb.members.filter fun m => m.1 == x)

/-- MEMB_JOIN. -/
def execMembJoin (p : Packet) (s : State) : Host.Outcome State Fault Refusal := .next (onNode s (takeMgt (· == 0xA2) takeJoin p))

/-- Keepers that have answered, this module among them when it is one (R566). -/
def answers (n : Node) (acks : List Nat) : List Nat :=
  if (keepersNow n).contains n.nodeId && !acks.contains n.nodeId then n.nodeId :: acks else acks

/-- Every staged block is committed with GEN 1 before Ready (R567). -/
def commitStaged (s : State) : State :=
  let a := s.nd.alm
  let f := s.nd.flt
  let plc := policyReset a
  let f := { f with ebLive := ebCfgReset a, ebStage := ebCfgReset a, ebGen := 1, ebStat := commitStatus f.ebStat true 1 }
  let f := { f with vgLive := f.vgStage, vgGen := 1, vgStat := commitStatus f.vgStat true 1 }
  let f := { f with mqLive := f.mqStage, mqGen := 1, mqStat := commitStatus f.mqStat true 1 }
  { s with nd := { s.nd with flt := f },
           hl := { s.hl with plc := { s.hl.plc with live := plc, stage := plc, gen := 1, stat := commitStatus s.hl.plc.stat true 1 } } }

/-- A trial start has reached Ready: TRIAL is cleared, and on a cold start the security version follows the slot's (R574, R584). -/
def endTrial (s : State) : State :=
  if !s.hl.sec.trial then s
  else
    let s := { s with hl := putSlotRecord { s.hl with sec := { s.hl.sec with trial := false } } }
    if s.nd.power.fromStandby || s.hl.sec.svn ≤ s.hl.sec.fuses then s
    else logIn { s with hl := { s.hl with sec := { s.hl.sec with fuses := min 64 s.hl.sec.svn } } }
           { sev := sevNotice, code := 0x723, data0 := min 64 s.hl.sec.svn }

/-- Two keepers have answered the join: the module is a member, step 8 is done, and the module is Ready (R545, R566). -/
def becomeMember (view : Nat) (s : State) : State :=
  let joins := fun (m : Membership) =>
    let m := { m with joined := true, groups := [0xFFF0, 0xFFF1], view := max 1 (max m.view view), missed := 0 }
    { m with beatAcks := [], beaten := false, suspended := false }
  let s := { s with nd := onMemb s.nd joins }
  if s.nd.power.state != 0 || !s.nd.power.stepsDone.contains 7 || s.nd.power.stepsDone.contains 8 then s
  else
    let s := stepEnded (completeStep (commitStaged s) 8)
    if s.nd.power.state = 1 then s
    else endTrial (setPower (completeStep s 9) fun p => { p with state := 2, step := 0 })

/-- A keeper has answered this module's join, or the bridge's. -/
def joinAnswered (s : State) (own x view : Nat) : State :=
  let add := fun (l : List Nat) => if l.contains x then l else l ++ [x]
  if own != s.nd.nodeId then
    let n := onBridge s.nd fun b => { b with joinAcks := add b.joinAcks }
    { s with nd := onBridge n fun b => { b with joined := b.joined || decide (2 ≤ b.joinAcks.length) } }
  else if s.nd.ml.memb.joined then s
  else
    let n := onMemb s.nd fun m => { m with joinAcks := add m.joinAcks }
    let s := { s with nd := n }
    if (answers n n.ml.memb.joinAcks).length < 2 then s else becomeMember view s

/-- A primary acts under R376 for every mirror that is lost; a suspended module does not (R376, R414). -/
def loseMirrors (n : Node) : Node :=
  if n.ml.memb.suspended then n else n.ml.memb.lost.foldl (fun n x => loseMirror n x stOK fun _ _ => true) n

/-- A keeper has acknowledged the latest beat: with two, the module is no longer suspended (R414). -/
def beatAnswered (n : Node) (x : Nat) : Node :=
  let n := onMemb n fun m => { m with beatAcks := if m.beatAcks.contains x then m.beatAcks else m.beatAcks ++ [x] }
  if (answers n n.ml.memb.beatAcks).length < 2 then n
  else
    let was := n.ml.memb.suspended
    let n := onMemb n fun m => { m with missed := 0, suspended := false }
    if was then settle (loseMirrors n) else n

/-- MEMB_ACK: of a join, or of the latest beat. -/
def membAck (p : Packet) (s : State) : State :=
  if !mgtServed s.nd || p.cls != 5 || p.opcode != 0xA1 then s
  else
    let a := present s.nd p
    if !a.2 then { s with nd := a.1 }
    else
      match sentFor a.1 p with
      | none => { s with nd := a.1 }
      | some u =>
        let s := { s with nd := settleSent a.1 p }
        if !fromKeeper s.nd p then s
        else if u.pkt.opcode = 0xA2 then joinAnswered s p.dst.toNat p.src.toNat (fieldOf (wordAt (mgtWords p 1) 0) 31 0)
        else if u.pkt.opcode = 0xA0 && p.dst.toNat = s.nd.nodeId then { s with nd := beatAnswered s.nd p.src.toNat }
        else s

/-- MEMB_ACK. -/
def execMembAck (p : Packet) (s : State) : Host.Outcome State Fault Refusal := .next (membAck p s)

/-! ### Beats (R413, R414) -/

/-- A beat from one of the module's nodes to a keeper; an earlier one that is unanswered is forgotten. -/
def sendBeat (own : Nat) (n : Node) (k : Nat) : Node :=
  let q := pairOf n own k
  let n := setPair n own k { q with sent := q.sent.filter fun u => !(u.pkt.cls == 5 && u.pkt.opcode == 0xA0) }
  sendPacket n { blankPacket k own 5 0xA0 with src := BitVec.ofNat 16 own } .protocol

/-- BEAT_MISS. -/
def beatMiss (n : Node) : Nat := cfgNum n 0x0109

/-- BEAT_PERIOD elapses: the last beat is judged, and the next one goes out. -/
def beatPeriod (n : Node) : Node :=
  let m := n.ml.memb
  if !m.joined || n.power.failed || !n.power.refclk || decide (n.power.state < 2) || decide (4 ≤ n.power.entry) then n
  else
    let unheard := m.beaten && decide ((answers n m.beatAcks).length < 2)
    let missed := if unheard then m.missed + 1 else if m.beaten then 0 else m.missed
    let n := onMemb n fun m => { m with missed := missed, beatAcks := [], beaten := true,
                                        suspended := m.suspended || decide (beatMiss n ≤ missed) }
    let n := ((keepersNow n).filter (· != n.nodeId)).foldl (sendBeat n.nodeId) n
    if bridgeId n != 0 && n.bridge.joined && n.bridge.hostUp then (keepersNow n).foldl (sendBeat (bridgeId n)) n else n

/-- BEAT_PERIOD_TIMER. -/
def execBeatPeriodTimer (s : State) : Host.Outcome State Fault Refusal := .next (onNode s beatPeriod)

/-- Tells the other keepers of a suspicion, or that it is withdrawn. -/
def tellSuspicion (n : Node) (node : Nat) (withdraw : Bool) : Node :=
  ((keepersNow n).filter (· != n.nodeId)).foldl (fun n k =>
    sendPacket n (mgtPacket n k 0xA5 [wordOf (node + bit01 withdraw * 2 ^ 16)]) .protocol) n

/-- A keeper's suspicion of a member is entered or withdrawn. -/
def markSuspect (n : Node) (node keeper : Nat) (withdraw : Bool) : Node :=
  onMemb n fun m => { m with members := Tbl.upd m.members node fun x =>
    { x with suspects := let l := x.suspects.filter (· != keeper); if withdraw then l else l ++ [keeper] } }

/-- MEMB_BEAT at a keeper: a member's beat is acknowledged, and this keeper's own suspicion of it ends. -/
def takeBeat (n : Node) (p : Packet) : Node :=
  let x := p.src.toNat
  match Tbl.find? n.ml.memb.members x with
  | none => n
  | some m =>
    if !isMembKeeper n then n
    else
      let n := if m.suspects.contains n.nodeId then tellSuspicion (markSuspect n x n.nodeId true) x true else n
      sendPacket n { withPayload (responseTo n p 5 stOK) (wordsToBytes [wordOf n.ml.memb.view]) with opcode := 0xA1 } .none

/-- MEMB_BEAT. -/
def execMembBeat (p : Packet) (s : State) : Host.Outcome State Fault Refusal := .next (onNode s (takeMgt (· == 0xA0) takeBeat p))

/-! ### What a declared loss does -/

/-- The pool and the protocols at this module, once a node is lost: its holdings, mirrors, storage and packets (R209, R298, R376,
R391, R421). -/
def lossOfPeer (n : Node) (x : Nat) : Node :=
  let n := holderLost n x
  let n := loseMirrors n
  let n := loseStore n fun r => r.resClass == 4 && r.lenderNode == x
  let repairs := (pairOf n n.nodeId x).sent.filterMap fun u => match u.purpose with
    | SentFor.repair line => some line
    | _ => none
  let n := repairs.foldl (fun n l => if discarded n l then poisonUnread n l else n) n
  let images := (pairOf n n.nodeId x).sent.filterMap fun u => match u.purpose with
    | SentFor.repairImage line => some line
    | _ => none
  let n := images.foldl (fun n l =>
    let n := { n with mem := { n.mem with badImage := n.mem.badImage.filter (· != l) } }
    match imageOf n (chunkOf l) with
    | some c => failPart n c.part stAborted
    | none => n) n
  let parts := Tbl.mapVals n.sol.parts fun p => { p with
    followers := p.followers.filter (· != x)
    srcs := p.srcs.map fun s => if s.node == x && s.cut.isNone && !s.pruned then { s with lost := true } else s }
  let n := { n with sol := { n.sol with parts := parts } }
  let n := { n with ctr := { n.ctr with waits := n.ctr.waits.filter fun w => w.pkt.src.toNat != x } }
  coordsLost (bridgeLost (iosLost (engLost n x) x) x) x

/-- Records for a lost node are dropped, and their counters still incremented; increments on it are lost with it (R56, R173). -/
def lossOfRecords (n : Node) (x : Nat) : Node :=
  n.trk.cmds.foldl (fun n e =>
    if e.2.phase == .recordSent && cmpNode e.2 == x then afterRecord (logLostRecord n e.2) e.1 e.2
    else if e.2.phase == .countSent && cntNode e.2 == x then dropCmd n e.1
    else n) n

/-- Leaps that a loss ends, and those that it moves on (R428). -/
def lossOfLeaps (n : Node) (x : Nat) : Node :=
  let n := (n.ml.outs.filter fun l => l.2.target == x).foldl (fun n e => endLeap n e.1 stAborted) n
  let n := (n.ml.ins.filter fun i => i.source == x).foldl freeArriving n
  let asked := (pairOf n n.nodeId x).sent.filterMap fun u => match u.purpose with
    | SentFor.leap k => some k
    | _ => none
  asked.foldl (fun n k => match leapOf n k with
    | some l => setLeap n k { l with step := if l.step = 4 then 5 else if l.step = 7 then 8 else l.step }
    | none => n) n

/-- The maps kept here, once a node is lost: acknowledgements it owes are given up, a new lead offers again what the old one had
offered, and the keepers propose what follows for the extents it homed (R401, R409). -/
def lossAtKeeper (x : Nat) (n : Node) (ctx : Nat) : Node :=
  match keptOf n ctx with
  | none => n
  | some k =>
    let k := { k with subs := k.subs.filter fun s => s.node != x
                      props := k.props.map fun p => { p with acks := p.acks.filter (· != x) } }
    let n := setKept n ctx k
    if !isLead n k then n
    else
      let n := match k.accepted with
        | some m =>
          if k.props.any fun p => p.gen == m.gen then n
          else offerImage (setKept n ctx { k with props := { keepersProposal [] [] with gen := m.gen } :: k.props }) k m
        | none => n
      let n := offerFails n ctx
      let ops := lossOps n k.image x
      if ops.isEmpty then leadOn n ctx else enqueueProposal n ctx (keepersProposal ops [])

/-- What was sent to a lost node, and waits for it, is given up. -/
def dropPair (n : Node) (x : Nat) : Node :=
  let n := dropForwards n x fun _ => true
  let q := pairOf n n.nodeId x
  setPair n n.nodeId x { q with sent := [], waiting := [] }

/-- Another node is declared lost. -/
def nodeLost (n : Node) (x : Nat) : Node :=
  if isLost n x then n
  else
    let n := onMemb n fun m => { m with lost := m.lost ++ [x], members := Tbl.del m.members x }
    let n := logEvent n { otherEvent 6 18 with node := x, data0 := n.ml.memb.view }
    let n := lossOfLeaps (lossOfRecords (lossOfPeer n x) x) x
    let n := (Tbl.keysOf n.ml.kept).foldl (lossAtKeeper x) (dropPair n x)
    afterMap n

/-- A declared loss takes effect: of another node, of the bridge's, or of the module itself (R415, R416, R569, R604). -/
def applyLoss (x view : Nat) (s : State) : State :=
  let n := onMemb s.nd fun m => { m with view := if serialLt 32 m.view view then view else m.view }
  let s := { s with nd := n }
  if x = n.nodeId then
    if n.power.entry = 4 then enterStandby s 0x0501 false
    else { s with nd := failModule (onMemb n fun m => { m with joined := false }) 9 x }
  else
    let n := if x = bridgeId n then
        onBridge n fun b => { b with joined := false, joinAcks := [], hostUp := false, reqs := [], snoops := [], holds := [] } else n
    let s := { s with nd := nodeLost n x }
    if s.nd.power.entry = 4 && keepersShort s.nd then enterStandby s 0x0501 false else s

/-! ### Declaring a loss (R415) -/

/-- A keeper declares a member lost when two keepers suspect it: VIEW steps, and every member is told. -/
def declare (x : Nat) (s : State) : State :=
  let n := s.nd
  match Tbl.find? n.ml.memb.members x with
  | none => s
  | some m =>
    if m.suspects.length < 2 || keepersShort n then s
    else
      let view := (n.ml.memb.view + 1) % 2 ^ 32
      let n := onMemb n fun m => { m with view := view }
      let n := sendPacket n (mgtPacket n 0xFFF0 0xA4 [wordOf (x + view * 2 ^ 32)]) .protocol
      applyLoss x view { s with nd := n }

/-- This keeper suspects a member: the other keepers are told. -/
def suspect (x : Nat) (s : State) : State :=
  let n := s.nd
  match Tbl.find? n.ml.memb.members x with
  | none => s
  | some m =>
    if !isMembKeeper n || m.suspects.contains n.nodeId then s
    else declare x { s with nd := tellSuspicion (markSuspect n x n.nodeId false) x false }

/-- MEMBER_SUSPECT_TIMER: no beat from a member for 2 × BEAT_MISS periods. -/
def execMemberSuspectTimer (node : NodeId) (s : State) : Host.Outcome State Fault Refusal := .next (suspect node.toNat s)

/-- Runs an MGT packet's command on the whole state. -/
def takeMgtState (kind : Nat → Bool) (f : State → Packet → State) (p : Packet) (s : State) : State :=
  if !mgtServed s.nd || p.cls != 5 || !kind p.opcode.toNat then s
  else
    let a := present s.nd p
    if a.2 then f { s with nd := a.1 } p else { s with nd := a.1 }

/-- MEMB_REPORT: a member names a node that it has found lost. -/
def takeReport (s : State) (p : Packet) : State :=
  let w := wordAt (mgtWords p 1) 0
  let x := p.src.toNat
  if (payloadOf p).length < 8 || fieldOf w 63 16 != 0 || !(x == s.nd.nodeId || (Tbl.find? s.nd.ml.memb.members x).isSome) then
    { s with nd := logEvent s.nd { otherEvent 6 19 with node := x } }
  else suspect (fieldOf w 15 0) s

/-- MEMB_REPORT. -/
def execMembReport (p : Packet) (s : State) : Host.Outcome State Fault Refusal := .next (takeMgtState (· == 0xA3) takeReport p s)

/-- MEMB_LOST. -/
def takeLost (s : State) (p : Packet) : State :=
  let w := wordAt (mgtWords p 1) 0
  if !fromKeeper s.nd p then { s with nd := foreignMgt s.nd p } else applyLoss (fieldOf w 15 0) (fieldOf w 63 32) s

/-- MEMB_LOST. -/
def execMembLost (p : Packet) (s : State) : Host.Outcome State Fault Refusal := .next (takeMgtState (· == 0xA4) takeLost p s)

/-- A membership agreement message: a suspicion, its withdrawal, or a list of members. -/
def takeAgreement (s : State) (p : Packet) : State :=
  let n := s.nd
  let w := wordAt (mgtWords p 1) 0
  if !fromKeeper n p then { s with nd := foreignMgt n p }
  else if p.opcode = 0xA5 then
    if !isMembKeeper n then s
    else declare (fieldOf w 15 0) { s with nd := markSuspect n (fieldOf w 15 0) p.src.toNat (bitOf w 16) }
  else if p.opcode = 0xA6 then
    let t := takeTrain n p
    { s with nd := match t.2 with
      | some bs => takeMembers t.1 bs
      | none => t.1 }
  else s

/-- MEMB_AGREEMENT. -/
def execMembAgreement (p : Packet) (s : State) : Host.Outcome State Fault Refusal :=
  .next (takeMgtState (fun o => decide (0xA5 ≤ o ∧ o ≤ 0xAF)) takeAgreement p s)

end Sys2Proof.Machine
end

