-- ==== Sys2Proof/Machine/Answers.lean ====
section
/-! DEFINITION. Answers to forwards, and to the packets of copy engines, index commands and coordinators (R170, R347, R360, R375,
R376, R428). -/

namespace Sys2Proof.Machine

/-! ### FORWARD_ANSWER (R375, R376, R428) -/

/-- A packet was sent as a forward. -/
def sentAsForward : SentFor → Bool
  | .forward _ | .lineForward _ | .cmdForward _ | .leapChunk _ _ | .drain _ _ | .partRecord _ => true
  | _ => false

/-- The Leap that a forward to its target belongs to: the copy of a chunk, a store to the extent, or a part's record that the target
follows (R424, R425, R426). -/
def leapOfForward (n : Node) (u : Unanswered) : Option Nat :=
  let dst := u.pkt.dst.toNat
  let ctx := u.pkt.ctx.toNat
  let pva := u.pkt.pva.toNat
  let follows := match u.purpose with
    | .partRecord k => ((Tbl.find? n.sol.parts k).map fun p => p.followers.contains dst).getD false
    | _ => false
  match u.purpose with
  | .leapChunk k _ => some k
  | _ => (n.ml.outs.find? fun e => e.2.target == dst && !isHandover n e.2 && e.2.ctx == ctx &&
      ((inLeap e.2 ctx pva && e.2.copied.contains ((pva - e.2.start) / 2 ^ 21)) || (e.2.asMirror && follows))).map Prod.fst

/-- The range whose mirror a forward went to. -/
def mirrorOfForward (n : Node) (u : Unanswered) : Option Range :=
  (rangeFor n u.pkt.ctx.toNat u.pkt.pva.toNat).bind fun r =>
    if r.peer == u.pkt.dst.toNat && !r.mirrorRole then some r else none

/-- A forward was refused: a Leap's target ends its Leap, and a mirror is lost to the range that the forward went for. -/
def forwardRefused (n : Node) (u : Unanswered) (status : Nat) : Node :=
  let n := dropForwards n u.pkt.dst.toNat (· == u)
  match leapOfForward n u with
  | some k => endLeap n k stAborted
  | none =>
    match mirrorOfForward n u with
    | some r => loseMirror n u.pkt.dst.toNat status fun ctx e => ctx == u.pkt.ctx.toNat && e.start == r.start
    | none => n

/-- FORWARD_ANSWER. RETRY leaves the forward to its re-send. A suspended module takes no action under R376: the refusal stays until it
resumes. -/
def forwardAnswer (p : Packet) (n : Node) : Node :=
  if p.opcode != 2 || p.cls != 2 || !accepting n then n
  else
    let a := present n p
    if !a.2 then a.1
    else
      match sentFor a.1 p with
      | none => a.1
      | some u =>
        let st := p.status.toNat
        if !sentAsForward u.purpose && !(u.purpose == .none && isPeer u.pkt) then n
        else if st = stRetry then settleSent a.1 p
        else if st = stOK then settle (indexGo (settle (dropForwards a.1 p.src.toNat (· == u))))
        else if n.ml.memb.suspended && (leapOfForward n u).isNone then putBack a.1 p
        else settle (indexGo (settle (forwardRefused a.1 u st)))

/-- FORWARD_ANSWER. -/
def execForwardAnswer (p : Packet) (s : State) : Host.Outcome State Fault Refusal := .next (onNode s (forwardAnswer p))

/-! ### ENGINE_RESPONSE (R170, R347, R355, R360, R420, R421) -/

/-- The command that a transfer belongs to goes on. -/
def ioMoves (n : Node) (tid : Nat) : Node :=
  if (Tbl.find? n.srch.queries tid).isSome then goOn queryGo tid 4 n
  else if (Tbl.find? n.srch.muts tid).isSome then goOn mutGo tid 4 n
  else goOn coordGo tid 8 n

/-- ENGINE_RESPONSE: the answer to a READ, WRITE or ATOMIC of a command, or to its question to an adopting home. -/
def engineResponse (p : Packet) (n : Node) : Node :=
  if !accepting n then n
  else
    let a := present n p
    if !a.2 then a.1
    else
      match (sentFor a.1 p).map fun u => u.purpose with
      | none => a.1
      | some (SentFor.engine tid stage) =>
        let n := settleSent a.1 p
        if p.status.toNat = stRetry then n
        else if stage = 7 || stage = 8 then settle (ioMoves (ioAnswer n tid stage p) tid)
        else settle (engAnswer n tid stage p)
      | some _ => n

/-- ENGINE_RESPONSE. -/
def execEngineResponse (p : Packet) (s : State) : Host.Outcome State Fault Refusal := .next (onNode s (engineResponse p))

end Sys2Proof.Machine
end

