-- ==== Sys2Proof/Machine/Tiles.lean ====
section
/-! DEFINITION. Tiles in service: residue mismatches and spares, corrected errors, known-answer tests, the error-band ladder,
retirement, gating and ungating (R22, R29–R32, R470–R473, R484–R490, R493). -/

namespace Sys2Proof.Machine

/-- A tile's health. -/
def tileAt (n : Node) (t : Nat) : TileHealth := getAt n.flt.tiles t TileHealth.reset

/-- The node with a tile's health replaced. -/
def setTile (n : Node) (t : Nat) (h : TileHealth) : Node := { n with flt := { n.flt with tiles := putAt n.flt.tiles t h } }

/-- A tile in service. -/
def tileLive (h : TileHealth) : Bool := !h.retired && !h.gated && h.leaving.isNone

/-! ### Error bins (R485, R486) -/

/-- The present band of a tile. -/
def bandOf (h : TileHealth) : Nat := fieldOf h.state 42 40
/-- The present activity class of a tile. -/
def classOf (h : TileHealth) : Nat := fieldOf h.state 44 43

/-- One event counts in the tile's bin for its present band and class. -/
def countBin (n : Node) (t : Nat) : Node :=
  let h := tileAt n t
  let k := 4 * bandOf h + classOf h
  setTile n t { h with bins := Tbl.put h.bins k (Tbl.getD h.bins k 0 + 1) }

/-! ### Leaving service (R29, R32, R537) -/

/-- The hash slots that a tile serves, as 8 × region + slot (R28). -/
def slotsOf (n : Node) (t : Nat) : List Nat :=
  ((List.range 8).filter fun s => slotTile n (t / 8) s == t).map fun s => t / 8 * 8 + s

/-- The slot of a line, as 8 × region + slot. -/
def slotKey (line : Nat) : Nat := 8 * lineRegion line + lineSlot line

/-- The slots a gated tile takes back: those for which it comes first, from their own tile on, among the live tiles and itself. -/
def slotsBack (n : Node) (t : Nat) : List Nat :=
  ((List.range 8).filter fun s =>
    let order := (List.range 8).map fun k => t / 8 * 8 + (s + k) % 8
    (order.find? fun u => u == t || tileLive (tileAt n u)) == some t).map fun s => t / 8 * 8 + s

/-- Slots become moving: new requests to them are refused. -/
def moveSlots (n : Node) (ks : List Nat) : Node :=
  { n with flt := { n.flt with moving := n.flt.moving ++ ks.filter fun k => !n.flt.moving.contains k } }

/-- Slots have moved. -/
def slotsMoved (n : Node) (ks : List Nat) : Node :=
  { n with flt := { n.flt with moving := n.flt.moving.filter fun k => !ks.contains k } }

/-- A gated tile starts to return. -/
def startReturn (n : Node) (t : Nat) : Node :=
  let h := tileAt n t
  if !h.gated || h.retired || h.returning then n
  else
    let domains := if n.power.domains.contains (3 + t) then n.power.domains else n.power.domains ++ [3 + t]
    moveSlots (setTile { n with power := { n.power with domains := domains } } t { h with returning := true }) (slotsBack n t)

/-- Pinned blocks of a tile. -/
def pinnedOn (n : Node) (t : Nat) : Nat := (n.mem.blocks.filter fun b => b.2.tile == t && b.2.pinned).length

/-- A tile starts to leave service. Gating is not taken where it would leave the region without a live tile, or without room for
its pinned lines; a retirement that would do the first calls a gated tile back, and fails the module where none is gated. -/
def startLeave (n : Node) (t : Nat) (gate : Bool) (cause : Nat) : Node :=
  let h := tileAt n t
  if h.retired then n
  else if gate then
    match successorTile n t with
    | some u =>
      if !tileLive h || sliceRoom n u < pinnedOn n t + pinnedOn n u then n
      else moveSlots (setTile n t { h with leaving := some (true, cause) }) (slotsOf n t)
    | none => n
  else if h.gated && !h.returning then
    logEvent (setTile n t { h with retired := true, state := putField h.state 45 45 1 })
      { otherEvent 3 12 with uclass := 3, unit_ := t, data0 := t, data1 := cause }
  else if (h.leaving.map fun l => l.1) == some false then n
  else
    let go := fun (n : Node) => moveSlots (setTile n t { tileAt n t with leaving := some (false, cause), returning := false }) (slotsOf n t)
    match successorTile n t with
    | some _ => go n
    | none =>
      match (List.range 8).find? fun k => (tileAt n (t / 8 * 8 + k)).gated && !(tileAt n (t / 8 * 8 + k)).retired with
      | some k => startReturn (go n) (t / 8 * 8 + k)
      | none => failModule n 21 t

/-- An admitted request has a line in one of the slots. -/
def slotsBusy (n : Node) (ks : List Nat) : Bool :=
  n.trk.reqs.any fun q => q.2.lines.any fun l => ks.contains (slotKey l.1)

/-- The blocks of some slots, by block number. -/
def slotBlocks (n : Node) (ks : List Nat) : List (Nat × TileBlock) :=
  n.mem.blocks.filter fun b => ks.contains (slotKey (b.1 * 64))

/-- A pinned block goes to another tile's slice while it has room; any other leaves its slice. -/
def handBlock (u : Nat) (n : Node) (b : Nat × TileBlock) : Node :=
  if !b.2.pinned then dropBlock n b.1
  else
    let m := makeRoom n u
    if m.2 = .ready then setBlock m.1 b.1 { b.2 with tile := u } else dropBlock n b.1

/-- Steps 3 to 6 of R29 over some slots, from one tile to another; none while requests are admitted there or a dirty line cannot be
written back yet. Entries of the lent table go with their slots (R214). -/
def handSlots (n : Node) (t u : Nat) (ks : List Nat) : Option Node :=
  if slotsBusy n ks then none
  else
    let n := (slotBlocks n ks).foldl (fun n b => writeBack n b.1) n
    if (slotBlocks n ks).any fun b => b.2.dirty != 0 then none
    else
      let n := (slotBlocks n ks).foldl (handBlock u) n
      let lent := Tbl.getD n.coh.lent t []
      let goes := lent.filter fun e => ks.contains (slotKey e.line)
      let tab := Tbl.put n.coh.lent t (lent.filter fun e => !ks.contains (slotKey e.line))
      let tab := if goes.isEmpty then n.coh.lent else Tbl.put tab u (Tbl.getD tab u [] ++ goes)
      let hremap := Vector.ofFn fun (r : Fin 8) => Vector.ofFn fun (s : Fin 8) =>
        if ks.contains (8 * r.val + s.val) then u else (n.flt.hremap.get r).get s
      some (slotsMoved { n with coh := { n.coh with lent := tab }, flt := { n.flt with hremap := hremap } } ks)

/-- A leaving tile goes on: its slots move to the successor, its ring stop closes, and its power domain goes off. -/
def leaveGo (n : Node) (t : Nat) : Node :=
  let h := tileAt n t
  match h.leaving, successorTile n t with
  | some (gate, cause), some u =>
    match handSlots n t u (slotsOf n t) with
    | none => (slotBlocks n (slotsOf n t)).foldl (fun n b => writeBack n b.1) n
    | some n =>
      let n := dropOperands n t
      let h := { h with leaving := none, gated := gate, retired := h.retired || !gate }
      let h := if gate then h else { h with state := putField h.state 45 45 1 }
      let n := setTile { n with power := { n.power with domains := n.power.domains.filter (· != 3 + t) } } t h
      logEvent n { otherEvent 3 12 with uclass := 3, unit_ := t, data0 := t, data1 := cause, data2 := u }
  | _, _ => n

/-- A returning tile goes on: it takes its slots back, with their pinned lines, before its ring stop opens. -/
def returnGo (n : Node) (t : Nat) : Node :=
  let h := tileAt n t
  if !h.returning then n
  else
    let ks := slotsBack n t
    let from_ := (ks.head?.map fun k => slotTile n (k / 8) (k % 8)).getD t
    let done := fun (n : Node) => setTile n t { h with gated := false, returning := false }
    match handSlots n from_ t ks with
    | none => (slotBlocks n ks).foldl (fun n b => writeBack n b.1) n
    | some n => done n

/-- Every tile on its way in or out goes on. -/
def tilesGo (n : Node) : Node :=
  let n := ((List.range 64).filter fun t => (tileAt n t).returning).foldl returnGo n
  settle (((List.range 64).filter fun t => (tileAt n t).leaving.isSome).foldl leaveGo n)

/-! ### The error-band record (R489, R561) -/

/-- Margins, caps and retirements as the error-band record holds them. -/
def bandEntries (n : Node) : Bytes :=
  (List.range 64).flatMap fun t => leBytes 8 (putField (putField (tileAt n t).state 42 40 0) 44 43 0).toNat

/-- Halord writes the record when it has changed; while Halord restarts, it does not (R503). -/
def recordBands (s : State) : State :=
  let es := bandEntries s.nd
  if s.hl.restarting || (recordOk s.hl 0x6090000 512 && flashRead s.hl 0x6090040 512 == es) then s
  else { s with hl := flashWrite (flashErase s.hl 0x6090000 0x10000) 0x6090000 (flashRecord (s.nd.power.bootCount + 64 * 2 ^ 32) 0 es) }

/-- The data plane changes by `f` while it serves; what it retires or raises is recorded. -/
def onTiles (s : State) (f : Node → Node) : State :=
  if accepting s.nd then recordBands { s with nd := tilesGo (f s.nd) } else s

/-- TILE_RETIRE. -/
def execTileRetire (t : TileId) (gate : Bool) (cause : BitVec 8) (s : State) : Host.Outcome State Fault Refusal :=
  .next (onTiles s fun n => startLeave n t.val gate cause.toNat)

/-- TILE_UNGATE. -/
def execTileUngate (t : TileId) (s : State) : Host.Outcome State Fault Refusal := .next (onTiles s fun n => startReturn n t.val)

/-! ### Units and spares (R22, R470, R471, R484) -/

/-- A unit of a tile is marked unusable: a spare takes its place, or the tile retires. Causes are the model's numbers: the array of
R560. -/
def unitFails (n : Node) (t array unit_ : Nat) : Node :=
  let h := tileAt n t
  let n := logEvent n { otherEvent 3 13 with uclass := 3, unit_ := t, data0 := array, data1 := unit_ }
  let swap := fun (n : Node) (room : Bool) => if room then bump n (tileFault t 9) 1 else startLeave n t false array
  if array = 3 then swap (setTile n t { h with lanesOut := h.lanesOut + 1 }) (decide (h.lanesOut < 8))
  else if array = 4 then swap (setTile n t { h with hamOut := h.hamOut + 1 }) (decide (h.hamOut < 2))
  else if array = 5 then
    let n := setTile n t { h with alusOut := h.alusOut + 1 }
    if h.alusOut = 0 then n else startLeave n t false array
  else startLeave n t false array

/-- RESIDUE_MISMATCH: the operation replays; a second mismatch on the unit marks it unusable. A mismatch commits nothing. -/
def residueMismatch (t array unit_ : Nat) (repeated : Bool) (n : Node) : Node :=
  let n := bump (countBin n t) (tileFault t 8) 1
  if repeated && decide (3 ≤ array ∧ array ≤ 5) then unitFails n t array unit_ else n

/-- RESIDUE_MISMATCH. -/
def execResidueMismatch (tile : TileId) (array unit_ : BitVec 8) (repeated : Bool) (s : State) : Host.Outcome State Fault Refusal :=
  .next (onTiles s (residueMismatch tile.val array.toNat unit_.toNat repeated))

/-! ### Corrected errors (R472, R473, R486) -/

/-- Bytes of a slice that may be disabled before its tile retires (R473). -/
def disabledMax : Nat := 2 ^ 22

/-- A row of SRAM without a spare left is marked unusable (R473). -/
def rowOut (n : Node) (t array : Nat) : Node :=
  let h := tileAt n t
  let n := bump (logEvent n { otherEvent 3 15 with uclass := 3, unit_ := t, data0 := array }) (tileFault t 11) 1
  if array = 0 then
    let n := setTile n t { h with disabled := h.disabled + Config.rowBytes }
    if disabledMax < h.disabled + Config.rowBytes then startLeave n t false array else n
  else if array = 0x10 then
    let r := getAt n.flt.regions (t / 8) RegionState.reset
    { n with flt := { n.flt with regions := putAt n.flt.regions (t / 8) { r with trackersOut := r.trackersOut + 1 } } }
  else if array = 0x23 || array = 0x24 then failModule n 22 array
  else n

/-- A row has given ROW_CE corrected errors in a window: a spare row takes its place, while one is left. -/
def repairRow (n : Node) (t array sub row : Nat) : Node :=
  let h := tileAt n t
  let key := 2 * (array * 65536 + sub)
  let used := Tbl.getD h.spares key 0
  let h := { h with rows := Tbl.del h.rows ((array * 65536 + sub) * 65536 + row) }
  if used < (if array = 0 then 4 else 2) then
    let n := setTile n t { h with spares := Tbl.put h.spares key (used + 1) }
    bump (logEvent n { otherEvent 3 14 with uclass := 3, unit_ := t, data0 := array, data1 := sub, data2 := row }) (tileFault t 10) 1
  else rowOut (setTile n t h) t array

/-- CORRECTED_ERROR: it counts, in the tile's bin for the tile's own arrays and trackers, and for its row where it lies in SRAM. -/
def correctedError (t array : Nat) (row : Option (Nat × Nat)) (n : Node) : Node :=
  let n := bump n (tileFault t (min array 3)) 1
  let n := if array ≤ 2 || array = 0x10 then countBin n t else n
  match row with
  | none => n
  | some (sub, r) =>
    let h := tileAt n t
    let key := (array * 65536 + sub) * 65536 + r
    let k := Tbl.getD h.rows key 0 + 1
    let n := setTile n t { h with rows := Tbl.put h.rows key k }
    if cfgNum n 0x0301 ≤ k then repairRow n t array sub r else n

/-- CORRECTED_ERROR. -/
def execCorrectedError (tile : TileId) (array : BitVec 8) (row : Option (BitVec 16 × BitVec 16)) (s : State) :
    Host.Outcome State Fault Refusal :=
  .next (onTiles s (correctedError tile.val array.toNat (row.map fun r => (r.1.toNat, r.2.toNat))))

/-! ### Known-answer tests (R493) -/

/-- KNOWN_ANSWER_TEST: the next tile in service is tested; a failed lane slice, Hamming slice or ALU counts as a second mismatch, and
any other failed engine retires the tile. -/
def knownAnswerTest (failures : List (Nat × Nat)) (n : Node) : Node :=
  if !bitOf n.flt.vgLive 1 then n
  else
    match ((List.range 64).map fun k => (n.flt.katTile + k) % 64).find? fun t => tileLive (tileAt n t) with
    | none => n
    | some t =>
      let n := bump { n with flt := { n.flt with katTile := (t + 1) % 64 } } (moduleFault 12) 1
      failures.foldl (fun n f => unitFails (countBin n t) t f.1 f.2) n

/-- KNOWN_ANSWER_TEST. -/
def execKnownAnswerTest (failures : List (BitVec 8 × BitVec 8)) (s : State) : Host.Outcome State Fault Refusal :=
  .next (onTiles s (knownAnswerTest (failures.map fun f => (f.1.toNat, f.2.toNat))))

/-! ### The error-band ladder (R487, R490) -/

/-- One step of the ladder for a tile and a band. -/
def ladderStep (n : Node) (t b : Nat) : Node :=
  let h := tileAt n t
  let cfg := n.flt.ebLive
  let margin := natField h.state.toNat (3 * b + 2) (3 * b)
  let cap := natField h.state.toNat (2 * b + 25) (2 * b + 24)
  let log := fun (n : Node) => logEvent n { otherEvent 3 19 with uclass := 3, unit_ := t, data0 := b }
  if margin < fieldOf cfg 23 21 then log (setTile n t { h with state := putField h.state (3 * b + 2) (3 * b) (margin + 1) })
  else if cap < fieldOf cfg 25 24 then log (setTile n t { h with state := putField h.state (2 * b + 25) (2 * b + 24) (cap + 1) })
  else if bitOf cfg 26 then startLeave n t false 9
  else log (setTile n t { h with state := putField h.state 46 46 1 })

/-- A bin of the band reached THRESH in the window. -/
def bandOver (n : Node) (h : TileHealth) (b : Nat) : Bool :=
  (List.range 4).any fun c => decide (fieldOf n.flt.ebLive 15 0 ≤ Tbl.getD h.bins (4 * b + c) 0)

/-- The committed blocks that waited become live, one after another (R457, R490). -/
def takeEbNext (n : Node) : Node :=
  n.flt.ebNext.foldl (fun n w =>
    let gen := nextGen n.flt.ebGen
    { n with flt := { n.flt with ebLive := w, ebGen := gen, ebStat := commitStatus n.flt.ebStat true gen, ebNext := [] } }) n

/-- ERROR_BAND_WINDOW_END: one step for each tile and band over THRESH; the bins, the rows' counts and the regions' resets start
again, and a committed EB_CFG takes effect. -/
def bandWindowEnd (n : Node) : Node :=
  let n := (List.range 64).foldl (fun n t =>
    let h := tileAt n t
    if h.retired then n else ((List.range 8).filter (bandOver n h)).foldl (fun n b => ladderStep n t b) n) n
  let tiles := n.flt.tiles.map fun h => { h with bins := [], rows := [] }
  let regions := n.flt.regions.map fun r => { r with resets := 0 }
  takeEbNext { n with flt := { n.flt with tiles := tiles, regions := regions } }

/-- ERROR_BAND_WINDOW_END: while Halord restarts, its policies are suspended (R503). -/
def execErrorBandWindowEnd (s : State) : Host.Outcome State Fault Refusal :=
  .next (if s.hl.restarting then s else onTiles s bandWindowEnd)

end Sys2Proof.Machine
end

