-- ==== Sys2Proof/Machine/Contain.lean ====
section
/-! DEFINITION. Uncorrectable errors: the repair of lines, region containment and module failure, Vigil's patrol and Masque's
injections (R17–R20, R88, R156, R172, R245, R283, R366, R396–R399, R428, R474–R484, R491–R498). -/

namespace Sys2Proof.Machine

/-! ### UNCORRECTABLE_LINE (R474–R476) -/

/-- A line of an image copy cannot be read: its mirror is asked for it, or its part fails. -/
def imageUnreadable (n : Node) (ctx : Nat) (r : Range) (line : Nat) : Node :=
  match imageOf n (chunkOf line) with
  | none => n
  | some c =>
    if n.mem.badImage.contains line then n
    else if r.peer = 0 || isLost n r.peer then failPart n c.part stAborted
    else
      let n := bump { n with mem := { n.mem with badImage := n.mem.badImage ++ [line] } } (moduleFault (bit01 r.mirrorRole)) 1
      sendPacket n (repairPacket n ctx r line 1) (.repairImage line)

/-- A tile-store line cannot be read: clean, it is fetched again; dirty, it is repaired. -/
def tileUnreadable (n : Node) (ctx : Nat) (r : Range) (line : Nat) : Node :=
  match sliceBlock n (blkOf line) with
  | none => n
  | some t =>
    let i := line % 64
    if !t.valid.testBit i then n
    else
      let clear := fun (m : Nat) => if m.testBit i then m - 2 ^ i else m
      let n := setBlock n (blkOf line) { t with valid := clear t.valid, dirty := clear t.dirty }
      if t.dirty.testBit i then repairLine n ctx r .tile line
      else if t.pinned then (fetchLine n ctx r line false).1
      else n

/-- A stored copy behind the slice cannot be read: lines that the slice holds are written back again, the others repaired. -/
def storedUnreadable (n : Node) (ctx : Nat) (r : Range) (line : Nat) (kind : LineFault) : Node :=
  let lines := if r.comp || kind == .dense || kind == .state then (List.range 64).map fun i => blkOf line * 64 + i else [line]
  let n := match sliceBlock n (blkOf line) with
    | none => n
    | some t =>
      let held := lines.filter fun l => t.valid.testBit (l % 64)
      setBlock n (blkOf line) { t with dirty := held.foldl (fun m l => m ||| 2 ^ (l % 64)) t.dirty }
  lineUnreadable n ctx r line kind

/-- A stored line cannot be read. -/
def lineFails (line : Nat) (kind : LineFault) (n : Node) : Node :=
  match spanOf n line with
  | none => n
  | some (ctx, r) =>
    match kind with
    | .image => imageUnreadable n ctx r line
    | .tile => tileUnreadable n ctx r line
    | k => storedUnreadable n ctx r line k

/-- UNCORRECTABLE_LINE: it counts in the home tile's bin when it lies in its slice (R486). -/
def uncorrectableLine (line : Nat) (kind : LineFault) (n : Node) : Node :=
  let t := homeTile n line
  let n := bump n (tileFault t (if kind == .tile then 4 else 7)) 1
  let n := if kind == .tile then countBin n t else n
  let n := logEvent n { otherEvent 3 17 with uclass := 3, unit_ := t, data0 := line * 64 }
  lineFails line kind n

/-- UNCORRECTABLE_LINE. -/
def execUncorrectableLine (line : Nat) (kind : LineFault) (s : State) : Host.Outcome State Fault Refusal :=
  .next (onTiles s (uncorrectableLine line kind))

/-! ### Lost forward state (R396, R428) -/

/-- The lines of a forward: local line and PVA. -/
def forwardedLines (n : Node) (p : Packet) : List (Nat × Nat) :=
  (lineParts p.pva.toNat p.len.toNat).filterMap fun q =>
    (rangeFor n p.ctx.toNat q.1).map fun r => (lineAt r q.1, q.1 / 64 * 64)

/-- A forward out, with a line homed in a region. -/
def forwardIn (n : Node) (r : Nat) (u : Unanswered) : Bool :=
  sentAsForward u.purpose && (forwardedLines n u.pkt).any fun l => lineRegion l.1 == r

/-- A line becomes mirror-dirty: its mark stands in its directory entry, or in the list (R396). -/
def markDirty (n : Node) (ctx : Nat) (l : Nat × Nat) (cmds : List Nat) : Node :=
  let old := (Tbl.find? n.coh.mdirty l.1).getD
    { evict := none, inList := (dirOf n l.1).isNone, resync := true, fwds := [], ctx := ctx, pva := l.2, askers := [], cmds := [] }
  let m := { old with resync := true, cmds := old.cmds ++ cmds }
  { n with coh := { n.coh with mdirty := Tbl.put n.coh.mdirty l.1 m } }

/-- A Leap's chunk loses COPIED and is copied again; requests whose forward to the target was lost wait for that (R428). -/
def chunkAgain (n : Node) (k : Nat) (u : Unanswered) : Node :=
  match leapOf n k with
  | none => n
  | some l =>
    let c := match u.purpose with
      | .leapChunk _ c => c
      | _ => (u.pkt.pva.toNat - l.start) / 2 ^ 21
    let had := l.copied.contains c
    let l := { l with copied := l.copied.filter (· != c), again := l.again + bit01 had
                      step := if 3 < l.step && l.step < 7 then 3 else l.step }
    let l := if l.copying = some c then { l with copying := none, sentChunk := false } else l
    let seq := (u.pkt.dst.toNat, u.pkt.seq.toNat)
    let reqs := Tbl.mapVals n.trk.reqs fun q => if q.fwds.contains seq then { q with recopy := q.recopy ++ [(k, c)] } else q
    setLeap { n with trk := { n.trk with reqs := reqs } } k l

/-- The state of one forward is lost: nothing waits for it any more, and its lines become mirror-dirty, a Leap's chunk is copied
again, a record is written again, and a drained chunk is drained again (R396, R399, R428). The packet itself stays with its pair, so
that its SEQ is answered. -/
def loseForward (n : Node) (u : Unanswered) : Node :=
  let why := u.purpose
  let cmds := match why with
    | .cmdForward tid => [tid]
    | _ => []
  let n := match leapOfForward n u with
    | some k => chunkAgain n k u
    | none => if (mirrorOfForward n u).isSome then
        (forwardedLines n u.pkt).foldl (fun n l => markDirty n u.pkt.ctx.toNat l cmds) n else n
  let n := match why with
    | .partRecord k => (match Tbl.find? n.sol.parts k with
      | some p => setPart n k { p with recordDue := true }
      | none => n)
    | .drain k chunk => (match Tbl.find? n.sol.parts k with
      | some p => setPart n k { p with draining := p.draining.filter (· != chunk) }
      | none => n)
    | _ => n
  let dst := u.pkt.dst.toNat
  let n := dropForwards n dst (· == u)
  let q := pairOf n n.nodeId dst
  setPair n n.nodeId dst { q with sent := q.sent ++ [{ u with purpose := .none }] }

/-- Forwards out with a line in a region. -/
def forwardsIn (n : Node) (r : Nat) : List Unanswered :=
  n.prs.pairs.flatMap fun e => if e.1 / 65536 = n.nodeId then e.2.sent.filter (forwardIn n r) else []

/-! ### Aborted requests and commands (R17–R19, R399) -/

/-- The state of a request lies in a region. -/
def reqIn (r : Nat) (q : Req) : Bool := q.region == r || q.lines.any fun l => lineRegion l.1 == r

/-- A counter that an aborted request would have incremented gets its error bit (R19, R156). -/
def errOf (n : Node) (p : Packet) : Node := if isCnt p && !isPeer p then setErr n p.aux.toNat else n

/-- A request whose state is lost ends: a read or a store before its first commit with INTERNAL, a store part of which has committed
with PARTIAL. A committed store is not aborted: where its forward state was lost, its record stays running until the resync is
answered, and no response is sent (R398). -/
def abortReq (n : Node) (tid : Nat) (lostFwd : Bool) : Node :=
  match Tbl.find? n.trk.reqs tid with
  | none => n
  | some q =>
    if isPeer q.pkt then n
    else if isRead q.pkt then answerRead (dropReq n tid) q stInternal
    else if !storesData q.pkt then
      errOf (answerEnded (closeRecord (dropReq n tid) q.pkt stInternal 0 0 0 []) q.pkt stInternal 0 0 0 []) q.pkt
    else
      match q.units with
      | [] => if lostFwd then setReq n tid { q with lostState := true } else n
      | u :: _ =>
        let n := errOf (stopStore n tid q u stInternal) q.pkt
        match Tbl.find? n.trk.reqs tid with
        | some q => setReq n tid { q with lostState := lostFwd }
        | none => n

/-- A command ends in a containment: one not started with INTERNAL; of those that run, engines end with what has landed, a run is
aborted, a search or Harvest ends, and a RESTORE that has switched nothing is given up. Commands whose progress lies in chip-level
tables go on. Answers whether it ended. -/
def abortCmd (n : Node) (tid : Nat) : Node × Bool :=
  match cmdOf n tid with
  | none => (n, false)
  | some c =>
    let marked := setCmd n tid { c with setErr := true }
    let c := { c with setErr := true }
    if c.phase == .consumed then (refuseCmd marked tid stInternal, true)
    else if c.phase != .running then (n, false)
    else if cmdOp c = 1 || cmdOp c = 2 then (engEnd marked tid c stInternal (engDone c), true)
    else match Tbl.find? n.prog.runs tid with
      | some run => (setRun marked tid { run with aborted := true }, true)
      | none => match Tbl.find? n.srch.queries tid with
        | some r => (endQuery (dropIo marked tid) tid (cmdCtx c) r stInternal, true)
        | none => match Tbl.find? n.srch.muts tid with
          | some r => (endMut (dropIo marked tid) tid r stInternal, true)
          | none => match Tbl.find? n.srch.harvests tid with
            | some r => (endHarvest marked tid r stInternal, true)
            | none =>
              if (Tbl.find? n.srch.coords tid).isSome then (endIndexCmd marked tid stInternal 0 0, true)
              else if cmdOp c = 0x23 && c.stage = 2 then
                let n := (restoringParts marked tid).foldl (fun n p =>
                  setPart n p.1 { p.2 with restoring := none, drainStopped := false }) marked
                (refuseCmd n tid stInternal, true)
              else (n, false)

/-- A packet delivered and not yet applied, of a line in the region: a forward is answered RETRY, a WB_EVICT too, and a write-back that
answers a recall is lost, so that the line is poisoned while the recall stays (R399). -/
def abortDelivered (r : Nat) (n : Node) (p : Packet) : Node :=
  match rangeFor n p.ctx.toNat p.pva.toNat with
  | none => n
  | some e =>
    let line := lineAt e p.pva.toNat
    let taken := { n with prs := { n.prs with delivered := n.prs.delivered.erase p } }
    if lineRegion line != r then n
    else if isForward p then refuseRetry (noteReq taken p) p 4 0
    else if p.opcode = 0x68 then sendWbAck taken p.src.toNat p.seq.toNat p.tag.toNat p.ctx.toNat p.pva.toNat stRetry
    else if p.opcode = 0x61 || p.opcode = 0x63 then poisonLine taken p.ctx.toNat e line
    else n

/-! ### Region containment (R481–R483) -/

/-- Steps 1 to 4 of a region's containment. -/
def contain (n : Node) (r : Nat) (masque : Bool) : Node :=
  let lost := forwardsIn n r
  let seqs := lost.map fun u => (u.pkt.dst.toNat, u.pkt.seq.toNat)
  let reqs := (n.trk.reqs.filter fun q => reqIn r q.2).map fun q => (q.1, q.2.fwds.any fun f => seqs.contains f)
  let n := lost.foldl loseForward n
  let n := reqs.foldl (fun n q => abortReq n q.1 q.2) n
  let cmds := (n.trk.cmds.filter fun c => c.2.region == r).map Prod.fst
  let c := cmds.foldl (fun (a : Node × Nat) tid => let f := abortCmd a.1 tid; (f.1, a.2 + bit01 f.2)) (n, 0)
  let n := n.prs.delivered.foldl (abortDelivered r) c.1
  let n := (List.range 8).foldl (fun n k => dropOperands n (8 * r + k)) n
  let n := { n with trk := { n.trk with starve := Tbl.del n.trk.starve r, escal := Tbl.del n.trk.escal r } }
  let g := getAt n.flt.regions r RegionState.reset
  let g := { g with resetting := true, resets := g.resets + bit01 (!masque), ended := reqs.length + c.2, masque := masque }
  { n with flt := { n.flt with regions := putAt n.flt.regions r g } }

/-- An uncorrectable error in a region's request state: containment, unless that fails. -/
def regionFails (n : Node) (r : Nat) (masque : Bool) : Node :=
  let g := getAt n.flt.regions r RegionState.reset
  let down := (n.flt.regions.toList.filter fun g => g.resetting).length
  if g.resetting || 2 ≤ down || (!masque && decide (cfgNum n 0x0302 ≤ g.resets)) then failModule n 24 r
  else contain n r masque

/-- A region accepts requests again. -/
def regionReset (r : Nat) (n : Node) : Node :=
  let g := getAt n.flt.regions r RegionState.reset
  if !g.resetting then n
  else
    let n := { n with flt := { n.flt with regions := putAt n.flt.regions r { g with resetting := false, ended := 0, masque := false } } }
    let n := logEvent n { otherEvent 3 16 with uclass := 4, unit_ := r, data0 := g.ended, data1 := bit01 g.masque }
    trackerFreed r (bump n (moduleFault (3 + r)) 1)

/-- REGION_RESET_COMPLETE. -/
def execRegionResetComplete (r : RegionId) (s : State) : Host.Outcome State Fault Refusal := .next (onTiles s (regionReset r.val))

/-- CONTAINMENT_TIMEOUT: a containment that has run for too long fails, and the module with it. -/
def execContainmentTimeout (r : RegionId) (s : State) : Host.Outcome State Fault Refusal :=
  .next (onTiles s fun n => if (getAt n.flt.regions r.val RegionState.reset).resetting then failModule n 24 r.val else n)

/-! ### UNCORRECTABLE_STATE_ERROR and MESH_REPLAY (R477–R479) -/

/-- UNCORRECTABLE_STATE_ERROR. -/
def stateFails (f : StateFault) (n : Node) : Node :=
  match f with
  | .region r => regionFails n r.val false
  | .portBlock r =>
    let n := (List.range 4).foldl (fun n k => portDown n (4 * r.val + k)) n
    [2 * r.val, 2 * r.val + 1].foldl (fun n d => if fieldOf (dportAt n d).status 1 0 = 2 then driveLost n d else n) n
  | .cached => { n with ctxs := { n.ctxs with xlate := [] } }
  | .range _ _ both => if both then failModule n 22 0 else n
  | .dedupe src both =>
    if both then logEvent { n with prs := { n.prs with wins := Tbl.del n.prs.wins src.toNat } } { otherEvent 3 18 with node := src.toNat }
    else n
  | .counter c => setErr (setCounter n c.toNat { counterOf n c.toNat with value := counterMax }) c.toNat
  | .chip => failModule n 22 0

/-- UNCORRECTABLE_STATE_ERROR. -/
def execUncorrectableStateError (f : StateFault) (s : State) : Host.Outcome State Fault Refusal := .next (onTiles s (stateFails f))

/-- MESH_REPLAY: the sender repeats; the eighth repeat of one flit or message fails the module. -/
def execMeshReplay (site tries : Nat) (s : State) : Host.Outcome State Fault Refusal :=
  .next (onTiles s fun n => if 8 ≤ tries then failModule n 23 site else n)

/-! ### VIGIL_PATROL_READ (R491, R492) -/

/-- VIGIL_PATROL_READ: a corrected error is rewritten, with the value it had; a line that cannot be read is repaired. The last line of
stack memory completes a pass. -/
def vigilRead (line : Nat) (corrected : Bool) (n : Node) : Node :=
  if !bitOf n.flt.vgLive 0 || (denseBase ≤ line * 64 && !bitOf n.flt.vgLive 2) then n
  else
    let n := bump n (moduleFault 11) 1
    let n := if corrected && lineValid n line then correctedError (homeTile n line) 0 none n else n
    let n := if n.mem.badCheck.contains line && !lineValid n line then lineFails line .stack n else n
    if line * 64 + 64 = stackTop then
      { n with flt := { n.flt with vgPasses := putField n.flt.vgPasses 31 0 (fieldOf n.flt.vgPasses 31 0 + 1) } }
    else n

/-- VIGIL_PATROL_READ. -/
def execVigilPatrolRead (line : Nat) (corrected : Bool) (s : State) : Host.Outcome State Fault Refusal :=
  .next (onTiles s (vigilRead line corrected))

/-! ### MASQUE_INTERVAL (R495–R498) -/

/-- The next enabled kind, in ascending order after the last. -/
def masqueKind (n : Node) : Option Nat :=
  ((List.range 7).map fun k => (n.flt.mqKind + 1 + k) % 7).find? fun k =>
    bitOf n.flt.mqLive.1 (k + 1) && natField (cfgNum n 0x030B) k k == 1

/-- A line whose loss its mirror can make good: mirrored, the mirror not lost, and not mirror-dirty (R497). -/
def masqueLine (n : Node) (r : Range) (line : Nat) : Bool :=
  r.peer != 0 && !r.mirrorRole && !isLost n r.peer && (Tbl.find? n.coh.mdirty line).isNone

/-- Tile-store lines that SRAM_FLIP2 can hit. -/
def flipLines (n : Node) : List Nat :=
  n.mem.blocks.flatMap fun b => match spanOf n (b.1 * 64) with
    | none => []
    | some (_, r) => ((List.range 64).map fun i => b.1 * 64 + i).filter fun l => b.2.valid.testBit (l % 64) && masqueLine n r l

/-- Regions of the trackers in use. -/
def usedTrackers (n : Node) : List Nat := (n.trk.reqs.map fun q => q.2.region) ++ (n.trk.cmds.map fun c => c.2.region)

/-- Ranges of stack memory that STACK_UE can hit. -/
def spoilRanges (n : Node) : List Range :=
  n.ctxs.slots.flatMap fun c => (c.2.ranges.map Prod.snd).filter fun r =>
    (r.resClass = 0 || r.resClass = 3) && r.peer != 0 && !r.mirrorRole && !isLost n r.peer && r.arrivingFrom = 0

/-- The line with an index among the lines of some ranges. -/
def lineOfIndex : List Range → Nat → Option Nat
  | [], _ => none
  | r :: rs, i => if i < rangeBytes r / 64 then some (r.localOff / 64 + i) else lineOfIndex rs (i - rangeBytes r / 64)

/-- Ports at full width both ways. -/
def widePorts (n : Node) : List Nat :=
  (List.range 32).filter fun i => let o := portAt n i; portState o = 2 && txGroups o = 15 && rxGroups o = 15

/-- NVMe commands that DENSE_TMO can hit. -/
def slowCommands (n : Node) : List Nat := (n.mem.nvme.filter fun c => (dportAt n c.2.port).timeouts = 0).map Prod.fst

/-- How many targets a kind has. -/
def masqueTargets (n : Node) (kind : Nat) : Nat :=
  let live := ((List.range 64).filter fun t => tileLive (tileAt n t)).length
  match kind with
  | 0 => live * 64
  | 1 => live
  | 2 => (flipLines n).length + (usedTrackers n).length
  | 3 => (spoilRanges n).foldl (fun k r => k + rangeBytes r / 64) 0
  | 4 => (widePorts n).length * 32
  | 5 => (slowCommands n).length
  | _ => bit01 (n.flt.feign = 0)

/-- The effect of an injection at a target. Flips that are corrected or replayed leave nothing behind but their count (R498). -/
def inject (n : Node) (kind i : Nat) : Node :=
  match kind with
  | 2 =>
    let ls := flipLines n
    if i < ls.length then lineFails (ls.getD i 0) .tile n
    else regionFails n ((usedTrackers n).getD (i - ls.length) 0) true
  | 3 =>
    match lineOfIndex (spoilRanges n) i with
    | some l => { n with mem := { n.mem with badCheck := n.mem.badCheck.filter (· != l) ++ [l] } }
    | none => n
  | 4 => ringRevisit ((widePorts n).getD (i / 32) 0) (decide (i / 16 % 2 = 1)) (i % 16) false false n
  | 5 =>
    let cid := (slowCommands n).getD i 0
    nvmeTimeout cid n
  | 6 => { n with flt := { n.flt with feign := fieldOf n.flt.mqLive.1 31 16 } }
  | _ => n

/-- MASQUE_INTERVAL: the next enabled kind is injected, or the injection is skipped and logged. -/
def masqueInterval (n : Node) : Node :=
  if !bitOf n.flt.mqLive.1 0 then n
  else
    match masqueKind n with
    | none => n
    | some kind =>
      let n := { n with flt := { n.flt with mqKind := kind } }
      let k := masqueTargets n kind
      let i := Config.masquePick (stochRandom (fieldOf n.flt.mqLive.1 63 32) (fieldOf n.flt.mqCount 31 0)) k % max 1 k
      let off := match kind with
        | 3 => (match lineOfIndex (spoilRanges n) i with
          | some l => (Tbl.find? n.coh.mdirty l).isSome
          | none => true)
        | _ => false
      let skip := n.ml.memb.suspended || (n.flt.regions.toList.any fun g => g.resetting) || k = 0 || off
      let count := fun (hi lo : Nat) (n : Node) =>
        { n with flt := { n.flt with mqCount := putField n.flt.mqCount hi lo (fieldOf n.flt.mqCount hi lo + 1) } }
      if skip then
        bump (logEvent (count 63 32 n) { otherEvent 8 2 with data0 := kind }) (moduleFault (20 + kind)) 1
      else
        let n := logEvent (count 31 0 n) { otherEvent 8 1 with data0 := kind, data1 := i, data2 := n.log.next }
        inject (bump n (moduleFault (13 + kind)) 1) kind i

/-- MASQUE_INTERVAL. -/
def execMasqueInterval (s : State) : Host.Outcome State Fault Refusal := .next (onTiles s masqueInterval)

/-! ### Commits of the error-band, Vigil and Masque blocks (R457, R490, R494, R499) -/

/-- A staged EB_CFG that a commit accepts. -/
def ebOk (n : Node) (w : Word) : Bool :=
  let f := fun (hi lo : Nat) => fieldOf w hi lo
  f 15 0 != 0 && decide (20 ≤ f 20 16 ∧ f 20 16 ≤ 30) && decide (f 23 21 ≤ 4 ∧ f 23 21 ≤ cfgNum n 0x0308) &&
    decide (f 25 24 ≤ cfgNum n 0x0309 ∧ f 26 26 ≤ cfgNum n 0x030A) && f 63 27 == 0

/-- EB_COMMIT: accepted, it takes effect at the next window boundary. -/
def ebCommit (w : Word) (n : Node) : Node :=
  if !bitOf w 0 then n
  else if ebOk n n.flt.ebStage then { n with flt := { n.flt with ebNext := n.flt.ebNext ++ [n.flt.ebStage] } }
  else { n with flt := { n.flt with ebStat := commitStatus n.flt.ebStat false n.flt.ebGen } }

/-- EB_COMMIT. -/
def execEbCommit (w : Word) (s : State) : Host.Outcome State Fault Refusal := .next (onNode s (ebCommit w))

/-- A staged VG_CFG that a commit accepts. -/
def vgOk (w : Word) : Bool :=
  let f := fun (hi lo : Nat) => fieldOf w hi lo
  decide (1 ≤ f 15 8 ∧ f 15 8 ≤ 50) && decide (20 ≤ f 20 16 ∧ f 20 16 ≤ 34) && f 7 3 == 0 && f 23 21 == 0 && f 63 32 == 0

/-- VG_COMMIT. -/
def vgCommit (w : Word) (n : Node) : Node :=
  if !bitOf w 0 then n
  else
    let ok := vgOk n.flt.vgStage
    let gen := if ok then nextGen n.flt.vgGen else n.flt.vgGen
    let live := if ok then n.flt.vgStage else n.flt.vgLive
    { n with flt := { n.flt with vgLive := live, vgGen := gen, vgStat := commitStatus n.flt.vgStat ok gen } }

/-- VG_COMMIT. -/
def execVgCommit (w : Word) (s : State) : Host.Outcome State Fault Refusal := .next (onNode s (vgCommit w))

/-- A staged Masque block that a commit accepts. -/
def mqOk (n : Node) (st : Word × Word) : Bool :=
  let kinds := fieldOf st.1 7 1
  ((List.range 7).all fun k => natField kinds k k == 0 || natField (cfgNum n 0x030B) k k == 1) &&
    decide (cfgNum n 0x030C ≤ fieldOf st.2 31 0) && decide (1 ≤ fieldOf st.1 31 16 ∧ fieldOf st.1 31 16 ≤ cfgNum n 0x030D) &&
    !(bitOf st.1 0 && kinds == 0) && fieldOf st.1 15 8 == 0 && fieldOf st.2 63 32 == 0

/-- MQ_COMMIT. -/
def mqCommit (w : Word) (n : Node) : Node :=
  if !bitOf w 0 then n
  else
    let ok := mqOk n n.flt.mqStage
    let gen := if ok then nextGen n.flt.mqGen else n.flt.mqGen
    let live := if ok then n.flt.mqStage else n.flt.mqLive
    { n with flt := { n.flt with mqLive := live, mqGen := gen, mqStat := commitStatus n.flt.mqStat ok gen } }

/-- MQ_COMMIT. -/
def execMqCommit (w : Word) (s : State) : Host.Outcome State Fault Refusal := .next (onNode s (mqCommit w))

end Sys2Proof.Machine
end

