-- ==== Sys2Proof/Machine/Manage.lean ====
section
/-! DEFINITION. What Halord does of its own: sensors, the policy engine, proposals, the log's way to flash, its watchdog, and the
flush before Standby (R29, R301, R485, R503, R521, R522, R526, R528–R538, R604). -/

namespace Sys2Proof.Machine

/-- The state with the policy engine changed. -/
def onPolicy (s : State) (f : Policy → Policy) : State := { s with hl := { s.hl with plc := f s.hl.plc } }

/-- One more policy step taken (R523). -/
def policyStep (s : State) : State := { s with nd := bump s.nd (0x138000 + 8 * 7) 1 }

/-! ### SENSOR_SAMPLE (R485, R521, R522) -/

/-- A sensor word's latest sample. -/
def sensorWord (s : State) (off : Nat) : Word := Tbl.getD s.hl.sens.words off 0

/-- The word after a sample. Temperature words carry VALID and FAULT; another sensor that gives no value keeps its last. -/
def sampled (off : Nat) (old : Word) (value : Option Word) : Word :=
  if off < 0x4A0 then
    match value with
    | some w => wordOf (fieldOf w 15 0 + 2 ^ 16)
    | none => wordOf (fieldOf old 15 0 + 2 ^ 17)
  else value.getD old

/-- A temperature in sixteenths of a degree, when its sensor is valid. -/
def tempOf (s : State) (off : Nat) : Option Int :=
  let w := sensorWord s off
  if bitOf w 16 && !bitOf w 17 then some ((BitVec.ofNat 16 (fieldOf w 15 0)).toInt) else none

/-- The hotter of two readings. -/
def hotterOf : Option Int → Option Int → Option Int
  | some a, some b => some (max a b)
  | some a, none => some a
  | none, b => b

/-- A tile's temperature: the higher of its valid sensors. -/
def tileTemp (s : State) (t : Nat) : Option Int := hotterOf (tempOf s (16 * t)) (tempOf s (16 * t + 8))

/-- Both of a tile's sensors are marked FAULT. -/
def tileBlind (s : State) (t : Nat) : Bool := bitOf (sensorWord s (16 * t)) 17 && bitOf (sensorWord s (16 * t + 8)) 17

/-- The lower edge of a band from 1 on, in degrees. -/
def bandEdge (b : Nat) : Int := 30 + 10 * (b : Int)

/-- The band a temperature lies in, from the band before: a higher band is entered at its lower edge, and left at 2 degrees below
it. -/
def nextBand (old : Nat) (t : Int) : Nat :=
  let up := ((List.range 8).filter fun b => b = 0 || decide (16 * bandEdge b ≤ t)).foldl max 0
  let stay := ((List.range (old + 1)).filter fun b => b = 0 || decide (16 * (bandEdge b - 2) < t)).foldl max 0
  max up stay

/-- The activity class of an occupancy, per cent. -/
def activityClass (p : Nat) : Nat := if p < 5 then 0 else if p < 40 then 1 else if p < 80 then 2 else 3

/-- SENSOR_SAMPLE: the samples stand in the sensor block, and the tiles' bands and activity classes follow. -/
def sensorSample (readings : List Reading) (occupancy : List (TileId × BitVec 7)) (s : State) : State :=
  if s.hl.restarting || s.nd.power.off then s
  else
    let words := readings.foldl (fun t r => Tbl.put t r.offset.toNat (sampled r.offset.toNat (Tbl.getD t r.offset.toNat 0) r.value)) s.hl.sens.words
    let s := { s with hl := { s.hl with sens := { s.hl.sens with words := words } } }
    let n := (List.range 64).foldl (fun n t => match tileTemp s t with
      | some c => let h := tileAt n t; setTile n t { h with state := putField h.state 42 40 (nextBand (bandOf h) c) }
      | none => n) s.nd
    let n := occupancy.foldl (fun n o =>
      let h := tileAt n o.1.val
      let k := activityClass o.2.toNat
      setTile n o.1.val { h with state := putField h.state 44 43 k, busy := h.busy || decide (k ≠ 0) }) n
    { s with nd := n }

/-- SENSOR_SAMPLE. -/
def execSensorSample (readings : List Reading) (occupancy : List (TileId × BitVec 7)) (s : State) : Host.Outcome State Fault Refusal :=
  .next (sensorSample readings occupancy s)

/-! ### PLC_COMMIT (R529–R532) -/

/-- A staged policy block that a commit accepts. -/
def plcOk (n : Node) (st : Word × Word × Word) : Bool :=
  let a := fun (hi lo : Nat) => fieldOf st.1 hi lo
  let b := fun (hi lo : Nat) => fieldOf st.2.1 hi lo
  let c := fun (hi lo : Nat) => fieldOf st.2.2 hi lo
  decide (400 ≤ a 15 0 ∧ a 15 0 ≤ 1150 ∧ a 15 0 ≤ cfgNum n 0x0401) && decide (64 ≤ a 31 24) && a 23 18 == 0 && a 63 32 == 0 &&
  decide (b 7 0 ≤ cfgNum n 0x0403 ∧ b 15 8 ≤ cfgNum n 0x0403 ∧ b 7 0 + 5 ≤ b 15 8) &&
  decide (b 23 16 ≤ cfgNum n 0x0404 ∧ b 31 24 ≤ cfgNum n 0x0404 ∧ b 23 16 + 5 ≤ b 31 24) &&
  decide (b 39 32 ≤ cfgNum n 0x0405 ∧ b 47 40 ≤ cfgNum n 0x0406) && b 63 48 == 0 &&
  (c 2 2 == 0 || cfgNum n 0x0408 != 0) && decide (c 15 8 ≤ cfgNum n 0x0407) && decide (50 ≤ c 23 16 ∧ c 23 16 ≤ 100) &&
  decide (c 31 24 + 10 ≤ c 23 16) && decide (c 34 32 ≤ cfgNum n 0x0408) && decide (4 ≤ c 44 40 ∧ c 44 40 ≤ 20) &&
  c 7 3 == 0 && c 39 35 == 0 && c 63 45 == 0

/-- PLC_COMMIT: accepted, it takes effect at the next policy-period boundary. -/
def plcCommit (w : Word) (s : State) : State :=
  if !bitOf w 0 then s
  else
    let p := s.hl.plc
    if plcOk s.nd p.stage then onPolicy s fun p => { p with next := p.next ++ [p.stage] }
    else onPolicy s fun p => { p with stat := commitStatus p.stat false p.gen }

/-- PLC_COMMIT. -/
def execPlcCommit (w : Word) (s : State) : Host.Outcome State Fault Refusal := .next (plcCommit w s)

/-! ### POLICY_PERIOD_END (R29, R533–R537) -/

/-- Committed blocks that waited become live, one after another. -/
def takePlcNext (s : State) : State :=
  s.hl.plc.next.foldl (fun s b => onPolicy s fun p =>
    { p with live := b, next := [], gen := nextGen p.gen, stat := commitStatus p.stat true (nextGen p.gen) }) s

/-- Input power over the last policy period, in tenths of a watt; none before it has been sampled. -/
def inputPower (s : State) : Option Nat := (Tbl.find? s.hl.sens.words 0x7A0).map fun w => fieldOf w 47 32

/-- Power capping: one step down above CAP_W, one back below 95 % of it (R533). -/
def powerStep (s : State) : State :=
  match inputPower s with
  | none => s
  | some p =>
    let c := s.hl.plc
    let cap := 10 * fieldOf c.live.1 15 0
    let deep := fieldOf c.live.1 17 16
    let floor := fieldOf c.live.1 31 24
    let set := fun (tile rate : Nat) => policyStep (onPolicy s fun c => { c with powerCap := tile, stackRate := rate })
    if cap < p then
      if c.powerCap < deep then set (c.powerCap + 1) c.stackRate
      else if floor < c.stackRate then set c.powerCap (max floor (c.stackRate - 16))
      else s
    else if 100 * p < 95 * cap then
      if c.stackRate < 256 then set c.powerCap (min 256 (c.stackRate + 16))
      else if 0 < c.powerCap then set (c.powerCap - 1) c.stackRate
      else s
    else s

/-- Power is above CAP_W with both floors reached (R533). -/
def powerStuck (s : State) : Bool :=
  let c := s.hl.plc
  match inputPower s with
  | some p => decide (10 * fieldOf c.live.1 15 0 < p ∧ fieldOf c.live.1 17 16 ≤ c.powerCap ∧ c.stackRate ≤ fieldOf c.live.1 31 24)
  | none => false

/-- A tile is in service and the last such of its region. -/
def lastLive (n : Node) (t : Nat) : Bool := tileLive (tileAt n t) && (successorTile n t).isNone

/-- The heat of one tile: its cap level, gating at TILE_CRIT and ungating below TILE_HOT (R534). -/
def tileHeat (s : State) (t : Nat) : State :=
  let hot : Int := 16 * (fieldOf s.hl.plc.live.2.1 7 0 : Int)
  let crit : Int := 16 * (fieldOf s.hl.plc.live.2.1 15 8 : Int)
  let level := Tbl.getD s.hl.plc.thermCap t 0
  let set := fun (s : State) (k : Nat) =>
    if k = level then s else policyStep (onPolicy s fun p => { p with thermCap := Tbl.put p.thermCap t k })
  if tileBlind s t then alertIn (set s 3) alTherm
  else
    match tileTemp s t with
    | none => s
    | some c =>
      let s := set s (if hot < c then min 3 (level + 1) else if c < hot - 48 then level - 1 else level)
      let h := tileAt s.nd t
      if crit ≤ c && tileLive h then
        if lastLive s.nd t then { s with nd := failModule s.nd 25 t }
        else
          let n := startLeave s.nd t true 10
          if (tileAt n t).leaving.isNone then s
          else policyStep (onPolicy { s with nd := n } fun p => { p with hotTiles := p.hotTiles.filter (· != t) ++ [t] })
      else if s.hl.plc.hotTiles.contains t && decide (c < hot) then
        policyStep (onPolicy { s with nd := startReturn s.nd t } fun p => { p with hotTiles := p.hotTiles.filter (· != t) })
      else s

/-- The heat of one stack (R534). -/
def stackHeat (s : State) (r : Nat) : State :=
  let hot : Int := 16 * (fieldOf s.hl.plc.live.2.1 23 16 : Int)
  match tempOf s (0x400 + 8 * r) with
  | none => s
  | some c =>
    let held := s.hl.plc.hotStacks.contains r
    if hot < c && !held then policyStep (onPolicy s fun p => { p with hotStacks := p.hotStacks ++ [r] })
    else if decide (c < hot - 48) && held then policyStep (onPolicy s fun p => { p with hotStacks := p.hotStacks.filter (· != r) })
    else s

/-- The heat of one optical cluster (R534). -/
def clusterHeat (s : State) (r : Nat) : State :=
  match tempOf s (0x440 + 8 * r) with
  | none => s
  | some c =>
    if 16 * (fieldOf s.hl.plc.live.2.1 39 32 : Int) < c then alertIn (logIn s { otherEvent 5 4 with data0 := r }) alTherm else s

/-- A stack at STACK_CRIT, or a board sensor at BOARD_CRIT (R534). -/
def tooHot (s : State) : Bool :=
  let at_ := fun (off : Nat) (limit : Nat) => ((tempOf s off).map fun c => decide (16 * (limit : Int) ≤ c)).getD false
  ((List.range 8).any fun r => at_ (0x400 + 8 * r) (fieldOf s.hl.plc.live.2.1 31 24)) ||
    (List.range 4).any fun k => at_ (0x480 + 8 * k) (fieldOf s.hl.plc.live.2.1 47 40)

/-- Ungating of idle tiles: one in each period, once a tile of its region has left class 0 (R537). -/
def ungateIdle (s : State) : State :=
  match s.hl.plc.idleTiles.find? fun t => (List.range 8).any fun k =>
      let h := tileAt s.nd (t / 8 * 8 + k)
      tileLive h && classOf h != 0 with
  | none => s
  | some t => policyStep (onPolicy { s with nd := startReturn s.nd t } fun p => { p with idleTiles := p.idleTiles.filter (· != t) })

/-- A frame for a prefetch: one that is invalid, or holds a clean block that no request uses (R536). -/
def prefetchFrame (n : Node) (chunk : Nat) : Option (Node × Nat) :=
  let set := Config.frameSet chunk % max 1 (frameSets n)
  let ways := (List.range 16).map fun i => set * 16 + i
  let clean := fun (x : CacheFrame) => frameIdle n x && x.dirty == 0 &&
    (List.range 16).all fun i => ((sliceBlock n (x.blk * 16 + i)).map (·.dirty)).getD 0 == 0
  if frameSets n = 0 then none
  else if ways.any fun f => match Tbl.find? n.mem.frames f with
      | none => true
      | some x => clean x then
    match ways.find? fun f => (Tbl.find? n.mem.frames f).isNone with
    | some _ => allocFrame n chunk
    | none =>
      (ways.find? fun f => ((Tbl.find? n.mem.frames f).map clean).getD false).bind fun f => allocFrame (evictFrame n f) chunk
  else none

/-- Prefetches the blocks of a range from one on, while frames allow: answers how many are left to fetch. -/
def prefetchFrom (r : Range) : Nat → Nat → Nat → Node → Node × Nat
  | 0, _, left, n => (n, left)
  | fuel + 1, chunk, left, n =>
    if left = 0 || !holdsLine r (chunk * 1024) then (n, left)
    else if (frameOf n chunk).isSome || writeBusy n (driveOf (chunk * 65536)) (lbaOf (chunk * 65536)) 16 then prefetchFrom r fuel (chunk + 1) left n
    else
      match prefetchFrame n chunk with
      | none => (n, left)
      | some (n, f) =>
        prefetchFrom r fuel (chunk + 1) (left - 1)
          (issueNvme n (driveOf (chunk * 65536)) 2 (lbaOf (chunk * 65536)) 16 false [] [] (.frameFill f))

/-- Prefetch after sampled misses to two consecutive blocks of one TIERED range (R536). The samples of the period are done with. -/
def prefetch (s : State) : State :=
  let ms := s.nd.mem.misses
  let n := { s.nd with mem := { s.nd.mem with misses := [] } }
  if !bitOf s.hl.plc.live.2.2 0 then { s with nd := n }
  else
    let out := ms.foldl (fun (a : Node × Nat) b =>
      match spanOf a.1 (b * 1024) with
      | some (_, r) =>
        if ms.contains (b + 1) && r.resClass = 1 && holdsLine r ((b + 1) * 1024) && !r.storeLost then prefetchFrom r 256 (b + 2) a.2 a.1 else a
      | none => a) (n, fieldOf s.hl.plc.live.2.2 15 8)
    { s with nd := out.1 }

/-- POLICY_PERIOD_END. After a failure by heat, Halord takes the module to Standby (R534). -/
def policyPeriodEnd (s : State) : State :=
  if s.hl.restarting || s.nd.power.off || s.nd.power.state < 2 then s
  else
    let s := powerStep (takePlcNext s)
    if tooHot s then enterStandby { s with nd := failModule s.nd 26 0 } 0x0501 false
    else
      let s := (List.range 64).foldl tileHeat s
      let s := (List.range 8).foldl (fun s r => clusterHeat (stackHeat s r) r) s
      let s := prefetch (ungateIdle s)
      onTiles s id

/-- POLICY_PERIOD_END. -/
def execPolicyPeriodEnd (s : State) : Host.Outcome State Fault Refusal := .next (policyPeriodEnd s)

/-! ### What follows from the levels and the alerts (R535, R541) -/

/-- A tile's clock cap level in force: the largest of its present band's cap, its thermal cap and the power cap (R535). -/
def clockCap (s : State) (t : TileId) : Nat :=
  let h := tileAt s.nd t.val
  let b := bandOf h
  max (max (natField h.state.toNat (2 * b + 25) (2 * b + 24)) (Tbl.getD s.hl.plc.thermCap t.val 0)) s.hl.plc.powerCap

/-- ALERT_N is driven low (R541). -/
def alertLow (n : Node) : Bool := n.log.alert &&& n.log.mask != 0

/-! ### EVALUATION_WINDOW_END (R533, R537, R538) -/

/-- Extents homed here as primary: context and map entry. -/
def ownExtents (n : Node) : List (Nat × MapEntry) :=
  n.ctxs.slots.flatMap fun c => (c.2.kept.filter fun e => e.primary == n.nodeId && !e.lost).map fun e => (c.1, e)

/-- The four largest of some extents by a measure, largest first. -/
def topFour (f : Nat × MapEntry → Nat) : List (Nat × MapEntry) → List (Nat × MapEntry)
  | [] => []
  | x :: xs =>
    let rest := topFour f xs
    ((rest.filter fun y => decide (f x ≤ f y)) ++ [x] ++ rest.filter fun y => decide (f y < f x)).take 4

/-- Halord writes one proposal into its ring, and logs it (R538). -/
def propose (s : State) (ctx start chunks cause load : Nat) : State :=
  let k := s.hl.plc.propLast + 1
  let ws := [wordOf start, wordOf (chunks + ctx * 2 ^ 32 + cause * 2 ^ 48), wordOf (load + k * 2 ^ 32), wordOf (s.nd.log.next % 2 ^ 48)]
  let s := onPolicy s fun p => { p with propLast := k, proposals := Tbl.put p.proposals ((k - 1) % 256) ws }
  policyStep (logIn s { otherEvent 5 5 with ctx := ctx, data0 := start, data1 := chunks, data2 := cause })

/-- The MiB that an extent moved in the window, as measured. -/
def trafficOf (traffic : List (BitVec 16 × Word × BitVec 32)) (x : Nat × MapEntry) : Nat :=
  ((traffic.find? fun t => t.1.toNat == x.1 && t.2.1.toNat == x.2.start).map fun t => t.2.2.toNat).getD 0

/-- The proposals of a window (R538). -/
def proposals (s : State) (bandwidth space : Nat) (traffic : List (BitVec 16 × Word × BitVec 32)) : State :=
  let m := s.hl.plc.live.2.2
  if !bitOf m 1 then s
  else if fieldOf m 23 16 < bandwidth then
    (topFour (trafficOf traffic) (ownExtents s.nd)).foldl (fun s x => propose s x.1 x.2.start x.2.chunks 1 (trafficOf traffic x)) s
  else if fieldOf m 23 16 < space then
    (topFour (fun x => x.2.chunks) (ownExtents s.nd)).foldl (fun s x => propose s x.1 x.2.start x.2.chunks 2 (x.2.chunks / 512)) s
  else if bandwidth < fieldOf m 31 24 && space < fieldOf m 31 24 then propose s 0 0 0 3 0
  else s

/-- Idle gating of a region whose live tiles all stayed in class 0: its highest tiles, up to GATE_MAX in all (R537). -/
def gateRegion (s : State) (r : Nat) : State :=
  let tiles := (List.range 8).map fun k => 8 * r + k
  let live := tiles.filter fun t => tileLive (tileAt s.nd t)
  if !bitOf s.hl.plc.live.2.2 2 || live.any fun t => (tileAt s.nd t).busy then s
  else
    let room := fieldOf s.hl.plc.live.2.2 34 32 - (s.hl.plc.idleTiles.filter fun t => tiles.contains t).length
    (live.reverse.take room).foldl (fun s t =>
      if lastLive s.nd t then s
      else
        let n := startLeave s.nd t true 11
        if (tileAt n t).leaving.isNone then s
        else policyStep (onPolicy { s with nd := n } fun p => { p with idleTiles := p.idleTiles ++ [t] })) s

/-- EVALUATION_WINDOW_END. -/
def evaluationWindowEnd (bandwidth space : Nat) (traffic : List (BitVec 16 × Word × BitVec 32)) (s : State) : State :=
  if s.hl.restarting || s.nd.power.off || s.nd.power.state < 2 then s
  else
    let s := if powerStuck s then alertIn (logIn s (otherEvent 5 6)) alPower else s
    let s := (List.range 8).foldl gateRegion (proposals s bandwidth space traffic)
    let tiles := s.nd.flt.tiles.map fun h => { h with busy := decide (classOf h ≠ 0) }
    onTiles { s with nd := { s.nd with flt := { s.nd.flt with tiles := tiles } } } id

/-- EVALUATION_WINDOW_END. -/
def execEvaluationWindowEnd (bandwidth space : BitVec 8) (traffic : List (BitVec 16 × Word × BitVec 32)) (s : State) :
    Host.Outcome State Fault Refusal := .next (evaluationWindowEnd bandwidth.toNat space.toNat traffic s)

/-! ### LOG_FLASH_COPY (R524, R526) -/

/-- Where the log area starts in flash (R547). -/
def logArea : Nat := 0x7000000

/-- An entry is written at a slot of the log area; the slot's erase block is erased before its reuse, which discards what it held. -/
def writeLogSlot (s : State) (e : LogEntry) (slot : Nat) (erase : Bool) : State :=
  let h := if erase then flashErase s.hl (logArea + slot / 1024 * 65536) 65536 else s.hl
  let first := if erase && 65536 ≤ e.lseq then max s.nd.log.first (e.lseq / 1024 * 1024 + 1024 - 65536) else s.nd.log.first
  { s with hl := flashWrite h (logArea + slot * 64) (logEncode e), nd := { s.nd with log := { s.nd.log with first := first } } }

/-- LOG_FLASH_COPY: the oldest staged entry goes to flash; a write that fails is retried in the next erase block. Once there is room
again, the entries not kept are covered by one of code 0x0Axx. -/
def logFlashCopy (ok : Bool) (s : State) : State :=
  if s.hl.restarting || s.nd.power.off then s
  else
    match s.nd.log.staged with
    | [] => s
    | e :: rest =>
      let slot := e.lseq % 65536
      let s := if ok then writeLogSlot s e slot (slot % 1024 == 0)
        else writeLogSlot s e ((slot + 1024) % 65536) true
      let l := s.nd.log
      let s := { s with nd := { s.nd with log := { l with staged := rest } } }
      if l.lost = 0 then s
      else
        let s := { s with nd := { s.nd with log := { s.nd.log with lost := 0 } } }
        alertIn (logIn s { otherEvent 10 0 with data0 := l.lost, data1 := l.lostFirst }) alLogDrop

/-- LOG_FLASH_COPY. -/
def execLogFlashCopy (ok : Bool) (s : State) : Host.Outcome State Fault Refusal := .next (logFlashCopy ok s)

/-! ### STANDBY_FLUSH (R301, R604) -/

/-- TIERED blocks of slices with dirty lines. -/
def dirtyTiered (n : Node) : List Nat :=
  (n.mem.blocks.filter fun b => b.2.dirty != 0 && (match spanOf n (b.1 * 64) with
    | some (_, r) => r.resClass == 1
    | none => false)).map Prod.fst

/-- Drives that are up. -/
def drivesUp (n : Node) : List Nat := (List.range 16).filter fun d => fieldOf (dportAt n d).status 1 0 = 2

/-- NVMe commands of a purpose are outstanding. -/
def nvmeOut (n : Node) (f : NvmeFor → Bool) : Bool := n.mem.nvme.any fun c => f c.2.purpose

/-- A write of a frame. -/
def isFrameWrite : NvmeFor → Bool
  | .frameWrite _ => true
  | _ => false

/-- STANDBY_FLUSH: once admitted work has ended, dirty TIERED sub-blocks are written, then every drive is flushed, and then the module
reports itself and stops beating; without two live keepers it enters Standby at once. The row is given again for each of these. -/
def standbyFlush (s : State) : State :=
  let n := s.nd
  let at_ := fun (n : Node) (k : Nat) => { s with nd := { n with power := { n.power with entry := k } } }
  if n.power.entry = 1 then
    if !n.trk.reqs.isEmpty || !n.trk.cmds.isEmpty then s
    else
      let n := (dirtyTiered n).foldl writeBack n
      let n := ((n.mem.frames.filter fun f => f.2.dirty != 0).map Prod.fst).foldl writeFrame n
      at_ n (if (dirtyTiered n).isEmpty then 2 else 1)
  else if n.power.entry = 2 then
    if nvmeOut n isFrameWrite then s
    else at_ ((drivesUp n).foldl (fun n d => issueNvme n d 0 0 0 false [] [] .flush) n) 3
  else if n.power.entry = 3 then
    if nvmeOut n (· == .flush) then s
    else
      let s := at_ (reportNode n n.nodeId) 4
      if keepersShort s.nd then enterStandby s 0x0501 false else s
  else s

/-- STANDBY_FLUSH. -/
def execStandbyFlush (s : State) : Host.Outcome State Fault Refusal := .next (standbyFlush s)

end Sys2Proof.Machine
end

