-- ==== Sys2Proof/Machine/Window.lean ====
section
/-! DEFINITION. The management window: what each register reads as and what a write to it does, by its access code (R12,
R455–R460, R511–R518). -/

namespace Sys2Proof.Machine

/-! ### Reads -/

/-- Halord's domain is on and the module is not held in reset: the window, the chain and I3C answer (R502, R599). -/
def aonUp (s : State) : Bool := !s.nd.power.off && s.nd.power.domains.contains 0

/-- The boot ROM found no slot that passes: it serves chain forwarding and, on the head, the upload of an image (R584). -/
def romOnly (s : State) : Bool := s.nd.power.holding && !s.nd.power.stepsDone.contains 2 && !s.nd.power.fromStandby

/-- The identity block (R513). -/
def identityWord (s : State) (o : Nat) : Word :=
  let n := s.nd
  if o = 0x000 then wordOf (Config.partId + Config.stepping * 2 ^ 32 + bit01 Config.gradeE * 2 ^ 40)
  else if o = 0x008 then Config.serialHash
  else if o = 0x010 then wordOf (n.nodeId + n.chainAddr * 2 ^ 16 + bit01 n.power.hostEn * 2 ^ 21 + n.alm.failureDomain * 2 ^ 32 +
    n.alm.personality * 2 ^ 48)
  else if o = 0x018 then wordOf (s.hl.sec.fwVersion + bit01 s.hl.sec.active * 2 ^ 32 + s.hl.sec.fuses * 2 ^ 40)
  else if o = 0x020 then wordOf (n.power.state + 4 * bit01 s.hl.sec.unsealed + 8 * bit01 n.power.failed +
    16 * bit01 n.ml.memb.suspended + n.power.bootCount * 2 ^ 32)
  else 0

/-- Words of write space the mailbox has: in the image area of a firmware session, what the flash has not taken counts
against it (R518, R579). -/
def mbxFree (s : State) : Nat :=
  let m := s.hl.mbx
  if m.closing.isSome then 0
  else if m.op = 2 && m.space = 3 && decide (0x1000000 ≤ m.addr.toNat) then
    match s.hl.session with
    | some x => if x.kind = 0 then 512 - min 512 (ceilDiv (x.bytes.length - x.programmed) 8) else 512
    | none => 512
  else if m.op = 2 then 512 - min 512 (m.toWrite.length + m.inFlight) else 512

/-- MBX_STAT (R518). -/
def mbxStat (s : State) : Word := putField (putField s.hl.mbx.stat 28 16 s.hl.mbx.buffer.length) 41 29 (mbxFree s)

/-- The mailbox's registers that a read leaves as they are (R517). -/
def mailboxWord (s : State) (o : Nat) : Word :=
  if o = 0x008 then s.hl.mbx.addr else if o = 0x018 then mbxStat s else if o = 0x020 then wordOf (s.hl.mbx.remain % 2 ^ 32) else 0

/-- The alert and log block (R515). -/
def alertWord (s : State) (o : Nat) : Word :=
  let l := s.nd.log
  if o = 0x000 then l.alert else if o = 0x008 then l.mask else if o = 0x010 then wordOf (l.first % 2 ^ 48)
  else if o = 0x018 then wordOf (l.last % 2 ^ 48) else if o = 0x020 then wordOf (l.dropped % 2 ^ 32)
  else if o = 0x028 then wordOf (s.hl.plc.propLast % 2 ^ 32) else 0

/-- Entry `k` of the context slot table (R514). -/
def slotWord (n : Node) (k : Nat) : Word :=
  match n.ctxs.slots.find? fun c => c.2.slotNo == k with
  | some c => wordOf c.1
  | none => 0

/-- The policy block (R529); the live copies at +0x800, the generation at the commit register's (R456). -/
def policyWord (s : State) (o : Nat) : Word :=
  let p := s.hl.plc
  if o = 0x000 then p.stage.1 else if o = 0x008 then p.stage.2.1 else if o = 0x010 then p.stage.2.2 else if o = 0x020 then p.stat
  else if o = 0x800 then p.live.1 else if o = 0x808 then p.live.2.1 else if o = 0x810 then p.live.2.2
  else if o = 0x818 then wordOf p.gen else 0

/-- A word of the proposal ring (R538). -/
def proposalWord (s : State) (o : Nat) : Word := wordAt (Tbl.getD s.hl.plc.proposals (o / 32) []) (o / 8 % 4)

/-- An Ohmas port's own registers (R134–R136, R511). -/
def oportWord (n : Node) (i o : Nat) : Word :=
  let p := portAt n i
  if o = 0x000 then p.status else if o = 0x008 then p.cfgStage else if o = 0x018 then p.stat
  else if o = 0x808 then p.cfgLive else if o = 0x810 then wordOf p.gen else 0

/-- The bucket a selector register names, or its reset values. -/
def selShaper (n : Node) (t : TrafficPort) : Bucket :=
  ((Tbl.find? t.shapers (fieldOf t.shpSel 15 0)).map fun sh => sh.bucket).getD (Bucket.fresh n.alm)

/-- The integer part of a bucket's level, signed (R461). -/
def levelWord (b : Bucket) : Word := BitVec.ofInt 64 (b.level / 65536)

/-- A port's traffic block (R461). -/
def trafficWord (n : Node) (i o : Nat) : Word :=
  let t := trafAt n i
  let b := selShaper n t
  if o ≤ 0x030 then (getAt t.tcs (o / 8) TcQueue.reset).cfgStage
  else if 0x800 ≤ o ∧ o ≤ 0x830 then (getAt t.tcs ((o - 0x800) / 8) TcQueue.reset).cfgLive
  else if o = 0x040 then t.stat else if o = 0x838 then wordOf t.gen
  else if o = 0x100 then t.shpSel &&& 0xFFFF else if o = 0x108 then t.shpStage.1 else if o = 0x110 then t.shpStage.2.1
  else if o = 0x118 then t.shpStage.2.2 else if o = 0x128 then t.shpStat else if o = 0x130 then levelWord b
  else if o = 0x908 then b.cfg else if o = 0x910 then b.rate else if o = 0x918 then b.burst else if o = 0x920 then wordOf b.gen
  else 0

/-- A dense port's registers (R329, R330). -/
def dportWord (n : Node) (d o : Nat) : Word :=
  let q := getAt n.mem.dports d DensePort.reset
  if o = 0x000 then q.status else if o = 0x008 then q.cfgStage else if o = 0x018 then q.stat
  else if o = 0x808 then q.cfgLive else if o = 0x810 then wordOf q.gen else 0

/-- The policer block (R466). -/
def policerWord (n : Node) (o : Nat) : Word :=
  let p := n.pol
  let b := (Tbl.find? p.buckets (fieldOf p.polSel 15 0)).getD (Bucket.fresh n.alm)
  if o = 0x000 then p.polSel &&& 0xFFFF else if o = 0x008 then p.polStage.1 else if o = 0x010 then p.polStage.2.1
  else if o = 0x018 then p.polStage.2.2 else if o = 0x028 then p.polStat else if o = 0x030 then levelWord b
  else if o = 0x808 then b.cfg else if o = 0x810 then b.rate else if o = 0x818 then b.burst else if o = 0x820 then wordOf b.gen
  else 0

/-- The error-band, Vigil and Masque blocks (R490, R494, R499), by block 1, 2, 3 of 4 KiB. -/
def faultWord (n : Node) (block o : Nat) : Word :=
  let f := n.flt
  if block = 1 then
    if o = 0x000 then f.ebStage else if o = 0x010 then f.ebStat else if o = 0x018 then f.ebSel
    else if o = 0x020 then (tileAt n (fieldOf f.ebSel 5 0)).state
    else if o = 0x800 then f.ebLive else if o = 0x808 then wordOf f.ebGen else 0
  else if block = 2 then
    if o = 0x000 then f.vgStage else if o = 0x010 then f.vgStat else if o = 0x018 then f.vgPasses &&& 0xFFFFFFFF
    else if o = 0x800 then f.vgLive else if o = 0x808 then wordOf f.vgGen else 0
  else
    if o = 0x000 then f.mqStage.1 else if o = 0x008 then f.mqStage.2 else if o = 0x018 then f.mqStat
    else if o = 0x020 then f.mqCount else if o = 0x800 then f.mqLive.1 else if o = 0x808 then f.mqLive.2
    else if o = 0x810 then wordOf f.mqGen else 0

/-- The host bridge block, which only the chain head has (R199). -/
def bridgeWord (n : Node) (o : Nat) : Word :=
  let b := n.bridge
  let x := winAt n (fieldOf b.winSel 2 0)
  if !n.power.hostEn then 0
  else if o = 0x000 then b.winSel &&& 7 else if o = 0x008 then b.winStage.1 else if o = 0x010 then b.winStage.2.1
  else if o = 0x018 then b.winStage.2.2 else if o = 0x028 then b.winStat else if o = 0x030 then b.ntfStage.1
  else if o = 0x038 then b.ntfStage.2 else if o = 0x048 then b.ntfStat
  else if o = 0x808 then x.cfg else if o = 0x810 then x.dpa else if o = 0x818 then x.pva else if o = 0x820 then wordOf x.gen
  else if o = 0x830 then b.ntfLive.1 else if o = 0x838 then b.ntfLive.2 else if o = 0x840 then wordOf b.ntfGen else 0

/-- The word of the management window at an offset; reserved offsets and write-only registers read 0 (R511). A read of
MBX_DATA has an effect of its own and is not answered here. -/
def windowWord (s : State) (off : Nat) : Word :=
  let n := s.nd
  if off % 8 ≠ 0 then 0
  else if off < 0x1000 then identityWord s off
  else if off < 0x2000 then mailboxWord s (off - 0x1000)
  else if off < 0x3000 then
    if off = 0x2000 then s.hl.chain.status else if off = 0x2008 then s.hl.chain.alert else 0
  else if off < 0x4000 then alertWord s (off - 0x3000)
  else if off < 0xC000 then slotWord n ((off - 0x4000) / 8)
  else if 0x10000 ≤ off ∧ off < 0x107A8 then Tbl.getD s.hl.sens.words (off - 0x10000) 0
  else if 0x18000 ≤ off ∧ off < 0x19000 then policyWord s (off - 0x18000)
  else if 0x19000 ≤ off ∧ off < 0x1B000 then proposalWord s (off - 0x19000)
  else if 0x20000 ≤ off ∧ off < 0x60000 then
    let i := (off - 0x20000) / 0x2000
    let o := (off - 0x20000) % 0x2000
    if o < 0x1000 then oportWord n i o else trafficWord n i (o - 0x1000)
  else if 0x60000 ≤ off ∧ off < 0x70000 then dportWord n ((off - 0x60000) / 0x1000) (off % 0x1000)
  else if 0x70000 ≤ off ∧ off < 0x71000 then policerWord n (off - 0x70000)
  else if 0x71000 ≤ off ∧ off < 0x74000 then faultWord n ((off - 0x70000) / 0x1000) (off % 0x1000)
  else if 0x74000 ≤ off ∧ off < 0x75000 then bridgeWord n (off - 0x74000)
  else if 0x100000 ≤ off ∧ off < 0x140000 then wordOf (Tbl.getD n.tele off 0)
  else 0

/-! ### Writes -/

/-- A W1C register after a write: the bits of `mask` that are written 1 become 0. -/
def clearBits (old mask w : Word) : Word := old &&& ~~~(w &&& mask)

/-- DIRECT_WR set in an object's status (R456, R460). -/
def directWr (stat : Word) : Word := putField stat 1 1 1

/-- The W1C bits of a status register under R460. -/
def statMask : Word := 7

/-- The alert and log block written: ALERT_STATUS by W1C, MASK at once. -/
def writeAlert (n : Node) (o : Nat) (w : Word) : Node :=
  if o = 0x000 then { n with log := { n.log with alert := clearBits n.log.alert 0x1FF w } }
  else if o = 0x008 then { n with log := { n.log with mask := w &&& 0x1FF } }
  else n

/-- The chain control block written (R516). -/
def writeChain (h : Halord) (o : Nat) (w : Word) : Halord :=
  if o = 0x000 then { h with chain := { h.chain with status := clearBits h.chain.status 0xF80 w } }
  else if o = 0x008 then { h with chain := { h.chain with alert := clearBits h.chain.alert 0xFFFF w } }
  else h

/-- The policy block written. -/
def writePolicy (s : State) (o : Nat) (w : Word) : State :=
  if o = 0x000 then onPolicy s fun p => { p with stage := (w &&& 0xFF03FFFF, p.stage.2) }
  else if o = 0x008 then onPolicy s fun p => { p with stage := (p.stage.1, w &&& 0xFFFFFFFFFFFF, p.stage.2.2) }
  else if o = 0x010 then onPolicy s fun p => { p with stage := (p.stage.1, p.stage.2.1, w &&& 0x1F07FFFFFF07) }
  else if o = 0x018 then plcCommit w s
  else if o = 0x020 then onPolicy s fun p => { p with stat := clearBits p.stat statMask w }
  else if o = 0x800 || o = 0x808 || o = 0x810 then onPolicy s fun p => { p with stat := directWr p.stat }
  else s

/-- An Ohmas port's registers written. -/
def writeOport (n : Node) (i o : Nat) (w : Word) : Node :=
  let p := portAt n i
  if o = 0x000 then setPort n i { p with status := clearBits p.status 0x3C0000000 w }
  else if o = 0x008 then setPort n i { p with cfgStage := w &&& 0x7F }
  else if o = 0x010 then oportCommit i w n
  else if o = 0x018 then setPort n i { p with stat := clearBits p.stat statMask w }
  else if o = 0x808 then setPort n i { p with stat := directWr p.stat }
  else n

/-- The staged registers of a shaper or policer, with one of them replaced: 0 CFG, 1 RATE, 2 BURST. -/
def putBucketStage (st : Word × Word × Word) (k : Nat) (w : Word) : Word × Word × Word :=
  if k = 0 then (w &&& 0xFF3F, st.2) else if k = 1 then (st.1, w &&& 0xFFFFFFFF, st.2.2) else (st.1, st.2.1, w &&& 0xFFFFFFFF)

/-- A write to a live copy of a traffic block is counted with its refused commits (R466). -/
def countDirect (n : Node) (i : Nat) : Node := bump n (trafCounter i 26) 1

/-- A port's traffic block written. -/
def writeTraffic (n : Node) (i o : Nat) (w : Word) : Node :=
  let t := trafAt n i
  if o ≤ 0x030 then
    let q := getAt t.tcs (o / 8) TcQueue.reset
    setTraf n i { t with tcs := putAt t.tcs (o / 8) { q with cfgStage := w &&& 0xFFFFFF01FF } }
  else if o = 0x038 then schedCommit i w n
  else if o = 0x040 then setTraf n i { t with stat := clearBits t.stat statMask w }
  else if 0x800 ≤ o ∧ o ≤ 0x830 then countDirect (setTraf n i { t with stat := directWr t.stat }) i
  else if o = 0x100 then shpSel i w n
  else if o = 0x108 || o = 0x110 || o = 0x118 then
    setTraf n i { t with shpStage := putBucketStage t.shpStage ((o - 0x108) / 8) w }
  else if o = 0x120 then shpCommit i w n
  else if o = 0x128 then setTraf n i { t with shpStat := clearBits t.shpStat statMask w }
  else if o = 0x908 || o = 0x910 || o = 0x918 then countDirect (setTraf n i { t with shpStat := directWr t.shpStat }) i
  else n

/-- A dense port's registers written. -/
def writeDport (n : Node) (d o : Nat) (w : Word) : Node :=
  let q := getAt n.mem.dports d DensePort.reset
  if o = 0x000 then setDport n d { q with status := clearBits q.status 0x38 w }
  else if o = 0x008 then setDport n d { q with cfgStage := w &&& 1 }
  else if o = 0x010 then dportCommit d w n
  else if o = 0x018 then setDport n d { q with stat := clearBits q.stat statMask w }
  else if o = 0x808 then setDport n d { q with stat := directWr q.stat }
  else n

/-- The policer block written. -/
def writePolicer (n : Node) (o : Nat) (w : Word) : Node :=
  let p := n.pol
  if o = 0x000 then polSel w n
  else if o = 0x008 then { n with pol := { p with polStage := (w &&& 0xFF31, p.polStage.2) } }
  else if o = 0x010 || o = 0x018 then { n with pol := { p with polStage := putBucketStage p.polStage ((o - 0x008) / 8) w } }
  else if o = 0x020 then polCommit w n
  else if o = 0x028 then { n with pol := { p with polStat := clearBits p.polStat statMask w } }
  else if o = 0x808 || o = 0x810 || o = 0x818 then { n with pol := { p with polStat := directWr p.polStat } }
  else n

/-- The error-band, Vigil and Masque blocks written. -/
def writeFault (n : Node) (block o : Nat) (w : Word) : Node :=
  let f := n.flt
  if block = 1 then
    if o = 0x000 then { n with flt := { f with ebStage := w &&& 0x7FFFFFF } }
    else if o = 0x008 then ebCommit w n
    else if o = 0x010 then { n with flt := { f with ebStat := clearBits f.ebStat statMask w } }
    else if o = 0x018 then { n with flt := { f with ebSel := w &&& 0x3F } }
    else if o = 0x800 then { n with flt := { f with ebStat := directWr f.ebStat } }
    else n
  else if block = 2 then
    if o = 0x000 then { n with flt := { f with vgStage := w &&& 0xFF1FFF07 } }
    else if o = 0x008 then vgCommit w n
    else if o = 0x010 then { n with flt := { f with vgStat := clearBits f.vgStat statMask w } }
    else if o = 0x800 then { n with flt := { f with vgStat := directWr f.vgStat } }
    else n
  else
    if o = 0x000 then { n with flt := { f with mqStage := (w &&& 0xFFFFFFFFFFFF00FF, f.mqStage.2) } }
    else if o = 0x008 then { n with flt := { f with mqStage := (f.mqStage.1, w &&& 0xFFFFFFFF) } }
    else if o = 0x010 then mqCommit w n
    else if o = 0x018 then { n with flt := { f with mqStat := clearBits f.mqStat statMask w } }
    else if o = 0x800 || o = 0x808 then { n with flt := { f with mqStat := directWr f.mqStat } }
    else n

/-- The host bridge block written, on the chain head (R199). -/
def writeBridge (n : Node) (o : Nat) (w : Word) : Node :=
  if !n.power.hostEn then n
  else if o = 0x000 then selectWindow w n
  else if o = 0x008 then onBridge n fun b => { b with winStage := (w &&& 0xFFFFFFFFFFFF0001, b.winStage.2) }
  else if o = 0x010 then onBridge n fun b => { b with winStage := (b.winStage.1, w &&& 0xFFFFFFFFFFF, b.winStage.2.2) }
  else if o = 0x018 then onBridge n fun b => { b with winStage := (b.winStage.1, b.winStage.2.1, w &&& 0x1FFFFFFFFFFFFFF) }
  else if o = 0x020 then commitWindow w n
  else if o = 0x028 then onBridge n fun b => { b with winStat := clearBits b.winStat statMask w }
  else if o = 0x030 then onBridge n fun b => { b with ntfStage := (w &&& 1, b.ntfStage.2) }
  else if o = 0x038 then onBridge n fun b => { b with ntfStage := (b.ntfStage.1, w) }
  else if o = 0x040 then commitNotify w n
  else if o = 0x048 then onBridge n fun b => { b with ntfStat := clearBits b.ntfStat statMask w }
  else if o = 0x808 || o = 0x810 || o = 0x818 then onBridge n fun b => { b with winStat := directWr b.winStat }
  else if o = 0x830 || o = 0x838 then onBridge n fun b => { b with ntfStat := directWr b.ntfStat }
  else n

/-- A write to a register of the data path's blocks. -/
def writeDataPath (n : Node) (off : Nat) (w : Word) : Node :=
  if 0x20000 ≤ off ∧ off < 0x60000 then
    let i := (off - 0x20000) / 0x2000
    let o := (off - 0x20000) % 0x2000
    if o < 0x1000 then writeOport n i o w else writeTraffic n i (o - 0x1000) w
  else if 0x60000 ≤ off ∧ off < 0x70000 then writeDport n ((off - 0x60000) / 0x1000) (off % 0x1000) w
  else if 0x70000 ≤ off ∧ off < 0x71000 then writePolicer n (off - 0x70000) w
  else if 0x71000 ≤ off ∧ off < 0x74000 then writeFault n ((off - 0x70000) / 0x1000) (off % 0x1000) w
  else if 0x74000 ≤ off ∧ off < 0x75000 then writeBridge n (off - 0x74000) w
  else n

/-- A write to the management window, MBX_CMD and MBX_DATA apart: read-only registers and reserved offsets ignore it
(R12, R511). -/
def windowWrite (off : Nat) (w : Word) (s : State) : State :=
  if off % 8 ≠ 0 then s
  else if off = 0x1008 then { s with hl := { s.hl with mbx := { s.hl.mbx with addr := w } } }
  else if off = 0x1018 then { s with hl := { s.hl with mbx := { s.hl.mbx with stat := clearBits s.hl.mbx.stat 0x1E w } } }
  else if 0x2000 ≤ off ∧ off < 0x3000 then { s with hl := writeChain s.hl (off - 0x2000) w }
  else if 0x3000 ≤ off ∧ off < 0x4000 then onNode s fun n => writeAlert n (off - 0x3000) w
  else if 0x18000 ≤ off ∧ off < 0x19000 then writePolicy s (off - 0x18000) w
  else onNode s fun n => writeDataPath n off w

end Sys2Proof.Machine
end

