-- ==== Sys2Proof/Machine/ChainOps.lean ====
section
/-! DEFINITION. What the chain's and the mailbox's commands share: frames sent and received, requests that await an answer, the
end of a mailbox transfer (R505–R507, R520). -/

namespace Sys2Proof.Machine

/-- The chain's own state changed. -/
def onChain (s : State) (f : Chain → Chain) : State := { s with hl := { s.hl with chain := f s.hl.chain } }

/-- The mailbox changed. -/
def onMbx (s : State) (f : Mailbox → Mailbox) : State := { s with hl := { s.hl with mbx := f s.hl.mbx } }

/-- The security state changed. -/
def onSec (s : State) (f : Security → Security) : State := { s with hl := { s.hl with sec := f s.hl.sec } }

/-- Counters of chapter 14 (R523): 0 chain frames, 1 CRC failures, 2 repeats, 3 discards, 4 BAR0 accesses refused. -/
def countHalord (s : State) (k : Nat) : State := { s with nd := bump s.nd (0x138000 + 8 * k) 1 }

/-- Bytes put on MGMT_OUT. -/
def putFrame (s : State) (bytes : Bytes) : State := { s with nd := emit s.nd (.chain bytes) }

/-- A frame of this module's own. -/
def ownFrame (s : State) (dst type tag status : Nat) (payload : Bytes) : Bytes :=
  chainEncode { dst := dst, src := s.nd.chainAddr, type := type, tag := tag, status := status, payload := payload }

/-- Sends a frame of this module's own. -/
def sendChain (s : State) (dst type tag status : Nat) (payload : Bytes) : State :=
  putFrame s (ownFrame s dst type tag status payload)

/-- Takes the next TAG. -/
def takeTag (s : State) : State × Nat :=
  (onChain s fun c => { c with nextTag := (c.nextTag + 1) % 256 }, s.hl.chain.nextTag)

/-- Sends a request whose answer is awaited (R507). -/
def askChain (s : State) (dst type : Nat) (payload : Bytes) (why : ChainFor) (words : Nat) : State :=
  let (s, tag) := takeTag s
  let frame := ownFrame s dst type tag 0 payload
  let q : ChainReq := { frame := frame, tag := tag, dst := dst, repeats := 0, purpose := why, words := words, got := none }
  putFrame (onChain s fun c => { c with reqs := c.reqs ++ [q] }) frame

/-- The payload of RD_REQ, and the head of WR_REQ's (R506). -/
def spaceHead (space count addr : Nat) : Bytes := leBytes 1 space ++ leBytes 1 count ++ List.replicate 6 0 ++ leBytes 8 addr

/-- A chain address is this module's own. -/
def ownAddr (s : State) (a : Nat) : Bool := a == s.nd.chainAddr && a != 0

/-- GROUP_SIZE (R516). -/
def chainSize (s : State) : Nat := fieldOf s.hl.chain.status 6 2

/-- A target of a mailbox transfer or request is enumerated and can be reached: the module itself, or at the head a module of the
enumerated group while the chain is not down (R519, R520). -/
def canReach (s : State) (target : Nat) : Bool :=
  target == 0 || ownAddr s target ||
    (s.nd.power.hostEn && bitOf s.hl.chain.status 1 && !s.hl.chain.down && decide (target ≤ chainSize s))

/-- MGMT_IN holds symbol lock: a frame has arrived (R516). -/
def rxLocked (s : State) : State := onChain s fun c => { c with status := putField c.status 0 0 1 }

/-- A frame arrives that a command takes as one of a TYPE. A module passes on, cut-through, every frame whose DST is not its own
address; it consumes a frame addressed to it, and a copy of one addressed to 31, which the head removes when it returns. A frame
whose CRC fails is counted and not consumed (R507). `bad` says what a module does besides with a frame whose CRC fails. -/
def chainReceive (s : State) (bytes : Bytes) (type : Nat) (use : ChainFrame → State → State) (bad : State → State) : State :=
  if !aonUp s then s
  else
    match chainDecode bytes with
    | none =>
      let s := countHalord (countHalord (rxLocked s) 0) 1
      if ownAddr s (numAt bytes 0 1 % 32) then countHalord s 3 else bad (putFrame s bytes)
    | some f =>
      if f.type ≠ type then s
      else
        let s := countHalord (rxLocked s) 0
        if romOnly s then putFrame s bytes
        else if ownAddr s f.dst then use f s
        else if f.dst = 31 then
          if s.nd.power.hostEn && ownAddr s f.src then use f s else use f (putFrame s bytes)
        else putFrame s bytes

/-- The mailbox transfer ends with a status: DONE and STATUS, and what it asked of the chain is no longer awaited (R518, R520). -/
def mbxEnd (s : State) (st : Nat) : State :=
  let keep := fun (q : ChainReq) => q.purpose == .gather
  onChain (onMbx s fun m => mbxEnded m st) fun c => { c with reqs := c.reqs.filter keep }

/-- BUSY (R518). -/
def mbxBusy (s : State) : Bool := bitOf s.hl.mbx.stat 0

/-- A request has ended with a status: LAST_ROP, LAST_STATUS, the entry 0x0710, and the transfer that carried it (R576, R594,
R595). -/
def requestDone (s : State) (rop st : Nat) : State :=
  let s := onSec s fun x => { x with lastRop := rop, lastStatus := st }
  let s := logIn s { sev := sevInfo, code := 0x710, data0 := rop + st * 2 ^ 8 }
  if s.hl.mbx.waits then mbxEnd s st else s

end Sys2Proof.Machine
end

