-- ==== Sys2Proof/Machine/Images.lean ====
section
/-! DEFINITION. Image sessions, staging, and the transfer of images along the chain (R571–R582). -/

namespace Sys2Proof.Machine

/-! ### Sessions and staging (R573, R579, R580) -/

/-- The image of a session, as the checks read it. -/
def sessionImage (x : ImgSession) : ImageBytes := fun o n => sliceOf x.bytes o n

/-- A session of `length` bytes with nothing written. -/
def freshSession (kind length session nchunk targets : Nat) (copy : Bool) : ImgSession :=
  { kind := kind, length := length, bytes := [], programmed := 0, staged := false, session := session, chunks := [], nchunk := nchunk,
    targets := targets, copyOrder := copy, holding := false, seen := 0, result := none }

/-- Halord's session replaced. -/
def setSession (s : State) (x : ImgSession) : State := { s with hl := { s.hl with session := some x } }

/-- Halord's session changed, where there is one. -/
def mapSession (s : State) (f : ImgSession → ImgSession) : State := { s with hl := { s.hl with session := s.hl.session.map f } }

/-- PENDING of the slot record set or cleared (R583). -/
def setPending (h : Halord) (b : Bool) : Halord := putSlotRecord { h with sec := { h.sec with pending := b } }

/-- A session opens and ends the old one. A firmware session unstages and erases the inactive slot (R579). -/
def openSession (s : State) (x : ImgSession) : State :=
  if x.kind = 0 then
    let h := setPending s.hl false
    setSession { s with hl := flashErase h (slotBase (!h.sec.active)) 0x3000000 } x
  else setSession s x

/-- Up to `k` bytes of a firmware session are programmed into the inactive slot. -/
def programBytes (s : State) (x : ImgSession) (k : Nat) : State :=
  let k := min k (x.bytes.length - x.programmed)
  let h := flashWrite s.hl (slotBase (!s.hl.sec.active) + x.programmed) (sliceOf x.bytes x.programmed k)
  setSession { s with hl := h } { x with programmed := x.programmed + k }

/-- A firmware image is verified and, when it passes, the inactive slot is marked pending (R573, R579). -/
def stageFirmware (s : State) (x : ImgSession) : State × Nat :=
  let st := verifyImage (sessionImage x) x.bytes.length s.hl.sec
  if st ≠ stOK then (s, st)
  else
    let s := programBytes s x x.length
    let s := mapSession s fun y => { y with staged := true }
    let s := { s with hl := setPending s.hl true }
    (logSecurity s { sev := sevNotice, code := 0x720, data0 := imageVersion (sessionImage x) }, stOK)

/-- An Almanac image written into a copy. -/
def writeAlmanac (h : Halord) (copy : Nat) (bs : Bytes) : Halord :=
  flashWrite (flashErase h (almBase copy) 0x40000) (almBase copy) bs

/-- The refusal of an Almanac image, by the tests of R551 and R580 in the order of R59. -/
def almanacStatus (s : State) (x : ImgSession) : Nat :=
  let check := almCheck (sessionImage x) s.hl.sec.ownerPub
  let newer := match check with
    | .passes a => x.copyOrder || !s.nd.alm.adopted || decide (s.nd.alm.agen < a.agen)
    | .fails _ => false
  let form := match check with
    | .passes _ => true
    | .fails t => t == 3
  (firstStatus [(!form || decide (x.bytes.length < x.length), stInvalid), (s.hl.sec.unsealed, stUnsealed),
    (x.copyOrder && !s.hl.sec.presOpen, stPresence), (!newer, stDenied)]).getD stOK

/-- An Almanac image is checked and written: into the copy that was not adopted; into both for a copy order, or when no copy is
valid (R580, R582). -/
def stageAlmanac (s : State) (x : ImgSession) : State × Nat :=
  let st := almanacStatus s x
  if st ≠ stOK then (s, st)
  else
    let h := if x.copyOrder || !s.nd.alm.adopted then writeAlmanac (writeAlmanac s.hl 0 x.bytes) 1 x.bytes
      else writeAlmanac s.hl (1 - s.nd.alm.copy) x.bytes
    (setSession { s with hl := h } { x with staged := true }, stOK)

/-- The session's image verified whole and staged (R579, R580). -/
def stageSession (s : State) (x : ImgSession) : State × Nat := if x.kind = 0 then stageFirmware s x else stageAlmanac s x

/-- A word lands in the image area: it continues from the last byte written and stays within LENGTH; the session refuses any other
(R576). -/
def landImageWord (s : State) (offset : Nat) (w : Word) : Option State :=
  match s.hl.session with
  | none => none
  | some x =>
    if x.session ≠ 0 || offset ≠ 0x1000000 + x.bytes.length || x.length < x.bytes.length + 8 then none
    else some (setSession s { x with bytes := x.bytes ++ leBytes 8 w.toNat, staged := false })

/-! ### The head's push (R582) -/

/-- Chain addresses a mask names. -/
def maskTargets (mask : Nat) : List Nat := (List.range 16).filterMap fun k => if natField mask k k = 1 then some (k + 1) else none

/-- The mask of the addresses of a list. -/
def targetMask (ts : List Nat) : Nat := (ts.map fun a => 2 ^ (a - 1)).foldl (· + ·) 0

/-- The status of a push: OK when every target answered OK, PARTIAL when some did, else the lowest-addressed target's. -/
def pushStatus (p : Push) : Nat :=
  let out := (maskTargets p.targets).map fun a => Tbl.getD p.results a stAborted
  if out.all (· == stOK) then stOK else if out.contains stOK then stPartial else out.headD stOK

/-- The push ends once every target has its outcome: PUSH_OK, PUSH_FAIL and the request's status (R582, R594). -/
def pushSettle (s : State) : State :=
  match s.hl.push with
  | none => s
  | some p =>
    let ts := maskTargets p.targets
    if ts.all fun a => (Tbl.find? p.results a).isSome then
      let good := ts.filter fun a => Tbl.getD p.results a stAborted = stOK
      let s := onSec s fun x => { x with pushOk := targetMask good, pushFail := p.targets - targetMask good }
      requestDone { s with hl := { s.hl with push := none } } (if p.copy then 0x14 else 0x03) (pushStatus p)
    else s

/-- An IMG_CHUNK's payload: chunk `i` of an image (R581). -/
def chunkPayload (session : Nat) (image : Bytes) (i : Nat) : Bytes :=
  let d := (image.drop (240 * i)).take 240
  leBytes 4 session ++ leBytes 4 i ++ leBytes 2 d.length ++ List.replicate 6 0 ++ d

/-- The head sends up to `k` new chunks, in INDEX order, unless an IMG_HOLD stands (R582). -/
def pushSend : Nat → State → State
  | 0, s => s
  | k + 1, s =>
    match s.hl.push with
    | none => s
    | some p =>
      if !p.holds.isEmpty || p.nchunk ≤ p.next then s
      else
        let s := sendChain s 31 0x11 p.tag 0 (chunkPayload p.session p.image p.next)
        pushSend k { s with hl := { s.hl with push := some { p with next := p.next + 1 } } }

/-- Chunks that the head keeps on the ring at a time. -/
def pushWindow : Nat := 4

/-- IMG_BEGIN of a push (R581). -/
def sendBegin (s : State) (p : Push) : State :=
  sendChain s 31 0x10 p.tag 0
    (leBytes 4 p.session ++ leBytes 1 p.kind ++ [0] ++ leBytes 2 p.targets ++ leBytes 4 p.image.length ++ leBytes 4 p.nchunk)

/-- The head begins a push: a new SESSION; targets that cannot be reached are ABORTED; the head's own copy is staged here; the others
get IMG_BEGIN and the first chunks (R581, R582). -/
def startPush (s : State) (kind : Nat) (image : Bytes) (targets : Nat) (copy : Bool) (own : State → State × Nat) : State :=
  let (s, tag) := takeTag s
  let session := s.hl.chain.nextSession
  let nchunk := ceilDiv image.length 240
  let s := onChain s fun c => { c with nextSession := c.nextSession % (2 ^ 32 - 1) + 1 }
  let mine := (maskTargets targets).any (ownAddr s)
  let (s, st) := if mine then own s else (s, stOK)
  let results := (maskTargets targets).foldl (fun t a =>
    if ownAddr s a then Tbl.put t a st else if canReach s a then t else Tbl.put t a stAborted) []
  let p : Push := { session := session, kind := kind, targets := targets, image := image, next := 0, nchunk := nchunk, holds := [],
                    results := results, copy := copy, tag := tag, repeats := 0 }
  let s := { s with hl := { s.hl with push := some p } }
  if (maskTargets targets).all fun a => (Tbl.find? results a).isSome then pushSettle s
  else
    pushSend pushWindow (sendBegin s p)

/-- A target's outcome at the head. -/
def pushResult (s : State) (a st : Nat) : State :=
  match s.hl.push with
  | none => s
  | some p =>
    if (maskTargets p.targets).contains a && (Tbl.find? p.results a).isNone then
      pushSettle { s with hl := { s.hl with push := some { p with results := Tbl.put p.results a st, holds := p.holds.filter (· != a) } } }
    else s

/-- Every target without an outcome is marked ABORTED (R507, R510). -/
def pushAbort (s : State) : State :=
  match s.hl.push with
  | none => s
  | some p => (maskTargets p.targets).foldl (fun s a => pushResult s a stAborted) s

/-! ### Targets (R582) -/

/-- Bytes a session has received and not yet written. -/
def unwritten (x : ImgSession) : Nat := x.bytes.length + (x.chunks.map fun c => c.2.length).foldl (· + ·) 0 - x.programmed

/-- Chunks that continue the contiguous part join it. -/
def absorb : Nat → ImgSession → ImgSession
  | 0, x => x
  | fuel + 1, x =>
    if x.bytes.length % 240 ≠ 0 then x
    else
      match Tbl.find? x.chunks (x.bytes.length / 240) with
      | none => x
      | some d => absorb fuel { x with chunks := Tbl.del x.chunks (x.bytes.length / 240), bytes := x.bytes ++ d }

/-- A chunk is held. -/
def holdsChunk (x : ImgSession) (i : Nat) : Bool := decide (240 * (i + 1) ≤ x.bytes.length) ||
  decide (240 * i < x.bytes.length) || (Tbl.find? x.chunks i).isSome

/-- IMG_NAK to the upstream neighbour for a chunk. -/
def sendNak (s : State) (session i : Nat) : State :=
  sendChain s (s.nd.chainAddr - 1) 0x12 0 0 (leBytes 4 session ++ leBytes 4 i)

/-- IMG_HOLD above 2 MiB of chunks not yet written, IMG_GO once that falls below 1 MiB. -/
def paceSession (s : State) (x : ImgSession) : State :=
  if !x.holding && decide (2 ^ 21 < unwritten x) then
    sendChain (setSession s { x with holding := true }) 1 0x13 0 0 (leBytes 4 x.session)
  else if x.holding && decide (unwritten x < 2 ^ 20) then
    sendChain (setSession s { x with holding := false }) 1 0x14 0 0 (leBytes 4 x.session)
  else setSession s x

/-- After the last chunk, and once a firmware image is written, the target verifies the whole image and sends IMG_RESULT. -/
def finishSession (s : State) : State :=
  match s.hl.session with
  | none => s
  | some x =>
    if x.session = 0 || x.nchunk = 0 || x.result.isSome || x.bytes.length < x.length then s
    else if x.kind = 0 && decide (x.programmed < x.bytes.length) then s
    else
      let (s, st) := stageSession s x
      let s := mapSession s fun y => { y with result := some st }
      sendChain s 1 0x15 0 st (leBytes 4 x.session)

/-- IMG_BEGIN at a module: a target opens the session; a new SESSION ends any older one. -/
def beginTarget (f : ChainFrame) (s : State) : State :=
  let session := numAt f.payload 0 4
  let kind := numAt f.payload 4 1
  let targets := numAt f.payload 6 2
  let length := numAt f.payload 8 4
  let nchunk := numAt f.payload 12 4
  let old := s.hl.session
  if ownAddr s f.src then s
  else if !(maskTargets targets).any (ownAddr s) || 1 < kind then
    match old with
    | some x => if x.session ≠ 0 && x.session ≠ session then { s with hl := { s.hl with session := none } } else s
    | none => s
  else
    let same := match old with
      | some x => x.session == session
      | none => false
    let begun := match old with
      | some x => same && x.nchunk != 0
      | none => false
    let copy := match old with
      | some x => same && x.copyOrder
      | none => false
    if begun then s else finishSession (openSession s (freshSession kind length session nchunk targets copy))

/-- The indexes below `i` that a session lacks, from `lo` on. -/
def missingFrom (x : ImgSession) (lo i : Nat) : List Nat := ((List.range (i - lo)).map (lo + ·)).filter fun k => !holdsChunk x k

/-- A good chunk at a target. -/
def takeChunk (s : State) (x : ImgSession) (toAll : Bool) (i : Nat) (d : Bytes) : State :=
  let gaps := if !toAll then [] else if x.seen ≤ i then missingFrom x x.seen i else missingFrom x 0 x.seen
  let again := holdsChunk x i
  let x := if again then x else absorb (x.chunks.length + 2) { x with chunks := Tbl.put x.chunks i d }
  let x := if toAll then { x with seen := max x.seen (i + 1) } else x
  let s := paceSession s x
  let s := (gaps.filter (· != i)).foldl (fun s k => sendNak s x.session k) s
  match x.result with
  | some st => if toAll then sendChain s 1 0x15 0 st (leBytes 4 x.session) else s
  | none => finishSession s

/-- IMG_CHUNK at a module: a neighbour downstream that waits for it is answered, and a target keeps it. At the head its return makes
room on the ring for the next. -/
def chunkArrives (f : ChainFrame) (s : State) : State :=
  let session := numAt f.payload 0 4
  let i := numAt f.payload 4 4
  let d := sliceOf f.payload 16 (numAt f.payload 8 2)
  if ownAddr s f.src then
    match s.hl.push with
    | some p =>
      if p.session = session then pushSend 1 { s with hl := { s.hl with push := some { p with repeats := 0 } } } else s
    | none => s
  else
    let s := if s.hl.chain.owed.contains (session, i) then
        onChain (sendChain s (s.nd.chainAddr + 1) 0x11 0 0 f.payload) fun c => { c with owed := c.owed.filter fun o => o != (session, i) }
      else s
    match s.hl.session with
    | none => s
    | some x => if x.session = session && x.nchunk != 0 && decide (i < x.nchunk) then takeChunk s x (f.dst == 31) i d else s

/-- A chunk whose CRC fails has passed: a target asks upstream for it. -/
def badChunk (bytes : Bytes) (s : State) : State :=
  match s.hl.session with
  | none => s
  | some x =>
    let i := numAt bytes 12 4
    if numAt bytes 0 1 % 32 = 31 && numAt bytes 8 4 = x.session && x.session ≠ 0 && decide (i < x.nchunk) && !holdsChunk x i then
      let s := setSession s { x with seen := max x.seen (i + 1) }
      sendNak ((missingFrom x x.seen i).foldl (fun s k => sendNak s x.session k) s) x.session i
    else s

/-- IMG_NAK: the module answers with the chunk when it holds it, the head always; else it asks upstream and answers later. -/
def nakArrives (f : ChainFrame) (s : State) : State :=
  let session := numAt f.payload 0 4
  let i := numAt f.payload 4 4
  let owe := fun (s : State) =>
    if s.nd.chainAddr ≤ 1 then s
    else sendNak (onChain s fun c => { c with owed := c.owed.filter (fun o => o != (session, i)) ++ [(session, i)] }) session i
  match s.hl.push with
  | some p =>
    if p.session = session then sendChain s f.src 0x11 0 0 (chunkPayload session p.image i) else owe s
  | none =>
    match s.hl.session with
    | some x =>
      if x.session = session && holdsChunk x i then
        let d := match Tbl.find? x.chunks i with
          | some d => d
          | none => (x.bytes.drop (240 * i)).take 240
        sendChain s f.src 0x11 0 0 (leBytes 4 session ++ leBytes 4 i ++ leBytes 2 d.length ++ List.replicate 6 0 ++ d)
      else owe s
    | none => owe s

/-! ### The commands -/

/-- IMG_BEGIN. -/
def imgBegin (frame : Bytes) (s : State) : State := chainReceive s frame 0x10 beginTarget id

/-- IMG_BEGIN. -/
def execImgBegin (frame : Bytes) (s : State) : Host.Outcome State Fault Refusal := .next (imgBegin frame s)

/-- IMG_CHUNK. -/
def imgChunk (frame : Bytes) (s : State) : State := chainReceive s frame 0x11 chunkArrives (badChunk frame)

/-- IMG_CHUNK. -/
def execImgChunk (frame : Bytes) (s : State) : Host.Outcome State Fault Refusal := .next (imgChunk frame s)

/-- IMG_NAK. -/
def imgNak (frame : Bytes) (s : State) : State := chainReceive s frame 0x12 nakArrives id

/-- IMG_NAK. -/
def execImgNak (frame : Bytes) (s : State) : Host.Outcome State Fault Refusal := .next (imgNak frame s)

/-- A hold or a go of a target, at the head. -/
def onPush (f : ChainFrame) (g : Push → Push) (s : State) : State :=
  match s.hl.push with
  | some p => if p.session = numAt f.payload 0 4 then { s with hl := { s.hl with push := some (g p) } } else s
  | none => s

/-- IMG_HOLD: no new chunk while it stands. -/
def imgHold (frame : Bytes) (s : State) : State :=
  chainReceive s frame 0x13 (fun f => onPush f fun p => { p with holds := p.holds.filter (· != f.src) ++ [f.src] }) id

/-- IMG_HOLD. -/
def execImgHold (frame : Bytes) (s : State) : Host.Outcome State Fault Refusal := .next (imgHold frame s)

/-- IMG_GO: with no IMG_HOLD left, chunks are sent again. -/
def imgGo (frame : Bytes) (s : State) : State :=
  chainReceive s frame 0x14 (fun f s => pushSend pushWindow (onPush f (fun p => { p with holds := p.holds.filter (· != f.src) }) s)) id

/-- IMG_GO. -/
def execImgGo (frame : Bytes) (s : State) : Host.Outcome State Fault Refusal := .next (imgGo frame s)

/-- IMG_RESULT: a target's outcome. -/
def resultArrives (f : ChainFrame) (s : State) : State :=
  match s.hl.push with
  | some p => if p.session = numAt f.payload 0 4 then pushResult s f.src f.status else s
  | none => s

/-- IMG_RESULT. -/
def imgResult (frame : Bytes) (s : State) : State := chainReceive s frame 0x15 resultArrives id

/-- IMG_RESULT. -/
def execImgResult (frame : Bytes) (s : State) : Host.Outcome State Fault Refusal := .next (imgResult frame s)

/-- Halord has programmed `k` bytes: mailbox space is freed, IMG_GO may follow, a target whose image is written verifies it, and a
POWER_REQ Standby that waited for the write takes effect (R542, R579, R582, R596). -/
def flashProgress (k : Nat) (s : State) : State :=
  if !aonUp s || s.hl.restarting then s
  else
    match s.hl.session with
    | none => s
    | some x =>
      if x.kind ≠ 0 then s
      else
        let s := programBytes s x k
        let s := match s.hl.session with
          | some x => if x.session = 0 then s else paceSession s x
          | none => s
        let s := finishSession s
        if s.nd.power.standbyWaits && decide (2 ≤ s.nd.power.state) && !flashBusy s.hl then
          setPower s fun p => { p with standbyWaits := false, entry := 1 }
        else s

/-- FLASH_PROGRAM_PROGRESS. -/
def execFlashProgramProgress (k : Nat) (s : State) : Host.Outcome State Fault Refusal := .next (flashProgress k s)

end Sys2Proof.Machine
end

