-- ==== Sys2Proof/Machine/Secure.lean ====
section
/-! DEFINITION. Security requests, physical presence, the seal, debug, identity and attestation (R575–R597). -/

namespace Sys2Proof.Machine

/-! ### The form of requests (R577) -/

/-- ROP of a request. -/
def ropOf (req : RequestWords) : Nat := fieldOf (wordAt req 0) 7 0

/-- Words of a request by ROP; none for an unknown ROP. RELAY's length follows from its inner request. -/
def ropWords (rop : Nat) : Option Nat :=
  if rop = 0x01 then some 2 else if rop = 0x02 then some 1 else if rop = 0x03 then some 2 else if rop = 0x04 then some 1
  else if rop = 0x08 then some 5 else if rop = 0x09 then some 1 else if rop = 0x10 then some 22 else if rop = 0x11 then some 10
  else if rop = 0x12 then some 9 else if rop = 0x13 then some 1 else if rop = 0x14 then some 2 else none

/-- The reserved bits of a request's operand words are 0. -/
def ropOperandsOk (req : RequestWords) : Bool :=
  let rop := ropOf req
  let w0 := wordAt req 0
  let w1 := wordAt req 1
  if rop = 0x01 then fieldOf w0 63 8 ≤ 1 && fieldOf w1 63 32 == 0
  else if rop = 0x03 then fieldOf w0 63 8 == 0 && fieldOf w1 63 16 == 0
  else if rop = 0x11 then fieldOf w0 63 8 == 0 && fieldOf w1 63 1 == 0
  else if rop = 0x14 then fieldOf w0 63 8 == 0 && fieldOf w1 7 4 == 0 && fieldOf w1 63 13 == 0
  else fieldOf w0 63 8 == 0

/-- A request, RELAY apart, has a known ROP, its number of words and no reserved bit set. -/
def requestOk (req : RequestWords) : Bool := ropWords (ropOf req) == some req.length && ropOperandsOk req

/-! ### Signatures (R578) -/

/-- An owner key is installed. -/
def owned (s : State) : Bool := !s.hl.sec.ownerPub.isEmpty

/-- A request's SIG, which starts at a word, verifies under the owner public key. -/
def sigOk (s : State) (req : RequestWords) (at_ : Nat) : Bool :=
  edVerify s.hl.sec.ownerPub
    (sha512 (wordsToBytes (req.take at_) ++ leBytes 8 Config.serialHash.toNat ++ leBytes 8 s.hl.sec.challenge.toNat))
    (wordsToBytes (req.drop at_))

/-- SIG is zero-filled, as it must be while no owner key is installed (R577). -/
def sigBlank (req : RequestWords) (at_ : Nat) : Bool := (req.drop at_).all (· == 0)

/-- A new CHALLENGE is drawn (R578). -/
def newChallenge (s : State) : State :=
  onSec s fun x => { x with challenge := Config.challenge x.challenges, challenges := x.challenges + 1 }

/-- After a signed request a new CHALLENGE is drawn, whether it succeeded or not (R578). -/
def afterSigned (signed : Bool) (r : State × Nat) : State × Nat := if signed then (newChallenge r.1, r.2) else r

/-! ### The presence window and the seal (R585, R586) -/

/-- The presence window closes (0x0702). -/
def closePresence (s : State) : State :=
  if s.hl.sec.presOpen then
    logSecurity (onSec s fun x => { x with presOpen := false }) { sev := sevNotice, code := 0x702 }
  else s

/-- The Unsealed state ends when the loop's last sample was closed (0x0704; R586). -/
def endUnsealed (s : State) : State :=
  if s.hl.sec.unsealed && s.hl.sec.sealOk then
    logSecurity (onSec s fun x => { x with unsealed := false, sealOpens := 0 }) { sev := sevNotice, code := 0x704 }
  else s

/-! ### Attestation and status words (R593, R594) -/

/-- The status words at 0x60E_8000 (R594). WINDOW_LEFT is a free value within a window's 2,862 units while one is open. -/
def securityWords (s : State) : Bytes :=
  let x := s.hl.sec
  let left := if x.presOpen then (Config.freeWord s.nd.free).toNat % 2863 else 0
  leBytes 8 (bit01 x.presOpen + 2 * bit01 x.presLow + 4 * bit01 x.sealOk + 8 * bit01 x.unsealed + 16 * bit01 (owned s) +
    32 * bit01 x.requireBind + 64 * bit01 x.debugOpen + 128 * bit01 x.cleared + 256 * bit01 x.pending + 512 * bit01 x.trial +
    left * 2 ^ 32) ++
  leBytes 8 x.challenge.toNat ++
  leBytes 8 (x.lastRop + x.lastStatus * 2 ^ 8 + x.pushOk * 2 ^ 16 + x.pushFail * 2 ^ 32) ++ leBytes 8 0

/-- Bytes 0–703 of an attestation report (R593). -/
def reportBody (s : State) (nonce : Bytes) : Bytes :=
  let n := s.nd
  let x := s.hl.sec
  leBytes 8 (0x5D96A77E + 2 ^ 32) ++
  leBytes 8 (Config.partId + Config.stepping * 2 ^ 32 + bit01 Config.gradeE * 2 ^ 40 + n.alm.personality * 2 ^ 48) ++
  leBytes 8 Config.serialHash.toNat ++
  leBytes 8 (n.nodeId + n.alm.failureDomain * 2 ^ 16 + n.power.bootCount * 2 ^ 32) ++
  leBytes 8 (x.fwVersion + x.fuses * 2 ^ 32 + bit01 x.active * 2 ^ 40 + bit01 x.unsealed * 2 ^ 48 + bit01 (owned s) * 2 ^ 49 +
    bit01 x.requireBind * 2 ^ 50 + bit01 x.debugOpen * 2 ^ 51 + bit01 x.cleared * 2 ^ 52) ++
  sliceOf nonce 0 32 ++ sliceOf transportPub 0 32 ++ leBytes 24 0 ++ sliceOf x.manifestDigest 0 64 ++
  ((List.range 6).flatMap fun k => sliceOf (x.partDigests.getD k []) 0 64) ++ sliceOf n.alm.digest 0 64 ++
  sliceOf x.ownerPub 0 32 ++ leBytes 32 0

/-- The 768-byte report: the body and its signature by the identity key. -/
def attestReport (s : State) (nonce : Bytes) : Bytes :=
  let body := reportBody s nonce
  body ++ edSign identitySeed (sha512 body)

/-! ### What a module runs for itself (R577) -/

/-- IMG_OPEN: KIND 0 takes 4,096 bytes to 48 MiB, KIND 1 takes 64 bytes to 256 KiB and no Unsealed module (R579, R580). -/
def runImgOpen (req : RequestWords) (s : State) : State × Nat :=
  let kind := fieldOf (wordAt req 0) 15 8
  let len := fieldOf (wordAt req 1) 31 0
  let fits := if kind = 0 then decide (4096 ≤ len ∧ len ≤ 0x3000000) else decide (64 ≤ len ∧ len ≤ 0x40000)
  match firstStatus [(!fits, stInvalid), (kind == 1 && s.hl.sec.unsealed, stUnsealed)] with
  | some st => (s, st)
  | none => (openSession s (freshSession kind len 0 0 0 false), stOK)

/-- IMG_STAGE: the mailbox's session is verified and staged (R579, R580). -/
def runImgStage (s : State) : State × Nat :=
  match s.hl.session with
  | some x => if x.session = 0 then stageSession s x else (s, stInvalid)
  | none => (s, stInvalid)

/-- IMG_UNSTAGE clears the pending mark (R579). -/
def runImgUnstage (s : State) : State × Nat :=
  let s := mapSession s fun x => if x.kind = 0 then { x with staged := false } else x
  ({ s with hl := setPending s.hl false }, stOK)

/-- ATTEST builds the report; it is DENIED while the secrets are zeroised or the identity key is not derived (R592, R593). -/
def runAttest (req : RequestWords) (s : State) : State × Nat :=
  if s.hl.sec.cleared || !s.hl.sec.identity then (s, stDenied)
  else (onSec s fun x => { x with report := attestReport s (wordsToBytes (req.drop 1)) }, stOK)

/-- The storage key that OWNER_SET carries, unwrapped (R588). -/
def ownerKey (s : State) (req : RequestWords) : Option Bytes :=
  if s.hl.sec.cleared || !s.hl.sec.identity then none
  else
    let secret := x25519 transportKey (wordsToBytes ((req.drop 5).take 4))
    kwUnwrap (hkdf512 secret [] (asciiOf "SX96-WRAP") 32) (wordsToBytes ((req.drop 9).take 5))

/-- OWNER_SET (R586, R588). -/
def runOwnerSet (req : RequestWords) (s : State) : State × Nat :=
  let signed := owned s
  let key := ownerKey s req
  match firstStatus [(!signed && !sigBlank req 14, stInvalid), (s.hl.sec.unsealed && !s.hl.sec.sealOk, stUnsealed),
      (!s.hl.sec.presOpen, stPresence), ((signed && !sigOk s req 14) || key.isNone, stDenied)] with
  | some st => afterSigned signed (s, st)
  | none =>
    let k := key.getD []
    let s := onSec s fun x => { x with
      ownerPub := wordsToBytes ((req.drop 1).take 4), storageKey := k, wrapped := kwWrap (secretKey "SX96-OWN") k }
    afterSigned signed (endUnsealed s, stOK)

/-- The refusals that BIND_SET and DEBUG_UNLOCK share: presence, an owner's signature, the seal (R577, R587). -/
def signedRefusal (req : RequestWords) (at_ : Nat) (also : Bool) (s : State) : Option Nat :=
  firstStatus [(!owned s && !sigBlank req at_, stInvalid), (s.hl.sec.unsealed, stUnsealed), (!s.hl.sec.presOpen, stPresence),
    ((owned s && !sigOk s req at_) || also, stDenied)]

/-- BIND_SET (R591). -/
def runBindSet (req : RequestWords) (s : State) : State × Nat :=
  afterSigned (owned s) (match signedRefusal req 2 false s with
    | some st => (s, st)
    | none => (onSec s fun x => { x with requireBind := bitOf (wordAt req 1) 0 }, stOK))

/-- DEBUG_UNLOCK, accepted only once the module is Ready (R590). -/
def runDebugUnlock (req : RequestWords) (s : State) : State × Nat :=
  afterSigned (owned s) (match signedRefusal req 1 (decide (s.nd.power.state < 2)) s with
    | some st => (s, st)
    | none => (onSec s fun x => { x with debugOpen := true }, stOK))

/-- FACTORY_RESET (R586, R589). -/
def runFactoryReset (s : State) : State × Nat :=
  if !s.hl.sec.presOpen then (s, stPresence)
  else
    let s := onSec s fun x => { x with ownerPub := [], wrapped := [], storageKey := [], requireBind := false }
    let s := { s with hl := flashErase (flashErase s.hl (almBase 0) 0x40000) (almBase 1) 0x40000 }
    (endUnsealed s, stOK)

/-- A request that the module runs for itself and that ends at once. -/
def runOwn (req : RequestWords) (s : State) : State × Nat :=
  let rop := ropOf req
  if !requestOk req then (s, stInvalid)
  else if romOnly s && !(decide (rop ≤ 2) && fieldOf (wordAt req 0) 15 8 == 0) then (s, stDenied)
  else if rop = 0x01 then runImgOpen req s
  else if rop = 0x02 then runImgStage s
  else if rop = 0x04 then runImgUnstage s
  else if rop = 0x08 then runAttest req s
  else if rop = 0x09 then (closePresence s, stOK)
  else if rop = 0x10 then runOwnerSet req s
  else if rop = 0x11 then runBindSet req s
  else if rop = 0x12 then runDebugUnlock req s
  else if rop = 0x13 then runFactoryReset s
  else (s, stInvalid)

/-! ### What the head runs over the chain (R577, R582) -/

/-- IMG_PUSH: a staged firmware session or a complete Almanac session goes to the targets; none where it is not yet known how it
ends. -/
def runImgPush (req : RequestWords) (s : State) : State × Option Nat :=
  match s.hl.session with
  | none => (s, some stInvalid)
  | some x =>
    let ready := x.session == 0 && (if x.kind = 0 then x.staged else x.bytes.length == x.length)
    if !requestOk req || !s.nd.power.hostEn || !ready then (s, some stInvalid)
    else
      let own := fun (s : State) => if x.kind = 0 then (s, stOK) else stageAlmanac s x
      (startPush s x.kind x.bytes (fieldOf (wordAt req 1) 15 0) false own, none)

/-- ROPs that RELAY carries. -/
def relayable (rop : Nat) : Bool := (ropWords rop).isSome && !([0x01, 0x02, 0x03, 0x14].contains rop)

/-- RELAY: the inner request goes to its target in a SEC_REQ (R577, R581). -/
def runRelay (req : RequestWords) (s : State) : State × Option Nat :=
  let target := fieldOf (wordAt req 0) 12 8
  let inner := req.drop 1
  if !s.nd.power.hostEn || fieldOf (wordAt req 0) 63 13 ≠ 0 || 16 < target || !relayable (ropOf inner) || !requestOk inner then
    (s, some stInvalid)
  else if !canReach s target then (s, some stAborted)
  else if target = 0 || ownAddr s target then
    let (s, st) := runOwn inner s
    (s, some st)
  else (askChain s target 0x16 (wordsToBytes inner) .relay 0, none)

/-- The stored Almanac of a slot: as long as its header says, or the whole slot. -/
def storedAlmanac (h : Halord) (slot : Nat) : Bytes :=
  let base := 0x6800000 + slot * 0x40000
  let w := bytesToWords 4 (flashRead h base 32)
  let len := fieldOf (wordAt w 1) 31 0 + (if fieldOf (wordAt w 3) 7 0 = 1 then 64 else 0)
  if fieldOf (wordAt w 0) 31 0 = 0x5D96A1A0 && 64 ≤ len && len ≤ 0x40000 then flashRead h base len else flashRead h base 0x40000

/-- The head's own copy order: presence, the seal and R551 against its own owner key (R577, R582). -/
def copyHere (bs : Bytes) (s : State) : State × Nat :=
  stageAlmanac s { freshSession 1 bs.length 0 0 0 true with bytes := bs }

/-- The copy order for the SESSION that the copy will have: the model's layout of its payload. -/
def copyOrderPayload (slot target session : Nat) : Bytes := leBytes 8 0x14 ++ leBytes 8 (slot + target * 2 ^ 8 + session * 2 ^ 32)

/-- ALMANAC_COPY: the target gets the copy order, and then the stored Almanac (R582). -/
def runAlmanacCopy (req : RequestWords) (s : State) : State × Option Nat :=
  let slot := fieldOf (wordAt req 1) 3 0
  let target := fieldOf (wordAt req 1) 12 8
  if !requestOk req || !s.nd.power.hostEn || target = 0 || 16 < target then (s, some stInvalid)
  else if !canReach s target then (s, some stAborted)
  else if ownAddr s target then
    let (s, st) := copyHere (storedAlmanac s.hl slot) s
    (s, some st)
  else (askChain s target 0x16 (copyOrderPayload slot target s.hl.chain.nextSession) (.copyOrder slot) 0, none)

/-- A request submitted at this module: its status, or none while it waits for the chain. -/
def runRequest (req : RequestWords) (s : State) : State × Option Nat :=
  let rop := ropOf req
  if s.hl.restarting then (s, some stAborted)
  else if romOnly s && decide (2 < rop) then (s, some stDenied)
  else if rop = 0x03 then runImgPush req s
  else if rop = 0x05 then runRelay req s
  else if rop = 0x14 then runAlmanacCopy req s
  else
    let (s, st) := runOwn req s
    (s, some st)

/-- The request whose last word has landed runs; its status ends the transfer (R576). -/
def launch (req : RequestWords) (s : State) : State :=
  let s := onMbx s fun m => { m with waits := true }
  match runRequest req s with
  | (s, some st) => requestDone s (ropOf req) st
  | (s, none) => s

/-- A request submitted through the mailbox in one transfer: while another runs, MBX_CMD's write is ignored with CMD_ERR (R518,
R576). -/
def submit (req : RequestWords) (s : State) : State :=
  if !aonUp s then s
  else if mbxBusy s then onMbx s fun m => { m with stat := putField m.stat 2 2 1 }
  else launch req (onMbx s fun m => { m with stat := putField m.stat 0 0 1, op := 2, space := 3, target := 0, buffer := [], remain := 0,
                                             addr := wordOf (8 * req.length) })

/-- A request row with the words of another request changes nothing. -/
def submitAs (ok : Bool) (req : RequestWords) (s : State) : State := if ok then submit req s else s

/-! ### The requests -/

/-- KIND of an IMG_OPEN. -/
def kindOf (req : RequestWords) : Nat := fieldOf (wordAt req 0) 15 8

/-- IMG_OPEN with KIND 0. -/
def execImgOpenFirmware (req : RequestWords) (s : State) : Host.Outcome State Fault Refusal :=
  .next (submitAs (ropOf req == 0x01 && kindOf req == 0) req s)

/-- IMG_OPEN with KIND 1. -/
def execImgOpenAlmanac (req : RequestWords) (s : State) : Host.Outcome State Fault Refusal :=
  .next (submitAs (ropOf req == 0x01 && kindOf req != 0) req s)

/-- IMG_STAGE. -/
def execImgStage (req : RequestWords) (s : State) : Host.Outcome State Fault Refusal := .next (submitAs (ropOf req == 0x02) req s)

/-- IMG_UNSTAGE. -/
def execImgUnstage (req : RequestWords) (s : State) : Host.Outcome State Fault Refusal := .next (submitAs (ropOf req == 0x04) req s)

/-- IMG_PUSH. -/
def execImgPush (req : RequestWords) (s : State) : Host.Outcome State Fault Refusal := .next (submitAs (ropOf req == 0x03) req s)

/-- RELAY. -/
def execRelay (req : RequestWords) (s : State) : Host.Outcome State Fault Refusal := .next (submitAs (ropOf req == 0x05) req s)

/-- ATTEST. -/
def execAttest (req : RequestWords) (s : State) : Host.Outcome State Fault Refusal := .next (submitAs (ropOf req == 0x08) req s)

/-- PRES_CLOSE. -/
def execPresClose (req : RequestWords) (s : State) : Host.Outcome State Fault Refusal := .next (submitAs (ropOf req == 0x09) req s)

/-- OWNER_SET. -/
def execOwnerSet (req : RequestWords) (s : State) : Host.Outcome State Fault Refusal := .next (submitAs (ropOf req == 0x10) req s)

/-- BIND_SET. -/
def execBindSet (req : RequestWords) (s : State) : Host.Outcome State Fault Refusal := .next (submitAs (ropOf req == 0x11) req s)

/-- DEBUG_UNLOCK. -/
def execDebugUnlock (req : RequestWords) (s : State) : Host.Outcome State Fault Refusal := .next (submitAs (ropOf req == 0x12) req s)

/-- FACTORY_RESET. -/
def execFactoryReset (req : RequestWords) (s : State) : Host.Outcome State Fault Refusal := .next (submitAs (ropOf req == 0x13) req s)

/-- ALMANAC_COPY. -/
def execAlmanacCopy (req : RequestWords) (s : State) : Host.Outcome State Fault Refusal := .next (submitAs (ropOf req == 0x14) req s)

/-! ### SEC_REQ and SEC_RSP (R581) -/

/-- The copy order at its target: presence and the seal are checked, and the next session of its SESSION is a copy (R577, R587). -/
def takeCopyOrder (s : State) (w : Word) : State × Nat :=
  match firstStatus [(s.hl.sec.unsealed, stUnsealed), (!s.hl.sec.presOpen, stPresence)] with
  | some st => (s, st)
  | none => (setSession s (freshSession 1 0 (fieldOf w 63 32) 0 0 true), stOK)

/-- A relayed request or copy order at its target: it runs here and its outcome is returned. -/
def secReqArrives (f : ChainFrame) (s : State) : State :=
  let req := bytesToWords (f.payload.length / 8) f.payload
  let (s, st) :=
    if f.payload.length % 8 ≠ 0 || req.isEmpty then (s, stInvalid)
    else if s.hl.restarting then (s, stAborted)
    else if ropOf req = 0x14 && req.length == 2 then takeCopyOrder s (wordAt req 1)
    else if relayable (ropOf req) then runOwn req s
    else (s, stInvalid)
  let s := onSec s fun x => { x with lastRop := ropOf req, lastStatus := st }
  let s := logIn s { sev := sevInfo, code := 0x710, data0 := ropOf req + st * 2 ^ 8 }
  sendChain s f.src 0x17 f.tag st []

/-- SEC_REQ. -/
def secReq (frame : Bytes) (s : State) : State :=
  chainReceive s frame 0x16 (fun f s => if f.dst = 31 then s else secReqArrives f s) id

/-- SEC_REQ. -/
def execSecReq (frame : Bytes) (s : State) : Host.Outcome State Fault Refusal := .next (secReq frame s)

/-- The request that a response answers. -/
def askedOf (s : State) (src tag : Nat) : Option ChainReq := s.hl.chain.reqs.find? fun q => q.dst == src && q.tag == tag && q.got.isNone

/-- A request no longer awaited. -/
def dropAsked (s : State) (tag : Nat) : State := onChain s fun c => { c with reqs := c.reqs.filter fun q => q.tag != tag }

/-- The outcome of a relayed request or a copy order at the head: the order's OK starts the copy. -/
def secRspArrives (f : ChainFrame) (s : State) : State :=
  match askedOf s f.src f.tag with
  | none => s
  | some q =>
    match q.purpose with
    | .relay => requestDone (dropAsked s f.tag) 0x05 f.status
    | .copyOrder slot =>
      let s := dropAsked s f.tag
      if f.status ≠ stOK then requestDone s 0x14 f.status
      else startPush s 1 (storedAlmanac s.hl slot) (2 ^ (f.src - 1)) true fun s => (s, stOK)
    | _ => s

/-- SEC_RSP. -/
def secRsp (frame : Bytes) (s : State) : State := chainReceive s frame 0x17 secRspArrives id

/-- SEC_RSP. -/
def execSecRsp (frame : Bytes) (s : State) : Host.Outcome State Fault Refusal := .next (secRsp frame s)

/-! ### Pins (R585, R586, R590) -/

/-- PRES_N has been low for 2^20 management cycles: the window opens, unless it is open already or PRES_N has not been released since
the last window (R585). -/
def presHold (s : State) : State :=
  if !aonUp s then s
  else
    let opens := s.hl.sec.presArmed && !s.hl.sec.presOpen
    let s := onSec s fun x => { x with presLow := true, presArmed := false, presOpen := x.presOpen || opens }
    if opens then logSecurity s { sev := sevNotice, code := 0x701 } else s

/-- PRES_N_HOLD. -/
def execPresNHold (s : State) : Host.Outcome State Fault Refusal := .next (presHold s)

/-- PRES_N_RELEASE: a later hold may open a window. -/
def execPresNRelease (s : State) : Host.Outcome State Fault Refusal :=
  .next (onSec s fun x => { x with presLow := false, presArmed := true })

/-- PRESENCE_WINDOW_EXPIRY. -/
def execPresenceWindowExpiry (s : State) : Host.Outcome State Fault Refusal := .next (closePresence s)

/-- A sample of the seal loop: two open ones in a row make the module Unsealed (R586). -/
def sealSample (closed : Bool) (s : State) : State :=
  if !s.nd.power.input || !s.nd.power.domains.contains 0 then s
  else if closed then onSec s fun x => { x with sealOk := true, sealOpens := 0 }
  else
    let s := onSec s fun x => { x with sealOk := false, sealOpens := min 2 (x.sealOpens + 1) }
    if s.hl.sec.sealOpens < 2 || s.hl.sec.unsealed then s
    else logSecurity (alertIn (closePresence (onSec s fun x => { x with unsealed := true })) alSecurity)
           { sev := sevError, code := 0x703 }

/-- SEAL_SAMPLE. -/
def execSealSample (closed : Bool) (s : State) : Host.Outcome State Fault Refusal := .next (sealSample closed s)

/-- The effects of R93: every context key, share key and derived secret is gone, and the fuse path stays blocked until the next cold
reset (R93, R590). -/
def scanZeroise (s : State) : State :=
  let s := zeroiseForBist s
  onSec s fun x => { x with cleared := true }

/-- The value of the instruction register that 0x0730 carries. -/
def tapCode : TapInstr → BitVec 8
  | .internal c => c
  | _ => Config.tapExtest

/-- A TAP instruction: EXTEST, or an internal one once DEBUG_UNLOCK has opened them; its first use zeroises the secrets (0x0730). The
TAP stays locked throughout a start (R590, R595). -/
def jtagLoad (ir : TapInstr) (s : State) : State :=
  let acts := match ir with
    | .extest => true
    | .internal _ => s.hl.sec.debugOpen && decide (2 ≤ s.nd.power.state)
    | _ => false
  if !aonUp s || !acts || s.hl.sec.cleared then s
  else logSecurity (scanZeroise s) { sev := sevWarn, code := 0x730, data0 := (tapCode ir).toNat }


/-- JTAG_INSTRUCTION. -/
def execJtagInstruction (ir : TapInstr) (s : State) : Host.Outcome State Fault Refusal := .next (jtagLoad ir s)

end Sys2Proof.Machine
end

