-- ==== Sys2Proof/Machine/Mailbox.lean ====
section
/-! DEFINITION. The mailbox, BAR0, I3C, writes to registers, and the watchdog (R12, R503, R512, R517–R520, R539, R540). -/

namespace Sys2Proof.Machine

/-! ### The spaces (R519, R527, R575, R583) -/

/-- Bytes of a space. -/
def spaceSize (space : Nat) : Nat :=
  if space = 0 then 2 ^ 24 else if space = 1 then 2 ^ 27 else if space = 2 then 2 ^ 22 else if space = 3 then 2 ^ 26 else 2 ^ 22

/-- The flash as the mailbox reads it: the owner record as zeros, the security status words and the report live (R583). -/
def flashWord (s : State) (a : Nat) : Word :=
  if 0x60E1000 ≤ a ∧ a < 0x60E2000 then 0
  else if 0x60E8000 ≤ a ∧ a < 0x60E8020 then wordOf (numAt (securityWords s) (a - 0x60E8000) 8)
  else if 0x60E9000 ≤ a ∧ a < 0x60E9300 then wordOf (numAt s.hl.sec.report (a - 0x60E9000) 8)
  else wordOf (leNat (flashRead s.hl a 8))

/-- The log: an entry still in the staging buffer is read from there, any other slot from flash (R527). -/
def logWord (s : State) (a : Nat) : Word :=
  match s.nd.log.staged.reverse.find? fun e => e.lseq % 65536 == a / 64 with
  | some e => wordOf (numAt (logEncode e) (a % 64) 8)
  | none => wordOf (leNat (flashRead s.hl (logArea + a) 8))

/-- The word of a space of this module. -/
def spaceWord (s : State) (space a : Nat) : Word :=
  if space = 0 then windowWord s a else if space = 1 then flashWord s a else if space = 2 then logWord s a
  else if space = 4 then wordOf (leNat (flashRead s.hl (0x6800000 + a) 8)) else 0

/-- The refusal of an access to a space, after its target has been found (checks 3 and 4 of R520). -/
def spaceRefusal (space addr count : Nat) (write : Bool) : Option Nat :=
  firstStatus [(decide (spaceSize space < addr + 8 * count) || addr % 8 != 0, stInvalid),
    (if write then space == 1 || space == 2 || space == 4 else space == 3, stDenied)]

/-! ### Transfers (R520) -/

/-- The transfer's target is this module. -/
def mbxLocal (s : State) : Bool := s.hl.mbx.target == 0 || ownAddr s s.hl.mbx.target

/-- `k` more words have been transferred. -/
def mbxAdvance (s : State) (k : Nat) : State :=
  onMbx s fun m => { m with addr := m.addr + wordOf (8 * k), remain := m.remain - k }

/-- A transfer with nothing left ends: with the status it was stopped with, or OK. -/
def mbxSettle (s : State) : State :=
  let m := s.hl.mbx
  if !mbxBusy s || m.waits then s
  else match m.closing with
    | some st => if m.toWrite.isEmpty && m.inFlight = 0 then mbxEnd s st else s
    | none => if m.remain = 0 && m.inFlight = 0 then mbxEnd s stOK else s

/-- Words of a local READ fetched ahead into the 512-word buffer. -/
def fetchLocal (s : State) : State :=
  let m := s.hl.mbx
  let k := min (512 - m.buffer.length) m.remain
  let ws := (List.range k).map fun i => spaceWord s m.space (m.addr.toNat + 8 * i)
  mbxSettle (mbxAdvance (onMbx s fun m => { m with buffer := m.buffer ++ ws }) k)

/-- Mailbox reads on the chain. -/
def readsOut (s : State) : Nat := (s.hl.chain.reqs.filter fun q => q.purpose == .mailboxRead).length

/-- RD_REQs of a READ from another module: up to four at a time, of up to 32 words, as long as the buffer has room for them. -/
def fetchRemote : Nat → State → State
  | 0, s => s
  | fuel + 1, s =>
    let m := s.hl.mbx
    let room := 512 - min 512 (m.buffer.length + m.inFlight)
    let k := min 32 (min room (m.remain - m.inFlight))
    if k = 0 || 4 ≤ readsOut s then s
    else
      let s := askChain s m.target 0x02 (spaceHead m.space k (m.addr.toNat + 8 * m.inFlight)) .mailboxRead k
      fetchRemote fuel (onMbx s fun m => { m with inFlight := m.inFlight + k })

/-- A READ fetches ahead. -/
def mbxFetch (s : State) : State :=
  if !mbxBusy s || s.hl.mbx.op ≠ 1 then s else if mbxLocal s then fetchLocal s else fetchRemote 4 s

/-- The next WR_REQ of a WRITE to another module, of up to 30 words, once the one before has been answered. -/
def mbxPump (s : State) : State :=
  let m := s.hl.mbx
  if m.inFlight ≠ 0 || m.toWrite.isEmpty then s
  else
    let ws := m.toWrite.take 30
    let s := askChain s m.target 0x03 (spaceHead m.space ws.length m.addr.toNat ++ wordsToBytes ws) .mailboxWrite ws.length
    onMbx s fun m => { m with toWrite := m.toWrite.drop 30, inFlight := ws.length }

/-- A WRITE to SPACE IMAGE may begin: a request of at most 32 words at ADDR 0, or image bytes that continue the open session within its
LENGTH (R575, R576). -/
def imageWriteOk (s : State) (addr count : Nat) : Bool :=
  if addr = 0 then decide (count ≤ 32)
  else match s.hl.session with
    | some x => x.session == 0 && addr == 0x1000000 + x.bytes.length && decide (x.bytes.length + 8 * count ≤ x.length)
    | none => false

/-- The status with which a transfer ends at once, if any, by R520's checks in their order. -/
def mbxRefusal (s : State) (op space target addr count : Nat) : Option Nat :=
  firstStatus [
    (decide (4 < space) || decide (16 < target) || (space == 3 && target != 0 && !ownAddr s target) ||
      (space == 4 && !(s.nd.power.hostEn && (target == 0 || ownAddr s target))), stInvalid),
    (!canReach s target || s.hl.restarting, stAborted),
    (romOnly s && space != 3, stDenied),
    ((spaceRefusal space addr count (op == 2)).isSome, (spaceRefusal space addr count (op == 2)).getD stOK),
    (op == 2 && space == 3 && count != 0 && !imageWriteOk s addr count, stInvalid)]

/-- A write to MBX_CMD with OP READ or WRITE starts a transfer when BUSY is 0 (R518, R520). -/
def mbxStart (op : Nat) (cmd : Word) (s : State) : State :=
  if mbxBusy s then onMbx s fun m => { m with stat := putField m.stat 2 2 1 }
  else
    let space := fieldOf cmd 7 4
    let target := fieldOf cmd 12 8
    let count := fieldOf cmd 47 16
    let s := onMbx s fun m =>
      { m with stat := putField m.stat 0 0 1, op := op, space := space, target := target, remain := count, buffer := [],
               toWrite := [], inFlight := 0, request := [], closing := none, waits := false }
    match mbxRefusal s op space target s.hl.mbx.addr.toNat count with
    | some st => mbxEnd s st
    | none => if count = 0 then mbxEnd s stOK else mbxFetch s

/-- ABORT ends the running transfer, and the push it waits for. -/
def mbxStop (s : State) : State :=
  if mbxBusy s then mbxEnd { s with hl := { s.hl with push := none } } stAborted else s

/-- A write to MBX_CMD: a reserved OP is ignored with CMD_ERR (R518). -/
def mbxCommand (cmd : Word) (s : State) : State :=
  let op := fieldOf cmd 3 0
  if op = 1 || op = 2 then mbxStart op cmd s
  else if op = 3 then mbxStop s
  else onMbx s fun m => { m with stat := putField m.stat 2 2 1 }

/-- A mailbox row with a command word of another OP changes nothing. -/
def mbxRow (op : Nat) (cmd : Word) (s : State) : State := if aonUp s && fieldOf cmd 3 0 == op then mbxCommand cmd s else s

/-- MBX_READ. -/
def execMbxRead (cmd : Word) (s : State) : Host.Outcome State Fault Refusal := .next (mbxRow 1 cmd s)

/-- MBX_WRITE. -/
def execMbxWrite (cmd : Word) (s : State) : Host.Outcome State Fault Refusal := .next (mbxRow 2 cmd s)

/-- MBX_ABORT. -/
def execMbxAbort (cmd : Word) (s : State) : Host.Outcome State Fault Refusal := .next (mbxRow 3 cmd s)

/-- A value handed to the reader of a register. -/
def giveValue (s : State) (w : Word) : State := { s with nd := emit s.nd (.value w) }

/-- A read of MBX_DATA: the next word and the state after; with AVAIL 0 it is 0 and UNDERRUN is set (R520). -/
def mbxTake (s : State) : Word × State :=
  match s.hl.mbx.buffer with
  | w :: rest => (w, mbxFetch (onMbx s fun m => { m with buffer := rest }))
  | [] => (0, onMbx s fun m => { m with stat := putField m.stat 3 3 1 })

/-- A read of MBX_DATA. -/
def mbxDataRead (s : State) : State := if aonUp s then (let r := mbxTake s; giveValue r.2 r.1) else s

/-- MBX_DATA_READ. -/
def execMbxDataRead (s : State) : Host.Outcome State Fault Refusal := .next (mbxDataRead s)

/-- A word of a WRITE to this module's own SPACE IMAGE: a word of a request, which runs when its last word lands, or of the image. -/
def imageWord (s : State) (w : Word) : State :=
  let a := s.hl.mbx.addr.toNat
  if a < 0x1000000 then
    let s := mbxAdvance (onMbx s fun m => { m with request := m.request ++ [w] }) 1
    if s.hl.mbx.remain = 0 then launch s.hl.mbx.request s else s
  else match landImageWord s a w with
    | some s => mbxSettle (mbxAdvance s 1)
    | none => mbxEnd s stInvalid

/-- A write of MBX_DATA (R520). -/
def mbxDataWrite (w : Word) (s : State) : State :=
  let m := s.hl.mbx
  if !aonUp s || !mbxBusy s || m.op ≠ 2 || m.waits || m.remain ≤ m.toWrite.length + m.inFlight then s
  else if mbxFree s = 0 then
    mbxSettle (onMbx s fun m => { m with stat := putField m.stat 4 4 1, closing := some stAborted })
  else if !mbxLocal s then mbxPump (onMbx s fun m => { m with toWrite := m.toWrite ++ [w] })
  else if m.space = 3 then imageWord s w
  else mbxSettle (mbxAdvance (windowWrite m.addr.toNat w s) 1)

/-- MBX_DATA_WRITE. -/
def execMbxDataWrite (w : Word) (s : State) : Host.Outcome State Fault Refusal := .next (mbxDataWrite w s)

/-- A mailbox write to the image area of SPACE IMAGE, `offset` in that space: a word that does not continue the open session within
its LENGTH is INVALID, and changes nothing else (R576). -/
def imageAreaWrite (offset : Nat) (w : Word) (s : State) : State :=
  if !aonUp s || mbxBusy s || s.hl.restarting then s
  else
    let done := fun (s : State) (st : Nat) => onMbx s fun m => { mbxEnded m st with addr := wordOf offset }
    if offset < 0x1000000 then done s stInvalid
    else match landImageWord s offset w with
      | some s => onMbx (done s stOK) fun m => { m with addr := wordOf (offset + 8) }
      | none => done s stInvalid

/-- IMAGE_AREA_WRITE. -/
def execImageAreaWrite (offset : Nat) (w : Word) (s : State) : Host.Outcome State Fault Refusal := .next (imageAreaWrite offset w s)

/-! ### Writes to registers (R12, R512) -/

/-- A write to the management window, the mailbox's own registers with it. -/
def registerPut (off : Nat) (w : Word) (s : State) : State :=
  if off = 0x1000 then mbxCommand w s
  else if off = 0x1010 then mbxDataWrite w s
  else windowWrite off w s

/-- A read of the management window, MBX_DATA with its effect. -/
def registerGet (off : Nat) (s : State) : Word × State := if off = 0x1010 then mbxTake s else (windowWord s off, s)

/-- BAR0 answers: AON is up, the module is the chain head, and the host bridge is on (R35, R512). -/
def bar0Up (s : State) : Bool := aonUp s && s.nd.power.hostEn && s.nd.power.domains.contains 2

/-- An access to BAR0 that is no aligned 8-byte read or write completes without effect, reads as 0 and is counted (R512). -/
def bar0BadAccess (s : State) : State := if bar0Up s then countHalord s 4 else s

/-- BAR0_BAD_ACCESS. -/
def execBar0BadAccess (s : State) : Host.Outcome State Fault Refusal := .next (bar0BadAccess s)

/-- A write to a register of the window. -/
def registerWrite (off : Nat) (w : Word) (s : State) : State :=
  if !aonUp s then s else if off % 8 ≠ 0 then bar0BadAccess s else registerPut off w s

/-- REGISTER_WRITE. -/
def execRegisterWrite (offset : BitVec 24) (w : Word) (s : State) : Host.Outcome State Fault Refusal :=
  .next (registerWrite offset.toNat w s)

/-! ### I3C (R539, R540) -/

/-- The hottest valid temperature among sensor words, signed; 0 when none is valid. -/
def hottest (s : State) (offs : List Nat) : BitVec 16 :=
  (offs.filterMap fun o =>
      let w := sensorWord s o
      if bitOf w 16 && !bitOf w 17 then some (BitVec.ofNat 16 (fieldOf w 15 0)) else none).foldl
    (fun (best : Option (BitVec 16)) x => match best with
      | none => some x
      | some b => if b.slt x then some x else some b) none |>.getD 0

/-- Index 0x05: the hottest valid tile, stack, optical and board temperatures. -/
def hottestWord (s : State) : Word :=
  let span := fun (base k : Nat) => (List.range k).map fun i => base + 8 * i
  wordOf ((hottest s (span 0x000 128)).toNat + (hottest s (span 0x400 8)).toNat * 2 ^ 16 + (hottest s (span 0x440 8)).toNat * 2 ^ 32 +
    (hottest s (span 0x480 4)).toNat * 2 ^ 48)

/-- The register an index names, as a private read returns it (R540). -/
def i3cWord (s : State) (index : Nat) : Word :=
  if index = 0x00 then windowWord s 0x000 else if index = 0x01 then windowWord s 0x010 else if index = 0x02 then windowWord s 0x020
  else if index = 0x03 then windowWord s 0x3000 else if index = 0x04 then windowWord s 0x107A0 else if index = 0x05 then hottestWord s
  else if index = 0x06 then windowWord s 0x3018 else 0

/-- POWER_REQ: 1 requests Standby, 2 Ready; any other value names no change (R540, R599). -/
def powerReq (w : Word) (s : State) : State :=
  if fieldOf w 1 0 = 1 then requestStandby s else if fieldOf w 1 0 = 2 then requestReady s else countRequest s

/-- A private write: its first byte chooses a register, and the 8 bytes after it are written to it (R540). -/
def i3cWrite (bytes : Bytes) (s : State) : State :=
  match bytes with
  | [] => s
  | ix :: rest =>
    if !aonUp s then s
    else
      let s := { s with hl := { s.hl with i3c := { s.hl.i3c with index := ix.toNat } } }
      if rest.length < 8 then s
      else
        let w := wordOf (leNat (rest.take 8))
        if ix = 0x03 then windowWrite 0x3000 w s
        else if ix = 0x07 then powerReq w s
        else s

/-- I3C_PRIVATE_WRITE. -/
def execI3cPrivateWrite (bytes : Bytes) (s : State) : Host.Outcome State Fault Refusal := .next (i3cWrite bytes s)

/-- The I3C target changed. -/
def onI3c (s : State) (f : I3c → I3c) : State := { s with hl := { s.hl with i3c := f s.hl.i3c } }

/-- In-band interrupts enabled or disabled, where bit 0 of the event byte names them. -/
def setIbi (data : Bytes) (b : Bool) (s : State) : State :=
  if bitOf (wordOf (leNat (data.take 1))) 0 then { s with nd := { s.nd with log := { s.nd.log with ibi := b } } } else s

/-- Bytes that a GET code returns: GETPID 6, GETBCR and GETDCR 1, GETSTATUS, GETMWL and GETMRL 2. -/
def cccLength (code : Nat) : Nat :=
  if code = 0x8D then 6 else if code = 0x8E || code = 0x8F then 1 else if code = 0x90 || code = 0x8B || code = 0x8C then 2 else 0

/-- A common command code: a dynamic address is taken by ENTDAA or SETDASA and dropped by RSTDAA; ENEC and DISEC switch in-band
interrupts; the GET codes return bytes that the manual does not give; any other code does nothing (R539). -/
def i3cCcc (code : Nat) (data : Bytes) (s : State) : State :=
  let address := some (leNat (data.take 1) / 2)
  if !aonUp s then s
  else if code = 0x07 || code = 0x87 then
    if s.hl.i3c.dynAddr.isSome || data.isEmpty then s else onI3c s fun i => { i with dynAddr := address }
  else if code = 0x06 then onI3c s fun i => { i with dynAddr := none }
  else if code = 0x00 || code = 0x80 then setIbi data true s
  else if code = 0x01 || code = 0x81 then setIbi data false s
  else if cccLength code = 0 then s
  else { s with nd := emit s.nd (.i3c ((List.range (cccLength code)).map (Config.i3cIdentity code))) }

/-- I3C_CCC. -/
def execI3cCcc (code : BitVec 8) (data : Bytes) (s : State) : Host.Outcome State Fault Refusal := .next (i3cCcc code.toNat data s)

/-! ### The watchdog (R503, R596) -/

/-- The watchdog expires: Halord's firmware restarts alone. The mailbox's transfer, the request it carries and the sessions in
Halord's SRAM end; an inactive slot being written is unstaged. -/
def watchdogExpiry (s : State) : State :=
  if !aonUp s || s.hl.restarting || romOnly s then s
  else
    let s := if mbxBusy s then mbxEnd s stAborted else s
    let h := { s.hl with restarting := true, push := none }
    let writing := match h.session with
      | some x => x.kind == 0 && !x.staged
      | none => false
    let h := if writing then setPending h false else h
    { s with hl := { h with session := none } }

/-- WATCHDOG_EXPIRY. -/
def execWatchdogExpiry (s : State) : Host.Outcome State Fault Refusal := .next (watchdogExpiry s)

/-- The restart finishes: policies resume, and the restart is logged (R503). -/
def restartComplete (s : State) : State :=
  if s.hl.restarting then logIn { s with hl := { s.hl with restarting := false } } (otherEvent 1 12) else s

/-- HALORD_RESTART_COMPLETE. -/
def execHalordRestartComplete (s : State) : Host.Outcome State Fault Refusal := .next (restartComplete s)

end Sys2Proof.Machine
end

