-- ==== Sys2Proof/Machine/Chain.lean ====
section
/-! DEFINITION. The Halord chain: enumeration, frames passed on, reads and writes at a target, their answers, alerts, repeats and the
loss of the chain (R504–R510, R516, R520, R554). -/

namespace Sys2Proof.Machine

/-! ### The head gathers Almanacs (R554) -/

/-- Length of an Almanac image by its 64-byte header; none where the header is no Almanac's. -/
def almHeadLength (h : Bytes) : Option Nat :=
  let w := bytesToWords 4 h
  let len := fieldOf (wordAt w 1) 31 0 + (if fieldOf (wordAt w 3) 7 0 = 1 then 64 else 0)
  if fieldOf (wordAt w 0) 31 0 = 0x5D96A1A0 && fieldOf (wordAt w 0) 47 32 = 1 && decide (64 ≤ len) && decide (len ≤ 0x40000) then some len
  else none

/-- AGEN of a header. -/
def almHeadGen (h : Bytes) : Nat := leNat (sliceOf h 16 4)

/-- The copy that a module with these two headers adopts, and its length (R551). -/
def almHeadChoice (h0 h1 : Bytes) : Option (Nat × Nat) :=
  match almHeadLength h0, almHeadLength h1 with
  | some a, some b => if almHeadGen h0 < almHeadGen h1 then some (1, b) else some (0, a)
  | some a, none => some (0, a)
  | none, some b => some (1, b)
  | none, none => none

/-- An adopted Almanac that differs from its slot is written into the slot. -/
def storeAlmanac (h : Halord) (slot : Nat) (bs : Bytes) : Halord :=
  let base := 0x6800000 + slot * 0x40000
  if flashRead h base bs.length = bs then h else flashWrite (flashErase h base 0x40000) base bs

/-- The next read of the gather. -/
def gatherAsk (s : State) (g : Gather) : State :=
  let off := if g.stage = 2 then almBase g.copy + g.bytes.length else almBase g.stage
  let k := if g.stage = 2 then min 32 (ceilDiv (g.length - g.bytes.length) 8) else 8
  askChain (onChain s fun c => { c with gather := some g }) g.target 0x02 (spaceHead 1 k off) .gather k

/-- The gather goes on at a chain address, or ends behind the last. -/
def gatherFrom (s : State) (a : Nat) : State :=
  if a ≤ chainSize s then gatherAsk s { target := a, stage := 0, heads := ([], []), copy := 0, length := 0, bytes := [] }
  else onChain s fun c => { c with gather := none }

/-- After enumeration the head stores its own Almanac and reads the others'. -/
def gatherStart (s : State) : State :=
  let n := s.nd
  let head := flashRead s.hl (almBase n.alm.copy) 64
  let h := if n.alm.adopted then storeAlmanac s.hl 0 (flashRead s.hl (almBase n.alm.copy) ((almHeadLength head).getD 0)) else s.hl
  let keep := fun (q : ChainReq) => q.purpose != .gather
  gatherFrom (onChain { s with hl := h } fun c => { c with reqs := c.reqs.filter keep }) 2

/-- An answer to a read of the gather. -/
def gatherAnswer (s : State) (st : Nat) (data : Bytes) : State :=
  match s.hl.chain.gather with
  | none => s
  | some g =>
    if st ≠ stOK then gatherFrom s (g.target + 1)
    else if g.stage = 0 then gatherAsk s { g with stage := 1, heads := (data, []) }
    else if g.stage = 1 then
      match almHeadChoice g.heads.1 data with
      | none => gatherFrom s (g.target + 1)
      | some (copy, len) => gatherAsk s { g with stage := 2, heads := (g.heads.1, data), copy := copy, length := len, bytes := [] }
    else
      let got := (g.bytes ++ data).take g.length
      if got.length < g.length then gatherAsk s { g with bytes := got }
      else gatherFrom { s with hl := storeAlmanac s.hl (g.target - 1) got } (g.target + 1)

/-! ### Enumeration (R508–R510) -/

/-- A bit of CHN_STATUS set. -/
def chainFlag (s : State) (bit : Nat) : State := onChain s fun c => { c with status := putField c.status bit bit 1 }

/-- ENUM sent onward. -/
def passEnum (s : State) (f : ChainFrame) (addr : Nat) : State :=
  putFrame s (chainEncode { f with src := s.nd.chainAddr, payload := leBytes 1 addr ++ f.payload.drop 1 })

/-- ENUM at the head: the one it sent has returned, or it is discarded with HEAD_CONFLICT. -/
def enumAtHead (f : ChainFrame) (s : State) : State :=
  if !s.hl.chain.enumOut || numAt f.payload 2 2 ≠ s.hl.chain.base then chainFlag s 7
  else
    let size := min 16 (numAt f.payload 0 1 - 1)
    let s := onChain s fun c =>
      { c with status := putField (putField c.status 1 1 1) 6 2 size, down := false, enumOut := false }
    advanceStart (gatherStart (takeNodeId s))

/-- ENUM at any other module. -/
def enumAtMember (f : ChainFrame) (s : State) : State :=
  let a := numAt f.payload 0 1
  if s.nd.chainAddr ≠ 0 then
    let s := if a = s.nd.chainAddr then s else chainFlag s 10
    passEnum s f ((a + 1) % 256)
  else if 16 < a then putFrame (chainFlag s 8) (chainEncode f)
  else
    let s := { s with nd := { s.nd with chainAddr := a } }
    let s := onChain s fun c => { c with base := numAt f.payload 2 2 }
    advanceStart (takeNodeId (passEnum s f (a + 1)))

/-- ENUM arrives. -/
def chainEnum (frame : Bytes) (s : State) : State :=
  if !aonUp s then s
  else match chainDecode frame with
    | none => countHalord (countHalord (countHalord (rxLocked s) 0) 1) 3
    | some f =>
      if f.type ≠ 1 || f.dst ≠ 0 then s
      else
        let s := countHalord (rxLocked s) 0
        if s.nd.power.hostEn then enumAtHead f s
        else if romOnly s then putFrame s frame
        else enumAtMember f s

/-- CHAIN_ENUM. -/
def execChainEnum (frame : Bytes) (s : State) : Host.Outcome State Fault Refusal := .next (chainEnum frame s)

/-- The head sends ENUM again, while its ENUM has not returned or the chain is down (R508, R510). -/
def chainEnumRetry (s : State) : State :=
  if aonUp s && s.nd.power.hostEn && (s.hl.chain.enumOut || s.hl.chain.down) && s.nd.chainAddr != 0 then sendEnum s else s

/-- CHAIN_ENUM_RETRY. -/
def execChainEnumRetry (s : State) : Host.Outcome State Fault Refusal := .next (chainEnumRetry s)

/-- MGMT_IN has lost symbol lock for 2^16 management cycles: the chain is down, targets of a push not yet heard of are ABORTED, and a
partial session ends (R510, R596). -/
def chainDown (s : State) : State :=
  if !aonUp s then s
  else
    let s := onChain s fun c => { c with down := true, status := putField (putField c.status 11 11 1) 0 0 0 }
    let s := logIn (alertIn s alChain) (otherEvent 9 1)
    let s := pushAbort s
    match s.hl.session with
    | some x => if x.session ≠ 0 && x.result.isNone then { s with hl := { s.hl with session := none } } else s
    | none => s

/-- CHAIN_DOWN. -/
def execChainDown (s : State) : Host.Outcome State Fault Refusal := .next (chainDown s)

/-! ### Frames (R506, R507) -/

/-- The TYPE values of R506 and R581. -/
def chainTypes : List Nat := [0x01, 0x02, 0x03, 0x04, 0x05, 0x06, 0x10, 0x11, 0x12, 0x13, 0x14, 0x15, 0x16, 0x17]

/-- A frame for another module passes on; one of a reserved TYPE that is this module's own is counted and discarded (R506, R507). -/
def chainForward (frame : Bytes) (s : State) : State :=
  if !aonUp s then s
  else match chainDecode frame with
    | none =>
      let s := countHalord (countHalord (rxLocked s) 0) 1
      if ownAddr s (numAt frame 0 1 % 32) then countHalord s 3 else putFrame s frame
    | some f =>
      let known := chainTypes.contains f.type
      if known && (ownAddr s f.dst || f.dst == 31 || f.type == 1) then s
      else
        let s := countHalord (rxLocked s) 0
        if ownAddr s f.dst then countHalord s 3
        else if f.dst = 31 then
          let s := countHalord s 3
          if s.nd.power.hostEn && ownAddr s f.src then s else putFrame s frame
        else putFrame s frame

/-- CHAIN_FRAME_FORWARD. -/
def execChainFrameForward (frame : Bytes) (s : State) : Host.Outcome State Fault Refusal := .next (chainForward frame s)

/-- The refusal of a chain access to this module's spaces (R506, R519, R520). -/
def chainRefusal (s : State) (f : ChainFrame) (most : Nat) (write : Bool) : Option Nat :=
  let space := numAt f.payload 0 1
  let count := numAt f.payload 1 1
  let len := 16 + (if write then 8 * count else 0)
  if f.payload.length ≠ len || count = 0 || most < count || numAt f.payload 2 6 ≠ 0 || 4 < space || space = 3 ||
     (space = 4 && !s.nd.power.hostEn) then some stInvalid
  else spaceRefusal space (numAt f.payload 8 8) count write

/-- `k` words read from a space on. -/
def readWords (space : Nat) : Nat → Nat → State → List Word × State
  | 0, _, s => ([], s)
  | k + 1, a, s =>
    let r := if space = 0 then registerGet a s else (spaceWord s space a, s)
    let rest := readWords space k (a + 8) r.2
    (r.1 :: rest.1, rest.2)

/-- RD_REQ at its target. -/
def readAtTarget (f : ChainFrame) (s : State) : State :=
  match chainRefusal s f 32 false with
  | some st => sendChain s f.src 0x04 f.tag st []
  | none =>
    let r := readWords (numAt f.payload 0 1) (numAt f.payload 1 1) (numAt f.payload 8 8) s
    sendChain r.2 f.src 0x04 f.tag stOK (wordsToBytes r.1)

/-- What a frame addressed to this module does; a frame addressed to all modules is no request or response. -/
def onlyOwn (g : ChainFrame → State → State) (f : ChainFrame) (s : State) : State := if f.dst = 31 then s else g f s

/-- CHAIN_RD_REQ. -/
def chainRdReq (frame : Bytes) (s : State) : State := chainReceive s frame 0x02 (onlyOwn readAtTarget) id

/-- CHAIN_RD_REQ. -/
def execChainRdReq (frame : Bytes) (s : State) : Host.Outcome State Fault Refusal := .next (chainRdReq frame s)

/-- Words written to registers of the window in order. -/
def writeWords : List Word → Nat → State → State
  | [], _, s => s
  | w :: rest, a, s => writeWords rest (a + 8) (registerPut a w s)

/-- WR_REQ at its target: a repeat of the last TAG of its source is answered from the record and not written again (R507). -/
def writeAtTarget (f : ChainFrame) (s : State) : State :=
  match Tbl.find? s.hl.chain.lastWr f.src with
  | some (tag, st) => if tag = f.tag then sendChain s f.src 0x05 f.tag st [] else fresh s
  | none => fresh s
where
  fresh (s : State) : State :=
    let st := (chainRefusal s f 30 true).getD stOK
    let s := if st = stOK then
        writeWords (bytesToWords (numAt f.payload 1 1) (f.payload.drop 16)) (numAt f.payload 8 8) s
      else s
    let s := onChain s fun c => { c with lastWr := Tbl.put c.lastWr f.src (f.tag, st) }
    sendChain s f.src 0x05 f.tag st []

/-- CHAIN_WR_REQ. -/
def chainWrReq (frame : Bytes) (s : State) : State := chainReceive s frame 0x03 (onlyOwn writeAtTarget) id

/-- CHAIN_WR_REQ. -/
def execChainWrReq (frame : Bytes) (s : State) : Host.Outcome State Fault Refusal := .next (chainWrReq frame s)

/-- Answers of the mailbox's reads, taken in the order the reads were sent; the first failing status ends the transfer (R520). -/
def drainReads : Nat → State → State
  | 0, s => s
  | fuel + 1, s =>
    match s.hl.chain.reqs.find? fun q => q.purpose == .mailboxRead with
    | none => s
    | some q =>
      match q.got with
      | none => s
      | some (st, ws) =>
        if st ≠ stOK then mbxEnd s st
        else
          let s := onMbx (dropAsked s q.tag) fun m => { m with buffer := m.buffer ++ ws, inFlight := m.inFlight - ws.length }
          drainReads fuel (mbxAdvance s ws.length)

/-- The answer is recorded at its request. -/
def recordAnswer (s : State) (tag st : Nat) (ws : List Word) : State :=
  onChain s fun c => { c with reqs := c.reqs.map fun q => if q.tag = tag then { q with got := some (st, ws) } else q }

/-- RD_RSP at its requester. -/
def readAnswered (f : ChainFrame) (s : State) : State :=
  match askedOf s f.src f.tag with
  | none => s
  | some q =>
    if f.status = stOK && f.payload.length ≠ 8 * q.words then countHalord s 3
    else match q.purpose with
      | .mailboxRead =>
        mbxFetch (mbxSettle (drainReads 5 (recordAnswer s f.tag f.status (bytesToWords q.words f.payload))))
      | .gather => gatherAnswer (dropAsked s f.tag) f.status f.payload
      | _ => s

/-- CHAIN_RD_RSP. -/
def chainRdRsp (frame : Bytes) (s : State) : State := chainReceive s frame 0x04 (onlyOwn readAnswered) id

/-- CHAIN_RD_RSP. -/
def execChainRdRsp (frame : Bytes) (s : State) : Host.Outcome State Fault Refusal := .next (chainRdRsp frame s)

/-- WR_RSP at its requester: the words it answers have been transferred, and the next are sent. -/
def writeAnswered (f : ChainFrame) (s : State) : State :=
  match askedOf s f.src f.tag with
  | none => s
  | some q =>
    if q.purpose != .mailboxWrite then s
    else if f.status ≠ stOK then mbxEnd s f.status
    else
      let s := onMbx (mbxAdvance (dropAsked s f.tag) q.words) fun m => { m with inFlight := 0 }
      mbxSettle (mbxPump s)

/-- CHAIN_WR_RSP. -/
def chainWrRsp (frame : Bytes) (s : State) : State := chainReceive s frame 0x05 (onlyOwn writeAnswered) id

/-- CHAIN_WR_RSP. -/
def execChainWrRsp (frame : Bytes) (s : State) : Host.Outcome State Fault Refusal := .next (chainWrRsp frame s)

/-- ALERT at the head sets the sender's bit of CHN_ALERT (R516). -/
def alertArrives (f : ChainFrame) (s : State) : State :=
  if s.nd.power.hostEn && decide (1 ≤ f.src ∧ f.src ≤ 16) then
    onChain s fun c => { c with alert := putField c.alert (f.src - 1) (f.src - 1) 1 }
  else s

/-- CHAIN_ALERT. -/
def chainAlert (frame : Bytes) (s : State) : State := chainReceive s frame 0x06 (onlyOwn alertArrives) id

/-- CHAIN_ALERT. -/
def execChainAlert (frame : Bytes) (s : State) : Host.Outcome State Fault Refusal := .next (chainAlert frame s)

/-! ### Repeats (R507) -/

/-- A request that has had no response after eight repeats ends what it was for. -/
def giveUp (s : State) (q : ChainReq) : State :=
  let s := dropAsked s q.tag
  match q.purpose with
  | .mailboxRead => mbxEnd s stAborted
  | .mailboxWrite => mbxEnd s stAborted
  | .relay => requestDone s 0x05 stAborted
  | .copyOrder _ => requestDone s 0x14 stAborted
  | .gather => match s.hl.chain.gather with
    | some g => gatherFrom s (g.target + 1)
    | none => s

/-- A push that has stood still for 2^16 management cycles: IMG_BEGIN and its last frame are sent again, and after eight repeats the targets not yet
heard of are ABORTED. -/
def pushTimeout (s : State) (p : Push) : State :=
  if 8 ≤ p.repeats then pushAbort s
  else
    let s := countHalord { s with hl := { s.hl with push := some { p with repeats := p.repeats + 1 } } } 2
    let s := sendBegin s p
    let s := if p.next = 0 then s else sendChain s 31 0x11 p.tag 0 (chunkPayload p.session p.image (p.next - 1))
    pushSend 1 s

/-- The request with this TAG has had no response: it is sent again with the same TAG, up to eight times. -/
def chainTimeout (tag : Nat) (s : State) : State :=
  if !aonUp s then s
  else match s.hl.chain.reqs.find? fun q => q.tag == tag && q.got.isNone with
    | some q =>
      if 8 ≤ q.repeats then giveUp s q
      else
        let again := fun (r : ChainReq) => if r.tag = tag then { r with repeats := r.repeats + 1 } else r
        countHalord (putFrame (onChain s fun c => { c with reqs := c.reqs.map again }) q.frame) 2
    | none => match s.hl.push with
      | some p => if p.tag = tag then pushTimeout s p else s
      | none => s

/-- CHAIN_REQUEST_TIMEOUT. -/
def execChainRequestTimeout (tag : BitVec 8) (s : State) : Host.Outcome State Fault Refusal := .next (chainTimeout tag.toNat s)

end Sys2Proof.Machine
end

