-- ==== Sys2Proof/Machine/Dispatch.lean ====
section
/-! DEFINITION. What each command does: one arm per constructor, one direct call of its meaning. -/

namespace Sys2Proof.Machine

/-- The effect of a command on everything but the queue. -/
def exec (i : Instr) (s : State) : Host.Outcome State Fault Refusal :=
  match i with
  | .powerInputUp hostEn => Sys2Proof.Machine.execPowerInputUp hostEn s
  | .resetNAssert => Sys2Proof.Machine.execResetNAssert s
  | .resetNRelease hostEn => Sys2Proof.Machine.execResetNRelease hostEn s
  | .overVoltageTrip => Sys2Proof.Machine.execOverVoltageTrip s
  | .aonTrip => Sys2Proof.Machine.execAonTrip s
  | .brownOut => Sys2Proof.Machine.execBrownOut s
  | .standbyAutoExit => Sys2Proof.Machine.execStandbyAutoExit s
  | .inputCapacitanceCharged => Sys2Proof.Machine.execInputCapacitanceCharged s
  | .railInWindow domain => Sys2Proof.Machine.execRailInWindow domain s
  | .railFault domain => Sys2Proof.Machine.execRailFault domain s
  | .bistComplete failures => Sys2Proof.Machine.execBistComplete failures s
  | .stackTrainingDone r trained badLine => Sys2Proof.Machine.execStackTrainingDone r trained badLine s
  | .densePortBringupDone d present trained fmtOk nsBlocks queues deallocZero => Sys2Proof.Machine.execDensePortBringupDone d present trained fmtOk nsBlocks queues deallocZero s
  | .startJoinFabric => Sys2Proof.Machine.execStartJoinFabric s
  | .refclkLoss => Sys2Proof.Machine.execRefclkLoss s
  | .refclkReturn => Sys2Proof.Machine.execRefclkReturn s
  | .powerReqStandby => Sys2Proof.Machine.execPowerReqStandby s
  | .powerReqReady => Sys2Proof.Machine.execPowerReqReady s
  | .powerReqNoChange => Sys2Proof.Machine.execPowerReqNoChange s
  | .standbyFlush => Sys2Proof.Machine.execStandbyFlush s
  | .watchdogExpiry => Sys2Proof.Machine.execWatchdogExpiry s
  | .sensorSample readings occupancy => Sys2Proof.Machine.execSensorSample readings occupancy s
  | .policyPeriodEnd => Sys2Proof.Machine.execPolicyPeriodEnd s
  | .evaluationWindowEnd bandwidth space traffic => Sys2Proof.Machine.execEvaluationWindowEnd bandwidth space traffic s
  | .logFlashCopy ok => Sys2Proof.Machine.execLogFlashCopy ok s
  | .errorBandWindowEnd => Sys2Proof.Machine.execErrorBandWindowEnd s
  | .chainEnum frame => Sys2Proof.Machine.execChainEnum frame s
  | .chainEnumRetry => Sys2Proof.Machine.execChainEnumRetry s
  | .chainFrameForward frame => Sys2Proof.Machine.execChainFrameForward frame s
  | .chainRdReq frame => Sys2Proof.Machine.execChainRdReq frame s
  | .chainWrReq frame => Sys2Proof.Machine.execChainWrReq frame s
  | .chainRdRsp frame => Sys2Proof.Machine.execChainRdRsp frame s
  | .chainWrRsp frame => Sys2Proof.Machine.execChainWrRsp frame s
  | .chainAlert frame => Sys2Proof.Machine.execChainAlert frame s
  | .chainRequestTimeout tag => Sys2Proof.Machine.execChainRequestTimeout tag s
  | .chainDown => Sys2Proof.Machine.execChainDown s
  | .mbxRead cmd => Sys2Proof.Machine.execMbxRead cmd s
  | .mbxWrite cmd => Sys2Proof.Machine.execMbxWrite cmd s
  | .mbxAbort cmd => Sys2Proof.Machine.execMbxAbort cmd s
  | .mbxDataRead => Sys2Proof.Machine.execMbxDataRead s
  | .mbxDataWrite w => Sys2Proof.Machine.execMbxDataWrite w s
  | .i3cPrivateWrite bytes => Sys2Proof.Machine.execI3cPrivateWrite bytes s
  | .i3cCcc code data => Sys2Proof.Machine.execI3cCcc code data s
  | .bar0BadAccess => Sys2Proof.Machine.execBar0BadAccess s
  | .registerWrite offset w => Sys2Proof.Machine.execRegisterWrite offset w s
  | .ringCommit ring w => Sys2Proof.Machine.execRingCommit ring w s
  | .ringDoorbell ring w => Sys2Proof.Machine.execRingDoorbell ring w s
  | .ringEntryWrite ring slot data writer => Sys2Proof.Machine.execRingEntryWrite ring slot data writer s
  | .trackerFreed r => Sys2Proof.Machine.execTrackerFreed r s
  | .commandComplete tid => Sys2Proof.Machine.execCommandComplete tid s
  | .completionCounterIncrement tid => Sys2Proof.Machine.execCompletionCounterIncrement tid s
  | .copy tid => Sys2Proof.Machine.execCopy tid s
  | .fill tid => Sys2Proof.Machine.execFill tid s
  | .engineResponse p => Sys2Proof.Machine.execEngineResponse p s
  | .rangeSet tid => Sys2Proof.Machine.execRangeSet tid s
  | .rangeClear tid => Sys2Proof.Machine.execRangeClear tid s
  | .rangeInval tid => Sys2Proof.Machine.execRangeInval tid s
  | .keyLoadCtxKey tid => Sys2Proof.Machine.execKeyLoadCtxKey tid s
  | .keyLoadCtxClear tid => Sys2Proof.Machine.execKeyLoadCtxClear tid s
  | .keyLoadShareKey tid => Sys2Proof.Machine.execKeyLoadShareKey tid s
  | .keyLoadShareClear tid => Sys2Proof.Machine.execKeyLoadShareClear tid s
  | .keyLoadAdmit tid => Sys2Proof.Machine.execKeyLoadAdmit tid s
  | .keyLoadExpel tid => Sys2Proof.Machine.execKeyLoadExpel tid s
  | .revoke tid => Sys2Proof.Machine.execRevoke tid s
  | .revokeReinstate tid => Sys2Proof.Machine.execRevokeReinstate tid s
  | .solsticeOpen tid => Sys2Proof.Machine.execSolsticeOpen tid s
  | .solsticeAnnounce tid => Sys2Proof.Machine.execSolsticeAnnounce tid s
  | .solsticeSealQuery tid => Sys2Proof.Machine.execSolsticeSealQuery tid s
  | .solsticeRestore tid => Sys2Proof.Machine.execSolsticeRestore tid s
  | .solsticeDrop tid => Sys2Proof.Machine.execSolsticeDrop tid s
  | .leapStart tid => Sys2Proof.Machine.execLeapStart tid s
  | .leapAbort tid => Sys2Proof.Machine.execLeapAbort tid s
  | .searchCoordinated tid => Sys2Proof.Machine.execSearchCoordinated tid s
  | .searchShard tid => Sys2Proof.Machine.execSearchShard tid s
  | .coordinatorMerge tid => Sys2Proof.Machine.execCoordinatorMerge tid s
  | .indexInsert tid => Sys2Proof.Machine.execIndexInsert tid s
  | .indexDelete tid => Sys2Proof.Machine.execIndexDelete tid s
  | .sideListRoomFreed tid => Sys2Proof.Machine.execSideListRoomFreed tid s
  | .harvestMerge tid => Sys2Proof.Machine.execHarvestMerge tid s
  | .harvestCompact tid => Sys2Proof.Machine.execHarvestCompact tid s
  | .harvestInit tid => Sys2Proof.Machine.execHarvestInit tid s
  | .programLoad tid => Sys2Proof.Machine.execProgramLoad tid s
  | .programUnload tid => Sys2Proof.Machine.execProgramUnload tid s
  | .programRun tid => Sys2Proof.Machine.execProgramRun tid s
  | .programBlock tid block => Sys2Proof.Machine.execProgramBlock tid block s
  | .programRunComplete tid => Sys2Proof.Machine.execProgramRunComplete tid s
  | .programFiringResume arming => Sys2Proof.Machine.execProgramFiringResume arming s
  | .counterSet tid => Sys2Proof.Machine.execCounterSet tid s
  | .counterArm tid => Sys2Proof.Machine.execCounterArm tid s
  | .read p => Sys2Proof.Machine.execRead p s
  | .write p => Sys2Proof.Machine.execWrite p s
  | .atomic p => Sys2Proof.Machine.execAtomic p s
  | .tileRead p => Sys2Proof.Machine.execTileRead p s
  | .tileWrite p => Sys2Proof.Machine.execTileWrite p s
  | .tileAcc p => Sys2Proof.Machine.execTileAcc p s
  | .wait p => Sys2Proof.Machine.execWait p s
  | .waitDeadlineExpiry src seq => Sys2Proof.Machine.execWaitDeadlineExpiry src seq s
  | .probe p => Sys2Proof.Machine.execProbe p s
  | .controlRegionAccess p => Sys2Proof.Machine.execControlRegionAccess p s
  | .deadlineExpiry src seq => Sys2Proof.Machine.execDeadlineExpiry src seq s
  | .frameReceive port w trailer flit fecOk => Sys2Proof.Machine.execFrameReceive port w trailer flit fecOk s
  | .replayReq port flit => Sys2Proof.Machine.execReplayReq port flit s
  | .credit port flit => Sys2Proof.Machine.execCredit port flit s
  | .laneState port flit => Sys2Proof.Machine.execLaneState port flit s
  | .widthSwitch port tx => Sys2Proof.Machine.execWidthSwitch port tx s
  | .keepalive port flit => Sys2Proof.Machine.execKeepalive port flit s
  | .keepaliveSend port => Sys2Proof.Machine.execKeepaliveSend port s
  | .keepaliveLost port => Sys2Proof.Machine.execKeepaliveLost port s
  | .hello port flit => Sys2Proof.Machine.execHello port flit s
  | .ringLockRevisit port tx w held soon => Sys2Proof.Machine.execRingLockRevisit port tx w held soon s
  | .degradeSymbolWindow port g symbols soon => Sys2Proof.Machine.execDegradeSymbolWindow port g symbols soon s
  | .groupReturn port tx g soon => Sys2Proof.Machine.execGroupReturn port tx g soon s
  | .portBringupRetry port => Sys2Proof.Machine.execPortBringupRetry port s
  | .elsOutputLow e => Sys2Proof.Machine.execElsOutputLow e s
  | .elsRemoved e => Sys2Proof.Machine.execElsRemoved e s
  | .elsInserted e conforming => Sys2Proof.Machine.execElsInserted e conforming s
  | .seqReset p => Sys2Proof.Machine.execSeqReset p s
  | .seqResetRepeat peer => Sys2Proof.Machine.execSeqResetRepeat peer s
  | .seqSyncPeriod => Sys2Proof.Machine.execSeqSyncPeriod s
  | .seqSync p => Sys2Proof.Machine.execSeqSync p s
  | .retryResend peer cls seq => Sys2Proof.Machine.execRetryResend peer cls seq s
  | .schedulerSelect port => Sys2Proof.Machine.execSchedulerSelect port s
  | .tokenRefill port ctx => Sys2Proof.Machine.execTokenRefill port ctx s
  | .recallAnswer p => Sys2Proof.Machine.execRecallAnswer p s
  | .wbEvict p => Sys2Proof.Machine.execWbEvict p s
  | .snoopInvalidationComplete line => Sys2Proof.Machine.execSnoopInvalidationComplete line s
  | .hostMemrd m dataOnly => Sys2Proof.Machine.execHostMemrd m dataOnly s
  | .hostMemwr m => Sys2Proof.Machine.execHostMemwr m s
  | .hostMemwrptl m => Sys2Proof.Machine.execHostMemwrptl m s
  | .hostMemspecrd m => Sys2Proof.Machine.execHostMemspecrd m s
  | .hostOtherM2s m opcode => Sys2Proof.Machine.execHostOtherM2s m opcode s
  | .bridgeFwdSnoop p => Sys2Proof.Machine.execBridgeFwdSnoop p s
  | .hostBirsp pva ctx shared dirty => Sys2Proof.Machine.execHostBirsp pva ctx shared dirty s
  | .hostBiconflict tag => Sys2Proof.Machine.execHostBiconflict tag s
  | .bridgeHostLost => Sys2Proof.Machine.execBridgeHostLost s
  | .bisnpTimeout => Sys2Proof.Machine.execBisnpTimeout s
  | .bridgeHostReenumerate => Sys2Proof.Machine.execBridgeHostReenumerate s
  | .bridgeNotifyWrite p => Sys2Proof.Machine.execBridgeNotifyWrite p s
  | .hbWinSel w => Sys2Proof.Machine.execHbWinSel w s
  | .hbWinCommit w => Sys2Proof.Machine.execHbWinCommit w s
  | .hbNtfCommit w => Sys2Proof.Machine.execHbNtfCommit w s
  | .oportCommit port w => Sys2Proof.Machine.execOportCommit port w s
  | .dportCommit d w => Sys2Proof.Machine.execDportCommit d w s
  | .schedCommit port w => Sys2Proof.Machine.execSchedCommit port w s
  | .shpSel port w => Sys2Proof.Machine.execShpSel port w s
  | .shpCommit port w => Sys2Proof.Machine.execShpCommit port w s
  | .polSel w => Sys2Proof.Machine.execPolSel w s
  | .polCommit w => Sys2Proof.Machine.execPolCommit w s
  | .ebCommit w => Sys2Proof.Machine.execEbCommit w s
  | .vgCommit w => Sys2Proof.Machine.execVgCommit w s
  | .mqCommit w => Sys2Proof.Machine.execMqCommit w s
  | .plcCommit w => Sys2Proof.Machine.execPlcCommit w s
  | .stackCacheFillComplete cid data meta_ => Sys2Proof.Machine.execStackCacheFillComplete cid data meta_ s
  | .nvmeCompletion cid ok data meta_ => Sys2Proof.Machine.execNvmeCompletion cid ok data meta_ s
  | .nvmeTimeout cid => Sys2Proof.Machine.execNvmeTimeout cid s
  | .driveRemoved d => Sys2Proof.Machine.execDriveRemoved d s
  | .driveAdded d trained fmtOk nsBlocks queues deallocZero => Sys2Proof.Machine.execDriveAdded d trained fmtOk nsBlocks queues deallocZero s
  | .lenderResponse p => Sys2Proof.Machine.execLenderResponse p s
  | .peerForward p => Sys2Proof.Machine.execPeerForward p s
  | .forwardAnswer p => Sys2Proof.Machine.execForwardAnswer p s
  | .mirrorResync line => Sys2Proof.Machine.execMirrorResync line s
  | .partSeal part => Sys2Proof.Machine.execPartSeal part s
  | .sourcePrune part src => Sys2Proof.Machine.execSourcePrune part src s
  | .drainChunk part chunk => Sys2Proof.Machine.execDrainChunk part chunk s
  | .restoreCopyBack chunk => Sys2Proof.Machine.execRestoreCopyBack chunk s
  | .repairRead p => Sys2Proof.Machine.execRepairRead p s
  | .repairReadAnswer p => Sys2Proof.Machine.execRepairReadAnswer p s
  | .resyncRequest p => Sys2Proof.Machine.execResyncRequest p s
  | .mapCreate p => Sys2Proof.Machine.execMapCreate p s
  | .mapPropose p => Sys2Proof.Machine.execMapPropose p s
  | .mapAgreement p => Sys2Proof.Machine.execMapAgreement p s
  | .mapResult p => Sys2Proof.Machine.execMapResult p s
  | .mapSubscribe p => Sys2Proof.Machine.execMapSubscribe p s
  | .mapFetch p => Sys2Proof.Machine.execMapFetch p s
  | .mapPush p => Sys2Proof.Machine.execMapPush p s
  | .mapChangeEffect ctx => Sys2Proof.Machine.execMapChangeEffect ctx s
  | .membBeat p => Sys2Proof.Machine.execMembBeat p s
  | .membAck p => Sys2Proof.Machine.execMembAck p s
  | .membJoin p => Sys2Proof.Machine.execMembJoin p s
  | .membReport p => Sys2Proof.Machine.execMembReport p s
  | .membLost p => Sys2Proof.Machine.execMembLost p s
  | .membAgreement p => Sys2Proof.Machine.execMembAgreement p s
  | .beatPeriodTimer => Sys2Proof.Machine.execBeatPeriodTimer s
  | .memberSuspectTimer node => Sys2Proof.Machine.execMemberSuspectTimer node s
  | .leapOrder p => Sys2Proof.Machine.execLeapOrder p s
  | .leapOpen p => Sys2Proof.Machine.execLeapOpen p s
  | .leapReady p => Sys2Proof.Machine.execLeapReady p s
  | .leapPeer p => Sys2Proof.Machine.execLeapPeer p s
  | .leapChunkCopied leap chunk => Sys2Proof.Machine.execLeapChunkCopied leap chunk s
  | .leapDrained leap => Sys2Proof.Machine.execLeapDrained leap s
  | .adoptQuery p => Sys2Proof.Machine.execAdoptQuery p s
  | .reclaim p => Sys2Proof.Machine.execReclaim p s
  | .residueMismatch tile array unit_ repeated => Sys2Proof.Machine.execResidueMismatch tile array unit_ repeated s
  | .correctedError tile array row => Sys2Proof.Machine.execCorrectedError tile array row s
  | .uncorrectableLine line kind => Sys2Proof.Machine.execUncorrectableLine line kind s
  | .uncorrectableStateError f => Sys2Proof.Machine.execUncorrectableStateError f s
  | .meshReplay site tries => Sys2Proof.Machine.execMeshReplay site tries s
  | .tileRetire t gate cause => Sys2Proof.Machine.execTileRetire t gate cause s
  | .tileUngate t => Sys2Proof.Machine.execTileUngate t s
  | .vigilPatrolRead line corrected => Sys2Proof.Machine.execVigilPatrolRead line corrected s
  | .knownAnswerTest failures => Sys2Proof.Machine.execKnownAnswerTest failures s
  | .masqueInterval => Sys2Proof.Machine.execMasqueInterval s
  | .imgOpenFirmware req => Sys2Proof.Machine.execImgOpenFirmware req s
  | .imgOpenAlmanac req => Sys2Proof.Machine.execImgOpenAlmanac req s
  | .imageAreaWrite offset w => Sys2Proof.Machine.execImageAreaWrite offset w s
  | .imgStage req => Sys2Proof.Machine.execImgStage req s
  | .imgUnstage req => Sys2Proof.Machine.execImgUnstage req s
  | .imgPush req => Sys2Proof.Machine.execImgPush req s
  | .relay req => Sys2Proof.Machine.execRelay req s
  | .attest req => Sys2Proof.Machine.execAttest req s
  | .presClose req => Sys2Proof.Machine.execPresClose req s
  | .ownerSet req => Sys2Proof.Machine.execOwnerSet req s
  | .bindSet req => Sys2Proof.Machine.execBindSet req s
  | .debugUnlock req => Sys2Proof.Machine.execDebugUnlock req s
  | .factoryReset req => Sys2Proof.Machine.execFactoryReset req s
  | .almanacCopy req => Sys2Proof.Machine.execAlmanacCopy req s
  | .imgBegin frame => Sys2Proof.Machine.execImgBegin frame s
  | .imgChunk frame => Sys2Proof.Machine.execImgChunk frame s
  | .imgNak frame => Sys2Proof.Machine.execImgNak frame s
  | .imgHold frame => Sys2Proof.Machine.execImgHold frame s
  | .imgGo frame => Sys2Proof.Machine.execImgGo frame s
  | .imgResult frame => Sys2Proof.Machine.execImgResult frame s
  | .secReq frame => Sys2Proof.Machine.execSecReq frame s
  | .secRsp frame => Sys2Proof.Machine.execSecRsp frame s
  | .presNHold => Sys2Proof.Machine.execPresNHold s
  | .presenceWindowExpiry => Sys2Proof.Machine.execPresenceWindowExpiry s
  | .sealSample closed => Sys2Proof.Machine.execSealSample closed s
  | .jtagInstruction ir => Sys2Proof.Machine.execJtagInstruction ir s
  | .codewordLock port tx rx => Sys2Proof.Machine.execCodewordLock port tx rx s
  | .presNRelease => Sys2Proof.Machine.execPresNRelease s
  | .bridgeRequestResponse p => Sys2Proof.Machine.execBridgeRequestResponse p s
  | .counterProbeAnswer p => Sys2Proof.Machine.execCounterProbeAnswer p s
  | .msixVectorUnmask v => Sys2Proof.Machine.execMsixVectorUnmask v s
  | .cohortRecordWrite part => Sys2Proof.Machine.execCohortRecordWrite part s
  | .regionResetComplete r => Sys2Proof.Machine.execRegionResetComplete r s
  | .containmentTimeout r => Sys2Proof.Machine.execContainmentTimeout r s
  | .halordRestartComplete => Sys2Proof.Machine.execHalordRestartComplete s
  | .flashProgramProgress n => Sys2Proof.Machine.execFlashProgramProgress n s

end Sys2Proof.Machine
end

