-- ==== Sys2Proof/Safety.lean ====
section
/-! DEFINITION. The terms that claims use: where a command completes, what it leaves as it is, and states in which nothing waits. -/

namespace Sys2Proof.Safety

open Sys2Proof.Machine

/-- The command answers a next state, and `P` holds of it. -/
def Runs (i : Instr) (s : State) (P : State → Prop) : Prop := ∃ t, exec i s = .next t ∧ P t

/-- What every command of the data plane leaves as it is: the queue, and everything of Halord (flash, mailbox,
chain, security, sensors, policy, I3C). -/
def KeepsHalord (s t : State) : Prop := t.pending = s.pending ∧ t.hl = s.hl

/-- What a command leaves that touches the power record alone. -/
def OnlyPower (s t : State) : Prop := t = { s with nd := { s.nd with power := t.nd.power } }

/-- What sending packets may change: pairs, traffic blocks, packets without a port, emissions, telemetry and the counter of free
values. Everything else of the node is as it was. -/
def OnlySends (n m : Node) : Prop :=
  m = { n with prs := m.prs, traf := m.traf, unsent := m.unsent, rrPort := m.rrPort, out := m.out, tele := m.tele, free := m.free }

/-- Nothing waits: no request is admitted or held back, no line is mirror-dirty, no firing waits, no cohort is open, no
SEAL_QUERY, RESTORE or DROP runs, and no DENSE_DIRECT block lies in a slice. In such a state what a command does is all that
happens. -/
abbrev Quiet (n : Node) : Prop :=
  n.trk.reqs = [] ∧ n.coh.mdirty = [] ∧ n.prog.firings = [] ∧ n.sol.parts = [] ∧ (∀ e ∈ n.prs.pairs, e.2.held = []) ∧
  (∀ e ∈ n.trk.cmds, e.2.phase = .running → cmdOp e.2 ≠ 0x22 ∧ cmdOp e.2 ≠ 0x23 ∧ cmdOp e.2 ≠ 0x24) ∧
  (∀ b ∈ n.mem.blocks, (spanOf n (b.1 * 64)).all (fun x => x.2.resClass != 2) = true)

/-- No tile is on its way into or out of service. -/
abbrev Still (n : Node) : Prop := ∀ t : Fin 64, (n.flt.tiles.get t).leaving = none ∧ (n.flt.tiles.get t).returning = false

/-- Of Halord, at most the error-band record in flash changes (R489, R547). -/
def OnlyBandRecord (s t : State) : Prop :=
  t.pending = s.pending ∧ t.hl = { s.hl with flash := t.hl.flash } ∧
  ∀ a, a < 0x6090000 ∨ 0x60A0000 ≤ a → memGet 0xFF t.hl.flash a = memGet 0xFF s.hl.flash a

/-- The command answers a next state in which nothing but the node has changed: the queue and Halord are as they were. -/
def Moves (i : Instr) (s : State) (P : Node → Prop) : Prop := ∃ m, exec i s = .next { s with nd := m } ∧ P m

/-- A consumed command that may start: it is there, has this OPCODE, its FENCE holds, and the module accepts (R51, R52). -/
def CanStart (n : Node) (tid op : Nat) (c : Cmd) : Prop :=
  cmdOf n tid = some c ∧ cmdOp c = op ∧ mayStart n c = true ∧ accepting n = true

/-- The checks that every command passes first find nothing: its header, the ring rules and its counter's owner (R52, R53, R154). -/
def WellCommanded (n : Node) (c : Cmd) : Prop := headerBad c = false ∧ ringDenied c = false ∧ countDenied n c = false

/-- A command that is running. -/
def IsRunning (n : Node) (tid op : Nat) (c : Cmd) : Prop :=
  cmdOf n tid = some c ∧ cmdOp c = op ∧ c.phase = .running ∧ accepting n = true

/-- The command has ended with a status, RESULT0 and word 3 (R54). -/
def HasEnded (m : Node) (tid status : Nat) (r0 w3 : Word) : Prop :=
  ∃ x, cmdOf m tid = some x ∧ x.phase = .ended ∧ x.status = status ∧ x.result0 = r0 ∧ x.word3 = w3

/-- The packet arrives: it is whole, its turn has come, and the module takes it up, the pair's records as in `m`. -/
def Arrives (n : Node) (p : Packet) (m : Node) : Prop := present n p = (m, true)

/-- A request comes to its command: the module accepts requests, and the packet is whole, in its turn, and behind no other request of its
pair that its command has yet to take (R141). -/
def Taken (n : Node) (p : Packet) (a : Node) : Prop :=
  accepting n = true ∧ p.cls = 0 ∧ Arrives n p a ∧ earlierDelivered a p = false

/-- The request that came is new, passes every check, and is admitted; `d` is the node then (R59, R418, R451). -/
def Admitted (a : Node) (p : Packet) (d : Node) : Prop :=
  dupFate a p = .fresh ∧ pairHeld a p.dst.toNat p.src.toNat = false ∧ p.dst.toNat = a.nodeId ∧ reqInvalid (noteReq a p) p = false ∧
  mapAhead (noteReq a p) p = false ∧ firstStatus (reqChecks (noteReq a p) p) = none ∧ admits (noteReq a p) p = (d, true)

/-- The request comes to its command and is admitted as the only one at work, in tracker `tid`; nothing else waits. -/
def Serves (n : Node) (p : Packet) (b : Node) (tid : Nat) (q : Req) : Prop :=
  ∃ a, Taken n p a ∧ takeRequest a p = b ∧ b.trk.reqs = [(tid, q)] ∧ q.pkt = p ∧ q.status = none ∧
    Quiet { b with trk := { b.trk with reqs := [] } }

/-- The commands that reach beyond the data plane, into Halord's own state: the start and its rails, management, the chain and the mailbox,
the images and the security of the module, and the errors of tiles, whose bands stand in flash. -/
def reachesHalord : Instr → Bool
  | .powerInputUp _ | .resetNAssert | .resetNRelease _ | .overVoltageTrip | .aonTrip | .brownOut | .standbyAutoExit
  | .inputCapacitanceCharged | .railInWindow _ | .railFault _ | .bistComplete _ | .stackTrainingDone _ _ _
  | .densePortBringupDone _ _ _ _ _ _ _ | .startJoinFabric | .refclkLoss | .refclkReturn | .powerReqStandby | .powerReqReady
  | .powerReqNoChange | .standbyFlush | .watchdogExpiry | .sensorSample _ _ | .policyPeriodEnd | .evaluationWindowEnd _ _ _
  | .logFlashCopy _ | .errorBandWindowEnd | .chainEnum _ | .chainEnumRetry | .chainFrameForward _ | .chainRdReq _
  | .chainWrReq _ | .chainRdRsp _ | .chainWrRsp _ | .chainAlert _ | .chainRequestTimeout _ | .chainDown | .mbxRead _
  | .mbxWrite _ | .mbxAbort _ | .mbxDataRead | .mbxDataWrite _ | .i3cPrivateWrite _ | .i3cCcc _ _ | .bar0BadAccess
  | .registerWrite _ _ | .plcCommit _ | .membAck _ | .membReport _ | .membLost _ | .membAgreement _ | .memberSuspectTimer _
  | .residueMismatch _ _ _ _ | .correctedError _ _ _ | .uncorrectableLine _ _ | .uncorrectableStateError _ | .meshReplay _ _
  | .tileRetire _ _ _ | .tileUngate _ | .vigilPatrolRead _ _ | .knownAnswerTest _ | .masqueInterval | .imgOpenFirmware _
  | .imgOpenAlmanac _ | .imageAreaWrite _ _ | .imgStage _ | .imgUnstage _ | .imgPush _ | .relay _ | .attest _ | .presClose _
  | .ownerSet _ | .bindSet _ | .debugUnlock _ | .factoryReset _ | .almanacCopy _ | .imgBegin _ | .imgChunk _ | .imgNak _
  | .imgHold _ | .imgGo _ | .imgResult _ | .secReq _ | .secRsp _ | .presNHold | .presenceWindowExpiry | .sealSample _
  | .jtagInstruction _ | .presNRelease | .regionResetComplete _ | .containmentTimeout _ | .halordRestartComplete
  | .flashProgramProgress _ => true
  | _ => false

/-- What holds of the module's non-volatile state in every run: flash in its one form, and no more fuses blown than there are (R574). -/
def Sound (s : State) : Prop := memWf 0xFF s.hl.flash = true ∧ s.hl.sec.fuses ≤ 64

end Sys2Proof.Safety
end

