-- ==== Sys2Proof/Certificates/Slice0/Obligations.lean ====
section
/-! DEFINITION. The statements for the provers. Each docstring names the rules that the statement formalises. `Runs` and `Moves` say that
a command answers a next state and what holds of it; `Quiet` and `Still` say that nothing waits, so that what the command does is all that
happens. -/

open Sys2Proof Sys2Proof.Machine Sys2Proof.Safety

/-! ### Power, reset and the start (R34, R544–R570, R598–R607) -/

/-- R544, R599, R603: the input coming up and RESET_N released begin a cold start when the module is Off, RESET_N is high
and the input is in range. The start increments BOOT_COUNT, HOST_EN is sampled, POWER_STATE reads 0, no node ID is held,
every context, ring command and port state is gone, and with AON off the input capacitance charges first (R606 step 1).
Flash keeps its bytes. In any other state the input is only noted. -/
def Obligations.ColdStartBegins : Prop :=
  ∀ (hostEn : Bool) (s : State),
    let cold := fun (t : State) =>
      t.nd.power.off = false ∧ t.nd.power.input = true ∧ t.nd.power.resetLow = false ∧ t.nd.power.state = 0 ∧
      t.nd.power.hostEn = hostEn ∧ t.hl.chain.head = hostEn ∧ t.nd.power.railStep = 1 ∧ t.nd.power.rising = [] ∧
      t.nd.power.stepsDone = [] ∧ t.nd.power.bootCount = (s.nd.power.bootCount + 1) % 2 ^ 32 ∧ t.nd.nodeId = 0 ∧
      t.nd.chainAddr = 0 ∧ t.nd.ctxs = Contexts.reset ∧ t.nd.trk = Trackers.reset ∧ t.nd.mem.plain = [] ∧
      t.hl.session = none ∧ t.hl.push = none ∧ t.hl.sec.presOpen = false ∧ t.hl.sec.debugOpen = false ∧
      t.hl.sec.fuses = s.hl.sec.fuses ∧ t.hl.sec.unsealed = s.hl.sec.unsealed ∧ t.hl.flash = s.hl.flash ∧
      t.pending = s.pending
    s.nd.power.domains.contains 0 = false →
    (s.nd.power.off = true → s.nd.power.resetLow = false → Runs (.powerInputUp hostEn) s cold) ∧
    (s.nd.power.resetLow = true → s.nd.power.input = true → Runs (.resetNRelease hostEn) s cold) ∧
    (s.nd.power.off = false ∨ s.nd.power.resetLow = true → Runs (.powerInputUp hostEn) s fun t =>
      t = { s with nd := { s.nd with power := { s.nd.power with input := true } } }) ∧
    (s.nd.power.resetLow = false ∨ s.nd.power.input = false → Runs (.resetNRelease hostEn) s fun t =>
      t = { s with nd := { s.nd with power := { s.nd.power with resetLow := false } } })

/-- R526, R599, R602, R607: RESET_N low, the over-voltage trip, the AON trip and a fault of an AON rail take the module
Off from every state. RESET_N leaves AON on when it was on; the others leave no domain on, and with the input gone the
log entries not yet in flash are lost. Nothing of Halord's own state changes, flash and fuses among it. -/
def Obligations.GoesOff : Prop :=
  ∀ s : State,
    let offWith := fun (t : State) (domains : List Nat) =>
      t.nd.power.off = true ∧ t.nd.power.state = 0 ∧ t.nd.power.domains = domains ∧ t.nd.power.rising = [] ∧
      t.nd.power.stepsDone = [] ∧ t.nd.ctxs = Contexts.reset ∧ t.nd.trk = Trackers.reset ∧ t.nd.mem.plain = [] ∧
      t.nd.power.bootCount = s.nd.power.bootCount ∧ KeepsHalord s t
    Runs .resetNAssert s (fun t => offWith t (if s.nd.power.domains.contains 0 then [0] else []) ∧
      t.nd.power.resetLow = true ∧ t.nd.power.input = s.nd.power.input ∧ t.nd.log = s.nd.log) ∧
    Runs .overVoltageTrip s (fun t => offWith t [] ∧ t.nd.power.input = false ∧ t.nd.log = { s.nd.log with staged := [] }) ∧
    Runs .aonTrip s (fun t => offWith t [] ∧ t.nd.power.input = false ∧ t.nd.log = { s.nd.log with staged := [] }) ∧
    Runs (.railFault 0) s (fun t => offWith t [] ∧ t.nd.log = s.nd.log)

/-- R598, R599, R605, R622: a brown-out in any state with AON on but Standby takes the module to Standby at once, with every
other domain off and the data path empty; in Standby and Off nothing but the input's state changes. STANDBY_AUTO_EXIT starts
the module from Standby only when a brown-out brought it there and no POWER_REQ Standby came since. -/
def Obligations.BrownOutAndReturn : Prop :=
  ∀ s : State,
    let inputIs := fun (b : Bool) => { s with nd := { s.nd with power := { s.nd.power with input := b } } }
    (s.nd.power.off = false → s.nd.power.state ≠ 1 → s.nd.power.domains.contains 0 = true → Runs .brownOut s fun t =>
      t.nd.power.state = 1 ∧ t.nd.power.off = false ∧ t.nd.power.domains = [0] ∧ t.nd.power.brownOut = true ∧
      t.nd.power.input = false ∧ t.nd.ctxs = Contexts.reset ∧ t.nd.trk = Trackers.reset ∧ t.nd.mem.stack = [] ∧
      t.nd.log.last = s.nd.log.next ∧ KeepsHalord s t) ∧
    (s.nd.power.off = true ∨ s.nd.power.state = 1 ∨ s.nd.power.domains.contains 0 = false →
      Runs .brownOut s fun t => t = inputIs false) ∧
    (s.nd.power.off = false → s.nd.power.state = 1 → s.nd.power.brownOut = true → s.nd.power.hostEn = true →
      Runs .standbyAutoExit s fun t => t.nd.power.state = 0 ∧ t.nd.power.fromStandby = true ∧ t.nd.power.input = true ∧
        t.nd.power.bootCount = (s.nd.power.bootCount + 1) % 2 ^ 32 ∧ t.nd.power.railStep = 3 ∧
        t.nd.power.rising = [(2, 0)] ∧ t.nd.power.brownOut = false ∧ t.hl.flash = s.hl.flash ∧ t.pending = s.pending) ∧
    (s.nd.power.off = false → s.nd.power.state = 1 → s.nd.power.brownOut = true → s.nd.power.hostEn = false →
      Runs .standbyAutoExit s fun t => t = stepThree (beginStart (inputIs true) true)) ∧
    (s.nd.power.off = true ∨ s.nd.power.state ≠ 1 ∨ s.nd.power.brownOut = false →
      Runs .standbyAutoExit s fun t => t = inputIs true)

/-- R542, R570, R599, R604: POWER_REQ. Standby in Ready or Active begins the ordered entry, or waits while firmware bytes are
being programmed; during a start it waits for the step in hand, and at a held start it takes effect at once; in Standby it is
recorded and counted. Ready in Standby begins a Standby exit, during a start it has no effect, and in Ready and Active it is
counted and logged, as 0, 3 and the present state are in every state but Off. -/
def Obligations.PowerRequests : Prop :=
  ∀ s : State, s.nd.power.off = false →
    let counted := fun (t : State) => t.nd.power.noChange = s.nd.power.noChange + 1 ∧ t.nd.power.state = s.nd.power.state ∧
      t.nd.log.last = s.nd.log.next ∧ t.nd.ctxs = s.nd.ctxs ∧ t.nd.rings = s.nd.rings ∧ KeepsHalord s t
    (2 ≤ s.nd.power.state → s.nd.power.entry = 0 → flashBusy s.hl = false → Runs .powerReqStandby s fun t =>
      t = { s with nd := { s.nd with power := { s.nd.power with entry := 1 } } }) ∧
    (2 ≤ s.nd.power.state → s.nd.power.entry = 0 → flashBusy s.hl = true → Runs .powerReqStandby s fun t =>
      t = { s with nd := { s.nd with power := { s.nd.power with standbyWaits := true } } }) ∧
    (s.nd.power.state = 0 → s.nd.power.holding = false → Runs .powerReqStandby s fun t =>
      t = { s with nd := { s.nd with power := { s.nd.power with standbyWaits := true } } }) ∧
    (s.nd.power.state = 0 → s.nd.power.holding = true → Runs .powerReqStandby s fun t =>
      t.nd.power.state = 1 ∧ t.nd.power.domains = [0] ∧ t.nd.power.brownOut = false ∧ KeepsHalord s t) ∧
    (s.nd.power.state = 1 → Runs .powerReqStandby s fun t => counted t ∧ t.nd.power.brownOut = false) ∧
    (s.nd.power.state = 1 → s.nd.power.hostEn = true → Runs .powerReqReady s fun t =>
      t.nd.power.state = 0 ∧ t.nd.power.fromStandby = true ∧ t.nd.power.railStep = 3 ∧ t.nd.power.rising = [(2, 0)] ∧
      t.nd.power.bootCount = (s.nd.power.bootCount + 1) % 2 ^ 32 ∧ t.hl.flash = s.hl.flash ∧ t.pending = s.pending) ∧
    (s.nd.power.state = 1 → s.nd.power.hostEn = false → Runs .powerReqReady s fun t => t = stepThree (beginStart s true)) ∧
    (s.nd.power.state = 0 → Runs .powerReqReady s fun t => t = s) ∧
    (2 ≤ s.nd.power.state → Runs .powerReqReady s counted) ∧
    Runs .powerReqNoChange s counted

/-- R603, R606, R607, R34: rails rise in order. The charged input starts AON's rails; a rail in its window starts its domain's next one; a
domain's last rail with no other domain rising begins the next step of the table; a rail fault of a P domain takes its four Ohmas ports down
and the start goes on, and one of any other domain but AON fails the module. Aloss of REFCLK in Ready or Active stops the module's
acceptance of requests, leaves what it holds and is logged; the return of REFCLK ends that, and restores acceptance when the module has not
failed. -/
def Obligations.RailsAndRefclk : Prop :=
  (∀ s : State,
      (s.nd.power.railStep = 1 → s.nd.power.input = true → s.nd.power.resetLow = false →
        Runs .inputCapacitanceCharged s fun t =>
          t = { s with nd := { s.nd with power := { s.nd.power with railStep := 2, rising := [(0, 0)] } } }) ∧
      (∀ (d : Fin 83) (c : Nat), s.nd.power.rising.find? (fun r => r.1 == d.val) = some (d.val, c) → c + 1 < railCount d.val →
        Runs (.railInWindow d) s fun t => OnlyPower s t ∧ t.nd.power = { s.nd.power with
          rising := s.nd.power.rising.map fun r => if r.1 = d.val then (d.val, c + 1) else r }) ∧
      (∀ (d : Fin 83) (c : Nat), s.nd.power.rising.find? (fun r => r.1 == d.val) = some (d.val, c) → railCount d.val ≤ c + 1 →
        (s.nd.power.rising.filter fun r => r.1 != d.val) ≠ [] →
        Runs (.railInWindow d) s fun t => OnlyPower s t ∧ t.nd.power = { s.nd.power with
          rising := s.nd.power.rising.filter fun r => r.1 != d.val, domains := s.nd.power.domains ++ [d.val] }) ∧
      (∀ (d : Fin 83) (c : Nat), s.nd.power.rising = [(d.val, c)] → railCount d.val ≤ c + 1 →
        4 ≤ s.nd.power.railStep → s.nd.power.railStep ≤ 12 →
        Runs (.railInWindow d) s fun t => OnlyPower s t ∧ t.nd.power = { s.nd.power with
          rising := (railGroup s.nd (s.nd.power.railStep + 1)).map (·, 0), domains := s.nd.power.domains ++ [d.val],
          railStep := s.nd.power.railStep + 1 }) ∧
      (∀ d : Fin 83, 75 ≤ d.val → ¬(s.nd.power.railStep = 14 ∧ (s.nd.power.rising.filter fun r => r.1 != d.val) = []) →
        Runs (.railFault d) s fun t => (∀ k : Fin 32, k.val / 4 = d.val - 75 → portState (t.nd.ports.get k) = 3) ∧
          (∀ k : Fin 16, k.val / 2 = d.val - 75 → fieldOf (t.nd.mem.dports.get k).status 1 0 = 3) ∧
          t.nd.power.failed = s.nd.power.failed ∧ t.nd.power.state = s.nd.power.state ∧ t.nd.ctxs = s.nd.ctxs ∧
          KeepsHalord s t) ∧
      (∀ d : Fin 83, 0 < d.val → d.val < 75 → Runs (.railFault d) s fun t =>
        t.nd.power.failed = true ∧ t.nd.power.off = s.nd.power.off ∧ t.nd.power.state = s.nd.power.state ∧
        (s.nd.power.off = false → s.nd.power.state = 0 → t.nd.power.holding = true) ∧ t.nd.ctxs = s.nd.ctxs ∧ KeepsHalord s t)) ∧
  (∀ s : State,
      (s.nd.power.off = false → 2 ≤ s.nd.power.state → Runs .refclkLoss s fun t =>
        accepting t.nd = false ∧ t.nd.power = { s.nd.power with refclk := false } ∧ t.nd.log.last = s.nd.log.next ∧
        t.nd.ctxs = s.nd.ctxs ∧ t.nd.mem = s.nd.mem ∧ t.nd.trk = s.nd.trk ∧ t.nd.rings = s.nd.rings ∧ t.nd.prs = s.nd.prs ∧
        t.nd.ports = s.nd.ports ∧ KeepsHalord s t) ∧
      Runs .refclkReturn s fun t => t = { s with nd := { s.nd with power := { s.nd.power with refclk := true } } } ∧
        (2 ≤ s.nd.power.state → s.nd.power.failed = false → accepting t.nd = true))

/-- R552, R555–R561, R569, R473, R560: BIST at step 4. The failures are settled by R560 in order. With every region left a live tile and no
structure lost that cannot shrink, step 4 is done, the unit-secret path opens unless it is blocked, the BIST result record stands in flash
as R558 lays it out, and on the chain head ENUM goes out from address 1. Otherwise the start fails and holds. With no failures BIST settles
nothing: no tile, region or port block changes, and no outcome is 7. A failed lane slice takes a spare and is no retirement until it is the
ninth of its tile (R470, R484). -/
def Obligations.BistEndsStepFour : Prop :=
  (∀ (fs : List BistFailure) (s : State), s.nd.power.off = false → s.nd.power.state = 0 → s.nd.power.holding = false →
      s.nd.power.railStep = 0 → s.nd.power.standbyWaits = false → s.nd.power.stepsDone.contains 3 = true →
      s.nd.power.stepsDone.contains 4 = false →
      let r := settleAll fs [] s.nd []
      let base := leBytes 2 s.nd.alm.groupBase
      let enum : ChainFrame := { dst := 0, src := 1, type := 1, tag := 0, status := 0, payload := [2, 0] ++ base }
      let kept := (fs.zip r.2).take 16380
      let record := flashRecord (s.nd.power.bootCount + kept.length * 2 ^ 32 + bit01 (decide (16380 < fs.length)) * 2 ^ 46)
        (r.2.filter (· == 7)).length (kept.flatMap fun x => bistEntry x.1 x.2)
      (deadRegion r.1 = false → r.2.contains 7 = false → Runs (.bistComplete fs) s fun t =>
        t.nd.power.stepsDone.contains 4 = true ∧ t.nd.power.holding = false ∧ t.nd.power.failed = s.nd.power.failed ∧
        (s.hl.sec.cleared = false → t.hl.sec.identity = true ∧ t.hl.sec.storageKey = loadStorageKey s.hl.sec) ∧
        (s.hl.sec.cleared = true → t.hl.sec = s.hl.sec) ∧
        flashRead t.hl 0x60A0000 record.length = record ∧ t.nd.ctxs = s.nd.ctxs ∧ t.pending = s.pending ∧
        (s.nd.power.hostEn = true → t.nd.chainAddr = 1 ∧ t.hl.chain.enumOut = true ∧
          t.nd.out.getLast? = some (.chain (chainEncode enum)))) ∧
      (deadRegion r.1 = true ∨ r.2.contains 7 = true → Runs (.bistComplete fs) s fun t =>
        t.nd.power.failed = true ∧ t.nd.power.holding = true ∧ t.nd.power.stepsDone = s.nd.power.stepsDone ∧
        t.nd.power.state = 0 ∧ bitOf t.nd.log.alert alFault = true ∧ flashRead t.hl 0x60A0000 record.length = record ∧
        t.nd.ctxs = s.nd.ctxs ∧ t.pending = s.pending)) ∧
  ((∀ n : Node, settleAll [] [] n [] = (n, [])) ∧
    (∀ (n : Node) (f : BistFailure), f.uclass = 0 → f.array = 3 →
      let h := getAt n.flt.tiles f.unit_.toNat TileHealth.reset
      let r := settleFailure n f
      let h' := { h with lanesOut := h.lanesOut + 1, retired := h.retired || decide (8 ≤ h.lanesOut) }
      r.2 = (if 8 ≤ h.lanesOut then 4 else 2) ∧
      r.1 = { n with flt := { n.flt with tiles := putAt n.flt.tiles f.unit_.toNat h' } }) ∧
    (∀ (n : Node) (f : BistFailure), f.uclass = 0 → (f.array = 6 ∨ f.array = 7 ∨ f.array = 8) →
      let h := getAt n.flt.tiles f.unit_.toNat TileHealth.reset
      let r := settleFailure n f
      r.2 = 4 ∧ r.1 = { n with flt := { n.flt with tiles := putAt n.flt.tiles f.unit_.toNat { h with retired := true } } }) ∧
    (∀ (n : Node) (f : BistFailure), f.uclass = 3 → (settleFailure n f).2 = 6 ∧
      (settleFailure n f).1.flt.blocksOut.contains f.unit_.toNat = true))

/-- R563, R564, R569: step 6. A stack trained with every line corrected is up; each failed attempt is counted and logged, and the
third, or a line left bad, fails the start. A dense port whose drive is present, trained and well formed comes up with its
configuration committed with GEN 1; any other ends its bring-up down, and the start goes on. -/
def Obligations.StepSixBringsUp : Prop :=
  ∀ s : State, inStepSix s.nd.power = true → s.nd.power.standbyWaits = false →
    (∀ (r : RegionId) (bad : Bool), s.nd.power.stacksUp.contains r.val = false →
      getAt s.nd.power.stackTries r.val 0 < 2 → Runs (.stackTrainingDone r false bad) s fun t =>
        t.nd.power = { s.nd.power with stackTries := putAt s.nd.power.stackTries r.val (getAt s.nd.power.stackTries r.val 0 + 1) } ∧
        t.nd.log.last = s.nd.log.next ∧ t.nd.mem = s.nd.mem ∧ t.nd.ctxs = s.nd.ctxs ∧ KeepsHalord s t) ∧
    (∀ (r : RegionId) (trained bad : Bool), s.nd.power.stacksUp.contains r.val = false →
      (trained = false ∧ 2 ≤ getAt s.nd.power.stackTries r.val 0) ∨ (trained = true ∧ bad = true) →
      Runs (.stackTrainingDone r trained bad) s fun t => t.nd.power.failed = true ∧ t.nd.power.holding = true ∧
        t.nd.power.stacksUp = s.nd.power.stacksUp ∧ t.nd.mem = s.nd.mem ∧ KeepsHalord s t) ∧
    (∀ r : RegionId, s.nd.power.stacksUp.contains r.val = false → Runs (.stackTrainingDone r true false) s fun t =>
      t.nd.power.stacksUp = s.nd.power.stacksUp ++ [r.val] ∧ t.nd.power.failed = s.nd.power.failed ∧
      t.nd.power.holding = s.nd.power.holding ∧ t.nd.mem = s.nd.mem ∧ t.nd.ctxs = s.nd.ctxs ∧ KeepsHalord s t) ∧
    (∀ (d : DenseId) (present trained fmtOk : Bool) (nsBlocks queues : Nat) (dz : Bool),
      (densesToBringUp s.nd).contains d.val = true → s.nd.power.denseDone.contains d.val = false →
      Runs (.densePortBringupDone d present trained fmtOk nsBlocks queues dz) s fun t =>
        let q := getAt s.nd.mem.dports d.val DensePort.reset
        let q' := getAt t.nd.mem.dports d.val DensePort.reset
        t.nd.power.denseDone = s.nd.power.denseDone ++ [d.val] ∧ t.nd.power.failed = s.nd.power.failed ∧
        (present = true → trained = true → fmtOk = true → fieldOf q'.status 1 0 = 2 ∧ q'.gen = 1 ∧ q'.cfgLive = q.cfgStage ∧
          q'.nsBlocks = nsBlocks ∧ q'.queues = min queues 64 ∧ q'.deallocZero = dz ∧
          fieldOf q'.status 47 16 = capGib nsBlocks) ∧
        ((present && trained && fmtOk) = false → fieldOf q'.status 1 0 = 0 ∧ q'.gen = q.gen ∧ q'.cfgLive = q.cfgLive ∧
          bitOf t.nd.log.alert alDrive = true) ∧
        (∀ k : DenseId, k ≠ d → t.nd.mem.dports.get k = s.nd.mem.dports.get k) ∧ t.nd.ctxs = s.nd.ctxs ∧ KeepsHalord s t)

/-- R122, R413, R566: step 8. With a port up and a node ID held, the module steps its incarnation, starts every pair afresh, and
a MEMB_JOIN to each membership keeper in force waits for that pair's SEQ_RESET exchange, which has begun. -/
def Obligations.JoinBegins : Prop :=
  ∀ s : State, s.nd.power.off = false → s.nd.power.state = 0 → s.nd.power.holding = false →
    s.nd.power.stepsDone.contains 7 = true → s.nd.nodeId ≠ 0 → s.nd.nodeId < 0xFFF0 → anyPortUp s.nd = true →
    s.nd.ml.memb.joined = false →
    Runs .startJoinFabric s fun t =>
      t.nd.prs.incarnation = (s.nd.prs.incarnation + 1) % 2 ^ 32 ∧ t.nd.ml.memb = { s.nd.ml.memb with joinAcks := [] } ∧
      (∀ k ∈ keepersNow s.nd, k < 0xFFF0 → isOwn s.nd k = false →
        (pairOf t.nd s.nd.nodeId k).resetting = true ∧
        ∃ p ∈ (pairOf t.nd s.nd.nodeId k).waiting, p.opcode = 0xA2 ∧ p.cls = 5 ∧ p.dst.toNat = k ∧ p.src.toNat = s.nd.nodeId) ∧
      t.nd.power = s.nd.power ∧ t.nd.ctxs = s.nd.ctxs ∧ t.nd.mem = s.nd.mem ∧ t.nd.ports = s.nd.ports ∧ KeepsHalord s t

/-- R301, R604, R503, R544: the ordered entry into Standby. Step 2 waits while admitted requests or consumed commands go on; once they have
ended and nothing dirty is left, the drives that are up are flushed; once the flushes end, the module reports itself to the membership
keepers, and with fewer than two of them live it enters Standby at once with only AON on. The watchdog restarts Halord's firmware alone.
BOOT_COUNT and the data path stand as they were, the mailbox is no longer BUSY, and no session or push goes on. While it restarts, the slots
other than the slot record keep their bytes; when it has restarted, the restart is logged. -/
def Obligations.StandbyEntryAndWatchdog : Prop :=
  (∀ s : State,
      (s.nd.power.entry = 1 → s.nd.trk.reqs ≠ [] ∨ s.nd.trk.cmds ≠ [] → Runs .standbyFlush s fun t => t = s) ∧
      (s.nd.power.entry = 1 → s.nd.trk.reqs = [] → s.nd.trk.cmds = [] → dirtyTiered s.nd = [] →
        (∀ f ∈ s.nd.mem.frames, f.2.dirty = 0) → Runs .standbyFlush s fun t =>
          t = { s with nd := { s.nd with power := { s.nd.power with entry := 2 } } }) ∧
      (s.nd.power.entry = 2 → nvmeOut s.nd isFrameWrite = false → Runs .standbyFlush s fun t =>
        t.nd.power = { s.nd.power with entry := 3 } ∧
        (∀ d : DenseId, fieldOf (dportAt s.nd d.val).status 1 0 = 2 →
          ∃ c ∈ t.nd.mem.nvme, c.2.port = d.val ∧ c.2.opcode = 0 ∧ c.2.purpose = .flush) ∧
        t.nd.ctxs = s.nd.ctxs ∧ t.nd.mem.blocks = s.nd.mem.blocks ∧ t.nd.trk = s.nd.trk ∧ KeepsHalord s t) ∧
      (s.nd.power.entry = 3 → nvmeOut s.nd (· == .flush) = false → 2 ≤ (keepersNow s.nd).length → Runs .standbyFlush s fun t =>
        t.nd.power = { s.nd.power with entry := 4 } ∧ t.nd.ctxs = s.nd.ctxs ∧ t.nd.mem = s.nd.mem ∧ KeepsHalord s t) ∧
      (s.nd.power.entry = 3 → nvmeOut s.nd (· == .flush) = false → (keepersNow s.nd).length < 2 → Runs .standbyFlush s fun t =>
        t.nd.power.state = 1 ∧ t.nd.power.domains = [0] ∧ t.nd.power.brownOut = false ∧ t.nd.ctxs = Contexts.reset ∧
        t.nd.mem.stack = [] ∧ KeepsHalord s t)) ∧
  (∀ s : State,
      (aonUp s = true → s.hl.restarting = false → romOnly s = false → Runs .watchdogExpiry s fun t =>
        t.hl.restarting = true ∧ t.hl.session = none ∧ t.hl.push = none ∧ bitOf t.hl.mbx.stat 0 = false ∧ t.nd = s.nd ∧
        t.hl.sec.fuses = s.hl.sec.fuses ∧ t.hl.sec.unsealed = s.hl.sec.unsealed ∧ t.hl.plc = s.hl.plc ∧ t.hl.i3c = s.hl.i3c ∧
        (∀ a, a < 0x60E0000 ∨ 0x60E0040 ≤ a → memGet 0xFF t.hl.flash a = memGet 0xFF s.hl.flash a) ∧ t.pending = s.pending) ∧
      (s.hl.restarting = true → Runs .halordRestartComplete s fun t =>
        t.hl = { s.hl with restarting := false } ∧ t.nd.log.last = s.nd.log.next ∧ t.nd.power = s.nd.power ∧
        t.nd.ctxs = s.nd.ctxs ∧ t.nd.mem = s.nd.mem ∧ t.nd.trk = s.nd.trk ∧ t.pending = s.pending))

/-! ### Halord's sensors, policies and log (R485–R490, R521–R538) -/

/-- R485, R522, R524, R526: a sample stands in the sensor block: a temperature with VALID, or with FAULT when the sensor gives none, and any
other sensor's value as it is. The tile's band follows its hotter valid sensor, and the activity class its occupancy. Nothing but the sensor
block and the tiles' records changes. The oldest staged entry goes to its slot of the log area as its 64 bytes, and leaves the staging
buffer; a write that fails goes to the same place of the next erase block. When entries were not kept, an entry of class 0x0A covers them
and LOG_DROP is set. No byte outside the log area changes. -/
def Obligations.SamplesAndLogStand : Prop :=
  (∀ (rs : List Reading) (r : Reading) (occ : List (TileId × BitVec 7)) (s : State), s.hl.restarting = false → s.nd.power.off = false →
      Runs (.sensorSample (rs ++ [r]) occ) s fun t =>
        let w := Tbl.getD t.hl.sens.words r.offset.toNat 0
        (∀ v, r.value = some v → r.offset.toNat < 0x4A0 →
          fieldOf w 15 0 = fieldOf v 15 0 ∧ bitOf w 16 = true ∧ bitOf w 17 = false) ∧
        (r.value = none → r.offset.toNat < 0x4A0 → bitOf w 16 = false ∧ bitOf w 17 = true) ∧
        (∀ v, r.value = some v → 0x4A0 ≤ r.offset.toNat → w = v) ∧
        (∀ k : TileId, bandOf (tileAt t.nd k.val) = match tileTemp t k.val with
          | some c => nextBand (bandOf (tileAt s.nd k.val)) c
          | none => bandOf (tileAt s.nd k.val)) ∧
        (∀ k : TileId, (∀ o ∈ occ, o.1 ≠ k) → classOf (tileAt t.nd k.val) = classOf (tileAt s.nd k.val)) ∧
        (∀ (pre : List (TileId × BitVec 7)) (k : TileId) (u : BitVec 7), occ = pre ++ [(k, u)] →
          classOf (tileAt t.nd k.val) = activityClass u.toNat) ∧
        t.hl = { s.hl with sens := t.hl.sens } ∧ t.pending = s.pending ∧
        t.nd = { s.nd with flt := { s.nd.flt with tiles := t.nd.flt.tiles } }) ∧
  (∀ (ok : Bool) (e : LogEntry) (rest : List LogEntry) (s : State), s.hl.restarting = false → s.nd.power.off = false →
      s.nd.log.staged = e :: rest → s.nd.log.staged.length ≤ 4096 →
      let slot := if ok then e.lseq % 65536 else (e.lseq % 65536 + 1024) % 65536
      Runs (.logFlashCopy ok) s fun t =>
        flashRead t.hl (0x7000000 + 64 * slot) 64 = logEncode e ∧
        (∀ a, a < 0x7000000 ∨ 0x7400000 ≤ a → memGet 0xFF t.hl.flash a = memGet 0xFF s.hl.flash a) ∧
        (s.nd.log.lost = 0 → t.nd.log.staged = rest ∧ t.nd.log.alert = s.nd.log.alert ∧ t.nd.log.next = s.nd.log.next) ∧
        (s.nd.log.lost ≠ 0 → t.nd.log.staged.length = rest.length + 1 ∧ t.nd.log.lost = 0 ∧ bitOf t.nd.log.alert alLogDrop = true) ∧
        t.hl = { s.hl with flash := t.hl.flash } ∧ t.nd.power = s.nd.power ∧ t.nd.ctxs = s.nd.ctxs ∧ t.nd.mem = s.nd.mem ∧
        t.pending = s.pending)

/-- R529, R533, R534, R538: the end of a policy period. A committed policy block becomes live with the next GEN; one power step is taken from
the new values: down by tile level, then by stack rate, while input power is above CAP_W, and back below 95 % of it. With a stack at
STACK_CRIT or a board sensor at BOARD_CRIT the module fails and goes to Standby. The end of an evaluation window with REBAL_EN and the
bandwidth use above REBAL_HIGH writes one proposal of CAUSE 1 for the one extent homed here, in the ring slot of its PSEQ; between the two
limits, or with REBAL_EN 0, none is written. -/
def Obligations.PeriodsEnd : Prop :=
  (∀ s : State, s.hl.restarting = false → s.nd.power.off = false → 2 ≤ s.nd.power.state →
      let now := takePlcNext s
      (∀ b, s.hl.plc.next = [b] → now.hl.plc.live = b ∧ now.hl.plc.gen = nextGen s.hl.plc.gen ∧ now.hl.plc.next = []) ∧
      (s.hl.plc.next = [] → now = s) ∧
      (tooHot (powerStep now) = true → Runs .policyPeriodEnd s fun t =>
        t.nd.power.state = 1 ∧ t.nd.power.failed = true ∧ t.nd.power.domains = [0] ∧ t.hl.flash = s.hl.flash ∧ t.pending = s.pending) ∧
      (tooHot (powerStep now) = false → Runs .policyPeriodEnd s fun t =>
        t.hl.plc.live = now.hl.plc.live ∧ t.hl.plc.gen = now.hl.plc.gen ∧
        t.hl.sec = s.hl.sec ∧ t.hl.mbx = s.hl.mbx ∧ t.hl.sens = s.hl.sens ∧ t.pending = s.pending ∧
        (∀ p, inputPower s = some p → 10 * fieldOf now.hl.plc.live.1 15 0 < p →
          s.hl.plc.powerCap < fieldOf now.hl.plc.live.1 17 16 →
          t.hl.plc.powerCap = s.hl.plc.powerCap + 1 ∧ t.hl.plc.stackRate = s.hl.plc.stackRate) ∧
        (∀ p, inputPower s = some p → 10 * fieldOf now.hl.plc.live.1 15 0 < p →
          fieldOf now.hl.plc.live.1 17 16 ≤ s.hl.plc.powerCap → fieldOf now.hl.plc.live.1 31 24 < s.hl.plc.stackRate →
          t.hl.plc.powerCap = s.hl.plc.powerCap ∧
          t.hl.plc.stackRate = max (fieldOf now.hl.plc.live.1 31 24) (s.hl.plc.stackRate - 16)) ∧
        (∀ p, inputPower s = some p → p ≤ 10 * fieldOf now.hl.plc.live.1 15 0 → 100 * p < 950 * fieldOf now.hl.plc.live.1 15 0 →
          s.hl.plc.stackRate < 256 →
          t.hl.plc.powerCap = s.hl.plc.powerCap ∧ t.hl.plc.stackRate = min 256 (s.hl.plc.stackRate + 16)))) ∧
  (∀ (bw sp : BitVec 8) (traffic : List (BitVec 16 × Word × BitVec 32)) (s : State), s.hl.restarting = false →
      s.nd.power.off = false → 2 ≤ s.nd.power.state →
      let m := s.hl.plc.live.2.2
      (∀ x, bitOf m 1 = true → fieldOf m 23 16 < bw.toNat → ownExtents s.nd = [x] →
        Runs (.evaluationWindowEnd bw sp traffic) s fun t =>
          t.hl.plc.propLast = s.hl.plc.propLast + 1 ∧
          ∃ ls, Tbl.find? t.hl.plc.proposals (s.hl.plc.propLast % 256) = some [wordOf x.2.start,
            wordOf (x.2.chunks + x.1 * 2 ^ 32 + 1 * 2 ^ 48),
            wordOf (trafficOf traffic x + (s.hl.plc.propLast + 1) * 2 ^ 32), wordOf (ls % 2 ^ 48)]) ∧
      ((bitOf m 1 = false ∨ (bw.toNat ≤ fieldOf m 23 16 ∧ sp.toNat ≤ fieldOf m 23 16 ∧ fieldOf m 31 24 ≤ bw.toNat)) →
        Runs (.evaluationWindowEnd bw sp traffic) s fun t =>
          t.hl.plc.propLast = s.hl.plc.propLast ∧ t.hl.plc.proposals = s.hl.plc.proposals ∧ t.hl.plc.live = s.hl.plc.live ∧
          t.hl.sec = s.hl.sec ∧ t.pending = s.pending))

/-- R486, R487, R490: the end of an error-band window clears the bins, the rows' counts and the regions' reset counts, makes a
committed EB_CFG live with the next GEN, and raises by one the margin of the one tile and band over THRESH that has room. -/
def Obligations.BandWindowEnds : Prop :=
  ∀ s : State, s.hl.restarting = false → accepting s.nd = true → Quiet s.nd → Still s.nd →
    ((∀ (t : TileId) (b : Fin 8), bandOver s.nd (tileAt s.nd t.val) b.val = false) → Runs .errorBandWindowEnd s fun t =>
      (∀ k : TileId, t.nd.flt.tiles.get k = { s.nd.flt.tiles.get k with bins := [], rows := [] }) ∧
      (∀ k : RegionId, t.nd.flt.regions.get k = { s.nd.flt.regions.get k with resets := 0 }) ∧
      (∀ w, s.nd.flt.ebNext = [w] → t.nd.flt.ebLive = w ∧ t.nd.flt.ebGen = nextGen s.nd.flt.ebGen ∧ t.nd.flt.ebNext = []) ∧
      (s.nd.flt.ebNext = [] → t.nd.flt.ebLive = s.nd.flt.ebLive ∧ t.nd.flt.ebGen = s.nd.flt.ebGen) ∧
      t.nd = { s.nd with flt := t.nd.flt } ∧ OnlyBandRecord s t) ∧
    (∀ (k : TileId) (b : Fin 8), (tileAt s.nd k.val).retired = false →
      (∀ (j : TileId) (c : Fin 8), bandOver s.nd (tileAt s.nd j.val) c.val = true ↔ j = k ∧ c = b) →
      natField (tileAt s.nd k.val).state.toNat (3 * b.val + 2) (3 * b.val) < fieldOf s.nd.flt.ebLive 23 21 →
      Runs .errorBandWindowEnd s fun t =>
        (t.nd.flt.tiles.get k).state = putField (s.nd.flt.tiles.get k).state (3 * b.val + 2) (3 * b.val)
          (natField (tileAt s.nd k.val).state.toNat (3 * b.val + 2) (3 * b.val) + 1) ∧
        (t.nd.flt.tiles.get k).bins = [] ∧ t.nd.log.last = s.nd.log.next ∧ OnlyBandRecord s t)

/-! ### The Halord chain (R504–R510, R516) -/

/-- R508–R510, R506, R507: enumeration. A module without an address takes ADDR from ENUM, records GROUP_BASE, takes the node ID they give when
its Almanac agrees, and passes ENUM on with the next address; above 16 it sets GROUP_FULL and passes the frame as it came. ENUM back at the
head records the size of the group and ends its wait. The head repeats ENUM while it has not returned or the chain is down, and a lost
symbol lock marks the chain down. Aframe for another module passes on as it came, byte for byte, whatever its TYPE; a frame of a reserved
TYPE addressed to this module is counted and discarded. Either way nothing else of the module changes but what says that the chain has
symbol lock. -/
def Obligations.ChainEnumeratesAndForwards : Prop :=
  (∀ s : State, aonUp s = true →
      let base := leBytes 2 s.nd.alm.groupBase
      let enum : ChainFrame := { dst := 0, src := 1, type := 1, tag := 0, status := 0, payload := [2, 0] ++ base }
      (∀ (frame : Bytes) (f : ChainFrame), chainDecode frame = some f → f.type = 1 → f.dst = 0 → s.nd.power.hostEn = false →
        romOnly s = false → s.nd.chainAddr = 0 → numAt f.payload 0 1 ≠ 0 → numAt f.payload 0 1 ≤ 16 →
        s.nd.power.standbyWaits = false →
        let onward := leBytes 1 (numAt f.payload 0 1 + 1) ++ f.payload.drop 1
        Runs (.chainEnum frame) s fun t =>
          t.nd.chainAddr = numAt f.payload 0 1 ∧ t.hl.chain.base = numAt f.payload 2 2 ∧
          (s.nd.alm.adopted = true → s.nd.alm.groupBase = numAt f.payload 2 2 →
            t.nd.nodeId = numAt f.payload 2 2 + numAt f.payload 0 1 - 1) ∧
          (s.nd.alm.adopted = true → s.nd.alm.groupBase ≠ numAt f.payload 2 2 → t.nd.nodeId = s.nd.nodeId ∧
            bitOf t.hl.chain.status 9 = true) ∧
          t.nd.out = s.nd.out ++ [.chain (chainEncode { f with src := numAt f.payload 0 1, payload := onward })] ∧
          t.hl.flash = s.hl.flash ∧ t.hl.sec = s.hl.sec ∧ t.nd.ctxs = s.nd.ctxs ∧ t.pending = s.pending) ∧
      (∀ (frame : Bytes) (f : ChainFrame), chainDecode frame = some f → f.type = 1 → f.dst = 0 → s.nd.power.hostEn = false →
        romOnly s = false → s.nd.chainAddr = 0 → 16 < numAt f.payload 0 1 → Runs (.chainEnum frame) s fun t =>
          t.nd.chainAddr = 0 ∧ bitOf t.hl.chain.status 8 = true ∧ t.nd.out = s.nd.out ++ [.chain (chainEncode f)] ∧
          t.nd.nodeId = s.nd.nodeId ∧ t.hl.flash = s.hl.flash ∧ t.pending = s.pending) ∧
      (∀ (frame : Bytes) (f : ChainFrame), chainDecode frame = some f → f.type = 1 → f.dst = 0 → s.nd.power.hostEn = true →
        s.hl.chain.enumOut = true → numAt f.payload 2 2 = s.hl.chain.base → s.nd.power.standbyWaits = false →
        Runs (.chainEnum frame) s fun t =>
          bitOf t.hl.chain.status 1 = true ∧ fieldOf t.hl.chain.status 6 2 = min 16 (numAt f.payload 0 1 - 1) ∧
          t.hl.chain.enumOut = false ∧ t.hl.chain.down = false ∧
          (s.nd.alm.adopted = true → s.nd.chainAddr ≠ 0 → s.hl.chain.base = s.nd.alm.groupBase →
            t.nd.nodeId = s.hl.chain.base + s.nd.chainAddr - 1) ∧
          (∀ a, a < 0x6800000 ∨ 0x6C00000 ≤ a → memGet 0xFF t.hl.flash a = memGet 0xFF s.hl.flash a) ∧
          t.hl.sec = s.hl.sec ∧ t.nd.ctxs = s.nd.ctxs ∧ t.pending = s.pending) ∧
      (∀ (frame : Bytes) (f : ChainFrame), chainDecode frame = some f → f.type = 1 → f.dst = 0 → s.nd.power.hostEn = true →
        s.hl.chain.enumOut = false ∨ numAt f.payload 2 2 ≠ s.hl.chain.base → Runs (.chainEnum frame) s fun t =>
          bitOf t.hl.chain.status 7 = true ∧ t.nd.out = s.nd.out ∧ t.nd.nodeId = s.nd.nodeId ∧ t.hl.flash = s.hl.flash) ∧
      (s.nd.power.hostEn = true → s.nd.chainAddr ≠ 0 → s.hl.chain.enumOut = true ∨ s.hl.chain.down = true →
        Runs .chainEnumRetry s fun t => t.nd.chainAddr = 1 ∧ t.hl.chain.enumOut = true ∧ t.hl.chain.base = s.nd.alm.groupBase ∧
          t.nd.out = s.nd.out ++ [.chain (chainEncode enum)] ∧ t.nd.ctxs = s.nd.ctxs ∧ t.hl.flash = s.hl.flash) ∧
      (s.hl.push = none → s.hl.session = none → Runs .chainDown s fun t => t.hl.chain.down = true ∧ bitOf t.hl.chain.status 11 = true ∧
        bitOf t.hl.chain.status 0 = false ∧ bitOf t.nd.log.alert alChain = true ∧ t.nd.log.last = s.nd.log.next ∧
        t.nd.power = s.nd.power ∧ t.nd.ctxs = s.nd.ctxs ∧ t.hl.flash = s.hl.flash ∧ t.hl.mbx = s.hl.mbx ∧ t.pending = s.pending)) ∧
  (∀ (frame : Bytes) (f : ChainFrame) (s : State), aonUp s = true → chainDecode frame = some f → f.dst ≠ 31 →
      let only := fun (t : State) (out : List Out) => t.nd = { s.nd with tele := t.nd.tele, out := out } ∧ t.pending = s.pending ∧
        t.hl = { s.hl with chain := { s.hl.chain with status := putField s.hl.chain.status 0 0 1 } }
      let passes := fun (i : Instr) => Runs i s fun t => only t (s.nd.out ++ [.chain frame])
      (ownAddr s f.dst = false → f.type ≠ 1 → passes (.chainFrameForward frame)) ∧
      (ownAddr s f.dst = true → chainTypes.contains f.type = false →
        Runs (.chainFrameForward frame) s fun t => only t s.nd.out) ∧
      (ownAddr s f.dst = false → (f.type = 2 → passes (.chainRdReq frame)) ∧ (f.type = 3 → passes (.chainWrReq frame)) ∧
        (f.type = 4 → passes (.chainRdRsp frame)) ∧ (f.type = 5 → passes (.chainWrRsp frame)) ∧
        (f.type = 6 → passes (.chainAlert frame))))

/-- R506, R507, R516, R527: accesses over the chain at their target. RD_REQ within a space is answered with the words it names; of
the flash outside its live parts, those are the flash's bytes. An access that is malformed or not allowed is answered with its status
and no words. WR_REQ writes its registers in order once, and a repeat of the TAG last seen from the same source is answered with the
recorded status and writes nothing. ALERT sets its sender's bit at the head. -/
def Obligations.ChainAccessesTarget : Prop :=
  ∀ (frame : Bytes) (f : ChainFrame) (s : State), aonUp s = true → romOnly s = false → chainDecode frame = some f →
    f.dst ≠ 31 → ownAddr s f.dst = true →
    let seen := countHalord (rxLocked s) 0
    let answer := fun (type st : Nat) (data : Bytes) =>
      let a := s.nd.chainAddr
      Out.chain (chainEncode { dst := f.src, src := a, type := type, tag := f.tag, status := st, payload := data })
    (f.type = 2 → (∀ st, chainRefusal seen f 32 false = some st → Runs (.chainRdReq frame) s fun t =>
      t.nd.out = s.nd.out ++ [answer 4 st []] ∧ t.hl = seen.hl ∧ t.nd.ctxs = s.nd.ctxs)) ∧
    (f.type = 2 → chainRefusal seen f 32 false = none → numAt f.payload 0 1 = 1 →
      numAt f.payload 8 8 + 8 * numAt f.payload 1 1 ≤ 0x60E1000 → Runs (.chainRdReq frame) s fun t =>
        t.nd.out = s.nd.out ++ [answer 4 stOK (flashRead s.hl (numAt f.payload 8 8) (8 * numAt f.payload 1 1))] ∧
        t.hl = seen.hl ∧ t.nd.ctxs = s.nd.ctxs) ∧
    (f.type = 3 → ∀ st, Tbl.find? s.hl.chain.lastWr f.src = some (f.tag, st) → Runs (.chainWrReq frame) s fun t =>
      t.nd.out = s.nd.out ++ [answer 5 st []] ∧ t.hl = seen.hl ∧ t.nd.ctxs = s.nd.ctxs) ∧
    (f.type = 3 → (∀ st, Tbl.find? s.hl.chain.lastWr f.src ≠ some (f.tag, st)) → ∀ st, chainRefusal seen f 30 true = some st →
      st ≠ stOK → Runs (.chainWrReq frame) s fun t => t.nd.out = s.nd.out ++ [answer 5 st []] ∧
        Tbl.find? t.hl.chain.lastWr f.src = some (f.tag, st) ∧ t.hl.flash = s.hl.flash ∧ t.hl.mbx = s.hl.mbx ∧
        t.hl.sec = s.hl.sec ∧ t.nd.ctxs = s.nd.ctxs) ∧
    (f.type = 3 → (∀ st, Tbl.find? s.hl.chain.lastWr f.src ≠ some (f.tag, st)) → chainRefusal seen f 30 true = none →
      numAt f.payload 0 1 = 0 → numAt f.payload 1 1 = 1 → numAt f.payload 8 8 = 0x3008 → Runs (.chainWrReq frame) s fun t =>
        t.nd.out = s.nd.out ++ [answer 5 stOK []] ∧ t.nd.log.mask = wordOf (numAt f.payload 16 8) &&& 0x1FF ∧
        Tbl.find? t.hl.chain.lastWr f.src = some (f.tag, stOK) ∧ t.nd.log.alert = s.nd.log.alert ∧
        t.hl.flash = s.hl.flash ∧ t.nd.ctxs = s.nd.ctxs) ∧
    (f.type = 6 → s.nd.power.hostEn = true → 1 ≤ f.src → f.src ≤ 16 → Runs (.chainAlert frame) s fun t =>
      bitOf t.hl.chain.alert (f.src - 1) = true ∧
      (∀ k, k < 64 → k ≠ f.src - 1 → bitOf t.hl.chain.alert k = bitOf s.hl.chain.alert k) ∧
      t.nd.out = s.nd.out ∧ t.nd.ctxs = s.nd.ctxs ∧ t.hl.flash = s.hl.flash)

/-- R507, R520: answers and repeats of the module's own accesses. The one awaited RD_RSP of a mailbox READ hands its words to the
mailbox, and the transfer that it completes ends with OK; the awaited WR_RSP of a WRITE's last words ends it with OK; a failing status
ends either with that status. A request without a response is sent again, byte for byte, up to eight times, and then ends the
transfer with ABORTED. -/
def Obligations.ChainAnswersAndRepeats : Prop :=
  ∀ (s : State) (q : ChainReq), aonUp s = true → s.hl.chain.reqs = [q] → q.got = none → mbxBusy s = true → s.hl.mbx.waits = false →
    s.hl.mbx.closing = none →
    let ended := fun (t : State) (st : Nat) => bitOf t.hl.mbx.stat 0 = false ∧ bitOf t.hl.mbx.stat 1 = true ∧
      fieldOf t.hl.mbx.stat 15 8 = st ∧ t.hl.chain.reqs = [] ∧ t.hl.flash = s.hl.flash ∧ t.nd.ctxs = s.nd.ctxs ∧
      t.pending = s.pending
    (∀ (frame : Bytes) (f : ChainFrame), romOnly s = false → chainDecode frame = some f → f.dst ≠ 31 → ownAddr s f.dst = true →
      f.src = q.dst → f.tag = q.tag →
      (f.type = 4 → q.purpose = .mailboxRead → f.status = stOK → f.payload.length = 8 * q.words →
        s.hl.mbx.remain = q.words → s.hl.mbx.inFlight = q.words → Runs (.chainRdRsp frame) s fun t =>
          ended t stOK ∧ t.hl.mbx.buffer = s.hl.mbx.buffer ++ bytesToWords q.words f.payload ∧ t.hl.mbx.remain = 0 ∧
          t.hl.mbx.addr = s.hl.mbx.addr + wordOf (8 * q.words)) ∧
      (f.type = 4 → q.purpose = .mailboxRead → f.status ≠ stOK → f.status < 256 → Runs (.chainRdRsp frame) s fun t =>
        ended t f.status ∧ t.hl.mbx.buffer = s.hl.mbx.buffer ∧ t.hl.mbx.remain = s.hl.mbx.remain) ∧
      (f.type = 5 → q.purpose = .mailboxWrite → f.status = stOK → s.hl.mbx.remain = q.words → s.hl.mbx.toWrite = [] →
        Runs (.chainWrRsp frame) s fun t => ended t stOK ∧ t.hl.mbx.remain = 0 ∧
          t.hl.mbx.addr = s.hl.mbx.addr + wordOf (8 * q.words)) ∧
      (f.type = 5 → q.purpose = .mailboxWrite → f.status ≠ stOK → f.status < 256 → Runs (.chainWrRsp frame) s fun t =>
        ended t f.status ∧ t.hl.mbx.remain = s.hl.mbx.remain)) ∧
    (∀ tag : BitVec 8, tag.toNat = q.tag → q.repeats < 8 → Runs (.chainRequestTimeout tag) s fun t =>
      t.hl = { s.hl with chain := { s.hl.chain with reqs := [{ q with repeats := q.repeats + 1 }] } } ∧
      t.nd = { s.nd with tele := t.nd.tele, out := s.nd.out ++ [.chain q.frame] } ∧ t.pending = s.pending) ∧
    (∀ tag : BitVec 8, tag.toNat = q.tag → 8 ≤ q.repeats → q.purpose = .mailboxRead ∨ q.purpose = .mailboxWrite →
      Runs (.chainRequestTimeout tag) s fun t => ended t stAborted ∧ t.nd = s.nd)

/-! ### Mailbox, BAR0, I3C and registers (R12, R511, R512, R517–R520, R539, R540) -/

/-- R518, R520: MBX_CMD and MBX_DATA. A command while BUSY is ignored with CMD_ERR. A READ or WRITE that fails a check ends at once
with its status, and one of COUNT 0 with OK. A READ of this module's own flash hands its words over in order; a WRITE stays BUSY for
its words; ABORT ends what runs. MBX_DATA gives the next word, or 0 with UNDERRUN; a word written for a register reaches it and
moves ADDR and REMAIN on, and the last one ends the transfer. -/
def Obligations.MailboxTransfers : Prop :=
  ∀ s : State, aonUp s = true →
    let ended := fun (t : State) (st : Nat) => bitOf t.hl.mbx.stat 0 = false ∧ bitOf t.hl.mbx.stat 1 = true ∧
      fieldOf t.hl.mbx.stat 15 8 = st ∧ t.nd = s.nd ∧ t.hl.flash = s.hl.flash ∧ t.hl.sec = s.hl.sec ∧ t.pending = s.pending
    let refusal := fun (op : Nat) (cmd : Word) =>
      mbxRefusal s op (fieldOf cmd 7 4) (fieldOf cmd 12 8) s.hl.mbx.addr.toNat (fieldOf cmd 47 16)
    (mbxBusy s = true → ∀ cmd : Word,
      (fieldOf cmd 3 0 = 1 → Runs (.mbxRead cmd) s fun t => t = { s with hl := { s.hl with mbx :=
        { s.hl.mbx with stat := putField s.hl.mbx.stat 2 2 1 } } }) ∧
      (fieldOf cmd 3 0 = 2 → Runs (.mbxWrite cmd) s fun t => t = { s with hl := { s.hl with mbx :=
        { s.hl.mbx with stat := putField s.hl.mbx.stat 2 2 1 } } }) ∧
      (fieldOf cmd 3 0 = 3 → Runs (.mbxAbort cmd) s fun t => ended t stAborted ∧ t.hl.push = none)) ∧
    (mbxBusy s = false → ∀ cmd : Word,
      (∀ st, st < 256 → fieldOf cmd 3 0 = 1 → refusal 1 cmd = some st → Runs (.mbxRead cmd) s fun t => ended t st) ∧
      (∀ st, st < 256 → fieldOf cmd 3 0 = 2 → refusal 2 cmd = some st → Runs (.mbxWrite cmd) s fun t => ended t st) ∧
      (fieldOf cmd 3 0 = 1 → refusal 1 cmd = none → fieldOf cmd 47 16 = 0 → Runs (.mbxRead cmd) s fun t => ended t stOK) ∧
      (fieldOf cmd 3 0 = 1 → refusal 1 cmd = none → 0 < fieldOf cmd 47 16 → fieldOf cmd 47 16 ≤ 512 → fieldOf cmd 7 4 = 1 →
        (fieldOf cmd 12 8 = 0 ∨ ownAddr s (fieldOf cmd 12 8) = true) → Runs (.mbxRead cmd) s fun t =>
          ended t stOK ∧ t.hl.mbx.remain = 0 ∧
          t.hl.mbx.buffer = (List.range (fieldOf cmd 47 16)).map fun i => flashWord s (s.hl.mbx.addr.toNat + 8 * i)) ∧
      (fieldOf cmd 3 0 = 2 → refusal 2 cmd = none → 0 < fieldOf cmd 47 16 → Runs (.mbxWrite cmd) s fun t =>
        bitOf t.hl.mbx.stat 0 = true ∧ t.hl.mbx.op = 2 ∧ t.hl.mbx.space = fieldOf cmd 7 4 ∧ t.hl.mbx.target = fieldOf cmd 12 8 ∧
        t.hl.mbx.remain = fieldOf cmd 47 16 ∧ t.hl.mbx.addr = s.hl.mbx.addr ∧ t.nd = s.nd ∧ t.hl.flash = s.hl.flash)) ∧
    (∀ w rest, s.hl.mbx.buffer = w :: rest → mbxBusy s = false → Runs .mbxDataRead s fun t =>
      t.hl = { s.hl with mbx := { s.hl.mbx with buffer := rest } } ∧ t.nd = { s.nd with out := s.nd.out ++ [.value w] }) ∧
    (s.hl.mbx.buffer = [] → Runs .mbxDataRead s fun t => bitOf t.hl.mbx.stat 3 = true ∧
      t.nd = { s.nd with out := s.nd.out ++ [.value 0] } ∧ t.hl.flash = s.hl.flash) ∧
    (∀ w : Word, mbxBusy s = true → s.hl.mbx.op = 2 → s.hl.mbx.waits = false → s.hl.mbx.closing = none → s.hl.mbx.space = 0 →
      mbxLocal s = true → s.hl.mbx.toWrite = [] → s.hl.mbx.inFlight = 0 → s.hl.mbx.remain = 1 → s.hl.mbx.addr = 0x3008 →
      mbxFree s ≠ 0 → Runs (.mbxDataWrite w) s fun t => t.nd.log.mask = w &&& 0x1FF ∧ t.hl.mbx.addr = 0x3010 ∧
        t.hl.mbx.remain = 0 ∧ bitOf t.hl.mbx.stat 0 = false ∧ bitOf t.hl.mbx.stat 1 = true ∧ fieldOf t.hl.mbx.stat 15 8 = stOK ∧
        t.nd = { s.nd with log := { s.nd.log with mask := w &&& 0x1FF } } ∧ t.hl.flash = s.hl.flash) ∧
    (∀ w : Word, mbxBusy s = true → s.hl.mbx.op = 2 → s.hl.mbx.waits = false → s.hl.mbx.toWrite = [] → s.hl.mbx.inFlight = 0 →
      s.hl.mbx.closing = none → 0 < s.hl.mbx.remain → mbxFree s = 0 → Runs (.mbxDataWrite w) s fun t =>
        bitOf t.hl.mbx.stat 4 = true ∧ ended t stAborted)

/-- R11, R12, R511, R512: BAR0 and the window. An access that is no aligned 8-byte one completes without effect and is counted. A
write to a read-write register of the alert, error-band, Vigil, policy and port blocks takes the bits that the register has, a bit
written 1 to a W1C register is cleared and no other bit changes, and a write to a read-only or reserved offset has no effect. -/
def Obligations.RegisterWritesReach : Prop :=
  ∀ (w : Word) (s : State), aonUp s = true →
    (bar0Up s = true → Runs .bar0BadAccess s fun t => t = countHalord s 4) ∧
    (bar0Up s = true → ∀ off : BitVec 24, off.toNat % 8 ≠ 0 → Runs (.registerWrite off w) s fun t => t = countHalord s 4) ∧
    Runs (.registerWrite 0x3000 w) s (fun t => t = { s with nd := { s.nd with log := { s.nd.log with
      alert := s.nd.log.alert &&& ~~~(w &&& 0x1FF) } } }) ∧
    Runs (.registerWrite 0x3008 w) s (fun t => t = { s with nd := { s.nd with log := { s.nd.log with mask := w &&& 0x1FF } } }) ∧
    Runs (.registerWrite 0x71000 w) s (fun t => t = { s with nd := { s.nd with flt := { s.nd.flt with
      ebStage := w &&& 0x7FFFFFF } } }) ∧
    Runs (.registerWrite 0x71018 w) s (fun t => t = { s with nd := { s.nd with flt := { s.nd.flt with ebSel := w &&& 0x3F } } }) ∧
    Runs (.registerWrite 0x72000 w) s (fun t => t = { s with nd := { s.nd with flt := { s.nd.flt with
      vgStage := w &&& 0xFF1FFF07 } } }) ∧
    Runs (.registerWrite 0x18000 w) s (fun t => t = { s with hl := { s.hl with plc := { s.hl.plc with
      stage := (w &&& 0xFF03FFFF, s.hl.plc.stage.2) } } }) ∧
    Runs (.registerWrite 0x1008 w) s (fun t => t = { s with hl := { s.hl with mbx := { s.hl.mbx with addr := w } } }) ∧
    Runs (.registerWrite 0x0 w) s (fun t => t = s) ∧
    Runs (.registerWrite 0x100000 w) s (fun t => t = s) ∧
    (∀ p : Fin 32, Runs (.registerWrite (BitVec.ofNat 24 (0x20008 + 0x2000 * p.val)) w) s fun t =>
      (t.nd.ports.get p).cfgStage = w &&& 0x7F ∧ (t.nd.ports.get p).cfgLive = (s.nd.ports.get p).cfgLive ∧
      (∀ k : Fin 32, k ≠ p → t.nd.ports.get k = s.nd.ports.get k) ∧ t.nd = { s.nd with ports := t.nd.ports } ∧ KeepsHalord s t)

/-- R539, R540: the board controller's I3C accesses. A private write's first byte chooses the register; eight bytes after index 0x07
make a POWER_REQ and after index 0x03 clear the alerts they name, and a shorter write chooses only. A dynamic address is taken once and
dropped by RSTDAA, and the event codes switch in-band interrupts. The numbers of the codes are the model's (PRESUMED). -/
def Obligations.I3cAccesses : Prop :=
  ∀ s : State, aonUp s = true →
    (∀ (ix : Byte) (rest : Bytes), rest.length < 8 → Runs (.i3cPrivateWrite (ix :: rest)) s fun t =>
      t = { s with hl := { s.hl with i3c := { s.hl.i3c with index := ix.toNat } } }) ∧
    (∀ rest : Bytes, rest.length = 8 → fieldOf (wordOf (leNat rest)) 1 0 = 1 → Runs (.i3cPrivateWrite (0x07 :: rest)) s fun t =>
      t = requestStandby { s with hl := { s.hl with i3c := { s.hl.i3c with index := 7 } } }) ∧
    (∀ rest : Bytes, rest.length = 8 → fieldOf (wordOf (leNat rest)) 1 0 = 2 → Runs (.i3cPrivateWrite (0x07 :: rest)) s fun t =>
      t = requestReady { s with hl := { s.hl with i3c := { s.hl.i3c with index := 7 } } }) ∧
    (∀ rest : Bytes, rest.length = 8 → Runs (.i3cPrivateWrite (0x03 :: rest)) s fun t =>
      t.nd = { s.nd with log := { s.nd.log with alert := s.nd.log.alert &&& ~~~(wordOf (leNat rest) &&& 0x1FF) } } ∧
      t.hl = { s.hl with i3c := { s.hl.i3c with index := 3 } }) ∧
    (∀ (b : Byte) (rest : Bytes), s.hl.i3c.dynAddr = none → Runs (.i3cCcc 0x07 (b :: rest)) s fun t =>
      t = { s with hl := { s.hl with i3c := { s.hl.i3c with dynAddr := some (b.toNat / 2) } } }) ∧
    (∀ (b : Byte) (rest : Bytes) (a : Nat), s.hl.i3c.dynAddr = some a → Runs (.i3cCcc 0x07 (b :: rest)) s fun t => t = s) ∧
    (∀ data : Bytes, Runs (.i3cCcc 0x06 data) s fun t =>
      t = { s with hl := { s.hl with i3c := { s.hl.i3c with dynAddr := none } } }) ∧
    (∀ (rest : Bytes), Runs (.i3cCcc 0x01 (1 :: rest)) s fun t =>
      t = { s with nd := { s.nd with log := { s.nd.log with ibi := false } } })

/-! ### Rings and completion (R41–R56, R153–R155) -/

/-- R42: RING_COMMIT. A refused commit sets CFG_ERR alone. One that clears ENABLE ends consumption, and the ring returns to its start
when nothing of it is in flight, else later. One that sets ENABLE on a ring at its start zeroes its storage and leaves it empty. Every
other ring, and everything else, is as it was. -/
def Obligations.RingCommits : Prop :=
  ∀ (k : BitVec 16) (w : Word) (s : State), accepting s.nd = true → ringReachable s.nd k.toNat = true →
    let r := ringOf s.nd k.toNat
    (bitOf w 0 = false → Moves (.ringCommit k w) s fun m => m = s.nd) ∧
    (bitOf w 0 = true → ringCommitBad r = true → Moves (.ringCommit k w) s fun m =>
      m = setRing s.nd k.toNat { r with status := putField r.status 1 1 1 }) ∧
    (bitOf w 0 = true → ringCommitBad r = false → bitOf r.cfgStage 0 = false → ringEnabled r = true → r.inflight = 0 →
      Moves (.ringCommit k w) s fun m => m = setRing s.nd k.toNat
        { r with cfgLive := r.cfgStage, gen := nextGen r.gen, head := 0, phase := true, draining := false, stopped := false }) ∧
    (bitOf w 0 = true → ringCommitBad r = false → bitOf r.cfgStage 0 = false → ringEnabled r = true → 0 < r.inflight →
      Moves (.ringCommit k w) s fun m => m = setRing s.nd k.toNat
        { r with cfgLive := r.cfgStage, gen := nextGen r.gen, draining := true, stopped := false }) ∧
    (bitOf w 0 = true → ringCommitBad r = false → bitOf r.cfgStage 0 = true → ringEnabled r = false → r.phase = true →
      s.nd.power.entry = 0 → Moves (.ringCommit k w) s fun m =>
        ringOf m k.toNat = { r with cfgLive := r.cfgStage, gen := nextGen r.gen, storage := [], writers := [], stopped := false,
                                    stalled := false } ∧
        (∀ j, j ≠ k.toNat → ringOf m j = ringOf s.nd j) ∧ m = { s.nd with rings := m.rings })

/-- R43, R48, R50, R51: the doorbell makes the engine take the descriptor at HEAD into a tracker when its PHASE is the ring's, and HEAD
moves on, its phase inverted at the wrap; a code that names no command ends at once with INVALID; with no tracker free the ring waits
until one frees. A store to a slot lands, and one that reaches a descriptor not yet consumed is discarded and stops the ring. -/
def Obligations.RingsConsume : Prop :=
  ∀ (k : BitVec 16) (s : State), accepting s.nd = true → ringReachable s.nd k.toNat = true →
    let r := ringOf s.nd k.toNat
    let only := fun (m : Node) (r' : Ring) => ringOf m k.toNat = r' ∧ (∀ j, j ≠ k.toNat → ringOf m j = ringOf s.nd j)
    let due := ringEnabled r = true ∧ r.stopped = false ∧ slotPhase r r.head = r.phase ∧
      slotPhase r (ringNext r).head ≠ (ringNext r).phase ∧ s.nd.power.entry = 0
    let takes := fun (m : Node) (r' : Ring) =>
      only m { ringNext r' with inflight := r.inflight + 1, stalled := false } ∧
      m = { s.nd with rings := m.rings, trk := { s.nd.trk with
        nextTid := s.nd.trk.nextTid + 1,
        cmds := Tbl.put s.nd.trk.cmds s.nd.trk.nextTid (orInvalid (consumedCmd s.nd k.toNat r)) } }
    (∀ w : Word, due → cmdTrackerFree s.nd (ringRegion k.toNat) = true →
      Moves (.ringDoorbell k w) s fun m => takes m { r with tailHint := fieldOf w 15 0 }) ∧
    (∀ w : Word, due → cmdTrackerFree s.nd (ringRegion k.toNat) = false → Moves (.ringDoorbell k w) s fun m =>
      only m { r with tailHint := fieldOf w 15 0, stalled := true } ∧ m = { s.nd with rings := m.rings }) ∧
    (∀ w : Word, slotPhase r r.head ≠ r.phase → s.nd.power.entry = 0 → Moves (.ringDoorbell k w) s fun m =>
      only m { r with tailHint := fieldOf w 15 0, stalled := false } ∧ m = { s.nd with rings := m.rings }) ∧
    (∀ (g : RegionId) (e : Nat × Ring), (s.nd.rings.filter fun e => ringRegion e.1 == g.val && e.2.stalled) = [e] → e.1 = k.toNat →
      due → cmdTrackerFree s.nd (ringRegion k.toNat) = true → Moves (.trackerFreed g) s fun m => takes m r) ∧
    (∀ (slot : BitVec 16) (data : Bytes) (src : NodeId), slot.toNat < ringSlots r → data.length = 64 →
      (ringEnabled r = false ∨ r.stopped = true ∨ slotUnconsumed r slot.toNat = false) →
      Moves (.ringEntryWrite k slot data src) s fun m =>
        only m { r with storage := (ringOf m k.toNat).storage, writers := Tbl.put r.writers slot.toNat src.toNat } ∧
        memRead 0 (ringOf m k.toNat).storage (slot.toNat * 64) 64 = data ∧
        (∀ a, a < slot.toNat * 64 ∨ slot.toNat * 64 + 64 ≤ a →
          memGet 0 (ringOf m k.toNat).storage a = memGet 0 r.storage a) ∧
        m = { s.nd with rings := m.rings }) ∧
    (∀ (slot : BitVec 16) (data : Bytes) (src : NodeId), slot.toNat < ringSlots r → ringEnabled r = true → r.stopped = false →
      slotUnconsumed r slot.toNat = true → 0 < r.inflight → Moves (.ringEntryWrite k slot data src) s fun m =>
        m = setRing s.nd k.toNat { r with status := putField r.status 0 0 1, stopped := true, draining := true })

/-- R54–R56, R153, R155: a command whose effects are all visible leaves its ring's count and writes its record to CMP_NODE; with none to
write, its counter increment follows directly; one with neither is gone. While a line it wrote is still out of step with its mirror it
waits. The increment adds 1 or the bytes landed, stops at the maximum with ERR, and for another module's counter travels as a PROBE,
whose refusal is logged. -/
def Obligations.CommandsComplete : Prop :=
  ∀ (tid : Nat) (c : Cmd) (s : State), accepting s.nd = true → cmdOf s.nd tid = some c →
    let resync := s.nd.coh.mdirty.any fun x => x.2.cmds.contains tid
    let left := fun (m : Node) => (ringOf m c.ring).inflight = (ringOf s.nd c.ring).inflight - 1 ∧
      (ringOf m c.ring).status = (ringOf s.nd c.ring).status ∧ (∀ j, j ≠ c.ring → ringOf m j = ringOf s.nd j)
    let free := c.phase = .ended ∧ resync = false ∧ c.fired = false ∧ ¬(s.nd.ml.memb.suspended = true ∧ c.mirrored = true)
    (c.phase = .ended → (resync = true ∨ s.nd.ml.memb.suspended = true ∧ c.mirrored = true) →
      Moves (.commandComplete tid) s fun m => m = s.nd) ∧
    (free → cmpNode c = 0 → countDue c = false → Moves (.commandComplete tid) s fun m =>
      left m ∧ cmdOf m tid = none ∧ m = { s.nd with rings := m.rings, trk := m.trk }) ∧
    (free → cmpNode c = 0 → countDue c = true → Moves (.commandComplete tid) s fun m =>
      left m ∧ cmdOf m tid = some { c with phase := .countDue } ∧ m = { s.nd with rings := m.rings, trk := m.trk }) ∧
    (free → cmpNode c ≠ 0 → recordBad c = false → isLost s.nd (cmpNode c) = false → Moves (.commandComplete tid) s fun m =>
      left m ∧ cmdOf m tid = some { c with phase := .recordSent } ∧
      m.prs = (sendPacket (leaveRing s.nd c) (completionRecord s.nd c) (.record tid)).prs ∧ m.ctr = s.nd.ctr ∧ m.mem = s.nd.mem) ∧
    (c.phase = .countDue → countDue c = true → isOwn s.nd (cntNode c) = true → c.setErr = false → Quiet s.nd →
      let x := counterOf s.nd (cntIndex c)
      let v := x.value + if x.bytes then c.landed else 1
      x.owner = cmdCtx c → x.trig = none → s.nd.ctr.waits = [] →
      (v ≤ counterMax → Moves (.completionCounterIncrement tid) s fun m =>
        m = setCounter (dropCmd s.nd tid) (cntIndex c) { x with value := v }) ∧
      (counterMax < v → Moves (.completionCounterIncrement tid) s fun m => cmdOf m tid = none ∧
        counterOf m (cntIndex c) = { x with value := counterMax, err := true } ∧
        (∀ j, j ≠ cntIndex c → counterOf m j = counterOf s.nd j))) ∧
    (c.phase = .countDue → countDue c = true → isOwn s.nd (cntNode c) = false → Moves (.completionCounterIncrement tid) s fun m =>
      m = setCmd (sendPacket s.nd (countProbePacket s.nd c) (.countProbe tid)) tid { c with phase := .countSent }) ∧
    (c.phase = .recordSent → countDue c = false → Moves (.completionCounterIncrement tid) s fun m =>
      cmdOf m tid = none ∧ (∀ u ∈ (pairOf m s.nd.nodeId (cmpNode c)).sent, u.purpose ≠ .record tid) ∧ m.ctr = s.nd.ctr) ∧
    (∀ (p : Packet) (a : Node), takeAnswer s.nd p = (a, some (.countProbe tid)) →
      (p.status.toNat = stOK → Moves (.counterProbeAnswer p) s fun m => m = dropCmd a tid) ∧
      (p.status.toNat ≠ stOK → p.status.toNat ≠ stRetry → Moves (.counterProbeAnswer p) s fun m =>
        cmdOf m tid = none ∧ m.log.last = a.log.next ∧ m.ctr = a.ctr))

/-! ### Engines, counters, keys, ranges and revocation (R52, R53, R59, R62–R82, R161–R172, R433, R434) -/

/-- R168–R172: FILL sends its first WRITE, byte b of the span from byte b mod 8 of PATTERN, and COPY its first READ, each no larger
than a packet and within one 2 MiB chunk. The READ's data goes out as a WRITE; the last WRITE's answer ends the command with OK and
LENGTH; a refusal ends it with its status, or with PARTIAL once a byte has landed. A malformed command ends with INVALID, and one of
LENGTH 0 with nothing of its ring before it with OK at once. -/
def Obligations.CopyEnginesRun : Prop :=
  ∀ (tid : Nat) (c : Cmd) (s : State),
    let piece := fun (left : Nat) => min (min (engLength c) (maxPayload s.nd)) left
    let room := fun (pva : Nat) => 2 ^ 21 - pva % 2 ^ 21
    (CanStart s.nd tid 2 c → engInvalid c = true → Moves (.fill tid) s fun m => HasEnded m tid stInvalid 0 0 ∧ m.prs = s.nd.prs) ∧
    (CanStart s.nd tid 1 c → engInvalid c = true → Moves (.copy tid) s fun m => HasEnded m tid stInvalid 0 0 ∧ m.prs = s.nd.prs) ∧
    (∀ h, CanStart s.nd tid 2 c → WellCommanded s.nd c → engInvalid c = false → 0 < engLength c →
      engRoute s.nd (cmdCtx c) (engDst c) 0 = .home h → Moves (.fill tid) s fun m =>
        let bs : Bytes := (List.range (piece (room (engDst c)))).map fun i => BitVec.ofNat 8 ((dword c 3).toNat / 256 ^ (i % 8))
        cmdOf m tid = some (engStage c 4 0 0 (nextSeq s.nd s.nd.nodeId h 0) h bs) ∧ m.mem = s.nd.mem ∧ m.ctr = s.nd.ctr) ∧
    (∀ h, CanStart s.nd tid 1 c → WellCommanded s.nd c → engInvalid c = false → 0 < engLength c →
      (c.ring = 0 ∨ fieldOf (dword c 5) 55 40 = 0) → engRoute s.nd (cmdCtx c) (engSrc c) 0 = .home h →
      Moves (.copy tid) s fun m =>
        cmdOf m tid = some (engStage c 2 0 0 (nextSeq s.nd s.nd.nodeId h 0) h []) ∧
        m.prs = (sendPacket s.nd { engPacket s.nd h (cmdCtx c) (engSrc c) 1 with
          len := BitVec.ofNat 13 (piece (min (room (engSrc c)) (room (engDst c)))) } (.engine tid 2)).prs) ∧
    (∀ h, CanStart s.nd tid 2 c → WellCommanded s.nd c → engInvalid c = false → engLength c = 0 → earlierCmds s.nd c = [] →
      engRoute s.nd (cmdCtx c) (engDst c) 0 = .home h → Moves (.fill tid) s fun m => HasEnded m tid stOK 0 0 ∧ m.prs = s.nd.prs) ∧
    (∀ (p : Packet) (a : Node) (k : Nat), takeAnswer s.nd p = (a, some (.engine tid k)) → Quiet a → IsRunning a tid (cmdOp c) c →
      accepting s.nd = true → (cmdOp c = 1 ∨ cmdOp c = 2) → c.stage = k → p.status.toNat ≠ stMoved →
      (k = 4 → p.status.toNat = stOK → engDone c + (engBytes c).length = engLength c → Moves (.engineResponse p) s fun m =>
        HasEnded m tid stOK (wordOf (engLength c)) 0) ∧
      (∀ h, k = 2 → p.status.toNat = stOK → p.cls = 3 → engRoute a (engDstCtx c) (engDst c + engDone c) (engGen c) = .home h →
        Moves (.engineResponse p) s fun m => cmdOf m tid = some (engStage c 4 (engDone c) (engGen c) (nextSeq a a.nodeId h 0) h
          (sliceOf (payloadOf p) 0 (engPiece a c)))) ∧
      (k = 2 → p.status.toNat ≠ stOK → p.status.toNat ≠ stRetry → Moves (.engineResponse p) s fun m =>
        HasEnded m tid (if 0 < engDone c then stPartial else p.status.toNat) (wordOf (engDone c)) 0))

/-- R154, R161–R164: COUNTER_SET gives a counter its VALUE and MODE and clears ERR; its answer is the prior VALUE, and on the admin
ring it may give the counter an owner. COUNTER_ARM arms a trigger in place of an unfired one. A context's ring may do neither to a
counter that the context does not own. -/
def Obligations.CountersAreSet : Prop :=
  ∀ (tid : Nat) (c : Cmd) (s : State),
    let x := counterOf s.nd (cntTarget c)
    let own := CanStart s.nd tid 0x40 c ∧ WellCommanded s.nd c ∧ cmdCtx c ≠ 0 ∧ counterSetReserved c = false
    let arm := CanStart s.nd tid 0x41 c ∧ WellCommanded s.nd c ∧ cmdCtx c ≠ 0 ∧ armInvalid c = false
    let others := fun (m : Node) => ∀ j, j ≠ cntTarget c → counterOf m j = counterOf s.nd j
    (own → Quiet s.nd → s.nd.ctr.waits = [] → (x.trig = none ∨ bitOf (dword c 3) 18 = true) → (c.ring = 0 ∨ setsOwner c = false) →
      (c.ring = 0 ∨ x.owner = cmdCtx c) → Moves (.counterSet tid) s fun m =>
        let owner := if setsOwner c then fieldOf (dword c 3) 47 32 else x.owner
        counterOf m (cntTarget c) = ⟨(dword c 4).toNat, false, bitOf (dword c 3) 16, owner, none⟩ ∧
        others m ∧ HasEnded m tid stOK (wordOf x.value) 0 ∧ m.mem = s.nd.mem ∧ m.prs = s.nd.prs) ∧
    (own → c.ring ≠ 0 → (setsOwner c = true ∨ x.owner ≠ cmdCtx c) → Moves (.counterSet tid) s fun m =>
      HasEnded m tid stDenied 0 0 ∧ m.ctr = s.nd.ctr) ∧
    (arm → Quiet s.nd → x.owner = cmdCtx c → (x.err = true ∨ x.value < (dword c 4).toNat) → Moves (.counterArm tid) s fun m =>
      counterOf m (cntTarget c) = { x with trig := some (armTrigger c s.nd.ctr.armings) } ∧ others m ∧
      HasEnded m tid stOK (wordOf x.value) 0 ∧ m.prs = s.nd.prs) ∧
    (arm → x.owner ≠ cmdCtx c → Moves (.counterArm tid) s fun m => HasEnded m tid stDenied 0 0 ∧ m.ctr = s.nd.ctr)

/-- R62–R70: the KEY_LOAD commands, where neither the Unsealed latch nor a missing owner key stands in the way. CTX_KEY opens a context
with an empty admission set and an empty range table, under the key that R66 derives, and answers its check value; repeated, it changes
no key. CTX_CLEAR frees the slot. SHARE_KEY and SHARE_CLEAR fill and empty a share slot. ADMIT and EXPEL change membership of exactly
their span of nodes. With the latch set, they are refused with UNSEALED. -/
def Obligations.KeysLoad : Prop :=
  ∀ (tid : Nat) (c : Cmd) (s : State), CanStart s.nd tid 0x13 c → rangeTurn s.nd c = true → WellCommanded s.nd c →
    keyReserved c = false → s.hl.sec.storageKey ≠ [] → s.hl.sec.cleared = false →
    let ctx := cmdCtx c
    let open_ := s.hl.sec.unsealed = false
    let master := s.hl.sec.storageKey
    (open_ → keyKop c = 1 → slotOf s.nd ctx = none → ctx ≠ 0 → keepersBad (keyKeepers c) = false → s.nd.ctxs.slots.length < 4096 →
      Moves (.keyLoadCtxKey tid) s fun m => ∃ x, slotOf m ctx = some x ∧
        x.key = { gen := keyGen c, salt := keySalt c, ident := ctx, keys := contextKey master ctx (keyGen c) (keySalt c) } ∧
        x.admits = 0 ∧ x.ranges = [] ∧ x.nextGen = 1 ∧ ringOf m ctx = Ring.reset ∧
        HasEnded m tid stOK (keyCheck x.key.keys) 0 ∧ (s.nd.power.state = 2 → m.power.state = 3) ∧ m.mem = s.nd.mem) ∧
    (∀ x, open_ → keyKop c = 1 → slotOf s.nd ctx = some x → ctx ≠ 0 → keepersBad (keyKeepers c) = false → sameCtxKey x c = true →
      Moves (.keyLoadCtxKey tid) s fun m =>
        slotOf m ctx = some { x with keepers := if (keyKeepers c).getD 0 0 = 0 then x.keepers else keyKeepers c } ∧
        HasEnded m tid stOK (keyCheck x.key.keys) 0 ∧ m.mem = s.nd.mem ∧ m.rings = s.nd.rings) ∧
    (∀ x, open_ → keyKop c = 2 → slotOf s.nd ctx = some x → ctx ≠ 0 → x.ranges = [] → ringEnabled (ringOf s.nd ctx) = false →
      (ringOf s.nd ctx).inflight = 0 → Moves (.keyLoadCtxClear tid) s fun m =>
        slotOf m ctx = none ∧ Tbl.find? m.rings ctx = none ∧ (∀ v ∈ m.ctxs.revs, v.ctx ≠ ctx) ∧ HasEnded m tid stOK 0 0) ∧
    (open_ → keyKop c = 2 → slotOf s.nd ctx = none → ctx ≠ 0 → Moves (.keyLoadCtxClear tid) s fun m =>
      HasEnded m tid stOK 0 0 ∧ m.ctxs = s.nd.ctxs ∧ m.rings = s.nd.rings) ∧
    (open_ → keyKop c = 3 → ctx = 0 → Tbl.find? s.nd.ctxs.shares (keySlotNo c) = none → Moves (.keyLoadShareKey tid) s fun m =>
      let keys := shareKey master (keyShareId c) (keyGen c) (keySalt c)
      Tbl.find? m.ctxs.shares (keySlotNo c) = some { gen := keyGen c, salt := keySalt c, ident := keyShareId c, keys := keys } ∧
      HasEnded m tid stOK (keyCheck keys) 0 ∧ m.ctxs.slots = s.nd.ctxs.slots) ∧
    (open_ → keyKop c = 4 → ctx = 0 → shareUsed s.nd (keySlotNo c) = false → Moves (.keyLoadShareClear tid) s fun m =>
      Tbl.find? m.ctxs.shares (keySlotNo c) = none ∧ HasEnded m tid stOK 0 0 ∧ m.ctxs.slots = s.nd.ctxs.slots) ∧
    (open_ → keyKop c = 5 → spanBad s.nd c = false → Moves (.keyLoadAdmit tid) s fun m =>
      (∀ node, isAdmitted m ctx node = (isAdmitted s.nd ctx node || decide (keyFirst c ≤ node ∧ node ≤ keyLast c))) ∧
      (∀ k, k ≠ ctx → slotOf m k = slotOf s.nd k) ∧ HasEnded m tid stOK 0 0) ∧
    (open_ → keyKop c = 6 → spanBad s.nd c = false → Moves (.keyLoadExpel tid) s fun m =>
      (∀ node, isAdmitted m ctx node = (isAdmitted s.nd ctx node && !decide (keyFirst c ≤ node ∧ node ≤ keyLast c))) ∧
      (∀ k, k ≠ ctx → slotOf m k = slotOf s.nd k) ∧ HasEnded m tid stOK 0 0) ∧
    (s.hl.sec.unsealed = true → keyKop c = 5 → spanBad s.nd c = false → Moves (.keyLoadAdmit tid) s fun m =>
      HasEnded m tid stUnsealed 0 0 ∧ m.ctxs = s.nd.ctxs)

/-- R72–R79, R432–R434: RANGE_SET puts its range into the context's table under the next GEN, which it answers; a REPLACE changes what R74
lists. RANGE_CLEAR takes the ranges inside its span out, answers their number and leaves their storage reading zeros. RANGE_INVAL drops the
span's cached translations, and with nothing to wait for ends at once. REVOKE enters a revocation of its extent, and ends when nothing of
the extent is held and nothing runs on it. With REINSTATE 1 the revocations inside the span go, and one that lies partly inside refuses the
command. -/
def Obligations.RangesAndRevocations : Prop :=
  (∀ (tid : Nat) (c : Cmd) (x : CtxSlot) (s : State), WellCommanded s.nd c → rangeTurn s.nd c = true → cmdCtx c ≠ 0 →
      slotOf s.nd (cmdCtx c) = some x → s.nd.ctxs.freeing = [] → Quiet s.nd → s.nd.mem.blocks = [] →
      let ctx := cmdCtx c
      let new := rangeOfWords (setWords c) 0
      (CanStart s.nd tid 0x10 c → rangeReserved (setWords c) (fieldOf (dword c 6) 62 28) = false →
        setInvalid s.nd ctx new (setReplaces c) = false → setShort s.nd ctx new (setReplaces c) = false → setReplaces c = false →
        new.resClass ≠ 3 → Moves (.rangeSet tid) s fun m =>
          slotOf m ctx = some { x with ranges := Tbl.put x.ranges new.start { new with gen := x.nextGen }, nextGen := stepGen x.nextGen } ∧
          HasEnded m tid stOK (wordOf x.nextGen) 0 ∧ m.mem = s.nd.mem ∧ m.rings = s.nd.rings) ∧
      (∀ old, CanStart s.nd tid 0x10 c → rangeReserved (setWords c) (fieldOf (dword c 6) 62 28) = false →
        setInvalid s.nd ctx new (setReplaces c) = false → setReplaces c = true → rangeOf s.nd ctx new.start = some old →
        Moves (.rangeSet tid) s fun m =>
          let ranges := Tbl.put x.ranges (replaceIn old new).start { replaceIn old new with gen := x.nextGen }
          slotOf m ctx = some { x with ranges := ranges, nextGen := stepGen x.nextGen } ∧
          HasEnded m tid stOK (wordOf x.nextGen) 0 ∧ m.mem = s.nd.mem) ∧
      (CanStart s.nd tid 0x10 c → rangeReserved (setWords c) (fieldOf (dword c 6) 62 28) = true → Moves (.rangeSet tid) s fun m =>
        HasEnded m tid stInvalid 0 0 ∧ m.ctxs = s.nd.ctxs) ∧
      (CanStart s.nd tid 0x11 c → spanReserved c = false → tid ≠ 0 → s.nd.coh = Coherence.reset → s.nd.mem.nvme = [] → s.nd.prog.runs = [] →
        ((rangesOf s.nd ctx).any fun r => meetsSpan c r && !whollyIn c r) = false →
        ∀ r, (rangesOf s.nd ctx).filter (whollyIn c) = [r] → r.departed = false → rangeHeld s.nd ctx r = false → r.resClass = 0 →
        Moves (.rangeClear tid) s fun m =>
          slotOf m ctx = some { x with ranges := x.ranges.filter fun e => !whollyIn c e.2 } ∧ HasEnded m tid stOK 1 0 ∧
          (∀ a, r.localOff ≤ a → a < localEnd r → memGet 0 m.mem.stack a = 0) ∧
          (∀ a, a < r.localOff ∨ localEnd r ≤ a → memGet 0 m.mem.stack a = memGet 0 s.nd.mem.stack a) ∧ m.ctxs.freeing = []) ∧
      (CanStart s.nd tid 0x11 c → spanReserved c = false → (∀ r ∈ rangesOf s.nd ctx, meetsSpan c r = false ∧ whollyIn c r = false) →
        Moves (.rangeClear tid) s fun m => HasEnded m tid stOK 0 0 ∧ slotOf m ctx = some x ∧ m.mem = s.nd.mem) ∧
      (CanStart s.nd tid 0x12 c → spanReserved c = false → Moves (.rangeInval tid) s fun m =>
        HasEnded m tid stOK 0 0 ∧ m.ctxs.slots = s.nd.ctxs.slots ∧ m.mem = s.nd.mem ∧
        (∀ e ∈ m.ctxs.xlate, ∀ y ∈ e.2, y.slotNo = x.slotNo → spanAll c = false → meetsSpan c y.range = false))) ∧
  (∀ (tid : Nat) (c : Cmd) (s : State), CanStart s.nd tid 0x18 c → WellCommanded s.nd c → rangeTurn s.nd c = true → cmdCtx c ≠ 0 →
      revokeReserved c = false → s.nd.ctxs.freeing = [] →
      let v : Revocation := { ctx := cmdCtx c, start := spanStart c, gran := fieldOf (dword c 4) 31 0 }
      (revokeUndoes c = false → s.nd.ctxs.revs.any (revCovers c) = false → s.nd.ctxs.revs.length < 1024 → s.nd.coh = Coherence.reset →
        s.nd.trk.reqs = [] → s.nd.ml.outs = [] → (∀ e ∈ s.nd.trk.cmds, e.2.phase ≠ .running) → awaitsFor s.nd tid = false →
        Moves (.revoke tid) s fun m => m.ctxs = { s.nd.ctxs with revs := s.nd.ctxs.revs ++ [v] } ∧ HasEnded m tid stOK 0 0 ∧
          (∀ g, spanStart c ≤ g → g < spanStart c + spanSize c → spanRevoked m (cmdCtx c) g 1 = true)) ∧
      (revokeUndoes c = false → s.nd.ctxs.revs.any (revCovers c) = false → 1024 ≤ s.nd.ctxs.revs.length →
        Moves (.revoke tid) s fun m => HasEnded m tid stNoResource 0 0 ∧ m.ctxs = s.nd.ctxs) ∧
      (revokeUndoes c = true → (s.nd.ctxs.revs.any fun v => revMeets c v && !revInside c v) = false →
        Moves (.revokeReinstate tid) s fun m =>
          m.ctxs = { s.nd.ctxs with revs := s.nd.ctxs.revs.filter fun v => !revInside c v } ∧ HasEnded m tid stOK 0 0) ∧
      (revokeUndoes c = true → (s.nd.ctxs.revs.any fun v => revMeets c v && !revInside c v) = true →
        Moves (.revokeReinstate tid) s fun m => m.ctxs = s.nd.ctxs ∧ HasEnded m tid stInvalid 0 0))

/-! ### Element programs (R166, R251, R258–R263, R273–R281) -/

/-- R259, R260, R262, R280, R287: PROGRAM_LOAD puts the micro-ops it reads into its slot under the slot's next PGEN, unless one of them
breaks the encoding rules; with UNLOAD the slot is free and PGEN stays. PROGRAM_RUN with COUNT 0 ends at once; another one whose
parameter block and streams pass the checks is admitted with the code its slot holds. A firing that waited starts a run in a tracker of
its own. -/
def Obligations.ProgramsLoadAndRun : Prop :=
  ∀ (tid : Nat) (c : Cmd) (a : Node) (s : State),
    let k := fieldOf (dword c 3) 9 0
    let ops := fieldOf (dword c 3) 21 16
    let pva := (dword c 4).toNat
    let ctx := cmdCtx c
    let code := (List.range ops).map fun i => numAt (spanBytes a ctx pva (4 * ops)) (4 * i) 4
    let load := CanStart s.nd tid 0x38 c ∧ WellCommanded s.nd c ∧ bitOf (dword c 3) 24 = false ∧ loadReserved c = false ∧
      1 ≤ ops ∧ ops ≤ 32 ∧ pva % 64 = 0 ∧ spanHomed s.nd ctx pva (4 * ops) = true ∧ slotForeign s.nd c = false ∧
      spanGranted s.nd ctx pva (4 * ops) (·.r) = true ∧ engineReadPrep s.nd ctx pva (4 * ops) = (a, .ready) ∧
      spanPoisoned a ctx pva (4 * ops) = false
    let run := CanStart s.nd tid 0x39 c ∧ WellCommanded s.nd c ∧ runReserved c = false ∧ (progSlot s.nd k).owner = ctx ∧
      (progSlot s.nd k).pgen = fieldOf (dword c 3) 63 32
    let count := fieldOf (dword c 5) 39 0
    let q := paramsOf (bytesToWords 24 (spanBytes a ctx pva 192))
    (load → codeOk code = true → cmdOf a tid = some c → Moves (.programLoad tid) s fun m =>
      let g := stepGen (progSlot a k).pgen
      progSlot m k = { owner := ctx, pgen := g, code := code } ∧ HasEnded m tid stOK (wordOf g) 0 ∧
      (∀ j, j ≠ k → progSlot m j = progSlot a j) ∧ m.mem = a.mem) ∧
    (load → codeOk code = false → cmdOf a tid = some c → Moves (.programLoad tid) s fun m =>
      m.prog = a.prog ∧ HasEnded m tid stInvalid 0 0) ∧
    (CanStart s.nd tid 0x38 c → WellCommanded s.nd c → bitOf (dword c 3) 24 = true → loadReserved c = false → ops = 0 → dword c 4 = 0 →
      slotForeign s.nd c = false → Moves (.programUnload tid) s fun m =>
        progSlot m k = { owner := 0, pgen := (progSlot s.nd k).pgen, code := [] } ∧
        HasEnded m tid stOK (wordOf (progSlot s.nd k).pgen) 0 ∧ (∀ j, j ≠ k → progSlot m j = progSlot s.nd j) ∧ m.mem = s.nd.mem) ∧
    (run → count = 0 → Moves (.programRun tid) s fun m => HasEnded m tid stOK 0 0 ∧ m.prog = s.nd.prog ∧ m.mem = s.nd.mem) ∧
    (run → 0 < count → spanHomed s.nd ctx pva 192 = true → s.nd.prog.runs.length < 256 →
      engineReadPrep s.nd ctx pva 192 = (a, .ready) → spanGranted s.nd ctx pva 192 (·.r) = true → q.reserved = false →
      spanPoisoned a ctx pva 192 = false →
      firstStatus (runChecks s.nd ctx count q ((progSlot s.nd k).code.map microOp)) = none → cmdOf a tid = some c →
      Moves (.programRun tid) s fun m => ∃ r, Tbl.find? m.prog.runs tid = some r ∧ r.code = (progSlot s.nd k).code ∧
        r.streams = q.streams ∧ r.consts = q.consts ∧ r.seed = q.seed ∧ r.count = count ∧ r.redEn = q.redEn ∧ r.redPva = q.redPva ∧
        r.epoch = fieldOf (dword c 5) 63 48 ∧ r.done = [] ∧ r.aborted = false ∧
        (cmdOf m tid).map (·.phase) = some .running ∧ m.mem = a.mem) ∧
    (∀ f, s.nd.prog.firings.find? (fun g => g.arming == f.arming) = some f → accepting s.nd = true → armingBusy s.nd f.arming = false →
      s.nd.prog.runs.length < 256 → runReadable s.nd f = true → engineReadPrep s.nd f.ctx f.runPva 64 = (a, .ready) →
      spanPoisoned a f.ctx f.runPva 64 = false →
      let desc := bytesToWords 8 (spanBytes a f.ctx f.runPva 64)
      fieldOf (wordAt desc 0) 7 0 ≠ 0x39 → a.prog.firings = s.nd.prog.firings → Moves (.programFiringResume f.arming) s fun m =>
        (∃ d, cmdOf m a.trk.nextTid = some d ∧ d.fired = true ∧ d.desc = desc ∧ d.phase = .ended ∧ d.status = stInvalid) ∧
        m.prog.firings = s.nd.prog.firings.erase f ∧ m.prog.runs = a.prog.runs) ∧
    (∀ f, s.nd.prog.firings = [f] → accepting s.nd = true → armingBusy s.nd f.arming = false → s.nd.prog.runs.length < 256 →
      runReadable s.nd f = true → engineReadPrep s.nd f.ctx f.runPva 64 = (a, .ready) → spanPoisoned a f.ctx f.runPva 64 = false →
      a.prog.firings = [f] →
      let desc := bytesToWords 8 (spanBytes a f.ctx f.runPva 64)
      fieldOf (wordAt desc 0) 7 0 = 0x39 → fieldOf (wordAt desc 5) 39 0 = 0 → c.desc = desc → c.fired = true → c.ring = f.ctx →
      WellCommanded a c → runReserved c = false →
      (progSlot a k).owner = ctx → (progSlot a k).pgen = fieldOf (dword c 3) 63 32 → ctx ≠ 0 →
      Moves (.programFiringResume f.arming) s fun m => HasEnded m a.trk.nextTid stOK 0 0 ∧ m.prog.firings = [])

/-- R273, R276, R283, R284: a block whose lines are at hand runs on its tile and is then done; one that would read a poisoned line ends
without storing. When every block has run and every forward is answered, the run leaves its slot and its command ends: OK with A0 and A1,
or POISONED, or, aborted, INTERNAL or PARTIAL with the bytes stored. -/
def Obligations.BlocksRun : Prop :=
  ∀ (tid blk : Nat) (run : ProgRun) (s : State), Tbl.find? s.nd.prog.runs tid = some run →
    let j := joinTile s.nd tid run (blockTile s.nd run blk)
    let others := fun (m n : Node) => ∀ t, t ≠ tid → Tbl.find? m.prog.runs t = Tbl.find? n.prog.runs t
    (∀ g, blockDue s.nd run blk = true → prepBlock j.1 j.2 blk = (g, .ready) → blockPoisoned g j.2 blk = false →
      Moves (.programBlock tid blk) s fun m =>
        (∃ r, Tbl.find? m.prog.runs tid = some r ∧ r.done = run.done ++ [blk] ∧ r.code = run.code ∧ r.count = run.count ∧
          r.aborted = false ∧ r.poisoned = run.poisoned ∧
          r.bytes = run.bytes + (blockOuts g j.2 blk).1.1.length + (blockOuts g j.2 blk).2.1.length) ∧ m = commitBlock g tid j.2 blk) ∧
    (∀ g, blockDue s.nd run blk = true → prepBlock j.1 j.2 blk = (g, .ready) → blockPoisoned g j.2 blk = true →
      Moves (.programBlock tid blk) s fun m =>
        (∃ r, Tbl.find? m.prog.runs tid = some r ∧ r.done = run.done ++ [blk] ∧ r.poisoned = true) ∧ others m g ∧ m.mem = g.mem) ∧
    (blockDue s.nd run blk = false → Moves (.programBlock tid blk) s fun m => m = s.nd) ∧
    (∀ c, cmdOf s.nd tid = some c → accepting s.nd = true → run.fwds = [] → run.redEn = false → run.redDone = false →
      (s.nd.coh.mdirty.any fun x => x.2.cmds.contains tid) = false →
      (run.aborted = true ∨ run.done.length = runBlocks run) → Moves (.programRunComplete tid) s fun m =>
        Tbl.find? m.prog.runs tid = none ∧ others m s.nd ∧ m.mem = s.nd.mem ∧
        HasEnded m tid
          (if run.aborted then (if run.bytes = 0 then stInternal else stPartial) else if run.poisoned then stPoisoned else stOK)
          (if run.aborted || run.poisoned then wordOf run.bytes
           else wordOf ((runAccs s.nd run).getD 0 0 + (runAccs s.nd run).getD 1 0 * 2 ^ 32))
          (wordOf (countsWord run.ovf run.nans)))

/-! ### Solstice (R377, R383–R395) -/

/-- R384–R395: the Solstice commands and what parts do of themselves. OPEN whose lists are read makes its part, at a mirror ended at
once; ANNOUNCE records or raises a cut and answers how many parts it reached; a query answers the states, or waits for OPEN parts; a part
whose conditions hold seals, a lost source is pruned once its requests have ended, a drain refused at its target stops, a stale
record is written, and RESTORE and DROP take the parts of their cohort. A restored chunk goes back to stack memory, and its
copy-on-write space is free. -/
def Obligations.CohortsRun : Prop :=
  ∀ (tid k : Nat) (c : Cmd) (p : Part) (s : State),
    let ctx := cmdCtx c
    let ps := partsOf s.nd ctx (cohortWord c)
    let partIs := fun (m : Node) (q : Part) => Tbl.find? m.sol.parts k = some q
    (∀ (a b d : Node) (r : Range), CanStart s.nd tid 0x20 c → WellCommanded s.nd c → openReserved c = false → crecRange s.nd c = some r →
      spanReadable s.nd ctx (openSpanPva c) (32 * openSpans c) = true → spanReadable s.nd ctx (openSrcPva c) (2 * openSources c) = true →
      engineReadPrep s.nd ctx (openSpanPva c) (32 * openSpans c) = (a, .ready) →
      engineReadPrep a ctx (openSrcPva c) (2 * openSources c) = (b, .ready) → engineReadPrep b ctx (openCrec c) 64 = (d, .ready) →
      spanPoisoned d ctx (openSpanPva c) (32 * openSpans c) = false → spanPoisoned d ctx (openSrcPva c) (2 * openSources c) = false →
      spanPoisoned d ctx (openCrec c) 64 = false → WellCommanded d c → cmdOf d tid = some c →
      let raw := spanEntries (openSpans c) (spanBytes d ctx (openSpanPva c) (32 * openSpans c))
      let src := spanBytes d ctx (openSrcPva c) (2 * openSources c)
      let srcs := ((List.range (openSources c)).map fun i => leNat ((src.drop (2 * i)).take 2)).eraseDups
      let q := newPart d tid c r (raw.map spanEntry) srcs
      raw.any entryBad = false → openInvalid d q (spanBytes d ctx (openCrec c) 64) = false → openShort d q = false →
      let made : Solstice := { parts := Tbl.put d.sol.parts d.sol.nextPart q, nextPart := d.sol.nextPart + 1 }
      (r.mirrorRole = true → Moves (.solsticeOpen tid) s fun m => m.sol = made ∧ HasEnded m tid stOK 0 0 ∧ m.mem = d.mem) ∧
      (r.mirrorRole = false → Moves (.solsticeOpen tid) s fun m => m = settle (runStage { d with sol := made } tid 1 []))) ∧
    (CanStart s.nd tid 0x20 c → openReserved c = true → Moves (.solsticeOpen tid) s fun m =>
      HasEnded m tid stInvalid 0 0 ∧ m.sol = s.nd.sol) ∧
    (CanStart s.nd tid 0x21 c → WellCommanded s.nd c → annReserved c = false → (c.ring = 0 ∨ annSource c = c.writer) →
      (s.nd.sol.parts.map Prod.fst).Nodup → partIs s.nd p → Moves (.solsticeAnnounce tid) s fun m =>
        let cut := if annAuto c then reqPoint s.nd (annSource c) else (dword c 4).toNat
        partIs m (if annApplies c p then { p with srcs := p.srcs.map (raiseCut (annSource c) cut), recordStale := true } else p) ∧
        HasEnded m tid stOK (wordOf (s.nd.sol.parts.filter fun e => annApplies c e.2).length) 0 ∧ m.mem = s.nd.mem) ∧
    (CanStart s.nd tid 0x22 c → WellCommanded s.nd c → cohortReserved c 17 = false → ps ≠ [] → ps.length < 256 →
      (bitOf (dword c 3) 16 = false ∨ ∀ e ∈ ps, e.2.state ≠ 1) → Moves (.solsticeSealQuery tid) s fun m =>
        HasEnded m tid (((ps.find? fun e => e.2.state == 4).map fun e => e.2.status).getD stOK)
          (wordOf (leastState ps + ps.length * 2 ^ 8 + sumOver ps (fun _ p => awaitCount p) 0xFFFF * 2 ^ 16 +
            sumOver ps (fun k _ => splitCount s.nd k) (2 ^ 32 - 1) * 2 ^ 32))
          (wordOf (sumOver ps (fun _ p => p.drained.length) (2 ^ 32 - 1) +
            sumOver ps (fun _ p => (drainChunks p).length) (2 ^ 32 - 1) * 2 ^ 32)) ∧ m.sol = s.nd.sol) ∧
    (CanStart s.nd tid 0x22 c → WellCommanded s.nd c → cohortReserved c 17 = false → bitOf (dword c 3) 16 = true →
      (∃ e ∈ ps, e.2.state = 1) → Moves (.solsticeSealQuery tid) s fun m => (cmdOf m tid).map (·.phase) = some .running ∧ m.sol = s.nd.sol) ∧
    (partIs s.nd p → accepting s.nd = true → sealReady s.nd p = true →
      Moves (.partSeal k) s fun m => m = settle (setPart s.nd k { p with state := 2, recordDue := true })) ∧
    (partIs s.nd p → sealReady s.nd p = false → Moves (.partSeal k) s fun m => m = s.nd) ∧
    (∀ src : NodeId, partIs s.nd p → accepting s.nd = true → classifies p = true →
      (p.srcs.any fun x => x.node == src.toNat && x.lost && !x.pruned) = true →
      (¬(∃ e ∈ s.nd.trk.reqs, e.2.pkt.src = src ∧ e.2.pkt.dst.toNat = s.nd.nodeId) → Moves (.sourcePrune k src) s fun m =>
        m = settle (setPart s.nd k { p with srcs := p.srcs.map (pruneSource src.toNat (reqPoint s.nd src.toNat)), recordStale := true })) ∧
      ((∃ e ∈ s.nd.trk.reqs, e.2.pkt.src = src ∧ e.2.pkt.dst.toNat = s.nd.nodeId) → Moves (.sourcePrune k src) s fun m => m = s.nd)) ∧
    (∀ chunk pva, partIs s.nd p → accepting s.nd = true → writesRecord p = true → p.state = 2 → p.drainStopped = false →
      p.drained.contains chunk = false → p.draining.contains chunk = false →
      (p.chunks.find? fun x => x.1 == chunk).bind (drainTo p) = some pva →
      ((spanGranted s.nd p.ctx pva 65536 fun r => r.resClass == 2 && r.w) = false → Moves (.drainChunk k chunk) s fun m =>
        m = settle (stopDrain s.nd k p)) ∧
      ((spanGranted s.nd p.ctx pva 65536 fun r => r.resClass == 2 && r.w) = true → Moves (.drainChunk k chunk) s fun m =>
        m = settle (drainInto s.nd k p chunk pva))) ∧
    (partIs s.nd p → accepting s.nd = true → (p.recordStale = true ∨ p.recordDue = true) → Moves (.cohortRecordWrite k) s fun m =>
      m = settle (writeRecord s.nd k)) ∧
    (∀ f, partIs s.nd p → writesRecord p = true → engineStorePrep s.nd p.ctx p.crec 64 .own = (f, .ready) → partIs f p →
      (cohortRecord f k p ((p.rgen + 1) % 2 ^ 32)).length = 64 ∧
      ∃ q, Tbl.find? (writeRecord s.nd k).sol.parts k = some q ∧ q.rgen = (p.rgen + 1) % 2 ^ 32 ∧ q.recordDue = false ∧ q.recordStale = false) ∧
    (CanStart s.nd tid 0x23 c → WellCommanded s.nd c → cohortReserved c 16 = false → ps = [(k, p)] → (p.state = 2 ∨ p.state = 3) →
      p.restoring = none →
      let n := runStage (setPart s.nd k { p with restoring := some tid, drainStopped := true }) tid 2 []
      ∀ c', cmdOf n tid = some c' → Moves (.solsticeRestore tid) s fun m => m = settle (goOnRestore n tid c')) ∧
    (CanStart s.nd tid 0x23 c → WellCommanded s.nd c → ps = [] → Moves (.solsticeRestore tid) s fun m =>
      HasEnded m tid stInvalid 0 0 ∧ m.sol = s.nd.sol ∧ m.mem = s.nd.mem) ∧
    (∀ (w : CowChunk), Tbl.find? s.nd.mem.cow k = some w → w.restored = true → accepting s.nd = true → spanOf s.nd (k * 1024) = none →
      Moves (.restoreCopyBack k) s fun m => m = freeRestored s.nd k ∧ Tbl.find? m.mem.cow k = none) ∧
    (∀ (w : CowChunk) (x : Nat) (r : Range), Tbl.find? s.nd.mem.cow k = some w → w.restored = true → accepting s.nd = true →
      spanOf s.nd (k * 1024) = some (x, r) → (r.resClass = 0 ∨ r.resClass = 3) → Moves (.restoreCopyBack k) s fun m =>
        m = settle (freeRestored (copyBackStack s.nd k w) k) ∧
        memRead 0 (copyBackStack s.nd k w).mem.stack (k * 65536) 65536 = memRead 0 w.bytes 0 65536) ∧
    (CanStart s.nd tid 0x24 c → WellCommanded s.nd c → cohortReserved c 16 = false → ps = [(k, p)] → p.state ≠ 5 → p.mirror = true →
      p.opener = none → p.restoring = none → Moves (.solsticeDrop tid) s fun m =>
        m = settle (runStage (freeParts s.nd [k]) tid 1 []) ∧ (∀ e ∈ (freeParts s.nd [k]).sol.parts, e.1 ≠ k)) ∧
    (CanStart s.nd tid 0x24 c → WellCommanded s.nd c → ps = [] → Moves (.solsticeDrop tid) s fun m =>
      HasEnded m tid stInvalid 0 0 ∧ m.sol = s.nd.sol ∧ m.mem = s.nd.mem)

/-! ### Leap (R422–R431) -/

/-- R423–R431: a Leap that passes its checks opens at its target; one that does not ends with INVALID. An abort stops it, or waits while
a proposal is unanswered. The target takes an extent up, or refuses it, and enters revocations that are passed to it; READY starts the
copy, and a mirror takes forwards of a second node. With its last chunk copied a Leap without a mirror closes its extent, and a closed
extent on which nothing runs is proposed to the keepers. A map keeper's order is a LEAP_START of its own, and a reclaim of storage that no
range uses is answered at once. What passes only between modules is discarded and logged from another node. The layouts of LEAP_OPEN,
READY and LEAP_PEER are the model's. -/
def Obligations.LeapsMove : Prop :=
  ∀ (tid k : Nat) (c : Cmd) (l : LeapOut) (p : Packet) (a : Node) (s : State),
    let asked := { leapAsked (cmdCtx c) (c.desc.drop 3) with tid := tid }
    let badStart := cmdCtx c == 0 || leapReserved (c.desc.drop 3) false
    let badAbort := pvaBad (dword c 3) || dword c 5 != 0 || dword c 6 != 0 || dword c 7 != 0
    let came := fun (op : Nat) => mgtServed s.nd = true ∧ p.cls = 5 ∧ p.opcode.toNat = op ∧ Arrives s.nd p a
    let module := isModule a p.src.toNat
    (CanStart s.nd tid 0x28 c → WellCommanded s.nd c → badStart = false → mapAbsent s.nd (cmdCtx c) = false →
      (leapInvalid s.nd asked = true → Moves (.leapStart tid) s fun m => HasEnded m tid stInvalid 0 0 ∧ m.ml = s.nd.ml) ∧
      (leapInvalid s.nd asked = false → 16 ≤ s.nd.ml.outs.length → Moves (.leapStart tid) s fun m =>
        HasEnded m tid stNoResource 0 0 ∧ m.ml = s.nd.ml) ∧
      (leapInvalid s.nd asked = false → s.nd.ml.outs.length < 16 → isLocalLeap s.nd asked = false → isLost s.nd asked.target = false →
        Moves (.leapStart tid) s fun m =>
          m = sendLeapOpen (addLeap (runStage s.nd tid 1 []) asked) asked true (.leap s.nd.ml.nextLeap) ∧
          leapOf m s.nd.ml.nextLeap = some asked ∧ m.ml.nextLeap = s.nd.ml.nextLeap + 1 ∧
          (cmdOf m tid).map (·.phase) = some .running ∧ m.mem = s.nd.mem)) ∧
    (CanStart s.nd tid 0x29 c → WellCommanded s.nd c → leapNamed s.nd c = some (k, l) → l.abort = none → badAbort = false →
      let n := setLeap (runStage s.nd tid 1 []) k { l with abort := some tid }
      (l.step = 7 → Moves (.leapAbort tid) s fun m => m = n) ∧ (l.step ≠ 7 → Moves (.leapAbort tid) s fun m => m = endLeap n k stAborted)) ∧
    (CanStart s.nd tid 0x29 c → leapNamed s.nd c = none → Moves (.leapAbort tid) s fun m =>
      HasEnded m tid stInvalid 0 0 ∧ m.ml = s.nd.ml) ∧
    (came 0xB0 → module = true →
      let ws := mgtWords p 6
      let ctx := fieldOf (wordAt ws 5) 15 0
      let seek := fieldOf (wordAt ws 2) 15 0 == 0
      let q := { leapAsked ctx (ws.take 5) with order := some (p.src.toNat, p.seq.toNat, p.tag.toNat) }
      48 ≤ (payloadOf p).length → ctx ≠ 0 → fieldOf (wordAt ws 5) 63 16 = 0 → leapReserved (ws.take 5) true = false →
      (seek = true → q.asMirror = true) → mapAbsent a ctx = false →
      (ctxActive a ctx = false → Moves (.leapOrder p) s fun m => m = mapResult a p stDenied 0) ∧
      (ctxActive a ctx = true → leapInvalid a q = true → Moves (.leapOrder p) s fun m => m = mapResult a p stInvalid (curGen a ctx)) ∧
      (ctxActive a ctx = true → leapInvalid a q = false → a.ml.outs.length < 16 → Moves (.leapOrder p) s fun m => m = beginLeap a q seek)) ∧
    (came 0xB5 → module = true → ∀ (b : Node) (bs : Bytes), takeTrain a p = (b, some bs) →
      let o := openAsk bs
      (o.chunks = 0 → (addRevs b o.revs).ctxs.revs.length ≤ 1024 → Moves (.leapOpen p) s fun m =>
        m = leapReply (addRevs b o.revs) p stOK ∧ ∀ v ∈ o.revs, v ∈ m.ctxs.revs) ∧
      (∀ st, 0 < o.chunks → o.ranges ≠ [] → openRefusal b p.src.toNat o = some st → Moves (.leapOpen p) s fun m =>
        m = leapReply b p st) ∧
      (∀ rs, 0 < o.chunks → o.ranges ≠ [] → openRefusal b p.src.toNat o = none →
        leapSpans b (arrivingRanges o p.src.toNat) o.tclass o.tcomp = some rs → Moves (.leapOpen p) s fun m =>
          m = leapReply (acceptOpen b p.src.toNat o rs) p stOK ∧ (∀ r ∈ rs, r.resClass ≠ 4))) ∧
    (came 0xB6 → module = true → ∀ u, sentFor a p = some u → u.purpose = .leap k → leapOf (settleSent a p) k = some l →
      let b := settleSent a p
      (l.step = 1 → p.status.toNat = stOK → l.asMirror = false → Moves (.leapReady p) s fun m =>
        m = settle (leapGo (setLeap b k { l with step := 3 }) k)) ∧
      (l.step = 1 → p.status.toNat ≠ stOK → l.order = none → Moves (.leapReady p) s fun m => m = endLeap b k p.status.toNat) ∧
      (l.step = 4 → p.status.toNat = stOK → Moves (.leapReady p) s fun m => m = settle (setLeap b k { l with step := 5 })) ∧
      (l.step = 4 → p.status.toNat ≠ stOK → Moves (.leapReady p) s fun m => m = endLeap b k stAborted)) ∧
    (came 0xB7 → module = true →
      let ws := mgtWords p 3
      let ctx := fieldOf (wordAt ws 0) 15 0
      let rs := mirrorHeld a ctx (wordAt ws 1).toNat (wordAt ws 2).toNat p.src.toNat
      (rs = [] → Moves (.leapPeer p) s fun m => m = leapReply a p stDenied) ∧
      (rs ≠ [] → Moves (.leapPeer p) s fun m => m = leapReply (setPeer2 a ctx rs (fieldOf (wordAt ws 0) 31 16)) p stOK)) ∧
    (came 0xB7 → module = false → Moves (.leapPeer p) s fun m => m = foreignMgt a p ∧ m.log.last = a.log.next ∧ m.ctxs = a.ctxs) ∧
    (∀ chunk, accepting s.nd = true → Quiet s.nd → leapOf s.nd k = some l → l.step = 3 → l.copying = some chunk → l.sentChunk = true →
      l.locals_ = [] →
      awaits s.nd (.leapChunk k chunk) = false → 0 < l.chunks → nextChunk { l with copied := l.copied ++ [chunk] } = none →
      l.asMirror = false → leapMirror s.nd l = 0 → Moves (.leapChunkCopied k chunk) s fun m =>
        leapOf m k = some { l with copied := l.copied ++ [chunk], copying := none, sentChunk := false, step := 5 } ∧
        m = { s.nd with ml := m.ml }) ∧
    (∀ lead, accepting s.nd = true → Quiet s.nd → leapOf s.nd k = some l → l.step = 5 → isLocalLeap s.nd l = false →
      isHandover s.nd l = false → s.nd.coh = Coherence.reset → leapQuiet s.nd l = true →
      leadKeeper s.nd (((slotOf s.nd l.ctx).map (·.keepers)).getD []) = some lead → Moves (.leapDrained k) s fun m =>
        leapOf m k = some { l with step := 7, switched := curGen s.nd l.ctx } ∧ m = proposeLeap s.nd k l ∧ m.mem = s.nd.mem) ∧
    (accepting s.nd = true → leapOf s.nd k = some l → l.step ≠ 5 → Moves (.leapDrained k) s fun m => m = s.nd) ∧
    (came 0xB3 →
      let ws := mgtWords p 2
      let q : Reclaim := ⟨p.src.toNat, (wordAt ws 0).toNat, fieldOf (wordAt ws 1) 31 0, p.tag.toNat, p.seq.toNat⟩
      16 ≤ (payloadOf p).length → fieldOf (wordAt ws 0) 63 48 = 0 → q.addr % 65536 = 0 → fieldOf (wordAt ws 1) 63 32 = 0 → q.gran ≠ 0 →
      a.ml.reclaims = [] → a.ml.outs = [] → reclaimLeft a q = [] → Quiet a → Moves (.reclaim p) s fun m => m = reclaimDone a q)

/-! ### Searching and keeping an index (R333–R365) -/

/-- R349–R352, R357–R361, R365: a SEARCH begins with its query block, a coordinated one only with a merge counter of its context; a
malformed one, and a malformed HARVEST, ends with INVALID. A coordinator reads its slots once MCNT shows every dispatch done, not
before, and completes with the merged counts when its result list is written. HARVEST begins under its rights; COMPACT without a second
area ends with INVALID, and so does INIT where a shard stands. INIT completes when its live line is visible. -/
def Obligations.SearchAndHarvest : Prop :=
  ∀ (tid : Nat) (c : Cmd) (a : Node) (g : ShardGeo) (l : ShardLive) (s : State),
    let ctx := cmdCtx c
    let pva := (dword c 3).toNat
    let sub := bitOf (dword c 7) 0
    let search := CanStart s.nd tid 0x30 c
    let harvest := fun hop => CanStart s.nd tid 0x33 c ∧ fieldOf (dword c 4) 1 0 = hop ∧ harvestBehind s.nd c = false
    let own := (counterOf s.nd (mergeCounter c)).owner = ctx
    let invalid := fun i => Moves i s fun m => HasEnded m tid stInvalid 0 0 ∧ m.srch = s.nd.srch ∧ m.mem = s.nd.mem
    let run (compact : Bool) : HarvestRun :=
      { geo := g, compact := compact, stage := 1, upTo := l.tail, pos := l.head, slot := 0, mainN := l.mainN, entry := l.entry, merged := 0,
        full := false, kept := [], removed := 0 }
    let init : HarvestRun :=
      { geo := initGeo c, compact := false, stage := 9, upTo := 0, pos := 0, slot := 0, mainN := fieldOf (dword c 4) 63 32, entry := 0,
        merged := 0, full := false, kept := [], removed := 0 }
    let begun := fun (r : HarvestRun) fuel => settle (harvestGo tid fuel (setHarvest
      (changeAct (runStage a tid 1 []) r.geo.ctx r.geo.hdr fun e => { e with harvest := some tid }) tid r))
    (search → sub = true → WellCommanded s.nd c → shardReserved c = false → s.nd.srch.queries.length < 1024 →
      Moves (.searchShard tid) s fun m =>
        m = settle (goOn queryGo tid 4 (startRead (setQuery (runStage s.nd tid 1 []) tid (newQuery c)) tid ctx pva 64))) ∧
    (search → sub = true → s.nd.srch.queries.length < 1024 → shardReserved c = true → invalid (.searchShard tid)) ∧
    (search → sub = true → 1024 ≤ s.nd.srch.queries.length → Moves (.searchShard tid) s fun m => m = s.nd) ∧
    (search → sub = false → WellCommanded s.nd c → coordReserved c = false → s.nd.srch.coords.length < 256 → own →
      Moves (.searchCoordinated tid) s fun m =>
        let r : Coord := { query := none, shards := [], stage := 1, shard := 0, todo := [], expected := 0, prior := 0 }
        m = settle (goOn coordGo tid 8 (startRead (setCoord (runStage s.nd tid 1 []) tid r) tid ctx pva 64))) ∧
    (search → sub = false → WellCommanded s.nd c → coordReserved c = false → s.nd.srch.coords.length < 256 → ¬ own →
      Moves (.searchCoordinated tid) s fun m => HasEnded m tid stDenied 0 0 ∧ m.srch = s.nd.srch) ∧
    (search → sub = false → coordReserved c = true → s.nd.srch.coords.length < 256 → invalid (.searchCoordinated tid)) ∧
    (∀ r, IsRunning s.nd tid 0x30 c → Tbl.find? s.nd.srch.coords tid = some r →
      let v := (counterOf s.nd (mergeCounter c)).value
      (r.stage = 8 → r.expected ≤ v → Moves (.coordinatorMerge tid) s fun m =>
        m = settle (goOn coordGo tid 8 (coordRead s.nd tid c r))) ∧
      (r.stage = 8 → v < r.expected → ioOf s.nd tid = none → Quiet s.nd → Moves (.coordinatorMerge tid) s fun m => m = s.nd) ∧
      (∀ io, r.stage = 11 → ioOf s.nd tid = some io → io.status = some stOK → Moves (.coordinatorMerge tid) s fun m =>
        m = settle (endIndexCmd (dropIo s.nd tid) tid (coordStatus r)
          (wordOf (if coordK r = 0 then slotSum r fun b => numAt b 8 8 else (mergedHits r).length))
          (wordOf (coordOk r + (r.shards.length - coordOk r) * 2 ^ 32))))) ∧
    (harvest 0 → harvestReserved c = true → Quiet s.nd → invalid (.harvestMerge tid)) ∧
    (harvest 0 → WellCommanded s.nd c → harvestReserved c = false → readHeader s.nd ctx pva = (a, .good g l) →
      (shardGrants a g (·.w) = true → Moves (.harvestMerge tid) s fun m => m = begun (run false) 8) ∧
      (shardGrants a g (·.w) = false → Moves (.harvestMerge tid) s fun m => m = settle (refuseCmd a tid stDenied))) ∧
    (harvest 1 → WellCommanded s.nd c → harvestReserved c = false → readHeader s.nd ctx pva = (a, .good g l) →
      (g.area1 = 0 → Moves (.harvestCompact tid) s fun m => m = settle (refuseCmd a tid stInvalid)) ∧
      (g.area1 ≠ 0 → shardGrants a g (·.w) = true → Moves (.harvestCompact tid) s fun m => m = begun (run true) 8)) ∧
    (harvest 2 → WellCommanded s.nd c → initReserved s.nd c = false → shardGrants s.nd (initGeo c) (·.w) = true →
      (shardSpans (initGeo c)).any (fun x => spanRevoked s.nd ctx x.1 x.2) = false → engineReadPrep s.nd ctx pva 64 = (a, .ready) →
      let there := !spanPoisoned a ctx pva 64 && lineChecks (spanBytes a ctx pva 64)
      (there = true → Moves (.harvestInit tid) s fun m => m = settle (refuseCmd a tid stInvalid)) ∧
      (there = false → Moves (.harvestInit tid) s fun m => m = begun init 4)) ∧
    (∀ r, IsRunning s.nd tid 0x33 c → fieldOf (dword c 4) 1 0 = 2 → Tbl.find? s.nd.srch.harvests tid = some r → r.stage = 11 →
      ownVisible s.nd tid r.geo.ctx = true →
      Moves (.harvestInit tid) s fun m =>
        m = settle (endHarvest s.nd tid { r with mainN := 0 } stOK))

/-- R346–R348: an INDEX_INSERT or INDEX_DELETE takes its place behind the earlier ones of its shard; without W on the shard it ends with
DENIED, malformed with INVALID, and with COUNT 0 at once and OK. A group that found the side list full looks again when positions are
freed; no other stage does. A mutation all of whose entries are published ends with their number and the last SEQ. -/
def Obligations.IndexMutates : Prop :=
  ∀ (tid : Nat) (c : Cmd) (a : Node) (g : ShardGeo) (l : ShardLive) (s : State) (ins : Bool),
    let i : Instr := if ins then .indexInsert tid else .indexDelete tid
    let op := if ins then 0x31 else 0x32
    let ctx := cmdCtx c
    let count := fieldOf (dword c 5) 16 0
    let writes := spanGranted a ctx g.hdr 128 (·.w) && spanGranted a ctx (sideBase g) (sideRoom g * entrySize g) (·.w)
    let fresh : MutRun := { geo := g, insert := ins, src := (dword c 4).toNat, count := count, done := 0, lastSeq := 0, stage := 0, group := 0, stops := false }
    (CanStart s.nd tid op c → mutReserved c ins = true → Quiet s.nd → Moves i s fun m =>
      HasEnded m tid stInvalid 0 0 ∧ m.srch = s.nd.srch ∧ m.mem = s.nd.mem) ∧
    (CanStart s.nd tid op c → WellCommanded s.nd c → mutReserved c ins = false →
      (∀ st, readHeader s.nd ctx (dword c 3).toNat = (a, .ends st) → Moves i s fun m => m = settle (refuseCmd a tid st)) ∧
      (readHeader s.nd ctx (dword c 3).toNat = (a, .good g l) →
        (writes = false → Moves i s fun m => m = settle (refuseCmd a tid stDenied)) ∧
        (writes = true → count = 0 → Moves i s fun m => m = settle (refuseCmd a tid stOK)) ∧
        (writes = true → count ≠ 0 → Moves i s fun m => m = settle (goOn mutGo tid 4 (setMut
          (changeAct (runStage a tid 1 []) ctx g.hdr fun e => { e with mutations := e.mutations ++ [tid] }) tid fresh))))) ∧
    (∀ r, IsRunning s.nd tid op c → Tbl.find? s.nd.srch.muts tid = some r → r.stage = 4 → r.stops = false → r.count ≤ r.done + r.group →
      ((actOf s.nd r.geo.ctx r.geo.hdr).bind fun e => e.mutations.head?) = some tid → ownVisible s.nd tid r.geo.ctx = true →
      Moves i s fun m => m = settle (endMut (dropIo (published s.nd r.geo) tid) tid { r with done := r.done + r.group } stOK)) ∧
    (∀ r, accepting s.nd = true → Tbl.find? s.nd.srch.muts tid = some r → Moves (.sideListRoomFreed tid) s fun m =>
      m = if r.stage = 2 ∨ r.stage = 5 then settle (goOn mutGo tid 4 s.nd) else s.nd)

/-! ### Requests at the home (R59, R113, R139–R160, R176, R229, R236, R313–R320, R625) -/

/-- R59, R83, R139–R142, R242, R414: a request that comes to its row is taken up and everything that waits moves on; a malformed one, and one
that a check above RETRY finds, is answered with that status and has no other effect; the record of a duplicate answers it, but a suspended module refuses it. Behind
an earlier request of its pair it waits, and a module that does not accept leaves it. A request of another kind than the row's leaves
everything as it is. -/
def Obligations.RequestsAreTaken : Prop :=
  ∀ (p : Packet) (s : State) (a : Node) (row : Instr × (Packet → Bool)),
    row ∈ [(.read p, homeKind 1), (.write p, homeKind 2), (.atomic p, homeKind 3), (.tileRead p, homeKind 4), (.tileWrite p, homeKind 5),
           (.tileAcc p, homeKind 6), (.wait p, homeKind 7), (.probe p, probeKind)] →
    let new := dupFate a p = .fresh ∧ pairHeld a p.dst.toNat p.src.toNat = false ∧ p.dst.toNat = a.nodeId
    let b := noteReq a p
    (row.2 p = true → Taken s.nd p a →
      (Moves row.1 s fun m => m = settle (takeRequest a p)) ∧
      (new → reqInvalid b p = true → Moves row.1 s fun m => m = settle (refuseReq b p stInvalid)) ∧
      (∀ st, new → reqInvalid b p = false → mapAhead b p = false → firstStatus (reqChecks b p) = some st →
        Moves row.1 s fun m => m = settle (refuseReq b p st)) ∧
      (∀ r, dupFate a p = .answer r → a.ml.memb.suspended = false → isRead p = false → Moves row.1 s fun m =>
        m = settle (answerEnded (dropMark a p) p (r.status.getD stOK) r.landed r.ovf r.nans r.result)) ∧
      (∀ r, dupFate a p = .answer r → a.ml.memb.suspended = true → Moves row.1 s fun m =>
        m = settle (refuseDuplicate (dropMark a p) p))) ∧
    (row.2 p = true → accepting s.nd = true → p.cls = 0 → Arrives s.nd p a → earlierDelivered a p = true → Moves row.1 s fun m =>
      m = { a with prs := { a.prs with delivered := a.prs.delivered ++ [p] } }) ∧
    (row.2 p = false ∨ accepting s.nd = false ∨ p.cls ≠ 0 → Moves row.1 s fun m => m = s.nd)

/-- R144, R146, R151, R176, R188, R210, R227–R239, R313, R314: a READ or TILE_READ of one line that is ready answers with the line's
bytes, POISONED for a poisoned one. A WRITE, ATOMIC, TILE_WRITE or TILE_ACC of one unit in one line stores what the operation makes of
the line's bytes, and no other byte, and is answered OK with what landed. A PROBE is answered OK. -/
def Obligations.MemoryOperations : Prop :=
  ∀ (p : Packet) (s : State) (b g : Node) (tid line pva : Nat) (q : Req) (u : CommitUnit) (r : Range), Serves s.nd p b tid q →
    let one := q.taken = [] ∧ q.units = [u] ∧ u.lines = [(line, pva)] ∧ rangeFor b p.ctx.toNat pva = some r
    let t : ReadLine := { line := line, pva := pva, data := lineData g line, poison := isPoisoned g line, cheap := false }
    let read := { q with units := [], taken := q.taken ++ [t], grant := 0 }
    let e := unitEffect p u (versionByte g p.ctx.toNat false)
    let c := commitUnit g tid q u []
    let still := Quiet { g with trk := { g.trk with reqs := [] } } ∧ g.trk.reqs = [(tid, q)]
    (∀ i, (i = .read p ∧ homeKind 1 p = true) ∨ (i = .tileRead p ∧ homeKind 4 p = true) → one → wantsCopy p r = false →
      prepLine b p.ctx.toNat r pva line .read = (g, .ready) → still → Moves i s fun m =>
        m = answerRead (dropReq g tid) read (readStatus read) ∧
        readStatus read = (if isPoisoned g line then stPoisoned else stOK) ∧ m.mem.plain = g.mem.plain) ∧
    (∀ i, (i = .write p ∧ homeKind 2 p = true) ∨ (i = .atomic p ∧ homeKind 3 p = true) ∨ (i = .tileWrite p ∧ homeKind 5 p = true) ∨
        (i = .tileAcc p ∧ homeKind 6 p = true) → one → isCnt p = false → isPoisoned b line = false →
      prepUnit b q u = (g, .ready) → still → (sliceBlock g (blkOf line)).isSome = true → r.resClass ≠ 2 → r.resClass ≠ 3 →
      rangeFor g p.ctx.toNat pva = some r → partOf g (chunkOf line) = none → g.ml.outs = [] → r.peer = 0 →
      ∀ q', c.trk.reqs = [(tid, q')] → storeSettled c q' = true → q'.lostState = false → Moves i s fun m =>
        m = answerEnded (closeRecord (dropReq c tid) p stOK q'.landed q'.ovf q'.nans q'.result) p stOK q'.landed q'.ovf q'.nans q'.result ∧
        q'.landed = q.landed + u.payLen ∧ q'.result = e.prior ∧ lineData m line = patchLine pva e.bytes (lineData g line) ∧
        (∀ x, x < line * 64 ∨ line * 64 + 64 ≤ x → memGet 0 m.mem.plain x = memGet 0 g.mem.plain x)) ∧
    (probeKind p = true → q.units = [] → isCnt p = false → Moves (.probe p) s fun m =>
      m = answerEnded (closeRecord (dropReq b tid) p stOK 0 0 0 []) p stOK 0 0 0 [] ∧ m.mem = b.mem)

/-- R38–R41, R154, R156–R159, R316–R320, R625: a WAIT is answered at once when its counter has come to the target, or carries ERR, and
parks otherwise; a parked one whose deadline passes is answered LATE_FAIL with VALUE. A read whose deadline passes waits on, takes the
fill pattern or fails, as the range of its line says. A CONTROL_REGION_ACCESS is INVALID, DENIED or made, and a read of it returns
the register. -/
def Obligations.WaitsAndDeadlines : Prop :=
  ∀ (p : Packet) (src : NodeId) (seq : BitVec 32) (a d : Node) (s : State),
    let x := counterOf d p.aux.toNat
    let waits := homeKind 7 p = true ∧ Taken s.nd p a ∧ Admitted a p d
    let c := noteReq a p
    let ctrl := isCtrl p = true ∧ Taken s.nd p a ∧ dupFate a p = .fresh
    (waits → x.err = true → Moves (.wait p) s fun m => m = settle (answerWait d p stAborted x.value)) ∧
    (waits → x.err = false → p.op5.toNat ≤ x.value → Moves (.wait p) s fun m => m = settle (answerWait d p stOK x.value)) ∧
    (waits → x.err = false → x.value < p.op5.toNat → d.ctr.waits.length < 8192 → Quiet (openRecord d p) → Moves (.wait p) s fun m =>
      m.ctr.waits = d.ctr.waits ++ [⟨p.aux.toNat, p.op5.toNat, p⟩] ∧ m.mem = d.mem) ∧
    (∀ w, s.nd.ctr.waits.find? (fun w => w.pkt.src.toNat == src.toNat && w.pkt.seq.toNat == seq.toNat && w.pkt.deadline != 0) = some w →
      Moves (.waitDeadlineExpiry src seq) s fun m =>
        m = answerWait { s.nd with ctr := { s.nd.ctr with waits := s.nd.ctr.waits.erase w } } w.pkt stLateFail (counterOf s.nd w.counter).value) ∧
    ((∀ w ∈ s.nd.ctr.waits, w.pkt.src ≠ src ∨ w.pkt.seq ≠ seq ∨ w.pkt.deadline = 0) → Moves (.waitDeadlineExpiry src seq) s fun m =>
      m = s.nd) ∧
    (∀ tid q u line pva r, s.nd.trk.reqs = [(tid, q)] → q.pkt.src = src → q.pkt.seq = seq → isRead q.pkt = true → q.pkt.deadline ≠ 0 →
      q.late = false → q.units = [u] → u.lines = [(line, pva)] → accepting s.nd = true → rangeFor s.nd q.pkt.ctx.toNat pva = some r →
      (r.dlPolicy = 0 → Moves (.deadlineExpiry src seq) s fun m => m = settle (setReq s.nd tid { q with late := true })) ∧
      (r.dlPolicy = 2 → Moves (.deadlineExpiry src seq) s fun m =>
        m = settle (setReq s.nd tid { q with late := true, taken := q.taken ++ [fillLine r line pva], units := [] })) ∧
      (r.dlPolicy = 3 → q.taken = [] → Moves (.deadlineExpiry src seq) s fun m =>
        m = settle (setReq s.nd tid (stopReq { q with late := true } stLateFail)))) ∧
    (s.nd.trk.reqs = [] → Moves (.deadlineExpiry src seq) s fun m => m = s.nd) ∧
    (ctrl → ctrlBad p = true → Moves (.controlRegionAccess p) s fun m => m = settle (refuseReq c p stInvalid)) ∧
    (ctrl → ctrlBad p = false → ctrlDenied c p = true → Moves (.controlRegionAccess p) s fun m => m = settle (refuseReq c p stDenied)) ∧
    (ctrl → ctrlBad p = false → ctrlDenied c p = false → p.opcode = 1 → c.ml.memb.suspended = false →
      takeWindow c p.src.toNat = some d → ctrlEntries p = false → p.len.toNat = 8 → Moves (.controlRegionAccess p) s fun m =>
        m = settle (respond (closeRecord d p stOK 0 0 0 []) p 3 stOK 0 0
          (leBytes 8 (ringRegister (ringOf d (ctrlRing p)) (ctrlOff p)).toNat))) ∧
    (ctrl → ctrlBad p = false → ctrlDenied c p = false → p.opcode = 2 → markBefore c p = none → c.ml.memb.suspended = false →
      takeWindow c p.src.toNat = some d → ctrlEntries p = false → p.len.toNat = 8 → Moves (.controlRegionAccess p) s fun m =>
        let e := writeRingRegister d (ctrlRing p) (ctrlOff p) (wordOf (numAt (payloadOf p) 0 8))
        m = settle (answerEnded (closeRecord e p stOK 8 0 0 []) p stOK 8 0 0 []))

/-! ### The Ohmas link (R99–R110, R120–R122, R129–R131, R136, R137, R626) -/

/-- R101–R106: on a port that is up, a frame that FEC cannot correct, whose FCRC fails or whose FTYPE or VC is reserved, and one out of
FSEQ order, is discarded, and the first of them asks for a replay of the FSEQ expected; an IDLE frame is only heard; a CTRL frame in
order acts, and the next FSEQ is then expected. CREDIT adds the counts it returns. KEEPALIVE starts the count of missed periods again,
KEEPALIVE_SEND counts one more and sends the flit. REPLAY_REQ sends the frames from the FSEQ it names once more, and the ninth one for
the same FSEQ takes the port down, as a lost keep-alive does. -/
def Obligations.LinkFramesAndFlits : Prop :=
  ∀ (port : PortId) (w : Fin 16) (trailer : Word) (flit : Bytes) (fecOk : Bool) (s : State),
    let i := port.val
    let o := portAt s.nd i
    let up := portState o = 2
    let receive := Instr.frameReceive port w trailer flit fecOk
    let ftype := fieldOf trailer 3 0
    let whole := fecOk = true ∧ fieldOf trailer 63 40 = frameCrc flit (fieldOf trailer 39 0)
    let known := ftype < 4 ∧ fieldOf trailer 6 4 < 6
    let asks := fun (n m : Node) => m = if o.awaitReplay then n else sendCtrl (setPort n i { o with awaitReplay := true }) i (replayReqFlit o.fseqRx)
    let e := numAt flit 8 2
    let tries := if o.replayed.1 = e then o.replayed.2 else 0
    (up → fecOk = false → Moves receive s fun m => asks (bump s.nd (portCounter i (16 + w.val)) 1) m) ∧
    (up → fecOk = true → ¬ whole → Moves receive s fun m => asks (bump s.nd (portCounter i 32) 1) m) ∧
    (up → whole → ¬ known → Moves receive s fun m => asks s.nd m) ∧
    (up → whole → known → bitOf trailer 7 = false →
      let h := goodFrame i s.nd
      let g := setPort h i { portAt h i with fseqRx := (fieldOf trailer 23 8 + 1) % 2 ^ 16, awaitReplay := false }
      (ftype = 0 → Moves receive s fun m => m = h ∧ (portAt m i).kaMissed = 0) ∧
      (ftype ≠ 0 → fieldOf trailer 23 8 ≠ o.fseqRx → Moves receive s fun m => m = discardFrame h i) ∧
      (ftype = 3 → fieldOf trailer 23 8 = o.fseqRx → Moves receive s fun m => m = controlFlit i flit g) ∧
      ((ftype = 1 ∨ ftype = 2) → fieldOf trailer 23 8 = o.fseqRx → Moves receive s fun m =>
        m = takeFlit g i ftype (fieldOf trailer 6 4) flit)) ∧
    (up → whole → known → bitOf trailer 7 = true → ftype = 0 → Moves receive s fun m =>
      m = ackFrames (goodFrame i s.nd) i (fieldOf trailer 39 24)) ∧
    (portState o ≠ 2 → o.bringup ≠ 6 → Moves receive s fun m => m = s.nd) ∧
    (Moves (.credit port flit) s fun m =>
      m = setPort s.nd i { o with credits := (List.range 6).map fun c => o.credits.getD c 0 + numAt flit (8 + 2 * c) 2 }) ∧
    (Moves (.keepalive port flit) s fun m => m = setPort s.nd i { o with kaMissed := 0 }) ∧
    (up → Moves (.keepaliveSend port) s fun m =>
      let n := if i = 0 then { s.nd with flt := { s.nd.flt with feign := s.nd.flt.feign - 1 } } else s.nd
      m = sendCtrl (setPort n i { o with kaCount := (o.kaCount + 1) % 2 ^ 32, kaMissed := o.kaMissed + 1 }) i
        (keepaliveFlit ((o.kaCount + 1) % 2 ^ 32))) ∧
    (up → Moves (.keepaliveLost port) s fun m =>
      m = portDown (bump (setPort s.nd i { o with status := putField o.status 30 30 1 }) (portCounter i 39) 1) i ∧
      portState (portAt m i) ≠ 2) ∧
    (up → 8 ≤ tries → Moves (.replayReq port flit) s fun m =>
      m = portDown (setPort s.nd i { o with status := putField o.status 31 31 1 }) i ∧ portState (portAt m i) ≠ 2) ∧
    (up → tries < 8 → framesStopped s.nd = false → Moves (.replayReq port flit) s fun m =>
      (portAt m i).replayed = (e, tries + 1) ∧ (portAt m i).replay = o.replay ∧ m.mem = s.nd.mem ∧ m.prs = s.nd.prs ∧
      m.out.map (fun x => match x with | .frame j t f => (j, fieldOf t 23 8, f) | _ => (64, 0, [])) =
        s.nd.out.map (fun x => match x with | .frame j t f => (j, fieldOf t 23 8, f) | _ => (64, 0, [])) ++
          (o.replay.filter fun f => serialLe 16 e f.1).map fun f => (i, f.1 % 65536, f.2.2.2)) ∧
    (portState o ≠ 2 → Moves (.keepaliveLost port) s fun m => m = s.nd)

/-- R99, R100, R107–R110, R136, R137, R618: a ring that cannot be held marks its group failed; too many corrected symbols do, and are
counted in any case. Fewer than two groups take a port down. A group returns when its rings are locked, OPORT_CFG lets it and it did
not return lately. At the end of a switch count the new mask holds. Bring-up goes from codeword lock over LANE_STATE and HELLO to a
port that is up, or stays down at the step that failed until it is tried again. An ELS that fails or is taken out takes the ports of its
cluster down; a conforming new one brings them up. -/
def Obligations.WidthsAndBringUp : Prop :=
  ∀ (port : PortId) (tx : Bool) (w : Fin 16) (g : Fin 4) (soon : Bool) (mask count : Nat) (symbols : List Nat) (txl rxl : BitVec 4)
    (flit : Bytes) (e : RegionId) (s : State),
    let i := port.val
    let o := portAt s.nd i
    let up := portState o = 2
    let groups := fun (o : OPort) => if tx then txGroups o else rxGroups o
    let lock := allowedGroups o (lockedGroups o.txLocked &&& txl.toNat)
    let lockr := allowedGroups o (lockedGroups o.rxLocked &&& rxl.toNat)
    let both := 2 ≤ groupCount lock ∧ 2 ≤ groupCount lockr
    let node := numAt flit 8 2
    let total := (symbols.take 4).foldl (· + ·) 0
    let counted := (List.range 4).foldl (fun n k => bump n (portCounter i (4 * g.val + k)) (symbols.getD k 0)) s.nd
    let down := fun (m : Node) => ∀ k < 4, portState (portAt m (4 * e.val + k)) ≠ 2
    (up → (if tx then o.txSwitch else o.rxSwitch) = some (mask, count) → mask < 16 → 2 ≤ groupCount mask → Moves (.widthSwitch port tx) s fun m =>
      groups (portAt m i) = mask ∧ (if tx then (portAt m i).txSwitch else (portAt m i).rxSwitch) = none ∧ portState (portAt m i) = 2 ∧
      (portAt m i).fseqTx = o.fseqTx ∧ (portAt m i).replay = o.replay ∧ m.prs = s.nd.prs ∧ m.traf = s.nd.traf) ∧
    (up → (if tx then o.txSwitch else o.rxSwitch) = some (mask, count) → groupCount mask < 2 → Moves (.widthSwitch port tx) s fun m =>
      portState (portAt m i) ≠ 2) ∧
    ((if tx then o.txSwitch else o.rxSwitch) = none → Moves (.widthSwitch port tx) s fun m => m = s.nd) ∧
    (Moves (.ringLockRevisit port tx w true soon) s fun m =>
      m = setPort s.nd i (if tx then { o with txLocked := o.txLocked ||| 2 ^ w.val } else { o with rxLocked := o.rxLocked ||| 2 ^ w.val })) ∧
    (Moves (.ringLockRevisit port tx w false soon) s fun m =>
      natField (if tx then (portAt m i).txLocked else (portAt m i).rxLocked) w.val w.val = 0 ∧
      ((if tx then (portAt m i).txFailed else (portAt m i).rxFailed).testBit (w.val / 4) = true)) ∧
    (total ≤ cfgNum s.nd 0x0107 → Moves (.degradeSymbolWindow port g symbols soon) s fun m => m = counted) ∧
    (cfgNum s.nd 0x0107 < total → Moves (.degradeSymbolWindow port g symbols soon) s fun m =>
      m = failGroup (logEvent counted { otherEvent 2 5 with uclass := 1, unit_ := i, data0 := g.val, data1 := total }) i false g.val soon) ∧
    (let locked := lockedGroups (if tx then o.txLocked else o.rxLocked)
     let new := allowedGroups o (groups o ||| 2 ^ g.val)
     let rb := g.val + if tx then 0 else 4
     up → natField (if tx then o.txOut else o.rxOut) g.val g.val = 0 → natField locked g.val g.val = 1 → natField (groups o) g.val g.val = 0 →
      natField new g.val g.val = 1 → natField o.returned rb rb = 0 → Moves (.groupReturn port tx g soon) s fun m =>
        let p := if tx then { o with returned := o.returned + 2 ^ rb, txFailed := o.txFailed &&& (15 - 2 ^ g.val) }
                 else { o with returned := o.returned + 2 ^ rb, rxFailed := o.rxFailed &&& (15 - 2 ^ g.val) }
        m = if tx then changeTxWidth (setPort s.nd i p) i new else askRxWidth (setPort s.nd i p) i new) ∧
    (o.bringup = 3 → both → o.rxSwitch = none → Moves (.codewordLock port txl rxl) s fun m =>
      m = emit (setPort s.nd i { setRxGroups (setTxGroups o lock) lockr with bringup := 4 }) (.ctrl i (laneStateFlit lock 0))) ∧
    (o.bringup = 3 → both → o.rxSwitch = some (mask, count) → Moves (.codewordLock port txl rxl) s fun m =>
      m = lanesAgreed (emit (setPort s.nd i { setRxGroups (setTxGroups o lock) lockr with bringup := 4 })
        (.ctrl i (laneStateFlit lock 0))) i mask) ∧
    (o.bringup = 3 → ¬ both → Moves (.codewordLock port txl rxl) s fun m =>
      m = failBringup s.nd i 3 ∧ portState (portAt m i) = 0 ∧ (portAt m i).failedStep = 3) ∧
    (o.bringup ≠ 3 → Moves (.codewordLock port txl rxl) s fun m => m = s.nd) ∧
    (o.bringup = 4 → Moves (.laneState port flit) s fun m => m = lanesAgreed s.nd i (numAt flit 8 1 % 16)) ∧
    (up → o.bringup = 0 → 2 ≤ numAt flit 9 1 → Moves (.laneState port flit) s fun m =>
      m = setPort s.nd i { o with rxSwitch := some (numAt flit 8 1 % 16, numAt flit 9 1) }) ∧
    (up → o.bringup = 0 → numAt flit 9 1 = 0 → Moves (.laneState port flit) s fun m =>
      m = changeTxWidth s.nd i (allowedGroups o (numAt flit 8 1 % 16 &&& lockedGroups o.txLocked))) ∧
    (o.bringup = 6 → helloRefused s.nd i node (numAt flit 10 2) = false → s.nd.unsent = [] → Moves (.hello port flit) s fun m =>
      portState (portAt m i) = 2 ∧ fieldOf (portAt m i).status 29 14 = node ∧ (portAt m i).bringup = 0 ∧
      (portAt m i).credits = ((List.range 6).map fun c => numAt flit (16 + 2 * c) 2) ∧
      (portAt m i).peerMax = (if numAt flit 12 1 = 1 ∨ s.nd.alm.personality = 1 then 2048 else 4096)) ∧
    (o.bringup = 6 → helloRefused s.nd i node (numAt flit 10 2) = true → Moves (.hello port flit) s fun m =>
      portState (portAt m i) = 0 ∧ (portAt m i).failedStep = 6 ∧ bitOf (portAt m i).status 33 = true) ∧
    (o.failedStep ≠ 0 → portState o = 0 → Moves (.portBringupRetry port) s fun m => m = beginBringup s.nd i) ∧
    (o.failedStep = 0 → Moves (.portBringupRetry port) s fun m => m = s.nd) ∧
    (Moves (.elsOutputLow e) s fun m => e.val ∉ m.power.elsOk ∧ down m) ∧
    (Moves (.elsRemoved e) s fun m => e.val ∉ m.power.elsOk ∧ down m) ∧
    (Moves (.elsInserted e true) s fun m => e.val ∈ m.power.elsOk ∧ m.mem = s.nd.mem ∧ m.prs = s.nd.prs) ∧
    (Moves (.elsInserted e false) s fun m => m = logEvent s.nd { otherEvent 2 8 with data0 := e.val, data1 := 0 })

/-- R122, R127, R130, R131, R626: SEQ_RESET with a new incarnation discards what was received from the peer; ACK 0 is answered, ACK 1 makes
the pair usable and sends what waited. An open exchange is repeated. SEQ_SYNC sends again what the peer lacks, or whose answer is missing,
drops the MGT packets the peer has, and is answered when it is no answer. A refused packet goes again after its back-off, in SEQ order. -/
def Obligations.SequencesAgree : Prop :=
  ∀ (p : Packet) (peer : NodeId) (cls : Fin 6) (seq : BitVec 32) (a : Node) (s : State),
    let own := p.dst.toNat
    let from_ := p.src.toNat
    let q := pairOf a own from_
    let known := q.inc = some p.tag.toNat
    let ack := p.aux.getLsbD 0
    let alone := bridgeId s.nd = 0
    let mine := pairOf s.nd s.nd.nodeId peer.toNat
    (Arrives s.nd p a → known → ack = false → Moves (.seqReset p) s fun m => m = sendUnnumbered a (seqResetPacket a own from_ true)) ∧
    (Arrives s.nd p a → known → ack = true → q.resetting = true → q.usable = false → Moves (.seqReset p) s fun m =>
      m = q.waiting.foldl transmit (setPair a own from_ { q with usable := true, resetting := false, waiting := [] })) ∧
    (Arrives s.nd p a → known → ack = true → q.resetting = false → Moves (.seqReset p) s fun m => m = a) ∧
    (Arrives s.nd p a → q.inc = none → ack = false → Moves (.seqReset p) s fun m =>
      let b := forgetReceived a own from_
      let c := setPair b own from_ { pairOf b own from_ with inc := some p.tag.toNat }
      m = sendUnnumbered c (seqResetPacket c own from_ true) ∧ (pairOf c own from_).deliv = [0, 0, 0] ∧ (pairOf c own from_).reorder = [] ∧
      (pairOf c own from_).held = []) ∧
    (alone → mine.resetting = true → mine.usable = false → Moves (.seqResetRepeat peer) s fun m =>
      m = sendUnnumbered s.nd (seqResetPacket s.nd s.nd.nodeId peer.toNat false)) ∧
    (alone → (mine.resetting = false ∨ mine.usable = true) → Moves (.seqResetRepeat peer) s fun m => m = s.nd) ∧
    (Arrives s.nd p a →
      let ws := bytesToWords 8 (payloadOf p)
      let kept := q.sent.filter fun u => !(u.pkt.cls == 5 && serialLe 32 u.pkt.seq.toNat (fieldOf (wordAt ws 3) 31 0))
      let b := setPair a own from_ { q with sent := kept.map fun u => { u with beforeSync := true } }
      let c := (q.sent.filter fun u => mustResend u ws).foldl (fun n u => resend n u.pkt) b
      Moves (.seqSync p) s fun m => m = if bitOf (wordAt ws 3) 32 then c else sendSync c own from_ true) ∧
    (∀ k q', s.nd.prs.pairs.filter (fun e => !e.2.sent.isEmpty) = [(k, q')] → Moves .seqSyncPeriod s fun m =>
      m = sendSync s.nd (k / 65536) (k % 65536) false) ∧
    ((∀ e ∈ s.nd.prs.pairs, e.2.sent = []) → Moves .seqSyncPeriod s fun m => m = s.nd) ∧
    (∀ u, alone → mine.sent = [u] → u.backoff = true → u.pkt.cls.toNat = cls.val → u.pkt.seq = seq → Moves (.retryResend peer cls seq) s fun m =>
      m = transmit (setPair s.nd s.nd.nodeId peer.toNat { mine with sent := [{ u with backoff := false }] }) u.pkt) ∧
    (alone → (∀ u ∈ mine.sent, u.backoff = false) → Moves (.retryResend peer cls seq) s fun m => m = s.nd)

/-! ### Traffic, and staged objects (R135, R199, R329, R437–R468, R490, R494, R499, R529) -/

/-- R439–R445, R464–R466: the scheduler of an up port takes TC 7's packet before any other, and else the one with the smallest finish tag;
the packet's frames go out against credits, and its TC queue and tags move on. A port that is not up sends nothing. In a core cycle a
bucket gains its RATE, up to its BURST, and a shaper passes what has become eligible. -/
def Obligations.TrafficMoves : Prop :=
  ∀ (port : PortId) (ctx : BitVec 16) (s : State),
    let i := port.val
    let t := trafAt s.nd i
    let c := ctx.toNat
    let passed := ((List.range 8).filter fun k =>
      let q := getAt t.tcs k TcQueue.reset
      tcBacklogged q && (tcHead s.nd (portAt s.nd i) q).isNone).foldl (fun n k => bump n (trafCounter i (16 + k)) 1) s.nd
    let runs_ := portState (portAt s.nd i) = 2 ∧ framesStopped s.nd = false
    (∀ k p, runs_ → chooseTc s.nd i = some (k, p) → Moves (.schedulerSelect port) s fun m =>
      let n := bump (bump passed (trafCounter i (2 * k)) 1) (trafCounter i (2 * k + 1)) (flitBytes p)
      m = sendOnPort (setTraf n i (afterSend t k p)) i p ∧ m.mem = s.nd.mem ∧ m.prs = s.nd.prs) ∧
    (∀ p, runs_ → tcHead s.nd (portAt s.nd i) (getAt t.tcs 7 TcQueue.reset) = some p → Moves (.schedulerSelect port) s fun m =>
      m = sendOnPort (setTraf (bump (bump passed (trafCounter i 14) 1) (trafCounter i 15) (flitBytes p)) i (afterSend t 7 p)) i p) ∧
    (runs_ → chooseTc s.nd i = none → Moves (.schedulerSelect port) s fun m => m = passed) ∧
    (¬ runs_ → Moves (.schedulerSelect port) s fun m => m = s.nd) ∧
    (∀ sh, Tbl.find? t.shapers c = some sh →
      let cap := sh.bucket.level + (fieldOf sh.bucket.rate 31 0 : Nat)
      let top := ((fieldOf sh.bucket.burst 31 0 * 65536 : Nat) : Int)
      let b := { sh.bucket with level := if cap ≤ top then cap else top }
      Moves (.tokenRefill (some port) ctx) s fun m =>
        m = setTraf (if shaperCount sh = 0 then s.nd else bump s.nd (trafCounter i 24) 1) i
          (runShaper { t with shapers := Tbl.put t.shapers c { sh with bucket := b } } c)) ∧
    (Tbl.find? t.shapers c = none → Moves (.tokenRefill (some port) ctx) s fun m => m = s.nd) ∧
    (∀ b, Tbl.find? s.nd.pol.buckets c = some b → Moves (.tokenRefill none ctx) s fun m =>
      (∃ x, Tbl.find? m.pol.buckets c = some x ∧
        x.level = (let v := b.level + (fieldOf b.rate 31 0 : Nat); let top := ((fieldOf b.burst 31 0 * 65536 : Nat) : Int); if v ≤ top then v else top) ∧
        x.cfg = b.cfg ∧ x.rate = b.rate ∧ x.burst = b.burst ∧ x.gen = b.gen) ∧
      m = { s.nd with pol := { s.nd.pol with buckets := m.pol.buckets } }) ∧
    (Tbl.find? s.nd.pol.buckets c = none → Moves (.tokenRefill none ctx) s fun m => m = s.nd)

/-- R135, R199, R329, R455–R468, R490, R494, R499, R529: a commit takes the staged values over and steps GEN when they pass their object's
checks; otherwise the live values stay, and the refusal shows in the status. A write without bit 0 commits nothing. EB and PLC commits
wait for their boundary. A selector loads the values of the object it names, or reset values and SEL_ERR. -/
def Obligations.StagedObjectsCommit : Prop :=
  ∀ (port : PortId) (d : DenseId) (w : Word) (s : State),
    let n := s.nd
    let i := port.val
    let o := portAt n i
    let t := trafAt n i
    let q := dportAt n d.val
    let f := n.flt
    let b := n.bridge
    let go := bitOf w 0 = true
    let rows : List Instr := [.oportCommit port w, .dportCommit d w, .schedCommit port w, .shpCommit port w, .polCommit w, .ebCommit w,
      .vgCommit w, .mqCommit w, .plcCommit w, .hbWinCommit w, .hbNtfCommit w]
    (∀ r ∈ rows, bitOf w 0 = false → Moves r s fun m => m = n) ∧
    (go → oportCfgOk o.cfgStage = false → Moves (.oportCommit port w) s fun m =>
      m = setPort n i { o with stat := commitStatus o.stat false o.gen }) ∧
    (go → oportCfgOk o.cfgStage = true → Moves (.oportCommit port w) s fun m =>
      (portAt m i).cfgLive = o.cfgStage ∧ (portAt m i).gen = nextGen o.gen ∧ (portAt m i).stat = commitStatus o.stat true (nextGen o.gen) ∧
      (bitOf o.cfgStage 0 = false → portState (portAt m i) = 3)) ∧
    (go → n.power.off = false → bitOf q.cfgStage 0 = false → bitOf q.cfgLive 0 = true → driveUsed n d.val = true →
      Moves (.dportCommit d w) s fun m => m = setDport n d.val { q with stat := commitStatus q.stat false q.gen }) ∧
    (go → n.power.off = false → bitOf q.cfgStage 0 = true → Moves (.dportCommit d w) s fun m =>
      (dportAt m d.val).cfgLive = q.cfgStage ∧ (dportAt m d.val).gen = nextGen q.gen ∧
      (bitOf q.cfgLive 0 = false → fieldOf (dportAt m d.val).status 1 0 = 1)) ∧
    (let ok := (List.range 7).all fun k => tcCfgOk (getAt t.tcs k TcQueue.reset).cfgStage
     go → Moves (.schedCommit port w) s fun m =>
      (∀ k : Fin 8, ((trafAt m i).tcs.get k).cfgLive =
        if ok = true ∧ k.val < 7 then (t.tcs.get k).cfgStage else (t.tcs.get k).cfgLive) ∧
      (trafAt m i).gen = (if ok then nextGen t.gen else t.gen) ∧ (∀ k : Fin 8, ((trafAt m i).tcs.get k).fifos = (t.tcs.get k).fifos)) ∧
    (∀ sh, fieldOf w 63 16 = 0 → Tbl.find? t.shapers (fieldOf w 15 0) = some sh → Moves (.shpSel port w) s fun m =>
      let st := putField t.shpStat 31 16 sh.bucket.gen
      m = setTraf n i { t with shpSel := w, shpStage := (sh.bucket.cfg, sh.bucket.rate, sh.bucket.burst), shpStat := st }) ∧
    (fieldOf w 63 16 ≠ 0 ∨ Tbl.find? t.shapers (fieldOf w 15 0) = none → Moves (.shpSel port w) s fun m =>
      bitOf (trafAt m i).shpStat 2 = true ∧ (trafAt m i).shpStage = (shpCfgReset n.alm, 0, 0) ∧ (trafAt m i).shapers = t.shapers) ∧
    (let c := fieldOf t.shpSel 15 0
     go → ∀ sh, fieldOf t.shpSel 63 16 = 0 → Tbl.find? t.shapers c = some sh →
      (bucketCfgOk true t.shpStage = true → Moves (.shpCommit port w) s fun m =>
        let x := commitBucket sh.bucket t.shpStage
        let shapers := Tbl.put t.shapers c { sh with bucket := x }
        m = setTraf n i (runShaper { t with shapers := shapers, shpStat := commitStatus t.shpStat true x.gen } c)) ∧
      (bucketCfgOk true t.shpStage = false → Moves (.shpCommit port w) s fun m =>
        (trafAt m i).shapers = t.shapers ∧ bitOf (trafAt m i).shpStat 0 = true)) ∧
    (∀ x, fieldOf w 63 16 = 0 → Tbl.find? n.pol.buckets (fieldOf w 15 0) = some x → Moves (.polSel w) s fun m =>
      m.pol.polSel = w ∧ m.pol.polStage = (x.cfg, x.rate, x.burst) ∧ m.pol.buckets = n.pol.buckets) ∧
    (fieldOf w 63 16 ≠ 0 ∨ Tbl.find? n.pol.buckets (fieldOf w 15 0) = none → Moves (.polSel w) s fun m =>
      bitOf m.pol.polStat 2 = true ∧ m.pol.polStage = (shpCfgReset n.alm, 0, 0) ∧ m.pol.buckets = n.pol.buckets) ∧
    (let c := fieldOf n.pol.polSel 15 0
     go → ∀ x, fieldOf n.pol.polSel 63 16 = 0 → Tbl.find? n.pol.buckets c = some x →
      (bucketCfgOk false n.pol.polStage = true → Moves (.polCommit w) s fun m =>
        Tbl.find? m.pol.buckets c = some (commitBucket x n.pol.polStage) ∧ (∀ k, k ≠ c → Tbl.find? m.pol.buckets k = Tbl.find? n.pol.buckets k)) ∧
      (bucketCfgOk false n.pol.polStage = false → Moves (.polCommit w) s fun m =>
        m.pol.buckets = n.pol.buckets ∧ bitOf m.pol.polStat 0 = true)) ∧
    (go → Moves (.ebCommit w) s fun m =>
      m = if ebOk n f.ebStage then { n with flt := { f with ebNext := f.ebNext ++ [f.ebStage] } }
          else { n with flt := { f with ebStat := commitStatus f.ebStat false f.ebGen } }) ∧
    (go → Moves (.vgCommit w) s fun m =>
      m.flt.vgLive = (if vgOk f.vgStage then f.vgStage else f.vgLive) ∧ m.flt.vgGen = (if vgOk f.vgStage then nextGen f.vgGen else f.vgGen) ∧
      (vgOk f.vgStage = false → bitOf m.flt.vgStat 0 = true)) ∧
    (go → Moves (.mqCommit w) s fun m =>
      m.flt.mqLive = (if mqOk n f.mqStage then f.mqStage else f.mqLive) ∧ m.flt.mqGen = (if mqOk n f.mqStage then nextGen f.mqGen else f.mqGen) ∧
      (mqOk n f.mqStage = false → bitOf m.flt.mqStat 0 = true)) ∧
    (go → Runs (.plcCommit w) s fun u => u.nd = n ∧ u.pending = s.pending ∧ u.hl.plc.live = s.hl.plc.live ∧
      u.hl.plc.next = (if plcOk n s.hl.plc.stage then s.hl.plc.next ++ [s.hl.plc.stage] else s.hl.plc.next) ∧
      (plcOk n s.hl.plc.stage = false → bitOf u.hl.plc.stat 0 = true)) ∧
    (Moves (.hbWinSel w) s fun m =>
      let x := winAt n (fieldOf w 2 0)
      m.bridge.winSel = w ∧ m.bridge.winStage = (if fieldOf w 63 3 = 0 then (x.cfg, x.dpa, x.pva) else (0, 0, 0)) ∧
      (fieldOf w 63 3 ≠ 0 → bitOf m.bridge.winStat 2 = true) ∧ m.bridge.wins = b.wins) ∧
    (let k := fieldOf b.winSel 2 0
     let x : BridgeWin := { cfg := b.winStage.1, dpa := b.winStage.2.1, pva := b.winStage.2.2, gen := nextGen (winAt n k).gen }
     go → (fieldOf b.winSel 63 3 = 0 → windowFits n k x = true → Moves (.hbWinCommit w) s fun m =>
        m.bridge.wins = putAt b.wins k x ∧ m.bridge.winStat = commitStatus b.winStat true x.gen) ∧
      (fieldOf b.winSel 63 3 ≠ 0 ∨ windowFits n k x = false → Moves (.hbWinCommit w) s fun m =>
        m.bridge.wins = b.wins ∧ bitOf m.bridge.winStat 0 = true)) ∧
    (let ok := fieldOf b.ntfStage.1 63 1 = 0 ∧ (bitOf b.ntfStage.1 0 = true → fieldOf b.ntfStage.2 15 0 = 0)
     go → (ok → Moves (.hbNtfCommit w) s fun m => m.bridge.ntfLive = b.ntfStage ∧ m.bridge.ntfGen = nextGen b.ntfGen) ∧
      (¬ ok → Moves (.hbNtfCommit w) s fun m => m.bridge.ntfLive = b.ntfLive ∧ bitOf m.bridge.ntfStat 0 = true))

/-! ### Coherence and mirrors (R25, R183–R192, R203, R372–R376, R396, R397, R421, R428, R474–R476) -/

/-- R25, R183–R192, R203: an answer that the home does not expect is discarded and logged, and the recall stays. ACK_I takes the holder
from the line's entry, ACK_S leaves it a sharer, WB_PENDING leaves the recall open; with the last leg the recall ends. A write-back is
applied at the home before either. A WB_EVICT from the owner is applied and acknowledged once its forwards are; from another node it is
refused INVALID, and from an owner that is no longer admitted DENIED. A completed snoop-ring invalidation leaves no lent copy of its
line. -/
def Obligations.RecallsAndWriteBacks : Prop :=
  ∀ (p : Packet) (a : Node) (line : Nat) (rc : Recall) (s : State),
    let x := p.src.toNat
    let o := p.opcode.toNat
    let came := accepting s.nd = true ∧ Arrives s.nd p a
    let answers := came ∧ 0x60 ≤ o ∧ o ≤ 0x64
    let ours := recallOf a x (reqSeq p) = some (line, rc) ∧ answerValid rc p = true
    let settled := settleFwd a x (reqSeq p)
    let evicts := came ∧ p.opcode = 0x68 ∧ p.cls = 3
    let ack := fun (n : Node) st => sendWbAck n x p.seq.toNat p.tag.toNat p.ctx.toNat p.pva.toNat st
    (answers → recallOf a x (reqSeq p) = none → Moves (.recallAnswer p) s fun m => m = logBadAnswer a p ∧ m.coh = a.coh) ∧
    (answers → recallOf a x (reqSeq p) = some (line, rc) → answerValid rc p = false → Moves (.recallAnswer p) s fun m =>
      m = logBadAnswer a p ∧ m.coh = a.coh) ∧
    (answers → ours → o = 0x60 → Moves (.recallAnswer p) s fun m => m = settle (endLeg (dropHolder settled line x) line x)) ∧
    (answers → ours → o = 0x62 → Moves (.recallAnswer p) s fun m => m = settle (endLeg (keepShared settled line) line x)) ∧
    (answers → ours → o = 0x64 → Moves (.recallAnswer p) s fun m =>
      (∃ r, Tbl.find? m.coh.recalls line = some r ∧ r.legs.map (·.node) = rc.legs.map (·.node) ∧
        ∀ l ∈ r.legs, l.node = x → l.wbPending = true) ∧ m.coh.dir = a.coh.dir ∧ m.mem = a.mem) ∧
    (∀ ctx r f, answers → ours → (o = 0x61 ∨ o = 0x63) → discardsData rc.cause = false → spanOf a line = some (ctx, r) →
      prepReturn a ctx r line (.source x (fieldOf p.op5 47 32)) = (f, .ready) → Moves (.recallAnswer p) s fun m =>
        let c := settleFwd (applyReturn f ctx r line (fieldOf p.op5 47 32) p).1 x (reqSeq p)
        m = settle (endLeg (if o = 0x63 then keepShared c line else dropHolder c line x) line x)) ∧
    (∀ r f, evicts → rangeFor a p.ctx.toNat p.pva.toNat = some r → lineAt r p.pva.toNat = line → p.pva.toNat % 64 = 0 → hasPayload p = true →
      p.len = 64 → Tbl.find? a.coh.recalls line = none →
      let owner := ∃ e, dirOf a line = some e ∧ e.excl = true ∧ x ∈ e.ptrs
      (¬ owner → Moves (.wbEvict p) s fun m => m = ack (logBadAnswer a p) stInvalid) ∧
      (owner → isAdmitted a p.ctx.toNat x = false → Moves (.wbEvict p) s fun m => m = ack a stDenied) ∧
      (owner → isAdmitted a p.ctx.toNat x = true → prepReturn a p.ctx.toNat r line (.source x p.epoch.toNat) = (f, .ready) →
        let c := applyReturn f p.ctx.toNat r line p.epoch.toNat p
        Moves (.wbEvict p) s fun m => m = settle (evictApplied (endLeg (dropHolder c.1 line x) line x) line p.ctx.toNat p c.2))) ∧
    (evicts → rangeFor a p.ctx.toNat p.pva.toNat = none → Moves (.wbEvict p) s fun m => m = ack (logBadAnswer a p) stInvalid) ∧
    (accepting s.nd = true → snooping s.nd line = true → Quiet (endSnoop s.nd line) → Moves (.snoopInvalidationComplete line) s fun m =>
      snooping m line = false ∧ (∀ e ∈ m.coh.lent, ∀ z ∈ e.2, z.line ≠ line) ∧
      (∀ e ∈ m.coh.opbuf, ∀ z ∈ e.2, z.line = line → z.nc = true) ∧ m.coh.dir = s.nd.coh.dir ∧ m.mem = s.nd.mem) ∧
    (snooping s.nd line = false → Moves (.snoopInvalidationComplete line) s fun m => m = s.nd)

/-- R95, R241, R372–R376, R396, R397, R421, R428, R474–R476: a forward that a range takes from its sender is applied to its lines and then
answered; another one is refused DENIED and logged, a malformed one INVALID. The answer OK to a forward lets go of what waits for it, RETRY
leaves it to its re-send, and a refusal loses the mirror for the range, or ends the Leap, but a suspended module waits. A repair read is
served with the mirror's copy, POISONED where it cannot be read. A mirror's READ of a line marks it mirror-dirty and resyncs it. Data
for a line that could not be read repairs it, and a refusal poisons it. An ADOPT_QUERY is answered from the mirror's records, once no request
that it names still runs. -/
def Obligations.MirrorsFollow : Prop :=
  ∀ (p : Packet) (a f : Node) (line : Nat) (r : Range) (u : Unanswered) (s : State),
    let ctx := p.ctx.toNat
    let pva := p.pva.toNat
    let b := noteReq a p
    let fresh := Taken s.nd p a ∧ dupFate a p = .fresh ∧ pairHeld a p.dst.toNat p.src.toNat = false
    let takes := (granulesOf pva p.len.toNat).all fun g => ((rangeOf a ctx g).map fun r => takesForwards r p.src.toNat).getD false
    let lines := (peerLines a p).map fun l => (l.1, l.2.1 / 64 * 64)
    let answer := accepting s.nd = true ∧ Arrives s.nd p a ∧ sentFor a p = some u
    let st := p.status.toNat
    (fresh → isForward p = true → peerInvalid a p = true → Moves (.peerForward p) s fun m => m = settle (refuseReq b p stInvalid)) ∧
    (fresh → isForward p = true → peerInvalid a p = false → takes = false →
      (∀ e ∈ a.sol.parts, e.2.crec ≠ pva) → Moves (.peerForward p) s fun m =>
        m = settle (refuseReq (logEvent b { otherEvent 6 10 with ctx := ctx, node := p.src.toNat, data0 := pva }) p stDenied)) ∧
    (∀ win, fresh → isForward p = true → peerInvalid a p = false → takes = true → markBefore b p = none →
      (∀ l ∈ lines, restoringAt a l.1 = false) → placeBusy a (reqRegion a p lines) lines p = false → takeWindow b p.src.toNat = some win →
      prepForward (dropRepair a p) p = (f, .ready) → Moves (.peerForward p) s fun m =>
        m = settle (forwardTracker (applyForward (noteReq { f with prs := win.prs } p) p) p)) ∧
    (answer → p.opcode = 2 → p.cls = 2 → sentAsForward u.purpose = true →
      (st = stRetry → Moves (.forwardAnswer p) s fun m => m = settleSent a p) ∧
      (st = stOK → Moves (.forwardAnswer p) s fun m => m = settle (indexGo (settle (dropForwards a p.src.toNat (· == u))))) ∧
      (st ≠ stRetry → st ≠ stOK → s.nd.ml.memb.suspended = false → leapOfForward s.nd u = none → Moves (.forwardAnswer p) s fun m =>
        m = settle (indexGo (settle (forwardRefused a u st)))) ∧
      (st ≠ stRetry → st ≠ stOK → s.nd.ml.memb.suspended = true → leapOfForward s.nd u = none → Moves (.forwardAnswer p) s fun m =>
        m = putBack a p)) ∧
    (fresh → isPeerRead p = true → fromMirror s.nd p = false → peerInvalid a p = false → rangeOf a ctx pva = some r → lineAt r pva = line →
      let ours := r.mirrorRole = true ∧ r.peer = p.src.toNat ∧ r.departed = false
      (¬ ours → Moves (.repairRead p) s fun m => m = settle (refuseReq b p stDenied)) ∧
      (∀ o, ours → placeBusy a (lineRegion line) [(line, pva)] p = false → takeWindow b p.src.toNat = some o → vselOf p ≠ 1 →
        (discarded a line || isPoisoned a line) = true → Moves (.repairRead p) s fun m => m = settle (answerPeerRead o p stPoisoned [])) ∧
      (∀ o, ours → placeBusy a (lineRegion line) [(line, pva)] p = false → takeWindow b p.src.toNat = some o → vselOf p ≠ 1 →
        (discarded a line || isPoisoned a line) = false → fetchLine o ctx r line false = (f, .ready) → Moves (.repairRead p) s fun m =>
          m = settle (answerPeerRead f p stOK (lineData f line)))) ∧
    (fresh → isPeerRead p = true → fromMirror s.nd p = true → peerInvalid a p = false → rangeOf a ctx pva = some r → lineAt r pva = line →
      placeBusy a (lineRegion line) [(line, pva)] p = false → a.coh.mdirty = [] → Moves (.resyncRequest p) s fun m =>
        let d : MdLine := { evict := none, inList := (dirOf a line).isNone, resync := true, fwds := [], ctx := ctx, pva := pva, askers := [p], cmds := [] }
        m = settle (resyncLine { b with coh := { b.coh with mdirty := Tbl.put b.coh.mdirty line d } } line)) ∧
    (accepting s.nd = true → Moves (.mirrorResync line) s fun m => m = settle (resyncLine s.nd line)) ∧
    (accepting s.nd = false → Moves (.mirrorResync line) s fun m => m = s.nd) ∧
    (answer → p.opcode = 1 → u.purpose = .repair line →
      (∀ o, p.cls = 3 → st = stOK → openSlice a (blkOf line) = (o, .ready) → discarded (settleSent o p) line = true →
        Moves (.repairReadAnswer p) s fun m => m = settle (lineRepaired (settleSent o p) line (payloadOf p))) ∧
      (p.cls = 2 → st ≠ stOK → st ≠ stRetry → discarded (settleSent a p) line = true → Moves (.repairReadAnswer p) s fun m =>
        m = settle (poisonUnread (settleSent a p) line)) ∧
      (p.cls = 2 → st = stRetry → Moves (.repairReadAnswer p) s fun m => m = settleSent a p)) ∧
    (mgtServed s.nd = true → p.cls = 5 → p.opcode = 0xB1 → Arrives s.nd p a →
      let w0 := wordAt (mgtWords p 1) 0
      let count := fieldOf w0 31 16
      let seqs := (List.range count).map fun i => leNat (((payloadOf p).drop (8 + 4 * i)).take 4)
      let lost := fieldOf w0 15 0
      let good := fieldOf w0 63 32 = 0 ∧ 1 ≤ count ∧ count ≤ 120 ∧ 8 + 4 * count ≤ (payloadOf p).length
      (¬ good → Moves (.adoptQuery p) s fun m => m = logEvent a { otherEvent 6 13 with node := p.src.toNat }) ∧
      (good → (∀ q ∈ seqs, adoptRunning a p.src.toNat lost q = false) → Moves (.adoptQuery p) s fun m =>
        m = sendPacket a { withPayload (responseTo a p 5 stOK) (seqs.flatMap fun q => adoptRecord a p.src.toNat lost q) with opcode := 0xB2 } .none) ∧
      (good → (∃ q ∈ seqs, adoptRunning a p.src.toNat lost q = true) → Moves (.adoptQuery p) s fun m => m = putBack a p))

/-! ### Drives and lenders (R297, R303, R323–R328, R626) -/

/-- R303, R323–R328: a fill ends with the frame installed, each block in the state its metadata says. A completed write, flush or release leaves
the table and ends the drive's run of timeouts. The first timeout aborts the command and issues it once more on another queue; the second
in a row declares the drive lost, and so does the removal of one that was up. A drive that comes and trains is up, with its namespace's
size; one that does not, stays down with an alert. -/
def Obligations.DrivesAnswerAndFail : Prop :=
  ∀ (cid f b : Nat) (d : DenseId) (c : NvmeCmd) (x : CacheFrame) (data md : Bytes) (nsBlocks queues : Nat) (dz : Bool) (s : State),
    let n := s.nd
    let has := Tbl.find? n.mem.nvme cid = some c
    let done := portAnswered (dropNvme n cid) c.port
    let filled := frameFilled done f true data md
    let q := dportAt n d.val
    let late := logEvent (setDport n c.port { dportAt n c.port with
      status := putField (dportAt n c.port).status 4 4 1, timeouts := (dportAt n c.port).timeouts + 1 }) { otherEvent 4 2 with uclass := 2, unit_ := c.port }
    (has → c.purpose = .frameFill f → accepting n = true → Tbl.find? n.mem.frames f = some x → Quiet filled →
      Moves (.stackCacheFillComplete cid data md) s fun m => m = filled ∧ Tbl.find? m.mem.nvme cid = none ∧
        Tbl.find? m.mem.frames f = some { x with states := readStates (x.blk * 16) 16 true data md, filling := false }) ∧
    (has → c.purpose = .frameFill f → accepting n = false → Moves (.stackCacheFillComplete cid data md) s fun m => m = n) ∧
    (has → (c.purpose = .flush ∨ (∃ k, c.purpose = .frameWrite k) ∨ ∃ k, c.purpose = .release k) → Quiet done →
      Moves (.nvmeCompletion cid true data md) s fun m => m = done ∧ Tbl.find? m.mem.nvme cid = none ∧ m.mem.frames = n.mem.frames) ∧
    (has → c.purpose = .directWrite b → Moves (.nvmeCompletion cid true data md) s fun m => m = settle (writeBack done b)) ∧
    (∀ ok, has → c.purpose = .directRead b → (directRead done b ok data md).2 = true → Moves (.nvmeCompletion cid ok data md) s fun m =>
      m = settle (directRead done b ok data md).1) ∧
    (∀ ok, Tbl.find? n.mem.nvme cid = none → Moves (.nvmeCompletion cid ok data md) s fun m => m = n) ∧
    (has → (∀ k, c.purpose ≠ .abort k) → (dportAt n c.port).timeouts = 0 → Moves (.nvmeTimeout cid) s fun m =>
      m = reissue (abortNvme late cid c) cid c ∧ m.mem.nextCid = n.mem.nextCid + 2 ∧ m.mem.frames = n.mem.frames ∧ m.mem.plain = n.mem.plain ∧
      (∃ o, m.out = n.out ++ [.nvme c.port n.mem.nextCid 8 cid 0 false [] [], o])) ∧
    (has → 1 ≤ (dportAt n c.port).timeouts → Moves (.nvmeTimeout cid) s fun m => m = driveLost late c.port) ∧
    (Tbl.find? n.mem.nvme cid = none → Moves (.nvmeTimeout cid) s fun m => m = n) ∧
    (Moves (.driveRemoved d) s fun m =>
      let gone := setDport n d.val { q with status := putField q.status 2 2 0 }
      m = if fieldOf q.status 1 0 = 2 then driveLost gone d.val else gone) ∧
    (∀ trained fmtOk, (accepting n = false ∨ fieldOf q.status 1 0 = 2) → Moves (.driveAdded d trained fmtOk nsBlocks queues dz) s fun m => m = n) ∧
    (accepting n = true → fieldOf q.status 1 0 ≠ 2 → bitOf q.cfgLive 0 = true → Quiet n →
      Moves (.driveAdded d true true nsBlocks queues dz) s fun m => fieldOf (dportAt m d.val).status 1 0 = 2 ∧
        (dportAt m d.val).nsBlocks = nsBlocks ∧ (dportAt m d.val).queues = min queues 64 ∧ (dportAt m d.val).timeouts = 0 ∧
        m = setDport n d.val (dportAt m d.val)) ∧
    (∀ trained fmtOk, accepting n = true → fieldOf q.status 1 0 ≠ 2 → bitOf q.cfgLive 0 = true → (trained && fmtOk) = false →
      Moves (.driveAdded d trained fmtOk nsBlocks queues dz) s fun m => fieldOf (dportAt m d.val).status 1 0 = 0 ∧ bitOf m.log.alert alDrive = true ∧
        m.mem.plain = n.mem.plain ∧ m.mem.frames = n.mem.frames ∧ m.ctxs = n.ctxs)

/-- R297, R298, R626: a lender's last bytes of a block make its lines readable once there is room; earlier ones are kept. A refused read
leaves the block to the mirror, a refused write is logged, and RETRY leaves the packet to its re-send. -/
def Obligations.LendersAnswer : Prop :=
  ∀ (p : Packet) (a : Node) (u : Unanswered) (b : Nat) (io : LenderIo) (leg : Nat × Nat) (s : State),
    let st := p.status.toNat
    let came := (p.opcode = 1 ∨ p.opcode = 2) ∧ (p.cls = 2 ∨ p.cls = 3) ∧ accepting s.nd = true ∧ Arrives s.nd p a ∧ sentFor a p = some u ∧
      u.purpose = .lender b
    let with_ := fun (n : Node) t => { n with mem := { n.mem with lentIo := t } }
    let got := { io with legs := io.legs.erase leg, data := overlayAt io.data leg.2 (sliceOf (payloadOf p) 0 (maxPayload a)) }
    let reads := came ∧ p.opcode = 1 ∧ st ≠ stRetry ∧ Tbl.find? a.mem.lentIo b = some io ∧ io.legs.find? (fun l => l.1 == reqSeq p) = some leg
    (came → st = stRetry → Moves (.lenderResponse p) s fun m => m = settleSent a p) ∧
    (came → p.opcode = 2 → st = stOK → Quiet (settleSent a p) → Moves (.lenderResponse p) s fun m => m = settleSent a p ∧ m.log = a.log) ∧
    (came → p.opcode = 2 → st ≠ stOK → st ≠ stRetry → Moves (.lenderResponse p) s fun m =>
      m = settle (logEvent (settleSent a p) { otherEvent 4 3 with node := p.src.toNat, status := st, data0 := b * 4096 })) ∧
    (reads → st = stOK → got.legs ≠ [] → Moves (.lenderResponse p) s fun m => m = with_ (settleSent a p) (Tbl.put a.mem.lentIo b got)) ∧
    (reads → st = stOK → got.legs = [] → (lentArrived a b got).2 = true → Moves (.lenderResponse p) s fun m =>
      ∃ z, z = settleSent (lentArrived a b got).1 p ∧ m = settle (with_ z (Tbl.del z.mem.lentIo b))) ∧
    (∀ ctx r, reads → st ≠ stOK → spanOf a (b * 64) = some (ctx, r) → Moves (.lenderResponse p) s fun m =>
      m = settle (blockUnreadable (openSlice (with_ (settleSent a p) (Tbl.del a.mem.lentIo b)) b).1 ctx r b))

/-! ### Faults, tiles and patrols (R17–R20, R29–R32, R88, R156, R245, R470–R486, R491–R498) -/

/-- R22, R88, R156, R245, R470–R472, R474, R477–R479, R482, R483: a residue mismatch counts in the tile's bin for its band and class, and the second
one on a lane slice takes one of its spares. A corrected error counts there and for its row. A mesh replay changes nothing until the
eighth repeat, which fails the module, and so do a containment that takes too long and an error in a chip-level structure. An
uncorrectable error in a region's request state contains the region; one in a cached table drops it; one in an arrival counter sets it to
the maximum and its error bit; one in both copies of a dedupe record drops the source's records. A line that no range covers is only
counted; a clean one in a slice leaves it. A region whose reset is complete accepts again. -/
def Obligations.ErrorsAreHandled : Prop :=
  ∀ (s : State) (t : TileId) (r : RegionId) (c : BitVec 16) (line : Nat),
    let n := s.nd
    let on := accepting n = true
    let h := tileAt n t.val
    let g := getAt n.flt.regions r.val RegionState.reset
    let ends := fun (i : Instr) (m : Node) => on → Still m → Quiet m → Runs i s fun u => u.nd = m ∧ OnlyBandRecord s u
    let count := fun (n : Node) (off : Nat) => bump (countBin n t.val) (tileFault t.val off) 1
    (∀ a k, ends (.residueMismatch t a k false) (count n 8)) ∧
    (∀ k, on → Still n → Quiet n → h.lanesOut < 8 → Runs (.residueMismatch t 3 k true) s fun u => OnlyBandRecord s u ∧
      (tileAt u.nd t.val).lanesOut = h.lanesOut + 1 ∧ (tileAt u.nd t.val).retired = h.retired ∧ (tileAt u.nd t.val).leaving = none ∧
      u.nd.flt.hremap = n.flt.hremap ∧ u.nd.mem = n.mem ∧ u.nd.power = n.power) ∧
    (ends (.correctedError t 0 none) (countBin (bump n (tileFault t.val 0) 1) t.val)) ∧
    (∀ site tries, tries < 8 → ends (.meshReplay site tries) n) ∧
    (∀ site tries, 8 ≤ tries → ends (.meshReplay site tries) (failModule n 23 site)) ∧
    (g.resetting = true → ends (.containmentTimeout r) (failModule n 24 r.val)) ∧
    (g.resetting = false → ends (.containmentTimeout r) n) ∧
    (ends (.uncorrectableStateError .chip) (failModule n 22 0)) ∧
    (ends (.uncorrectableStateError .cached) { n with ctxs := { n.ctxs with xlate := [] } }) ∧
    (∀ x z, ends (.uncorrectableStateError (.range x z false)) n) ∧
    (∀ x z, ends (.uncorrectableStateError (.range x z true)) (failModule n 22 0)) ∧
    (∀ x : NodeId, on → Still n → Quiet n → Runs (.uncorrectableStateError (.dedupe x true)) s fun u => OnlyBandRecord s u ∧
      u.nd.prs = { n.prs with wins := Tbl.del n.prs.wins x.toNat } ∧ u.nd.trk = n.trk ∧ u.nd.mem = n.mem ∧ u.nd.ctxs = n.ctxs) ∧
    (on → n.ctr.waits = [] → (counterOf n c.toNat).trig = none → Still n → Quiet n → Runs (.uncorrectableStateError (.counter c)) s fun u => OnlyBandRecord s u ∧
      (counterOf u.nd c.toNat).value = counterMax ∧ (counterOf u.nd c.toNat).err = true ∧
      (∀ k, k ≠ c.toNat → counterOf u.nd k = counterOf n k) ∧ u.nd.mem = n.mem ∧ u.nd.coh = n.coh) ∧
    (g.resetting = false → (n.flt.regions.toList.filter fun g => g.resetting).length < 2 → g.resets < cfgNum n 0x0302 →
      on → Still (contain n r.val false) → Quiet (contain n r.val false) → Runs (.uncorrectableStateError (.region r)) s fun u =>
        OnlyBandRecord s u ∧ u.nd = contain n r.val false ∧
        (getAt u.nd.flt.regions r.val RegionState.reset).resetting = true ∧ (getAt u.nd.flt.regions r.val RegionState.reset).resets = g.resets + 1) ∧
    (g.resetting = false → ends (.regionResetComplete r) n) ∧
    (g.resetting = true → n.rings = [] → on → Still n → Quiet n → Runs (.regionResetComplete r) s fun u => OnlyBandRecord s u ∧
      (getAt u.nd.flt.regions r.val RegionState.reset) = { g with resetting := false, ended := 0, masque := false } ∧
      u.nd.log.last = n.log.next ∧ u.nd.trk = n.trk ∧ u.nd.mem = n.mem) ∧
    (spanOf n line = none → on → Still n → Quiet n → Runs (.uncorrectableLine line .stack) s fun u => OnlyBandRecord s u ∧
      u.nd.mem = n.mem ∧ u.nd.coh = n.coh ∧ u.nd.trk = n.trk ∧ u.nd.log.last = n.log.next) ∧
    (∀ x b, spanOf n line = some x → x.2.resClass ≠ 2 → sliceBlock n (blkOf line) = some b → b.valid.testBit (line % 64) = true →
      b.dirty.testBit (line % 64) = false → b.pinned = false → on → Still n → Quiet n → Runs (.uncorrectableLine line .tile) s fun u =>
        OnlyBandRecord s u ∧ lineValid u.nd line = false ∧ u.nd.mem.stack = n.mem.stack ∧ u.nd.coh = n.coh ∧
        ∀ k, k ≠ line → lineValid u.nd k = lineValid n k)

/-- R28–R32, R484, R491–R498: a tile that leaves service with nothing in its slots' slices hands them to the next live tile of its region, and
its power domain goes off; retired, it is marked so. A gated tile comes back with the slots for which it stands first, and its domain on.
The last live tile of a region does not gate. Vigil's read counts, and the last line of stack memory completes a pass; the known-answer
test passes to the next tile in service. Masque, disabled, does nothing; without a target it counts a skipped injection, and a flip that
is corrected leaves nothing but its count. -/
def Obligations.TilesAndPatrols : Prop :=
  ∀ (s : State) (t : TileId) (cause : BitVec 8),
    let n := s.nd
    let h := tileAt n t.val
    let calm := accepting n = true ∧ Still n ∧ Quiet n
    let empty := n.mem.blocks = [] ∧ n.coh.lent = [] ∧ n.flt.moving = []
    let leaves := fun (u : State) (v : Nat) => (tileAt u.nd t.val).leaving = none ∧ ¬ u.nd.power.domains.contains (3 + t.val) ∧
      (∀ r k : Fin 8, slotTile u.nd r.val k.val = if slotTile n r.val k.val = t.val ∧ r.val = t.val / 8 then v else slotTile n r.val k.val) ∧
      u.nd.flt.moving = [] ∧ u.nd.mem = n.mem ∧ (∀ j : TileId, j ≠ t → tileAt u.nd j.val = tileAt n j.val) ∧ OnlyBandRecord s u
    let same := fun (u : State) => u.nd = n ∧ OnlyBandRecord s u
    (∀ v, calm → empty → h.retired = false → h.gated = false → successorTile n t.val = some v → Runs (.tileRetire t false cause) s fun u =>
      leaves u v ∧ (tileAt u.nd t.val).retired = true ∧ (tileAt u.nd t.val).gated = false) ∧
    (∀ v, calm → empty → h.retired = false → h.gated = false → successorTile n t.val = some v → Runs (.tileRetire t true cause) s fun u =>
      leaves u v ∧ (tileAt u.nd t.val).retired = false ∧ (tileAt u.nd t.val).gated = true) ∧
    (calm → successorTile n t.val = none → Runs (.tileRetire t true cause) s same) ∧
    (∀ gate, calm → h.retired = true → Runs (.tileRetire t gate cause) s same) ∧
    (calm → empty → h.gated = true → h.retired = false → Runs (.tileUngate t) s fun u =>
      (tileAt u.nd t.val).gated = false ∧ (tileAt u.nd t.val).returning = false ∧ u.nd.power.domains.contains (3 + t.val) = true ∧
      (∀ k : Fin 8, t.val / 8 * 8 + k.val ∈ slotsBack n t.val → slotTile u.nd (t.val / 8) k.val = t.val) ∧
      u.nd.flt.moving = [] ∧ u.nd.mem = n.mem ∧ (∀ j : TileId, j ≠ t → tileAt u.nd j.val = tileAt n j.val) ∧ OnlyBandRecord s u) ∧
    (calm → h.gated = false → Runs (.tileUngate t) s same) ∧
    (∀ line bad, calm → bitOf n.flt.vgLive 0 = false → Runs (.vigilPatrolRead line bad) s same) ∧
    (∀ line, calm → bitOf n.flt.vgLive 0 = true → line * 64 < denseBase → n.mem.badCheck = [] → Runs (.vigilPatrolRead line false) s fun u =>
      OnlyBandRecord s u ∧ u.nd.mem = n.mem ∧ u.nd.coh = n.coh ∧ u.nd.trk = n.trk ∧
      fieldOf u.nd.flt.vgPasses 31 0 = (if line * 64 + 64 = stackTop then (fieldOf n.flt.vgPasses 31 0 + 1) % 2 ^ 32 else fieldOf n.flt.vgPasses 31 0)) ∧
    (∀ fs, calm → bitOf n.flt.vgLive 1 = false → Runs (.knownAnswerTest fs) s same) ∧
    (∀ k, calm → bitOf n.flt.vgLive 1 = true →
      ((List.range 64).map fun k => (n.flt.katTile + k) % 64).find? (fun t => tileLive (tileAt n t)) = some k →
      Runs (.knownAnswerTest []) s fun u => u.nd.flt = { n.flt with katTile := (k + 1) % 64 } ∧ u.nd.mem = n.mem ∧ u.nd.log = n.log ∧ OnlyBandRecord s u) ∧
    (calm → bitOf n.flt.mqLive.1 0 = false → Runs .masqueInterval s same) ∧
    (∀ k, calm → bitOf n.flt.mqLive.1 0 = true → masqueKind n = some k → masqueTargets n k = 0 → Runs .masqueInterval s fun u =>
      u.nd.flt = { n.flt with mqKind := k, mqCount := putField n.flt.mqCount 63 32 (fieldOf n.flt.mqCount 63 32 + 1) } ∧ u.nd.mem = n.mem ∧
      u.nd.log.last = n.log.next ∧ OnlyBandRecord s u) ∧
    (∀ k, calm → bitOf n.flt.mqLive.1 0 = true → masqueKind n = some k → k ≤ 1 → masqueTargets n k ≠ 0 → n.ml.memb.suspended = false →
      (n.flt.regions.toList.any fun g => g.resetting) = false → Runs .masqueInterval s fun u =>
        u.nd.flt = { n.flt with mqKind := k, mqCount := putField n.flt.mqCount 31 0 (fieldOf n.flt.mqCount 31 0 + 1) } ∧ u.nd.mem = n.mem ∧
        u.nd.coh = n.coh ∧ u.nd.trk = n.trk ∧ OnlyBandRecord s u)

/-! ### The host bridge (R57, R186, R194–R196, R198, R200, R420) -/

/-- R176, R194, R198, R420: a host request whose DPA no window holds is counted and logged, a read of it with poisoned data and Cmp, a write
with Cmp. Inside a window, a read becomes a READ of the line, or a TILE_READ where it does not cache; a write becomes a WB_EVICT where the host
holds the line and gives it up, else a WRITE, one for each run of enabled bytes; all from the bridge's node to the home that the map names.
A speculative read is dropped; any other request is completed and logged. An answer gives the host its data, with the state that the grant
gives, or poison; a write its Cmp. RETRY waits for the re-send, MOVED goes to the new home, and data that a home denies waits for its
recall. Nothing is forwarded for a host that is lost. -/
def Obligations.HostRequestsAreServed : Prop :=
  ∀ (m : HostM2S) (w : BridgeWin) (h : Nat) (p : Packet) (a : Node) (r : HostReq) (s : State),
    let n := s.nd
    let on := hostServed n = true
    let b := bridgeId n
    let tag := m.tag.toNat
    let dpa := m.dpa.toNat / 64 * 64
    let pva := pvaFor w dpa
    let ctx := winCtx w
    let mapped := on ∧ windowFor n dpa = some w
    let routed := fun k => mapped ∧ engRoute n (BitVec.ofNat 16 ctx).toNat (wordOf (pva + k)).toNat 0 = .home h
    let asks := fun (x : Node) owed (p : Packet) => x.mem = n.mem ∧ x.coh = n.coh ∧ x.ctxs = n.ctxs ∧ x.bridge.holds = n.bridge.holds ∧
      ∃ q ∈ x.bridge.reqs, q.hostTag = tag ∧ q.owed = owed ∧ q.lostHome = 0 ∧ q.pkt = { p with
        dst := BitVec.ofNat 16 h, src := BitVec.ofNat 16 b, mapgen := BitVec.ofNat 32 (knownGen n (BitVec.ofNat 16 ctx).toNat), seq := BitVec.ofNat 32 (nextSeq n b h p.cls.toNat) }
    let quiet := ∀ z ∈ n.bridge.snoops, ¬ (z.fwd.ctx.toNat = ctx ∧ z.fwd.pva.toNat = pva)
    let line := sliceOf m.data 0 64
    let tells := fun (x y : Node) (l : List Out) => x = { y with out := y.out ++ l } 
    let st := p.status.toNat
    let drops := fun (n : Node) => dropHostReq n r
    let came := b ≠ 0 ∧ p.dst.toNat = b ∧ accepting n = true ∧ Arrives n p a ∧ p.opcode ≠ 0xB2
    let plain := came ∧ p.opcode ≠ 0x69 ∧ hostReqFor (settleSent a p) p = some r
    let acked := came ∧ p.opcode = 0x69 ∧ hostReqFor a p = some r ∧ r.owed = .evict
    (∀ d, on → windowFor n dpa = none → Moves (.hostMemrd m d) s fun x =>
      tells x (countHost n 0 m.dpa.toNat) [.host "MemData, poisoned" tag [], .host "Cmp" tag []]) ∧
    (on → windowFor n dpa = none → Moves (.hostMemwr m) s fun x => tells x (countHost n 0 m.dpa.toNat) [.host "Cmp" tag []]) ∧
    (∀ d, routed 0 → m.meta_ = 2 → Moves (.hostMemrd m d) s fun x => asks x .readAny (hostCaching w pva)) ∧
    (∀ d, routed 0 → m.meta_ = 3 → Moves (.hostMemrd m d) s fun x => asks x .readShared (hostCaching w pva)) ∧
    (∀ d, routed 0 → m.meta_ ≠ 2 → m.meta_ ≠ 3 → Moves (.hostMemrd m d) s fun x => asks x .readPlain (hostPlain w pva)) ∧
    (routed 0 → quiet → m.meta_ = 0 → hostOwns n ctx pva = true → Moves (.hostMemwr m) s fun x => asks x .evict (withPayload (hostPacket w 3 0x68 pva) line)) ∧
    (routed 0 → quiet → (m.meta_ ≠ 0 ∨ hostOwns n ctx pva = false) → Moves (.hostMemwr m) s fun x => asks x .write (withPayload (hostPacket w 0 2 pva) line)) ∧
    (mapped → (∃ z, n.bridge.snoops = [z] ∧ z.fwd.ctx.toNat = ctx ∧ z.fwd.pva.toNat = pva ∧ z.fwd.opcode ≠ 0x40) → Moves (.hostMemwr m) s fun x =>
      x.bridge.snoops.map (·.dirty) = [some line] ∧ x.out = n.out ++ [.host "Cmp" tag []] ∧ x.bridge.reqs = n.bridge.reqs) ∧
    (∀ i k, routed i → enabledRuns m.enables = [(i, k)] → Moves (.hostMemwrptl m) s fun x =>
      asks x .write (withPayload (hostPacket w 0 2 (pva + i)) (sliceOf m.data i k))) ∧
    (mapped → enabledRuns m.enables = [] → Moves (.hostMemwrptl m) s fun x => tells x n [.host "Cmp" tag []]) ∧
    (Moves (.hostMemspecrd m) s fun x => x = n) ∧
    (∀ o, on → Moves (.hostOtherM2s m o) s fun x => tells x (countHost n 1 o.toNat) [.host "Cmp" tag []]) ∧
    (∀ d o, hostServed n = false → Moves (.hostMemrd m d) s (· = n) ∧ Moves (.hostMemwr m) s (· = n) ∧ Moves (.hostMemwrptl m) s (· = n) ∧
      Moves (.hostOtherM2s m o) s (· = n)) ∧
    (plain → p.opcode = 1 → r.pkt.opcode = 1 → r.owed = .readAny → st = stOK → fieldOf p.op5 35 32 = 2 → Moves (.bridgeRequestResponse p) s fun x =>
      tells x (hostTakes (drops (settleSent a p)) r.pkt.ctx.toNat r.pkt.pva.toNat true)
        [.host "MemData" r.hostTag (sliceOf (payloadOf p) 0 64), .host "Cmp-E" r.hostTag []]) ∧
    (plain → p.opcode = 1 → r.pkt.opcode = 1 → (fieldOf p.op5 35 32 = 1 ∧ r.owed = .readAny ∨ (fieldOf p.op5 35 32 = 1 ∨ fieldOf p.op5 35 32 = 2) ∧ r.owed = .readShared) → st = stOK →
      Moves (.bridgeRequestResponse p) s fun x => tells x (hostTakes (drops (settleSent a p)) r.pkt.ctx.toNat r.pkt.pva.toNat (fieldOf p.op5 35 32 == 2))
        [.host "MemData" r.hostTag (sliceOf (payloadOf p) 0 64), .host "Cmp-S" r.hostTag []]) ∧
    (plain → r.pkt.opcode ≠ 1 → r.owed = .readPlain → st = stOK → Moves (.bridgeRequestResponse p) s fun x => tells x (drops (settleSent a p))
      [.host "MemData" r.hostTag (sliceOf (payloadOf p) 0 64), .host "Cmp" r.hostTag []]) ∧
    (plain → (r.owed = .readAny ∨ r.owed = .readShared ∨ r.owed = .readPlain) → st ≠ stOK → st ≠ stRetry → st ≠ stMoved →
      Moves (.bridgeRequestResponse p) s fun x =>
        tells x (drops (settleSent a p)) [.host "MemData, poisoned" r.hostTag [], .host "Cmp" r.hostTag []]) ∧
    (plain → r.owed = .write → st ≠ stRetry → st ≠ stMoved → (∀ z ∈ (drops (settleSent a p)).bridge.reqs, z.hostTag ≠ r.hostTag) →
      Moves (.bridgeRequestResponse p) s fun x => tells x (drops (settleSent a p)) [.host "Cmp" r.hostTag []]) ∧
    (acked → st = stOK → (∀ z ∈ (drops a).bridge.reqs, z.hostTag ≠ r.hostTag) → Moves (.bridgeRequestResponse p) s fun x =>
      tells x (drops (hostDrops a r.pkt.ctx.toNat r.pkt.pva.toNat)) [.host "Cmp" r.hostTag []]) ∧
    (acked → st = stDenied → Moves (.bridgeRequestResponse p) s fun x => { r with asked := true } ∈ x.bridge.reqs ∧ x.out = a.out ∧
      x.bridge.holds = a.bridge.holds) ∧
    (acked → st = stRetry → Moves (.bridgeRequestResponse p) s fun x => x = transmit a r.pkt) ∧
    (plain → st = stRetry → Moves (.bridgeRequestResponse p) s fun x => x = settleSent a p) ∧
    (plain → st = stMoved → Moves (.bridgeRequestResponse p) s fun x => x = reroute (settleSent a p) r (newerGen r.pkt.mapgen.toNat p.mapgen.toNat))

/-- R57, R122, R185, R186, R195, R196, R200, R413: a FWD packet becomes a back-invalidate snoop of the host's line; where no window maps
it, or its WB_EVICT is out, it is answered at once, and data that the home denied goes back then. A BIRsp answers it, with the data the
host returned. A host that is lost leaves the bridge nothing, and its node is reported; enumerated again, it joins with new pairs. A CMP
write of 32 bytes to a slot reaches host memory and sends its vector, or leaves it pending; any other is counted and dropped; each is
acknowledged. Unmasking a vector sends it if it pends. -/
def Obligations.HostIsSnoopedAndTold : Prop :=
  ∀ (p : Packet) (a : Node) (w : BridgeWin) (z : BridgeSnoop) (r : HostReq) (d : Bytes) (v : Fin 2048) (s : State),
    let n := s.nd
    let on := hostServed n = true
    let b := bridgeId n
    let ctx := p.ctx.toNat
    let pva := p.pva.toNat
    let came := b ≠ 0 ∧ p.dst.toNat = b ∧ Arrives n p a
    let snoops := came ∧ p.cls = 1 ∧ on
    let evicting := p.opcode ≠ 0x40 ∧ evictOf a ctx pva = some r
    let free := p.opcode = 0x40 ∨ evictOf a ctx pva = none
    let heard := on ∧ n.bridge.snoops.find? (fun s => s.fwd.ctx.toNat == ctx && s.fwd.pva.toNat == pva) = some z
    let left := { n with bridge := { n.bridge with snoops := n.bridge.snoops.erase z } }
    let slot := pva % 32 = 0 ∧ pva < 65536 ∧ p.len = 32 ∧ hasPayload p = true ∧ bitOf a.bridge.ntfLive.1 0 = true
    let told := { a with out := a.out ++ [Out.host "memory write" (a.bridge.ntfLive.2.toNat + pva) (sliceOf (payloadOf p) 0 32)] }
    (snoops → free → windowTo a ctx pva = some w → Moves (.bridgeFwdSnoop p) s fun m =>
      m.bridge.snoops = a.bridge.snoops ++ [{ fwd := p, dirty := none }] ∧ m.prs = a.prs ∧
      m.out = a.out ++ [.host (if p.opcode = 0x42 then "BISnpData" else "BISnpInv") (winDpa w + (pva - winPva w)) []]) ∧
    (snoops → free → windowTo a ctx pva = none → Moves (.bridgeFwdSnoop p) s fun m => m = answerSnoop a p 0x60 none) ∧
    (snoops → evicting → r.asked = false → Moves (.bridgeFwdSnoop p) s fun m => m = answerSnoop a p 0x64 none) ∧
    (snoops → evicting → r.asked = true → Moves (.bridgeFwdSnoop p) s fun m => m = hostWritten (dropHostReq (hostDrops
      (answerSnoop a p 0x61 (some (sliceOf (payloadOf r.pkt) 0 64))) ctx pva) r) r.hostTag) ∧
    (heard → (z.fwd.opcode = 0x40 ∨ z.fwd.opcode = 0x41) → z.dirty = none → Moves (.hostBirsp p.pva p.ctx false none) s fun m =>
      m = answerSnoop (hostDrops left ctx pva) z.fwd 0x60 none) ∧
    (heard → z.fwd.opcode = 0x41 → z.dirty = some d → Moves (.hostBirsp p.pva p.ctx false none) s fun m =>
      m = answerSnoop (hostDrops left ctx pva) z.fwd 0x61 (some d)) ∧
    (heard → z.fwd.opcode = 0x42 → z.dirty = none → Moves (.hostBirsp p.pva p.ctx true none) s fun m =>
      m = answerSnoop (hostTakes left ctx pva false) z.fwd 0x62 none) ∧
    (heard → z.fwd.opcode = 0x42 → Moves (.hostBirsp p.pva p.ctx true (some d)) s fun m =>
      m = answerSnoop (hostTakes left ctx pva false) z.fwd 0x63 (some (sliceOf d 0 64))) ∧
    (∀ sh, n.bridge.snoops = [] → Moves (.hostBirsp p.pva p.ctx sh none) s fun m => m = n) ∧
    (∀ t, on → Moves (.hostBiconflict t) s fun m => m = { n with out := n.out ++ [.host "BIConflictAck" t.toNat []] }) ∧
    (b ≠ 0 → on → Moves .bridgeHostLost s fun m => m.bridge.hostUp = false ∧ m.bridge.reqs = [] ∧ m.bridge.snoops = [] ∧ m.bridge.holds = [] ∧
      m.log.last = n.log.next ∧ m.mem = n.mem ∧ m.coh = n.coh) ∧
    (b ≠ 0 → on → n.bridge.snoops ≠ [] → Moves .bisnpTimeout s fun m => m = loseHost n) ∧
    (n.bridge.snoops = [] → Moves .bisnpTimeout s fun m => m = n) ∧
    (b ≠ 0 → accepting n = true → n.bridge.hostUp = false → Moves .bridgeHostReenumerate s fun m => m.bridge.hostUp = true ∧
      m.prs.incarnation = (n.prs.incarnation + 1) % 2 ^ 32 ∧ m.mem = n.mem ∧ m.trk = n.trk) ∧
    (n.bridge.hostUp = true → Moves .bridgeHostReenumerate s fun m => m = n) ∧
    (came → p.cls = 4 → accepting n = true → slot → a.bridge.masked.contains (pva / 32) = false → Moves (.bridgeNotifyWrite p) s fun m =>
      m = sendRsp { told with out := told.out ++ [Out.msix (pva / 32)] } p stOK 0) ∧
    (came → p.cls = 4 → accepting n = true → slot → a.bridge.masked.contains (pva / 32) = true → a.bridge.pendingVec.contains (pva / 32) = false →
      Moves (.bridgeNotifyWrite p) s fun m =>
        m = sendRsp { told with bridge := { told.bridge with pendingVec := told.bridge.pendingVec ++ [pva / 32] } } p stOK 0) ∧
    (came → p.cls = 4 → accepting n = true → ¬ slot → Moves (.bridgeNotifyWrite p) s fun m => m = sendRsp (countHost a 2 pva) p stOK 0) ∧
    (Moves (.msixVectorUnmask v) s fun m => m = { n with
      bridge := { n.bridge with masked := n.bridge.masked.filter (· != v.val), pendingVec := n.bridge.pendingVec.filter (· != v.val) }
      out := n.out ++ if n.bridge.pendingVec.contains v.val then [Out.msix v.val] else [] })

/-! ### Maps and members (R408–R417) -/

/-- R408–R412, R417: MAP_CREATE from a driver makes a map of MAPGEN 1 without entries, at one of its three keepers, or with JOIN 1 a keeper that
fetches the image from KEEPER0; another sender is refused DENIED, a
map that is there INVALID, a 65th NO_RESOURCE. The lead offers a proposal that stands as the next generation, and refuses the others; with one
acceptance it commits, and the proposer hears once every module touched has applied the push. A keeper accepts only the generation after
its own, and one image of it. Subscribers come and go, at most 1,024; a fetch gets one push. A push whose CHECK fails is discarded and
logged, another is applied and acknowledged; what only modules send is discarded and logged when it comes from another node. -/
def Obligations.MapsAreKept : Prop :=
  ∀ (p : Packet) (a : Node) (k : KeptMap) (m' : MapImage) (st : Nat) (u : Unanswered) (s : State),
    let came := fun (o : Nat) => mgtServed s.nd = true ∧ p.cls = 5 ∧ p.opcode.toNat = o ∧ Arrives s.nd p a
    let w := fun (count i : Nat) => wordAt (mgtWords p count) i
    let ctxIn := fun (count : Nat) => fieldOf (w count 0) 15 0
    let gen := k.image.gen
    let src := p.src.toNat
    let kept := fun c => keptOf a c = some k
    let answers := fun (i : Instr) st g => Moves i s fun m => m = mapResult a p st g
    let ks := [fieldOf (w 3 0) 47 32, fieldOf (w 3 0) 63 48, fieldOf (w 3 1) 15 0]
    let keep := (w 3 2).toNat
    let creates := came 0x90 ∧ 24 ≤ (payloadOf p).length ∧ ctxIn 3 ≠ 0 ∧ fieldOf (w 3 0) 31 17 = 0 ∧ fieldOf (w 3 1) 63 16 = 0 ∧
      pvaBad (w 3 2) = false ∧ keep % 2 ^ 22 = 0 ∧ keepersClash a ks = false ∧ a.nodeId ∈ ks
    let held := ∃ r, rangeOf a (ctxIn 3) keep = some r ∧ r.mirrorRole = false ∧ r.departed = false ∧ r.r = true ∧ r.w = true ∧
      keep + 2 ^ 22 ≤ r.start + rangeBytes r
    let image : MapImage := { ctx := ctxIn 3, gen := 1, keepers := ks, entries := [] }
    let made : KeptMap := { image := image, keepPva := keep, subs := [], props := [], accepted := none, joining := false, unstored := true }
    let nops := fieldOf (w 4 0) 28 16
    let opws := (List.range nops).map fun i => bytesToWords 4 (((payloadOf p).drop 32).drop (32 * i))
    let proposes := came 0x91 ∧ kept (ctxIn 4) ∧ (isDriver a src = true ∨ isModule a src = true) ∧ 32 + 32 * nops ≤ (payloadOf p).length ∧ ctxIn 4 ≠ 0 ∧
      fieldOf (w 4 0) 63 29 = 0 ∧ 1 ≤ nops ∧ nops ≤ 127 ∧ fieldOf (w 4 1) 63 32 = 0 ∧ w 4 2 = 0 ∧ w 4 3 = 0 ∧
      (∀ o ∈ opws, opBad o = false) ∧ isLead a k = true ∧ k.accepted = none ∧ k.props = []
    let prop := { keepersProposal (opws.map mapEntryOf) [] with sender := src, tag := p.tag.toNat, seq := p.seq.toNat, expect := fieldOf (w 4 1) 31 0, via := src }
    let queued := setKept a (ctxIn 4) { k with props := [prop] }
    let whole := fun (t : Node) (bs : Bytes) => isModule a src = true ∧ takeTrain a p = (t, some bs)
    let follows := fun (t : Node) => keptOf t m'.ctx = some k ∧ k.joining = false ∧ m'.gen = stepGen gen ∧ src ∈ k.image.keepers
    let tell := fun (n : Node) o => sendPacket n (mgtPacket n src o [wordOf m'.ctx, wordOf m'.gen]) .protocol
    let others := k.subs.filter fun x => x.node != src
    let subs := came 0x93 ∧ kept (ctxIn 2) ∧ k.joining = false ∧ 16 ≤ (payloadOf p).length ∧ ctxIn 2 ≠ 0 ∧
      fieldOf (w 2 0) 63 17 = 0 ∧ fieldOf (w 2 1) 63 48 = 0 ∧ (w 2 1).toNat % 64 = 0
    (creates → keptOf a (ctxIn 3) = none → isDriver a src = true → held → a.ml.kept.length < 64 → bitOf (w 3 0) 16 = false → Moves (.mapCreate p) s fun m =>
      m = mapResult (storeKept (setKept a (ctxIn 3) made) (ctxIn 3)) p stOK 1) ∧
    (creates → keptOf a (ctxIn 3) = none → isDriver a src = true → held → a.ml.kept.length < 64 → bitOf (w 3 0) 16 = true → Moves (.mapCreate p) s fun m =>
      ∃ q, m = sendPacket (setKept a (ctxIn 3) q) (mgtPacket a (ks.getD 0 0) 0x94 [wordOf (ctxIn 3), 0]) .protocol ∧ q.joining = true ∧
        q.image.gen = 0 ∧ q.image.keepers = ks ∧ q.keepPva = keep ∧ q.props.map (fun x => (x.via, x.seq, x.tag)) = [(src, p.seq.toNat, p.tag.toNat)]) ∧
    (creates → keptOf a (ctxIn 3) = none → isDriver a src = false → answers (.mapCreate p) stDenied 0) ∧
    (creates → kept (ctxIn 3) → answers (.mapCreate p) stInvalid 0) ∧
    (creates → keptOf a (ctxIn 3) = none → isDriver a src = true → held → 64 ≤ a.ml.kept.length → answers (.mapCreate p) stNoResource 0) ∧
    (came 0x91 → keptOf a (ctxIn 4) = none → answers (.mapPropose p) stInvalid 0) ∧
    (came 0x91 → kept (ctxIn 4) → isDriver a src = false → isModule a src = false → answers (.mapPropose p) stDenied gen) ∧
    (proposes → proposalFault a { k with props := [prop] } prop = none → imageAfter a (proposerOf a prop) k.image prop.ops [] = some m' →
      Moves (.mapPropose p) s fun m => m = offerImage (setKept queued (ctxIn 4) { k with accepted := some m', props := [{ prop with gen := m'.gen }] }) { k with props := [prop] } m') ∧
    (proposes → proposalFault a { k with props := [prop] } prop = some st → Moves (.mapPropose p) s fun m =>
      m = answerProposal (setKept queued (ctxIn 4) { k with props := [] }) prop st gen) ∧
    (proposes → prop.expect ≠ 0 → prop.expect ≠ gen → Moves (.mapPropose p) s fun m =>
      m = answerProposal (setKept queued (ctxIn 4) { k with props := [] }) prop stAborted gen) ∧
    (∀ o, 0x96 ≤ o → o ≤ 0x9F → came o → isModule a src = false → Moves (.mapAgreement p) s fun m => m = foreignMgt a p) ∧
    (∀ t bs, came 0x96 → whole t bs → mapOfBytes bs = some m' → follows t → (k.accepted = none ∨ k.accepted = some m') →
      Moves (.mapAgreement p) s fun m => m = tell (setKept t m'.ctx { k with accepted := some m' }) 0x97) ∧
    (∀ t bs, came 0x96 → whole t bs → mapOfBytes bs = some m' → keptOf t m'.ctx = some k → (m'.gen ≠ stepGen gen ∨ ∃ x, k.accepted = some x ∧ x ≠ m') →
      Moves (.mapAgreement p) s fun m => m = tell t 0x98) ∧
    (came 0x97 → isModule a src = true → kept (ctxIn 2) → isLead a k = true → src ∈ k.image.keepers →
      k.accepted = some m' → m'.gen = (w 2 1).toNat → Moves (.mapAgreement p) s fun m => m = commitMap a (ctxIn 2)) ∧
    (came 0x99 → isModule a src = true → kept (ctxIn 2) → k.accepted = some m' → m'.gen = (w 2 1).toNat →
      Moves (.mapAgreement p) s fun m => m = storeKept (setKept a (ctxIn 2) { k with image := m', accepted := none, unstored := true }) (ctxIn 2)) ∧
    (came 0x92 → sentFor a p = none → Moves (.mapResult p) s fun m => m = a) ∧
    (∀ l, came 0x92 → sentFor a p = some u → u.purpose = .leap l → Moves (.mapResult p) s fun m =>
      m = settle (leapProposed (settleSent a p) l p.status.toNat p.mapgen.toNat)) ∧
    (∀ c x rest, came 0x92 → sentFor a p = some u → u.purpose = .protocol → u.pkt.opcode = 0x95 → numAt u.pkt.data 0 2 = c → keptOf (settleSent a p) c = some k →
      k.props = x :: rest → x.committed = true → Moves (.mapResult p) s fun m =>
        m = setKept (settleSent a p) c { k with props := { x with acks := x.acks.filter (· != src) } :: rest }) ∧
    (subs → bitOf (w 2 0) 16 = false → others.length < 1024 → Moves (.mapSubscribe p) s fun m =>
      m = mapResult (setKept a (ctxIn 2) { k with subs := others ++ [{ node := src, buf := (w 2 1).toNat }] }) p stOK gen) ∧
    (subs → bitOf (w 2 0) 16 = false → 1024 ≤ others.length → answers (.mapSubscribe p) stNoResource gen) ∧
    (subs → bitOf (w 2 0) 16 = true → Moves (.mapSubscribe p) s fun m => m = mapResult (setKept a (ctxIn 2) { k with subs := others }) p stOK gen) ∧
    (came 0x94 → keptOf a (ctxIn 2) = none → answers (.mapFetch p) stInvalid 0) ∧
    (came 0x94 → kept (ctxIn 2) → k.joining = false → 16 ≤ (payloadOf p).length → ctxIn 2 ≠ 0 → fieldOf (w 2 0) 63 16 = 0 →
      fieldOf (w 2 1) 63 48 = 0 → (w 2 1).toNat % 64 = 0 → Moves (.mapFetch p) s fun m =>
        m = pushImage a src (w 2 1).toNat (some p) k.image) ∧
    (came 0x95 → isModule a src = false → Moves (.mapPush p) s fun m => m = foreignMgt a p) ∧
    (∀ t bs, came 0x95 → whole t bs → mapOfBytes bs = none → Moves (.mapPush p) s fun m => m = logEvent t { otherEvent 6 16 with node := src }) ∧
    (∀ t bs, came 0x95 → whole t bs → mapOfBytes bs = some m' → Moves (.mapPush p) s fun m =>
      m = afterMap (mapResult (pushToImages (pushToHome (pushToKeeper (settleFetch t p m'.ctx) m') m') m') p stOK m'.gen)) ∧
    (∀ (c : BitVec 16) x, mgtServed s.nd = true → keptOf s.nd c.toNat = some k → k.props = [x] → x.committed = true → x.acks = [] →
      Moves (.mapChangeEffect c) s fun m => m = leadOn (answerProposal (setKept s.nd c.toNat { k with props := [] }) x stOK gen) c.toNat) ∧
    (∀ (c : BitVec 16) x rest, keptOf s.nd c.toNat = some k → k.props = x :: rest → x.acks ≠ [] → Moves (.mapChangeEffect c) s fun m => m = s.nd)

/-- R376, R413–R416, R566: a keeper acknowledges a member's beat and withdraws its own suspicion of it; it takes a joiner among the members
and answers it, unless fewer than two keepers live. A module of which two keepers have answered the join is a member, and hears them in
both groups; the second answer to a beat ends its suspension, and BEAT_MISS beats without two answers suspend it. A keeper that misses a
member's beats, or hears of its loss from another member, tells the other keepers; two suspicions declare the member lost under a
new VIEW. Only keepers' declarations count; the module that is declared lost itself fails. -/
def Obligations.MembersJoinAndAreLost : Prop :=
  ∀ (p : Packet) (a : Node) (x y : Nat) (mb : Member) (u : Unanswered) (s : State),
    let on := fun (o : Nat) => mgtServed s.nd = true ∧ p.cls = 5 ∧ p.opcode.toNat = o ∧ Arrives s.nd p a
    let came := fun o => on o ∧ p.src.toNat = x
    let w := wordAt (mgtWords p 1) 0
    let word := 8 ≤ (payloadOf p).length
    let memb := a.ml.memb
    let tell := fun (n : Node) => sendPacket n { withPayload (responseTo n p 5 stOK) (wordsToBytes [wordOf n.ml.memb.view]) with opcode := 0xA1 } .none
    let is := fun (n : Node) z => Tbl.find? n.ml.memb.members z = some mb
    let keeper := fun (n : Node) => isMembKeeper n = true
    let acked := on 0xA1 ∧ sentFor a p = some u ∧ p.src.toNat = x ∧ x ∈ a.alm.membKeepers ∧ p.dst.toNat = a.nodeId
    let ackers := answers a (memb.beatAcks ++ [x])
    let marked := fun (n : Node) => tellSuspicion (markSuspect n y n.nodeId false) y false
    (came 0xA0 → is a x → keeper a → a.nodeId ∉ mb.suspects → Moves (.membBeat p) s fun m => m = tell a) ∧
    (came 0xA0 → is a x → keeper a → a.nodeId ∈ mb.suspects → Moves (.membBeat p) s fun m => m = tell (tellSuspicion (markSuspect a x a.nodeId true) x true)) ∧
    (came 0xA0 → Tbl.find? memb.members x = none → Moves (.membBeat p) s fun m => m = a) ∧
    (came 0xA2 → ¬ word → Moves (.membJoin p) s fun m => m = logEvent a { otherEvent 6 17 with node := x }) ∧
    (came 0xA2 → word → fieldOf w 63 17 = 0 → isGroup x = false → keepersShort a = true → Moves (.membJoin p) s fun m => m = a) ∧
    (came 0xA2 → word → fieldOf w 63 17 = 0 → isGroup x = false → keepersShort a = false → keeper a → Moves (.membJoin p) s fun m =>
      Tbl.find? m.ml.memb.members x = some { domain := fieldOf w 15 0, sx96 := bitOf w 16, suspects := [] } ∧ x ∉ m.ml.memb.lost ∧
      m.ml.memb.view = max memb.view 1 ∧ m.mem = a.mem ∧ m.ctxs = a.ctxs ∧ m.trk = a.trk) ∧
    (acked → u.pkt.opcode = 0xA2 → memb.joined = false → x ∉ memb.joinAcks → (answers a (memb.joinAcks ++ [x])).length < 2 → Runs (.membAck p) s fun t =>
      t.nd.ml.memb = { memb with joinAcks := memb.joinAcks ++ [x] } ∧ t.nd.power = a.power ∧ t.hl = s.hl ∧ t.pending = s.pending) ∧
    (acked → u.pkt.opcode = 0xA2 → memb.joined = false → x ∉ memb.joinAcks → 2 ≤ (answers a (memb.joinAcks ++ [x])).length → a.power.standbyWaits = false →
      Runs (.membAck p) s fun t =>
      t.nd.ml.memb.joined = true ∧ t.nd.ml.memb.groups = [0xFFF0, 0xFFF1] ∧ t.nd.ml.memb.suspended = false ∧
      t.nd.ml.memb.view = max 1 (max memb.view (fieldOf w 31 0)) ∧ t.pending = s.pending ∧
        (a.power.state = 0 → 7 ∈ a.power.stepsDone → 8 ∉ a.power.stepsDone → t.nd.power.state = 2)) ∧
    (acked → u.pkt.opcode = 0xA0 → x ∉ memb.beatAcks → ackers.length < 2 → Moves (.membAck p) s fun m =>
      m.ml.memb = { memb with beatAcks := memb.beatAcks ++ [x] } ∧ m.mem = a.mem) ∧
    (acked → u.pkt.opcode = 0xA0 → x ∉ memb.beatAcks → 2 ≤ ackers.length → memb.suspended = false → Moves (.membAck p) s fun m =>
      m.ml.memb = { memb with beatAcks := memb.beatAcks ++ [x], missed := 0, suspended := false } ∧ m.mem = a.mem) ∧
    (acked → u.pkt.opcode = 0xA0 → x ∉ memb.beatAcks → 2 ≤ ackers.length → memb.suspended = true → Moves (.membAck p) s fun m =>
      ∃ n, n.ml.memb = { memb with beatAcks := memb.beatAcks ++ [x], missed := 0, suspended := false } ∧ n.mem = a.mem ∧ n.ctxs = a.ctxs ∧
        m = settle (loseMirrors n)) ∧
    (on 0xA1 → sentFor a p = none → Moves (.membAck p) s fun m => m = a) ∧
    (s.nd.ml.memb.joined = false → Moves .beatPeriodTimer s fun m => m = s.nd) ∧
    (s.nd.ml.memb.joined = true → s.nd.power.failed = false → s.nd.power.refclk = true → 2 ≤ s.nd.power.state → s.nd.power.entry < 4 →
      Moves .beatPeriodTimer s fun m =>
        let b := s.nd.ml.memb
        let missed := if b.beaten = true ∧ (answers s.nd b.beatAcks).length < 2 then b.missed + 1 else if b.beaten then 0 else b.missed
        m.ml.memb = { b with missed := missed, beatAcks := [], beaten := true, suspended := b.suspended || decide (beatMiss s.nd ≤ missed) } ∧
        m.mem = s.nd.mem ∧ m.trk = s.nd.trk) ∧
    (∀ z : NodeId, z.toNat = y → is s.nd y → keeper s.nd → s.nd.nodeId ∉ mb.suspects → mb.suspects = [] → Moves (.memberSuspectTimer z) s fun m => m = marked s.nd) ∧
    (∀ z : NodeId, z.toNat = y → is s.nd y → keeper s.nd → s.nd.nodeId ∉ mb.suspects → mb.suspects ≠ [] → keepersShort s.nd = false →
      Runs (.memberSuspectTimer z) s fun t =>
        let n := onMemb (marked s.nd) fun m => { m with view := (s.nd.ml.memb.view + 1) % 2 ^ 32 }
        t = applyLoss y ((s.nd.ml.memb.view + 1) % 2 ^ 32)
          { s with nd := sendPacket n (mgtPacket n 0xFFF0 0xA4 [wordOf (y + (s.nd.ml.memb.view + 1) % 2 ^ 32 * 2 ^ 32)]) .protocol }) ∧
    (∀ z : NodeId, Tbl.find? s.nd.ml.memb.members z.toNat = none → Moves (.memberSuspectTimer z) s fun m => m = s.nd) ∧
    (came 0xA3 → word → fieldOf w 63 16 = 0 → fieldOf w 15 0 = y → (Tbl.find? memb.members x).isSome → is a y → keeper a → mb.suspects = [] →
      Moves (.membReport p) s fun m => m = marked a) ∧
    (came 0xA3 → x ≠ a.nodeId → Tbl.find? memb.members x = none → Moves (.membReport p) s fun m => m = logEvent a { otherEvent 6 19 with node := x }) ∧
    (∀ k, (k = 0xA4 ∨ k = 0xA5 ∨ k = 0xA6) → came k → x ∉ a.alm.membKeepers →
      Moves (if k = 0xA4 then .membLost p else .membAgreement p) s fun m => m = foreignMgt a p) ∧
    (came 0xA4 → x ∈ a.alm.membKeepers → fieldOf w 15 0 = a.nodeId → a.power.entry ≠ 4 → a.power.failed = false → Moves (.membLost p) s fun m =>
      m.power.failed = true ∧ m.ml.memb.joined = false ∧ bitOf m.log.alert alFailed = true ∧ m.mem = a.mem) ∧
    (came 0xA4 → x ∈ a.alm.membKeepers → Runs (.membLost p) s fun t => t = applyLoss (fieldOf w 15 0) (fieldOf w 63 32) { s with nd := a }) ∧
    (came 0xA5 → x ∈ a.alm.membKeepers → keeper a → fieldOf w 15 0 = y → is a y → mb.suspects = [] → Moves (.membAgreement p) s fun m =>
      m = markSuspect a y x (bitOf w 16)) ∧
    (∀ t bs, came 0xA6 → x ∈ a.alm.membKeepers → takeTrain a p = (t, some bs) → Moves (.membAgreement p) s fun m => m = takeMembers t bs)

/-! ### Images and security (R549–R552, R571–R597) -/

/-- R576–R580, R585–R594: requests submitted in one mailbox transfer. While another runs, CMD_ERR; a malformed one is INVALID. IMG_OPEN opens a session
and, for firmware, erases the inactive slot; the image area takes the word that continues it; IMG_STAGE verifies it and marks the slot, or the
Almanac copy; IMG_UNSTAGE takes the mark away. ATTEST makes the report. PRES_CLOSE closes the presence window, without which OWNER_SET,
BIND_SET, DEBUG_UNLOCK and FACTORY_RESET are refused, as the open seal and a signature that fails refuse the first three; they install the
owner's key, REQUIRE_BIND, the debug path; FACTORY_RESET takes the owner, and both Almanac copies, away. -/
def Obligations.SecurityRequestsRun : Prop :=
  ∀ (req : RequestWords) (x : ImgSession) (k : Bytes) (s : State),
    let rop := ropOf req
    let c := s.hl.sec
    let len := fieldOf (wordAt req 1) 31 0
    let up := aonUp s = true ∧ mbxBusy s = false ∧ s.hl.restarting = false ∧ romOnly s = false
    let rows : List (Instr × Nat) := [(.imgOpenFirmware req, 1), (.imgOpenAlmanac req, 1), (.imgStage req, 2), (.imgPush req, 3), (.imgUnstage req, 4),
      (.relay req, 5), (.attest req, 8), (.presClose req, 9), (.ownerSet req, 16), (.bindSet req, 17), (.debugUnlock req, 18), (.factoryReset req, 19),
      (.almanacCopy req, 20)]
    let ends := fun (t : State) (st : Nat) => bitOf t.hl.mbx.stat 0 = false ∧ bitOf t.hl.mbx.stat 1 = true ∧ fieldOf t.hl.mbx.stat 15 8 = st ∧
      t.hl.sec.lastRop = rop ∧ t.hl.sec.lastStatus = st ∧ t.pending = s.pending ∧ t.nd.mem = s.nd.mem ∧ t.nd.ctxs = s.nd.ctxs ∧ t.hl.sec.fuses = c.fuses
    let only := fun (t : State) st => ends t st ∧ t.hl.flash = s.hl.flash ∧ t.hl.session = s.hl.session
    let refused := fun (t : State) st => only t st ∧ t.hl.sec = { c with lastRop := rop, lastStatus := st }
    let is := fun r => up ∧ rop = r ∧ requestOk req = true
    let erased := fun (t : State) (a n : Nat) => ∀ i, a ≤ i → i < a + n → memGet 0xFF t.hl.flash i = 0xFF
    let signedAt := fun n => if owned s = true then sigOk s req n = true else sigBlank req n = true
    let may := fun n => signedAt n ∧ c.unsealed = false ∧ c.presOpen = true
    let redrawn := fun (t : State) => owned s = true → t.hl.sec.challenge = Config.challenge c.challenges
    (∀ e ∈ rows, rop ≠ e.2 → Runs e.1 s (· = s)) ∧
    (∀ e ∈ rows, rop = e.2 → (e.2 = 1 → e.1 = (if kindOf req = 0 then Instr.imgOpenFirmware req else .imgOpenAlmanac req)) → aonUp s = true → mbxBusy s = true →
      Runs e.1 s (· = { s with hl := { s.hl with mbx := { s.hl.mbx with stat := putField s.hl.mbx.stat 2 2 1 } } })) ∧
    (∀ e ∈ rows, rop = e.2 → e.2 ≠ 1 → e.2 ≠ 5 → up → requestOk req = false → Runs e.1 s (refused · stInvalid)) ∧
    (is 1 → kindOf req = 0 → 4096 ≤ len → len ≤ 0x3000000 → Runs (.imgOpenFirmware req) s fun t => ends t stOK ∧
      t.hl.session = some (freshSession 0 len 0 0 0 false) ∧ t.hl.sec.pending = false ∧ erased t (slotBase (!c.active)) 0x3000000) ∧
    (is 1 → kindOf req = 0 → (len < 4096 ∨ 0x3000000 < len) → Runs (.imgOpenFirmware req) s (refused · stInvalid)) ∧
    (is 1 → kindOf req = 1 → 64 ≤ len → len ≤ 0x40000 → c.unsealed = false → Runs (.imgOpenAlmanac req) s fun t => ends t stOK ∧
      t.hl.session = some (freshSession 1 len 0 0 0 false) ∧ t.hl.flash = s.hl.flash) ∧
    (is 1 → kindOf req = 1 → 64 ≤ len → len ≤ 0x40000 → c.unsealed = true → Runs (.imgOpenAlmanac req) s (refused · stUnsealed)) ∧
    (∀ w, aonUp s = true → mbxBusy s = false → s.hl.restarting = false → s.hl.session = some x → x.session = 0 → x.bytes.length + 8 ≤ x.length →
      Runs (.imageAreaWrite (0x1000000 + x.bytes.length) w) s fun t =>
        t.hl.session = some { x with bytes := x.bytes ++ leBytes 8 w.toNat, staged := false } ∧ fieldOf t.hl.mbx.stat 15 8 = stOK ∧
        t.hl.mbx.addr = wordOf (0x1000000 + x.bytes.length + 8) ∧ t.nd = s.nd ∧ t.hl.flash = s.hl.flash) ∧
    (∀ o w, aonUp s = true → mbxBusy s = false → s.hl.restarting = false → (s.hl.session = none ∨ s.hl.session = some x ∧ o ≠ 0x1000000 + x.bytes.length) →
      Runs (.imageAreaWrite o w) s fun t => t.hl.session = s.hl.session ∧ fieldOf t.hl.mbx.stat 15 8 = stInvalid ∧ t.nd = s.nd ∧ t.hl.flash = s.hl.flash) ∧
    (is 2 → s.hl.session = none → Runs (.imgStage req) s (refused · stInvalid)) ∧
    (is 2 → s.hl.session = some x → x.session = 0 → x.kind = 0 → verifyImage (sessionImage x) x.bytes.length c = stOK → Runs (.imgStage req) s fun t =>
      ends t stOK ∧ t.hl.sec.pending = true ∧ ∃ y, t.hl.session = some y ∧ y.staged = true ∧ y.bytes = x.bytes ∧ t.nd.log.last = s.nd.log.next + 1) ∧
    (∀ st, st < 256 → st ≠ stOK → is 2 → s.hl.session = some x → x.session = 0 → x.kind = 0 → verifyImage (sessionImage x) x.bytes.length c = st →
      Runs (.imgStage req) s (refused · st)) ∧
    (is 2 → s.hl.session = some x → x.session = 0 → x.kind = 1 → almanacStatus s x = stOK → Runs (.imgStage req) s fun t =>
      ends t stOK ∧ t.hl.session = some { x with staged := true } ∧ t.nd.alm = s.nd.alm) ∧
    (is 4 → Runs (.imgUnstage req) s fun t => ends t stOK ∧ t.hl.sec.pending = false ∧ (∀ y, t.hl.session = some y → y.kind = 0 → y.staged = false)) ∧
    (is 8 → c.cleared = true ∨ c.identity = false → Runs (.attest req) s (refused · stDenied)) ∧
    (is 8 → c.cleared = false → c.identity = true → Runs (.attest req) s fun t => only t stOK ∧
      t.hl.sec = { c with report := attestReport s (wordsToBytes (req.drop 1)), lastRop := rop, lastStatus := stOK }) ∧
    (is 9 → Runs (.presClose req) s fun t => only t stOK ∧ t.hl.sec = { c with presOpen := false, lastRop := rop, lastStatus := stOK }) ∧
    (is 16 → signedAt 14 → (c.unsealed = true → c.sealOk = true) → c.presOpen = true → ownerKey s req = some k → Runs (.ownerSet req) s fun t => only t stOK ∧
      t.hl.sec.ownerPub = wordsToBytes ((req.drop 1).take 4) ∧ t.hl.sec.storageKey = k ∧ t.hl.sec.wrapped = kwWrap (secretKey "SX96-OWN") k ∧
      t.hl.sec.unsealed = false ∧ redrawn t) ∧
    (is 16 → (owned s = true ∨ sigBlank req 14 = true) → c.unsealed = false → c.presOpen = false → Runs (.ownerSet req) s fun t =>
      only t stPresence ∧ t.hl.sec.ownerPub = c.ownerPub ∧ redrawn t) ∧
    (is 17 → may 2 → Runs (.bindSet req) s fun t => only t stOK ∧ t.hl.sec.requireBind = bitOf (wordAt req 1) 0 ∧ redrawn t) ∧
    (is 17 → owned s = true → sigOk s req 2 = false → c.unsealed = false → c.presOpen = true → Runs (.bindSet req) s fun t =>
      only t stDenied ∧ t.hl.sec.requireBind = c.requireBind ∧ redrawn t) ∧
    (is 18 → may 1 → 2 ≤ s.nd.power.state → Runs (.debugUnlock req) s fun t => only t stOK ∧ t.hl.sec.debugOpen = true ∧ redrawn t) ∧
    (is 18 → (owned s = true ∨ sigBlank req 1 = true) → c.unsealed = true → Runs (.debugUnlock req) s fun t =>
      only t stUnsealed ∧ t.hl.sec.debugOpen = c.debugOpen ∧ redrawn t) ∧
    (is 19 → c.presOpen = false → Runs (.factoryReset req) s (refused · stPresence)) ∧
    (is 19 → c.presOpen = true → Runs (.factoryReset req) s fun t => ends t stOK ∧ t.hl.sec.ownerPub = [] ∧ t.hl.sec.storageKey = [] ∧
      t.hl.sec.wrapped = [] ∧ t.hl.sec.requireBind = false ∧ erased t (almBase 0) 0x40000 ∧ erased t (almBase 1) 0x40000)

/-- R577, R581, R582, R594: at the head, IMG_PUSH starts a push of the session's image under a new SESSION, RELAY sends its inner request to a target that
it can reach, and runs it when it is the target itself, and ALMANAC_COPY sends its order; elsewhere they are INVALID, and an unreachable
target ABORTED. IMG_BEGIN opens a target's session; a chunk joins it; an IMG_NAK is answered with the chunk that is held; IMG_HOLD and IMG_GO stop
and start the head's chunks; a result is entered, and with the last one the push ends. A relayed request runs at its target and its
status returns, and ends the head's transfer; the copy order opens a copy's session there, with presence. Programming takes the bytes of
the session to the inactive slot. -/
def Obligations.ImagesTravel : Prop :=
  ∀ (req : RequestWords) (frame : Bytes) (f : ChainFrame) (x : ImgSession) (q : Push) (a : ChainReq) (s : State),
    let rop := ropOf req
    let free := aonUp s = true ∧ mbxBusy s = false ∧ s.hl.restarting = false ∧ romOnly s = false
    let head := s.nd.power.hostEn = true
    let ends := fun (t : State) (st : Nat) => bitOf t.hl.mbx.stat 0 = false ∧ bitOf t.hl.mbx.stat 1 = true ∧ fieldOf t.hl.mbx.stat 15 8 = st ∧ t.hl.flash = s.hl.flash
    let waits := fun (t : State) => bitOf t.hl.mbx.stat 0 = true ∧ t.hl.mbx.waits = true ∧ t.hl.flash = s.hl.flash ∧ t.hl.sec = s.hl.sec ∧ t.nd.mem = s.nd.mem
    let asked := fun (t : State) dst why payload => t.hl.chain.reqs.map (fun r => (r.dst, r.purpose)) = s.hl.chain.reqs.map (fun r => (r.dst, r.purpose)) ++ [(dst, why)] ∧
      t.nd.out = s.nd.out ++ [.chain (ownFrame s dst 0x16 s.hl.chain.nextTag 0 payload)]
    let heard := fun type => aonUp s = true ∧ romOnly s = false ∧ chainDecode frame = some f ∧ f.type = type
    let mine := fun type => heard type ∧ ownAddr s f.dst = true
    let keeps := fun (t : State) => t.pending = s.pending ∧ t.nd.mem = s.nd.mem ∧ t.nd.ctxs = s.nd.ctxs ∧ t.hl.sec = s.hl.sec
    let num := fun lo n => numAt f.payload lo n
    let inner := req.drop 1
    let target := fieldOf (wordAt req 0) 12 8
    let tells := fun dst type tag st payload => Out.chain (ownFrame s dst type tag st payload)
    (free → rop = 3 → requestOk req = true → head → s.hl.session = some x → x.session = 0 → x.kind = 1 → x.bytes.length = x.length → x.length ≠ 0 →
      (∀ t ∈ maskTargets (fieldOf (wordAt req 1) 15 0), ownAddr s t = false ∧ canReach s t = true) → fieldOf (wordAt req 1) 15 0 ≠ 0 →
      Runs (.imgPush req) s fun t => waits t ∧ ∃ p, t.hl.push = some p ∧ p.session = s.hl.chain.nextSession ∧ p.kind = 1 ∧ p.image = x.bytes ∧
        p.targets = fieldOf (wordAt req 1) 15 0 ∧ p.results = [] ∧ p.next = min 4 p.nchunk ∧ p.nchunk = ceilDiv x.bytes.length 240) ∧
    (free → (rop = 3 ∧ (requestOk req = false ∨ s.hl.session = none) ∨ rop = 20 ∧ requestOk req = false) →
      Runs (if rop = 3 then .imgPush req else .almanacCopy req) s (ends · stInvalid)) ∧
    (free → s.nd.power.hostEn = false → (rop = 3 → Runs (.imgPush req) s (ends · stInvalid)) ∧ (rop = 5 → Runs (.relay req) s (ends · stInvalid)) ∧
      (rop = 20 → Runs (.almanacCopy req) s (ends · stInvalid))) ∧
    (free → rop = 5 → head → fieldOf (wordAt req 0) 63 13 = 0 → target ≤ 16 → relayable (ropOf inner) = true → requestOk inner = true →
      (canReach s target = false → Runs (.relay req) s (ends · stAborted)) ∧
      (canReach s target = true → target ≠ 0 → ownAddr s target = false → Runs (.relay req) s fun t =>
        waits t ∧ asked t target .relay (wordsToBytes inner)) ∧
      (canReach s target = true → ownAddr s target = true → ropOf inner = 9 → Runs (.relay req) s fun t =>
        ends t stOK ∧ t.hl.sec = { s.hl.sec with presOpen := false, lastRop := 5, lastStatus := stOK })) ∧
    (∀ d, d = fieldOf (wordAt req 1) 12 8 → free → rop = 20 → requestOk req = true → head → d ≠ 0 → d ≤ 16 →
      (canReach s d = false → Runs (.almanacCopy req) s (ends · stAborted)) ∧
      (canReach s d = true → ownAddr s d = false → Runs (.almanacCopy req) s fun t => waits t ∧
        asked t d (.copyOrder (fieldOf (wordAt req 1) 3 0)) (copyOrderPayload (fieldOf (wordAt req 1) 3 0) d s.hl.chain.nextSession))) ∧
    (heard 0x10 → f.dst = 31 → ownAddr s f.src = false → (maskTargets (num 6 2)).any (ownAddr s) = true → num 4 1 = 1 → num 12 4 ≠ 0 → num 8 4 ≠ 0 →
      s.hl.session = none → Runs (.imgBegin frame) s fun t => keeps t ∧ t.hl.flash = s.hl.flash ∧
        t.hl.session = some (freshSession 1 (num 8 4) (num 0 4) (num 12 4) (num 6 2) false)) ∧
    (mine 0x11 → f.dst ≠ 31 → ownAddr s f.src = false → s.hl.chain.owed = [] → s.hl.session = some x → x.session = num 0 4 → num 4 4 < x.nchunk →
      holdsChunk x (num 4 4) = false → x.kind = 1 → x.holding = false → x.result = none → x.chunks = [] → x.bytes.length < 240 * num 4 4 →
      x.bytes.length + num 8 2 < x.programmed + 2 ^ 21 → x.bytes.length < x.length → num 8 2 ≤ 240 → Runs (.imgChunk frame) s fun t => keeps t ∧ t.hl.flash = s.hl.flash ∧
        t.hl.session = some { x with chunks := [(num 4 4, sliceOf f.payload 16 (num 8 2))] }) ∧
    (mine 0x12 → s.hl.push = some q → q.session = num 0 4 → Runs (.imgNak frame) s fun t => keeps t ∧ t.hl.push = s.hl.push ∧
      t.nd.out = s.nd.out ++ [tells f.src 0x11 0 0 (chunkPayload q.session q.image (num 4 4))]) ∧
    (mine 0x13 → s.hl.push = some q → q.session = num 0 4 → Runs (.imgHold frame) s fun t => keeps t ∧ t.nd.out = s.nd.out ∧
      t.hl.push = some { q with holds := q.holds.filter (· != f.src) ++ [f.src] }) ∧
    (mine 0x14 → s.hl.push = some q → q.session = num 0 4 → q.holds = [f.src] → q.next = q.nchunk → Runs (.imgGo frame) s fun t => keeps t ∧
      t.nd.out = s.nd.out ∧ t.hl.push = some { q with holds := [] }) ∧
    (mine 0x14 → s.hl.push = some q → q.session = num 0 4 → q.holds = [f.src] → q.next + 4 ≤ q.nchunk → Runs (.imgGo frame) s fun t => keeps t ∧
      t.nd.out.length = s.nd.out.length + 4 ∧ t.hl.push = some { q with holds := [], next := q.next + 4 }) ∧
    (mine 0x15 → s.hl.push = some q → q.session = num 0 4 → f.src ∈ maskTargets q.targets → Tbl.find? q.results f.src = none →
      (∃ y ∈ maskTargets q.targets, y ≠ f.src ∧ Tbl.find? q.results y = none) → Runs (.imgResult frame) s fun t => keeps t ∧
        t.hl.push = some { q with results := Tbl.put q.results f.src f.status, holds := q.holds.filter (· != f.src) }) ∧
    (mine 0x15 → s.hl.push = some q → q.session = num 0 4 → maskTargets q.targets = [f.src] → q.results = [] → s.hl.mbx.waits = true → f.status < 256 →
      Runs (.imgResult frame) s fun t => t.hl.push = none ∧ ends t f.status ∧ t.hl.sec.lastStatus = f.status ∧
        t.hl.sec.pushOk = (if f.status = stOK then 2 ^ (f.src - 1) else 0)) ∧
    (mine 0x16 → f.dst ≠ 31 → s.hl.restarting = false → bytesToWords (f.payload.length / 8) f.payload = [9] → f.payload.length = 8 → Runs (.secReq frame) s fun t =>
      t.hl.sec = { s.hl.sec with presOpen := false, lastRop := 9, lastStatus := stOK } ∧ t.nd.out.getLast? = some (tells f.src 0x17 f.tag stOK []) ∧
      t.hl.flash = s.hl.flash ∧ t.nd.mem = s.nd.mem) ∧
    (∀ w0 w1, mine 0x16 → f.dst ≠ 31 → s.hl.restarting = false → bytesToWords (f.payload.length / 8) f.payload = [w0, w1] → f.payload.length = 16 →
      fieldOf w0 7 0 = 0x14 → s.hl.sec.unsealed = false → Runs (.secReq frame) s fun t =>
        t.hl.session = (if s.hl.sec.presOpen then some (freshSession 1 0 (fieldOf w1 63 32) 0 0 true) else s.hl.session) ∧
        t.hl.sec.lastStatus = (if s.hl.sec.presOpen then stOK else stPresence) ∧ t.hl.flash = s.hl.flash) ∧
    (mine 0x17 → askedOf s f.src f.tag = some a → a.purpose = .relay → s.hl.mbx.waits = true → f.status < 256 → Runs (.secRsp frame) s fun t =>
      ends t f.status ∧ t.hl.sec.lastRop = 5 ∧ t.hl.sec.lastStatus = f.status ∧ askedOf t f.src f.tag = none) ∧
    (mine 0x17 → askedOf s f.src f.tag = none → Runs (.secRsp frame) s fun t => keeps t ∧ t.hl.mbx = s.hl.mbx ∧ t.nd.out = s.nd.out) ∧
    (∀ k, aonUp s = true → s.hl.restarting = false → s.hl.session = some x → x.kind = 0 → x.session = 0 → s.nd.power.standbyWaits = false → x.result = none →
      Runs (.flashProgramProgress k) s fun t => keeps t ∧
        let m := min k (x.bytes.length - x.programmed)
        t.hl.session = some { x with programmed := x.programmed + m } ∧
        t.hl.flash = (flashWrite s.hl (slotBase (!s.hl.sec.active) + x.programmed) (sliceOf x.bytes x.programmed m)).flash) ∧
    (∀ k, (s.hl.session = none ∨ s.hl.session = some x ∧ x.kind = 1) → Runs (.flashProgramProgress k) s (· = s))

/-- R585, R586, R590, R595: PRES_N held low opens the presence window, once for each release; expiry closes it. A second open sample of the seal
loop in a row makes the module Unsealed: it raises SECURITY, logs, and closes the window; a closed sample ends nothing. EXTEST and, once
unlocked, an internal TAP instruction zeroise the secrets, once; any other changes nothing. -/
def Obligations.PinsAndSeal : Prop :=
  ∀ (ir : TapInstr) (s : State),
    let c := s.hl.sec
    let up := aonUp s = true
    let powered := s.nd.power.input = true ∧ s.nd.power.domains.contains 0 = true
    let onlySec := fun (t : State) x => t = { s with hl := { s.hl with sec := x } }
    let others := fun (t : State) => t.pending = s.pending ∧ t.nd.mem = s.nd.mem ∧ t.nd.ctxs = s.nd.ctxs ∧ t.hl.flash = s.hl.flash ∧ t.hl.mbx = s.hl.mbx
    let acts := ir = .extest ∨ (∃ b, ir = .internal b) ∧ c.debugOpen = true ∧ 2 ≤ s.nd.power.state
    (up → c.presArmed = true → c.presOpen = false → Runs .presNHold s fun t => others t ∧ t.nd.log.last = s.nd.log.next ∧
      t.hl.sec = { c with presLow := true, presArmed := false, presOpen := true }) ∧
    (up → (c.presArmed = false ∨ c.presOpen = true) → Runs .presNHold s fun t => onlySec t { c with presLow := true, presArmed := false }) ∧
    (aonUp s = false → Runs .presNHold s (· = s)) ∧
    (Runs .presNRelease s fun t => onlySec t { c with presLow := false, presArmed := true }) ∧
    (c.presOpen = true → Runs .presenceWindowExpiry s fun t => others t ∧ t.hl.sec = { c with presOpen := false } ∧ t.nd.log.last = s.nd.log.next) ∧
    (c.presOpen = false → Runs .presenceWindowExpiry s (· = s)) ∧
    (powered → Runs (.sealSample true) s fun t => onlySec t { c with sealOk := true, sealOpens := 0 }) ∧
    (powered → c.sealOpens = 0 → Runs (.sealSample false) s fun t => onlySec t { c with sealOk := false, sealOpens := 1 }) ∧
    (powered → 1 ≤ c.sealOpens → c.unsealed = false → Runs (.sealSample false) s fun t => others t ∧ bitOf t.nd.log.alert alSecurity = true ∧
      t.hl.sec = { c with sealOk := false, sealOpens := min 2 (c.sealOpens + 1), unsealed := true, presOpen := false }) ∧
    (∀ b, ¬ powered → Runs (.sealSample b) s (· = s)) ∧
    (up → acts → c.cleared = false → Runs (.jtagInstruction ir) s fun t => t.hl.sec.cleared = true ∧ t.nd.log.last = s.nd.log.next ∧
      (∀ e ∈ t.nd.ctxs.slots, e.2.key.keys = []) ∧ t.hl.sec.storageKey = [] ∧ t.hl.flash = s.hl.flash ∧ t.pending = s.pending) ∧
    ((¬ acts ∨ c.cleared = true) → Runs (.jtagInstruction ir) s (· = s))

/-! ### The block as a whole -/

/-- A step takes the command at the front of the queue and is exec of it on the state with the queue's rest; on an empty queue the block
idles, which is the model's choice (log entry 8). Every command answers a next state: none faults and none is refused. No word spells a
command, so nothing is placed by one. -/
def Obligations.StepTakesTheFront : Prop :=
  (∀ (i : Instr) (s : State), step { s with pending := i :: s.pending } = exec i s) ∧
  (∀ s : State, s.pending = [] → step s = .next s) ∧
  (∀ (i : Instr) (s : State), ∃ t, exec i s = .next t) ∧
  (∀ (s : State) (nbits w : Nat), decodeTableWord nbits w = none ∧ s.withFetchWord nbits w = s)

/-- R174, R215: at every start each counter has its reset values and the wait table is empty; no pair has a retry mark; the module has no
directory entry, an empty lent table in every tile, empty operand buffers, no starvation records, no escalation queue entries, and no
line on which MDIRTY or poison is set. A start is what the events of R544 and R599 begin; BOOT_COUNT steps with it. -/
def Obligations.StartsAreClean : Prop :=
  ∀ (hostEn : Bool) (i : Instr) (s t : State),
    i ∈ [Instr.powerInputUp hostEn, .resetNRelease hostEn, .standbyAutoExit, .powerReqReady] → exec i s = .next t →
    t.nd.power.bootCount ≠ s.nd.power.bootCount →
    (∀ c, counterOf t.nd c = { value := 0, err := false, bytes := false, owner := 0, trig := none }) ∧ t.nd.ctr.waits = [] ∧
    (∀ own peer, (pairOf t.nd own peer).marks = []) ∧ t.nd.coh.dir = [] ∧ t.nd.coh.lent = [] ∧ t.nd.coh.opbuf = [] ∧
    t.nd.trk.starve = [] ∧ t.nd.trk.escal = [] ∧ t.nd.coh.mdirty = [] ∧ t.nd.coh.poison = []

/-- R155: an increment that would carry VALUE past 0xFFFF_FFFF_FFFF_FFFF leaves VALUE at that maximum and sets ERR; any other adds its amount
and leaves ERR as it is. -/
def Obligations.CountersSaturate : Prop :=
  ∀ (n : Node) (c bytes : Nat) (epoch : Option Nat),
    let x := counterOf n c
    let v := x.value + if x.bytes then bytes else 1
    let y := counterOf (increment n c bytes epoch) c
    (counterMax < v → y.value = counterMax ∧ y.err = true) ∧ (v ≤ counterMax → y.value = v ∧ y.err = x.err)

/-- Every step keeps the one form of flash and the bound of the fuses, and unblows no fuse (R574). The form of flash is the model's (log
entry 4). -/
def Obligations.EveryStepIsSound : Prop :=
  ∀ s t : State, Sound s → step s = .next t → Sound t ∧ s.hl.sec.fuses ≤ t.hl.sec.fuses

/-- The state after reset is sound. -/
def Obligations.ResetIsSound : Prop :=
 Sound State.reset

/-- R586: a step ends the Unsealed state only with the presence window open and the loop's last sample closed. -/
def Obligations.UnsealedEndsWithPresence : Prop :=
  ∀ s t : State, step s = .next t → s.hl.sec.unsealed = true → t.hl.sec.unsealed = false → s.hl.sec.presOpen = true ∧ s.hl.sec.sealOk = true

/-- No command touches the queue of those that wait; and a command of the data plane leaves Halord as it is: flash, fuses, keys, sessions, chain
and mailbox. -/
def Obligations.CommandsKeepTheirSide : Prop :=
  (∀ (i : Instr) (s t : State), exec i s = .next t → t.pending = s.pending) ∧
  (∀ (i : Instr) (s t : State), reachesHalord i = false → exec i s = .next t → t.hl = s.hl)

/-- R535, R541: the clock cap in force of a tile is the largest of its band's cap, its thermal cap and the power cap; and ALERT_N is low while
any bit of ALERT_STATUS that MASK enables is set, and only then. -/
def Obligations.CapsAndAlertPin : Prop :=
  (∀ (s : State) (t : TileId),
    let h := tileAt s.nd t.val
    let levels := [natField h.state.toNat (2 * bandOf h + 25) (2 * bandOf h + 24), Tbl.getD s.hl.plc.thermCap t.val 0, s.hl.plc.powerCap]
    clockCap s t ∈ levels ∧ ∀ l ∈ levels, l ≤ clockCap s t) ∧
  (∀ n : Node, alertLow n = true ↔ ∃ k, k < 64 ∧ bitOf n.log.alert k = true ∧ bitOf n.log.mask k = true)
end

