-- ==== Sys2Proof/Laws/Bits.lean ====
section
/-! SUPPORT. Bit fields read back as they were put, and sparse tables answer what was put into them. -/

namespace Sys2Proof.Machine

/-! ### Bit fields -/

theorem getLsbD_wordOf (n i : Nat) : (wordOf n).getLsbD i = (decide (i < 64) && n.testBit i) := by
  simp [wordOf, BitVec.getLsbD_ofNat]

theorem testBit_fieldOf (w : Word) (hi lo i : Nat) :
    (fieldOf w hi lo).testBit i = (decide (i < hi + 1 - lo) && w.getLsbD (lo + i)) := by
  unfold fieldOf
  rw [Nat.testBit_mod_two_pow, Nat.testBit_div_two_pow, Nat.add_comm i lo]
  rfl

/-- A number with the `n` bits from `lo` on replaced, bit by bit. -/
theorem testBit_replace (w v lo n i : Nat) :
    (w - w / 2 ^ lo % 2 ^ n * 2 ^ lo + v % 2 ^ n * 2 ^ lo).testBit i =
      if lo ≤ i ∧ i < lo + n then v.testBit (i - lo) else w.testBit i := by
  have hw : w = (w / 2 ^ lo / 2 ^ n * 2 ^ n + w / 2 ^ lo % 2 ^ n) * 2 ^ lo + w % 2 ^ lo := by
    have h1 := Nat.div_add_mod w (2 ^ lo)
    have h2 := Nat.div_add_mod (w / 2 ^ lo) (2 ^ n)
    rw [Nat.mul_comm (w / 2 ^ lo / 2 ^ n), h2, Nat.mul_comm]; exact h1.symm
  have e : w - w / 2 ^ lo % 2 ^ n * 2 ^ lo + v % 2 ^ n * 2 ^ lo =
      2 ^ lo * (2 ^ n * (w / 2 ^ lo / 2 ^ n) + v % 2 ^ n) + w % 2 ^ lo := by
    generalize w / 2 ^ lo / 2 ^ n = a at hw ⊢
    generalize w / 2 ^ lo % 2 ^ n = b at hw ⊢
    generalize w % 2 ^ lo = c at hw ⊢
    subst hw
    have key : (a * 2 ^ n + b) * 2 ^ lo + c = a * 2 ^ n * 2 ^ lo + c + b * 2 ^ lo := by ring
    rw [key, Nat.add_sub_cancel]; ring
  rw [e, Nat.testBit_two_pow_mul_add _ (Nat.mod_lt _ (Nat.two_pow_pos lo))]
  by_cases h1 : i < lo
  · simp [h1, Nat.testBit_mod_two_pow, show ¬ lo ≤ i by omega]
  · rw [if_neg h1, Nat.testBit_two_pow_mul_add _ (Nat.mod_lt _ (Nat.two_pow_pos n))]
    by_cases h2 : i < lo + n
    · have h3 : i - lo < n := by omega
      simp [h3, h2, show lo ≤ i by omega, Nat.testBit_mod_two_pow]
    · have h3 : ¬ i - lo < n := by omega
      rw [if_neg h3, if_neg (by omega), Nat.testBit_div_two_pow, Nat.testBit_div_two_pow]
      congr 1; omega

/-- A bit of a word with a field replaced: inside the field the new value's, outside it the old one. -/
theorem getLsbD_putField (w : Word) (hi lo v i : Nat) (h : hi < 64) (hl : lo ≤ hi) :
    (putField w hi lo v).getLsbD i =
      if lo ≤ i ∧ i ≤ hi then v.testBit (i - lo) else w.getLsbD i := by
  unfold putField fieldOf
  simp only [BitVec.getLsbD_ofNat]
  rw [testBit_replace]
  by_cases h1 : lo ≤ i ∧ i ≤ hi
  · rw [if_pos h1, if_pos (by omega)]; simp [show i < 64 by omega]
  · rw [if_neg h1, if_neg (by omega)]
    by_cases h2 : i < 64
    · simp [h2]; rfl
    · simp [h2, BitVec.getLsbD_of_ge w i (by omega)]

@[simp] theorem fieldOf_putField_same (w : Word) (hi lo v : Nat) (h : hi < 64) (hl : lo ≤ hi) :
    fieldOf (putField w hi lo v) hi lo = v % 2 ^ (hi + 1 - lo) := by
  apply Nat.eq_of_testBit_eq; intro i
  rw [testBit_fieldOf, Nat.testBit_mod_two_pow, getLsbD_putField w hi lo v _ h hl]
  by_cases h1 : i < hi + 1 - lo
  · simp [h1, show lo + i ≤ hi by omega]
  · simp [h1]

/-- A field that another field's change does not reach. -/
theorem fieldOf_putField_other (w : Word) (hi lo v hi' lo' : Nat) (h : hi < 64) (hl : lo ≤ hi)
    (hd : hi' < lo ∨ hi < lo') : fieldOf (putField w hi lo v) hi' lo' = fieldOf w hi' lo' := by
  apply Nat.eq_of_testBit_eq; intro i
  rw [testBit_fieldOf, testBit_fieldOf, getLsbD_putField w hi lo v _ h hl]
  by_cases h1 : i < hi' + 1 - lo'
  · rw [if_neg (by omega)]
  · simp [h1]

@[simp] theorem bitOf_putField_same (w : Word) (i v : Nat) (h : i < 64) :
    bitOf (putField w i i v) i = v.testBit 0 := by
  simp [bitOf, getLsbD_putField w i i v i h (Nat.le_refl i)]

theorem bitOf_putField_other (w : Word) (hi lo v i : Nat) (h : hi < 64) (hl : lo ≤ hi) (hd : i < lo ∨ hi < i) :
    bitOf (putField w hi lo v) i = bitOf w i := by
  rw [bitOf, getLsbD_putField w hi lo v i h hl, if_neg (by omega)]; rfl

/-! ### Sparse tables -/

@[simp] theorem Tbl.find?_put_same {α : Type} (t : Tbl α) (k : Nat) (v : α) : Tbl.find? (Tbl.put t k v) k = some v := by
  induction t with
  | nil => simp [Tbl.put, Tbl.find?]
  | cons x t ih =>
    obtain ⟨j, w⟩ := x
    simp only [Tbl.put]
    split
    · simp [Tbl.find?]
    · split
      · simp [Tbl.find?]
      · next h1 h2 => simp [Tbl.find?, show ¬ j = k by omega, ih]

theorem Tbl.find?_put_other {α : Type} (t : Tbl α) (k k' : Nat) (v : α) (h : k' ≠ k) :
    Tbl.find? (Tbl.put t k v) k' = Tbl.find? t k' := by
  induction t with
  | nil => simp [Tbl.put, Tbl.find?, Ne.symm h]
  | cons x t ih =>
    obtain ⟨j, w⟩ := x
    simp only [Tbl.put]
    split
    · simp [Tbl.find?, Ne.symm h]
    · split
      · next h1 h2 => subst h2; simp [Tbl.find?, Ne.symm h]
      · simp [Tbl.find?, ih]

@[simp] theorem Tbl.find?_del_same {α : Type} (t : Tbl α) (k : Nat) : Tbl.find? (Tbl.del t k) k = none := by
  induction t with
  | nil => rfl
  | cons x t ih =>
    obtain ⟨j, w⟩ := x
    simp only [Tbl.del]
    split
    · exact ih
    · next h => simp [Tbl.find?, h, ih]

theorem Tbl.find?_del_other {α : Type} (t : Tbl α) (k k' : Nat) (h : k' ≠ k) :
    Tbl.find? (Tbl.del t k) k' = Tbl.find? t k' := by
  induction t with
  | nil => rfl
  | cons x t ih =>
    obtain ⟨j, w⟩ := x
    simp only [Tbl.del]
    split
    · next h1 => subst h1; simp [Tbl.find?, ih, Ne.symm h]
    · simp [Tbl.find?, ih]

@[simp] theorem Tbl.getD_put_same {α : Type} (t : Tbl α) (k : Nat) (v d : α) : Tbl.getD (Tbl.put t k v) k d = v := by
  simp [Tbl.getD]

theorem Tbl.getD_put_other {α : Type} (t : Tbl α) (k k' : Nat) (v d : α) (h : k' ≠ k) :
    Tbl.getD (Tbl.put t k v) k' d = Tbl.getD t k' d := by
  simp [Tbl.getD, Tbl.find?_put_other t k k' v h]

end Sys2Proof.Machine
end

