-- ==== Sys2Proof/Laws/State.lean ====
section
/-! SUPPORT. Small lemmas of the state: what each plain update leaves as it is, by field, and how the accessors read it back. -/

namespace Sys2Proof.Machine

/-! ### Places of a vector -/

@[simp] theorem getAt_putAt_same {α : Type} {k : Nat} (v : Vector α k) (i : Fin k) (x d : α) : getAt (putAt v i.val x) i.val d = x := by
  simp [getAt, putAt, Vector.getD]

theorem getAt_putAt_other {α : Type} {k : Nat} (v : Vector α k) (i j : Nat) (x d : α) (h : j ≠ i) :
    getAt (putAt v i x) j d = getAt v j d := by
  by_cases hj : j < k <;> simp [getAt, putAt, Vector.getD, hj, Array.getElem_setIfInBounds, Ne.symm h]

/-! ### Plain updates of the node -/

@[simp] theorem emit_alm (n : Node) (o : Out) : (emit n o).alm = n.alm := rfl
@[simp] theorem emit_power (n : Node) (o : Out) : (emit n o).power = n.power := rfl
@[simp] theorem emit_log (n : Node) (o : Out) : (emit n o).log = n.log := rfl
@[simp] theorem emit_nodeId (n : Node) (o : Out) : (emit n o).nodeId = n.nodeId := rfl
@[simp] theorem emit_chainAddr (n : Node) (o : Out) : (emit n o).chainAddr = n.chainAddr := rfl
@[simp] theorem emit_ctxs (n : Node) (o : Out) : (emit n o).ctxs = n.ctxs := rfl
@[simp] theorem emit_rings (n : Node) (o : Out) : (emit n o).rings = n.rings := rfl
@[simp] theorem emit_trk (n : Node) (o : Out) : (emit n o).trk = n.trk := rfl
@[simp] theorem emit_coh (n : Node) (o : Out) : (emit n o).coh = n.coh := rfl
@[simp] theorem emit_prs (n : Node) (o : Out) : (emit n o).prs = n.prs := rfl
@[simp] theorem emit_ctr (n : Node) (o : Out) : (emit n o).ctr = n.ctr := rfl
@[simp] theorem emit_mem (n : Node) (o : Out) : (emit n o).mem = n.mem := rfl
@[simp] theorem emit_prog (n : Node) (o : Out) : (emit n o).prog = n.prog := rfl
@[simp] theorem emit_srch (n : Node) (o : Out) : (emit n o).srch = n.srch := rfl
@[simp] theorem emit_sol (n : Node) (o : Out) : (emit n o).sol = n.sol := rfl
@[simp] theorem emit_ml (n : Node) (o : Out) : (emit n o).ml = n.ml := rfl
@[simp] theorem emit_flt (n : Node) (o : Out) : (emit n o).flt = n.flt := rfl
@[simp] theorem emit_ports (n : Node) (o : Out) : (emit n o).ports = n.ports := rfl
@[simp] theorem emit_unsent (n : Node) (o : Out) : (emit n o).unsent = n.unsent := rfl
@[simp] theorem emit_rrPort (n : Node) (o : Out) : (emit n o).rrPort = n.rrPort := rfl
@[simp] theorem emit_traf (n : Node) (o : Out) : (emit n o).traf = n.traf := rfl
@[simp] theorem emit_pol (n : Node) (o : Out) : (emit n o).pol = n.pol := rfl
@[simp] theorem emit_bridge (n : Node) (o : Out) : (emit n o).bridge = n.bridge := rfl
@[simp] theorem emit_tele (n : Node) (o : Out) : (emit n o).tele = n.tele := rfl
@[simp] theorem emit_free (n : Node) (o : Out) : (emit n o).free = n.free := rfl
@[simp] theorem stepFree_alm (n : Node) : (stepFree n).alm = n.alm := rfl
@[simp] theorem stepFree_power (n : Node) : (stepFree n).power = n.power := rfl
@[simp] theorem stepFree_log (n : Node) : (stepFree n).log = n.log := rfl
@[simp] theorem stepFree_nodeId (n : Node) : (stepFree n).nodeId = n.nodeId := rfl
@[simp] theorem stepFree_chainAddr (n : Node) : (stepFree n).chainAddr = n.chainAddr := rfl
@[simp] theorem stepFree_ctxs (n : Node) : (stepFree n).ctxs = n.ctxs := rfl
@[simp] theorem stepFree_rings (n : Node) : (stepFree n).rings = n.rings := rfl
@[simp] theorem stepFree_trk (n : Node) : (stepFree n).trk = n.trk := rfl
@[simp] theorem stepFree_coh (n : Node) : (stepFree n).coh = n.coh := rfl
@[simp] theorem stepFree_prs (n : Node) : (stepFree n).prs = n.prs := rfl
@[simp] theorem stepFree_ctr (n : Node) : (stepFree n).ctr = n.ctr := rfl
@[simp] theorem stepFree_mem (n : Node) : (stepFree n).mem = n.mem := rfl
@[simp] theorem stepFree_prog (n : Node) : (stepFree n).prog = n.prog := rfl
@[simp] theorem stepFree_srch (n : Node) : (stepFree n).srch = n.srch := rfl
@[simp] theorem stepFree_sol (n : Node) : (stepFree n).sol = n.sol := rfl
@[simp] theorem stepFree_ml (n : Node) : (stepFree n).ml = n.ml := rfl
@[simp] theorem stepFree_flt (n : Node) : (stepFree n).flt = n.flt := rfl
@[simp] theorem stepFree_ports (n : Node) : (stepFree n).ports = n.ports := rfl
@[simp] theorem stepFree_unsent (n : Node) : (stepFree n).unsent = n.unsent := rfl
@[simp] theorem stepFree_rrPort (n : Node) : (stepFree n).rrPort = n.rrPort := rfl
@[simp] theorem stepFree_traf (n : Node) : (stepFree n).traf = n.traf := rfl
@[simp] theorem stepFree_pol (n : Node) : (stepFree n).pol = n.pol := rfl
@[simp] theorem stepFree_bridge (n : Node) : (stepFree n).bridge = n.bridge := rfl
@[simp] theorem stepFree_tele (n : Node) : (stepFree n).tele = n.tele := rfl
@[simp] theorem stepFree_out (n : Node) : (stepFree n).out = n.out := rfl
@[simp] theorem bump_alm (n : Node) (off k : Nat) : (bump n off k).alm = n.alm := rfl
@[simp] theorem bump_power (n : Node) (off k : Nat) : (bump n off k).power = n.power := rfl
@[simp] theorem bump_log (n : Node) (off k : Nat) : (bump n off k).log = n.log := rfl
@[simp] theorem bump_nodeId (n : Node) (off k : Nat) : (bump n off k).nodeId = n.nodeId := rfl
@[simp] theorem bump_chainAddr (n : Node) (off k : Nat) : (bump n off k).chainAddr = n.chainAddr := rfl
@[simp] theorem bump_ctxs (n : Node) (off k : Nat) : (bump n off k).ctxs = n.ctxs := rfl
@[simp] theorem bump_rings (n : Node) (off k : Nat) : (bump n off k).rings = n.rings := rfl
@[simp] theorem bump_trk (n : Node) (off k : Nat) : (bump n off k).trk = n.trk := rfl
@[simp] theorem bump_coh (n : Node) (off k : Nat) : (bump n off k).coh = n.coh := rfl
@[simp] theorem bump_prs (n : Node) (off k : Nat) : (bump n off k).prs = n.prs := rfl
@[simp] theorem bump_ctr (n : Node) (off k : Nat) : (bump n off k).ctr = n.ctr := rfl
@[simp] theorem bump_mem (n : Node) (off k : Nat) : (bump n off k).mem = n.mem := rfl
@[simp] theorem bump_prog (n : Node) (off k : Nat) : (bump n off k).prog = n.prog := rfl
@[simp] theorem bump_srch (n : Node) (off k : Nat) : (bump n off k).srch = n.srch := rfl
@[simp] theorem bump_sol (n : Node) (off k : Nat) : (bump n off k).sol = n.sol := rfl
@[simp] theorem bump_ml (n : Node) (off k : Nat) : (bump n off k).ml = n.ml := rfl
@[simp] theorem bump_flt (n : Node) (off k : Nat) : (bump n off k).flt = n.flt := rfl
@[simp] theorem bump_ports (n : Node) (off k : Nat) : (bump n off k).ports = n.ports := rfl
@[simp] theorem bump_unsent (n : Node) (off k : Nat) : (bump n off k).unsent = n.unsent := rfl
@[simp] theorem bump_rrPort (n : Node) (off k : Nat) : (bump n off k).rrPort = n.rrPort := rfl
@[simp] theorem bump_traf (n : Node) (off k : Nat) : (bump n off k).traf = n.traf := rfl
@[simp] theorem bump_pol (n : Node) (off k : Nat) : (bump n off k).pol = n.pol := rfl
@[simp] theorem bump_bridge (n : Node) (off k : Nat) : (bump n off k).bridge = n.bridge := rfl
@[simp] theorem bump_out (n : Node) (off k : Nat) : (bump n off k).out = n.out := rfl
@[simp] theorem bump_free (n : Node) (off k : Nat) : (bump n off k).free = n.free := rfl
@[simp] theorem setPair_alm (n : Node) (own peer : Nat) (q : Pair) : (setPair n own peer q).alm = n.alm := rfl
@[simp] theorem setPair_power (n : Node) (own peer : Nat) (q : Pair) : (setPair n own peer q).power = n.power := rfl
@[simp] theorem setPair_log (n : Node) (own peer : Nat) (q : Pair) : (setPair n own peer q).log = n.log := rfl
@[simp] theorem setPair_nodeId (n : Node) (own peer : Nat) (q : Pair) : (setPair n own peer q).nodeId = n.nodeId := rfl
@[simp] theorem setPair_chainAddr (n : Node) (own peer : Nat) (q : Pair) : (setPair n own peer q).chainAddr = n.chainAddr := rfl
@[simp] theorem setPair_ctxs (n : Node) (own peer : Nat) (q : Pair) : (setPair n own peer q).ctxs = n.ctxs := rfl
@[simp] theorem setPair_rings (n : Node) (own peer : Nat) (q : Pair) : (setPair n own peer q).rings = n.rings := rfl
@[simp] theorem setPair_trk (n : Node) (own peer : Nat) (q : Pair) : (setPair n own peer q).trk = n.trk := rfl
@[simp] theorem setPair_coh (n : Node) (own peer : Nat) (q : Pair) : (setPair n own peer q).coh = n.coh := rfl
@[simp] theorem setPair_ctr (n : Node) (own peer : Nat) (q : Pair) : (setPair n own peer q).ctr = n.ctr := rfl
@[simp] theorem setPair_mem (n : Node) (own peer : Nat) (q : Pair) : (setPair n own peer q).mem = n.mem := rfl
@[simp] theorem setPair_prog (n : Node) (own peer : Nat) (q : Pair) : (setPair n own peer q).prog = n.prog := rfl
@[simp] theorem setPair_srch (n : Node) (own peer : Nat) (q : Pair) : (setPair n own peer q).srch = n.srch := rfl
@[simp] theorem setPair_sol (n : Node) (own peer : Nat) (q : Pair) : (setPair n own peer q).sol = n.sol := rfl
@[simp] theorem setPair_ml (n : Node) (own peer : Nat) (q : Pair) : (setPair n own peer q).ml = n.ml := rfl
@[simp] theorem setPair_flt (n : Node) (own peer : Nat) (q : Pair) : (setPair n own peer q).flt = n.flt := rfl
@[simp] theorem setPair_ports (n : Node) (own peer : Nat) (q : Pair) : (setPair n own peer q).ports = n.ports := rfl
@[simp] theorem setPair_unsent (n : Node) (own peer : Nat) (q : Pair) : (setPair n own peer q).unsent = n.unsent := rfl
@[simp] theorem setPair_rrPort (n : Node) (own peer : Nat) (q : Pair) : (setPair n own peer q).rrPort = n.rrPort := rfl
@[simp] theorem setPair_traf (n : Node) (own peer : Nat) (q : Pair) : (setPair n own peer q).traf = n.traf := rfl
@[simp] theorem setPair_pol (n : Node) (own peer : Nat) (q : Pair) : (setPair n own peer q).pol = n.pol := rfl
@[simp] theorem setPair_bridge (n : Node) (own peer : Nat) (q : Pair) : (setPair n own peer q).bridge = n.bridge := rfl
@[simp] theorem setPair_tele (n : Node) (own peer : Nat) (q : Pair) : (setPair n own peer q).tele = n.tele := rfl
@[simp] theorem setPair_out (n : Node) (own peer : Nat) (q : Pair) : (setPair n own peer q).out = n.out := rfl
@[simp] theorem setPair_free (n : Node) (own peer : Nat) (q : Pair) : (setPair n own peer q).free = n.free := rfl

/-! ### Log and alerts -/

@[simp] theorem logEvent_alm (n : Node) (e : Event) : (logEvent n e).alm = n.alm := rfl
@[simp] theorem logEvent_power (n : Node) (e : Event) : (logEvent n e).power = n.power := rfl
@[simp] theorem logEvent_nodeId (n : Node) (e : Event) : (logEvent n e).nodeId = n.nodeId := rfl
@[simp] theorem logEvent_chainAddr (n : Node) (e : Event) : (logEvent n e).chainAddr = n.chainAddr := rfl
@[simp] theorem logEvent_ctxs (n : Node) (e : Event) : (logEvent n e).ctxs = n.ctxs := rfl
@[simp] theorem logEvent_rings (n : Node) (e : Event) : (logEvent n e).rings = n.rings := rfl
@[simp] theorem logEvent_trk (n : Node) (e : Event) : (logEvent n e).trk = n.trk := rfl
@[simp] theorem logEvent_coh (n : Node) (e : Event) : (logEvent n e).coh = n.coh := rfl
@[simp] theorem logEvent_prs (n : Node) (e : Event) : (logEvent n e).prs = n.prs := rfl
@[simp] theorem logEvent_ctr (n : Node) (e : Event) : (logEvent n e).ctr = n.ctr := rfl
@[simp] theorem logEvent_mem (n : Node) (e : Event) : (logEvent n e).mem = n.mem := rfl
@[simp] theorem logEvent_prog (n : Node) (e : Event) : (logEvent n e).prog = n.prog := rfl
@[simp] theorem logEvent_srch (n : Node) (e : Event) : (logEvent n e).srch = n.srch := rfl
@[simp] theorem logEvent_sol (n : Node) (e : Event) : (logEvent n e).sol = n.sol := rfl
@[simp] theorem logEvent_ml (n : Node) (e : Event) : (logEvent n e).ml = n.ml := rfl
@[simp] theorem logEvent_flt (n : Node) (e : Event) : (logEvent n e).flt = n.flt := rfl
@[simp] theorem logEvent_ports (n : Node) (e : Event) : (logEvent n e).ports = n.ports := rfl
@[simp] theorem logEvent_unsent (n : Node) (e : Event) : (logEvent n e).unsent = n.unsent := rfl
@[simp] theorem logEvent_rrPort (n : Node) (e : Event) : (logEvent n e).rrPort = n.rrPort := rfl
@[simp] theorem logEvent_traf (n : Node) (e : Event) : (logEvent n e).traf = n.traf := rfl
@[simp] theorem logEvent_pol (n : Node) (e : Event) : (logEvent n e).pol = n.pol := rfl
@[simp] theorem logEvent_bridge (n : Node) (e : Event) : (logEvent n e).bridge = n.bridge := rfl
@[simp] theorem logEvent_out (n : Node) (e : Event) : (logEvent n e).out = n.out := rfl
@[simp] theorem raiseAlert_alm (n : Node) (bit : Nat) : (raiseAlert n bit).alm = n.alm := by unfold raiseAlert; dsimp only; (repeat' split) <;> rfl
@[simp] theorem raiseAlert_power (n : Node) (bit : Nat) : (raiseAlert n bit).power = n.power := by unfold raiseAlert; dsimp only; (repeat' split) <;> rfl
@[simp] theorem raiseAlert_nodeId (n : Node) (bit : Nat) : (raiseAlert n bit).nodeId = n.nodeId := by unfold raiseAlert; dsimp only; (repeat' split) <;> rfl
@[simp] theorem raiseAlert_chainAddr (n : Node) (bit : Nat) : (raiseAlert n bit).chainAddr = n.chainAddr := by unfold raiseAlert; dsimp only; (repeat' split) <;> rfl
@[simp] theorem raiseAlert_ctxs (n : Node) (bit : Nat) : (raiseAlert n bit).ctxs = n.ctxs := by unfold raiseAlert; dsimp only; (repeat' split) <;> rfl
@[simp] theorem raiseAlert_rings (n : Node) (bit : Nat) : (raiseAlert n bit).rings = n.rings := by unfold raiseAlert; dsimp only; (repeat' split) <;> rfl
@[simp] theorem raiseAlert_trk (n : Node) (bit : Nat) : (raiseAlert n bit).trk = n.trk := by unfold raiseAlert; dsimp only; (repeat' split) <;> rfl
@[simp] theorem raiseAlert_coh (n : Node) (bit : Nat) : (raiseAlert n bit).coh = n.coh := by unfold raiseAlert; dsimp only; (repeat' split) <;> rfl
@[simp] theorem raiseAlert_prs (n : Node) (bit : Nat) : (raiseAlert n bit).prs = n.prs := by unfold raiseAlert; dsimp only; (repeat' split) <;> rfl
@[simp] theorem raiseAlert_ctr (n : Node) (bit : Nat) : (raiseAlert n bit).ctr = n.ctr := by unfold raiseAlert; dsimp only; (repeat' split) <;> rfl
@[simp] theorem raiseAlert_mem (n : Node) (bit : Nat) : (raiseAlert n bit).mem = n.mem := by unfold raiseAlert; dsimp only; (repeat' split) <;> rfl
@[simp] theorem raiseAlert_prog (n : Node) (bit : Nat) : (raiseAlert n bit).prog = n.prog := by unfold raiseAlert; dsimp only; (repeat' split) <;> rfl
@[simp] theorem raiseAlert_srch (n : Node) (bit : Nat) : (raiseAlert n bit).srch = n.srch := by unfold raiseAlert; dsimp only; (repeat' split) <;> rfl
@[simp] theorem raiseAlert_sol (n : Node) (bit : Nat) : (raiseAlert n bit).sol = n.sol := by unfold raiseAlert; dsimp only; (repeat' split) <;> rfl
@[simp] theorem raiseAlert_ml (n : Node) (bit : Nat) : (raiseAlert n bit).ml = n.ml := by unfold raiseAlert; dsimp only; (repeat' split) <;> rfl
@[simp] theorem raiseAlert_flt (n : Node) (bit : Nat) : (raiseAlert n bit).flt = n.flt := by unfold raiseAlert; dsimp only; (repeat' split) <;> rfl
@[simp] theorem raiseAlert_ports (n : Node) (bit : Nat) : (raiseAlert n bit).ports = n.ports := by unfold raiseAlert; dsimp only; (repeat' split) <;> rfl
@[simp] theorem raiseAlert_unsent (n : Node) (bit : Nat) : (raiseAlert n bit).unsent = n.unsent := by unfold raiseAlert; dsimp only; (repeat' split) <;> rfl
@[simp] theorem raiseAlert_rrPort (n : Node) (bit : Nat) : (raiseAlert n bit).rrPort = n.rrPort := by unfold raiseAlert; dsimp only; (repeat' split) <;> rfl
@[simp] theorem raiseAlert_traf (n : Node) (bit : Nat) : (raiseAlert n bit).traf = n.traf := by unfold raiseAlert; dsimp only; (repeat' split) <;> rfl
@[simp] theorem raiseAlert_pol (n : Node) (bit : Nat) : (raiseAlert n bit).pol = n.pol := by unfold raiseAlert; dsimp only; (repeat' split) <;> rfl
@[simp] theorem raiseAlert_bridge (n : Node) (bit : Nat) : (raiseAlert n bit).bridge = n.bridge := by unfold raiseAlert; dsimp only; (repeat' split) <;> rfl
@[simp] theorem raiseAlert_tele (n : Node) (bit : Nat) : (raiseAlert n bit).tele = n.tele := by unfold raiseAlert; dsimp only; (repeat' split) <;> rfl
@[simp] theorem raiseAlert_free (n : Node) (bit : Nat) : (raiseAlert n bit).free = n.free := by unfold raiseAlert; dsimp only; (repeat' split) <;> rfl

/-! ### Updates of the whole state -/

@[simp] theorem logIn_pending (s : State) (e : Event) : (logIn s e).pending = s.pending := rfl
@[simp] theorem logIn_hl (s : State) (e : Event) : (logIn s e).hl = s.hl := rfl
@[simp] theorem logIn_nd (s : State) (e : Event) : (logIn s e).nd = logEvent s.nd e := rfl
@[simp] theorem alertIn_pending (s : State) (bit : Nat) : (alertIn s bit).pending = s.pending := rfl
@[simp] theorem alertIn_hl (s : State) (bit : Nat) : (alertIn s bit).hl = s.hl := rfl
@[simp] theorem alertIn_nd (s : State) (bit : Nat) : (alertIn s bit).nd = raiseAlert s.nd bit := rfl

end Sys2Proof.Machine
end

