-- ==== Sys2Proof/Laws/Send.lean ====
section
/-! SUPPORT. Sending a packet touches the pairs, the traffic blocks, what waits for a port, the outputs and the free values, and nothing
else. -/

namespace Sys2Proof.Machine

@[simp] theorem transmit_alm (n : Node) (p : Packet) : (transmit n p).alm = n.alm := by unfold transmit; (repeat' split) <;> simp
@[simp] theorem transmit_power (n : Node) (p : Packet) : (transmit n p).power = n.power := by unfold transmit; (repeat' split) <;> simp
@[simp] theorem transmit_log (n : Node) (p : Packet) : (transmit n p).log = n.log := by unfold transmit; (repeat' split) <;> simp
@[simp] theorem transmit_nodeId (n : Node) (p : Packet) : (transmit n p).nodeId = n.nodeId := by unfold transmit; (repeat' split) <;> simp
@[simp] theorem transmit_chainAddr (n : Node) (p : Packet) : (transmit n p).chainAddr = n.chainAddr := by unfold transmit; (repeat' split) <;> simp
@[simp] theorem transmit_ctxs (n : Node) (p : Packet) : (transmit n p).ctxs = n.ctxs := by unfold transmit; (repeat' split) <;> simp
@[simp] theorem transmit_rings (n : Node) (p : Packet) : (transmit n p).rings = n.rings := by unfold transmit; (repeat' split) <;> simp
@[simp] theorem transmit_trk (n : Node) (p : Packet) : (transmit n p).trk = n.trk := by unfold transmit; (repeat' split) <;> simp
@[simp] theorem transmit_coh (n : Node) (p : Packet) : (transmit n p).coh = n.coh := by unfold transmit; (repeat' split) <;> simp
@[simp] theorem transmit_prs (n : Node) (p : Packet) : (transmit n p).prs = n.prs := by unfold transmit; (repeat' split) <;> simp
@[simp] theorem transmit_ctr (n : Node) (p : Packet) : (transmit n p).ctr = n.ctr := by unfold transmit; (repeat' split) <;> simp
@[simp] theorem transmit_mem (n : Node) (p : Packet) : (transmit n p).mem = n.mem := by unfold transmit; (repeat' split) <;> simp
@[simp] theorem transmit_prog (n : Node) (p : Packet) : (transmit n p).prog = n.prog := by unfold transmit; (repeat' split) <;> simp
@[simp] theorem transmit_srch (n : Node) (p : Packet) : (transmit n p).srch = n.srch := by unfold transmit; (repeat' split) <;> simp
@[simp] theorem transmit_sol (n : Node) (p : Packet) : (transmit n p).sol = n.sol := by unfold transmit; (repeat' split) <;> simp
@[simp] theorem transmit_ml (n : Node) (p : Packet) : (transmit n p).ml = n.ml := by unfold transmit; (repeat' split) <;> simp
@[simp] theorem transmit_flt (n : Node) (p : Packet) : (transmit n p).flt = n.flt := by unfold transmit; (repeat' split) <;> simp
@[simp] theorem transmit_ports (n : Node) (p : Packet) : (transmit n p).ports = n.ports := by unfold transmit; (repeat' split) <;> simp
@[simp] theorem transmit_pol (n : Node) (p : Packet) : (transmit n p).pol = n.pol := by unfold transmit; (repeat' split) <;> simp
@[simp] theorem transmit_bridge (n : Node) (p : Packet) : (transmit n p).bridge = n.bridge := by unfold transmit; (repeat' split) <;> simp
@[simp] theorem transmit_tele (n : Node) (p : Packet) : (transmit n p).tele = n.tele := by unfold transmit; (repeat' split) <;> simp
@[simp] theorem transmit_free (n : Node) (p : Packet) : (transmit n p).free = n.free := by unfold transmit; (repeat' split) <;> simp

@[simp] theorem sendUnnumbered_alm (n : Node) (p : Packet) : (sendUnnumbered n p).alm = n.alm := by unfold sendUnnumbered; simp
@[simp] theorem sendUnnumbered_power (n : Node) (p : Packet) : (sendUnnumbered n p).power = n.power := by unfold sendUnnumbered; simp
@[simp] theorem sendUnnumbered_log (n : Node) (p : Packet) : (sendUnnumbered n p).log = n.log := by unfold sendUnnumbered; simp
@[simp] theorem sendUnnumbered_nodeId (n : Node) (p : Packet) : (sendUnnumbered n p).nodeId = n.nodeId := by unfold sendUnnumbered; simp
@[simp] theorem sendUnnumbered_chainAddr (n : Node) (p : Packet) : (sendUnnumbered n p).chainAddr = n.chainAddr := by unfold sendUnnumbered; simp
@[simp] theorem sendUnnumbered_ctxs (n : Node) (p : Packet) : (sendUnnumbered n p).ctxs = n.ctxs := by unfold sendUnnumbered; simp
@[simp] theorem sendUnnumbered_rings (n : Node) (p : Packet) : (sendUnnumbered n p).rings = n.rings := by unfold sendUnnumbered; simp
@[simp] theorem sendUnnumbered_trk (n : Node) (p : Packet) : (sendUnnumbered n p).trk = n.trk := by unfold sendUnnumbered; simp
@[simp] theorem sendUnnumbered_coh (n : Node) (p : Packet) : (sendUnnumbered n p).coh = n.coh := by unfold sendUnnumbered; simp
@[simp] theorem sendUnnumbered_prs (n : Node) (p : Packet) : (sendUnnumbered n p).prs = n.prs := by unfold sendUnnumbered; simp
@[simp] theorem sendUnnumbered_ctr (n : Node) (p : Packet) : (sendUnnumbered n p).ctr = n.ctr := by unfold sendUnnumbered; simp
@[simp] theorem sendUnnumbered_mem (n : Node) (p : Packet) : (sendUnnumbered n p).mem = n.mem := by unfold sendUnnumbered; simp
@[simp] theorem sendUnnumbered_prog (n : Node) (p : Packet) : (sendUnnumbered n p).prog = n.prog := by unfold sendUnnumbered; simp
@[simp] theorem sendUnnumbered_srch (n : Node) (p : Packet) : (sendUnnumbered n p).srch = n.srch := by unfold sendUnnumbered; simp
@[simp] theorem sendUnnumbered_sol (n : Node) (p : Packet) : (sendUnnumbered n p).sol = n.sol := by unfold sendUnnumbered; simp
@[simp] theorem sendUnnumbered_ml (n : Node) (p : Packet) : (sendUnnumbered n p).ml = n.ml := by unfold sendUnnumbered; simp
@[simp] theorem sendUnnumbered_flt (n : Node) (p : Packet) : (sendUnnumbered n p).flt = n.flt := by unfold sendUnnumbered; simp
@[simp] theorem sendUnnumbered_ports (n : Node) (p : Packet) : (sendUnnumbered n p).ports = n.ports := by unfold sendUnnumbered; simp
@[simp] theorem sendUnnumbered_pol (n : Node) (p : Packet) : (sendUnnumbered n p).pol = n.pol := by unfold sendUnnumbered; simp
@[simp] theorem sendUnnumbered_bridge (n : Node) (p : Packet) : (sendUnnumbered n p).bridge = n.bridge := by unfold sendUnnumbered; simp
@[simp] theorem sendUnnumbered_tele (n : Node) (p : Packet) : (sendUnnumbered n p).tele = n.tele := by unfold sendUnnumbered; simp

@[simp] theorem startExchange_alm (n : Node) (own peer : Nat) : (startExchange n own peer).alm = n.alm := by unfold startExchange; (try dsimp only); (repeat' split) <;> simp
@[simp] theorem startExchange_power (n : Node) (own peer : Nat) : (startExchange n own peer).power = n.power := by unfold startExchange; (try dsimp only); (repeat' split) <;> simp
@[simp] theorem startExchange_log (n : Node) (own peer : Nat) : (startExchange n own peer).log = n.log := by unfold startExchange; (try dsimp only); (repeat' split) <;> simp
@[simp] theorem startExchange_nodeId (n : Node) (own peer : Nat) : (startExchange n own peer).nodeId = n.nodeId := by unfold startExchange; (try dsimp only); (repeat' split) <;> simp
@[simp] theorem startExchange_chainAddr (n : Node) (own peer : Nat) : (startExchange n own peer).chainAddr = n.chainAddr := by unfold startExchange; (try dsimp only); (repeat' split) <;> simp
@[simp] theorem startExchange_ctxs (n : Node) (own peer : Nat) : (startExchange n own peer).ctxs = n.ctxs := by unfold startExchange; (try dsimp only); (repeat' split) <;> simp
@[simp] theorem startExchange_rings (n : Node) (own peer : Nat) : (startExchange n own peer).rings = n.rings := by unfold startExchange; (try dsimp only); (repeat' split) <;> simp
@[simp] theorem startExchange_trk (n : Node) (own peer : Nat) : (startExchange n own peer).trk = n.trk := by unfold startExchange; (try dsimp only); (repeat' split) <;> simp
@[simp] theorem startExchange_coh (n : Node) (own peer : Nat) : (startExchange n own peer).coh = n.coh := by unfold startExchange; (try dsimp only); (repeat' split) <;> simp
@[simp] theorem startExchange_ctr (n : Node) (own peer : Nat) : (startExchange n own peer).ctr = n.ctr := by unfold startExchange; (try dsimp only); (repeat' split) <;> simp
@[simp] theorem startExchange_mem (n : Node) (own peer : Nat) : (startExchange n own peer).mem = n.mem := by unfold startExchange; (try dsimp only); (repeat' split) <;> simp
@[simp] theorem startExchange_prog (n : Node) (own peer : Nat) : (startExchange n own peer).prog = n.prog := by unfold startExchange; (try dsimp only); (repeat' split) <;> simp
@[simp] theorem startExchange_srch (n : Node) (own peer : Nat) : (startExchange n own peer).srch = n.srch := by unfold startExchange; (try dsimp only); (repeat' split) <;> simp
@[simp] theorem startExchange_sol (n : Node) (own peer : Nat) : (startExchange n own peer).sol = n.sol := by unfold startExchange; (try dsimp only); (repeat' split) <;> simp
@[simp] theorem startExchange_ml (n : Node) (own peer : Nat) : (startExchange n own peer).ml = n.ml := by unfold startExchange; (try dsimp only); (repeat' split) <;> simp
@[simp] theorem startExchange_flt (n : Node) (own peer : Nat) : (startExchange n own peer).flt = n.flt := by unfold startExchange; (try dsimp only); (repeat' split) <;> simp
@[simp] theorem startExchange_ports (n : Node) (own peer : Nat) : (startExchange n own peer).ports = n.ports := by unfold startExchange; (try dsimp only); (repeat' split) <;> simp
@[simp] theorem startExchange_pol (n : Node) (own peer : Nat) : (startExchange n own peer).pol = n.pol := by unfold startExchange; (try dsimp only); (repeat' split) <;> simp
@[simp] theorem startExchange_bridge (n : Node) (own peer : Nat) : (startExchange n own peer).bridge = n.bridge := by unfold startExchange; (try dsimp only); (repeat' split) <;> simp
@[simp] theorem startExchange_tele (n : Node) (own peer : Nat) : (startExchange n own peer).tele = n.tele := by unfold startExchange; (try dsimp only); (repeat' split) <;> simp

@[simp] theorem sendPacket_alm (n : Node) (p : Packet) (why : SentFor) : (sendPacket n p why).alm = n.alm := by unfold sendPacket; simp only []; (repeat' split) <;> simp
@[simp] theorem sendPacket_power (n : Node) (p : Packet) (why : SentFor) : (sendPacket n p why).power = n.power := by unfold sendPacket; simp only []; (repeat' split) <;> simp
@[simp] theorem sendPacket_log (n : Node) (p : Packet) (why : SentFor) : (sendPacket n p why).log = n.log := by unfold sendPacket; simp only []; (repeat' split) <;> simp
@[simp] theorem sendPacket_nodeId (n : Node) (p : Packet) (why : SentFor) : (sendPacket n p why).nodeId = n.nodeId := by unfold sendPacket; simp only []; (repeat' split) <;> simp
@[simp] theorem sendPacket_chainAddr (n : Node) (p : Packet) (why : SentFor) : (sendPacket n p why).chainAddr = n.chainAddr := by unfold sendPacket; simp only []; (repeat' split) <;> simp
@[simp] theorem sendPacket_ctxs (n : Node) (p : Packet) (why : SentFor) : (sendPacket n p why).ctxs = n.ctxs := by unfold sendPacket; simp only []; (repeat' split) <;> simp
@[simp] theorem sendPacket_rings (n : Node) (p : Packet) (why : SentFor) : (sendPacket n p why).rings = n.rings := by unfold sendPacket; simp only []; (repeat' split) <;> simp
@[simp] theorem sendPacket_trk (n : Node) (p : Packet) (why : SentFor) : (sendPacket n p why).trk = n.trk := by unfold sendPacket; simp only []; (repeat' split) <;> simp
@[simp] theorem sendPacket_coh (n : Node) (p : Packet) (why : SentFor) : (sendPacket n p why).coh = n.coh := by unfold sendPacket; simp only []; (repeat' split) <;> simp
@[simp] theorem sendPacket_ctr (n : Node) (p : Packet) (why : SentFor) : (sendPacket n p why).ctr = n.ctr := by unfold sendPacket; simp only []; (repeat' split) <;> simp
@[simp] theorem sendPacket_mem (n : Node) (p : Packet) (why : SentFor) : (sendPacket n p why).mem = n.mem := by unfold sendPacket; simp only []; (repeat' split) <;> simp
@[simp] theorem sendPacket_prog (n : Node) (p : Packet) (why : SentFor) : (sendPacket n p why).prog = n.prog := by unfold sendPacket; simp only []; (repeat' split) <;> simp
@[simp] theorem sendPacket_srch (n : Node) (p : Packet) (why : SentFor) : (sendPacket n p why).srch = n.srch := by unfold sendPacket; simp only []; (repeat' split) <;> simp
@[simp] theorem sendPacket_sol (n : Node) (p : Packet) (why : SentFor) : (sendPacket n p why).sol = n.sol := by unfold sendPacket; simp only []; (repeat' split) <;> simp
@[simp] theorem sendPacket_ml (n : Node) (p : Packet) (why : SentFor) : (sendPacket n p why).ml = n.ml := by unfold sendPacket; simp only []; (repeat' split) <;> simp
@[simp] theorem sendPacket_flt (n : Node) (p : Packet) (why : SentFor) : (sendPacket n p why).flt = n.flt := by unfold sendPacket; simp only []; (repeat' split) <;> simp
@[simp] theorem sendPacket_ports (n : Node) (p : Packet) (why : SentFor) : (sendPacket n p why).ports = n.ports := by unfold sendPacket; simp only []; (repeat' split) <;> simp
@[simp] theorem sendPacket_pol (n : Node) (p : Packet) (why : SentFor) : (sendPacket n p why).pol = n.pol := by unfold sendPacket; simp only []; (repeat' split) <;> simp
@[simp] theorem sendPacket_bridge (n : Node) (p : Packet) (why : SentFor) : (sendPacket n p why).bridge = n.bridge := by unfold sendPacket; simp only []; (repeat' split) <;> simp
@[simp] theorem sendPacket_tele (n : Node) (p : Packet) (why : SentFor) : (sendPacket n p why).tele = n.tele := by unfold sendPacket; simp only []; (repeat' split) <;> simp

@[simp] theorem markAnswered_alm (n : Node) (p : Packet) : (markAnswered n p).alm = n.alm := rfl
@[simp] theorem markAnswered_power (n : Node) (p : Packet) : (markAnswered n p).power = n.power := rfl
@[simp] theorem markAnswered_log (n : Node) (p : Packet) : (markAnswered n p).log = n.log := rfl
@[simp] theorem markAnswered_nodeId (n : Node) (p : Packet) : (markAnswered n p).nodeId = n.nodeId := rfl
@[simp] theorem markAnswered_chainAddr (n : Node) (p : Packet) : (markAnswered n p).chainAddr = n.chainAddr := rfl
@[simp] theorem markAnswered_ctxs (n : Node) (p : Packet) : (markAnswered n p).ctxs = n.ctxs := rfl
@[simp] theorem markAnswered_rings (n : Node) (p : Packet) : (markAnswered n p).rings = n.rings := rfl
@[simp] theorem markAnswered_trk (n : Node) (p : Packet) : (markAnswered n p).trk = n.trk := rfl
@[simp] theorem markAnswered_coh (n : Node) (p : Packet) : (markAnswered n p).coh = n.coh := rfl
@[simp] theorem markAnswered_ctr (n : Node) (p : Packet) : (markAnswered n p).ctr = n.ctr := rfl
@[simp] theorem markAnswered_mem (n : Node) (p : Packet) : (markAnswered n p).mem = n.mem := rfl
@[simp] theorem markAnswered_prog (n : Node) (p : Packet) : (markAnswered n p).prog = n.prog := rfl
@[simp] theorem markAnswered_srch (n : Node) (p : Packet) : (markAnswered n p).srch = n.srch := rfl
@[simp] theorem markAnswered_sol (n : Node) (p : Packet) : (markAnswered n p).sol = n.sol := rfl
@[simp] theorem markAnswered_ml (n : Node) (p : Packet) : (markAnswered n p).ml = n.ml := rfl
@[simp] theorem markAnswered_flt (n : Node) (p : Packet) : (markAnswered n p).flt = n.flt := rfl
@[simp] theorem markAnswered_ports (n : Node) (p : Packet) : (markAnswered n p).ports = n.ports := rfl
@[simp] theorem markAnswered_unsent (n : Node) (p : Packet) : (markAnswered n p).unsent = n.unsent := rfl
@[simp] theorem markAnswered_rrPort (n : Node) (p : Packet) : (markAnswered n p).rrPort = n.rrPort := rfl
@[simp] theorem markAnswered_traf (n : Node) (p : Packet) : (markAnswered n p).traf = n.traf := rfl
@[simp] theorem markAnswered_pol (n : Node) (p : Packet) : (markAnswered n p).pol = n.pol := rfl
@[simp] theorem markAnswered_bridge (n : Node) (p : Packet) : (markAnswered n p).bridge = n.bridge := rfl
@[simp] theorem markAnswered_tele (n : Node) (p : Packet) : (markAnswered n p).tele = n.tele := rfl
@[simp] theorem markAnswered_out (n : Node) (p : Packet) : (markAnswered n p).out = n.out := rfl
@[simp] theorem markAnswered_free (n : Node) (p : Packet) : (markAnswered n p).free = n.free := rfl

@[simp] theorem sendRsp_alm (n : Node) (p : Packet) (status aux : Nat) : (sendRsp n p status aux).alm = n.alm := by unfold sendRsp; simp
@[simp] theorem sendRsp_power (n : Node) (p : Packet) (status aux : Nat) : (sendRsp n p status aux).power = n.power := by unfold sendRsp; simp
@[simp] theorem sendRsp_log (n : Node) (p : Packet) (status aux : Nat) : (sendRsp n p status aux).log = n.log := by unfold sendRsp; simp
@[simp] theorem sendRsp_nodeId (n : Node) (p : Packet) (status aux : Nat) : (sendRsp n p status aux).nodeId = n.nodeId := by unfold sendRsp; simp
@[simp] theorem sendRsp_chainAddr (n : Node) (p : Packet) (status aux : Nat) : (sendRsp n p status aux).chainAddr = n.chainAddr := by unfold sendRsp; simp
@[simp] theorem sendRsp_ctxs (n : Node) (p : Packet) (status aux : Nat) : (sendRsp n p status aux).ctxs = n.ctxs := by unfold sendRsp; simp
@[simp] theorem sendRsp_rings (n : Node) (p : Packet) (status aux : Nat) : (sendRsp n p status aux).rings = n.rings := by unfold sendRsp; simp
@[simp] theorem sendRsp_trk (n : Node) (p : Packet) (status aux : Nat) : (sendRsp n p status aux).trk = n.trk := by unfold sendRsp; simp
@[simp] theorem sendRsp_coh (n : Node) (p : Packet) (status aux : Nat) : (sendRsp n p status aux).coh = n.coh := by unfold sendRsp; simp
@[simp] theorem sendRsp_ctr (n : Node) (p : Packet) (status aux : Nat) : (sendRsp n p status aux).ctr = n.ctr := by unfold sendRsp; simp
@[simp] theorem sendRsp_mem (n : Node) (p : Packet) (status aux : Nat) : (sendRsp n p status aux).mem = n.mem := by unfold sendRsp; simp
@[simp] theorem sendRsp_prog (n : Node) (p : Packet) (status aux : Nat) : (sendRsp n p status aux).prog = n.prog := by unfold sendRsp; simp
@[simp] theorem sendRsp_srch (n : Node) (p : Packet) (status aux : Nat) : (sendRsp n p status aux).srch = n.srch := by unfold sendRsp; simp
@[simp] theorem sendRsp_sol (n : Node) (p : Packet) (status aux : Nat) : (sendRsp n p status aux).sol = n.sol := by unfold sendRsp; simp
@[simp] theorem sendRsp_ml (n : Node) (p : Packet) (status aux : Nat) : (sendRsp n p status aux).ml = n.ml := by unfold sendRsp; simp
@[simp] theorem sendRsp_flt (n : Node) (p : Packet) (status aux : Nat) : (sendRsp n p status aux).flt = n.flt := by unfold sendRsp; simp
@[simp] theorem sendRsp_ports (n : Node) (p : Packet) (status aux : Nat) : (sendRsp n p status aux).ports = n.ports := by unfold sendRsp; simp
@[simp] theorem sendRsp_pol (n : Node) (p : Packet) (status aux : Nat) : (sendRsp n p status aux).pol = n.pol := by unfold sendRsp; simp
@[simp] theorem sendRsp_bridge (n : Node) (p : Packet) (status aux : Nat) : (sendRsp n p status aux).bridge = n.bridge := by unfold sendRsp; simp
@[simp] theorem sendRsp_tele (n : Node) (p : Packet) (status aux : Nat) : (sendRsp n p status aux).tele = n.tele := by unfold sendRsp; simp

@[simp] theorem sendRetry_alm (n : Node) (p : Packet) (cause delay : Nat) : (sendRetry n p cause delay).alm = n.alm := by unfold sendRetry; simp
@[simp] theorem sendRetry_power (n : Node) (p : Packet) (cause delay : Nat) : (sendRetry n p cause delay).power = n.power := by unfold sendRetry; simp
@[simp] theorem sendRetry_log (n : Node) (p : Packet) (cause delay : Nat) : (sendRetry n p cause delay).log = n.log := by unfold sendRetry; simp
@[simp] theorem sendRetry_nodeId (n : Node) (p : Packet) (cause delay : Nat) : (sendRetry n p cause delay).nodeId = n.nodeId := by unfold sendRetry; simp
@[simp] theorem sendRetry_chainAddr (n : Node) (p : Packet) (cause delay : Nat) : (sendRetry n p cause delay).chainAddr = n.chainAddr := by unfold sendRetry; simp
@[simp] theorem sendRetry_ctxs (n : Node) (p : Packet) (cause delay : Nat) : (sendRetry n p cause delay).ctxs = n.ctxs := by unfold sendRetry; simp
@[simp] theorem sendRetry_rings (n : Node) (p : Packet) (cause delay : Nat) : (sendRetry n p cause delay).rings = n.rings := by unfold sendRetry; simp
@[simp] theorem sendRetry_trk (n : Node) (p : Packet) (cause delay : Nat) : (sendRetry n p cause delay).trk = n.trk := by unfold sendRetry; simp
@[simp] theorem sendRetry_coh (n : Node) (p : Packet) (cause delay : Nat) : (sendRetry n p cause delay).coh = n.coh := by unfold sendRetry; simp
@[simp] theorem sendRetry_ctr (n : Node) (p : Packet) (cause delay : Nat) : (sendRetry n p cause delay).ctr = n.ctr := by unfold sendRetry; simp
@[simp] theorem sendRetry_mem (n : Node) (p : Packet) (cause delay : Nat) : (sendRetry n p cause delay).mem = n.mem := by unfold sendRetry; simp
@[simp] theorem sendRetry_prog (n : Node) (p : Packet) (cause delay : Nat) : (sendRetry n p cause delay).prog = n.prog := by unfold sendRetry; simp
@[simp] theorem sendRetry_srch (n : Node) (p : Packet) (cause delay : Nat) : (sendRetry n p cause delay).srch = n.srch := by unfold sendRetry; simp
@[simp] theorem sendRetry_sol (n : Node) (p : Packet) (cause delay : Nat) : (sendRetry n p cause delay).sol = n.sol := by unfold sendRetry; simp
@[simp] theorem sendRetry_ml (n : Node) (p : Packet) (cause delay : Nat) : (sendRetry n p cause delay).ml = n.ml := by unfold sendRetry; simp
@[simp] theorem sendRetry_flt (n : Node) (p : Packet) (cause delay : Nat) : (sendRetry n p cause delay).flt = n.flt := by unfold sendRetry; simp
@[simp] theorem sendRetry_ports (n : Node) (p : Packet) (cause delay : Nat) : (sendRetry n p cause delay).ports = n.ports := by unfold sendRetry; simp
@[simp] theorem sendRetry_pol (n : Node) (p : Packet) (cause delay : Nat) : (sendRetry n p cause delay).pol = n.pol := by unfold sendRetry; simp
@[simp] theorem sendRetry_bridge (n : Node) (p : Packet) (cause delay : Nat) : (sendRetry n p cause delay).bridge = n.bridge := by unfold sendRetry; simp

end Sys2Proof.Machine
end

