-- ==== Sys2Proof/Laws/Link.lean ====
section
/-! SUPPORT. What taking ports down and failing the module leave as they are, field by field, and what they set. -/

namespace Sys2Proof.Machine

/-- A fold keeps whatever each of its steps keeps. -/
theorem foldl_keeps {α β γ : Type} (f : α → β → α) (g : α → γ) (h : ∀ a b, g (f a b) = g a) (l : List β) (a : α) :
    g (l.foldl f a) = g a := by
  induction l generalizing a with
  | nil => rfl
  | cons b l ih => rw [List.foldl_cons, ih, h]

@[simp] theorem takeDown_alm (n : Node) (i st : Nat) : (takeDown n i st).alm = n.alm := by unfold takeDown; dsimp only; exact foldl_keeps _ (fun m : Node => m.alm) (fun n b => by simp) _ _
@[simp] theorem takeDown_power (n : Node) (i st : Nat) : (takeDown n i st).power = n.power := by unfold takeDown; dsimp only; exact foldl_keeps _ (fun m : Node => m.power) (fun n b => by simp) _ _
@[simp] theorem takeDown_log (n : Node) (i st : Nat) : (takeDown n i st).log = n.log := by unfold takeDown; dsimp only; exact foldl_keeps _ (fun m : Node => m.log) (fun n b => by simp) _ _
@[simp] theorem takeDown_nodeId (n : Node) (i st : Nat) : (takeDown n i st).nodeId = n.nodeId := by unfold takeDown; dsimp only; exact foldl_keeps _ (fun m : Node => m.nodeId) (fun n b => by simp) _ _
@[simp] theorem takeDown_chainAddr (n : Node) (i st : Nat) : (takeDown n i st).chainAddr = n.chainAddr := by unfold takeDown; dsimp only; exact foldl_keeps _ (fun m : Node => m.chainAddr) (fun n b => by simp) _ _
@[simp] theorem takeDown_ctxs (n : Node) (i st : Nat) : (takeDown n i st).ctxs = n.ctxs := by unfold takeDown; dsimp only; exact foldl_keeps _ (fun m : Node => m.ctxs) (fun n b => by simp) _ _
@[simp] theorem takeDown_rings (n : Node) (i st : Nat) : (takeDown n i st).rings = n.rings := by unfold takeDown; dsimp only; exact foldl_keeps _ (fun m : Node => m.rings) (fun n b => by simp) _ _
@[simp] theorem takeDown_trk (n : Node) (i st : Nat) : (takeDown n i st).trk = n.trk := by unfold takeDown; dsimp only; exact foldl_keeps _ (fun m : Node => m.trk) (fun n b => by simp) _ _
@[simp] theorem takeDown_coh (n : Node) (i st : Nat) : (takeDown n i st).coh = n.coh := by unfold takeDown; dsimp only; exact foldl_keeps _ (fun m : Node => m.coh) (fun n b => by simp) _ _
@[simp] theorem takeDown_prs (n : Node) (i st : Nat) : (takeDown n i st).prs = n.prs := by unfold takeDown; dsimp only; exact foldl_keeps _ (fun m : Node => m.prs) (fun n b => by simp) _ _
@[simp] theorem takeDown_ctr (n : Node) (i st : Nat) : (takeDown n i st).ctr = n.ctr := by unfold takeDown; dsimp only; exact foldl_keeps _ (fun m : Node => m.ctr) (fun n b => by simp) _ _
@[simp] theorem takeDown_mem (n : Node) (i st : Nat) : (takeDown n i st).mem = n.mem := by unfold takeDown; dsimp only; exact foldl_keeps _ (fun m : Node => m.mem) (fun n b => by simp) _ _
@[simp] theorem takeDown_prog (n : Node) (i st : Nat) : (takeDown n i st).prog = n.prog := by unfold takeDown; dsimp only; exact foldl_keeps _ (fun m : Node => m.prog) (fun n b => by simp) _ _
@[simp] theorem takeDown_srch (n : Node) (i st : Nat) : (takeDown n i st).srch = n.srch := by unfold takeDown; dsimp only; exact foldl_keeps _ (fun m : Node => m.srch) (fun n b => by simp) _ _
@[simp] theorem takeDown_sol (n : Node) (i st : Nat) : (takeDown n i st).sol = n.sol := by unfold takeDown; dsimp only; exact foldl_keeps _ (fun m : Node => m.sol) (fun n b => by simp) _ _
@[simp] theorem takeDown_ml (n : Node) (i st : Nat) : (takeDown n i st).ml = n.ml := by unfold takeDown; dsimp only; exact foldl_keeps _ (fun m : Node => m.ml) (fun n b => by simp) _ _
@[simp] theorem takeDown_flt (n : Node) (i st : Nat) : (takeDown n i st).flt = n.flt := by unfold takeDown; dsimp only; exact foldl_keeps _ (fun m : Node => m.flt) (fun n b => by simp) _ _
@[simp] theorem takeDown_pol (n : Node) (i st : Nat) : (takeDown n i st).pol = n.pol := by unfold takeDown; dsimp only; exact foldl_keeps _ (fun m : Node => m.pol) (fun n b => by simp) _ _
@[simp] theorem takeDown_bridge (n : Node) (i st : Nat) : (takeDown n i st).bridge = n.bridge := by unfold takeDown; dsimp only; exact foldl_keeps _ (fun m : Node => m.bridge) (fun n b => by simp) _ _
@[simp] theorem takeDown_tele (n : Node) (i st : Nat) : (takeDown n i st).tele = n.tele := by unfold takeDown; dsimp only; exact foldl_keeps _ (fun m : Node => m.tele) (fun n b => by simp) _ _
@[simp] theorem takeDown_free (n : Node) (i st : Nat) : (takeDown n i st).free = n.free := by unfold takeDown; dsimp only; exact foldl_keeps _ (fun m : Node => m.free) (fun n b => by simp) _ _
theorem takeDown_ports (n : Node) (i st : Nat) : ∃ o, (takeDown n i st).ports = putAt n.ports i o ∧ o.status = (setTxGroups (setRxGroups (setPortState (portAt n i) st) 0) 0).status ∧ o.cfgLive = (portAt n i).cfgLive := by
  refine ⟨{ setTxGroups (setRxGroups (setPortState (portAt n i) st) 0) 0 with
    bringup := 0, txSwitch := none, rxSwitch := none, fseqTx := 0, fseqRx := 0, replay := [],
    awaitReplay := false, replayed := (0, 0), credits := [0, 0, 0, 0, 0, 0], owed := [0, 0, 0, 0, 0, 0], assembling := [],
    onWire := [], kaMissed := 0, ctrlWait := [] }, ?_, rfl, rfl⟩
  exact foldl_keeps transmit (fun m : Node => m.ports) (fun n b => by simp) _ _


@[simp] theorem disableBlock_alm (n : Node) (r : Nat) : (disableBlock n r).alm = n.alm := by unfold disableBlock; dsimp only; exact foldl_keeps _ (fun m : Node => m.alm) (fun n b => by simp) _ _
@[simp] theorem disableBlock_power (n : Node) (r : Nat) : (disableBlock n r).power = n.power := by unfold disableBlock; dsimp only; exact foldl_keeps _ (fun m : Node => m.power) (fun n b => by simp) _ _
@[simp] theorem disableBlock_log (n : Node) (r : Nat) : (disableBlock n r).log = n.log := by unfold disableBlock; dsimp only; exact foldl_keeps _ (fun m : Node => m.log) (fun n b => by simp) _ _
@[simp] theorem disableBlock_nodeId (n : Node) (r : Nat) : (disableBlock n r).nodeId = n.nodeId := by unfold disableBlock; dsimp only; exact foldl_keeps _ (fun m : Node => m.nodeId) (fun n b => by simp) _ _
@[simp] theorem disableBlock_chainAddr (n : Node) (r : Nat) : (disableBlock n r).chainAddr = n.chainAddr := by unfold disableBlock; dsimp only; exact foldl_keeps _ (fun m : Node => m.chainAddr) (fun n b => by simp) _ _
@[simp] theorem disableBlock_ctxs (n : Node) (r : Nat) : (disableBlock n r).ctxs = n.ctxs := by unfold disableBlock; dsimp only; exact foldl_keeps _ (fun m : Node => m.ctxs) (fun n b => by simp) _ _
@[simp] theorem disableBlock_rings (n : Node) (r : Nat) : (disableBlock n r).rings = n.rings := by unfold disableBlock; dsimp only; exact foldl_keeps _ (fun m : Node => m.rings) (fun n b => by simp) _ _
@[simp] theorem disableBlock_trk (n : Node) (r : Nat) : (disableBlock n r).trk = n.trk := by unfold disableBlock; dsimp only; exact foldl_keeps _ (fun m : Node => m.trk) (fun n b => by simp) _ _
@[simp] theorem disableBlock_coh (n : Node) (r : Nat) : (disableBlock n r).coh = n.coh := by unfold disableBlock; dsimp only; exact foldl_keeps _ (fun m : Node => m.coh) (fun n b => by simp) _ _
@[simp] theorem disableBlock_prs (n : Node) (r : Nat) : (disableBlock n r).prs = n.prs := by unfold disableBlock; dsimp only; exact foldl_keeps _ (fun m : Node => m.prs) (fun n b => by simp) _ _
@[simp] theorem disableBlock_ctr (n : Node) (r : Nat) : (disableBlock n r).ctr = n.ctr := by unfold disableBlock; dsimp only; exact foldl_keeps _ (fun m : Node => m.ctr) (fun n b => by simp) _ _
@[simp] theorem disableBlock_mem (n : Node) (r : Nat) : (disableBlock n r).mem = n.mem := by unfold disableBlock; dsimp only; exact foldl_keeps _ (fun m : Node => m.mem) (fun n b => by simp) _ _
@[simp] theorem disableBlock_prog (n : Node) (r : Nat) : (disableBlock n r).prog = n.prog := by unfold disableBlock; dsimp only; exact foldl_keeps _ (fun m : Node => m.prog) (fun n b => by simp) _ _
@[simp] theorem disableBlock_srch (n : Node) (r : Nat) : (disableBlock n r).srch = n.srch := by unfold disableBlock; dsimp only; exact foldl_keeps _ (fun m : Node => m.srch) (fun n b => by simp) _ _
@[simp] theorem disableBlock_sol (n : Node) (r : Nat) : (disableBlock n r).sol = n.sol := by unfold disableBlock; dsimp only; exact foldl_keeps _ (fun m : Node => m.sol) (fun n b => by simp) _ _
@[simp] theorem disableBlock_ml (n : Node) (r : Nat) : (disableBlock n r).ml = n.ml := by unfold disableBlock; dsimp only; exact foldl_keeps _ (fun m : Node => m.ml) (fun n b => by simp) _ _
@[simp] theorem disableBlock_pol (n : Node) (r : Nat) : (disableBlock n r).pol = n.pol := by unfold disableBlock; dsimp only; exact foldl_keeps _ (fun m : Node => m.pol) (fun n b => by simp) _ _
@[simp] theorem disableBlock_bridge (n : Node) (r : Nat) : (disableBlock n r).bridge = n.bridge := by unfold disableBlock; dsimp only; exact foldl_keeps _ (fun m : Node => m.bridge) (fun n b => by simp) _ _
@[simp] theorem disableBlock_tele (n : Node) (r : Nat) : (disableBlock n r).tele = n.tele := by unfold disableBlock; dsimp only; exact foldl_keeps _ (fun m : Node => m.tele) (fun n b => by simp) _ _
@[simp] theorem disableBlock_free (n : Node) (r : Nat) : (disableBlock n r).free = n.free := by unfold disableBlock; dsimp only; exact foldl_keeps _ (fun m : Node => m.free) (fun n b => by simp) _ _

@[simp] theorem reportNode_alm (n : Node) (node : Nat) : (reportNode n node).alm = n.alm := by unfold reportNode; exact foldl_keeps _ (fun m : Node => m.alm) (fun n b => by simp) _ _
@[simp] theorem reportNode_power (n : Node) (node : Nat) : (reportNode n node).power = n.power := by unfold reportNode; exact foldl_keeps _ (fun m : Node => m.power) (fun n b => by simp) _ _
@[simp] theorem reportNode_log (n : Node) (node : Nat) : (reportNode n node).log = n.log := by unfold reportNode; exact foldl_keeps _ (fun m : Node => m.log) (fun n b => by simp) _ _
@[simp] theorem reportNode_nodeId (n : Node) (node : Nat) : (reportNode n node).nodeId = n.nodeId := by unfold reportNode; exact foldl_keeps _ (fun m : Node => m.nodeId) (fun n b => by simp) _ _
@[simp] theorem reportNode_chainAddr (n : Node) (node : Nat) : (reportNode n node).chainAddr = n.chainAddr := by unfold reportNode; exact foldl_keeps _ (fun m : Node => m.chainAddr) (fun n b => by simp) _ _
@[simp] theorem reportNode_ctxs (n : Node) (node : Nat) : (reportNode n node).ctxs = n.ctxs := by unfold reportNode; exact foldl_keeps _ (fun m : Node => m.ctxs) (fun n b => by simp) _ _
@[simp] theorem reportNode_rings (n : Node) (node : Nat) : (reportNode n node).rings = n.rings := by unfold reportNode; exact foldl_keeps _ (fun m : Node => m.rings) (fun n b => by simp) _ _
@[simp] theorem reportNode_trk (n : Node) (node : Nat) : (reportNode n node).trk = n.trk := by unfold reportNode; exact foldl_keeps _ (fun m : Node => m.trk) (fun n b => by simp) _ _
@[simp] theorem reportNode_coh (n : Node) (node : Nat) : (reportNode n node).coh = n.coh := by unfold reportNode; exact foldl_keeps _ (fun m : Node => m.coh) (fun n b => by simp) _ _
@[simp] theorem reportNode_ctr (n : Node) (node : Nat) : (reportNode n node).ctr = n.ctr := by unfold reportNode; exact foldl_keeps _ (fun m : Node => m.ctr) (fun n b => by simp) _ _
@[simp] theorem reportNode_mem (n : Node) (node : Nat) : (reportNode n node).mem = n.mem := by unfold reportNode; exact foldl_keeps _ (fun m : Node => m.mem) (fun n b => by simp) _ _
@[simp] theorem reportNode_prog (n : Node) (node : Nat) : (reportNode n node).prog = n.prog := by unfold reportNode; exact foldl_keeps _ (fun m : Node => m.prog) (fun n b => by simp) _ _
@[simp] theorem reportNode_srch (n : Node) (node : Nat) : (reportNode n node).srch = n.srch := by unfold reportNode; exact foldl_keeps _ (fun m : Node => m.srch) (fun n b => by simp) _ _
@[simp] theorem reportNode_sol (n : Node) (node : Nat) : (reportNode n node).sol = n.sol := by unfold reportNode; exact foldl_keeps _ (fun m : Node => m.sol) (fun n b => by simp) _ _
@[simp] theorem reportNode_ml (n : Node) (node : Nat) : (reportNode n node).ml = n.ml := by unfold reportNode; exact foldl_keeps _ (fun m : Node => m.ml) (fun n b => by simp) _ _
@[simp] theorem reportNode_flt (n : Node) (node : Nat) : (reportNode n node).flt = n.flt := by unfold reportNode; exact foldl_keeps _ (fun m : Node => m.flt) (fun n b => by simp) _ _
@[simp] theorem reportNode_ports (n : Node) (node : Nat) : (reportNode n node).ports = n.ports := by unfold reportNode; exact foldl_keeps _ (fun m : Node => m.ports) (fun n b => by simp) _ _
@[simp] theorem reportNode_pol (n : Node) (node : Nat) : (reportNode n node).pol = n.pol := by unfold reportNode; exact foldl_keeps _ (fun m : Node => m.pol) (fun n b => by simp) _ _
@[simp] theorem reportNode_bridge (n : Node) (node : Nat) : (reportNode n node).bridge = n.bridge := by unfold reportNode; exact foldl_keeps _ (fun m : Node => m.bridge) (fun n b => by simp) _ _
@[simp] theorem reportNode_tele (n : Node) (node : Nat) : (reportNode n node).tele = n.tele := by unfold reportNode; exact foldl_keeps _ (fun m : Node => m.tele) (fun n b => by simp) _ _

@[simp] theorem failModule_alm (n : Node) (cause d0 : Nat) : (failModule n cause d0).alm = n.alm := by unfold failModule; dsimp only; split <;> simp
@[simp] theorem failModule_nodeId (n : Node) (cause d0 : Nat) : (failModule n cause d0).nodeId = n.nodeId := by unfold failModule; dsimp only; split <;> simp
@[simp] theorem failModule_chainAddr (n : Node) (cause d0 : Nat) : (failModule n cause d0).chainAddr = n.chainAddr := by unfold failModule; dsimp only; split <;> simp
@[simp] theorem failModule_ctxs (n : Node) (cause d0 : Nat) : (failModule n cause d0).ctxs = n.ctxs := by unfold failModule; dsimp only; split <;> simp
@[simp] theorem failModule_rings (n : Node) (cause d0 : Nat) : (failModule n cause d0).rings = n.rings := by unfold failModule; dsimp only; split <;> simp
@[simp] theorem failModule_trk (n : Node) (cause d0 : Nat) : (failModule n cause d0).trk = n.trk := by unfold failModule; dsimp only; split <;> simp
@[simp] theorem failModule_coh (n : Node) (cause d0 : Nat) : (failModule n cause d0).coh = n.coh := by unfold failModule; dsimp only; split <;> simp
@[simp] theorem failModule_ctr (n : Node) (cause d0 : Nat) : (failModule n cause d0).ctr = n.ctr := by unfold failModule; dsimp only; split <;> simp
@[simp] theorem failModule_mem (n : Node) (cause d0 : Nat) : (failModule n cause d0).mem = n.mem := by unfold failModule; dsimp only; split <;> simp
@[simp] theorem failModule_prog (n : Node) (cause d0 : Nat) : (failModule n cause d0).prog = n.prog := by unfold failModule; dsimp only; split <;> simp
@[simp] theorem failModule_srch (n : Node) (cause d0 : Nat) : (failModule n cause d0).srch = n.srch := by unfold failModule; dsimp only; split <;> simp
@[simp] theorem failModule_sol (n : Node) (cause d0 : Nat) : (failModule n cause d0).sol = n.sol := by unfold failModule; dsimp only; split <;> simp
@[simp] theorem failModule_ml (n : Node) (cause d0 : Nat) : (failModule n cause d0).ml = n.ml := by unfold failModule; dsimp only; split <;> simp
@[simp] theorem failModule_flt (n : Node) (cause d0 : Nat) : (failModule n cause d0).flt = n.flt := by unfold failModule; dsimp only; split <;> simp
@[simp] theorem failModule_ports (n : Node) (cause d0 : Nat) : (failModule n cause d0).ports = n.ports := by unfold failModule; dsimp only; split <;> simp
@[simp] theorem failModule_pol (n : Node) (cause d0 : Nat) : (failModule n cause d0).pol = n.pol := by unfold failModule; dsimp only; split <;> simp
@[simp] theorem failModule_bridge (n : Node) (cause d0 : Nat) : (failModule n cause d0).bridge = n.bridge := by unfold failModule; dsimp only; split <;> simp

/-- Failing sets FAILED and nothing else of the power record. -/
@[simp] theorem failModule_power (n : Node) (cause d0 : Nat) : (failModule n cause d0).power = { n.power with failed := true } := by
  unfold failModule; dsimp only; split
  · next h => rw [← h]
  · simp

end Sys2Proof.Machine
end

