-- ==== Sys2Proof/Laws/Memory.lean ====
section
/-! SUPPORT. Byte memories: what a read gives after a write, and that every operation keeps the canonical form. -/

namespace Sys2Proof.Machine

/-! ### Reads after writes -/

@[simp] theorem memGet_put_same (d : Byte) (m : Tbl Byte) (a : Nat) (v : Byte) : memGet d (memPut d m a v) a = v := by
  unfold memGet memPut Tbl.getD
  split
  · next h => simp [h]
  · simp

theorem memGet_put_other (d : Byte) (m : Tbl Byte) (a b : Nat) (v : Byte) (h : b ≠ a) :
    memGet d (memPut d m a v) b = memGet d m b := by
  unfold memGet memPut Tbl.getD
  split
  · rw [Tbl.find?_del_other m a b h]
  · rw [Tbl.find?_put_other m a b v h]

/-- A write changes only the bytes it is given. -/
theorem memGet_write_other (d : Byte) (m : Tbl Byte) (a b : Nat) (bs : Bytes) (h : b < a ∨ a + bs.length ≤ b) :
    memGet d (memWrite d m a bs) b = memGet d m b := by
  induction bs generalizing m a with
  | nil => rfl
  | cons x bs ih =>
    simp only [List.length_cons] at h
    rw [memWrite, ih _ _ (by omega), memGet_put_other _ _ _ _ _ (by omega)]

/-- A write puts each byte at its address. -/
theorem memGet_write_same (d : Byte) (m : Tbl Byte) (a k : Nat) (bs : Bytes) (h : k < bs.length) :
    memGet d (memWrite d m a bs) (a + k) = bs[k] := by
  induction bs generalizing m a k with
  | nil => simp at h
  | cons x bs ih =>
    rw [memWrite]
    cases k with
    | zero => rw [memGet_write_other _ _ _ _ _ (by omega)]; simp
    | succ k =>
      rw [show a + (k + 1) = a + 1 + k by omega, ih _ _ _ (by simpa using h)]; simp

theorem memRead_length (d : Byte) (m : Tbl Byte) (a n : Nat) : (memRead d m a n).length = n := by
  induction n generalizing a with
  | zero => rfl
  | succ n ih => simp [memRead, ih]

theorem memRead_getElem (d : Byte) (m : Tbl Byte) (a n k : Nat) (h : k < (memRead d m a n).length) :
    (memRead d m a n)[k] = memGet d m (a + k) := by
  induction n generalizing a k with
  | zero => simp [memRead] at h
  | succ n ih =>
    cases k with
    | zero => simp [memRead]
    | succ k => simp only [memRead, List.getElem_cons_succ]; rw [ih]; congr 1; omega

/-- What was written is what is read back. -/
theorem memRead_write_same (d : Byte) (m : Tbl Byte) (a : Nat) (bs : Bytes) :
    memRead d (memWrite d m a bs) a bs.length = bs := by
  apply List.ext_getElem (memRead_length _ _ _ _)
  intro k h1 h2
  rw [memRead_getElem, memGet_write_same _ _ _ _ _ h2]

/-- A read of bytes that a write does not touch. -/
theorem memRead_write_other (d : Byte) (m : Tbl Byte) (a b n : Nat) (bs : Bytes) (h : b + n ≤ a ∨ a + bs.length ≤ b) :
    memRead d (memWrite d m a bs) b n = memRead d m b n := by
  apply List.ext_getElem (by simp [memRead_length])
  intro k h1 h2
  rw [memRead_length] at h1
  rw [memRead_getElem, memRead_getElem, memGet_write_other _ _ _ _ _ (by omega)]

theorem Tbl.find?_filter {α : Type} (m : Tbl α) (p : Nat → Bool) (b : Nat) :
    Tbl.find? (m.filter fun c => p c.1) b = if p b then Tbl.find? m b else none := by
  induction m with
  | nil => simp [Tbl.find?]
  | cons x m ih =>
    obtain ⟨j, w⟩ := x
    simp only [List.filter_cons]
    by_cases hj : p j
    · rw [if_pos hj]
      simp only [Tbl.find?]
      by_cases hb : j = b
      · subst hb; simp [hj]
      · simp [hb, ih]
    · rw [if_neg hj, ih]
      by_cases hb : j = b
      · subst hb; simp [hj]
      · simp [Tbl.find?, hb]

/-- Clearing gives `d` in its range and leaves the rest. -/
theorem memGet_clear (d : Byte) (m : Tbl Byte) (a n b : Nat) :
    memGet d (memClear m a n) b = if a ≤ b ∧ b < a + n then d else memGet d m b := by
  unfold memGet memClear Tbl.getD
  rw [Tbl.find?_filter m (fun c => !(decide (a ≤ c) && decide (c < a + n))) b]
  by_cases h : a ≤ b ∧ b < a + n
  · simp [h]
  · rw [if_neg h, if_pos]; simp; omega

/-! ### The canonical form -/

theorem memWfFrom_le {d : Byte} {lo lo' : Nat} {m : Tbl Byte} (h : memWfFrom d lo m = true) (hl : lo' ≤ lo) :
    memWfFrom d lo' m = true := by
  cases m with
  | nil => rfl
  | cons x m => simp [memWfFrom] at h ⊢; exact ⟨⟨by omega, h.1.2⟩, h.2⟩

theorem memWfFrom_put {d : Byte} {lo : Nat} {m : Tbl Byte} (a : Nat) (v : Byte) (h : memWfFrom d lo m = true) (hv : v ≠ d)
    (hl : lo ≤ a) : memWfFrom d lo (Tbl.put m a v) = true := by
  induction m generalizing lo with
  | nil => simp [Tbl.put, memWfFrom, hl, hv]
  | cons x m ih =>
    obtain ⟨j, w⟩ := x
    simp [memWfFrom] at h
    simp only [Tbl.put]
    split
    · simp [memWfFrom, hl, hv, h.1.2, h.2]; omega
    · split
      · next h1 h2 => subst h2; simp [memWfFrom, hl, hv, h.2]
      · simp [memWfFrom, h.1]; exact ih h.2 (by omega)

theorem memWfFrom_del {d : Byte} {lo : Nat} {m : Tbl Byte} (a : Nat) (h : memWfFrom d lo m = true) :
    memWfFrom d lo (Tbl.del m a) = true := by
  induction m generalizing lo with
  | nil => rfl
  | cons x m ih =>
    obtain ⟨j, w⟩ := x
    simp [memWfFrom] at h
    simp only [Tbl.del]
    split
    · exact memWfFrom_le (ih h.2) (by omega)
    · simp [memWfFrom, h.1]; exact ih h.2

theorem memWf_put {d : Byte} {m : Tbl Byte} (a : Nat) (v : Byte) (h : memWf d m = true) : memWf d (memPut d m a v) = true := by
  unfold memPut; split
  · exact memWfFrom_del a h
  · next hv => exact memWfFrom_put a v h hv (by omega)

theorem memWf_write {d : Byte} {m : Tbl Byte} (a : Nat) (bs : Bytes) (h : memWf d m = true) :
    memWf d (memWrite d m a bs) = true := by
  induction bs generalizing m a with
  | nil => exact h
  | cons b bs ih => exact ih _ (memWf_put a b h)

theorem memWf_clear {d : Byte} {m : Tbl Byte} (a n : Nat) (h : memWf d m = true) : memWf d (memClear m a n) = true := by
  unfold memWf memClear at *
  generalize 0 = lo at h ⊢
  induction m generalizing lo with
  | nil => rfl
  | cons x m ih =>
    obtain ⟨j, w⟩ := x
    simp [memWfFrom] at h
    simp only [List.filter_cons]
    split
    · simp [memWfFrom, h.1]; simpa using ih (j + 1) h.2
    · exact memWfFrom_le (ih (j + 1) h.2) (by omega)

/-! ### Flash -/

theorem flashWrite_wf {h : Halord} (off : Nat) (bs : Bytes) (w : memWf 0xFF h.flash = true) :
    memWf 0xFF (flashWrite h off bs).flash = true := memWf_write off bs w

theorem flashErase_wf {h : Halord} (off n : Nat) (w : memWf 0xFF h.flash = true) :
    memWf 0xFF (flashErase h off n).flash = true := memWf_clear off n w

theorem flashRead_write_same (h : Halord) (off : Nat) (bs : Bytes) : flashRead (flashWrite h off bs) off bs.length = bs :=
  memRead_write_same _ _ _ _

theorem flashRead_write_other (h : Halord) (off b n : Nat) (bs : Bytes) (ha : b + n ≤ off ∨ off + bs.length ≤ b) :
    flashRead (flashWrite h off bs) b n = flashRead h b n := memRead_write_other _ _ _ _ _ _ ha

theorem putSlotRecord_wf {h : Halord} (w : memWf 0xFF h.flash = true) : memWf 0xFF (putSlotRecord h).flash = true :=
  flashWrite_wf _ _ w

end Sys2Proof.Machine
end

