-- ==== Sys2Proof/Laws/Settle.lean ====
section
/-! SUPPORT. Where nothing waits, settling changes nothing. -/

namespace Sys2Proof.Machine

open Sys2Proof.Safety

theorem Tbl.find?_mem {α : Type} (t : Tbl α) (k : Nat) (v : α) (h : Tbl.find? t k = some v) : (k, v) ∈ t := by
  induction t with
  | nil => simp [Tbl.find?] at h
  | cons x t ih =>
    obtain ⟨j, w⟩ := x
    simp only [Tbl.find?] at h
    split at h
    · next hj => injection h with h; subst hj h; exact List.mem_cons_self
    · exact List.mem_cons_of_mem _ (ih h)

/-- A fold whose steps all leave their start as it is. -/
theorem foldl_stays {α β : Type} (f : α → β → α) (a : α) (l : List β) (h : ∀ b ∈ l, f a b = a) : l.foldl f a = a := by
  induction l with
  | nil => rfl
  | cons b l ih => rw [List.foldl_cons, h b List.mem_cons_self]; exact ih fun c hc => h c (List.mem_cons_of_mem _ hc)

theorem releaseHeld_quiet (n : Node) (h : ∀ e ∈ n.prs.pairs, e.2.held = []) : releaseHeld n = (n, false) := by
  unfold releaseHeld
  apply foldl_stays
  intro e _
  have : (Tbl.getD n.prs.pairs e.1 Pair.fresh).held = [] := by
    unfold Tbl.getD
    cases hf : Tbl.find? n.prs.pairs e.1 with
    | none => rfl
    | some q => exact h _ (Tbl.find?_mem _ _ _ hf)
  simp only [this]

theorem settleLoop_quiet (n : Node) (fuel : Nat) (h1 : n.trk.reqs = []) (h : ∀ e ∈ n.prs.pairs, e.2.held = []) :
    settleLoop fuel n = n := by
  cases fuel with
  | zero => rfl
  | succ k =>
    have : settlePass n = (n, false) := by
      unfold settlePass
      simp [h1, Tbl.keysOf, releaseHeld_quiet n h]
    simp [settleLoop, this]

/-- Where nothing waits, settling changes nothing. -/
theorem settle_quiet (n : Node) (h : Quiet n) : settle n = n := by
  obtain ⟨h1, h2, h3, h4, h5, h6, h7⟩ := h
  have hc : clearMarks n = n := by simp [clearMarks, h2]
  have hf : startFirings n = n := by simp [startFirings, h3]
  have hp : settleParts n = n := by
    have a1 : finishDrains n = n := by simp [finishDrains, h4]
    have a2 : writeDueRecords n = n := by simp [writeDueRecords, h4]
    have a3 : finishOpens n = n := by simp [finishOpens, h4]
    have a4 : finishQueries n = n := by
      unfold finishQueries
      rw [List.filter_eq_nil_iff.2]
      · rfl
      · intro e he
        simp only [Bool.and_eq_true, beq_iff_eq, not_and]
        intro hr; exact (h6 e he hr).1
    have a5 : finishRestores n = n := by
      unfold finishRestores
      rw [List.filter_eq_nil_iff.2]
      · rfl
      · intro e he
        simp only [Bool.and_eq_true, beq_iff_eq, Bool.or_eq_true, not_and, not_or]
        intro hr; exact ⟨fun h => absurd h (h6 e he hr).2.1, (h6 e he hr).2.2⟩
    rw [settleParts, a1, a2, a3, a4, a5]
  have hr : releaseDirect n = n := by
    unfold releaseDirect
    rw [List.filter_eq_nil_iff.2]
    · rfl
    · intro b hb
      cases hs : spanOf n (b.1 * 64) with
      | none => simp
      | some x => have := h7 b hb; simp [hs] at this; simp [this]
  unfold settle
  simp only [hc, settleLoop_quiet n _ h1 h5, hf, hp, hr]

/-- Where no tile moves and nothing waits, the tiles do nothing of themselves. -/
theorem tilesGo_still (n : Node) (h : Quiet n) (hs : Still n) : tilesGo n = n := by
  have at_ : ∀ t, (tileAt n t).leaving = none ∧ (tileAt n t).returning = false := by
    intro t
    unfold tileAt getAt
    by_cases ht : t < 64
    · have := hs ⟨t, ht⟩
      simpa [Vector.getD, ht, Vector.get_eq_getElem] using this
    · simp [Vector.getD, ht, TileHealth.reset]
  have hr : ((List.range 64).filter fun t => (tileAt n t).returning) = [] := by
    rw [List.filter_eq_nil_iff]; intro t _; simp [(at_ t).2]
  have hl : ((List.range 64).filter fun t => (tileAt n t).leaving.isSome) = [] := by
    rw [List.filter_eq_nil_iff]; intro t _; simp [(at_ t).1]
  unfold tilesGo
  simp only [hr, hl, List.foldl_nil, settle_quiet n h]

end Sys2Proof.Machine
end

