-- ==== Sys2Proof/Laws/Start.lean ====
section
/-! SUPPORT. What the steps of a start leave as it is, field by field. -/

namespace Sys2Proof.Machine

@[simp] theorem logEvent_alert (n : Node) (e : Event) : (logEvent n e).log.alert = n.log.alert := by unfold logEvent; dsimp only; split <;> rfl
@[simp] theorem logEvent_mask (n : Node) (e : Event) : (logEvent n e).log.mask = n.log.mask := by unfold logEvent; dsimp only; split <;> rfl
@[simp] theorem logEvent_ibi (n : Node) (e : Event) : (logEvent n e).log.ibi = n.log.ibi := by unfold logEvent; dsimp only; split <;> rfl
@[simp] theorem logEvent_first (n : Node) (e : Event) : (logEvent n e).log.first = n.log.first := by unfold logEvent; dsimp only; split <;> rfl
@[simp] theorem logEvent_last (n : Node) (e : Event) : (logEvent n e).log.last = n.log.next := by unfold logEvent; dsimp only; split <;> rfl

@[simp] theorem failBringup_alm (n : Node) (i step : Nat) : (failBringup n i step).alm = n.alm := by simp [failBringup, setPort]
@[simp] theorem failBringup_power (n : Node) (i step : Nat) : (failBringup n i step).power = n.power := by simp [failBringup, setPort]
@[simp] theorem failBringup_nodeId (n : Node) (i step : Nat) : (failBringup n i step).nodeId = n.nodeId := by simp [failBringup, setPort]
@[simp] theorem failBringup_chainAddr (n : Node) (i step : Nat) : (failBringup n i step).chainAddr = n.chainAddr := by simp [failBringup, setPort]
@[simp] theorem failBringup_ctxs (n : Node) (i step : Nat) : (failBringup n i step).ctxs = n.ctxs := by simp [failBringup, setPort]
@[simp] theorem failBringup_rings (n : Node) (i step : Nat) : (failBringup n i step).rings = n.rings := by simp [failBringup, setPort]
@[simp] theorem failBringup_trk (n : Node) (i step : Nat) : (failBringup n i step).trk = n.trk := by simp [failBringup, setPort]
@[simp] theorem failBringup_coh (n : Node) (i step : Nat) : (failBringup n i step).coh = n.coh := by simp [failBringup, setPort]
@[simp] theorem failBringup_prs (n : Node) (i step : Nat) : (failBringup n i step).prs = n.prs := by simp [failBringup, setPort]
@[simp] theorem failBringup_ctr (n : Node) (i step : Nat) : (failBringup n i step).ctr = n.ctr := by simp [failBringup, setPort]
@[simp] theorem failBringup_mem (n : Node) (i step : Nat) : (failBringup n i step).mem = n.mem := by simp [failBringup, setPort]
@[simp] theorem failBringup_prog (n : Node) (i step : Nat) : (failBringup n i step).prog = n.prog := by simp [failBringup, setPort]
@[simp] theorem failBringup_srch (n : Node) (i step : Nat) : (failBringup n i step).srch = n.srch := by simp [failBringup, setPort]
@[simp] theorem failBringup_sol (n : Node) (i step : Nat) : (failBringup n i step).sol = n.sol := by simp [failBringup, setPort]
@[simp] theorem failBringup_ml (n : Node) (i step : Nat) : (failBringup n i step).ml = n.ml := by simp [failBringup, setPort]
@[simp] theorem failBringup_flt (n : Node) (i step : Nat) : (failBringup n i step).flt = n.flt := by simp [failBringup, setPort]
@[simp] theorem failBringup_unsent (n : Node) (i step : Nat) : (failBringup n i step).unsent = n.unsent := by simp [failBringup, setPort]
@[simp] theorem failBringup_rrPort (n : Node) (i step : Nat) : (failBringup n i step).rrPort = n.rrPort := by simp [failBringup, setPort]
@[simp] theorem failBringup_traf (n : Node) (i step : Nat) : (failBringup n i step).traf = n.traf := by simp [failBringup, setPort]
@[simp] theorem failBringup_pol (n : Node) (i step : Nat) : (failBringup n i step).pol = n.pol := by simp [failBringup, setPort]
@[simp] theorem failBringup_bridge (n : Node) (i step : Nat) : (failBringup n i step).bridge = n.bridge := by simp [failBringup, setPort]
@[simp] theorem failBringup_out (n : Node) (i step : Nat) : (failBringup n i step).out = n.out := by simp [failBringup, setPort]
@[simp] theorem beginBringup_alm (n : Node) (i : Nat) : (beginBringup n i).alm = n.alm := by unfold beginBringup; dsimp only; (repeat' split) <;> simp [setPort]
@[simp] theorem beginBringup_power (n : Node) (i : Nat) : (beginBringup n i).power = n.power := by unfold beginBringup; dsimp only; (repeat' split) <;> simp [setPort]
@[simp] theorem beginBringup_nodeId (n : Node) (i : Nat) : (beginBringup n i).nodeId = n.nodeId := by unfold beginBringup; dsimp only; (repeat' split) <;> simp [setPort]
@[simp] theorem beginBringup_chainAddr (n : Node) (i : Nat) : (beginBringup n i).chainAddr = n.chainAddr := by unfold beginBringup; dsimp only; (repeat' split) <;> simp [setPort]
@[simp] theorem beginBringup_ctxs (n : Node) (i : Nat) : (beginBringup n i).ctxs = n.ctxs := by unfold beginBringup; dsimp only; (repeat' split) <;> simp [setPort]
@[simp] theorem beginBringup_rings (n : Node) (i : Nat) : (beginBringup n i).rings = n.rings := by unfold beginBringup; dsimp only; (repeat' split) <;> simp [setPort]
@[simp] theorem beginBringup_trk (n : Node) (i : Nat) : (beginBringup n i).trk = n.trk := by unfold beginBringup; dsimp only; (repeat' split) <;> simp [setPort]
@[simp] theorem beginBringup_coh (n : Node) (i : Nat) : (beginBringup n i).coh = n.coh := by unfold beginBringup; dsimp only; (repeat' split) <;> simp [setPort]
@[simp] theorem beginBringup_prs (n : Node) (i : Nat) : (beginBringup n i).prs = n.prs := by unfold beginBringup; dsimp only; (repeat' split) <;> simp [setPort]
@[simp] theorem beginBringup_ctr (n : Node) (i : Nat) : (beginBringup n i).ctr = n.ctr := by unfold beginBringup; dsimp only; (repeat' split) <;> simp [setPort]
@[simp] theorem beginBringup_mem (n : Node) (i : Nat) : (beginBringup n i).mem = n.mem := by unfold beginBringup; dsimp only; (repeat' split) <;> simp [setPort]
@[simp] theorem beginBringup_prog (n : Node) (i : Nat) : (beginBringup n i).prog = n.prog := by unfold beginBringup; dsimp only; (repeat' split) <;> simp [setPort]
@[simp] theorem beginBringup_srch (n : Node) (i : Nat) : (beginBringup n i).srch = n.srch := by unfold beginBringup; dsimp only; (repeat' split) <;> simp [setPort]
@[simp] theorem beginBringup_sol (n : Node) (i : Nat) : (beginBringup n i).sol = n.sol := by unfold beginBringup; dsimp only; (repeat' split) <;> simp [setPort]
@[simp] theorem beginBringup_ml (n : Node) (i : Nat) : (beginBringup n i).ml = n.ml := by unfold beginBringup; dsimp only; (repeat' split) <;> simp [setPort]
@[simp] theorem beginBringup_flt (n : Node) (i : Nat) : (beginBringup n i).flt = n.flt := by unfold beginBringup; dsimp only; (repeat' split) <;> simp [setPort]
@[simp] theorem beginBringup_unsent (n : Node) (i : Nat) : (beginBringup n i).unsent = n.unsent := by unfold beginBringup; dsimp only; (repeat' split) <;> simp [setPort]
@[simp] theorem beginBringup_rrPort (n : Node) (i : Nat) : (beginBringup n i).rrPort = n.rrPort := by unfold beginBringup; dsimp only; (repeat' split) <;> simp [setPort]
@[simp] theorem beginBringup_traf (n : Node) (i : Nat) : (beginBringup n i).traf = n.traf := by unfold beginBringup; dsimp only; (repeat' split) <;> simp [setPort]
@[simp] theorem beginBringup_pol (n : Node) (i : Nat) : (beginBringup n i).pol = n.pol := by unfold beginBringup; dsimp only; (repeat' split) <;> simp [setPort]
@[simp] theorem beginBringup_bridge (n : Node) (i : Nat) : (beginBringup n i).bridge = n.bridge := by unfold beginBringup; dsimp only; (repeat' split) <;> simp [setPort]
@[simp] theorem beginBringup_out (n : Node) (i : Nat) : (beginBringup n i).out = n.out := by unfold beginBringup; dsimp only; (repeat' split) <;> simp [setPort]
@[simp] theorem beginBringup_alert (n : Node) (i : Nat) : (beginBringup n i).log.alert = n.log.alert := by
  unfold beginBringup failBringup; dsimp only; (repeat' split) <;> simp [setPort]

@[simp] theorem commitPortsAtStart_alm (n : Node) : (commitPortsAtStart n).alm = n.alm := by unfold commitPortsAtStart; exact foldl_keeps _ (fun m : Node => m.alm) (fun n b => by dsimp only; split <;> simp [setPort]) _ _
@[simp] theorem commitPortsAtStart_power (n : Node) : (commitPortsAtStart n).power = n.power := by unfold commitPortsAtStart; exact foldl_keeps _ (fun m : Node => m.power) (fun n b => by dsimp only; split <;> simp [setPort]) _ _
@[simp] theorem commitPortsAtStart_nodeId (n : Node) : (commitPortsAtStart n).nodeId = n.nodeId := by unfold commitPortsAtStart; exact foldl_keeps _ (fun m : Node => m.nodeId) (fun n b => by dsimp only; split <;> simp [setPort]) _ _
@[simp] theorem commitPortsAtStart_chainAddr (n : Node) : (commitPortsAtStart n).chainAddr = n.chainAddr := by unfold commitPortsAtStart; exact foldl_keeps _ (fun m : Node => m.chainAddr) (fun n b => by dsimp only; split <;> simp [setPort]) _ _
@[simp] theorem commitPortsAtStart_ctxs (n : Node) : (commitPortsAtStart n).ctxs = n.ctxs := by unfold commitPortsAtStart; exact foldl_keeps _ (fun m : Node => m.ctxs) (fun n b => by dsimp only; split <;> simp [setPort]) _ _
@[simp] theorem commitPortsAtStart_rings (n : Node) : (commitPortsAtStart n).rings = n.rings := by unfold commitPortsAtStart; exact foldl_keeps _ (fun m : Node => m.rings) (fun n b => by dsimp only; split <;> simp [setPort]) _ _
@[simp] theorem commitPortsAtStart_trk (n : Node) : (commitPortsAtStart n).trk = n.trk := by unfold commitPortsAtStart; exact foldl_keeps _ (fun m : Node => m.trk) (fun n b => by dsimp only; split <;> simp [setPort]) _ _
@[simp] theorem commitPortsAtStart_coh (n : Node) : (commitPortsAtStart n).coh = n.coh := by unfold commitPortsAtStart; exact foldl_keeps _ (fun m : Node => m.coh) (fun n b => by dsimp only; split <;> simp [setPort]) _ _
@[simp] theorem commitPortsAtStart_prs (n : Node) : (commitPortsAtStart n).prs = n.prs := by unfold commitPortsAtStart; exact foldl_keeps _ (fun m : Node => m.prs) (fun n b => by dsimp only; split <;> simp [setPort]) _ _
@[simp] theorem commitPortsAtStart_ctr (n : Node) : (commitPortsAtStart n).ctr = n.ctr := by unfold commitPortsAtStart; exact foldl_keeps _ (fun m : Node => m.ctr) (fun n b => by dsimp only; split <;> simp [setPort]) _ _
@[simp] theorem commitPortsAtStart_mem (n : Node) : (commitPortsAtStart n).mem = n.mem := by unfold commitPortsAtStart; exact foldl_keeps _ (fun m : Node => m.mem) (fun n b => by dsimp only; split <;> simp [setPort]) _ _
@[simp] theorem commitPortsAtStart_prog (n : Node) : (commitPortsAtStart n).prog = n.prog := by unfold commitPortsAtStart; exact foldl_keeps _ (fun m : Node => m.prog) (fun n b => by dsimp only; split <;> simp [setPort]) _ _
@[simp] theorem commitPortsAtStart_srch (n : Node) : (commitPortsAtStart n).srch = n.srch := by unfold commitPortsAtStart; exact foldl_keeps _ (fun m : Node => m.srch) (fun n b => by dsimp only; split <;> simp [setPort]) _ _
@[simp] theorem commitPortsAtStart_sol (n : Node) : (commitPortsAtStart n).sol = n.sol := by unfold commitPortsAtStart; exact foldl_keeps _ (fun m : Node => m.sol) (fun n b => by dsimp only; split <;> simp [setPort]) _ _
@[simp] theorem commitPortsAtStart_ml (n : Node) : (commitPortsAtStart n).ml = n.ml := by unfold commitPortsAtStart; exact foldl_keeps _ (fun m : Node => m.ml) (fun n b => by dsimp only; split <;> simp [setPort]) _ _
@[simp] theorem commitPortsAtStart_flt (n : Node) : (commitPortsAtStart n).flt = n.flt := by unfold commitPortsAtStart; exact foldl_keeps _ (fun m : Node => m.flt) (fun n b => by dsimp only; split <;> simp [setPort]) _ _
@[simp] theorem commitPortsAtStart_unsent (n : Node) : (commitPortsAtStart n).unsent = n.unsent := by unfold commitPortsAtStart; exact foldl_keeps _ (fun m : Node => m.unsent) (fun n b => by dsimp only; split <;> simp [setPort]) _ _
@[simp] theorem commitPortsAtStart_rrPort (n : Node) : (commitPortsAtStart n).rrPort = n.rrPort := by unfold commitPortsAtStart; exact foldl_keeps _ (fun m : Node => m.rrPort) (fun n b => by dsimp only; split <;> simp [setPort]) _ _
@[simp] theorem commitPortsAtStart_traf (n : Node) : (commitPortsAtStart n).traf = n.traf := by unfold commitPortsAtStart; exact foldl_keeps _ (fun m : Node => m.traf) (fun n b => by dsimp only; split <;> simp [setPort]) _ _
@[simp] theorem commitPortsAtStart_pol (n : Node) : (commitPortsAtStart n).pol = n.pol := by unfold commitPortsAtStart; exact foldl_keeps _ (fun m : Node => m.pol) (fun n b => by dsimp only; split <;> simp [setPort]) _ _
@[simp] theorem commitPortsAtStart_bridge (n : Node) : (commitPortsAtStart n).bridge = n.bridge := by unfold commitPortsAtStart; exact foldl_keeps _ (fun m : Node => m.bridge) (fun n b => by dsimp only; split <;> simp [setPort]) _ _
@[simp] theorem commitPortsAtStart_out (n : Node) : (commitPortsAtStart n).out = n.out := by unfold commitPortsAtStart; exact foldl_keeps _ (fun m : Node => m.out) (fun n b => by dsimp only; split <;> simp [setPort]) _ _
@[simp] theorem commitPortsAtStart_alert (n : Node) : (commitPortsAtStart n).log.alert = n.log.alert := by
  unfold commitPortsAtStart; exact foldl_keeps _ (fun m : Node => m.log.alert) (fun n b => by dsimp only; split <;> simp [setPort]) _ _

@[simp] theorem stepEnded_of_not_waiting (s : State) (h : s.nd.power.standbyWaits = false) : stepEnded s = s := by simp [stepEnded, h]

@[simp] theorem completeStep_pending (s : State) (k : Nat) : (completeStep s k).pending = s.pending := by simp [completeStep, logIn]
@[simp] theorem completeStep_hl (s : State) (k : Nat) : (completeStep s k).hl = s.hl := by simp [completeStep, logIn]
@[simp] theorem completeStep_nd_alm (s : State) (k : Nat) : (completeStep s k).nd.alm = s.nd.alm := by simp [completeStep, logIn]
@[simp] theorem completeStep_nd_nodeId (s : State) (k : Nat) : (completeStep s k).nd.nodeId = s.nd.nodeId := by simp [completeStep, logIn]
@[simp] theorem completeStep_nd_chainAddr (s : State) (k : Nat) : (completeStep s k).nd.chainAddr = s.nd.chainAddr := by simp [completeStep, logIn]
@[simp] theorem completeStep_nd_ctxs (s : State) (k : Nat) : (completeStep s k).nd.ctxs = s.nd.ctxs := by simp [completeStep, logIn]
@[simp] theorem completeStep_nd_rings (s : State) (k : Nat) : (completeStep s k).nd.rings = s.nd.rings := by simp [completeStep, logIn]
@[simp] theorem completeStep_nd_trk (s : State) (k : Nat) : (completeStep s k).nd.trk = s.nd.trk := by simp [completeStep, logIn]
@[simp] theorem completeStep_nd_coh (s : State) (k : Nat) : (completeStep s k).nd.coh = s.nd.coh := by simp [completeStep, logIn]
@[simp] theorem completeStep_nd_prs (s : State) (k : Nat) : (completeStep s k).nd.prs = s.nd.prs := by simp [completeStep, logIn]
@[simp] theorem completeStep_nd_ctr (s : State) (k : Nat) : (completeStep s k).nd.ctr = s.nd.ctr := by simp [completeStep, logIn]
@[simp] theorem completeStep_nd_mem (s : State) (k : Nat) : (completeStep s k).nd.mem = s.nd.mem := by simp [completeStep, logIn]
@[simp] theorem completeStep_nd_prog (s : State) (k : Nat) : (completeStep s k).nd.prog = s.nd.prog := by simp [completeStep, logIn]
@[simp] theorem completeStep_nd_srch (s : State) (k : Nat) : (completeStep s k).nd.srch = s.nd.srch := by simp [completeStep, logIn]
@[simp] theorem completeStep_nd_sol (s : State) (k : Nat) : (completeStep s k).nd.sol = s.nd.sol := by simp [completeStep, logIn]
@[simp] theorem completeStep_nd_ml (s : State) (k : Nat) : (completeStep s k).nd.ml = s.nd.ml := by simp [completeStep, logIn]
@[simp] theorem completeStep_nd_flt (s : State) (k : Nat) : (completeStep s k).nd.flt = s.nd.flt := by simp [completeStep, logIn]
@[simp] theorem completeStep_nd_ports (s : State) (k : Nat) : (completeStep s k).nd.ports = s.nd.ports := by simp [completeStep, logIn]
@[simp] theorem completeStep_nd_unsent (s : State) (k : Nat) : (completeStep s k).nd.unsent = s.nd.unsent := by simp [completeStep, logIn]
@[simp] theorem completeStep_nd_rrPort (s : State) (k : Nat) : (completeStep s k).nd.rrPort = s.nd.rrPort := by simp [completeStep, logIn]
@[simp] theorem completeStep_nd_traf (s : State) (k : Nat) : (completeStep s k).nd.traf = s.nd.traf := by simp [completeStep, logIn]
@[simp] theorem completeStep_nd_pol (s : State) (k : Nat) : (completeStep s k).nd.pol = s.nd.pol := by simp [completeStep, logIn]
@[simp] theorem completeStep_nd_bridge (s : State) (k : Nat) : (completeStep s k).nd.bridge = s.nd.bridge := by simp [completeStep, logIn]
@[simp] theorem completeStep_nd_out (s : State) (k : Nat) : (completeStep s k).nd.out = s.nd.out := by simp [completeStep, logIn]
@[simp] theorem completeStep_alert (s : State) (k : Nat) : (completeStep s k).nd.log.alert = s.nd.log.alert := by simp [completeStep, logIn]
@[simp] theorem completeStep_power (s : State) (k : Nat) : (completeStep s k).nd.power = { s.nd.power with step := k, stepsDone := s.nd.power.stepsDone ++ [k] } := by simp [completeStep, logIn]

@[simp] theorem advanceStart_pending (s : State) (h : s.nd.power.standbyWaits = false) : (advanceStart s).pending = s.pending := by unfold advanceStart; dsimp only; (repeat' split) <;> simp [h]
@[simp] theorem advanceStart_hl (s : State) (h : s.nd.power.standbyWaits = false) : (advanceStart s).hl = s.hl := by unfold advanceStart; dsimp only; (repeat' split) <;> simp [h]
@[simp] theorem advanceStart_nd_alm (s : State) (h : s.nd.power.standbyWaits = false) : (advanceStart s).nd.alm = s.nd.alm := by unfold advanceStart; dsimp only; (repeat' split) <;> simp [h]
@[simp] theorem advanceStart_nd_nodeId (s : State) (h : s.nd.power.standbyWaits = false) : (advanceStart s).nd.nodeId = s.nd.nodeId := by unfold advanceStart; dsimp only; (repeat' split) <;> simp [h]
@[simp] theorem advanceStart_nd_chainAddr (s : State) (h : s.nd.power.standbyWaits = false) : (advanceStart s).nd.chainAddr = s.nd.chainAddr := by unfold advanceStart; dsimp only; (repeat' split) <;> simp [h]
@[simp] theorem advanceStart_nd_ctxs (s : State) (h : s.nd.power.standbyWaits = false) : (advanceStart s).nd.ctxs = s.nd.ctxs := by unfold advanceStart; dsimp only; (repeat' split) <;> simp [h]
@[simp] theorem advanceStart_nd_rings (s : State) (h : s.nd.power.standbyWaits = false) : (advanceStart s).nd.rings = s.nd.rings := by unfold advanceStart; dsimp only; (repeat' split) <;> simp [h]
@[simp] theorem advanceStart_nd_trk (s : State) (h : s.nd.power.standbyWaits = false) : (advanceStart s).nd.trk = s.nd.trk := by unfold advanceStart; dsimp only; (repeat' split) <;> simp [h]
@[simp] theorem advanceStart_nd_coh (s : State) (h : s.nd.power.standbyWaits = false) : (advanceStart s).nd.coh = s.nd.coh := by unfold advanceStart; dsimp only; (repeat' split) <;> simp [h]
@[simp] theorem advanceStart_nd_prs (s : State) (h : s.nd.power.standbyWaits = false) : (advanceStart s).nd.prs = s.nd.prs := by unfold advanceStart; dsimp only; (repeat' split) <;> simp [h]
@[simp] theorem advanceStart_nd_ctr (s : State) (h : s.nd.power.standbyWaits = false) : (advanceStart s).nd.ctr = s.nd.ctr := by unfold advanceStart; dsimp only; (repeat' split) <;> simp [h]
@[simp] theorem advanceStart_nd_mem (s : State) (h : s.nd.power.standbyWaits = false) : (advanceStart s).nd.mem = s.nd.mem := by unfold advanceStart; dsimp only; (repeat' split) <;> simp [h]
@[simp] theorem advanceStart_nd_prog (s : State) (h : s.nd.power.standbyWaits = false) : (advanceStart s).nd.prog = s.nd.prog := by unfold advanceStart; dsimp only; (repeat' split) <;> simp [h]
@[simp] theorem advanceStart_nd_srch (s : State) (h : s.nd.power.standbyWaits = false) : (advanceStart s).nd.srch = s.nd.srch := by unfold advanceStart; dsimp only; (repeat' split) <;> simp [h]
@[simp] theorem advanceStart_nd_sol (s : State) (h : s.nd.power.standbyWaits = false) : (advanceStart s).nd.sol = s.nd.sol := by unfold advanceStart; dsimp only; (repeat' split) <;> simp [h]
@[simp] theorem advanceStart_nd_ml (s : State) (h : s.nd.power.standbyWaits = false) : (advanceStart s).nd.ml = s.nd.ml := by unfold advanceStart; dsimp only; (repeat' split) <;> simp [h]
@[simp] theorem advanceStart_nd_flt (s : State) (h : s.nd.power.standbyWaits = false) : (advanceStart s).nd.flt = s.nd.flt := by unfold advanceStart; dsimp only; (repeat' split) <;> simp [h]
@[simp] theorem advanceStart_nd_unsent (s : State) (h : s.nd.power.standbyWaits = false) : (advanceStart s).nd.unsent = s.nd.unsent := by unfold advanceStart; dsimp only; (repeat' split) <;> simp [h]
@[simp] theorem advanceStart_nd_rrPort (s : State) (h : s.nd.power.standbyWaits = false) : (advanceStart s).nd.rrPort = s.nd.rrPort := by unfold advanceStart; dsimp only; (repeat' split) <;> simp [h]
@[simp] theorem advanceStart_nd_traf (s : State) (h : s.nd.power.standbyWaits = false) : (advanceStart s).nd.traf = s.nd.traf := by unfold advanceStart; dsimp only; (repeat' split) <;> simp [h]
@[simp] theorem advanceStart_nd_pol (s : State) (h : s.nd.power.standbyWaits = false) : (advanceStart s).nd.pol = s.nd.pol := by unfold advanceStart; dsimp only; (repeat' split) <;> simp [h]
@[simp] theorem advanceStart_nd_bridge (s : State) (h : s.nd.power.standbyWaits = false) : (advanceStart s).nd.bridge = s.nd.bridge := by unfold advanceStart; dsimp only; (repeat' split) <;> simp [h]
@[simp] theorem advanceStart_nd_out (s : State) (h : s.nd.power.standbyWaits = false) : (advanceStart s).nd.out = s.nd.out := by unfold advanceStart; dsimp only; (repeat' split) <;> simp [h]
@[simp] theorem advanceStart_power_input (s : State) (h : s.nd.power.standbyWaits = false) : (advanceStart s).nd.power.input = s.nd.power.input := by unfold advanceStart; dsimp only; (repeat' split) <;> simp [h]
@[simp] theorem advanceStart_power_resetLow (s : State) (h : s.nd.power.standbyWaits = false) : (advanceStart s).nd.power.resetLow = s.nd.power.resetLow := by unfold advanceStart; dsimp only; (repeat' split) <;> simp [h]
@[simp] theorem advanceStart_power_off (s : State) (h : s.nd.power.standbyWaits = false) : (advanceStart s).nd.power.off = s.nd.power.off := by unfold advanceStart; dsimp only; (repeat' split) <;> simp [h]
@[simp] theorem advanceStart_power_state (s : State) (h : s.nd.power.standbyWaits = false) : (advanceStart s).nd.power.state = s.nd.power.state := by unfold advanceStart; dsimp only; (repeat' split) <;> simp [h]
@[simp] theorem advanceStart_power_fromStandby (s : State) (h : s.nd.power.standbyWaits = false) : (advanceStart s).nd.power.fromStandby = s.nd.power.fromStandby := by unfold advanceStart; dsimp only; (repeat' split) <;> simp [h]
@[simp] theorem advanceStart_power_holding (s : State) (h : s.nd.power.standbyWaits = false) : (advanceStart s).nd.power.holding = s.nd.power.holding := by unfold advanceStart; dsimp only; (repeat' split) <;> simp [h]
@[simp] theorem advanceStart_power_failed (s : State) (h : s.nd.power.standbyWaits = false) : (advanceStart s).nd.power.failed = s.nd.power.failed := by unfold advanceStart; dsimp only; (repeat' split) <;> simp [h]
@[simp] theorem advanceStart_power_entry (s : State) (h : s.nd.power.standbyWaits = false) : (advanceStart s).nd.power.entry = s.nd.power.entry := by unfold advanceStart; dsimp only; (repeat' split) <;> simp [h]
@[simp] theorem advanceStart_power_standbyWaits (s : State) (h : s.nd.power.standbyWaits = false) : (advanceStart s).nd.power.standbyWaits = s.nd.power.standbyWaits := by unfold advanceStart; dsimp only; (repeat' split) <;> simp [h]
@[simp] theorem advanceStart_power_brownOut (s : State) (h : s.nd.power.standbyWaits = false) : (advanceStart s).nd.power.brownOut = s.nd.power.brownOut := by unfold advanceStart; dsimp only; (repeat' split) <;> simp [h]
@[simp] theorem advanceStart_power_railStep (s : State) (h : s.nd.power.standbyWaits = false) : (advanceStart s).nd.power.railStep = s.nd.power.railStep := by unfold advanceStart; dsimp only; (repeat' split) <;> simp [h]
@[simp] theorem advanceStart_power_rising (s : State) (h : s.nd.power.standbyWaits = false) : (advanceStart s).nd.power.rising = s.nd.power.rising := by unfold advanceStart; dsimp only; (repeat' split) <;> simp [h]
@[simp] theorem advanceStart_power_domains (s : State) (h : s.nd.power.standbyWaits = false) : (advanceStart s).nd.power.domains = s.nd.power.domains := by unfold advanceStart; dsimp only; (repeat' split) <;> simp [h]
@[simp] theorem advanceStart_power_refclk (s : State) (h : s.nd.power.standbyWaits = false) : (advanceStart s).nd.power.refclk = s.nd.power.refclk := by unfold advanceStart; dsimp only; (repeat' split) <;> simp [h]
@[simp] theorem advanceStart_power_hostEn (s : State) (h : s.nd.power.standbyWaits = false) : (advanceStart s).nd.power.hostEn = s.nd.power.hostEn := by unfold advanceStart; dsimp only; (repeat' split) <;> simp [h]
@[simp] theorem advanceStart_power_elsOk (s : State) (h : s.nd.power.standbyWaits = false) : (advanceStart s).nd.power.elsOk = s.nd.power.elsOk := by unfold advanceStart; dsimp only; (repeat' split) <;> simp [h]
@[simp] theorem advanceStart_power_stacksUp (s : State) (h : s.nd.power.standbyWaits = false) : (advanceStart s).nd.power.stacksUp = s.nd.power.stacksUp := by unfold advanceStart; dsimp only; (repeat' split) <;> simp [h]
@[simp] theorem advanceStart_power_stackTries (s : State) (h : s.nd.power.standbyWaits = false) : (advanceStart s).nd.power.stackTries = s.nd.power.stackTries := by unfold advanceStart; dsimp only; (repeat' split) <;> simp [h]
@[simp] theorem advanceStart_power_denseDone (s : State) (h : s.nd.power.standbyWaits = false) : (advanceStart s).nd.power.denseDone = s.nd.power.denseDone := by unfold advanceStart; dsimp only; (repeat' split) <;> simp [h]
@[simp] theorem advanceStart_power_bootCount (s : State) (h : s.nd.power.standbyWaits = false) : (advanceStart s).nd.power.bootCount = s.nd.power.bootCount := by unfold advanceStart; dsimp only; (repeat' split) <;> simp [h]
@[simp] theorem advanceStart_power_noChange (s : State) (h : s.nd.power.standbyWaits = false) : (advanceStart s).nd.power.noChange = s.nd.power.noChange := by unfold advanceStart; dsimp only; (repeat' split) <;> simp [h]
@[simp] theorem advanceStart_alert (s : State) (h : s.nd.power.standbyWaits = false) : (advanceStart s).nd.log.alert = s.nd.log.alert := by unfold advanceStart; dsimp only; (repeat' split) <;> simp [h]

/-- A step done stays done. -/
theorem advanceStart_stepsDone (s : State) (h : s.nd.power.standbyWaits = false) (k : Nat) (hk : k ∈ s.nd.power.stepsDone) : k ∈ (advanceStart s).nd.power.stepsDone := by
  unfold advanceStart; dsimp only; (repeat' split) <;> simp [h, hk]

@[simp] theorem failStart_pending (s : State) (k c : Nat) : (failStart s k c).pending = s.pending := by simp [failStart, alertIn, logIn]
@[simp] theorem failStart_hl (s : State) (k c : Nat) : (failStart s k c).hl = s.hl := by simp [failStart, alertIn, logIn]
@[simp] theorem failStart_nd_alm (s : State) (k c : Nat) : (failStart s k c).nd.alm = s.nd.alm := by simp [failStart, alertIn, logIn]
@[simp] theorem failStart_nd_nodeId (s : State) (k c : Nat) : (failStart s k c).nd.nodeId = s.nd.nodeId := by simp [failStart, alertIn, logIn]
@[simp] theorem failStart_nd_chainAddr (s : State) (k c : Nat) : (failStart s k c).nd.chainAddr = s.nd.chainAddr := by simp [failStart, alertIn, logIn]
@[simp] theorem failStart_nd_ctxs (s : State) (k c : Nat) : (failStart s k c).nd.ctxs = s.nd.ctxs := by simp [failStart, alertIn, logIn]
@[simp] theorem failStart_nd_rings (s : State) (k c : Nat) : (failStart s k c).nd.rings = s.nd.rings := by simp [failStart, alertIn, logIn]
@[simp] theorem failStart_nd_trk (s : State) (k c : Nat) : (failStart s k c).nd.trk = s.nd.trk := by simp [failStart, alertIn, logIn]
@[simp] theorem failStart_nd_coh (s : State) (k c : Nat) : (failStart s k c).nd.coh = s.nd.coh := by simp [failStart, alertIn, logIn]
@[simp] theorem failStart_nd_prs (s : State) (k c : Nat) : (failStart s k c).nd.prs = s.nd.prs := by simp [failStart, alertIn, logIn]
@[simp] theorem failStart_nd_ctr (s : State) (k c : Nat) : (failStart s k c).nd.ctr = s.nd.ctr := by simp [failStart, alertIn, logIn]
@[simp] theorem failStart_nd_mem (s : State) (k c : Nat) : (failStart s k c).nd.mem = s.nd.mem := by simp [failStart, alertIn, logIn]
@[simp] theorem failStart_nd_prog (s : State) (k c : Nat) : (failStart s k c).nd.prog = s.nd.prog := by simp [failStart, alertIn, logIn]
@[simp] theorem failStart_nd_srch (s : State) (k c : Nat) : (failStart s k c).nd.srch = s.nd.srch := by simp [failStart, alertIn, logIn]
@[simp] theorem failStart_nd_sol (s : State) (k c : Nat) : (failStart s k c).nd.sol = s.nd.sol := by simp [failStart, alertIn, logIn]
@[simp] theorem failStart_nd_ml (s : State) (k c : Nat) : (failStart s k c).nd.ml = s.nd.ml := by simp [failStart, alertIn, logIn]
@[simp] theorem failStart_nd_flt (s : State) (k c : Nat) : (failStart s k c).nd.flt = s.nd.flt := by simp [failStart, alertIn, logIn]
@[simp] theorem failStart_nd_ports (s : State) (k c : Nat) : (failStart s k c).nd.ports = s.nd.ports := by simp [failStart, alertIn, logIn]
@[simp] theorem failStart_nd_unsent (s : State) (k c : Nat) : (failStart s k c).nd.unsent = s.nd.unsent := by simp [failStart, alertIn, logIn]
@[simp] theorem failStart_nd_rrPort (s : State) (k c : Nat) : (failStart s k c).nd.rrPort = s.nd.rrPort := by simp [failStart, alertIn, logIn]
@[simp] theorem failStart_nd_traf (s : State) (k c : Nat) : (failStart s k c).nd.traf = s.nd.traf := by simp [failStart, alertIn, logIn]
@[simp] theorem failStart_nd_pol (s : State) (k c : Nat) : (failStart s k c).nd.pol = s.nd.pol := by simp [failStart, alertIn, logIn]
@[simp] theorem failStart_nd_bridge (s : State) (k c : Nat) : (failStart s k c).nd.bridge = s.nd.bridge := by simp [failStart, alertIn, logIn]
@[simp] theorem failStart_power (s : State) (k c : Nat) : (failStart s k c).nd.power = { s.nd.power with failed := true, holding := true, railStep := 0, rising := [] } := by simp [failStart, alertIn, logIn]

end Sys2Proof.Machine
end

