-- ==== Sys2Proof/WellFormed.lean ====
section
/-! DEFINITION. Which commands are well formed: what the width of an operand cannot say. A meaning takes ill-formed operands too, and
then does what the manual says of a malformed packet, frame or request. -/

namespace Sys2Proof

/-- A packet's payload is at most 4,096 bytes (R118). -/
def packetFits (p : Packet) : Bool := decide (p.data.length ≤ 4096)

/-- A flit or control flit has 64 bytes (R101, R105). -/
def flitFits (flit : Bytes) : Bool := flit.length == 64

/-- A chain frame has a head of 8 bytes, at most 256 of payload, and its CRC (R505). -/
def chainFits (frame : Bytes) : Bool := decide (12 ≤ frame.length ∧ frame.length ≤ 268)

/-- A security request has at least its first word and lies within the request area (R575). -/
def requestFits (req : RequestWords) : Bool := decide (1 ≤ req.length ∧ req.length ≤ 32)

/-- A host's request carries one line or nothing (R194). -/
def hostFits (m : HostM2S) : Bool := m.data.length == 64 || m.data.isEmpty

/-- Data of a drive's answer comes in blocks of 4,096 bytes with 16 bytes of metadata each (R323). -/
def blocksFit (data meta_ : Bytes) : Bool := data.length % 4096 == 0 && meta_.length == data.length / 4096 * 16

/-- A BIST failure names a class of unit that exists (R559). -/
def bistFits (f : BistFailure) : Bool := decide (f.uclass.toNat ≤ 4)

/-- A command is well formed. -/
def WellFormed : Instr → Bool
  | .bistComplete failures => failures.all bistFits
  | .chainEnum f | .chainFrameForward f | .chainRdReq f | .chainWrReq f | .chainRdRsp f | .chainWrRsp f | .chainAlert f => chainFits f
  | .imgBegin f | .imgChunk f | .imgNak f | .imgHold f | .imgGo f | .imgResult f | .secReq f | .secRsp f => chainFits f
  | .i3cPrivateWrite bytes => !bytes.isEmpty
  | .registerWrite offset _ => offset.toNat % 8 == 0
  | .ringEntryWrite _ slot data _ => decide (slot.toNat < 1024 ∧ data.length ≤ 64)
  | .engineResponse p | .read p | .write p | .atomic p | .tileRead p | .tileWrite p | .tileAcc p | .wait p | .probe p => packetFits p
  | .controlRegionAccess p | .seqReset p | .seqSync p | .recallAnswer p | .wbEvict p | .bridgeFwdSnoop p => packetFits p
  | .bridgeNotifyWrite p | .lenderResponse p | .peerForward p | .forwardAnswer p | .repairRead p | .repairReadAnswer p => packetFits p
  | .resyncRequest p | .mapCreate p | .mapPropose p | .mapAgreement p | .mapResult p | .mapSubscribe p | .mapFetch p => packetFits p
  | .mapPush p | .membBeat p | .membAck p | .membJoin p | .membReport p | .membLost p | .membAgreement p => packetFits p
  | .leapOrder p | .leapOpen p | .leapReady p | .leapPeer p | .adoptQuery p | .reclaim p => packetFits p
  | .bridgeRequestResponse p | .counterProbeAnswer p => packetFits p
  | .frameReceive _ _ _ flit _ => flitFits flit
  | .replayReq _ flit | .credit _ flit | .laneState _ flit | .keepalive _ flit | .hello _ flit => flitFits flit
  | .hostMemrd m _ | .hostMemwr m | .hostMemwrptl m | .hostMemspecrd m | .hostOtherM2s m _ => hostFits m
  | .hostBirsp _ _ _ dirty => (dirty.map flitFits).getD true
  | .stackCacheFillComplete _ data meta_ => blocksFit data meta_
  | .nvmeCompletion _ _ data meta_ => blocksFit data meta_
  | .imgOpenFirmware r | .imgOpenAlmanac r | .imgStage r | .imgUnstage r | .imgPush r | .relay r | .attest r => requestFits r
  | .presClose r | .ownerSet r | .bindSet r | .debugUnlock r | .factoryReset r | .almanacCopy r => requestFits r
  | .imageAreaWrite offset _ => decide (offset % 8 = 0 ∧ offset < 2 ^ 26)
  | .uncorrectableLine line _ => decide (line < 2 ^ 57)
  | .vigilPatrolRead line _ => decide (line < 2 ^ 57)
  | _ => true

end Sys2Proof
end

