-- ==== Sys2Proof/Tests/Slice0.lean ====
section
/-! SUPPORT. The model's own tests: small states and one command each. A line of a test is an input that meets the hypotheses of one clause
of a statement, with what the rule says comes of it. -/

open Sys2Proof Sys2Proof.Machine Sys2Proof.Safety

-- One test at a time, so that they share no memory.
set_option Elab.async false

/-! ### Helpers -/

/-- A command's next state passes a check. -/
def runs (i : Instr) (s : State) (f : State → Bool) : Bool :=
  match exec i s with
  | .next t => f t
  | _ => false

/-- As `runs`, of the node. -/
def moves (i : Instr) (s : State) (f : Node → Bool) : Bool := runs i s fun t => f t.nd

/-- A module in Ready, node 5 of the fabric, with a management driver at node 9. -/
def readyNode : Node :=
  { Node.reset with
    nodeId := 5
    alm := { Almanac.reset with adopted := true, personality := 1, driverNodes := [9], failureDomain := 3 }
    power := { Power.reset with input := true, off := false, state := 2, step := 9, domains := [0, 1, 2], stacksUp := List.range 8 }
    prs := { PairState.reset with incarnation := 7 } }

/-- A state around a node. -/
def around (n : Node) : State := { State.reset with nd := n }

/-- The module in Ready. -/
def ready : State := around readyNode

/-- A context slot with a key, and with its ranges. -/
def ctxSlot (rs : Tbl Range) : CtxSlot :=
  { slotNo := 0, key := { gen := 1, salt := 2, ident := 3, keys := List.replicate 64 7 }, admits := 1, ranges := rs, nextGen := 1,
    keepers := [5], curGen := 0, kept := [] }

/-- A ring's first slot with a descriptor of eight words. -/
def withDesc (r : Ring) (slot : Nat) (ws : List Word) : Ring :=
  { r with storage := memWrite 0 r.storage (slot * 64) (wordsToBytes ws) }

/-- The admin ring enabled, 64 slots. -/
def liveRing : Ring := { Ring.reset with cfgLive := 0x601, cfgStage := 0x601 }

/-- A ready node with ring 0 as given. -/
def ringNode (r : Ring) : Node := { readyNode with rings := [(0, r)] }

/-- A consumed command of the admin ring. -/
def cmdWith (ws : List Word) : Cmd :=
  { ring := 0, fired := false, slot := 0, desc := ws, writer := 9, region := 0, order := 1, phase := .consumed, status := 0,
    result0 := 0, word3 := 0, landed := 0, setErr := false, stage := 0, work := [], waits := [], mirrored := false }

/-- A ready node holding one command as number 1. -/
def cmdNode (c : Cmd) : Node :=
  { ringNode { liveRing with inflight := 1 } with trk := { Trackers.reset with cmds := [(1, c)], nextTid := 2 } }

/-- A stack range of one granule at PVA and local offset 65536, all rights. -/
def oneRange : Range :=
  { rangeOfWords [0x10000, 1, 0x10000, 7, 0] 1 with gen := 1 }

/-- A node with context 4, that range, and the range's first block of 4 KiB in a slice with these bytes. -/
def dataNode (c : Cmd) (bs : Bytes) : Node :=
  { cmdNode c with
    ctxs := { Contexts.reset with slots := [(4, ctxSlot [(0x10000, oneRange)])] }
    mem := { Tiers.reset with plain := memWrite 0 [] 0x10000 bs,
                              blocks := [(0x10, { tile := homeTile (cmdNode c) 0x400, slot := 0, valid := 2 ^ 64 - 1, dirty := 0, pinned := false, use := 0 })] } }
/-- The node of context 4, homed by module 6, as this module's image of the map shows it. -/
def mappedNode (c : Cmd) (pri : Nat) : Node :=
  { cmdNode c with ctxs := { Contexts.reset with images := [(4, { ctx := 4, gen := 1, keepers := [5], entries :=
      [{ start := 0, chunks := 8, primary := pri, mirror := 0, egen := 1, lost := false, op := 1 }] })] } }

/-- A command has ended with this status and RESULT0. -/
def endedAs (m : Node) (st : Nat) (r0 : Word) : Bool :=
  (cmdOf m 1).map (fun c => (c.phase == .ended && c.status == st && c.result0 == r0)) == some true

/-- A context's counter 7. -/
def counterNode (c : Cmd) (v : Nat) : Node :=
  { cmdNode c with ctr := { Counters.reset with tab := [(7, { value := v, err := false, bytes := false, owner := 4, trig := none })] } }

/-- A state whose owner storage key is loaded. -/
def owned (n : Node) : State :=
  { around n with hl := { Halord.reset with sec := { Security.reset with storageKey := List.replicate 32 9 } } }

/-- A ready node with context 4 open. -/
def ctxNode (c : Cmd) (rs : Tbl Range) : Node := { cmdNode c with ctxs := { Contexts.reset with slots := [(4, ctxSlot rs)] } }

/-- An admitted request. -/
def someReq (p : Packet) : Req :=
  { pkt := p, region := 0, escalated := false, units := [], taken := [], landed := 0, ovf := 0, nans := 0, result := [], status := none,
    grant := 0, fwds := [], under := [], lines := [], lostState := false, late := false, recopy := [] }

/-- The node with a range of context 4 whose whole granule lies in slices. -/
def residentNode (n : Node) (r : Range) : Node :=
  let blocks := (List.range 16).foldl (fun t i =>
    Tbl.put t (r.localOff / 4096 + i)
      ({ tile := homeTile n (r.localOff / 64 + 64 * i), slot := 0, valid := 2 ^ 64 - 1, dirty := 0, pinned := false, use := 0 } : TileBlock)) n.mem.blocks
  let ranges := Tbl.put (((slotOf n 4).map (·.ranges)).getD []) r.start r
  { n with ctxs := { n.ctxs with slots := [(4, ctxSlot ranges)] }, mem := { n.mem with blocks := blocks } }

/-- The ready node among modules 6 and 7 in other failure domains. -/
def amongModules (n : Node) : Node :=
  { n with ml := { n.ml with memb := { n.ml.memb with known := [(6, (1, true)), (7, (2, true))] } } }

/-- An MGT packet of module 6 with words. -/
def mgtFrom6 (op : Nat) (ws : List Word) : Packet :=
  sealPacket { mgtPacket { readyNode with nodeId := 6 } 5 op ws with seq := 1 }

/-- An answer of module 6 in class MGT. -/
def mgtAnswer6 (op st seq : Nat) : Packet :=
  sealPacket { blankPacket 5 6 5 op with seq := 1, status := BitVec.ofNat 8 st, op5 := wordOf seq }

/-- A context slot that holds the extent of 8 chunks from 0 as its primary. -/
def keptSlot : CtxSlot :=
  { ctxSlot [(0x10000, oneRange)] with
    kept := [{ start := 0, chunks := 8, primary := 5, mirror := 0, egen := 1, lost := false, op := 0 }], curGen := 3, keepers := [6, 7, 8] }

/-- A Leap of that extent to module 6. -/
def someLeap : LeapOut := { newLeap 4 0 8 6 with tid := 1 }

/-- The node with that extent and a Leap of it, number 1. -/
def leapNode (c : Cmd) (l : LeapOut) : Node :=
  amongModules { cmdNode c with ctxs := { Contexts.reset with slots := [(4, keptSlot)] }, ml := { MapLeap.reset with outs := [(1, l)], nextLeap := 2 } }

/-! ### Part 1 -/

/-- A state whose power record is this. -/
def powered (p : Power) : State := around { readyNode with power := p }

/-- Power of a module in Off with its input in range. -/
def offPower : Power := { Power.reset with input := true, domains := [] }

/-- Power of a module in a start with these steps done. -/
def startPower (done : List Nat) : Power := { readyNode.power with state := 0, step := 0, stepsDone := done, stacksUp := [] }

/-- Inputs that meet the hypotheses of `Obligations.ColdStartBegins`, and what each comes to. -/
theorem test_coldStartBegins :
    let up := powered { offPower with input := false }
    let low := powered { offPower with resetLow := true }
    let begun := fun (t : State) => t.nd.power.railStep == 1 && t.nd.power.bootCount == 1 && t.nd.nodeId == 0 && !t.nd.power.off
    [ runs (.powerInputUp true) up (fun t => begun t && t.nd.power.hostEn),
      runs (.resetNRelease false) low (fun t => begun t && !t.nd.power.hostEn),
      runs (.powerInputUp true) ready (fun t => t == ready),
      runs (.powerInputUp true) low (fun t => t == low),
      runs (.resetNRelease true) ready (fun t => t == ready),
      runs (.resetNRelease true) (powered { offPower with resetLow := true, input := false }) (fun t => t.nd.power.off) ].all id = true := by decide +kernel

/-- Inputs that meet the hypotheses of `Obligations.GoesOff`, and what each comes to. -/
theorem test_goesOff :
    let off := fun (t : State) => t.nd.power.off && t.nd.ctxs == Contexts.reset && t.nd.mem.plain == []
    let s := around { dataNode (cmdWith [0]) [1] with log := { EventLog.reset with next := 9 } }
    [ runs .resetNAssert s (fun t => off t && t.nd.power.domains == [0] && t.nd.power.resetLow && t.nd.log.next == 9),
      runs .overVoltageTrip s (fun t => off t && t.nd.power.domains == [] && !t.nd.power.input),
      runs .aonTrip s (fun t => off t && t.nd.power.domains == [] && !t.nd.power.input),
      runs (.railFault 0) s (fun t => off t && t.nd.power.domains == [] && t.nd.power.input) ].all id = true := by decide +kernel

/-- Inputs that meet the hypotheses of `Obligations.BrownOutAndReturn`, and what each comes to. -/
theorem test_brownOutAndReturn :
    let standby := powered { readyNode.power with state := 1, domains := [0], brownOut := true, input := false, hostEn := true }
    [ runs .brownOut ready (fun t => t.nd.power.state == 1 && t.nd.power.domains == [0] && t.nd.power.brownOut && !t.nd.power.input),
      runs .brownOut standby (fun t => t == standby),
      runs .brownOut (powered offPower) (fun t => t.nd.power.off && !t.nd.power.input),
      runs .standbyAutoExit standby (fun t => t.nd.power.state == 0 && t.nd.power.rising == [(2, 0)] && t.nd.power.bootCount == 1),
      runs .standbyAutoExit (powered { standby.nd.power with hostEn := false }) (fun t => t.nd.power.state == 0 && t.nd.power.fromStandby),
      runs .standbyAutoExit ready (fun t => t == ready) ].all id = true := by decide +kernel

/-- Inputs that meet the hypotheses of `Obligations.PowerRequests`, and what each comes to. -/
theorem test_powerRequests :
    let standby := powered { readyNode.power with state := 1, domains := [0], brownOut := true, hostEn := true }
    let start := powered (startPower [])
    let busy := { ready with hl := { Halord.reset with session := some { (freshSession 0 64 0 0 0 false) with bytes := [1] } } }
    [ runs .powerReqStandby ready (fun t => t.nd.power.entry == 1),
      flashBusy busy.hl, runs .powerReqStandby busy (fun t => t.nd.power.entry == 0 && t.nd.power.standbyWaits),
      runs .powerReqStandby start (fun t => t.nd.power.state == 0 && t.nd.power.standbyWaits),
      runs .powerReqStandby (powered { start.nd.power with holding := true }) (fun t => t.nd.power.state == 1 && t.nd.power.domains == [0]),
      runs .powerReqStandby standby (fun t => t.nd.power.noChange == 1 && !t.nd.power.brownOut && t.nd.log.next == 1),
      runs .powerReqReady standby (fun t => t.nd.power.railStep == 3 && t.nd.power.bootCount == 1),
      runs .powerReqReady (powered { standby.nd.power with hostEn := false }) (fun t => t.nd.power.state == 0),
      runs .powerReqReady start (fun t => t == start),
      runs .powerReqReady ready (fun t => t.nd.power.noChange == 1 && t.nd.power.state == 2),
      runs .powerReqNoChange ready (fun t => t.nd.power.noChange == 1 && t.nd.log.next == 1) ].all id = true := by decide +kernel

/-- Inputs that meet the hypotheses of `Obligations.RailsAndRefclk`, and what each comes to. -/
theorem test_railsAndRefclk :
    let rise := fun (k : Nat) (r : List (Nat × Nat)) => powered { startPower [] with railStep := k, rising := r, domains := [0] }
    [ runs .inputCapacitanceCharged (rise 1 []) (fun t => t.nd.power.railStep == 2 && t.nd.power.rising == [(0, 0)]),
      runs (.railInWindow 0) (rise 2 [(0, 0)]) (fun t => t.nd.power.rising == [(0, 1)]),
      runs (.railInWindow 75) (rise 14 [(75, railCount 75 - 1), (76, 0)]) (fun t => t.nd.power.rising == [(76, 0)] && t.nd.power.domains == [0, 75]),
      runs (.railInWindow 1) (rise 4 [(1, railCount 1 - 1)]) (fun t => t.nd.power.railStep == 5 && t.nd.power.domains == [0, 1] && t.nd.power.rising != []),
      runs (.railFault 76) (around { readyNode with ports := Vector.replicate 32 { OPort.reset with status := 2 } })
        (fun t => t.nd.ports.toList.map portState == [2, 2, 2, 2, 3, 3, 3, 3] ++ List.replicate 24 2 && !t.nd.power.failed),
      runs (.railFault 67) (powered (startPower [])) (fun t => t.nd.power.failed && t.nd.power.holding),
      runs .refclkLoss ready (fun t => !accepting t.nd && t.nd.log.next == 1),
      runs .refclkReturn (powered { readyNode.power with refclk := false }) (fun t => accepting t.nd) ].all id = true := by decide +kernel

/-! ### Part 2 -/

/-- Inputs that meet the hypotheses of `Obligations.BistEndsStepFour`, and what each comes to. -/
theorem test_bistEndsStepFour :
    let start := { powered { startPower [1, 2, 3] with hostEn := true } with hl := { Halord.reset with chain := { Chain.reset with head := true } } }
    let bad : BistFailure := { uclass := 2, unit_ := 0, array := 0x23, kind := 0, row := 0, col := 0, bit := 0, subarray := 0, colOnly := false }
    let lane : BistFailure := { bad with uclass := 0, unit_ := 3, array := 3 }
    let out := fun (f : BistFailure) => (settleAll [f] [] readyNode []).2
    [ runs (.bistComplete []) start (fun t => t.nd.power.stepsDone.contains 4 && t.nd.chainAddr == 1 && t.hl.sec.identity),
      (settleAll [bad, bad, bad] [] readyNode []).2 == [0, 0, 7], runs (.bistComplete [bad, bad, bad]) start (fun t => t.nd.power.failed && t.nd.power.holding),
      out lane == [2], out { lane with array := 6 } == [4], out { lane with uclass := 3 } == [6] ].all id = true := by decide +kernel

/-- Inputs that meet the hypotheses of `Obligations.StepSixBringsUp`, and what each comes to. -/
theorem test_stepSixBringsUp :
    let start := powered { startPower [1, 2, 3, 4, 5] with stacksUp := [] }
    let dense := around { start.nd with alm := { readyNode.alm with fields := [(0x0201, 2)] } }
    [ runs (.stackTrainingDone 3 false false) start (fun t => getAt t.nd.power.stackTries 3 0 == 1 && t.nd.log.next == 1),
      runs (.stackTrainingDone 3 true true) start (fun t => t.nd.power.failed && t.nd.power.holding),
      runs (.stackTrainingDone 3 false false) (powered { start.nd.power with stackTries := putAt start.nd.power.stackTries 3 2 })
        (fun t => t.nd.power.failed && t.nd.power.stacksUp == []),
      runs (.stackTrainingDone 3 true false) start (fun t => t.nd.power.stacksUp == [3] && !t.nd.power.failed),
      runs (.densePortBringupDone 1 true true true 1000000 8 true) dense
        (fun t => fieldOf (t.nd.mem.dports.get 1).status 1 0 == 2 && (t.nd.mem.dports.get 1).gen == 1 && t.nd.power.denseDone == [1]),
      runs (.densePortBringupDone 1 true true false 1000000 8 true) dense
        (fun t => fieldOf (t.nd.mem.dports.get 1).status 1 0 == 0 && bitOf t.nd.log.alert alDrive) ].all id = true := by decide +kernel

/-- Inputs that meet the hypotheses of `Obligations.JoinBegins`, and what each comes to. -/
theorem test_joinBegins :
    let n := { readyNode with alm := { readyNode.alm with membKeepers := [6, 7, 8] }, power := startPower [1, 2, 3, 4, 5, 6, 7], ports := putAt readyNode.ports 0 { OPort.reset with status := 2 } }
    [ anyPortUp n, keepersNow n == [6, 7, 8],
      runs .startJoinFabric (around n) (fun t => t.nd.prs.incarnation == 8 && (pairOf t.nd 5 6).resetting
        && (pairOf t.nd 5 6).waiting.map (·.opcode) == [0xA2]) ].all id = true := by decide +kernel

/-- Inputs that meet the hypotheses of `Obligations.StandbyEntryAndWatchdog`, and what each comes to. -/
theorem test_standbyEntryAndWatchdog :
    let entry := fun (k : Nat) => around { readyNode with power := { readyNode.power with entry := k } }
    let live := around { (entry 2).nd with mem := { Tiers.reset with dports := putAt Tiers.reset.dports 3 { DensePort.reset with status := 2, nsBlocks := 1024, queues := 4 } } }
    let kept := around { (entry 3).nd with alm := { readyNode.alm with membKeepers := [6, 7, 8] } }
    let busy := { ready with hl := { Halord.reset with session := some (freshSession 0 64 0 0 0 false), mbx := { Mailbox.reset with stat := 1, op := 2, space := 5 } } }
    [ runs .standbyFlush (around { cmdNode (cmdWith [0x10]) with power := (entry 1).nd.power }) (fun t => t.nd.power.entry == 1),
      runs .standbyFlush (entry 1) (fun t => t.nd.power.entry == 2),
      runs .standbyFlush live (fun t => t.nd.power.entry == 3 && t.nd.mem.nvme.map (fun c => (c.2.port, c.2.opcode)) == [(3, 0)]),
      runs .standbyFlush kept (fun t => t.nd.power.entry == 4),
      runs .standbyFlush (entry 3) (fun t => t.nd.power.state == 1 && t.nd.power.domains == [0]),
      runs .watchdogExpiry busy (fun t => t.hl.restarting && t.hl.session == none && !bitOf t.hl.mbx.stat 0 && t.nd == ready.nd),
      runs .halordRestartComplete { ready with hl := { Halord.reset with restarting := true } }
        (fun t => !t.hl.restarting && t.nd.log.next == 1) ].all id = true := by decide +kernel

/-! ### Part 3 -/

/-- A state whose sensor block holds these words. -/
def sensing (ws : Tbl Word) (s : State) : State := { s with hl := { s.hl with sens := { s.hl.sens with words := ws } } }

/-- Inputs that meet the hypotheses of `Obligations.PeriodsEnd`, and what each comes to. -/
theorem test_periodsEnd :
    let watts := fun (p : Nat) (s : State) => sensing [(0x7A0, wordOf (p * 2 ^ 32))] s
    let deep := { ready with hl := { Halord.reset with plc := { Policy.reset with powerCap := 3, stackRate := 200 } } }
    let hot := sensing [(0x400, wordOf (16 * 130 + 2 ^ 16))] ready
    let next := { ready with hl := { Halord.reset with plc := { Policy.reset with next := [(0x80030400, 0, 0)] } } }
    [ (let t := takePlcNext next; t.hl.plc.live.1 == 0x80030400 && t.hl.plc.gen == 1 && t.hl.plc.next == []),
      (let t := powerStep (watts 12000 ready); t.hl.plc.powerCap == 1 && t.hl.plc.stackRate == 256),
      (let t := powerStep (watts 12000 deep); t.hl.plc.powerCap == 3 && t.hl.plc.stackRate == 184),
      (let t := powerStep (watts 100 deep); t.hl.plc.powerCap == 3 && t.hl.plc.stackRate == 216),
      tooHot (powerStep (takePlcNext hot)), !tooHot (powerStep (takePlcNext ready)) ].all id = true := by decide +kernel

/-- Inputs that meet the hypotheses of `Obligations.PeriodsEnd`, and what each comes to. -/
theorem test_windowsEnd :
    let held := around { leapNode (cmdWith [0]) someLeap with power := readyNode.power }
    let rebal := { held with hl := { Halord.reset with plc := { Policy.reset with live := (0, 0, 0x0A0028552003) } } }
    [ (ownExtents held.nd).length == 1,
      (let t := proposals rebal 100 50 []; t.hl.plc.propLast == 1 && (Tbl.find? t.hl.plc.proposals 0).isSome),
      (proposals rebal 50 50 []).hl.plc.propLast == 0 ].all id = true := by decide +kernel

/-- Inputs that meet the hypotheses of `Obligations.SamplesAndLogStand`, and what each comes to. -/
theorem test_samplesAndLogStand :
    let r : Reading := { offset := 0x10, value := some (16 * 60) }
    let e : LogEntry := { lseq := 65537, sev := 1, domain := 2, dcyc := 0, code := 0x0301, uclass := 0, unit_ := 3, ctx := 0, node := 5, boot := 1, status := 0, data0 := 7, data1 := 0, data2 := 0 }
    let logging := fun (lost : Nat) => around { readyNode with log := { EventLog.reset with staged := [e], lost := lost, lostFirst := 9, next := 9 } }
    [ runs (.sensorSample [r] [(1, 50)]) ready (fun t => tempOf t 0x10 == some (16 * 60) && bandOf (tileAt t.nd 1) == nextBand 0 (16 * 60)
        && classOf (tileAt t.nd 1) == 2 && tileAt t.nd 2 == tileAt ready.nd 2),
      runs (.sensorSample [{ r with value := none }] []) ready (fun t => bitOf (Tbl.getD t.hl.sens.words 0x10 0) 17),
      runs (.sensorSample [{ offset := 0x7A0, value := some 5 }] []) ready (fun t => Tbl.getD t.hl.sens.words 0x7A0 0 == 5),
      runs (.logFlashCopy true) (logging 0) (fun t => flashRead t.hl 0x7000040 64 == logEncode e && t.nd.log.staged == []),
      runs (.logFlashCopy false) (logging 0) (fun t => flashRead t.hl 0x7010040 64 == logEncode e && t.nd.log.staged == []),
      runs (.logFlashCopy true) (logging 2) (fun t => t.nd.log.staged.length == 1 && t.nd.log.lost == 0 && bitOf t.nd.log.alert alLogDrop) ].all id = true := by decide +kernel

/-- Inputs that meet the hypotheses of `Obligations.BandWindowEnds`, and what each comes to. -/
theorem test_bandWindowEnds :
    let worn := { readyNode with flt := { Faults.reset with
      tiles := putAt Faults.reset.tiles 3 { TileHealth.reset with bins := [(4, 9)], rows := [(1, 1)] }, ebLive := 0x600008, ebNext := [0x200010] } }
    let m := bandWindowEnd worn
    [ bandOver worn (tileAt worn 3) 1, !bandOver worn (tileAt worn 3) 0,
      natField (tileAt m 3).state.toNat 5 3 == 1, (tileAt m 3).bins == [], (tileAt m 3).rows == [], m.flt.ebLive == 0x200010,
      m.flt.ebGen == 1, m.flt.ebNext == [], (bandWindowEnd readyNode).flt.ebGen == 0 ].all id = true := by decide +kernel

/-! ### Part 4 -/

/-- The ready module at chain address 3 of a group of base 4. -/
def chained (head : Bool) (c : Chain) : State :=
  let s := around { readyNode with chainAddr := 3, alm := { readyNode.alm with groupBase := 4 }, power := { readyNode.power with hostEn := head } }
  { s with hl := { Halord.reset with chain := { c with head := head } } }

/-- A frame from address 2. -/
def frameTo (dst type : Nat) (payload : Bytes) : ChainFrame := { dst := dst, src := 2, type := type, tag := 7, status := 0, payload := payload }

/-- Inputs that meet the hypotheses of `Obligations.ChainEnumeratesAndForwards`, and what each comes to. -/
theorem test_chainEnumeratesAndForwards :
    let enum := fun (a base : Nat) => { frameTo 0 1 ([BitVec.ofNat 8 a, 0] ++ leBytes 2 base) with src := 1 }
    let go := fun (f : ChainFrame) (s : State) (c : State → Bool) => runs (.chainEnum (chainEncode f)) s c
    let free := { chained false Chain.reset with nd := { (chained false Chain.reset).nd with chainAddr := 0, nodeId := 0 } }
    let waiting := chained true { Chain.reset with enumOut := true, base := 4 }
    let passed := fun (b : Bytes) (t : State) => t.nd.out == [.chain b]
    let other := frameTo 9 2 (leBytes 8 0x101)
    [ chainDecode (chainEncode (enum 6 4)) == some (enum 6 4),
      go (enum 6 4) free (fun t => t.nd.chainAddr == 6 && t.nd.nodeId == 9 && passed (chainEncode { enum 7 4 with src := 6 }) t),
      go (enum 6 8) free (fun t => t.nd.chainAddr == 6 && t.nd.nodeId == 0 && bitOf t.hl.chain.status 9),
      go (enum 17 4) free (fun t => t.nd.chainAddr == 0 && bitOf t.hl.chain.status 8 && passed (chainEncode (enum 17 4)) t),
      go (enum 5 4) waiting (fun t => bitOf t.hl.chain.status 1 && fieldOf t.hl.chain.status 6 2 == 4 && !t.hl.chain.enumOut && t.nd.nodeId == 6),
      go (enum 5 4) (chained true Chain.reset) (fun t => bitOf t.hl.chain.status 7 && t.nd.out == []),
      runs .chainEnumRetry waiting (fun t => t.nd.chainAddr == 1 && t.nd.out.length == 1),
      runs .chainDown (chained false Chain.reset) (fun t => t.hl.chain.down && bitOf t.nd.log.alert alChain),
      runs (.chainFrameForward (chainEncode other)) (chained false Chain.reset) (passed (chainEncode other)),
      runs (.chainRdReq (chainEncode other)) (chained false Chain.reset) (passed (chainEncode other)),
      runs (.chainWrReq (chainEncode { other with type := 3 })) (chained false Chain.reset) (passed (chainEncode { other with type := 3 })),
      runs (.chainRdRsp (chainEncode { other with type := 4 })) (chained false Chain.reset) (passed (chainEncode { other with type := 4 })),
      runs (.chainWrRsp (chainEncode { other with type := 5 })) (chained false Chain.reset) (passed (chainEncode { other with type := 5 })),
      runs (.chainAlert (chainEncode { other with type := 6 })) (chained false Chain.reset) (passed (chainEncode { other with type := 6 })),
      runs (.chainFrameForward (chainEncode { other with dst := 3, type := 29 })) (chained false Chain.reset) (fun t => t.nd.out == []) ].all id = true := by decide +kernel

/-- Inputs that meet the hypotheses of `Obligations.ChainAccessesTarget`, and what each comes to. -/
theorem test_chainAccessesTarget :
    let s := chained false { Chain.reset with lastWr := [(2, (9, 5))] }
    let rd := fun (space count addr : Nat) => frameTo 3 2 (leBytes 1 space ++ leBytes 7 count ++ leBytes 8 addr)
    let wr := fun (addr w : Nat) => frameTo 3 3 (leBytes 1 0 ++ leBytes 7 1 ++ leBytes 8 addr ++ leBytes 8 w)
    let said := fun (type st : Nat) (data : Bytes) (t : State) => (t.nd.out.map fun o => match o with
      | .chain b => (chainDecode b).map fun f => (f.dst, f.src, f.type, f.status, f.payload)
      | _ => none) == [some (2, 3, type, st, data)]
    [ runs (.chainRdReq (chainEncode (rd 3 1 0))) s (said 4 stInvalid []),
      runs (.chainRdReq (chainEncode (rd 1 2 0))) s (said 4 stOK (List.replicate 16 0xFF)),
      runs (.chainWrReq (chainEncode { wr 0x3008 7 with tag := 9 })) s (fun t => said 5 5 [] t && t.nd.log.mask == s.nd.log.mask),
      runs (.chainWrReq (chainEncode (wr 0x3009 7))) s (fun t => t.nd.log.mask == s.nd.log.mask && (Tbl.find? t.hl.chain.lastWr 2).map (·.1) == some 7),
      runs (.chainWrReq (chainEncode (wr 0x3008 7))) s (fun t => said 5 stOK [] t && t.nd.log.mask == 7),
      runs (.chainAlert (chainEncode (frameTo 1 6 (leBytes 8 0)))) (let h := chained true Chain.reset; { h with nd := { h.nd with chainAddr := 1 } })
        (fun t => t.hl.chain.alert == 2) ].all id = true := by decide +kernel

/-- Inputs that meet the hypotheses of `Obligations.ChainAnswersAndRepeats`, and what each comes to. -/
theorem test_chainAnswersAndRepeats :
    let q : ChainReq := { frame := [1, 2], tag := 7, dst := 2, repeats := 0, purpose := .mailboxRead, words := 1, got := none }
    let at_ := fun (q : ChainReq) (op : Nat) =>
      let s := chained true { Chain.reset with reqs := [q] }
      { s with hl := { s.hl with mbx := { Mailbox.reset with stat := 1, op := op, space := 1, target := 2, remain := 1, inFlight := 1 } } }
    let ended := fun (st : Nat) (t : State) => !bitOf t.hl.mbx.stat 0 && bitOf t.hl.mbx.stat 1 && fieldOf t.hl.mbx.stat 15 8 == st && t.hl.chain.reqs == []
    let w := { q with purpose := .mailboxWrite }
    [ runs (.chainRdRsp (chainEncode (frameTo 3 4 (leBytes 8 99)))) (at_ q 1) (fun t => ended stOK t && t.hl.mbx.buffer == [99] && t.hl.mbx.addr == 8),
      runs (.chainRdRsp (chainEncode { frameTo 3 4 [] with status := 5 })) (at_ q 1) (fun t => ended 5 t && t.hl.mbx.buffer == []),
      runs (.chainWrRsp (chainEncode (frameTo 3 5 []))) (at_ w 2) (fun t => ended stOK t && t.hl.mbx.addr == 8),
      runs (.chainWrRsp (chainEncode { frameTo 3 5 [] with status := 5 })) (at_ w 2) (fun t => ended 5 t && t.hl.mbx.remain == 1),
      runs (.chainRequestTimeout 7) (at_ q 1) (fun t => t.nd.out == [.chain [1, 2]] && t.hl.chain.reqs.map (·.repeats) == [1]),
      runs (.chainRequestTimeout 7) (at_ { q with repeats := 8 } 1) (ended stAborted) ].all id = true := by decide +kernel

/-! ### Part 5 -/

/-- Inputs that meet the hypotheses of `Obligations.MailboxTransfers`, and what each comes to. -/
theorem test_mailboxTransfers :
    let with_ := fun (b : Mailbox) => { ready with hl := { Halord.reset with mbx := b } }
    let busy := { Mailbox.reset with stat := 1, op := 2, space := 0, remain := 1, addr := 0x3008 }
    let ended := fun (st : Nat) (t : State) => !bitOf t.hl.mbx.stat 0 && bitOf t.hl.mbx.stat 1 && fieldOf t.hl.mbx.stat 15 8 == st
    [ runs (.mbxRead 0x10011) (with_ busy) (fun t => t.hl.mbx.stat == 5), runs (.mbxWrite 0x10012) (with_ busy) (fun t => t.hl.mbx.stat == 5),
      runs (.mbxAbort 3) (with_ busy) (ended stAborted),
      runs (.mbxRead 0x100F1) ready (ended stInvalid), runs (.mbxWrite 0x100F2) ready (ended stInvalid), runs (.mbxRead 0x11) ready (ended stOK),
      runs (.mbxRead 0x20011) ready (fun t => ended stOK t && t.hl.mbx.buffer == [wordOf (2 ^ 64 - 1), wordOf (2 ^ 64 - 1)]),
      runs (.mbxWrite 0x20002) (with_ { Mailbox.reset with addr := 0x3008 }) (fun t => bitOf t.hl.mbx.stat 0 && t.hl.mbx.remain == 2),
      runs .mbxDataRead (with_ { Mailbox.reset with buffer := [4, 5] }) (fun t => t.nd.out == [.value 4] && t.hl.mbx.buffer == [5]),
      runs .mbxDataRead ready (fun t => t.nd.out == [.value 0] && bitOf t.hl.mbx.stat 3),
      mbxFree (with_ busy) != 0, runs (.mbxDataWrite 0x7) (with_ busy) (fun t => ended stOK t && t.nd.log.mask == 7 && t.hl.mbx.addr == 0x3010) ].all id = true := by decide +kernel

/-- Inputs that meet the hypotheses of `Obligations.RegisterWritesReach`, and what each comes to. -/
theorem test_registerWritesReach :
    let s := around { readyNode with log := { EventLog.reset with alert := 0xF }, power := { readyNode.power with hostEn := true } }
    [ bar0Up s, runs .bar0BadAccess s (fun t => t == countHalord s 4), runs (.registerWrite 0x3004 1) s (fun t => t == countHalord s 4),
      runs (.registerWrite 0x3000 5) s (fun t => t.nd.log.alert == 0xA), runs (.registerWrite 0x3008 0xFFF) s (fun t => t.nd.log.mask == 0x1FF),
      runs (.registerWrite 0x71000 (wordOf (2 ^ 64 - 1))) s (fun t => t.nd.flt.ebStage == 0x7FFFFFF),
      runs (.registerWrite 0x71018 0x7F) s (fun t => t.nd.flt.ebSel == 0x3F),
      runs (.registerWrite 0x72000 (wordOf (2 ^ 64 - 1))) s (fun t => t.nd.flt.vgStage == 0xFF1FFF07),
      runs (.registerWrite 0x18000 (wordOf (2 ^ 64 - 1))) s (fun t => t.hl.plc.stage.1 == 0xFF03FFFF),
      runs (.registerWrite 0x1008 6) s (fun t => t.hl.mbx.addr == 6), runs (.registerWrite 0x0 6) s (fun t => t == s),
      runs (.registerWrite 0x100000 6) s (fun t => t == s),
      runs (.registerWrite 0x24008 0xFF) s (fun t => (t.nd.ports.get 2).cfgStage == 0x7F) ].all id = true := by decide +kernel

/-- Inputs that meet the hypotheses of `Obligations.I3cAccesses`, and what each comes to. -/
theorem test_i3cAccesses :
    let s := around { readyNode with log := { EventLog.reset with alert := 0xF, ibi := true } }
    let addressed := { s with hl := { Halord.reset with i3c := { I3c.reset with dynAddr := some 9 } } }
    [ runs (.i3cPrivateWrite [5, 1]) s (fun t => t.hl.i3c.index == 5 && t.nd == s.nd),
      runs (.i3cPrivateWrite (7 :: leBytes 8 1)) s (fun t => t.nd.power.entry == 1),
      runs (.i3cPrivateWrite (7 :: leBytes 8 2)) s (fun t => t.nd.power.noChange == 1),
      runs (.i3cPrivateWrite (3 :: leBytes 8 5)) s (fun t => t.nd.log.alert == 0xA),
      runs (.i3cCcc 0x07 [16]) s (fun t => t.hl.i3c.dynAddr == some 8), runs (.i3cCcc 0x07 [16]) addressed (fun t => t == addressed),
      runs (.i3cCcc 0x06 []) addressed (fun t => t.hl.i3c.dynAddr == none), runs (.i3cCcc 0x01 [1]) s (fun t => !t.nd.log.ibi) ].all id = true := by decide +kernel

/-! ### Part 6 -/

/-- Inputs that meet the hypotheses of `Obligations.RingCommits`, and what each comes to. -/
theorem test_ringCommits :
    [ moves (.ringCommit 0 0) ready (fun m => m == readyNode),
      moves (.ringCommit 0 1) (around (ringNode { Ring.reset with cfgStage := 0xB01 }))
        (fun m => bitOf (ringOf m 0).status 1),
      moves (.ringCommit 0 1) (around (ringNode { liveRing with cfgStage := 0x600, head := 3 }))
        (fun m => (ringOf m 0).head == 0 && !ringEnabled (ringOf m 0)),
      moves (.ringCommit 0 1) (around (ringNode { liveRing with cfgStage := 0x600, head := 3, inflight := 1 }))
        (fun m => (ringOf m 0).head == 3 && (ringOf m 0).draining),
      moves (.ringCommit 0 1) (around (ringNode { withDesc Ring.reset 0 [0x110] with cfgStage := 0x601 }))
        (fun m => (ringOf m 0).storage == [] && ringEnabled (ringOf m 0) && (ringOf m 0).head == 0) ].all id = true := by decide +kernel

/-- Inputs that meet the hypotheses of `Obligations.RingsConsume`, and what each comes to. -/
theorem test_ringsConsume :
    [ moves (.ringDoorbell 0 5) (around (ringNode (withDesc liveRing 0 [0x110])))
        (fun m => (ringOf m 0).head == 1 && (cmdOf m 1).map (·.phase) == some .consumed && (ringOf m 0).tailHint == 5),
      moves (.ringDoorbell 0 5) (around (ringNode { withDesc (withDesc liveRing 63 [0x1FF]) 0 [0x110] with head := 63 }))
        (fun m => (ringOf m 0).head == 0 && !(ringOf m 0).phase && (cmdOf m 1).map (·.status) == some stInvalid),
      moves (.ringDoorbell 0 5) (around (ringNode { liveRing with stalled := true })) (fun m => !(ringOf m 0).stalled),
      moves (.ringDoorbell 0 5) (around { ringNode (withDesc liveRing 0 [0x110]) with
          flt := { Faults.reset with regions := putAt Faults.reset.regions 0 { RegionState.reset with trackersOut := 4032 } } })
        (fun m => (ringOf m 0).stalled && (ringOf m 0).head == 0),
      moves (.trackerFreed 0) (around (ringNode { withDesc liveRing 0 [0x110] with stalled := true }))
        (fun m => (ringOf m 0).inflight == 1),
      moves (.ringEntryWrite 0 63 (List.replicate 64 1) 9) (around (ringNode { liveRing with inflight := 1 }))
        (fun m => memRead 0 (ringOf m 0).storage 4032 64 == List.replicate 64 1),
      moves (.ringEntryWrite 0 0 (List.replicate 64 1) 9) (around (ringNode { withDesc liveRing 0 [0x110] with inflight := 1 }))
        (fun m => bitOf (ringOf m 0).status 0 && (ringOf m 0).stopped) ].all id = true := by decide +kernel

/-- Inputs that meet the hypotheses of `Obligations.CommandsComplete`, and what each comes to. -/
theorem test_commandsComplete :
    let done : Cmd := { cmdWith [0x40010] with phase := .ended }
    let cnt : Cmd := { cmdWith [0x40010, 0, 0x1_0005_0007] with phase := .countDue }
    let far : Cmd := { cmdWith [0x40010, 0, 0x1_0006_0007] with phase := .countDue }
    let usable := setPair (cmdNode far) 5 6 { Pair.fresh with usable := true }
    let probed := sendPacket usable (countProbePacket usable far) (.countProbe 1)
    let answer := fun (st : Nat) => sealPacket { responseTo { readyNode with nodeId := 6 }
      { countProbePacket usable far with seq := 1 } 2 st with seq := 0 }
    [ moves (.commandComplete 1) (around (cmdNode done)) (fun m => (cmdOf m 1).isNone && (ringOf m 0).inflight == 0),
      moves (.commandComplete 1) (around (cmdNode { cnt with phase := .ended })) (fun m => (cmdOf m 1).map (·.phase) == some .countDue),
      moves (.commandComplete 1) (around (cmdNode { cmdWith [0x40010, 6] with phase := .ended }))
        (fun m => (cmdOf m 1).map (·.phase) == some .recordSent && ((pairOf m 5 6).sent.length == 1)),
      moves (.completionCounterIncrement 1) (around (counterNode cnt 3)) (fun m => (counterOf m 7).value == 4 && (cmdOf m 1).isNone),
      moves (.completionCounterIncrement 1) (around (counterNode cnt counterMax)) (fun m => (counterOf m 7).err),
      moves (.completionCounterIncrement 1) (around (cmdNode far)) (fun m => (cmdOf m 1).map (·.phase) == some .countSent),
      moves (.completionCounterIncrement 1) (around (cmdNode { cmdWith [0x40010, 6] with phase := .recordSent })) (fun m => (cmdOf m 1).isNone),
      (takeAnswer probed (answer stOK)).2 == some (.countProbe 1),
      moves (.counterProbeAnswer (answer stOK)) (around probed) (fun m => (cmdOf m 1).isNone),
      moves (.counterProbeAnswer (answer stDenied)) (around probed) (fun m => (cmdOf m 1).isNone && m.log.last == 0 && m.log.next == 1) ].all id = true := by decide +kernel

/-! ### Part 7 -/

/-- Inputs that meet the hypotheses of `Obligations.CopyEnginesRun`, and what each comes to. -/
theorem test_copyEnginesRun :
    let fill : Cmd := cmdWith [0x40002, 0, 0, 0x0807060504030201, 0, 10]
    let copy : Cmd := cmdWith [0x40001, 0, 0, 0, 0x200000, 100]
    let bad : Cmd := cmdWith [0x40002, 0, 0, 0, 0, 10, 0, 1]
    let open6 := fun (n : Node) => setPair n 5 6 { Pair.fresh with usable := true }
    let filled := onNode (around (open6 (mappedNode fill 6))) (engRow 2 1)
    let copied := onNode (around (open6 (mappedNode copy 6))) (engRow 1 1)
    let answer := fun (op cls st : Nat) => sealPacket
      { responseTo { readyNode with nodeId := 6 } { blankPacket 6 5 0 op with seq := 1, ctx := 4 } cls st with seq := 1 }
    let data := sealPacket { withPayload (answer 1 3 stOK) (List.replicate 100 3) with seq := 1 }
    [ moves (.fill 1) (around (cmdNode bad)) (fun m => endedAs m stInvalid 0),
      moves (.copy 1) (around (cmdNode { copy with desc := [0x40001, 0, 0, 0, 50, 100] })) (fun m => endedAs m stInvalid 0),
      moves (.fill 1) (around (mappedNode fill 6)) (fun m => ((cmdOf m 1).map fun c => engBytes c) == some [1, 2, 3, 4, 5, 6, 7, 8, 1, 2]),
      moves (.copy 1) (around (mappedNode copy 6)) (fun m => (cmdOf m 1).map (·.stage) == some 2),
      moves (.fill 1) (around (mappedNode { fill with desc := [0x40002, 0, 0, 0, 0, 0] } 6)) (fun m => endedAs m stOK 0),
      moves (.engineResponse (answer 2 2 stOK)) filled (fun m => endedAs m stOK 10),
      moves (.engineResponse data) copied
        (fun m => ((cmdOf m 1).map fun c => (c.stage, engBytes c)) == some (4, List.replicate 100 3)),
      moves (.engineResponse (answer 1 2 stDenied)) copied (fun m => endedAs m stDenied 0) ].all id = true := by decide +kernel

/-- Inputs that meet the hypotheses of `Obligations.CountersAreSet`, and what each comes to. -/
theorem test_countersAreSet :
    let set : Cmd := cmdWith [0x40040, 0, 0, 0x400020007, 12]
    let arm : Cmd := cmdWith [0x40041, 0, 0, 0x7, 5, 0x200006]
    [ moves (.counterSet 1) (around (counterNode set 3))
        (fun m => endedAs m stOK 3 && (counterOf m 7).value == 12 && (counterOf m 7).owner == 4),
      moves (.counterSet 1) (around (counterNode { set with ring := 4 } 3)) (fun m => endedAs m stDenied 0 && (counterOf m 7).value == 3),
      moves (.counterArm 1) (around (counterNode arm 3)) (fun m => endedAs m stOK 3 && ((counterOf m 7).trig.map (·.threshold)) == some 5),
      moves (.counterArm 1) (around (cmdNode arm)) (fun m => endedAs m stDenied 0) ].all id = true := by decide +kernel

/-- Inputs that meet the hypotheses of `Obligations.KeysLoad`, and what each comes to. -/
theorem test_keysLoad :
    let key : Cmd := cmdWith [0x40013, 0, 0, 0x100000001, 2]
    let share : Cmd := cmdWith [0x13, 0, 0, 0x100000503, 2, 8]
    let entry : Cmd := cmdWith [0x40013, 0, 0, 5, 0xFFEF0001]
    [ moves (.keyLoadCtxKey 1) (owned (cmdNode key))
        (fun m => ((slotOf m 4).map fun x => (x.key.gen, x.nextGen)) == some (1, 1) && m.power.state == 3),
      moves (.keyLoadCtxKey 1) (owned (ctxNode { key with desc := [0x40013, 0, 0, 0x100000001, 2, 0, 0x300020001] } []))
        (fun m => (slotOf m 4).map (·.keepers) == some [1, 2, 3]),
      moves (.keyLoadCtxClear 1) (owned (ctxNode { key with desc := [0x40013, 0, 0, 2] } [])) (fun m => (slotOf m 4).isNone && endedAs m stOK 0),
      moves (.keyLoadCtxClear 1) (owned (cmdNode { key with desc := [0x40013, 0, 0, 2] })) (fun m => endedAs m stOK 0),
      moves (.keyLoadShareKey 1) (owned (cmdNode share)) (fun m => ((Tbl.find? m.ctxs.shares 5).map (·.ident)) == some 8),
      moves (.keyLoadShareClear 1) (owned (cmdNode { share with desc := [0x13, 0, 0, 0x504] })) (fun m => endedAs m stOK 0),
      moves (.keyLoadAdmit 1) (owned (ctxNode entry []))
        (fun m => endedAs m stOK 0 && isAdmitted m 4 1 && isAdmitted m 4 0xFFEF && !isAdmitted m 4 0xFFF0),
      moves (.keyLoadExpel 1) (owned { ctxNode { entry with desc := [0x40013, 0, 0, 6, 0x10001] } [] with
          ctxs := { Contexts.reset with slots := [(4, { ctxSlot [] with admits := 6 })] } })
        (fun m => endedAs m stOK 0 && !isAdmitted m 4 1 && isAdmitted m 4 2),
      moves (.keyLoadAdmit 1) { owned (ctxNode entry []) with hl := { (owned readyNode).hl with
          sec := { (owned readyNode).hl.sec with unsealed := true } } } (fun m => endedAs m stUnsealed 0) ].all id = true := by decide +kernel

/-- Inputs that meet the hypotheses of `Obligations.RangesAndRevocations`, and what each comes to. -/
theorem test_rangesChange :
    let set : Cmd := cmdWith [0x40010, 0, 0, 0x20000, 1, 0x20000, 7]
    let replace : Cmd := cmdWith [0x40010, 0, 0, 0x10000, 1, 0x10000, 0x8000000000000001]
    let clear : Cmd := cmdWith [0x40011, 0, 0, 0x10000, 1]
    let withStack := fun (n : Node) => { n with mem := { n.mem with stack := [(0xFFFF, 1), (0x10000, 2), (0x1FFFF, 3), (0x20000, 4)] } }
    let held := ctxNode clear [(0x10000, oneRange)]
    [ moves (.rangeSet 1) (around (ctxNode set [(0x10000, oneRange)]))
        (fun m => endedAs m stOK 1 && (rangeOf m 4 0x2FFFF).map (·.gen) == some 1),
      moves (.rangeSet 1) (around (ctxNode replace [(0x10000, oneRange)])) (fun m => endedAs m stOK 1 && (rangeOf m 4 0x10000).map (·.w) == some false),
      moves (.rangeSet 1) (around (ctxNode { set with desc := [0x40010, 0, 0, 0x20001, 1, 0x20000, 7] } [])) (fun m => endedAs m stInvalid 0),
      moves (.rangeClear 1) (around (withStack held))
        (fun m => endedAs m stOK 1 && (rangeOf m 4 0x10000).isNone && m.mem.stack == [(0xFFFF, 1), (0x20000, 4)]),
      moves (.rangeClear 1) (around (ctxNode clear [])) (fun m => endedAs m stOK 0),
      moves (.rangeInval 1) (around { ctxNode { clear with desc := [0x40012, 0, 0, 0x10000, 1] } [(0x10000, oneRange)] with
          ctxs := { Contexts.reset with slots := [(4, ctxSlot [(0x10000, oneRange)])],
                                        xlate := [(0, [{ slotNo := 0, bucket := 1, range := oneRange }])] } })
        (fun m => endedAs m stOK 0 && m.ctxs.xlate.isEmpty) ].all id = true := by decide +kernel

/-- Inputs that meet the hypotheses of `Obligations.RangesAndRevocations`, and what each comes to. -/
theorem test_revocationsStand :
    let c : Cmd := cmdWith [0x40018, 0, 0, 0x10000, 1]
    let back : Cmd := cmdWith [0x40018, 0, 0, 0x10000, 0x100000001]
    let revs := fun (n : Node) (vs : List Revocation) => { n with ctxs := { n.ctxs with revs := vs } }
    [ moves (.revoke 1) (around (cmdNode c)) (fun m => endedAs m stOK 0 && spanRevoked m 4 0x10000 1 && spanRevoked m 4 0x1FFFF 1 &&
        !spanRevoked m 4 0x20000 1),
      moves (.revoke 1) (around (revs (cmdNode c) (List.replicate 1024 { ctx := 8, start := 0, gran := 1 }))) (fun m => endedAs m stNoResource 0),
      moves (.revokeReinstate 1) (around (revs (cmdNode back) [{ ctx := 4, start := 0x10000, gran := 1 }]))
        (fun m => endedAs m stOK 0 && m.ctxs.revs.isEmpty),
      moves (.revokeReinstate 1) (around (revs (cmdNode back) [{ ctx := 4, start := 0, gran := 2 }])) (fun m => endedAs m stInvalid 0) ].all id = true := by decide +kernel

/-! ### Part 8 -/

/-- The element program of one micro-op: LID into V1. -/
def lidCode : Nat := 5 * 2 ^ 26 + 2 ^ 22

/-- A run of 70 records of a program, under command 1. -/
def someRun : ProgRun :=
  { tid := 1, ctx := 4, code := [lidCode], streams := [], consts := [], seed := 0, redPva := 0, redEn := false, count := 70, epoch := 0,
    done := [], tiles := [], accs := [], ovf := 0, nans := 0, bytes := 0, poisoned := false, aborted := false, redDone := false, fwds := [],
    arming := none }

/-- Inputs that meet the hypotheses of `Obligations.ProgramsLoadAndRun`, and what each comes to. -/
theorem test_programsLoadAndRun :
    let load : Cmd := cmdWith [0x40038, 0, 0, 0x10003, 0x10000]
    let unload : Cmd := cmdWith [0x40038, 0, 0, 0x1000003]
    let run : Cmd := cmdWith [0x40039, 0, 0, 0x200000003, 0x10000, 0]
    let run64 : Cmd := cmdWith [0x40039, 0, 0, 0x200000003, 0x10000, 64]
    let slot := fun (n : Node) => { n with prog := { n.prog with slots := [(3, { owner := 4, pgen := 2, code := [lidCode] })] } }
    let fire : Firing := { counter := 7, arming := 5, ctx := 4, runPva := 0x10000, n := 1, epoch := none, waited := true }
    let firing := fun (n : Node) => { n with prog := { n.prog with firings := [fire] } }
    let params := wordsToBytes [0x10000, 0x4B]
    [ moves (.programLoad 1) (around (dataNode load (leBytes 4 lidCode)))
        (fun m => endedAs m stOK 1 && (progSlot m 3).code == [lidCode] && (progSlot m 3).owner == 4),
      moves (.programLoad 1) (around (dataNode load [1, 2, 3, 4])) (fun m => endedAs m stInvalid 0),
      moves (.programUnload 1) (around (slot (cmdNode unload))) (fun m => endedAs m stOK 2 && (progSlot m 3).owner == 0),
      moves (.programRun 1) (around (slot (cmdNode run))) (fun m => endedAs m stOK 0),
      moves (.programRun 1) (around (slot (dataNode run64 params)))
        (fun m => ((Tbl.find? m.prog.runs 1).map (·.count)) == some 64),
      moves (.programFiringResume 5) (around (firing (dataNode load (wordsToBytes [0x40010]))))
        (fun m => ((cmdOf m 2).map (·.status)) == some stInvalid && m.prog.firings.isEmpty),
      moves (.programFiringResume 5) (around (firing (slot (dataNode load (wordsToBytes run.desc)))))
        (fun m => ((cmdOf m 2).map (·.status)) == some stOK && m.prog.firings.isEmpty) ].all id = true := by decide +kernel

/-- Inputs that meet the hypotheses of `Obligations.BlocksRun`, and what each comes to. -/
theorem test_blocksRun :
    let with_ := fun (r : ProgRun) => { cmdNode { cmdWith [0x40039] with phase := .running } with prog := { Programs.reset with runs := [(1, r)] } }
    let input : Stream := { base := 0x10000, fmt := 0xB, g := 1, en := true }
    let poisoned := { someRun with code := [2 ^ 26], streams := [input] }
    let sour := { dataNode { cmdWith [0x40039] with phase := .running } [] with
      prog := { Programs.reset with runs := [(1, poisoned)] }, coh := { Coherence.reset with poison := [0x400] } }
    [ moves (.programBlock 1 1) (around (with_ someRun)) (fun m => ((Tbl.find? m.prog.runs 1).map (·.done)) == some [1]),
      moves (.programBlock 1 2) (around (with_ someRun)) (fun m => ((Tbl.find? m.prog.runs 1).map (·.done)) == some []),
      moves (.programBlock 1 0) (around sour) (fun m => ((Tbl.find? m.prog.runs 1).map (·.poisoned)) == some true),
      moves (.programRunComplete 1) (around (with_ { someRun with done := [0, 1] })) (fun m => endedAs m stOK 0 && m.prog.runs.isEmpty),
      moves (.programRunComplete 1) (around (with_ { someRun with aborted := true, bytes := 3 })) (fun m => endedAs m stPartial 3) ].all id = true := by decide +kernel

/-! ### Part 9 -/

/-- A primary part of cohort 3 of context 4 at epoch 2, that awaits source 9. -/
def somePart : Part :=
  { ctx := 4, cohort := 3, epoch := 2, mirror := false, carried := false, spans := [{ start := 0x20000, gran := 1, drain := 0x30000 }],
    srcs := [{ node := 9, cut := none, pruned := false, lost := false }], crec := 0x10080, state := 1, status := 0, chunks := [(2, 0x20000, 0)],
    drained := [], draining := [], drainStopped := false, rgen := 6, recordStale := false, recordDue := false, recFwds := [], followers := [],
    opener := none, restoring := none }

/-- The node with one part, number 0. -/
def withPart (n : Node) (p : Part) : Node := { n with sol := { parts := [(0, p)], nextPart := 1 } }

/-- A chunk of image storage. -/
def someCow : CowChunk := { part := 0, dense := false, states := List.replicate 16 1, bytes := [(5, 9)], poison := [], fresh := false, restored := true }

/-- A class 2 range at PVA 0x30000 beside the first one, and a drain target there. -/
def directRange : Range := { oneRange with start := 0x30000, localOff := 2 ^ 46, resClass := 2, gen := 2 }

/-- Inputs that meet the hypotheses of `Obligations.CohortsRun`, and what each comes to. -/
theorem test_cohortsRun :
    let lists := wordsToBytes [0x20000, 1, 0, 0, 0, 0, 0, 0, 9]
    let openCmd : Cmd := cmdWith [0x40020, 0, 0, 0x1000100020003, 0x10000, 0x10040, 0x10080]
    let opened := dataNode openCmd lists
    let mirrored := { opened with ctxs := { Contexts.reset with slots := [(4, ctxSlot [(0x10000, { oneRange with mirrorRole := true, peer := 6 })])] } }
    let announce : Cmd := cmdWith [0x40021, 0, 0, 0x20009, 77]
    let query : Cmd := cmdWith [0x40022, 0, 0, 0x3]
    let restore : Cmd := cmdWith [0x40023, 0, 0, 0x3]
    let drop : Cmd := cmdWith [0x40024, 0, 0, 0x3]
    let base := dataNode drop []
    let sealed := { somePart with state := 2, srcs := [] }
    let lost := { somePart with srcs := [{ node := 9, cut := none, pruned := false, lost := true }] }
    let state := fun (m : Node) => (Tbl.find? m.sol.parts 0).map (·.state)
    [ moves (.solsticeOpen 1) (around mirrored) (fun m => endedAs m stOK 0 && state m == some 1),
      moves (.solsticeOpen 1) (around opened) (fun m => state m == some 1 && endedAs m stOK 0 &&
        memRead 0 m.mem.plain 0x10080 8 == [3, 0, 1, 0, 2, 0, 0, 0]),
      moves (.solsticeOpen 1) (around (dataNode { openCmd with desc := [0x40020, 0, 0, 0x1000100020000] } [])) (fun m => endedAs m stInvalid 0),
      moves (.solsticeAnnounce 1) (around (withPart (cmdNode announce) somePart))
        (fun m => endedAs m stOK 1 && ((Tbl.find? m.sol.parts 0).map fun p => p.srcs.map (·.cut)) == some [some 77]),
      moves (.solsticeSealQuery 1) (around (withPart (cmdNode query) somePart)) (fun m => endedAs m stOK 0x10101),
      moves (.solsticeSealQuery 1) (around (withPart (cmdNode { query with desc := [0x40022, 0, 0, 0x10003] }) somePart))
        (fun m => (cmdOf m 1).map (·.phase) == some .running),
      moves (.partSeal 0) (around (withPart base { somePart with srcs := [] })) (fun m => state m == some 2),
      moves (.partSeal 0) (around (withPart base somePart)) (fun m => state m == some 1),
      moves (.sourcePrune 0 9) (around (withPart base lost))
        (fun m => ((Tbl.find? m.sol.parts 0).map fun p => p.srcs.map (·.pruned)) == some [true]),
      moves (.drainChunk 0 2) (around (withPart base sealed)) (fun m => ((Tbl.find? m.sol.parts 0).map (·.drainStopped)) == some true),
      moves (.cohortRecordWrite 0) (around (withPart base { somePart with recordStale := true }))
        (fun m => ((Tbl.find? m.sol.parts 0).map fun p => (p.rgen, p.recordStale)) == some (7, false)),
      moves (.solsticeRestore 1) (around (withPart (dataNode restore []) sealed)) (fun m => m.sol.parts.isEmpty && endedAs m stOK 0),
      moves (.solsticeRestore 1) (around (cmdNode restore)) (fun m => endedAs m stInvalid 0),
      moves (.restoreCopyBack 7) (around { base with mem := { base.mem with cow := [(7, someCow)] } }) (fun m => m.mem.cow.isEmpty),
      moves (.solsticeDrop 1) (around (withPart base { somePart with mirror := true })) (fun m => m.sol.parts.isEmpty && endedAs m stOK 0),
      moves (.solsticeDrop 1) (around base) (fun m => endedAs m stInvalid 0) ].all id = true := by decide +kernel
/-- Inputs that meet the hypotheses of `Obligations.CohortsRun`, and what each comes to. -/
theorem test_cohortsRun_busy :
    let lost := { somePart with srcs := [{ node := 9, cut := none, pruned := false, lost := true }] }
    let asker : Req := someReq { blankPacket 5 9 0 1 with ctx := 4 }
    let n := withPart (cmdNode (cmdWith [])) lost
    [ moves (.sourcePrune 0 9) (around { n with trk := { n.trk with reqs := [(9, asker)] } })
        (fun m => ((Tbl.find? m.sol.parts 0).map fun p => p.srcs.map (·.pruned)) == some [false]) ].all id = true := by decide +kernel

/-- Inputs that meet the hypotheses of `Obligations.CohortsRun`, and what each comes to. -/
theorem test_cohortsRun_hypotheses :
    let base := dataNode (cmdWith []) []
    let target := { base with ctxs := { Contexts.reset with slots := [(4, ctxSlot [(0x10000, oneRange), (0x30000, { directRange with localOff := denseBase })])] } }
    [ ((spanOf { base with mem := { base.mem with cow := [(1, someCow)] } } 1024).map fun x => x.2.resClass) == some 0,
      someCow.restored,
      spanGranted target 4 0x30000 65536 fun r => r.resClass == 2 && r.w ].all id = true := by decide +kernel

/-! ### Part 10 -/

/-- Inputs that meet the hypotheses of `Obligations.LeapsMove`, and what each comes to. -/
theorem test_leapsMove :
    let start : Cmd := cmdWith [0x40028, 0, 0, 0, 8, 6]
    let abort : Cmd := cmdWith [0x40029, 0, 0, 0, 8]
    let free := amongModules { cmdNode start with ctxs := { Contexts.reset with slots := [(4, keptSlot)] } }
    let step := fun (n : Node) => (leapOf n 1).map (·.step)
    let order := mgtFrom6 0xB0 [0, 8, 6, 0, 0, 4]
    let opened := mgtFrom6 0xB5 [4, 0, 8, 1, 0, 0, 0, 0, 0x10000, 1, 0, 7, 0, 0]
    let target := amongModules (ctxNode start [])
    let sent := fun (l : LeapOut) => sendPacket (setPair (leapNode start l) 5 6 { Pair.fresh with usable := true }) (blankPacket 6 5 5 0xB5) (.leap 1)
    [ moves (.leapStart 1) (around (cmdNode start)) (fun m => endedAs m stInvalid 0),
      moves (.leapStart 1) (around free) (fun m => step m == some 1 && (pairOf m 5 6).sent.length == 2),
      moves (.leapStart 1) (around { free with ml := { free.ml with outs := (List.range 16).map fun i => (20 + i, newLeap 9 0 1 6) } })
        (fun m => endedAs m stNoResource 0),
      moves (.leapAbort 1) (around (leapNode abort { someLeap with tid := 0, step := 7 })) (fun m => (leapOf m 1).map (·.abort) == some (some 1)),
      moves (.leapAbort 1) (around (leapNode abort { someLeap with tid := 0 })) (fun m => endedAs m stOK 0 && m.ml.outs.isEmpty),
      moves (.leapAbort 1) (around (cmdNode abort)) (fun m => endedAs m stInvalid 0),
      moves (.leapOrder order) (around (amongModules readyNode)) (fun m => (pairOf m 5 6).sent.length == 1 && m.ml.outs.isEmpty),
      moves (.leapOrder (mgtFrom6 0xB0 [0, 4, 6, 0, 0, 4])) (around free) (fun m => m.ml.outs.isEmpty),
      moves (.leapOrder order) (around free) (fun m => step m == some 1),
      moves (.leapOpen opened) (around (amongModules readyNode)) (fun m => m.ml.ins.isEmpty),
      moves (.leapOpen (mgtFrom6 0xB5 [4, 0, 0, 0x100000000, 0, 0, 0, 0, 0x10000, 1])) (around target)
        (fun m => spanRevoked m 4 0x10000 1),
      moves (.leapOpen opened) (around target)
        (fun m => m.ml.ins.length == 1 && ((rangeOf m 4 0x10000).map (·.arrivingFrom)) == some 6),
      moves (.leapReady (mgtAnswer6 0xB6 stOK 1)) (around (sent { someLeap with copied := List.range 8 })) (fun m => step m == some 5),
      moves (.leapReady (mgtAnswer6 0xB6 stDenied 1)) (around (sent someLeap)) (fun m => m.ml.outs.isEmpty && endedAs m stDenied 0),
      moves (.leapReady (mgtAnswer6 0xB6 stOK 1)) (around (sent { someLeap with step := 4 })) (fun m => step m == some 5),
      moves (.leapReady (mgtAnswer6 0xB6 stDenied 1)) (around (sent { someLeap with step := 4 })) (fun m => m.ml.outs.isEmpty),
      moves (.leapPeer (mgtFrom6 0xB7 [0x70004, 0, 8])) (around target) (fun m => (rangeOf m 4 0x10000).isNone && (pairOf m 5 6).sent.length == 1),
      moves (.leapPeer (mgtFrom6 0xB7 [0x70004, 0, 8]))
        (around { target with ctxs := { Contexts.reset with slots := [(4, ctxSlot [(0x10000, { oneRange with mirrorRole := true, peer := 6 })])] } })
        (fun m => (rangeOf m 4 0x10000).map (·.peer2) == some 7),
      moves (.leapPeer (mgtFrom6 0xB7 [0x70004, 0, 8])) ready (fun m => m.log.next == 1),
      moves (.leapChunkCopied 1 7) (around (leapNode start { someLeap with step := 3, copied := List.range 7, copying := some 7, sentChunk := true }))
        (fun m => step m == some 5),
      moves (.leapDrained 1) (around (leapNode { start with phase := .running } { someLeap with step := 5 })) (fun m => step m == some 7),
      moves (.leapDrained 1) (around (leapNode start someLeap)) (fun m => step m == some 1),
      moves (.reclaim (mgtFrom6 0xB3 [0x10000, 1])) (around (amongModules readyNode))
        (fun m => m.ml.reclaims.isEmpty && (pairOf m 5 6).sent.length == 1) ].all id = true := by decide +kernel

/-! ### Part 11 -/

/-- A flat shard of one-word codes: header at PVA 65536, area 0 at 0x9000000. -/
def someShard : ShardGeo :=
  { ctx := 4, hdr := 0x10000, graph := false, cw := 1, deg := 0, sideLog := 21, area0 := 0x9000000, area1 := 0, cap := 16 }

/-- A live line of an empty shard. -/
def emptyLive : ShardLive := { isn := 0, mainN := 0, entry := noSlot, head := 0, tail := 0, freeTo := 0, area := 0, lgen := 1 }

/-- The node with that shard, its range granting the given rights. -/
def shardNode (c : Cmd) (rights : Nat) (bs : Bytes) : Node :=
  let r := { rangeOfWords [0x10000, 0x1000, 0x10000, BitVec.ofNat 64 rights, 0] 1 with gen := 1 }
  let n := dataNode c bs
  { n with ctxs := { n.ctxs with slots := [(4, ctxSlot [(0x10000, r)])] } }

/-- The bytes of the shard's header. -/
def shardHeader : Bytes := liveBytes emptyLive ++ geoBytes someShard

/-- Inputs that meet the hypotheses of `Obligations.SearchAndHarvest`, and what each comes to. -/
theorem test_searchAndHarvest :
    let shard : Cmd := cmdWith [0x40030, 0, 0, 0x10000, 0x10000, 0, 0x10000, 1]
    let coord : Cmd := cmdWith [0x40030, 0, 0, 0x10000, 0x10000, 0x10000, 0, 0x7000000000000]
    let merge : Cmd := cmdWith [0x40033, 0, 0, 0x10000]
    let compact : Cmd := cmdWith [0x40033, 0, 0, 0x10000, 1]
    let init : Cmd := cmdWith [0x40033, 0, 0, 0x10000, 2, 0x9000000, 0, 0x1015000100]
    let owner := fun (n : Node) => { n with ctr := { Counters.reset with tab := [(7, { value := 0, err := false, bytes := false, owner := 4, trig := none })] } }
    let q : Coord := { query := none, shards := [], stage := 8, shard := 0, todo := [], expected := 0, prior := 0 }
    let coords := fun (r : Coord) => { owner (cmdNode { coord with phase := .running }) with srch := { SearchState.reset with coords := [(1, r)] } }
    let h : HarvestRun := { geo := someShard, compact := false, stage := 11, upTo := 0, pos := 0, slot := 0, mainN := 0, entry := 0, merged := 0, full := false, kept := [], removed := 0 }
    let harvests := { cmdNode { init with phase := .running } with srch := { SearchState.reset with harvests := [(1, h)] } }
    let io : EngIo := { ctx := 4, write := true, atomic := false, ctrl := none, pva := 0x10000, size := 64, data := [], done := 64, gen := 0, stage := 1, seq := 0, node := 0, status := some stOK }
    [ moves (.searchShard 1) (around (dataNode shard [])) (fun m => (Tbl.find? m.srch.queries 1).isSome),
      moves (.searchShard 1) (around (dataNode { shard with desc := [0x40030, 0, 0, 0x10001, 0x10000, 0, 0x10000, 1] } [])) (fun m => endedAs m stInvalid 0),
      moves (.searchCoordinated 1) (around (owner (dataNode coord []))) (fun m => (Tbl.find? m.srch.coords 1).isSome),
      moves (.searchCoordinated 1) (around (dataNode coord [])) (fun m => endedAs m stDenied 0),
      moves (.searchCoordinated 1) (around (dataNode { coord with desc := [0x40030, 0, 0, 0x10001, 0x10000, 0, 0x10000, 0] } [])) (fun m => endedAs m stInvalid 0),
      moves (.coordinatorMerge 1) (around (coords q)) (fun m => decide (((Tbl.find? m.srch.coords 1).map (·.stage)) = some 11) || (cmdOf m 1).isSome),
      moves (.coordinatorMerge 1) (around (coords { q with expected := 1 })) (fun m => ((Tbl.find? m.srch.coords 1).map (·.stage)) == some 8),
      moves (.coordinatorMerge 1) (around { coords { q with stage := 11 } with srch := { (coords { q with stage := 11 }).srch with ios := [(1, io)] } })
        (fun m => endedAs m stOK 0),
      moves (.harvestMerge 1) (around (dataNode { merge with desc := [0x40033, 0, 0, 0x10000, 4] } [])) (fun m => endedAs m stInvalid 0),
      moves (.harvestMerge 1) (around (shardNode merge 7 shardHeader)) (fun m => endedAs m stOK 0),
      moves (.harvestMerge 1) (around (shardNode merge 1 shardHeader)) (fun m => endedAs m stDenied 0),
      moves (.harvestCompact 1) (around (shardNode compact 7 shardHeader)) (fun m => endedAs m stInvalid 0),
      moves (.harvestInit 1) (around (shardNode init 7 shardHeader)) (fun m => endedAs m stInvalid 0),
      moves (.harvestInit 1) (around (shardNode init 7 [])) (fun m => endedAs m stOK 0),
      moves (.harvestInit 1) (around harvests) (fun m => endedAs m stOK 0) ].all id = true := by decide +kernel

/-- Inputs that meet the hypotheses of `Obligations.IndexMutates`, and what each comes to. -/
theorem test_indexMutates :
    let ins : Cmd := cmdWith [0x40031, 0, 0, 0x10000, 0x10000, 0]
    let del : Cmd := cmdWith [0x40032, 0, 0, 0x10000, 0x10000, 1]
    let r : MutRun := { geo := someShard, insert := true, src := 0x10000, count := 1, done := 0, lastSeq := 9, stage := 4, group := 1, stops := false }
    let act : ShardAct := { emptyAct 4 0x10000 with mutations := [1] }
    let runs_ := fun (c : Cmd) (r : MutRun) => { cmdNode { c with phase := .running } with srch := { SearchState.reset with muts := [(1, r)], acts := [act] } }
    [ moves (.indexInsert 1) (around (shardNode ins 7 shardHeader)) (fun m => endedAs m stOK 0),
      moves (.indexInsert 1) (around (shardNode ins 1 shardHeader)) (fun m => endedAs m stDenied 0),
      moves (.indexInsert 1) (around (shardNode ins 7 [])) (fun m => endedAs m stInvalid 0),
      moves (.indexInsert 1) (around (cmdNode { ins with desc := [0x40031, 0, 0, 0x10000, 0x10001, 0] })) (fun m => endedAs m stInvalid 0),
      moves (.indexDelete 1) (around (shardNode del 7 shardHeader)) (fun m => (Tbl.find? m.srch.muts 1).isSome || (cmdOf m 1).any (·.result0 == 1)),
      moves (.indexInsert 1) (around (runs_ ins r)) (fun m => endedAs m stOK 1 && (cmdOf m 1).any (·.word3 == 9)),
      moves (.sideListRoomFreed 1) (around (runs_ ins { r with stage := 5 })) (fun m => (Tbl.find? m.srch.muts 1).any (·.stage == 2)),
      moves (.sideListRoomFreed 1) (around (runs_ ins { r with stage := 4 })) (fun m => (Tbl.find? m.srch.muts 1).any (·.stage == 4)) ].all id = true := by decide +kernel

/-! ### Part 12 -/

/-- A request of node 9. -/
def fromNine (op pva len : Nat) : Packet :=
  { blankPacket 5 9 0 op with seq := 1, ctx := 4, pva := wordOf pva, len := BitVec.ofNat 13 len }

/-- The node with the resident block of bytes, where node 9 is admitted. -/
def servingNode (bs : Bytes) : Node :=
  let n := dataNode (cmdWith []) bs
  { n with
    rings := [], trk := Trackers.reset
    ctxs := { Contexts.reset with slots := [(4, { ctxSlot [(0x10000, oneRange)] with admits := 2 ^ 9 })] }
    ctr := { Counters.reset with tab := [(7, { value := 3, err := false, bytes := false, owner := 4, trig := none })] } }

/-- Of the answers to node 9 the last: class, STATUS and first payload byte. -/
def answered (m : Node) : Option (Nat × Nat × Nat) :=
  (pairOf m 5 9).waiting.getLast?.map fun p => (p.cls.toNat, p.status.toNat, numAt p.data 0 1)

/-- Inputs that meet the hypotheses of `Obligations.MemoryOperations`, and what each comes to. -/
theorem test_memoryOperations :
    let s := around (servingNode [1, 2, 3, 4])
    let tile := fun (op : Nat) => { fromNine op 0x10000 0 with op5 := 0x10000100BB, op6 := 64 }
    let wordAtom := { withPayload (fromNine 3 0x10000 4) [5, 0, 0, 0] with subop := 0x0B }
    let sixteen := List.replicate 16 1 |>.flatMap fun k => leBytes 4 k
    let word := fun (m : Node) => numAt (lineData m 0x400) 0 4
    [ moves (.read (sealPacket (fromNine 1 0x10000 4))) s (fun m => answered m == some (3, stOK, 1) && m.trk.reqs.isEmpty),
      moves (.write (sealPacket (withPayload (fromNine 2 0x10001 1) [9]))) s (fun m => answered m == some (2, stOK, 0) && word m == 0x04030901),
      moves (.atomic (sealPacket wordAtom)) s (fun m => (answered m).map (fun x => (x.1, x.2.1)) == some (3, stOK) && word m == 0x04030206),
      moves (.tileRead (sealPacket (tile 4))) s (fun m => answered m == some (3, stOK, 1)),
      moves (.tileWrite (sealPacket (withPayload (tile 5) sixteen))) s (fun m => answered m == some (2, stOK, 0) && word m == 1),
      moves (.tileAcc (sealPacket (withPayload (tile 6) sixteen))) s (fun m => answered m == some (2, stOK, 0) && word m == 0x04030202),
      moves (.probe (sealPacket (fromNine 8 0 0))) s (fun m => answered m == some (2, stOK, 0)),
      moves (.read (sealPacket (fromNine 1 0x20000 4))) s (fun m => answered m == some (2, stDenied, 0)),
      moves (.read (sealPacket (fromNine 1 0x10000 0x1FFF))) s (fun m => answered m == some (2, stInvalid, 0)),
      moves (.read (sealPacket (fromNine 2 0x10000 4))) s (fun m => m.prs == s.nd.prs) ].all id = true := by decide +kernel

/-- Inputs that meet the hypotheses of `Obligations.WaitsAndDeadlines`, and what each comes to. -/
theorem test_waitsAndDeadlines :
    let s := around (servingNode [1, 2, 3, 4])
    let wait := fun (v : Word) => sealPacket { fromNine 7 0 0 with aux := 7, op5 := v, deadline := 1 }
    let erring := around { s.nd with ctr := { s.nd.ctr with tab := [(7, { value := 3, err := true, bytes := false, owner := 4, trig := none })] } }
    let parked := around { s.nd with ctr := { s.nd.ctr with waits := [⟨7, 8, wait 8⟩] } }
    let line : CommitUnit := { lines := [(0x400, 0x10000)], payOff := 0, payLen := 0 }
    let q := { someReq { fromNine 1 0x10000 4 with deadline := 1 } with units := [line] }
    let late := fun (policy : Nat) => around { s.nd with
      ctxs := { Contexts.reset with slots := [(4, ctxSlot [(0x10000, { oneRange with dlPolicy := policy })])] },
      coh := { s.nd.coh with snoops := [(0x400, 4)] },
      trk := { Trackers.reset with reqs := [(1, q)], nextTid := 2 } }
    let ctrl := fun (op a len : Nat) => { fromNine op a len with ctx := 0, flags := 0x24 }
    [ moves (.wait (wait 3)) s (fun m => answered m == some (2, stOK, 0) && m.ctr.waits.isEmpty),
      moves (.wait (wait 8)) s (fun m => m.ctr.waits.length == 1 && answered m == none),
      moves (.wait (wait 8)) erring (fun m => answered m == some (2, stAborted, 0)),
      moves (.waitDeadlineExpiry 9 1) parked (fun m => answered m == some (2, stLateFail, 0) && m.ctr.waits.isEmpty),
      moves (.waitDeadlineExpiry 8 1) parked (fun m => m.ctr.waits.length == 1),
      moves (.deadlineExpiry 9 1) (late 0) (fun m => answered m == none),
      moves (.deadlineExpiry 9 1) (late 2) (fun m => answered m == some (3, stLateCheap, 0)),
      moves (.deadlineExpiry 9 1) (late 3) (fun m => answered m == some (2, stLateFail, 0)),
      moves (.deadlineExpiry 9 1) s (fun m => answered m == none),
      moves (.controlRegionAccess (sealPacket (ctrl 1 0x18 8))) s (fun m => answered m == some (3, stOK, 0)),
      moves (.controlRegionAccess (sealPacket { withPayload (ctrl 2 0 8) (leBytes 8 0x701) with flags := 0x25 })) s
        (fun m => answered m == some (2, stOK, 0) && (ringOf m 0).cfgStage == 0x701),
      moves (.controlRegionAccess (sealPacket (ctrl 1 0x19 8))) s (fun m => answered m == some (2, stInvalid, 0)),
      moves (.controlRegionAccess (sealPacket { ctrl 1 0x18 8 with src := 8 })) s
        (fun m => (pairOf m 5 8).waiting.any fun p => p.status.toNat == stDenied) ].all id = true := by decide +kernel

/-- Inputs that meet the hypotheses of `Obligations.RequestsAreTaken`, and what each comes to. -/
theorem test_requestsAreTaken :
    let s := around (servingNode [1, 2, 3, 4])
    let w := sealPacket (withPayload (fromNine 2 0x10001 1) [9])
    let second := sealPacket { w with seq := 2 }
    let behind := around { s.nd with prs := { s.nd.prs with delivered := [sealPacket (fromNine 1 0x10000 4), second] } }
    let stopped := around { s.nd with power := { s.nd.power with failed := true } }
    [ moves (.write w) s (fun m => dupFate m w != .fresh &&
        moves (.write w) (around m) fun k => (pairOf k 5 9).waiting.map (·.status.toNat) == [stOK, stOK] && k.mem.plain == m.mem.plain),
      moves (.write w) s (fun m => let m := { m with ml := { m.ml with memb := { m.ml.memb with suspended := true } } }
        moves (.write w) (around m) fun k => (pairOf k 5 9).waiting.map (·.status.toNat) == [stOK, stRetry] && (pairOf k 5 9).marks == [(1, 0)]),
      (let a := present behind.nd second; a.2 && earlierDelivered a.1 second),
      moves (.write second) behind (fun m => m.prs.delivered.length == 2),
      moves (.write w) stopped (fun m => m == stopped.nd) ].all id = true := by decide +kernel

/-! ### Part 13 -/

/-- A port that is up with all its groups. -/
def upPort : OPort := setTxGroups (setRxGroups (setPortState { OPort.reset with fseqTx := 1, fseqRx := 1 } 2) 15) 15

/-- The ready node with port 0 as given. -/
def portNode (o : OPort) : Node := setPort { readyNode with power := { readyNode.power with elsOk := [0, 1], domains := [0, 1, 2, 75, 76] } } 0 o

/-- A flit with some bytes at an offset. -/
def flitWith (ctype off : Nat) (bs : Bytes) : Bytes := sliceOf ([BitVec.ofNat 8 ctype] ++ List.replicate (off - 1) 0 ++ bs) 0 64

/-- Inputs that meet the hypotheses of `Obligations.LinkFramesAndFlits`, and what each comes to. -/
theorem test_linkFramesAndFlits :
    let up := around (portNode upPort)
    let credit := flitWith 1 8 (leBytes 2 7)
    let frame := fun (ftype fseq : Nat) (f : Bytes) => frameTrailer ftype 0 false fseq 0 f
    let receive := fun (t : Word) (f : Bytes) (ok : Bool) => Instr.frameReceive 0 3 t f ok
    let port := fun (m : Node) => portAt m 0
    let head := (packetFlits (sealPacket { blankPacket 5 9 0 8 with seq := 1 })).headD []
    let kept := around (portNode { upPort with replay := [(1, 3, 0, credit), (2, 3, 0, credit)], replayed := (1, 8) })
    [ moves (receive (frame 3 1 credit) credit false) up (fun m => (port m).awaitReplay && m.out.length == 1),
      moves (receive 0 credit true) up (fun m => (port m).awaitReplay && (port m).fseqRx == 1),
      moves (receive (frame 5 1 credit) credit true) up (fun m => (port m).awaitReplay),
      moves (receive (frame 0 0 credit) credit true) (around (portNode { upPort with kaMissed := 3 })) (fun m => (port m).kaMissed == 0),
      moves (receive (frame 3 2 credit) credit true) up (fun m => (port m).awaitReplay && (port m).credits.headD 9 == 0),
      moves (receive (frame 3 1 credit) credit true) up (fun m => (port m).fseqRx == 2 && (port m).credits.headD 9 == 7),
      moves (receive (frame 1 1 head) head true) up (fun m => (pairOf m 5 9).deliv == [1, 0, 0] || m.prs.delivered.length == 1),
      moves (receive (frameTrailer 0 0 true 0 2 credit) credit true) kept (fun m => (port m).replay.isEmpty),
      moves (receive (frame 3 1 credit) credit true) ready (fun m => port m == OPort.reset),
      moves (.credit 0 credit) ready (fun m => (port m).credits.headD 9 == 7),
      moves (.keepalive 0 credit) (around (portNode { upPort with kaMissed := 3 })) (fun m => (port m).kaMissed == 0),
      moves (.keepaliveSend 0) up (fun m => (port m).kaMissed == 1 && m.out.length == 1),
      moves (.keepaliveLost 0) up (fun m => portState (port m) == 1 && bitOf (port m).status 30),
      moves (.keepaliveLost 0) ready (fun m => m.ports == readyNode.ports),
      moves (.replayReq 0 (flitWith 2 8 (leBytes 2 1))) kept (fun m => bitOf (port m).status 31 && portState (port m) == 1),
      moves (.replayReq 0 (flitWith 2 8 (leBytes 2 2))) kept (fun m => m.out.length == 1 && (port m).replayed == (2, 1)) ].all id = true := by decide +kernel

/-- Inputs that meet the hypotheses of `Obligations.WidthsAndBringUp`, and what each comes to. -/
theorem test_widthsAndBringUp :
    let up := around (portNode upPort)
    let port := fun (m : Node) => portAt m 0
    let at_ := fun (o : OPort) => around (portNode o)
    let training := setPortState { OPort.reset with bringup := 3 } 1
    let hi := flitWith 5 8 (leBytes 2 9 ++ leBytes 2 8 ++ [0, 0, 0, 0] ++ leBytes 2 768)
    let agreed := { training with bringup := 6 }
    [ moves (.widthSwitch 0 true) (at_ { upPort with txSwitch := some (7, 2) }) (fun m => txGroups (port m) == 7 && portState (port m) == 2),
      moves (.widthSwitch 0 false) (at_ { upPort with rxSwitch := some (1, 2) }) (fun m => portState (port m) == 1),
      moves (.widthSwitch 0 false) up (fun m => port m == upPort),
      moves (.ringLockRevisit 0 true 5 true false) up (fun m => (port m).txLocked == 0xFFFF),
      moves (.ringLockRevisit 0 true 5 false false) up (fun m => (port m).txFailed == 2 && (port m).txLocked == 0xFFDF),
      moves (.degradeSymbolWindow 0 1 [1, 2] false) up (fun m => (port m).rxFailed == 0),
      moves (.degradeSymbolWindow 0 1 [2 ^ 40] false) up (fun m => (port m).rxFailed == 2),
      moves (.groupReturn 0 true 3 false) (at_ { setTxGroups upPort 7 with txFailed := 8 }) (fun m => (port m).txFailed == 0 && (port m).txSwitch == some (15, 2)),
      moves (.codewordLock 0 15 15) (at_ training) (fun m => (port m).bringup == 4 && txGroups (port m) == 15),
      moves (.codewordLock 0 15 15) (at_ { training with rxSwitch := some (15, 0) }) (fun m => (port m).bringup == 6),
      moves (.codewordLock 0 1 15) (at_ training) (fun m => (port m).failedStep == 3),
      moves (.codewordLock 0 15 15) up (fun m => port m == upPort),
      moves (.laneState 0 (flitWith 3 8 [15])) (at_ (setRxGroups { training with bringup := 4 } 15)) (fun m => (port m).bringup == 6),
      moves (.laneState 0 (flitWith 3 8 [7, 2])) up (fun m => (port m).rxSwitch == some (7, 2)),
      moves (.laneState 0 (flitWith 3 8 [7, 0])) up (fun m => (port m).txSwitch == some (7, 2)),
      moves (.hello 0 hi) (at_ agreed) (fun m => portState (port m) == 2 && (port m).credits.headD 0 == 768),
      moves (.hello 0 (flitWith 5 8 (leBytes 2 0))) (at_ agreed) (fun m => (port m).failedStep == 6),
      moves (.portBringupRetry 0) (at_ { setPortState OPort.reset 0 with failedStep := 3 }) (fun m => portState (port m) == 1 && (port m).bringup == 3),
      moves (.portBringupRetry 0) up (fun m => port m == upPort),
      moves (.elsOutputLow 0) up (fun m => portState (port m) == 0 && m.power.elsOk == [1]),
      moves (.elsRemoved 0) up (fun m => portState (port m) == 0),
      moves (.elsInserted 2 true) up (fun m => m.power.elsOk == [0, 1, 2]),
      moves (.elsInserted 2 false) up (fun m => m.power.elsOk == [0, 1]) ].all id = true := by decide +kernel

/-- Inputs that meet the hypotheses of `Obligations.SequencesAgree`, and what each comes to. -/
theorem test_sequencesAgree :
    let known : Pair := { Pair.fresh with inc := some 3 }
    let with_ := fun (q : Pair) => around (setPair readyNode 5 9 q)
    let reset := fun (ack inc : Nat) => sealPacket { blankPacket 5 9 5 0x81 with tag := BitVec.ofNat 32 inc, aux := BitVec.ofNat 16 ack }
    let sync := sealPacket (withPayload (blankPacket 5 9 5 0x80) (syncPayload Pair.fresh false))
    let waitingOne := { known with resetting := true, waiting := [blankPacket 9 5 2 2] }
    let u : Unanswered := { pkt := { blankPacket 9 5 0 2 with seq := 1 }, purpose := .none, backoff := true, beforeSync := false }
    [ moves (.seqReset (reset 0 3)) (with_ known) (fun m => m.unsent.length == 1 && (pairOf m 5 9).inc == some 3),
      moves (.seqReset (reset 1 3)) (with_ waitingOne) (fun m => (pairOf m 5 9).usable && m.unsent.length == 1),
      moves (.seqReset (reset 1 3)) (with_ known) (fun m => pairOf m 5 9 == known),
      moves (.seqReset (reset 0 3)) ready (fun m => (pairOf m 5 9).inc == some 3 && m.unsent.length == 1),
      moves (.seqResetRepeat 9) (with_ waitingOne) (fun m => m.unsent.length == 1),
      moves (.seqResetRepeat 9) (with_ known) (fun m => m.unsent.isEmpty),
      moves (.seqSync sync) (with_ { known with usable := true, sent := [{ u with backoff := false, beforeSync := true }] }) (fun m => m.unsent.length == 2),
      moves .seqSyncPeriod (with_ { known with sent := [u] }) (fun m => m.unsent.length == 1),
      moves .seqSyncPeriod (with_ known) (fun m => m.unsent.isEmpty),
      moves (.retryResend 9 0 1) (with_ { known with usable := true, sent := [u] }) (fun m => m.unsent.length == 1 && (pairOf m 5 9).sent.all fun u => !u.backoff),
      moves (.retryResend 9 0 1) (with_ known) (fun m => m.unsent.isEmpty) ].all id = true := by decide +kernel

/-! ### Part 14 -/

/-- A bucket with RATE 1 a core cycle and BURST 2. -/
def someBucket : Bucket := { cfg := 1, rate := 65536, burst := 2, gen := 3, level := 0 }

/-- Inputs that meet the hypotheses of `Obligations.TrafficMoves`, and what each comes to. -/
theorem test_trafficMoves :
    let p := sealPacket (blankPacket 9 5 5 0xA0)
    let o := { upPort with credits := [8, 8, 8, 8, 8, 8] }
    let n := portNode o
    let queued := fun (k : Nat) => setTraf n 0 { trafAt n 0 with tcs := putAt (trafAt n 0).tcs k { TcQueue.reset with fifos := [[], [], [], [], [], [p]] } }
    let shaped := setTraf n 0 { trafAt n 0 with shapers := [(4, { Shaper.fresh n.alm with bucket := someBucket })] }
    let policed := { n with pol := { n.pol with buckets := [(4, someBucket)] } }
    let level := fun (m : Node) => (Tbl.find? (trafAt m 0).shapers 4).map (·.bucket.level)
    [ moves (.schedulerSelect 0) (around (queued 7)) (fun m => m.out.length == 1 && (portAt m 0).onWire.length == 1),
      moves (.schedulerSelect 0) (around (queued 2)) (fun m => m.out.length == 1 && (portAt m 0).credits.getD 5 0 == 7),
      moves (.schedulerSelect 0) (around n) (fun m => m.out.isEmpty),
      moves (.schedulerSelect 1) (around (queued 7)) (fun m => m.out.isEmpty),
      moves (.tokenRefill (some 0) 4) (around shaped) (fun m => level m == some 65536),
      moves (.tokenRefill (some 0) 5) (around shaped) (fun m => level m == some 0),
      moves (.tokenRefill none 4) (around policed) (fun m => (Tbl.find? m.pol.buckets 4).map (·.level) == some 65536),
      moves (.tokenRefill none 5) (around policed) (fun m => (Tbl.find? m.pol.buckets 4).map (·.level) == some 0) ].all id = true := by decide +kernel

/-- Inputs that meet the hypotheses of `Obligations.StagedObjectsCommit`, and what each comes to. -/
theorem test_stagedObjectsCommit :
    let n := portNode upPort
    let s := around n
    let staged := fun (c : Word) => around (setPort n 0 { upPort with cfgStage := c })
    let dense := fun (live stage : Word) => setDport readyNode 0 { DensePort.reset with cfgLive := live, cfgStage := stage }
    let onDrive0 := { (dense 1 0) with ctxs := { Contexts.reset with slots := [(4, ctxSlot [(0x30000, { oneRange with start := 0x30000, localOff := denseBase, resClass := 1 })])] } }
    let t := trafAt n 0
    let shaped := fun (sel cfg : Word) => around (setTraf n 0 { t with shapers := [(4, { Shaper.fresh n.alm with bucket := someBucket })], shpSel := sel, shpStage := (cfg, 5, 6) })
    let policed := fun (cfg : Word) => around { n with pol := { n.pol with buckets := [(4, someBucket)], polSel := 4, polStage := (cfg, 5, 6) } }
    let flt := fun (f : Faults → Faults) => around { n with flt := f n.flt }
    let br := fun (f : Bridge → Bridge) => around { n with bridge := f n.bridge }
    let shp := fun (m : Node) => (Tbl.find? (trafAt m 0).shapers 4).map (·.bucket)
    let eb := n.flt.ebStage
    [ moves (.oportCommit 0 0) (staged 0x7E) (fun m => portState (portAt m 0) == 2),
      moves (.oportCommit 0 1) (staged 0x7E) (fun m => portState (portAt m 0) == 3 && (portAt m 0).gen == 1),
      moves (.oportCommit 0 1) (staged 0x79) (fun m => (portAt m 0).cfgLive == 0x7F && bitOf (portAt m 0).stat 0),
      moves (.dportCommit 0 1) (around (dense 0 1)) (fun m => fieldOf (dportAt m 0).status 1 0 == 1),
      moves (.dportCommit 0 1) (around onDrive0) (fun m => (dportAt m 0).cfgLive == 1 && bitOf (dportAt m 0).stat 0),
      moves (.schedCommit 0 1) s (fun m => (trafAt m 0).gen == 1),
      moves (.schedCommit 0 1) (around (setTraf n 0 { t with tcs := putAt t.tcs 0 { TcQueue.reset with cfgStage := 0 } }))
        (fun m => (trafAt m 0).gen == 0 && (getAt (trafAt m 0).tcs 0 TcQueue.reset).cfgLive == 16),
      moves (.shpSel 0 4) (shaped 0 0) (fun m => (trafAt m 0).shpStage == (1, 65536, 2)),
      moves (.shpSel 0 5) (shaped 0 0) (fun m => bitOf (trafAt m 0).shpStat 2),
      moves (.shpCommit 0 1) (shaped 4 1) (fun m => (shp m).map (·.burst) == some 6),
      moves (.shpCommit 0 1) (shaped 4 0xE) (fun m => (shp m).map (·.burst) == some 2),
      moves (.polSel 4) (policed 1) (fun m => m.pol.polStage == (1, 65536, 2)),
      moves (.polSel 5) (policed 1) (fun m => bitOf m.pol.polStat 2),
      moves (.polCommit 1) (policed 1) (fun m => (Tbl.find? m.pol.buckets 4).map (·.rate) == some 5),
      moves (.polCommit 1) (policed 3) (fun m => (Tbl.find? m.pol.buckets 4).map (·.rate) == some 65536 && bitOf m.pol.polStat 0),
      moves (.ebCommit 1) s (fun m => m.flt.ebNext == [eb]),
      moves (.ebCommit 1) (flt fun f => { f with ebStage := 2 ^ 40 }) (fun m => m.flt.ebNext.isEmpty && bitOf m.flt.ebStat 0),
      moves (.vgCommit 1) (flt fun f => { f with vgStage := 0x150200 }) (fun m => m.flt.vgLive == 0x150200),
      moves (.vgCommit 1) (flt fun f => { f with vgStage := 0 }) (fun m => bitOf m.flt.vgStat 0 && m.flt.vgGen == n.flt.vgGen),
      moves (.mqCommit 1) (flt fun f => { f with mqStage := (0x10000, 0x7FFFFFFF) }) (fun m => m.flt.mqLive == (0x10000, 0x7FFFFFFF)),
      moves (.mqCommit 1) (flt fun f => { f with mqStage := (1, 0) }) (fun m => bitOf m.flt.mqStat 0),
      runs (.plcCommit 1) s (fun t => t.hl.plc.next == [s.hl.plc.stage] || bitOf t.hl.plc.stat 0),
      moves (.hbWinSel 2) s (fun m => m.bridge.winSel == 2 && m.bridge.winStage == (0, 0, 0)),
      moves (.hbWinSel 8) s (fun m => bitOf m.bridge.winStat 2),
      moves (.hbWinCommit 1) s (fun m => (winAt m 0).gen == 1),
      moves (.hbWinCommit 1) (br fun b => { b with winStage := (2, 0, 0) }) (fun m => bitOf m.bridge.winStat 0),
      moves (.hbNtfCommit 1) (br fun b => { b with ntfStage := (1, 0x10000) }) (fun m => m.bridge.ntfLive == (1, 0x10000)),
      moves (.hbNtfCommit 1) (br fun b => { b with ntfStage := (1, 1) }) (fun m => bitOf m.bridge.ntfStat 0) ].all id = true := by decide +kernel

/-! ### Part 15 -/

/-- A node where node 9 owns line 0x400, and holds it while a recall with SEQ 3 is out. -/
def ownedLine (opcode : Nat) (out : Bool) : Node :=
  let n := servingNode [1, 2, 3, 4]
  let e : DirEntry := { excl := true, coarse := false, ptrs := [9], groups := 0, age := 0, ctx := 4, pva := 0x10000 }
  let rc : Recall := { opcode := opcode, legs := [{ node := 9, seq := 3, wbPending := false }], cause := .request, ctx := 4, pva := 0x10000 }
  { n with coh := { n.coh with dir := [(0x400, e)], recalls := if out then [(0x400, rc)] else [] } }

/-- An answer of node 9 to that recall. -/
def holderAnswer (op cls seq : Nat) : Packet := { blankPacket 5 9 cls op with seq := 1, ctx := 4, pva := 0x10000, op5 := wordOf seq }

/-- A line of nines. -/
def nines : Bytes := List.replicate 64 9

/-- Inputs that meet the hypotheses of `Obligations.RecallsAndWriteBacks`, and what each comes to. -/
theorem test_recallsAndWriteBacks :
    let s := around (ownedLine 0x42 true)
    let one := fun (p : Packet) => sealPacket p
    let evict := { withPayload (holderAnswer 0x68 3 0) nines with op5 := 0 }
    let lent := { ownedLine 0x41 false with coh := { Coherence.reset with snoops := [(0x400, 4)], lent := [(3, [{ ctx := 4, line := 0x400 }])] } }
    [ moves (.recallAnswer (one (holderAnswer 0x60 2 3))) s (fun m => m.coh.dir.isEmpty && m.coh.recalls.isEmpty),
      moves (.recallAnswer (one (holderAnswer 0x60 2 4))) s (fun m => m.coh.recalls.length == 1 && m.log.next == 1),
      moves (.recallAnswer (one (holderAnswer 0x62 2 3))) (around (ownedLine 0x40 true)) (fun m => m.coh.recalls.length == 1 && m.log.next == 1),
      moves (.recallAnswer (one (holderAnswer 0x62 2 3))) s (fun m => m.coh.recalls.isEmpty && (dirOf m 0x400).any fun e => !e.excl),
      moves (.recallAnswer (one (holderAnswer 0x64 2 3))) s (fun m => (Tbl.find? m.coh.recalls 0x400).any fun r => r.legs.all (·.wbPending)),
      moves (.recallAnswer (one (withPayload (holderAnswer 0x61 3 3) nines))) s (fun m => lineData m 0x400 == nines && m.coh.dir.isEmpty),
      moves (.wbEvict (one evict)) (around (ownedLine 0x42 false)) (fun m => lineData m 0x400 == nines && m.coh.dir.isEmpty),
      moves (.wbEvict (one { evict with src := 8 })) (around (ownedLine 0x42 false)) (fun m => m.coh.dir.length == 1 && m.log.next == 1),
      moves (.wbEvict (one { evict with pva := 0x40000 })) (around (ownedLine 0x42 false)) (fun m => m.coh.dir.length == 1 && m.log.next == 1),
      moves (.wbEvict (one evict)) (around { ownedLine 0x42 false with ctxs := { Contexts.reset with slots := [(4, ctxSlot [(0x10000, oneRange)])] } })
        (fun m => m.coh.dir.length == 1 && m.log.next == 0),
      moves (.snoopInvalidationComplete 0x400) (around lent) (fun m => m.coh.snoops.isEmpty && m.coh.lent == [(3, [])]),
      moves (.snoopInvalidationComplete 0x401) (around lent) (fun m => m.coh.snoops.length == 1) ].all id = true := by decide +kernel

/-- Inputs that meet the hypotheses of `Obligations.MirrorsFollow`, and what each comes to. -/
theorem test_mirrorsFollow :
    let n := servingNode [1, 2, 3, 4]
    let ranged := fun (r : Range) => { n with ctxs := { Contexts.reset with slots := [(4, ctxSlot [(0x10000, r)])] } }
    let mirror := around (ranged { oneRange with mirrorRole := true, peer := 9 })
    let primary := ranged { oneRange with peer := 9 }
    let peer := fun (op len : Nat) (w5 : Word) => { fromNine op 0x10000 len with flags := 0x30, op5 := w5 }
    let forward := { withPayload (peer 2 64 (2 ^ 48 * 3)) nines with flags := 0x31 }
    let repair := { peer 1 64 (2 ^ 48 * 3 + 9 * 2 ^ 32) with opcode := 1 }
    let sent := fun (m : Node) (w : SentFor) (p : Packet) => setPair m 5 9 { Pair.fresh with usable := true, sent := [{ pkt := { p with seq := 1 }, purpose := w, backoff := false, beforeSync := false }] }
    let fwdOut := { blankPacket 9 5 0 2 with ctx := 4, pva := 0x10000, flags := 0x31 }
    let answer := fun (op cls st : Nat) => { blankPacket 5 9 cls op with status := BitVec.ofNat 8 st, op5 := 1 }
    let bad := { n with mem := { n.mem with bad := [(0x400, .stack)] } }
    let held := { n with ml := { n.ml with memb := { n.ml.memb with suspended := true } } }
    let query := fun (count : Nat) => sealPacket { withPayload (blankPacket 5 9 5 0xB1) (leBytes 8 (6 + count * 2 ^ 16) ++ leBytes 4 17) with seq := 1 }
    let running := { n with prs := { n.prs with mirrorWins := [(pairKey 9 6, { recs := [(17, DedupeRec.opened 2)], last := 17 })] } }
    [ moves (.peerForward (sealPacket forward)) mirror (fun m => lineData m 0x400 == nines && answered m == some (2, stOK, 0)),
      moves (.peerForward (sealPacket forward)) (around primary) (fun m => answered m == some (2, stDenied, 0) && m.log.next == 1),
      moves (.peerForward (sealPacket { forward with flags := 0x33 })) mirror (fun m => answered m == some (2, stInvalid, 0)),
      moves (.forwardAnswer (sealPacket (answer 2 2 stOK))) (around (sent primary (.lineForward 0x400) fwdOut)) (fun m => (pairOf m 5 9).sent.isEmpty),
      moves (.forwardAnswer (sealPacket (answer 2 2 stRetry))) (around (sent primary (.lineForward 0x400) fwdOut)) (fun m => (pairOf m 5 9).sent.all (·.backoff)),
      moves (.forwardAnswer (sealPacket (answer 2 2 stDenied))) (around (sent primary (.lineForward 0x400) fwdOut))
        (fun m => (rangeOf m 4 0x10000).map (·.peer) == some 0),
      moves (.forwardAnswer (sealPacket (answer 2 2 stDenied))) (around { sent primary (.lineForward 0x400) fwdOut with ml := held.ml })
        (fun m => (rangeOf m 4 0x10000).map (·.peer) == some 9 && m.prs.delivered.length == 1),
      moves (.repairRead (sealPacket repair)) mirror (fun m => answered m == some (3, stOK, 1)),
      moves (.repairRead (sealPacket repair)) (around { ranged { oneRange with mirrorRole := true, peer := 9 } with coh := { Coherence.reset with poison := [0x400] } })
        (fun m => answered m == some (2, stPoisoned, 0)),
      moves (.repairRead (sealPacket repair)) (around (ranged oneRange)) (fun m => answered m == some (2, stDenied, 0)),
      moves (.resyncRequest (sealPacket repair)) (around primary) (fun m => m.coh.mdirty.length == 1),
      moves (.mirrorResync 0x400) (around primary) (fun m => m.coh.mdirty.isEmpty),
      moves (.repairReadAnswer (sealPacket (withPayload (answer 1 3 stOK) nines))) (around (sent bad (.repair 0x400) (blankPacket 9 5 0 1)))
        (fun m => lineData m 0x400 == nines && m.mem.bad.isEmpty),
      moves (.repairReadAnswer (sealPacket (answer 1 2 stPoisoned))) (around (sent bad (.repair 0x400) (blankPacket 9 5 0 1)))
        (fun m => isPoisoned m 0x400 && m.mem.bad.isEmpty),
      moves (.repairReadAnswer (sealPacket (answer 1 2 stRetry))) (around (sent bad (.repair 0x400) (blankPacket 9 5 0 1))) (fun m => m.mem.bad.length == 1),
      moves (.adoptQuery (query 1)) (around n) (fun m => (pairOf m 5 9).waiting.length == 1 || (pairOf m 5 9).sent.length == 1),
      moves (.adoptQuery (query 0)) (around n) (fun m => m.log.next == 1),
      moves (.adoptQuery (query 1)) (around running) (fun m => m.prs.delivered.length == 1) ].all id = true := by decide +kernel

/-! ### Part 16 -/

/-- A command of a dense port. -/
def nvmeCmd (w : NvmeFor) : NvmeCmd := { port := 2, queue := 3, opcode := 1, lba := 16, blocks := 1, fua := false, data := [], states := [], purpose := w }

/-- A node with command 7 out on port 2, after some timeouts; frame 0 is being filled. -/
def denseNode (w : NvmeFor) (timeouts : Nat) : Node :=
  let n := servingNode [1, 2, 3, 4]
  let frame : CacheFrame := { blk := denseBase / 65536, dirty := 0, states := List.replicate 16 0, age := 1, filling := true }
  let port : DensePort := { DensePort.reset with status := 6, queues := 64, timeouts := timeouts }
  { n with mem := { n.mem with nvme := [(7, nvmeCmd w)], nextCid := 8, frames := [(0, frame)], dports := putAt n.mem.dports 2 port } }

/-- Inputs that meet the hypotheses of `Obligations.DrivesAnswerAndFail`, and what each comes to. -/
theorem test_drivesAnswerAndFail :
    let n := denseNode (.frameFill 0) 0
    let port := fun (m : Node) => dportAt m 2
    let fresh := { readyNode with mem := { Tiers.reset with dports := putAt Tiers.reset.dports 2 DensePort.reset } }
    [ decide (Quiet n) && accepting n,
      moves (.stackCacheFillComplete 7 [] []) (around n) (fun m => m.mem.nvme.isEmpty &&
        m.mem.frames.map (fun f => (f.2.filling, f.2.states.length)) == [(false, 16)]),
      moves (.stackCacheFillComplete 7 [] []) (around { n with power := Power.reset }) (fun m => m.mem.nvme.length == 1),
      moves (.nvmeCompletion 7 true [] []) (around (denseNode .flush 1)) (fun m => m.mem.nvme.isEmpty && (port m).timeouts == 0),
      moves (.nvmeCompletion 7 true [] []) (around (denseNode (.frameWrite 0) 1)) (fun m => m.mem.nvme.isEmpty),
      moves (.nvmeCompletion 7 true [] []) (around (denseNode (.directWrite 3) 1)) (fun m => m.mem.nvme.isEmpty),
      moves (.nvmeCompletion 7 true [] []) (around (denseNode (.directRead 3) 1)) (fun m => m.mem.nvme.isEmpty),
      moves (.nvmeCompletion 8 true [] []) (around n) (fun m => m.mem.nvme.length == 1),
      moves (.nvmeTimeout 7) (around (denseNode .flush 0)) (fun m => m.mem.nvme.map (fun c => (c.1, c.2.opcode, c.2.queue)) == [(8, 8, 0), (9, 1, 4)] &&
        (port m).timeouts == 1 && m.out.length == 2),
      moves (.nvmeTimeout 7) (around (denseNode .flush 1)) (fun m => m.mem.nvme.isEmpty && fieldOf (port m).status 3 0 == 12),
      moves (.nvmeTimeout 9) (around n) (fun m => m.mem.nvme.length == 1),
      moves (.driveRemoved 2) (around (denseNode .flush 0)) (fun m => m.mem.nvme.isEmpty && fieldOf (port m).status 3 0 == 8),
      moves (.driveRemoved 2) (around fresh) (fun m => fieldOf (port m).status 3 0 == 0),
      moves (.driveAdded 2 true true 4096 100 true) (around fresh) (fun m => fieldOf (port m).status 3 0 == 6 && (port m).queues == 64),
      moves (.driveAdded 2 true false 4096 100 true) (around fresh) (fun m => fieldOf (port m).status 5 0 == 0x24 && bitOf m.log.alert alDrive),
      moves (.driveAdded 2 true true 4096 100 true) (around n) (fun m => (port m).nsBlocks == 0) ].all id = true := by decide +kernel

/-- Node 9 lends a range; a READ or WRITE of its first block is out, in as many packets as there are legs. -/
def lentNode (legs : List (Nat × Nat)) (op : Nat) : Node :=
  let n := servingNode []
  let r := { oneRange with resClass := 3, lenderNode := 9, lenderAddr := 0x40000 }
  let io : LenderIo := { ctx := 4, write := false, node := 9, legs := legs, data := List.replicate 4096 0 }
  let out := { blankPacket 9 5 0 op with seq := 1, ctx := 4, pva := 0x40000, flags := 0x40 }
  let n := { n with ctxs := { Contexts.reset with slots := [(4, ctxSlot [(0x10000, r)])] }
                    mem := { Tiers.reset with lentIo := [(16, io)] } }
  setPair n 5 9 { Pair.fresh with usable := true, sent := [{ pkt := out, purpose := .lender 16, backoff := false, beforeSync := false }] }

/-- Inputs that meet the hypotheses of `Obligations.LendersAnswer`, and what each comes to. -/
theorem test_lendersAnswer :
    let answer := fun (op cls st : Nat) => { blankPacket 5 9 cls op with seq := 1, status := BitVec.ofNat 8 st, op5 := 1 }
    let data := sealPacket (withPayload (answer 1 3 stOK) nines)
    let open_ := fun (m : Node) => (pairOf m 5 9).sent.length
    [ moves (.lenderResponse (sealPacket (answer 1 2 stRetry))) (around (lentNode [(1, 0)] 1)) (fun m => (pairOf m 5 9).sent.all (·.backoff)),
      moves (.lenderResponse (sealPacket (answer 2 2 stOK))) (around (lentNode [] 2)) (fun m => open_ m == 0 && m.log.next == 0),
      moves (.lenderResponse (sealPacket (answer 2 2 stDenied))) (around (lentNode [] 2)) (fun m => open_ m == 0 && m.log.next == 1),
      moves (.lenderResponse data) (around (lentNode [(1, 0), (2, 2048)] 1)) (fun m => m.mem.lentIo.map (fun e => e.2.legs) == [[(2, 2048)]]),
      moves (.lenderResponse (sealPacket (answer 1 2 stInternal))) (around (lentNode [(1, 0)] 1)) (fun m => m.mem.lentIo.isEmpty && !m.coh.poison.isEmpty),
      (Tbl.find? (lentNode [(1, 0)] 1).mem.lentIo 16).isSome, accepting (lentNode [(1, 0)] 1) ].all id = true := by decide +kernel

/-- Inputs that meet the hypotheses of `Obligations.LendersAnswer`, and what each comes to. -/
theorem test_lendersAnswer_whole :
    let n := lentNode [(1, 0)] 1
    let data := sealPacket (withPayload { blankPacket 5 9 3 1 with seq := 1, op5 := 1 } nines)
    [ moves (.lenderResponse data) (around { n with ctxs := { n.ctxs with slots := n.ctxs.slots.map fun e => (e.1, { e.2 with key := KeySlot.reset }) } })
        (fun m => m.mem.lentIo.isEmpty && (pairOf m 5 9).sent.isEmpty) ].all id = true := by decide +kernel

/-! ### Part 17 -/

/-- A tile's health in the node. -/
def tileWith (n : Node) (t : Nat) (f : TileHealth → TileHealth) : Node := setTile n t (f (tileAt n t))

/-- A state around a node, while Halord restarts, so that no record is written. -/
def faulty (n : Node) : State := { around n with hl := { Halord.reset with restarting := true } }

/-- Still, quiet and accepting. -/
def calm (n : Node) : Bool := accepting n && decide (Still n) && decide (Quiet n)

/-- Inputs that meet the hypotheses of `Obligations.ErrorsAreHandled`, and what each comes to. -/
theorem test_errorsAreHandled :
    let n := readyNode
    let held := { n with flt := { n.flt with regions := putAt n.flt.regions 2 { RegionState.reset with resetting := true, resets := 1 } } }
    let counted := { n with ctr := { n.ctr with tab := [(7, { value := 3, err := false, bytes := false, owner := 4, trig := none })] } }
    let data := dataNode (cmdWith []) [1, 2, 3]
    let bin := fun (m : Node) => (tileAt m 9).bins
    let region := fun (m : Node) => getAt m.flt.regions 2 RegionState.reset
    [ calm n, calm held, calm counted, calm data,
      moves (.residueMismatch 9 3 5 false) (faulty n) (fun m => bin m == [(0, 1)] && (tileAt m 9).lanesOut == 0),
      moves (.residueMismatch 9 3 5 true) (faulty n) (fun m => bin m == [(0, 1)] && (tileAt m 9).lanesOut == 1 && !(tileAt m 9).retired),
      moves (.correctedError 9 0 none) (faulty n) (fun m => bin m == [(0, 1)]),
      moves (.meshReplay 4 7) (faulty n) (fun m => !m.power.failed),
      moves (.meshReplay 4 8) (faulty n) (fun m => m.power.failed && bitOf m.log.alert alFailed),
      moves (.containmentTimeout 2) (faulty n) (fun m => !m.power.failed),
      moves (.containmentTimeout 2) (faulty held) (fun m => m.power.failed),
      moves (.uncorrectableStateError .chip) (faulty n) (fun m => m.power.failed),
      moves (.uncorrectableStateError .cached) (faulty { n with ctxs := { n.ctxs with xlate := [(3, [])] } }) (fun m => m.ctxs.xlate.isEmpty),
      moves (.uncorrectableStateError (.range 4 0 false)) (faulty n) (fun m => !m.power.failed),
      moves (.uncorrectableStateError (.range 4 0 true)) (faulty n) (fun m => m.power.failed),
      moves (.uncorrectableStateError (.dedupe 9 true)) (faulty { n with prs := { n.prs with wins := [(9, { recs := [], last := 5 })] } })
        (fun m => m.prs.wins.isEmpty && m.log.next == 1),
      moves (.uncorrectableStateError (.counter 7)) (faulty counted) (fun m => (counterOf m 7).value == counterMax && (counterOf m 7).err),
      moves (.uncorrectableStateError (.region 2)) (faulty n) (fun m => (region m).resetting && (region m).resets == 1),
      moves (.regionResetComplete 2) (faulty n) (fun m => m.log.next == 0),
      moves (.regionResetComplete 2) (faulty { held with rings := [] }) (fun m => !(region m).resetting && m.log.next == 1),
      moves (.uncorrectableLine 5 .stack) (faulty n) (fun m => m.log.next == 1 && m.coh.poison.isEmpty),
      moves (.uncorrectableLine 0x400 .tile) (faulty data) (fun m => !lineValid m 0x400 && lineValid m 0x401) ].all id = true := by decide +kernel

/-- Inputs that meet the hypotheses of `Obligations.TilesAndPatrols`, and what each comes to. -/
theorem test_tilesAndPatrols :
    let n := { readyNode with power := { readyNode.power with domains := List.range 67 } }
    let alone := (List.range 7).foldl (fun m k => tileWith m (k + 9) fun h => { h with retired := true }) n
    let alone := tileWith (tileWith alone 15 fun h => { h with retired := true }) 16 id
    let gated := tileWith { n with power := readyNode.power, flt := { n.flt with hremap := putAt n.flt.hremap 1 (Vector.ofFn fun k => if k.val = 1 then 10 else 8 + k.val) } } 9
      fun h => { h with gated := true }
    let set := fun (m : Node) (g v : Word) (q : Word × Word) => { m with flt := { m.flt with vgLive := g, mqLive := (v, q.1), mqCount := q.2 } }
    let permit := { set n 7 7 (0, 0) with alm := { n.alm with fields := [(0x030B, 0x7F)] } }
    let log := fun (m : Node) => m.log.next
    [ calm n, calm alone, calm gated, calm permit,
      moves (.tileRetire 9 false 2) (faulty n) (fun m => (tileAt m 9).retired && slotTile m 1 1 == 10 && slotTile m 1 2 == 10 && !m.power.domains.contains 12 && log m == 1),
      moves (.tileRetire 9 true 2) (faulty n) (fun m => (tileAt m 9).gated && slotTile m 1 1 == 10 && !m.power.domains.contains 12),
      moves (.tileRetire 8 true 2) (faulty alone) (fun m => !(tileAt m 8).gated && log m == 0),
      moves (.tileRetire 9 false 2) (faulty alone) (fun m => log m == 0),
      moves (.tileUngate 9) (faulty gated) (fun m => !(tileAt m 9).gated && slotTile m 1 1 == 9 && m.power.domains.contains 12),
      moves (.tileUngate 9) (faulty n) (fun m => slotTile m 1 1 == 9 && log m == 0),
      moves (.vigilPatrolRead 5 false) (faulty (set n 0 0 (0, 0))) (fun m => m.tele.isEmpty),
      moves (.vigilPatrolRead 5 false) (faulty n) (fun m => fieldOf m.flt.vgPasses 31 0 == 0 && m.tele.length == 1),
      moves (.vigilPatrolRead (stackTop / 64 - 1) false) (faulty n) (fun m => fieldOf m.flt.vgPasses 31 0 == 1),
      moves (.knownAnswerTest []) (faulty (set n 1 0 (0, 0))) (fun m => m.flt.katTile == 0),
      moves (.knownAnswerTest []) (faulty n) (fun m => m.flt.katTile == 1),
      moves .masqueInterval (faulty n) (fun m => m.flt.mqCount == 0),
      masqueKind permit == some 0,
      moves .masqueInterval (faulty permit) (fun m => m.flt.mqCount == 1 && log m == 1),
      masqueKind (set permit 7 17 (0, 0)) == some 3,
      moves .masqueInterval (faulty (set permit 7 17 (0, 0))) (fun m => m.flt.mqCount == 2 ^ 32 && m.flt.mqKind == 3) ].all id = true := by decide +kernel

/-! ### Part 18 -/

/-- Window 0: DPA 0 on, one granule, context 4 from PVA 0. -/
def someWin : BridgeWin := { cfg := wordOf (1 + 4 * 2 ^ 16 + 9 * 2 ^ 32 + 2 ^ 48), dpa := 0, pva := 0, gen := 1 }

/-- The ready node as a bridge, node 12, whose map has context 4 at home 6; some requests and snoops are out. -/
def bridgeNode_ (rs : List HostReq) (zs : List BridgeSnoop) (hs : List (Nat × Nat × Bool)) : Node :=
  let n := mappedNode (cmdWith []) 6
  { n with
    power := { n.power with hostEn := true }
    alm := { n.alm with bridgeNode := 12 }
    bridge := { Bridge.reset with wins := putAt Bridge.reset.wins 0 someWin, reqs := rs, snoops := zs, holds := hs, ntfLive := (1, 0x10000), masked := [3] } }

/-- A host request. -/
def fromHost (dpa : Nat) (meta_ : BitVec 2) (e : BitVec 64) : HostM2S := { tag := 5, dpa := wordOf dpa, meta_ := meta_, snp := 0, data := nines, enables := e }

/-- What the host was told last. -/
def heardLast (m : Node) : Option String := match m.out.getLast? with
  | some (.host what _ _) => some what
  | some (.msix v) => some (if v = 2 then "vector 2" else "")
  | _ => none

/-- A request of the bridge that home 6 has with SEQ 1. -/
def hostReqOf (owed : HostOwed) (cls op : Nat) : HostReq :=
  { hostTag := 5, owed := owed, pkt := { blankPacket 6 12 cls op with seq := 1, ctx := 4, pva := 0x40 }, lostHome := 0, asked := false }

/-- Inputs that meet the hypotheses of `Obligations.HostRequestsAreServed`, and what each comes to. -/
theorem test_hostRequestsAreServed :
    let n := bridgeNode_ [] [] []
    let s := around n
    let sent := fun (m : Node) => m.bridge.reqs.map fun r => (r.pkt.opcode.toNat, r.pkt.dst.toNat, r.pkt.src.toNat, r.pkt.pva.toNat)
    let far := 2 ^ 40
    let snoop : BridgeSnoop := { fwd := { blankPacket 12 6 1 0x41 with ctx := 4, pva := 0x40 }, dirty := none }
    let answer := fun (op cls st : Nat) (w5 : Word) => sealPacket { blankPacket 12 6 cls op with seq := 1, status := BitVec.ofNat 8 st, op5 := w5 + 1 }
    let data := fun (op : Nat) (w5 : Word) => sealPacket (withPayload { blankPacket 12 6 3 op with seq := 1, op5 := w5 + 1 } nines)
    let waits := fun (r : HostReq) => around (bridgeNode_ [r] [] [(0x40, 4, true)])
    let readReq := hostReqOf .readAny 0 1
    [ hostServed n, (windowFor n 0x40).isSome, (windowFor n far).isNone,
      moves (.hostMemrd (fromHost far 2 0) false) s (fun m => heardLast m == some "Cmp" && m.out.length == 2 && m.log.next == 1),
      moves (.hostMemwr (fromHost far 2 0)) s (fun m => heardLast m == some "Cmp" && m.out.length == 1 && m.log.next == 1),
      moves (.hostMemrd (fromHost 0x47 2 0) true) s (fun m => sent m == [(1, 6, 12, 0x40)] && m.bridge.reqs.map (·.owed) == [.readAny]),
      moves (.hostMemrd (fromHost 0x47 3 0) true) s (fun m => sent m == [(1, 6, 12, 0x40)] && m.bridge.reqs.map (·.owed) == [.readShared]),
      moves (.hostMemrd (fromHost 0x47 0 0) true) s (fun m => sent m == [(4, 6, 12, 0x40)]),
      moves (.hostMemwr (fromHost 0x40 0 0)) (around (bridgeNode_ [] [] [(0x40, 4, true)])) (fun m => sent m == [(0x68, 6, 12, 0x40)]),
      moves (.hostMemwr (fromHost 0x40 0 0)) s (fun m => sent m == [(2, 6, 12, 0x40)]),
      moves (.hostMemwr (fromHost 0x40 2 0)) (around (bridgeNode_ [] [snoop] [])) (fun m => m.bridge.snoops.map (·.dirty) == [some nines] && heardLast m == some "Cmp"),
      moves (.hostMemwrptl (fromHost 0x40 2 0x30)) s (fun m => sent m == [(2, 6, 12, 0x44)] && m.bridge.reqs.map (fun r => r.pkt.len.toNat) == [2]),
      moves (.hostMemwrptl (fromHost 0x40 2 0)) s (fun m => heardLast m == some "Cmp" && m.bridge.reqs.isEmpty),
      moves (.hostMemspecrd (fromHost 0x40 2 0)) s (fun m => m.bridge.reqs.isEmpty && m.out.isEmpty),
      moves (.hostOtherM2s (fromHost 0x40 2 0) 9) s (fun m => heardLast m == some "Cmp" && m.log.next == 1),
      moves (.hostMemrd (fromHost far 2 0) false) (around { n with bridge := { n.bridge with hostUp := false } }) (fun m => m.out.isEmpty),
      moves (.bridgeRequestResponse (data 1 (2 ^ 33))) (waits readReq) (fun m => heardLast m == some "Cmp-E" && m.bridge.reqs.isEmpty && m.bridge.holds == [(0x40, 4, true)]),
      moves (.bridgeRequestResponse (data 1 (2 ^ 32))) (waits readReq) (fun m => heardLast m == some "Cmp-S" && m.bridge.holds == [(0x40, 4, false)]),
      moves (.bridgeRequestResponse (data 1 (2 ^ 33))) (waits { readReq with owed := .readShared }) (fun m => heardLast m == some "Cmp-S" && m.bridge.holds == [(0x40, 4, true)]),
      moves (.bridgeRequestResponse (data 4 0)) (waits (hostReqOf .readPlain 0 4)) (fun m => heardLast m == some "Cmp" && m.out.length == 2),
      moves (.bridgeRequestResponse (answer 1 2 stDenied 0)) (waits readReq) (fun m => heardLast m == some "Cmp" && m.out.length == 2 && m.bridge.reqs.isEmpty),
      moves (.bridgeRequestResponse (answer 2 2 stOK 0)) (waits (hostReqOf .write 0 2)) (fun m => heardLast m == some "Cmp" && m.out.length == 1),
      moves (.bridgeRequestResponse (answer 0x69 2 stOK 0)) (waits (hostReqOf .evict 3 0x68)) (fun m => heardLast m == some "Cmp" && m.bridge.holds.isEmpty),
      moves (.bridgeRequestResponse (answer 0x69 2 stDenied 0)) (waits (hostReqOf .evict 3 0x68)) (fun m => m.out.isEmpty && m.bridge.reqs.map (·.asked) == [true]),
      moves (.bridgeRequestResponse (answer 0x69 2 stRetry 0)) (waits (hostReqOf .evict 3 0x68)) (fun m => heardLast m == none && m.bridge.reqs.map (·.asked) == [false]),
      moves (.bridgeRequestResponse (answer 1 2 stRetry 0)) (waits readReq) (fun m => m.bridge.reqs.length == 1 && m.out.isEmpty),
      moves (.bridgeRequestResponse { answer 1 2 stMoved 0 with mapgen := 3 }) (waits readReq) (fun m => m.bridge.reqs.length == 1) ].all id = true := by decide +kernel

/-- Inputs that meet the hypotheses of `Obligations.HostIsSnoopedAndTold`, and what each comes to. -/
theorem test_hostIsSnoopedAndTold :
    let fwd := fun (op : Nat) => { blankPacket 12 6 1 op with seq := 1, ctx := 4, pva := 0x40 }
    let s := around (bridgeNode_ [] [] [])
    let out := fun (op : Nat) (d : Option Bytes) => around (bridgeNode_ [] [{ fwd := fwd op, dirty := d }] [(0x40, 4, true)])
    let evict := hostReqOf .evict 3 0x68
    let said := fun (m : Node) => ((pairOf m 12 6).waiting.getLast?).map fun p => p.opcode.toNat
    let cmp := fun (pva len : Nat) => sealPacket (withPayload { blankPacket 12 6 4 0x70 with seq := 1, pva := wordOf pva } (List.replicate len 1))
    let off := around { (bridgeNode_ [] [] []) with bridge := { Bridge.reset with hostUp := false } }
    [ moves (.bridgeFwdSnoop (sealPacket (fwd 0x41))) s (fun m => m.bridge.snoops.length == 1 && heardLast m == some "BISnpInv"),
      moves (.bridgeFwdSnoop (sealPacket (fwd 0x42))) s (fun m => m.bridge.snoops.length == 1 && heardLast m == some "BISnpData"),
      moves (.bridgeFwdSnoop (sealPacket { fwd 0x41 with pva := 0x40000000 })) s (fun m => m.bridge.snoops.isEmpty && said m == some 0x60),
      moves (.bridgeFwdSnoop (sealPacket (fwd 0x41))) (around (bridgeNode_ [evict] [] [])) (fun m => said m == some 0x64 && m.bridge.reqs.length == 1),
      moves (.bridgeFwdSnoop (sealPacket (fwd 0x41))) (around (bridgeNode_ [{ evict with asked := true }] [] [])) (fun m => said m == some 0x61 && m.bridge.reqs.isEmpty),
      moves (.hostBirsp 0x40 4 false none) (out 0x41 none) (fun m => said m == some 0x60 && m.bridge.holds.isEmpty && m.bridge.snoops.isEmpty),
      moves (.hostBirsp 0x40 4 false none) (out 0x40 none) (fun m => said m == some 0x60),
      moves (.hostBirsp 0x40 4 false none) (out 0x41 (some nines)) (fun m => said m == some 0x61),
      moves (.hostBirsp 0x40 4 true none) (out 0x42 none) (fun m => said m == some 0x62 && m.bridge.holds == [(0x40, 4, false)]),
      moves (.hostBirsp 0x40 4 true (some nines)) (out 0x42 none) (fun m => said m == some 0x63),
      moves (.hostBirsp 0x40 4 true none) s (fun m => said m == none),
      moves (.hostBiconflict 5) s (fun m => heardLast m == some "BIConflictAck"),
      moves .bridgeHostLost (out 0x41 none) (fun m => !m.bridge.hostUp && m.bridge.snoops.isEmpty && m.log.next == 1),
      moves .bisnpTimeout (out 0x41 none) (fun m => !m.bridge.hostUp),
      moves .bisnpTimeout s (fun m => m.bridge.hostUp),
      moves .bridgeHostReenumerate off (fun m => m.bridge.hostUp && m.prs.incarnation == 8),
      moves .bridgeHostReenumerate s (fun m => m.prs.incarnation == 7),
      moves (.bridgeNotifyWrite (cmp 64 32)) s (fun m => heardLast m == some "vector 2" && m.out.length == 2),
      moves (.bridgeNotifyWrite (cmp 96 32)) s (fun m => m.bridge.pendingVec == [3] && m.out.length == 1),
      moves (.bridgeNotifyWrite (cmp 64 16)) s (fun m => m.out.isEmpty && m.log.next == 1),
      moves (.msixVectorUnmask 3) s (fun m => m.bridge.masked.isEmpty && m.out.isEmpty),
      moves (.msixVectorUnmask 2) (around { (bridgeNode_ [] [] []) with bridge := { Bridge.reset with pendingVec := [2] } }) (fun m => heardLast m == some "vector 2") ].all id = true := by decide +kernel

/-! ### Part 19 -/

/-- A map of context 9 kept at node 5 with 6 and 7, of generation 3. -/
def someKept : KeptMap :=
  { image := { ctx := 9, gen := 3, keepers := [5, 6, 7], entries := [] }, keepPva := 0, subs := [], props := [], accepted := none, joining := false, unstored := false }

/-- The node among modules with that map. -/
def keptNode (k : KeptMap) : Node := let n := amongModules readyNode; { n with ml := { n.ml with kept := [(9, k)] } }

/-- An MGT packet of a node with words, or with bytes. -/
def mgtOf (src op : Nat) (ws : List Word) : Packet := sealPacket { mgtPacket { readyNode with nodeId := src } 5 op ws with seq := 1 }

/-- A whole train of module 6. -/
def trainOf6 (op : Nat) (bs : Bytes) : Packet := sealPacket { withPayload (blankPacket 5 6 5 op) bs with seq := 1 }

/-- Of the packets that wait for a node, the last: opcode and STATUS. -/
def saidTo (m : Node) (x : Nat) : Option (Nat × Nat) := ((pairOf m 5 x).waiting.getLast?).map fun p => (p.opcode.toNat, p.status.toNat)

/-- A node on which node 6 still owes the answer to a packet of this module. -/
def owedBy6 (n : Node) (p : Packet) (w : SentFor) : Node :=
  setPair n 5 6 { Pair.fresh with usable := true, sent := [{ pkt := { p with seq := 1 }, purpose := w, backoff := false, beforeSync := false }] }

/-- Inputs that meet the hypotheses of `Obligations.MapsAreKept`, and what each comes to. -/
theorem test_mapsAreKept :
    let n := amongModules readyNode
    let roomy := { n with ctxs := { Contexts.reset with slots := [(4, ctxSlot [(0x400000, { oneRange with start := 0x400000, gran := 64, localOff := 0x400000 })])] } }
    let make := fun (j : Nat) => [wordOf (4 + j * 2 ^ 16 + 5 * 2 ^ 32 + 6 * 2 ^ 48), 7, 0x400000]
    let kept := fun (m : Node) => (keptOf m 4).map fun k => (k.image.gen, k.joining, k.image.keepers)
    let full := { roomy with ml := { roomy.ml with kept := (List.range 64).map fun i => (i + 100, someKept) } }
    let k := keptNode someKept
    let put := [wordOf 0, wordOf 8, wordOf (6 + 7 * 2 ^ 16), 0]
    let propose := fun (src expect : Nat) => mgtOf src 0x91 ([wordOf (9 + 2 ^ 16), wordOf expect, 0, 0] ++ put)
    let image : MapImage := { ctx := 9, gen := 4, keepers := [5, 6, 7], entries := [] }
    let second := keptNode { someKept with image := { someKept.image with keepers := [6, 5, 7] }, accepted := some image }
    let asked : MapProposal := { keepersProposal [] [] with sender := 9, via := 9, gen := 4, committed := true }
    let waiting := { someKept with props := [{ asked with acks := [6] }] }
    let push := { blankPacket 6 5 5 0x95 with data := leBytes 8 9 }
    let sub := fun (u : Nat) => mgtOf 9 0x93 [wordOf (9 + u * 2 ^ 16), 0x1000]
    [ mgtServed n && isDriver n 9 && isModule n 6 && !keepersClash roomy [5, 6, 7],
      moves (.mapCreate (mgtOf 9 0x90 (make 0))) (around roomy) (fun m => kept m == some (1, false, [5, 6, 7]) && saidTo m 9 == some (0x92, stOK)),
      moves (.mapCreate (mgtOf 9 0x90 (make 1))) (around roomy) (fun m => kept m == some (0, true, [5, 6, 7])),
      moves (.mapCreate (mgtOf 6 0x90 (make 0))) (around roomy) (fun m => saidTo m 6 == some (0x92, stDenied)),
      moves (.mapCreate (mgtOf 9 0x90 (make 0))) (around { roomy with ml := { roomy.ml with kept := [(4, someKept)] } }) (fun m => saidTo m 9 == some (0x92, stInvalid)),
      moves (.mapCreate (mgtOf 9 0x90 (make 0))) (around full) (fun m => saidTo m 9 == some (0x92, stNoResource)),
      moves (.mapPropose (propose 9 3)) (around n) (fun m => saidTo m 9 == some (0x92, stInvalid)),
      moves (.mapPropose (propose 8 3)) (around k) (fun m => saidTo m 8 == some (0x92, stDenied)),
      moves (.mapPropose (propose 9 3)) (around k) (fun m => (keptOf m 9).any fun x => (x.accepted.map (·.gen)) == some 4 && saidTo m 6 == some (0x96, 0)),
      moves (.mapPropose (propose 6 3)) (around k) (fun m => saidTo m 6 == some (0x92, stInvalid)),
      moves (.mapPropose (propose 9 2)) (around k) (fun m => saidTo m 9 == some (0x92, stAborted)),
      moves (.mapAgreement (mgtOf 8 0x97 [9, 4])) (around k) (fun m => m.log.next == 1),
      moves (.mapAgreement (trainOf6 0x96 (mapBytes image))) (around (keptNode { someKept with image := { someKept.image with keepers := [6, 5, 7] } }))
        (fun m => saidTo m 6 == some (0x97, 0)),
      moves (.mapAgreement (trainOf6 0x96 (mapBytes { image with gen := 6 }))) (around k) (fun m => saidTo m 6 == some (0x98, 0)),
      moves (.mapAgreement (mgtOf 6 0x97 [9, 4])) (around (keptNode { someKept with accepted := some image })) (fun m => (keptOf m 9).any fun x => x.image.gen == 4),
      moves (.mapAgreement (mgtOf 6 0x99 [9, 4])) (around second) (fun m => (keptOf m 9).any fun x => x.image.gen == 4 && x.accepted.isNone),
      moves (.mapResult (mgtAnswer6 0x92 stOK 1)) (around k) (fun m => (keptOf m 9).isSome),
      moves (.mapResult (mgtAnswer6 0x92 stOK 1)) (around (owedBy6 (keptNode waiting) push .protocol)) (fun m => (keptOf m 9).any fun x => x.props.all (·.acks.isEmpty)),
      moves (.mapSubscribe (sub 0)) (around k) (fun m => (keptOf m 9).any fun x => x.subs.map (·.node) == [9]),
      moves (.mapSubscribe (sub 1)) (around (keptNode { someKept with subs := [{ node := 9, buf := 0 }] })) (fun m => (keptOf m 9).any fun x => x.subs.isEmpty),
      moves (.mapFetch (mgtOf 9 0x94 [9, 0])) (around n) (fun m => saidTo m 9 == some (0x92, stInvalid)),
      moves (.mapFetch (mgtOf 9 0x94 [9, 0])) (around k) (fun m => saidTo m 9 == some (0x95, 0)),
      moves (.mapPush (sealPacket { mgtOf 8 0x95 [9, 0] with seq := 1 })) (around k) (fun m => m.log.next == 1),
      moves (.mapPush (trainOf6 0x95 (List.replicate 64 0))) (around k) (fun m => m.log.next == 1),
      moves (.mapPush (trainOf6 0x95 (mapBytes { image with gen := 6 }))) (around k) (fun m => (keptOf m 9).any fun x => x.image.gen == 6),
      moves (.mapChangeEffect 9) (around (keptNode { someKept with props := [asked] })) (fun m => saidTo m 9 == some (0x92, stOK)),
      moves (.mapChangeEffect 9) (around (keptNode waiting)) (fun m => (keptOf m 9).any fun x => x.props.length == 1) ].all id = true := by decide +kernel

/-- Inputs that meet the hypotheses of `Obligations.MapsAreKept`, and what each comes to. -/
theorem test_mapsAreKept_more :
    let many := { someKept with subs := (List.range 1024).map fun i => { node := i + 100, buf := 0 } }
    let proposed := leapNode (cmdWith [0x40030]) { someLeap with step := 7 }
    [ moves (.mapSubscribe (mgtOf 9 0x93 [9, 0x1000])) (around (keptNode many)) (fun m => saidTo m 9 == some (0x92, stNoResource)),
      moves (.mapResult (mgtAnswer6 0x92 stDenied 1)) (around (owedBy6 proposed (blankPacket 6 5 5 0x91) (.leap 1))) (fun m => m.ml.outs.isEmpty) ].all id = true := by decide +kernel

/-! ### Part 20 -/

/-- A membership keeper, node 5 with 6 and 7, that holds node 9 as a member; 6 has been asked for an answer. -/
def keeperNode (suspects : List Nat) : Node :=
  let n := amongModules readyNode
  let memb := { n.ml.memb with joined := true, view := 4, members := [(9, { domain := 8, sx96 := false, suspects := suspects })] }
  { n with alm := { n.alm with membKeepers := [5, 6, 7, 8, 20] }, ml := { n.ml with memb := memb } }

/-- The same node in step 8 of its start, its join to 6 unanswered. -/
def joiningNode (acks : List Nat) (keepers : List Nat) : Node :=
  let n := amongModules { readyNode with alm := { readyNode.alm with membKeepers := keepers } }
  let n := { n with power := { n.power with state := 0, step := 8, stepsDone := [1, 2, 3, 4, 5, 6, 7] } }
  let n := { n with ml := { n.ml with memb := { n.ml.memb with joinAcks := acks } } }
  owedBy6 n (blankPacket 6 5 5 0xA2) .protocol

/-- The keeper with a beat to 6 unanswered. -/
def beatingNode (acks : List Nat) (off : Bool) : Node :=
  let n := keeperNode []
  let n := { n with alm := { n.alm with membKeepers := [6, 7, 8, 20, 21] }, ml := { n.ml with memb := { n.ml.memb with beatAcks := acks, beaten := true, missed := 7, suspended := off } } }
  owedBy6 n (blankPacket 6 5 5 0xA0) .protocol

/-- Inputs that meet the hypotheses of `Obligations.MembersJoinAndAreLost`, and what each comes to. -/
theorem test_membersJoinAndAreLost :
    let n := keeperNode []
    let alone := { n with alm := { n.alm with membKeepers := [5] } }
    let ack := sealPacket { withPayload (blankPacket 5 6 5 0xA1) (leBytes 8 9) with seq := 1, op5 := 1 }
    let join := fun (src : Nat) => mgtOf src 0xA2 [wordOf (3 + 2 ^ 16)]
    let memb := fun (m : Node) => m.ml.memb
    let suspects := fun (m : Node) => (Tbl.find? m.ml.memb.members 9).map (·.suspects)
    [ isMembKeeper n && !keepersShort n,
      moves (.membBeat (sealPacket { blankPacket 5 9 5 0xA0 with seq := 1 })) (around n) (fun m => saidTo m 9 == some (0xA1, 0)),
      moves (.membBeat (sealPacket { blankPacket 5 9 5 0xA0 with seq := 1 })) (around (keeperNode [5])) (fun m => suspects m == some [] && saidTo m 6 == some (0xA5, 0)),
      moves (.membBeat (sealPacket { blankPacket 5 19 5 0xA0 with seq := 1 })) (around n) (fun m => saidTo m 19 == none),
      moves (.membJoin (mgtOf 19 0xA2 [])) (around n) (fun m => m.log.next == 1),
      moves (.membJoin (join 19)) (around alone) (fun m => (memb m).members.length == 1),
      moves (.membJoin (join 19)) (around n) (fun m => (memb m).members.length == 2 && ((Tbl.find? (memb m).known 19) == some (3, true))),
      runs (.membAck ack) (around (joiningNode [] [6, 7, 8, 9, 10])) (fun t => (memb t.nd).joinAcks == [6] && t.nd.power.state == 0),
      runs (.membAck ack) (around (joiningNode [7] [6, 7, 8, 9, 10])) (fun t => (memb t.nd).joined && t.nd.power.state == 2 && (memb t.nd).view == 9),
      moves (.membAck ack) (around (beatingNode [] false)) (fun m => (memb m).beatAcks == [6] && (memb m).missed == 7),
      moves (.membAck ack) (around (beatingNode [7] false)) (fun m => (memb m).missed == 0),
      moves (.membAck ack) (around (beatingNode [7] true)) (fun m => (memb m).missed == 0 && !(memb m).suspended),
      moves (.membAck ack) (around n) (fun m => (memb m).beatAcks.isEmpty),
      moves .beatPeriodTimer (around readyNode) (fun m => !(memb m).beaten),
      moves .beatPeriodTimer (around { beatingNode [] false with alm := { (beatingNode [] false).alm with fields := [(0x0109, 8)] } }) (fun m => (memb m).missed == 8 && (memb m).suspended),
      moves (.memberSuspectTimer 9) (around n) (fun m => suspects m == some [5] && saidTo m 6 == some (0xA5, 0)),
      runs (.memberSuspectTimer 9) (around (keeperNode [6])) (fun t => (memb t.nd).lost == [9] && (memb t.nd).view == 5),
      moves (.memberSuspectTimer 19) (around n) (fun m => (memb m).members.length == 1),
      moves (.membReport (mgtOf 9 0xA3 [9])) (around n) (fun m => suspects m == some [5]),
      moves (.membReport (mgtOf 19 0xA3 [9])) (around n) (fun m => suspects m == some [] && m.log.next == 1),
      moves (.membLost (mgtOf 19 0xA4 [9])) (around n) (fun m => m.log.next == 1 && (memb m).lost.isEmpty),
      moves (.membAgreement (mgtOf 19 0xA5 [9])) (around n) (fun m => m.log.next == 1),
      moves (.membLost (mgtFrom6 0xA4 [wordOf (5 + 5 * 2 ^ 32)])) (around n) (fun m => m.power.failed && !(memb m).joined),
      runs (.membLost (mgtFrom6 0xA4 [wordOf (9 + 5 * 2 ^ 32)])) (around n) (fun t => (memb t.nd).lost == [9] && (memb t.nd).view == 5),
      moves (.membAgreement (mgtFrom6 0xA5 [9])) (around n) (fun m => suspects m == some [6]),
      moves (.membAgreement (trainOf6 0xA6 (memberList 6 [(30, { domain := 2, sx96 := true, suspects := [] })]))) (around n) (fun m => (memb m).members.length == 2 && (memb m).view == 6) ].all id = true := by decide +kernel

/-! ### Part 21 -/

/-- A module in Ready with Halord up; its security record as given. -/
def secured (f : Security → Security) : State :=
  { around { readyNode with chainAddr := 1 } with hl := { Halord.reset with sec := f { Security.reset with identity := true } } }

/-- The status of the mailbox transfer that has ended. -/
def mbxStatus (t : State) : Option Nat := if bitOf t.hl.mbx.stat 1 && !bitOf t.hl.mbx.stat 0 then some (fieldOf t.hl.mbx.stat 15 8) else none

/-- An image session of the mailbox. -/
def someSession (kind : Nat) : ImgSession := { freshSession kind 16384 0 0 0 false with bytes := List.replicate 8 1 }

/-- The state with that session. -/
def withSession (s : State) (x : ImgSession) : State := { s with hl := { s.hl with session := some x } }

/-- Inputs that meet the hypotheses of `Obligations.SecurityRequestsRun`, and what each comes to. -/
theorem test_securityRequestsRun :
    let s := secured id
    let present := secured fun x => { x with presOpen := true, requireBind := true, ownerPub := [], storageKey := [1] }
    let unsealed := secured fun x => { x with unsealed := true, sealOk := false, presOpen := true }
    let owner := secured fun x => { x with ownerPub := List.replicate 32 1, presOpen := true }
    let busy := { s with hl := { s.hl with mbx := { s.hl.mbx with stat := 1 } } }
    let blank := fun (head : List Word) n => head ++ List.replicate (n - head.length) 0
    let session := fun (t : State) => t.hl.session.map fun x => (x.kind, x.length, x.bytes.length)
    [ aonUp s && !mbxBusy s && !romOnly s,
      runs (.presClose [8]) s (· == s),
      runs (.presClose [9]) busy (fun t => bitOf t.hl.mbx.stat 2 && t.nd == busy.nd),
      runs (.presClose [9, 0]) s (fun t => mbxStatus t == some stInvalid),
      runs (.imgOpenFirmware [1, 4096]) s (fun t => mbxStatus t == some stOK && session t == some (0, 4096, 0) && memGet 0xFF t.hl.flash 0x3000005 == 0xFF),
      runs (.imgOpenFirmware [1, 4095]) s (fun t => mbxStatus t == some stInvalid && session t == none),
      runs (.imgOpenAlmanac [0x101, 64]) s (fun t => mbxStatus t == some stOK && session t == some (1, 64, 0)),
      runs (.imgOpenAlmanac [0x101, 64]) unsealed (fun t => mbxStatus t == some stUnsealed),
      runs (.imageAreaWrite 0x1000008 7) (withSession s (someSession 1)) (fun t => session t == some (1, 16384, 16) && mbxStatus t == some stOK),
      runs (.imageAreaWrite 0x1000010 7) (withSession s (someSession 1)) (fun t => session t == some (1, 16384, 8) && mbxStatus t == some stInvalid),
      runs (.imgStage [2]) s (fun t => mbxStatus t == some stInvalid),
      runs (.imgStage [2]) (withSession s (someSession 0)) (fun t => mbxStatus t == some stInvalid && !t.hl.sec.pending),
      runs (.attest (8 :: List.replicate 4 0)) (secured fun x => { x with cleared := true }) (fun t => mbxStatus t == some stDenied),
      runs (.presClose [9]) present (fun t => mbxStatus t == some stOK && !t.hl.sec.presOpen),
      runs (.ownerSet (blank [16] 22)) s (fun t => mbxStatus t == some stPresence && t.hl.sec.ownerPub.isEmpty),
      runs (.bindSet (blank [17, 0] 10)) present (fun t => mbxStatus t == some stOK && !t.hl.sec.requireBind),
      runs (.debugUnlock (blank [18] 9)) present (fun t => mbxStatus t == some stOK && t.hl.sec.debugOpen),
      runs (.debugUnlock (blank [18] 9)) unsealed (fun t => mbxStatus t == some stUnsealed && !t.hl.sec.debugOpen),
      runs (.factoryReset [19]) s (fun t => mbxStatus t == some stPresence),
      runs (.factoryReset [19]) present (fun t => mbxStatus t == some stOK && t.hl.sec.storageKey.isEmpty),
      runs (.factoryReset [19]) owner (fun t => t.hl.sec.ownerPub.isEmpty) ].all id = true := by decide +kernel

/-- Inputs that meet the hypotheses of `Obligations.SecurityRequestsRun`, and what each comes to. -/
theorem test_imgUnstage :
    let s := secured fun x => { x with pending := true }
    [ runs (.imgUnstage [4]) (withSession s { someSession 0 with staged := true }) (fun t => mbxStatus t == some stOK && !t.hl.sec.pending &&
        t.hl.session.all fun x => !x.staged) ].all id = true := by decide +kernel

/-! ### Part 22 -/

/-- The head of a chain of 3, at address 1. -/
def headState (f : Security → Security) : State :=
  let s := secured f
  { s with nd := { s.nd with power := { s.nd.power with hostEn := true } }, hl := { s.hl with chain := { s.hl.chain with status := wordOf (2 + 3 * 4), head := true } } }

/-- A module at chain address 2. -/
def secondState (f : Security → Security) : State := let s := secured f; { s with nd := { s.nd with chainAddr := 2 } }

/-- A frame. -/
def chainOf (dst src type st : Nat) (payload : Bytes) : Bytes := chainEncode { dst := dst, src := src, type := type, tag := 0, status := st, payload := payload }

/-- A push of an Almanac to the modules of a mask. -/
def somePush (targets : Nat) : Push :=
  { session := 9, kind := 1, targets := targets, image := List.replicate 2400 1, next := 4, nchunk := 10, holds := [2], results := [], copy := false, tag := 0, repeats := 0 }

/-- The head with that push; its mailbox waits. -/
def pushing (targets : Nat) : State :=
  let s := headState id
  { s with hl := { s.hl with push := some (somePush targets), mbx := { s.hl.mbx with stat := 1, waits := true } } }

/-- Inputs that meet the hypotheses of `Obligations.ImagesTravel`, and what each comes to. -/
theorem test_imagesTravel :
    let h := headState id
    let almanac := withSession h { someSession 1 with length := 8 }
    let second := secondState fun x => { x with presOpen := true }
    let target := { freshSession 1 480 9 2 2 false with seen := 0 }
    let relaying := { h with hl := { h.hl with mbx := { h.hl.mbx with stat := 1, waits := true }, chain := { h.hl.chain with reqs :=
      [{ frame := [], tag := 0, dst := 2, repeats := 0, purpose := .relay, words := 0, got := none }] } } }
    let frames := fun (t : State) => t.nd.out.length
    let begin_ := leBytes 4 9 ++ [1, 0] ++ leBytes 2 2 ++ leBytes 4 480 ++ leBytes 4 2
    let firmware := withSession (secured id) { someSession 0 with bytes := List.replicate 16 3 }
    [ runs (.imgPush [3, 2]) almanac (fun t => (t.hl.push.map fun p => (p.session, p.next, p.nchunk)) == some (1, 1, 1) && bitOf t.hl.mbx.stat 0),
      runs (.imgPush [3, 2]) h (fun t => mbxStatus t == some stInvalid),
      runs (.imgPush [3, 2]) second (fun t => mbxStatus t == some stInvalid),
      runs (.relay [0x205, 9]) second (fun t => mbxStatus t == some stInvalid),
      runs (.almanacCopy [0x14, 0x201]) second (fun t => mbxStatus t == some stInvalid),
      runs (.relay [0x905, 9]) h (fun t => mbxStatus t == some stAborted),
      runs (.relay [0x205, 9]) h (fun t => (t.hl.chain.reqs.map fun r => (r.dst, r.purpose)) == [(2, .relay)] && frames t == 1),
      runs (.relay [0x105, 9]) h (fun t => mbxStatus t == some stOK && t.hl.sec.lastRop == 5),
      runs (.almanacCopy [0x14, 0x901]) h (fun t => mbxStatus t == some stAborted),
      runs (.almanacCopy [0x14, 0x201]) h (fun t => (t.hl.chain.reqs.map fun r => (r.dst, r.purpose)) == [(2, .copyOrder 1)]),
      runs (.imgBegin (chainOf 31 1 0x10 0 begin_)) second (fun t => (t.hl.session.map fun x => (x.session, x.length, x.nchunk)) == some (9, 480, 2) && frames t == 1),
      runs (.imgChunk (chainOf 2 1 0x11 0 (leBytes 4 9 ++ leBytes 4 1 ++ leBytes 8 3 ++ [4, 5, 6]))) (withSession second target)
        (fun t => (t.hl.session.map fun x => x.chunks) == some [(1, [4, 5, 6])]),
      runs (.imgNak (chainOf 1 2 0x12 0 (leBytes 4 9 ++ leBytes 4 3))) (pushing 2) (fun t => frames t == 1),
      runs (.imgHold (chainOf 1 3 0x13 0 (leBytes 4 9))) (pushing 6) (fun t => (t.hl.push.map (·.holds)) == some [2, 3]),
      runs (.imgGo (chainOf 1 2 0x14 0 (leBytes 4 9))) (pushing 6) (fun t => (t.hl.push.map fun p => (p.holds, p.next)) == some ([], 8) && frames t == 4),
      runs (.imgResult (chainOf 1 2 0x15 0 (leBytes 4 9))) (pushing 6) (fun t => (t.hl.push.map (·.results)) == some [(2, 0)]),
      runs (.imgResult (chainOf 1 2 0x15 stDenied (leBytes 4 9))) (pushing 2) (fun t => t.hl.push.isNone && mbxStatus t == some stDenied),
      runs (.secReq (chainOf 2 1 0x16 0 (leBytes 8 9))) second (fun t => !t.hl.sec.presOpen && t.hl.sec.lastRop == 9 && frames t != 0),
      runs (.secReq (chainOf 2 1 0x16 0 (leBytes 8 0x14 ++ leBytes 8 (9 * 2 ^ 32)))) second (fun t => (t.hl.session.map fun x => (x.session, x.copyOrder)) == some (9, true)),
      runs (.secReq (chainOf 2 1 0x16 0 (leBytes 8 0x14 ++ leBytes 8 (9 * 2 ^ 32)))) (secondState id) (fun t => t.hl.session.isNone && t.hl.sec.lastStatus == stPresence),
      runs (.secRsp (chainOf 1 2 0x17 stDenied [])) relaying (fun t => mbxStatus t == some stDenied && t.hl.chain.reqs.isEmpty),
      runs (.secRsp (chainOf 1 2 0x17 stDenied [])) h (fun t => t.hl.sec.lastRop == 0),
      runs (.flashProgramProgress 8) firmware (fun t => (t.hl.session.map (·.programmed)) == some 8 && memGet 0xFF t.hl.flash 0x3000007 == 3 && memGet 0xFF t.hl.flash 0x3000008 == 0xFF),
      runs (.flashProgramProgress 8) h (· == h) ].all id = true := by decide +kernel

/-- Inputs that meet the hypotheses of `Obligations.PinsAndSeal`, and what each comes to. -/
theorem test_pinsAndSeal :
    let s := secured id
    let powered := fun (f : Security → Security) => let t := secured f; t
    let keyed := { s with nd := (dataNode (cmdWith []) []), hl := { s.hl with sec := { s.hl.sec with debugOpen := true, storageKey := [1] } } }
    [ runs .presNHold s (fun t => t.hl.sec.presOpen && t.hl.sec.presLow && !t.hl.sec.presArmed),
      runs .presNHold (secured fun x => { x with presArmed := false }) (fun t => !t.hl.sec.presOpen),
      runs .presNHold State.reset (· == State.reset),
      runs .presNRelease (secured fun x => { x with presArmed := false }) (fun t => t.hl.sec.presArmed),
      runs .presenceWindowExpiry (secured fun x => { x with presOpen := true }) (fun t => !t.hl.sec.presOpen && t.nd.log.next == 1),
      runs .presenceWindowExpiry s (· == s),
      runs (.sealSample true) (powered fun x => { x with sealOpens := 1, unsealed := true }) (fun t => t.hl.sec.sealOpens == 0 && t.hl.sec.unsealed),
      runs (.sealSample false) (powered id) (fun t => t.hl.sec.sealOpens == 1 && !t.hl.sec.unsealed),
      runs (.sealSample false) (powered fun x => { x with sealOpens := 1, presOpen := true }) (fun t => t.hl.sec.unsealed && !t.hl.sec.presOpen && bitOf t.nd.log.alert alSecurity),
      runs (.sealSample false) State.reset (· == State.reset),
      runs (.jtagInstruction .extest) s (fun t => t.hl.sec.cleared),
      runs (.jtagInstruction (.internal 7)) keyed (fun t => t.hl.sec.cleared && t.hl.sec.storageKey.isEmpty && t.nd.ctxs.slots.all fun e => e.2.key.keys.isEmpty),
      runs (.jtagInstruction (.internal 7)) s (· == s),
      runs (.jtagInstruction .bypass) s (· == s) ].all id = true := by decide +kernel

/-! ### Part 23 -/

/-- Inputs that meet the hypotheses of `Obligations.MailboxTransfers`, and what each comes to. -/
theorem test_mailboxOverrun :
    let full := { ready with hl := { Halord.reset with mbx := { Mailbox.reset with stat := 1, op := 2, space := 3, remain := 2, addr := 0x1000000 }, session := some { (freshSession 0 64 0 0 0 false) with bytes := List.replicate 4096 0 } } }
    [ mbxFree full == 0, runs (.mbxDataWrite 1) full (fun t => bitOf t.hl.mbx.stat 4 && fieldOf t.hl.mbx.stat 15 8 == stAborted) ].all id = true := by decide +kernel

/-- Inputs that meet the hypotheses of `Obligations.StepTakesTheFront`, and what each comes to. -/
theorem test_stepTakesTheFront :
    [ (match step { ready with pending := [.powerReqNoChange] } with
        | .next t => t.pending == [] && t.nd.power.noChange == 1
        | _ => false),
      (match step ready with
        | .next t => t == ready
        | _ => false) ].all id = true := by decide +kernel

/-- Inputs that meet the hypotheses of `Obligations.StartsAreClean`, and what each comes to. -/
theorem test_startsAreClean :
    let dirty := powered { offPower with input := false }
    let dirty := { dirty with nd := { counterNode (cmdWith [0]) 5 with power := dirty.nd.power } }
    [ runs (.powerInputUp true) dirty (fun t => t.nd.power.bootCount == 1 && counterOf t.nd 7 == { value := 0, err := false, bytes := false, owner := 0, trig := none }) ].all id = true := by decide +kernel

/-- Inputs that meet the hypotheses of `Obligations.CountersSaturate`, and what each comes to. -/
theorem test_countersSaturate :
    let at_ := fun (v : Nat) => counterOf (increment (counterNode (cmdWith [0]) v) 7 1 none) 7
    [ (at_ counterMax).err && (at_ counterMax).value == counterMax, !(at_ (counterMax - 1)).err && (at_ (counterMax - 1)).value == counterMax ].all id = true := by decide +kernel

/-- Inputs that meet the hypotheses of `Obligations.CapsAndAlertPin`, and what each comes to. -/
theorem test_capsAndAlertPin :
    let hot := { ready with hl := { Halord.reset with plc := { Policy.reset with powerCap := 1, thermCap := [(3, 2)] } } }
    let alert := fun (m : Word) => { readyNode with log := { EventLog.reset with alert := 6, mask := m } }
    [ clockCap hot 3 == 2, clockCap hot 4 == 1, alertLow (alert 2), !alertLow (alert 9) ].all id = true := by decide +kernel

/-- Unsealed, with presence and the loop closed. -/
def closing : State := secured fun x => { x with unsealed := true, presOpen := true, sealOk := true }

/-- Inputs that meet the hypotheses of `Obligations.UnsealedEndsWithPresence`, and what each comes to. -/
theorem test_unsealedEnds :
    [ (match step { closing with pending := [.factoryReset [19]] } with
        | .next t => !t.hl.sec.unsealed
        | _ => false),
      memWf 0xFF closing.hl.flash && decide (closing.hl.sec.fuses ≤ 64), decide (Quiet readyNode), decide (Still readyNode), reachesHalord (.factoryReset [19]),
      !reachesHalord (.read (blankPacket 5 6 0 0)) ].all id = true := by decide +kernel

/-- An ill-formed command for each check of WellFormed, which refuses it, and two well-formed ones. -/
theorem test_wellFormed :
    let long := { blankPacket 5 6 0 0 with data := List.replicate 4097 0 }
    let host : HostM2S := { tag := 0, dpa := 0, meta_ := 0, snp := 0, data := [1], enables := 0 }
    let fail : BistFailure := { uclass := 5, unit_ := 0, array := 0, kind := 0, row := 0, col := 0, bit := 0, subarray := 0, colOnly := false }
    [ !WellFormed (.read long), !WellFormed (.keepalive 0 [1]), !WellFormed (.chainAlert [1]), !WellFormed (.attest []), !WellFormed (.hostMemwr host),
      !WellFormed (.nvmeCompletion 0 0 [1] []), !WellFormed (.bistComplete [fail]), !WellFormed (.i3cPrivateWrite []), !WellFormed (.registerWrite 4 0),
      !WellFormed (.ringEntryWrite 0 1024 [] 0), !WellFormed (.imageAreaWrite 4 0), !WellFormed (.uncorrectableLine (2 ^ 57) .tile),
      !WellFormed (.vigilPatrolRead (2 ^ 57) true), WellFormed (.read (blankPacket 5 6 0 0)), WellFormed .brownOut ].all id = true := by decide +kernel
end

section
/-! Command rings: commits, consumption, stores to their slots (O19, O20). -/

namespace Sys2Proof.Organisation

open Sys2Proof.Machine Sys2Proof.Safety

/-- A command whose meaning changes the node alone moves it as that change does. -/
theorem moves_of_onNode {i : Instr} {s : State} {P : Node → Prop} (f : Node → Node)
    (h : exec i s = .next (onNode s f)) (hp : P (f s.nd)) : Moves i s P := ⟨f s.nd, h, hp⟩

/-! ### Rings as read and replaced -/

@[simp] theorem ringOf_setRing_same (n : Node) (k : Nat) (r : Ring) : ringOf (setRing n k r) k = r := by
  simp [ringOf, setRing]

theorem ringOf_setRing_other (n : Node) (k j : Nat) (r : Ring) (h : j ≠ k) : ringOf (setRing n k r) j = ringOf n j :=
  Tbl.getD_put_other _ _ _ _ _ h

@[simp] theorem setRing_power (n : Node) (k : Nat) (r : Ring) : (setRing n k r).power = n.power := rfl

@[simp] theorem ringReachable_setRing (n : Node) (k j : Nat) (r : Ring) :
    ringReachable (setRing n k r) j = ringReachable n j := rfl

@[simp] theorem cmdTrackerFree_setRing (n : Node) (k : Nat) (r : Ring) (g : Nat) :
    cmdTrackerFree (setRing n k r) g = cmdTrackerFree n g := rfl

/-- Storage that was zeroed holds no descriptor of phase 1. -/
theorem slotPhase_of_storage_nil {r : Ring} (h : r.storage = []) (slot : Nat) : slotPhase r slot = false := by
  have hz : memRead 0 [] (slot * 64) 64 = List.replicate 64 0 := by
    refine List.eq_replicate_iff.2 ⟨memRead_length _ _ _ _, fun b hb => ?_⟩
    obtain ⟨i, hi, rfl⟩ := List.mem_iff_getElem.1 hb
    rw [memRead_getElem]; rfl
  rw [slotPhase, slotWords, h, hz]
  decide

/-! ### Consuming (R48, R51) -/

theorem consume_eq {n : Node} {k : Nat} (hk : ringReachable n k = true) (he : n.power.entry = 0) :
    consume n k = consumeRing k 2048 n := by
  simp [consume, hk, he]

/-- With no descriptor of the ring's phase at HEAD nothing is consumed. -/
theorem consumeRing_idle (k fuel : Nat) (n : Node) (h : slotPhase (ringOf n k) (ringOf n k).head ≠ (ringOf n k).phase) :
    consumeRing k (fuel + 1) n = setRing n k { ringOf n k with stalled := false } := by
  simp [consumeRing, h]

/-! ### RING_COMMIT (R42) -/

/-- A commit that RING_CFG refuses, clearing ENABLE or setting it: what the ring is afterwards. -/
theorem commitRing_bad {n : Node} {k : Nat} {w : Word} (hk : ringReachable n k = true) (hw : bitOf w 0 = true)
    (hb : ringCommitBad (ringOf n k) = true) :
    commitRing n k w = setRing n k { ringOf n k with status := putField (ringOf n k).status 1 1 1 } := by
  simp [commitRing, hk, hw, hb]

theorem commitRing_disable {n : Node} {k : Nat} {w : Word} (hk : ringReachable n k = true) (hw : bitOf w 0 = true)
    (hb : ringCommitBad (ringOf n k) = false) (hs : bitOf (ringOf n k).cfgStage 0 = false) :
    commitRing n k w = setRing n k (ringIdle { ringOf n k with
      cfgLive := (ringOf n k).cfgStage, gen := nextGen (ringOf n k).gen,
      draining := ringEnabled (ringOf n k) || (ringOf n k).draining, stopped := false }) := by
  simp [commitRing, hk, hw, hb, hs]

theorem commitRing_enable {n : Node} {k : Nat} {w : Word} (hk : ringReachable n k = true) (hw : bitOf w 0 = true)
    (hb : ringCommitBad (ringOf n k) = false) (hs : bitOf (ringOf n k).cfgStage 0 = true)
    (he : ringEnabled (ringOf n k) = false) :
    commitRing n k w = consume (setRing n k { ringOf n k with
      cfgLive := (ringOf n k).cfgStage, gen := nextGen (ringOf n k).gen, storage := [], writers := [], stopped := false }) k := by
  simp [commitRing, hk, hw, hb, hs, he]

/-- Settles O19: each commit is one branch of `commitRing`; after enabling, the zeroed storage holds nothing to consume. -/
theorem ringCommits : Obligations.RingCommits := by
  unfold Obligations.RingCommits
  intro k w s ha hk r
  have go {P : Node → Prop} (h : P (commitRing s.nd k.toNat w)) : Moves (.ringCommit k w) s P :=
    moves_of_onNode (ringCommit k.toNat w) rfl (by simpa [ringCommit, ha] using h)
  refine ⟨fun hw => go ?_, fun hw hb => go (commitRing_bad hk hw hb), fun hw hb hs he hi => go ?_,
    fun hw hb hs he hi => go ?_, fun hw hb hs he hp h0 => go ?_⟩
  · simp [commitRing, hw]
  · rw [commitRing_disable hk hw hb hs]
    simp only [r] at he hi
    simp [ringIdle, he, hi, r]
  · rw [commitRing_disable hk hw hb hs]
    simp only [r] at he hi
    simp [ringIdle, he, Nat.pos_iff_ne_zero.1 hi, r]
  · rw [commitRing_enable hk hw hb hs he, consume_eq (by simpa using hk) (by simpa using h0), consumeRing_idle]
    · simp only [ringOf_setRing_same]
      refine ⟨rfl, fun j hj => ?_, rfl⟩
      rw [ringOf_setRing_other _ _ _ _ hj, ringOf_setRing_other _ _ _ _ hj]
    · simp only [ringOf_setRing_same, slotPhase_of_storage_nil]
      simp [show (ringOf s.nd k.toNat).phase = true from hp]

/-! ### Descriptors taken (R48, R51) -/

/-- The ring consumes, and the descriptor at HEAD is of its phase. -/
def ringDue (r : Ring) : Prop := ringEnabled r = true ∧ r.stopped = false ∧ slotPhase r r.head = r.phase

/-- The node once the engine of a ring has taken the descriptor at HEAD into a tracker. -/
def takesOne (n : Node) (k : Nat) : Node :=
  setRing (setCmd { n with trk := { n.trk with nextTid := n.trk.nextTid + 1 } } n.trk.nextTid
      (orInvalid (consumedCmd n k (ringOf n k)))) k
    { ringNext (ringOf n k) with inflight := (ringOf n k).inflight + 1 }

theorem consumeRing_take {k fuel : Nat} {n : Node} (hd : ringDue (ringOf n k)) (hf : cmdTrackerFree n (ringRegion k) = true) :
    consumeRing k (fuel + 1) n = consumeRing k fuel (takesOne n k) := by
  obtain ⟨he, hs, hp⟩ := hd
  simp [consumeRing, he, hs, hp, hf, takesOne]

theorem consumeRing_full {k fuel : Nat} {n : Node} (hd : ringDue (ringOf n k)) (hf : cmdTrackerFree n (ringRegion k) = false) :
    consumeRing k (fuel + 1) n = setRing n k { ringOf n k with stalled := true } := by
  obtain ⟨he, hs, hp⟩ := hd
  simp [consumeRing, he, hs, hp, hf]

theorem ringNext_tailHint (r : Ring) (t : Nat) : ringNext { r with tailHint := t } = { ringNext r with tailHint := t } := by
  by_cases h : r.head + 1 < 2 ^ ringLog r.cfgLive <;> simp [ringNext, ringSlots, h]

theorem ringNext_storage (r : Ring) : (ringNext r).storage = r.storage := by unfold ringNext; split <;> rfl

/-- The ring takes one descriptor and finds no other of its phase: what that does to the rings and the trackers. -/
theorem consume_one {n : Node} {k : Nat} {r : Ring} (hr : ringOf n k = r) (hk : ringReachable n k = true)
    (h0 : n.power.entry = 0) (hd : ringDue r) (hf : cmdTrackerFree n (ringRegion k) = true)
    (hn : slotPhase r (ringNext r).head ≠ (ringNext r).phase) :
    ringOf (consume n k) k = { ringNext r with inflight := r.inflight + 1, stalled := false } ∧
      (∀ j, j ≠ k → ringOf (consume n k) j = ringOf n j) ∧
      consume n k = { n with rings := (consume n k).rings, trk := { n.trk with
        nextTid := n.trk.nextTid + 1
        cmds := Tbl.put n.trk.cmds n.trk.nextTid (orInvalid (consumedCmd n k r)) } } := by
  subst hr
  have hr : ringOf (takesOne n k) k = { ringNext (ringOf n k) with inflight := (ringOf n k).inflight + 1 } := by simp [takesOne]
  have idle : slotPhase (ringOf (takesOne n k) k) (ringOf (takesOne n k) k).head ≠ (ringOf (takesOne n k) k).phase := by
    rw [hr]; simpa only [slotPhase, slotWords, ringNext_storage] using hn
  rw [consume_eq hk h0, consumeRing_take hd hf, consumeRing_idle _ _ _ idle, hr]
  refine ⟨by simp, fun j hj => ?_, rfl⟩
  rw [ringOf_setRing_other _ _ _ _ hj, takesOne, ringOf_setRing_other _ _ _ _ hj]
  rfl

/-- With no descriptor of the ring's phase at HEAD, or with no tracker free, the ring only notes whether it waits. -/
theorem consume_none {n : Node} {k : Nat} {r : Ring} {b : Bool} (hr : ringOf n k = r) (hk : ringReachable n k = true)
    (h0 : n.power.entry = 0)
    (h : b = false ∧ slotPhase r r.head ≠ r.phase ∨ b = true ∧ ringDue r ∧ cmdTrackerFree n (ringRegion k) = false) :
    consume n k = setRing n k { r with stalled := b } := by
  subst hr
  rw [consume_eq hk h0]
  rcases h with ⟨rfl, hp⟩ | ⟨rfl, hd, hf⟩
  · exact consumeRing_idle _ _ _ hp
  · exact consumeRing_full hd hf

/-! ### Stores to a slot (R50) -/

theorem storeSlot_lands {n : Node} {k slot : Nat} (bs : Bytes) (w : Nat)
    (h : ringEnabled (ringOf n k) = false ∨ (ringOf n k).stopped = true ∨ slotUnconsumed (ringOf n k) slot = false) :
    storeSlot n k slot bs w = setRing n k { ringOf n k with
      storage := memWrite 0 (ringOf n k).storage (slot * 64) (sliceOf bs 0 64), writers := Tbl.put (ringOf n k).writers slot w } := by
  rcases h with h | h | h <;> simp [storeSlot, h]

theorem storeSlot_overruns {n : Node} {k slot : Nat} (bs : Bytes) (w : Nat) (he : ringEnabled (ringOf n k) = true)
    (hs : (ringOf n k).stopped = false) (hu : slotUnconsumed (ringOf n k) slot = true) (hi : 0 < (ringOf n k).inflight) :
    storeSlot n k slot bs w = setRing n k { ringOf n k with
      status := putField (ringOf n k).status 0 0 1, stopped := true, draining := true } := by
  simp [storeSlot, he, hs, hu, ringIdle, Nat.pos_iff_ne_zero.1 hi]

theorem sliceOf_zero_length (bs : Bytes) : sliceOf bs 0 bs.length = bs := by simp [sliceOf]

/-- Settles O20: a doorbell, and a tracker that frees, run `consume`; a store to a slot is `storeSlot`. -/
theorem ringsConsume : Obligations.RingsConsume := by
  unfold Obligations.RingsConsume
  intro k s ha hk r only due takes
  let rung := fun (w : Word) => setRing s.nd k.toNat { r with tailHint := fieldOf w 15 0 }
  have bell {w : Word} {P : Node → Prop} (h : P (consume (rung w) k.toNat)) : Moves (.ringDoorbell k w) s P :=
    moves_of_onNode (ringDoorbell k.toNat w) rfl (by simpa [ringDoorbell, ha, hk] using h)
  have read (w : Word) : ringOf (rung w) k.toNat = { r with tailHint := fieldOf w 15 0 } := ringOf_setRing_same _ _ _
  have store {slot : BitVec 16} {data : Bytes} {src : NodeId} {P : Node → Prop} (hs : slot.toNat < ringSlots r)
      (h : P (storeSlot s.nd k.toNat slot.toNat data src.toNat)) : Moves (.ringEntryWrite k slot data src) s P :=
    moves_of_onNode (ringEntryWrite k.toNat slot.toNat data src.toNat) rfl (by simpa [ringEntryWrite, ha, hk, hs, r] using h)
  have other (r' : Ring) (j : Nat) (hj : j ≠ k.toNat) : ringOf (setRing s.nd k.toNat r') j = ringOf s.nd j :=
    ringOf_setRing_other _ _ _ _ hj
  refine ⟨fun w ⟨he, hs, hp, hn, h0⟩ hf => bell ?_, fun w ⟨he, hs, hp, hn, h0⟩ hf => bell ?_, fun w hp h0 => bell ?_,
    fun g e hg hke ⟨he, hs, hp, hn, h0⟩ hf => ?_, fun slot data src hslot hlen hfree => store hslot ?_,
    fun slot data src hslot he hs hu hi => store hslot (storeSlot_overruns _ _ he hs hu hi)⟩
  · have hn' : slotPhase { r with tailHint := fieldOf w 15 0 } (ringNext { r with tailHint := fieldOf w 15 0 }).head ≠
        (ringNext { r with tailHint := fieldOf w 15 0 }).phase := by rw [ringNext_tailHint]; exact hn
    obtain ⟨h1, h2, h3⟩ := consume_one (read w) hk h0 ⟨he, hs, hp⟩ hf hn'
    exact ⟨⟨h1, fun j hj => (h2 j hj).trans (other _ j hj)⟩, h3⟩
  · rw [consume_none (b := true) (read w) hk h0 (.inr ⟨rfl, ⟨he, hs, hp⟩, hf⟩)]
    exact ⟨⟨ringOf_setRing_same _ _ _, fun j hj => (ringOf_setRing_other _ _ _ _ hj).trans (other _ j hj)⟩, rfl⟩
  · rw [consume_none (b := false) (read w) hk h0 (.inl ⟨rfl, hp⟩)]
    exact ⟨⟨ringOf_setRing_same _ _ _, fun j hj => (ringOf_setRing_other _ _ _ _ hj).trans (other _ j hj)⟩, rfl⟩
  · refine moves_of_onNode (trackerFreed g.val) rfl ?_
    obtain ⟨h1, h2, h3⟩ := consume_one (n := s.nd) rfl hk h0 ⟨he, hs, hp⟩ hf hn
    simp only [trackerFreed, ha, hg, hke, Bool.not_true, Bool.false_eq_true, if_false, List.map_cons, List.map_nil,
      List.foldl_cons, List.foldl_nil]
    exact ⟨⟨h1, h2⟩, h3⟩
  · have hd : sliceOf data 0 64 = data := hlen ▸ sliceOf_zero_length data
    rw [storeSlot_lands data src.toNat hfree, hd]
    refine ⟨⟨by simp [r], other _⟩, ?_, fun a h => ?_, rfl⟩
    · simpa [hlen] using memRead_write_same 0 r.storage (slot.toNat * 64) data
    · rw [ringOf_setRing_same]
      exact memGet_write_other _ _ _ _ _ (by omega)

end Sys2Proof.Organisation
end

section
/-! How commands complete: their records, and the increments of their counters (O21). -/

namespace Sys2Proof.Organisation

open Sys2Proof.Machine Sys2Proof.Safety

/-! ### Commands and counters as read and replaced -/

@[simp] theorem cmdOf_setCmd_same (n : Node) (tid : Nat) (c : Cmd) : cmdOf (setCmd n tid c) tid = some c :=
  Tbl.find?_put_same _ _ _

@[simp] theorem cmdOf_dropCmd_same (n : Node) (tid : Nat) : cmdOf (dropCmd n tid) tid = none := Tbl.find?_del_same _ _

@[simp] theorem pairOf_dropCmd (n : Node) (tid own peer : Nat) : pairOf (dropCmd n tid) own peer = pairOf n own peer := rfl

@[simp] theorem counterOf_setCounter_same (n : Node) (c : Nat) (x : Counter) : counterOf (setCounter n c x) c = x :=
  Tbl.getD_put_same _ _ _ _

theorem counterOf_setCounter_other (n : Node) (c j : Nat) (x : Counter) (h : j ≠ c) :
    counterOf (setCounter n c x) j = counterOf n j := Tbl.getD_put_other _ _ _ _ _ h

theorem mem_of_mem_tblDel {α : Type} {t : Tbl α} {k : Nat} {e : Nat × α} (h : e ∈ Tbl.del t k) : e ∈ t := by
  induction t with
  | nil => exact h
  | cons x t ih =>
    obtain ⟨j, w⟩ := x
    simp only [Tbl.del] at h
    split at h
    · exact List.mem_cons_of_mem _ (ih h)
    · rcases List.mem_cons.1 h with rfl | h
      · exact List.mem_cons_self
      · exact List.mem_cons_of_mem _ (ih h)

/-- A command that leaves its tracker leaves nothing waiting. -/
theorem quiet_dropCmd {n : Node} (h : Quiet n) (tid : Nat) : Quiet (dropCmd n tid) := by
  obtain ⟨h1, h2, h3, h4, h5, h6, h7⟩ := h
  exact ⟨h1, h2, h3, h4, h5, fun e he => h6 e (mem_of_mem_tblDel he), h7⟩

/-! ### Arrival counters (R153–R156) -/

/-- With no WAIT parked there is none to wake. -/
theorem wakeWaits_of_waits_nil {n : Node} (h : n.ctr.waits = []) (c : Nat) : wakeWaits n c = n := by
  simp only [wakeWaits, h, List.filter_nil, List.foldl_nil]
  rw [← h]

theorem evalTrigger_of_trig_none {n : Node} {c : Nat} (h : (counterOf n c).trig = none) (e : Option Nat) :
    evalTrigger n c e = n := by simp [evalTrigger, h]

/-- ERR of a counter that nothing watches. -/
theorem setErr_plain {n : Node} {c : Nat} (hw : n.ctr.waits = []) (ht : (counterOf n c).trig = none) :
    setErr n c = setCounter n c { counterOf n c with err := true } := by
  simp only [setErr, ht]
  rw [wakeWaits_of_waits_nil (by exact hw), ← ht]

/-- An increment of a counter that nothing watches, up to the maximum. -/
theorem increment_plain {n : Node} {c b : Nat} {e : Option Nat} (hw : n.ctr.waits = []) (ht : (counterOf n c).trig = none)
    (hv : (counterOf n c).value + (if (counterOf n c).bytes then b else 1) ≤ counterMax) :
    increment n c b e =
      setCounter n c { counterOf n c with value := (counterOf n c).value + if (counterOf n c).bytes then b else 1 } := by
  simp only [increment, Nat.not_lt.2 hv, if_false, evalCounter]
  rw [wakeWaits_of_waits_nil (by exact hw), evalTrigger_of_trig_none (by simpa using ht)]

/-- An increment past the maximum of a counter that nothing watches (R155). -/
theorem increment_over {n : Node} {c b : Nat} {e : Option Nat} (hw : n.ctr.waits = []) (ht : (counterOf n c).trig = none)
    (hv : counterMax < (counterOf n c).value + if (counterOf n c).bytes then b else 1) :
    increment n c b e = setCounter (setCounter n c { counterOf n c with value := counterMax }) c
      { counterOf n c with value := counterMax, err := true } := by
  simp only [increment, hv, if_true]
  rw [setErr_plain (by exact hw) (by simpa using ht)]
  simp

/-! ### A command leaves its ring (R42, R46) -/

@[simp] theorem ringIdle_status (r : Ring) : (ringIdle r).status = r.status := by unfold ringIdle; split <;> rfl
@[simp] theorem ringIdle_inflight (r : Ring) : (ringIdle r).inflight = r.inflight := by unfold ringIdle; split <;> rfl

/-- Of the node, `leaveRing` changes the command's own ring alone: its count falls and its status stays. -/
theorem leaveRing_rings {n : Node} {c : Cmd} (hf : c.fired = false) :
    (ringOf (leaveRing n c) c.ring).inflight = (ringOf n c.ring).inflight - 1 ∧
      (ringOf (leaveRing n c) c.ring).status = (ringOf n c.ring).status ∧
      (∀ j, j ≠ c.ring → ringOf (leaveRing n c) j = ringOf n j) := by
  simp only [leaveRing, hf, Bool.false_eq_true, if_false]
  refine ⟨by simp, by simp, fun j hj => ringOf_setRing_other _ _ _ _ hj⟩

theorem leaveRing_eq (n : Node) (c : Cmd) : leaveRing n c = { n with rings := (leaveRing n c).rings } := by
  unfold leaveRing; split <;> rfl

/-! ### COMMAND_COMPLETE, COMPLETION_COUNTER_INCREMENT and COUNTER_PROBE_ANSWER (R54–R56, R153) -/

/-- An ended command that nothing holds back leaves its ring; its record is the next thing. -/
theorem commandComplete_free {n : Node} {tid : Nat} {c : Cmd} (hc : cmdOf n tid = some c) (ha : accepting n = true)
    (hp : c.phase = .ended) (hr : (n.coh.mdirty.any fun m => m.2.cmds.contains tid) = false)
    (hs : ¬(n.ml.memb.suspended = true ∧ c.mirrored = true)) :
    commandComplete tid n =
      if cmpNode c = 0 || recordBad c then afterRecord (leaveRing n c) tid c
      else if isLost (leaveRing n c) (cmpNode c) then afterRecord (logLostRecord (leaveRing n c) c) tid c
      else setCmd (sendPacket (leaveRing n c) (completionRecord (leaveRing n c) c) (.record tid)) tid
        { c with phase := .recordSent } := by
  have hs' : (n.ml.memb.suspended && c.mirrored) = false := by simpa using hs
  simp only [commandComplete, hc, hp, ha, hr, hs']
  rfl

theorem commandComplete_held {n : Node} {tid : Nat} {c : Cmd} (hc : cmdOf n tid = some c)
    (h : (n.coh.mdirty.any fun m => m.2.cmds.contains tid) = true ∨ n.ml.memb.suspended = true ∧ c.mirrored = true) :
    commandComplete tid n = n := by
  simp only [commandComplete, hc]
  rcases h with h | ⟨h1, h2⟩
  · simp only [h, Bool.or_true, Bool.true_or, if_true]
  · simp only [h1, h2, Bool.and_true, Bool.or_true, if_true]

/-- The record of a command is due to nobody, or acknowledged, and its counter is this module's. -/
theorem countCommand_own {n : Node} {tid : Nat} {c : Cmd} (hc : cmdOf n tid = some c) (ha : accepting n = true)
    (hp : c.phase = .countDue) (hd : countDue c = true) (ho : isOwn n (cntNode c) = true) (he : c.setErr = false)
    (hx : (counterOf n (cntIndex c)).owner = cmdCtx c) :
    countCommand tid n = settle (increment (dropCmd n tid) (cntIndex c) c.landed (runEpochOf c)) := by
  have hx' : (counterOf (dropCmd n tid) (cntIndex c)).owner = cmdCtx c := hx
  simp [countCommand, hc, ha, hp, hd, ho, he, hx']

theorem countCommand_remote {n : Node} {tid : Nat} {c : Cmd} (hc : cmdOf n tid = some c) (ha : accepting n = true)
    (hp : c.phase = .countDue) (hd : countDue c = true) (ho : isOwn n (cntNode c) = false) :
    countCommand tid n = setCmd (sendPacket n (countProbePacket n c) (.countProbe tid)) tid { c with phase := .countSent } := by
  simp [countCommand, hc, ha, hp, hd, ho]

theorem countCommand_recordOnly {n : Node} {tid : Nat} {c : Cmd} (hc : cmdOf n tid = some c) (ha : accepting n = true)
    (hp : c.phase = .recordSent) (hd : countDue c = false) :
    countCommand tid n = dropCmd (setPair n n.nodeId (cmpNode c) { pairOf n n.nodeId (cmpNode c) with
      sent := (pairOf n n.nodeId (cmpNode c)).sent.filter fun u => u.purpose != .record tid }) tid := by
  simp [countCommand, hc, ha, hp, hd]

theorem pairOf_setPair_same (n : Node) (own peer : Nat) (q : Pair) : pairOf (setPair n own peer q) own peer = q :=
  Tbl.getD_put_same _ _ _ _

/-- The answer to a counter PROBE of a command, but RETRY: the command is gone, and a refusal is logged. -/
theorem counterProbeAnswer_settled {n a : Node} {p : Packet} {tid : Nat} (h : takeAnswer n p = (a, some (.countProbe tid)))
    (hr : p.status.toNat ≠ stRetry) :
    counterProbeAnswer p n = if p.status.toNat = stOK then dropCmd a tid else
      logEvent (dropCmd a tid) { otherEvent 3 8 with node := p.src.toNat, status := p.status.toNat, ctx := p.ctx.toNat } := by
  simp only [counterProbeAnswer, h, hr, if_false]

/-- Settles O21: each stage of a completion is one branch of its row's meaning. -/
theorem commandsComplete : Obligations.CommandsComplete := by
  unfold Obligations.CommandsComplete
  intro tid c s ha hc resync left free
  have complete {P : Node → Prop} (h : P (commandComplete tid s.nd)) : Moves (.commandComplete tid) s P :=
    moves_of_onNode (commandComplete tid) rfl h
  have count {P : Node → Prop} (h : P (countCommand tid s.nd)) : Moves (.completionCounterIncrement tid) s P :=
    moves_of_onNode (countCommand tid) rfl h
  have answer {p : Packet} {P : Node → Prop} (h : P (counterProbeAnswer p s.nd)) : Moves (.counterProbeAnswer p) s P :=
    moves_of_onNode (counterProbeAnswer p) rfl h
  refine ⟨fun _ h => complete (commandComplete_held hc h), fun ⟨hp, hr, hf, hs⟩ h0 hd => complete ?_,
    fun ⟨hp, hr, hf, hs⟩ h0 hd => complete ?_, fun ⟨hp, hr, hf, hs⟩ h0 hb hl => complete ?_, ?_,
    fun hp hd ho => count (countCommand_remote hc ha hp hd ho), fun hp hd => count ?_, fun p a hta => ⟨fun hst => answer ?_,
      fun hst hre => answer ?_⟩⟩
  · rw [commandComplete_free hc ha hp hr hs]
    simp only [h0, afterRecord, hd, decide_true, Bool.true_or, if_true, Bool.false_eq_true, if_false]
    exact ⟨leaveRing_rings hf, cmdOf_dropCmd_same _ _, by rw [leaveRing_eq]; rfl⟩
  · rw [commandComplete_free hc ha hp hr hs]
    simp only [h0, afterRecord, hd, decide_true, Bool.true_or, if_true]
    exact ⟨leaveRing_rings hf, cmdOf_setCmd_same _ _ _, by rw [leaveRing_eq]; rfl⟩
  · have hl' : isLost (leaveRing s.nd c) (cmpNode c) = false := by rw [leaveRing_eq]; exact hl
    have hpk : completionRecord (leaveRing s.nd c) c = completionRecord s.nd c := by rw [leaveRing_eq]; rfl
    rw [commandComplete_free hc ha hp hr hs]
    simp only [h0, hb, hl', hpk, decide_false, Bool.or_self, Bool.false_eq_true, if_false]
    have hrings (j : Nat) : ringOf (setCmd (sendPacket (leaveRing s.nd c) (completionRecord s.nd c) (.record tid)) tid
        { c with phase := .recordSent }) j = ringOf (leaveRing s.nd c) j := by simp [ringOf, setCmd]
    refine ⟨by simpa only [left, hrings] using leaveRing_rings hf, cmdOf_setCmd_same _ _ _, rfl, ?_, ?_⟩
    · simp only [setCmd, sendPacket_ctr]; rw [leaveRing_eq]
    · simp only [setCmd, sendPacket_mem]; rw [leaveRing_eq]
  · intro hp hd ho he hq x v hx ht hw
    have hw' : (dropCmd s.nd tid).ctr.waits = [] := hw
    have ht' : (counterOf (dropCmd s.nd tid) (cntIndex c)).trig = none := ht
    refine ⟨fun hv => count ?_, fun hv => count ?_⟩
    · rw [countCommand_own hc ha hp hd ho he hx, increment_plain hw' ht' hv, settle_quiet _ (by exact quiet_dropCmd hq tid)]
      rfl
    · rw [countCommand_own hc ha hp hd ho he hx, increment_over hw' ht' hv, settle_quiet _ (by exact quiet_dropCmd hq tid)]
      refine ⟨cmdOf_dropCmd_same _ _, counterOf_setCounter_same _ _ _, fun j hj => ?_⟩
      rw [counterOf_setCounter_other _ _ _ _ hj, counterOf_setCounter_other _ _ _ _ hj]; rfl
  · rw [countCommand_recordOnly hc ha hp hd]
    refine ⟨cmdOf_dropCmd_same _ _, fun u hu => ?_, rfl⟩
    rw [pairOf_dropCmd, pairOf_setPair_same] at hu
    simpa using (List.mem_filter.1 hu).2
  · rw [counterProbeAnswer_settled hta (by rw [hst]; decide), if_pos hst]
  · rw [counterProbeAnswer_settled hta hre, if_neg hst]
    exact ⟨cmdOf_dropCmd_same _ _, by simp [dropCmd], rfl⟩

end Sys2Proof.Organisation
end

section
/-! Requests at the home: how a row takes one, and what each ends with (O32). -/

namespace Sys2Proof.Organisation

open Sys2Proof.Machine Sys2Proof.Safety

/-! ### A row takes its request (R59, R141, R242) -/

theorem takeRow_taken {kind : Packet → Bool} {f : Node → Packet → Node} {n a : Node} {p : Packet} (hk : kind p = true)
    (h : Taken n p a) : takeRow kind f p n = settle (f a p) := by
  obtain ⟨ha, hc, hp, he⟩ := h
  have hp : present n p = (a, true) := hp
  simp [takeRow, ha, hc, hk, hp, he]

theorem takeRow_behind {kind : Packet → Bool} {f : Node → Packet → Node} {n a : Node} {p : Packet} (hk : kind p = true)
    (ha : accepting n = true) (hc : p.cls = 0) (hp : Arrives n p a) (he : earlierDelivered a p = true) :
    takeRow kind f p n = { a with prs := { a.prs with delivered := a.prs.delivered ++ [p] } } := by
  have hp : present n p = (a, true) := hp
  simp [takeRow, ha, hc, hk, hp, he]

theorem takeRow_left {kind : Packet → Bool} {f : Node → Packet → Node} {n : Node} {p : Packet}
    (h : kind p = false ∨ accepting n = false ∨ p.cls ≠ 0) : takeRow kind f p n = n := by
  have hb : (!accepting n || p.cls != 0 || !kind p) = true := by
    simp only [Bool.or_eq_true, Bool.not_eq_true', bne_iff_ne]; tauto
  simp only [takeRow, hb, if_true]

/-! ### What becomes of a request (R59, R242, R414) -/

/-- A request that is no duplicate and that nothing of its pair holds back. -/
def IsNew (a : Node) (p : Packet) : Prop :=
  dupFate a p = .fresh ∧ pairHeld a p.dst.toNat p.src.toNat = false ∧ p.dst.toNat = a.nodeId

theorem takeRequest_new {a : Node} {p : Packet} (h : IsNew a p) : takeRequest a p = newRequest a p := by
  obtain ⟨hf, hh, _⟩ := h
  simp [takeRequest, hf, hh]

theorem takeRequest_invalid {a : Node} {p : Packet} (h : IsNew a p) (hi : reqInvalid (noteReq a p) p = true) :
    takeRequest a p = refuseReq (noteReq a p) p stInvalid := by
  have hn : p.dst.toNat = (noteReq a p).nodeId := h.2.2
  rw [takeRequest_new h]
  simp [newRequest, hn, hi]

theorem takeRequest_refused {a : Node} {p : Packet} {st : Nat} (h : IsNew a p) (hi : reqInvalid (noteReq a p) p = false)
    (hm : mapAhead (noteReq a p) p = false) (hs : firstStatus (reqChecks (noteReq a p) p) = some st) :
    takeRequest a p = refuseReq (noteReq a p) p st := by
  have hn : p.dst.toNat = (noteReq a p).nodeId := h.2.2
  rw [takeRequest_new h]
  simp [newRequest, hn, hi, hm, hs]

theorem takeRequest_admitted {a d : Node} {p : Packet} (h : Admitted a p d) :
    takeRequest a p = beginReq d p (reqRegion (noteReq a p) p (reqLines (noteReq a p) p)) (reqLines (noteReq a p) p)
      (isEscalated (noteReq a p) (reqRegion (noteReq a p) p (reqLines (noteReq a p) p)) p) := by
  obtain ⟨hf, hh, hn, hi, hm, hs, had⟩ := h
  have hn' : p.dst.toNat = (noteReq a p).nodeId := hn
  rw [takeRequest_new ⟨hf, hh, hn⟩]
  simp [newRequest, hn', hi, hm, hs, admitReq, had]

theorem takeRequest_duplicate {a : Node} {p : Packet} {r : DedupeRec} (h : dupFate a p = .answer r)
    (hs : a.ml.memb.suspended = false) (hr : isRead p = false) :
    takeRequest a p = answerEnded (dropMark a p) p (r.status.getD stOK) r.landed r.ovf r.nans r.result := by
  have hs' : (dropMark a p).ml.memb.suspended = false := hs
  simp [takeRequest, h, hs', hr]

theorem takeRequest_suspended {a : Node} {p : Packet} {r : DedupeRec} (h : dupFate a p = .answer r)
    (hs : a.ml.memb.suspended = true) : takeRequest a p = refuseDuplicate (dropMark a p) p := by
  have hs' : (dropMark a p).ml.memb.suspended = true := hs
  simp [takeRequest, h, hs']

/-- The rows of requests to home space, each with the kind of packet it takes. -/
def homeRows (p : Packet) : List (Instr × (Packet → Bool)) :=
  [(.read p, homeKind 1), (.write p, homeKind 2), (.atomic p, homeKind 3), (.tileRead p, homeKind 4), (.tileWrite p, homeKind 5),
   (.tileAcc p, homeKind 6), (.wait p, homeKind 7), (.probe p, probeKind)]

/-- Every row of the eight is `takeRow` of its kind, over the node alone. -/
theorem exec_homeRow {p : Packet} {row : Instr × (Packet → Bool)} (h : row ∈ homeRows p) (s : State) :
    exec row.1 s = .next (onNode s (takeRow row.2 takeRequest p)) := by
  simp only [homeRows, List.mem_cons, List.not_mem_nil, or_false] at h
  rcases h with rfl | rfl | rfl | rfl | rfl | rfl | rfl | rfl <;> rfl

/-- Settles O32: the eight rows are one `takeRow`, and what it does is a branch of `takeRequest`. -/
theorem requestsAreTaken : Obligations.RequestsAreTaken := by
  unfold Obligations.RequestsAreTaken
  intro p s a row hrow new b
  have row_moves {P : Node → Prop} (h : P (takeRow row.2 takeRequest p s.nd)) : Moves row.1 s P :=
    moves_of_onNode _ (exec_homeRow hrow s) h
  refine ⟨fun hk ht => ?_, fun hk ha hc hp he => row_moves (takeRow_behind hk ha hc hp he), fun h => row_moves (takeRow_left h)⟩
  have taken {m : Node} (h : takeRequest a p = m) : Moves row.1 s fun x => x = settle m :=
    row_moves (by rw [takeRow_taken hk ht, h])
  exact ⟨taken rfl, fun hn hi => taken (takeRequest_invalid hn hi),
    fun st hn hi hm hs => taken (takeRequest_refused hn hi hm hs),
    fun r hd hs hr => taken (takeRequest_duplicate hd hs hr), fun r hd hs => taken (takeRequest_suspended hd hs)⟩

end Sys2Proof.Organisation
end

section
/-! WAITs and their deadlines, late reads, and accesses to the control region (O34). -/

namespace Sys2Proof.Organisation

open Sys2Proof.Machine Sys2Proof.Safety

/-! ### WAIT (R156–R158) -/

theorem opcode_of_homeKind {k : Nat} {p : Packet} (h : homeKind k p = true) : p.opcode.toNat = k := by
  simp only [homeKind, Bool.and_eq_true, beq_iff_eq] at h
  obtain ⟨⟨⟨ho, _⟩, _⟩, _⟩ := h
  exact ho

/-- A WAIT that was admitted begins as `startWait`. -/
theorem takeRequest_wait {a d : Node} {p : Packet} (hk : homeKind 7 p = true) (h : Admitted a p d) :
    takeRequest a p = startWait d p := by
  have ho : p.opcode = 7 := BitVec.eq_of_toNat_eq (opcode_of_homeKind hk)
  rw [takeRequest_admitted h]
  simp [beginReq, ho]

theorem startWait_err {n : Node} {p : Packet} (he : (counterOf n p.aux.toNat).err = true) :
    startWait n p = answerWait n p stAborted (counterOf n p.aux.toNat).value := by
  simp [startWait, he]

theorem startWait_reached {n : Node} {p : Packet} (he : (counterOf n p.aux.toNat).err = false)
    (hv : p.op5.toNat ≤ (counterOf n p.aux.toNat).value) :
    startWait n p = answerWait n p stOK (counterOf n p.aux.toNat).value := by
  simp [startWait, he, hv]

theorem startWait_parks {n : Node} {p : Packet} (he : (counterOf n p.aux.toNat).err = false)
    (hv : (counterOf n p.aux.toNat).value < p.op5.toNat) (hr : n.ctr.waits.length < 8192) :
    startWait n p = { openRecord n p with ctr := { (openRecord n p).ctr with
      waits := n.ctr.waits ++ [⟨p.aux.toNat, p.op5.toNat, p⟩] } } := by
  simp [startWait, he, Nat.not_le.2 hv, Nat.not_le.2 hr]
  rfl

/-! ### Deadlines (R159, R318) -/

theorem waitLate_found {n : Node} {src seq : Nat} {w : ParkedWait} (h : n.ctr.waits.find? (fun w =>
      w.pkt.src.toNat == src && w.pkt.seq.toNat == seq && w.pkt.deadline != 0) = some w) :
    waitLate src seq n = answerWait { n with ctr := { n.ctr with waits := n.ctr.waits.erase w } } w.pkt stLateFail
      (counterOf n w.counter).value := by
  simp only [waitLate, h]

theorem waitLate_none {n : Node} {src : NodeId} {seq : BitVec 32}
    (h : ∀ w ∈ n.ctr.waits, w.pkt.src ≠ src ∨ w.pkt.seq ≠ seq ∨ w.pkt.deadline = 0) :
    waitLate src.toNat seq.toNat n = n := by
  have hf : n.ctr.waits.find? (fun w => w.pkt.src.toNat == src.toNat && w.pkt.seq.toNat == seq.toNat &&
      w.pkt.deadline != 0) = none := by
    rw [List.find?_eq_none]
    intro w hw
    simp only [Bool.and_eq_true, beq_iff_eq, bne_iff_ne, BitVec.toNat_inj]
    have := h w hw
    tauto
  simp only [waitLate, hf]

/-- The read that the deadline meets: alone at work, one line of it unread, in a range that the home has. -/
structure LateRead (n : Node) (src : NodeId) (seq : BitVec 32) (tid : Nat) (q : Req) (u : CommitUnit) (line pva : Nat)
    (r : Range) : Prop where
  reqs : n.trk.reqs = [(tid, q)]
  src_eq : q.pkt.src = src
  seq_eq : q.pkt.seq = seq
  reads : isRead q.pkt = true
  limit : q.pkt.deadline ≠ 0
  notLate : q.late = false
  units : q.units = [u]
  lines : u.lines = [(line, pva)]
  accepts : accepting n = true
  range : rangeFor n q.pkt.ctx.toNat pva = some r

/-- What a read is once its deadline has passed, with one line unread: `f` is that line's fate. -/
def lateReq (q : Req) (u : CommitUnit) (f : LateLine) : Req :=
  let q := { q with late := true, taken := q.taken ++ f.taken.toList, units := if f.waits then [u] else [] }
  if f.fails then stopReq q (if q.taken.any (·.poison) then stPoisoned else stLateFail) else q

theorem readLate_one {n : Node} {src : NodeId} {seq : BitVec 32} {tid : Nat} {q : Req} {u : CommitUnit} {line pva : Nat}
    {r : Range} (h : LateRead n src seq tid q u line pva r) (hs : r.dlPolicy ≠ 1) :
    readLate src.toNat seq.toNat n = settle (setReq n tid (lateReq q u (lateLine n q.pkt line pva))) := by
  have hg : shadowGone n q.pkt pva = false := by simp [shadowGone, h.range, hs]
  have hl : ¬q.pkt.deadline = 0#16 := h.limit
  cases hw : (lateLine n q.pkt line pva).waits <;> cases ht : (lateLine n q.pkt line pva).taken <;>
    simp [readLate, h.reqs, h.src_eq, h.seq_eq, h.reads, hl, h.notLate, h.units, h.lines, h.accepts, hg, lateReq, hw, ht]

theorem lateLine_of_range {n : Node} {p : Packet} {line pva : Nat} {r : Range} (h : rangeFor n p.ctx.toNat pva = some r) :
    (r.dlPolicy = 0 → lateLine n p line pva = ⟨none, true, false⟩) ∧
      (r.dlPolicy = 2 → lateLine n p line pva = ⟨some (fillLine r line pva), false, false⟩) ∧
      (r.dlPolicy = 3 → lateLine n p line pva = ⟨none, false, true⟩) := by
  refine ⟨fun hd => ?_, fun hd => ?_, fun hd => ?_⟩ <;> simp [lateLine, h, hd]

/-! ### The control region (R38–R40, R625) -/

theorem takeCtrl_fresh {a : Node} {p : Packet} (h : dupFate a p = .fresh) : takeCtrl a p = newCtrl a p := by
  simp [takeCtrl, h]

theorem newCtrl_bad {a : Node} {p : Packet} (hb : ctrlBad p = true) : newCtrl a p = refuseReq (noteReq a p) p stInvalid := by
  simp [newCtrl, hb]

theorem newCtrl_denied {a : Node} {p : Packet} (hb : ctrlBad p = false) (hd : ctrlDenied (noteReq a p) p = true) :
    newCtrl a p = refuseReq (noteReq a p) p stDenied := by
  simp [newCtrl, hb, hd]

theorem newCtrl_made {a d : Node} {p : Packet} (hb : ctrlBad p = false) (hd : ctrlDenied (noteReq a p) p = false)
    (hm : storesData p = false ∨ markBefore (noteReq a p) p = none) (hs : (noteReq a p).ml.memb.suspended = false)
    (hw : takeWindow (noteReq a p) p.src.toNat = some d) : newCtrl a p = doCtrl d p := by
  have hmark : (if storesData p then markBefore (noteReq a p) p else none) = none := by
    rcases hm with h | h <;> simp [h]
  simp only [newCtrl, hb, hd, hmark, hs, hw, Bool.false_eq_true, if_false]

/-- A read of one register. -/
theorem doCtrl_read {d : Node} {p : Packet} (ho : p.opcode = 1) (he : ctrlEntries p = false) (hl : p.len.toNat = 8) :
    doCtrl d p = respond (closeRecord d p stOK 0 0 0 []) p 3 stOK 0 0
      (leBytes 8 (ringRegister (ringOf d (ctrlRing p)) (ctrlOff p)).toNat) := by
  simp [doCtrl, ho, he, hl]

/-- A write of one register. -/
theorem doCtrl_write {d : Node} {p : Packet} (ho : p.opcode = 2) (he : ctrlEntries p = false) (hl : p.len.toNat = 8) :
    doCtrl d p =
      answerEnded (closeRecord (writeRingRegister d (ctrlRing p) (ctrlOff p) (wordOf (numAt (payloadOf p) 0 8))) p stOK 8 0 0 []) p
        stOK 8 0 0 [] := by
  simp [doCtrl, ho, he, hl]

/-- Settles O34: each answer is one branch of `startWait`, `waitLate`, `readLate` or `newCtrl`. -/
theorem waitsAndDeadlines : Obligations.WaitsAndDeadlines := by
  unfold Obligations.WaitsAndDeadlines
  intro p src seq a d s x waits c ctrl
  have wait {P : Node → Prop} (hw : waits) (h : P (settle (startWait d p))) : Moves (.wait p) s P :=
    moves_of_onNode (waitReq p) rfl (by
      obtain ⟨hk, ht, had⟩ := hw
      rw [waitReq, takeRow_taken hk ht, takeRequest_wait hk had]; exact h)
  have parked {P : Node → Prop} (h : P (waitLate src.toNat seq.toNat s.nd)) : Moves (.waitDeadlineExpiry src seq) s P :=
    moves_of_onNode (waitLate src.toNat seq.toNat) rfl h
  have late {P : Node → Prop} (h : P (readLate src.toNat seq.toNat s.nd)) : Moves (.deadlineExpiry src seq) s P :=
    moves_of_onNode (readLate src.toNat seq.toNat) rfl h
  have access {m : Node} (hc : ctrl) (h : newCtrl a p = m) : Moves (.controlRegionAccess p) s fun x => x = settle m :=
    moves_of_onNode (ctrlReq p) rfl (by
      obtain ⟨hk, ht, hf⟩ := hc
      rw [ctrlReq, takeRow_taken hk ht, takeCtrl_fresh hf, h])
  refine ⟨fun hw he => wait hw (by rw [startWait_err he]), fun hw he hv => wait hw (by rw [startWait_reached he hv]),
    fun hw he hv hr hq => wait hw ?_, fun w hf => parked (waitLate_found hf), fun h => parked (waitLate_none h),
    fun tid q u line pva r hreqs hsrc hseq hread hdl hlate hunits hlines hacc hrange => ?_, fun h => late ?_,
    fun hc hb => access hc (newCtrl_bad hb), fun hc hb hd => access hc (newCtrl_denied hb hd),
    fun hc hb hd ho hs hw he hl => access hc ?_, fun hc hb hd ho hm hs hw he hl => access hc ?_⟩
  · rw [startWait_parks he hv hr, settle_quiet _ (by exact hq)]
    exact ⟨rfl, rfl⟩
  · have h : LateRead s.nd src seq tid q u line pva r :=
      ⟨hreqs, hsrc, hseq, hread, hdl, hlate, hunits, hlines, hacc, hrange⟩
    obtain ⟨f0, f2, f3⟩ := lateLine_of_range (line := line) hrange
    refine ⟨fun hd => late ?_, fun hd => late ?_, fun hd ht => late ?_⟩
    · rw [readLate_one h (by omega), f0 hd]
      simp [lateReq, ← hunits]
    · rw [readLate_one h (by omega), f2 hd]
      simp [lateReq]
    · rw [readLate_one h (by omega), f3 hd]
      simp [lateReq, stopReq, ht]
  · simp [readLate, h]
  · rw [newCtrl_made hb hd (.inl (by simp [storesData, isStore, ho])) hs hw, doCtrl_read ho he hl]
  · rw [newCtrl_made hb hd (.inr hm) hs hw, doCtrl_write ho he hl]

end Sys2Proof.Organisation
end

section
/-! Answers to recalls, write-backs and the end of a snoop-ring invalidation (O40). -/

namespace Sys2Proof.Organisation

open Sys2Proof.Machine Sys2Proof.Safety

/-! ### Answers to recalls (R183–R192) -/

/-- An answer to a recall has come: its code is one of the five, the module accepts, and the packet is whole and in its turn. -/
def Answered (n : Node) (p : Packet) (a : Node) : Prop :=
  (accepting n = true ∧ Arrives n p a) ∧ 0x60 ≤ p.opcode.toNat ∧ p.opcode.toNat ≤ 0x64

/-- The answer that the home expects of a line. -/
def Expected (a : Node) (p : Packet) (line : Nat) (rc : Recall) : Prop :=
  recallOf a p.src.toNat (reqSeq p) = some (line, rc) ∧ answerValid rc p = true

theorem recallAnswer_unknown {n a : Node} {p : Packet} (h : Answered n p a) (hr : recallOf a p.src.toNat (reqSeq p) = none) :
    recallAnswer p n = logBadAnswer a p := by
  obtain ⟨⟨ha, hp⟩, hl, hh⟩ := h
  have hp : present n p = (a, true) := hp
  simp [recallAnswer, ha, hl, hh, hp, hr]

theorem recallAnswer_invalid {n a : Node} {p : Packet} {line : Nat} {rc : Recall} (h : Answered n p a)
    (hr : recallOf a p.src.toNat (reqSeq p) = some (line, rc)) (hv : answerValid rc p = false) :
    recallAnswer p n = logBadAnswer a p := by
  obtain ⟨⟨ha, hp⟩, hl, hh⟩ := h
  have hp : present n p = (a, true) := hp
  simp [recallAnswer, ha, hl, hh, hp, hr, hv]

/-- The legs of a recall once a node has said that its write-back is on its way (R192). -/
def pendingLegs (rc : Recall) (x : Nat) : List RecallLeg :=
  rc.legs.map fun l => if l.node == x then { l with wbPending := true } else l

theorem recallAnswer_pending {n a : Node} {p : Packet} {line : Nat} {rc : Recall} (h : Answered n p a)
    (he : Expected a p line rc) (ho : p.opcode.toNat = 0x64) :
    recallAnswer p n = settleFwd { a with coh := { a.coh with
      recalls := Tbl.put a.coh.recalls line { rc with legs := pendingLegs rc p.src.toNat } } } p.src.toNat (reqSeq p) := by
  obtain ⟨⟨ha, hp⟩, hl, hh⟩ := h
  obtain ⟨hr, hv⟩ := he
  have hp : present n p = (a, true) := hp
  simp [recallAnswer, ha, hp, hr, hv, ho, pendingLegs]

/-- ACK_I and ACK_S. -/
theorem recallAnswer_ack {n a : Node} {p : Packet} {line : Nat} {rc : Recall} (h : Answered n p a)
    (he : Expected a p line rc) (ho : p.opcode.toNat = 0x60 ∨ p.opcode.toNat = 0x62) :
    recallAnswer p n = settle (endLeg (if p.opcode.toNat = 0x62 then keepShared (settleFwd a p.src.toNat (reqSeq p)) line
      else dropHolder (settleFwd a p.src.toNat (reqSeq p)) line p.src.toNat) line p.src.toNat) := by
  obtain ⟨⟨ha, hp⟩, hl, hh⟩ := h
  obtain ⟨hr, hv⟩ := he
  have hp : present n p = (a, true) := hp
  rcases ho with ho | ho <;> simp [recallAnswer, ha, hp, hr, hv, ho]

/-- DATA_I and DATA_S, with the line ready: the data is applied first (R189). -/
theorem recallAnswer_data {n a f : Node} {p : Packet} {line ctx : Nat} {rc : Recall} {r : Range} (h : Answered n p a)
    (he : Expected a p line rc) (ho : p.opcode.toNat = 0x61 ∨ p.opcode.toNat = 0x63) (hd : discardsData rc.cause = false)
    (hs : spanOf a line = some (ctx, r))
    (hf : prepReturn a ctx r line (.source p.src.toNat (fieldOf p.op5 47 32)) = (f, .ready)) :
    let c := settleFwd (applyReturn f ctx r line (fieldOf p.op5 47 32) p).1 p.src.toNat (reqSeq p)
    recallAnswer p n = settle (endLeg (if p.opcode.toNat = 0x63 then keepShared c line else dropHolder c line p.src.toNat)
      line p.src.toNat) := by
  obtain ⟨⟨ha, hp⟩, hl, hh⟩ := h
  obtain ⟨hr, hv⟩ := he
  have hp : present n p = (a, true) := hp
  rcases ho with ho | ho <;> simp [recallAnswer, ha, hp, hr, hv, ho, hd, hs, hf]

/-! ### Voluntary write-backs (R191, R192) -/

/-- A WB_EVICT has come. -/
def Evicts (n : Node) (p : Packet) (a : Node) : Prop := (accepting n = true ∧ Arrives n p a) ∧ p.opcode = 0x68 ∧ p.cls = 3

theorem wbEvict_unmapped {n a : Node} {p : Packet} (h : Evicts n p a) (hr : rangeFor a p.ctx.toNat p.pva.toNat = none) :
    wbEvict p n = sendWbAck (logBadAnswer a p) p.src.toNat p.seq.toNat p.tag.toNat p.ctx.toNat p.pva.toNat stInvalid := by
  obtain ⟨⟨ha, hp⟩, ho, hc⟩ := h
  have hp : present n p = (a, true) := hp
  simp [wbEvict, ha, hp, ho, hc, hr]

/-- A WB_EVICT of one whole line of a range, on which no recall is outstanding. -/
structure WholeEvict (a : Node) (p : Packet) (r : Range) (line : Nat) : Prop where
  range : rangeFor a p.ctx.toNat p.pva.toNat = some r
  line_eq : lineAt r p.pva.toNat = line
  aligned : p.pva.toNat % 64 = 0
  payload : hasPayload p = true
  len : p.len = 64
  noRecall : Tbl.find? a.coh.recalls line = none

/-- The entry of the line names the node as its owner. -/
def ownsLine (a : Node) (line x : Nat) : Bool := ((dirOf a line).map fun e => e.excl && e.ptrs.contains x).getD false

theorem ownsLine_iff (a : Node) (line x : Nat) :
    ownsLine a line x = true ↔ ∃ e, dirOf a line = some e ∧ e.excl = true ∧ x ∈ e.ptrs := by
  cases h : dirOf a line <;> simp [ownsLine, h]

/-- What a WB_EVICT of a whole line comes to: refused to one that does not own the line or is not admitted, else applied. -/
theorem wbEvict_whole {n a : Node} {p : Packet} {r : Range} {line : Nat} (h : Evicts n p a) (hw : WholeEvict a p r line) :
    let ack := fun (n : Node) st => sendWbAck n p.src.toNat p.seq.toNat p.tag.toNat p.ctx.toNat p.pva.toNat st
    let f := prepReturn a p.ctx.toNat r line (.source p.src.toNat p.epoch.toNat)
    let c := applyReturn f.1 p.ctx.toNat r line p.epoch.toNat p
    wbEvict p n =
      if ownsLine a line p.src.toNat = false then ack (logBadAnswer a p) stInvalid
      else if isAdmitted a p.ctx.toNat p.src.toNat = false then ack a stDenied
      else if f.2 ≠ .ready then putBack f.1 p
      else settle (evictApplied (endLeg (dropHolder c.1 line p.src.toNat) line p.src.toNat) line p.ctx.toNat p c.2) := by
  obtain ⟨⟨ha, hp⟩, ho, hc⟩ := h
  obtain ⟨hr, rfl, hal, hpay, hlen, hrc⟩ := hw
  have hp : present n p = (a, true) := hp
  simp [wbEvict, ha, hp, ho, hc, hr, hal, hpay, hlen, hrc, ownsLine]

/-! ### The snoop ring (R25, R203) -/

theorem endSnoop_eq {n : Node} {line : Nat} (h : snooping n line = true) : endSnoop n line = { n with coh := { n.coh with
    snoops := Tbl.del n.coh.snoops line
    opbuf := n.coh.opbuf.map fun t => (t.1, t.2.filter fun c => !(c.line == line && !c.nc))
    lent := n.coh.lent.map fun t => (t.1, t.2.filter fun e => e.line != line) } } := by
  simp [endSnoop, h]

/-- A completed invalidation: nothing of the line is lent, and only NC copies of it are left. -/
theorem endSnoop_clears {n : Node} {line : Nat} (h : snooping n line = true) :
    snooping (endSnoop n line) line = false ∧ (∀ e ∈ (endSnoop n line).coh.lent, ∀ z ∈ e.2, z.line ≠ line) ∧
      (∀ e ∈ (endSnoop n line).coh.opbuf, ∀ z ∈ e.2, z.line = line → z.nc = true) ∧
      (endSnoop n line).coh.dir = n.coh.dir ∧ (endSnoop n line).mem = n.mem := by
  rw [endSnoop_eq h]
  refine ⟨by simp [snooping], fun e he z hz => ?_, fun e he z hz hl => ?_, rfl, rfl⟩
  · obtain ⟨t, _, rfl⟩ := List.mem_map.1 he
    simpa using (List.mem_filter.1 hz).2
  · obtain ⟨t, _, rfl⟩ := List.mem_map.1 he
    simpa [hl] using (List.mem_filter.1 hz).2

/-- Settles O40: each answer and each write-back is one branch of its row's meaning. -/
theorem recallsAndWriteBacks : Obligations.RecallsAndWriteBacks := by
  unfold Obligations.RecallsAndWriteBacks
  intro p a line rc s x o came answers ours settled evicts ack
  have answer {P : Node → Prop} (h : P (recallAnswer p s.nd)) : Moves (.recallAnswer p) s P :=
    moves_of_onNode (recallAnswer p) rfl h
  have evict {P : Node → Prop} (h : P (wbEvict p s.nd)) : Moves (.wbEvict p) s P := moves_of_onNode (wbEvict p) rfl h
  have complete {P : Node → Prop} (h : P (snoopComplete line s.nd)) : Moves (.snoopInvalidationComplete line) s P :=
    moves_of_onNode (snoopComplete line) rfl h
  refine ⟨fun ha hr => answer ?_, fun ha hr hv => answer ?_, fun ha he ho => answer ?_, fun ha he ho => answer ?_,
    fun ha he ho => answer ?_, fun ctx r f ha he ho hd hs hf => answer (recallAnswer_data ha he ho hd hs hf),
    fun r f he hr hl hal hpay hlen hrc => ?_, fun he hr => evict (wbEvict_unmapped he hr), fun ha hs hq => complete ?_,
    fun hs => complete (by simp [snoopComplete, hs])⟩
  · exact ⟨recallAnswer_unknown ha hr, by rw [recallAnswer_unknown ha hr]; rfl⟩
  · exact ⟨recallAnswer_invalid ha hr hv, by rw [recallAnswer_invalid ha hr hv]; rfl⟩
  · rw [recallAnswer_ack ha he (.inl ho), if_neg (by simp only [o] at ho; omega)]
  · rw [recallAnswer_ack ha he (.inr ho), if_pos ho]
  · rw [recallAnswer_pending ha he ho]
    refine ⟨⟨{ rc with legs := pendingLegs rc x }, Tbl.find?_put_same _ _ _, ?_, fun l hl hx => ?_⟩, rfl, rfl⟩
    · rw [pendingLegs, List.map_map]
      exact List.map_congr_left fun l _ => by simp only [Function.comp_apply]; split <;> rfl
    · obtain ⟨l', _, rfl⟩ := List.mem_map.1 hl
      by_cases h : l'.node = x <;> simp_all
  · have hw : WholeEvict a p r line := ⟨hr, hl, hal, hpay, hlen, hrc⟩
    have key := wbEvict_whole he hw
    refine ⟨fun hno => evict ?_, fun hown hadm => evict ?_, fun hown hadm hf => evict ?_⟩
    · rw [key, if_pos (by rw [← Bool.not_eq_true, ownsLine_iff]; exact hno)]
    · rw [key, if_neg (by rw [Bool.not_eq_false, ownsLine_iff]; exact hown), if_pos hadm]
    · rw [key, if_neg (by rw [Bool.not_eq_false, ownsLine_iff]; exact hown), if_neg (by rw [Bool.not_eq_false]; exact hadm), hf, if_neg (by simp)]
  · simp only [snoopComplete, ha, hs, Bool.and_self, if_true]
    rw [settle_quiet _ hq]
    exact endSnoop_clears hs

end Sys2Proof.Organisation
end

section
/-! The bridge's snoops of the host, the loss of the host, and notifications (O47). -/

namespace Sys2Proof.Organisation

open Sys2Proof.Machine Sys2Proof.Safety

/-! ### Snoops of the host (R186, R195) -/

/-- A FWD packet has come to the bridge of a host that is served. -/
def SnoopCame (n : Node) (p : Packet) (a : Node) : Prop :=
  (bridgeId n ≠ 0 ∧ p.dst.toNat = bridgeId n ∧ Arrives n p a) ∧ p.cls = 1 ∧ hostServed n = true

/-- No WB_EVICT of the line stands in the way of the snoop. -/
theorem bridgeSnoop_free {n a : Node} {p : Packet} (h : SnoopCame n p a)
    (hf : p.opcode = 0x40 ∨ evictOf a p.ctx.toNat p.pva.toNat = none) :
    bridgeSnoop p n = match windowTo a p.ctx.toNat p.pva.toNat with
      | none => answerSnoop a p 0x60 none
      | some w => toHost (onBridge a fun b => { b with snoops := b.snoops ++ [{ fwd := p, dirty := none }] })
          (if p.opcode = 0x42 then "BISnpData" else "BISnpInv") (winDpa w + (p.pva.toNat - winPva w)) [] := by
  obtain ⟨⟨hb, hd, hp⟩, hc, hs⟩ := h
  have hp : present n p = (a, true) := hp
  have hn : (if p.opcode = 0x40 then none else evictOf a p.ctx.toNat p.pva.toNat) = none := by
    rcases hf with hf | hf <;> simp [hf]
  simp only [bridgeSnoop, hb, hd, hc, hs, hp, hn, decide_false, bne_self_eq_false, Bool.or_self, Bool.not_true,
    Bool.false_eq_true, if_false] <;> rfl

/-- A WB_EVICT of the line awaits its WB_ACK, or was denied. -/
theorem bridgeSnoop_evicting {n a : Node} {p : Packet} {r : HostReq} (h : SnoopCame n p a)
    (ho : p.opcode ≠ 0x40) (he : evictOf a p.ctx.toNat p.pva.toNat = some r) :
    bridgeSnoop p n = if r.asked then hostWritten (dropHostReq (hostDrops
        (answerSnoop a p 0x61 (some (sliceOf (payloadOf r.pkt) 0 64))) p.ctx.toNat p.pva.toNat) r) r.hostTag
      else answerSnoop a p 0x64 none := by
  obtain ⟨⟨hb, hd, hp⟩, hc, hs⟩ := h
  have hp : present n p = (a, true) := hp
  simp only [bridgeSnoop, hb, hd, hc, hs, hp, ho, he, decide_false, bne_self_eq_false, Bool.or_self, Bool.not_true,
    Bool.false_eq_true, if_false]

/-- A BIRsp of a line that is being snooped: what the host keeps, and what goes back to the home. -/
theorem hostBirsp_heard {n : Node} {pva ctx : Nat} {shared : Bool} {dirty : Option Bytes} {z : BridgeSnoop}
    (hs : hostServed n = true)
    (hz : n.bridge.snoops.find? (fun s => s.fwd.ctx.toNat == ctx && s.fwd.pva.toNat == pva) = some z) :
    let keeps := shared && z.fwd.opcode == 0x42
    let data := if z.fwd.opcode = 0x40 then none else (match dirty with | some d => some (sliceOf d 0 64) | none => z.dirty)
    let left := onBridge n fun b => { b with snoops := b.snoops.erase z }
    hostBirsp pva ctx shared dirty n =
      answerSnoop (if keeps then hostTakes left ctx pva false else hostDrops left ctx pva) z.fwd
        (if data.isSome then (if keeps then 0x63 else 0x61) else if keeps then 0x62 else 0x60) data := by
  simp only [hostBirsp, hz, hs, Bool.not_true, Bool.false_eq_true, if_false] <;> rfl

/-! ### Losing the host and enumerating it again (R196) -/

theorem loseHost_served {n : Node} (hb : bridgeId n ≠ 0) (hs : hostServed n = true) :
    loseHost n = reportNode (onBridge (logEvent n { otherEvent 6 33 with node := bridgeId n }) fun b =>
      { b with hostUp := false, reqs := [], snoops := [], holds := [] }) (bridgeId n) := by
  simp [loseHost, hb, hs]
  rfl

@[simp] theorem startExchange_incarnation (n : Node) (own peer : Nat) :
    (startExchange n own peer).prs.incarnation = n.prs.incarnation := by
  unfold startExchange; dsimp only; split
  · rfl
  · simp [setPair]

@[simp] theorem sendPacket_incarnation (n : Node) (p : Packet) (why : SentFor) :
    (sendPacket n p why).prs.incarnation = n.prs.incarnation := by
  unfold sendPacket; simp only []; (repeat' split) <;> simp [setPair]

/-- Joining sends packets, and notes that the bridge's node has not joined yet. -/
theorem joinBridge_keeps (n : Node) : (joinBridge n).prs.incarnation = n.prs.incarnation ∧
    (joinBridge n).bridge.hostUp = n.bridge.hostUp ∧ (joinBridge n).mem = n.mem ∧ (joinBridge n).trk = n.trk := by
  unfold joinBridge; dsimp only; split
  · exact ⟨rfl, rfl, rfl, rfl⟩
  · exact ⟨foldl_keeps _ (fun m : Node => m.prs.incarnation) (fun n k => by simp) _ _,
      foldl_keeps _ (fun m : Node => m.bridge.hostUp) (fun n k => by simp) _ _,
      foldl_keeps _ (fun m : Node => m.mem) (fun n k => by simp) _ _,
      foldl_keeps _ (fun m : Node => m.trk) (fun n k => by simp) _ _⟩

theorem reenumerate_lost {n : Node} (hb : bridgeId n ≠ 0) (ha : accepting n = true) (hu : n.bridge.hostUp = false) :
    (reenumerate n).bridge.hostUp = true ∧ (reenumerate n).prs.incarnation = (n.prs.incarnation + 1) % 2 ^ 32 ∧
      (reenumerate n).mem = n.mem ∧ (reenumerate n).trk = n.trk := by
  obtain ⟨m, hm, h1, h2, h3, h4⟩ : ∃ m, reenumerate n = joinBridge m ∧ m.bridge.hostUp = true ∧
      m.prs.incarnation = (n.prs.incarnation + 1) % 2 ^ 32 ∧ m.mem = n.mem ∧ m.trk = n.trk := by
    simp only [reenumerate, hb, ha, hu, decide_false, Bool.or_self, Bool.not_true, Bool.false_eq_true, if_false]
    exact ⟨_, rfl, rfl, rfl, rfl, rfl⟩
  obtain ⟨k1, k2, k3, k4⟩ := joinBridge_keeps m
  rw [hm]
  exact ⟨k2.trans h1, k1.trans h2, k3.trans h3, k4.trans h4⟩

/-! ### Notifications (R57, R200) -/

/-- The write is 32 bytes to a slot of the notification window, which is open. -/
def IsSlotWrite (a : Node) (p : Packet) : Prop :=
  p.pva.toNat % 32 = 0 ∧ p.pva.toNat < 65536 ∧ p.len = 32 ∧ hasPayload p = true ∧ bitOf a.bridge.ntfLive.1 0 = true

/-- A CMP write has come to the bridge. -/
def NotifyCame (n : Node) (p : Packet) (a : Node) : Prop :=
  (bridgeId n ≠ 0 ∧ p.dst.toNat = bridgeId n ∧ Arrives n p a) ∧ p.cls = 4 ∧ accepting n = true

theorem notifyWrite_slot {n a : Node} {p : Packet} (h : NotifyCame n p a) (hs : IsSlotWrite a p) :
    notifyWrite p n = sendRsp (raiseVector (toHost a "memory write" (a.bridge.ntfLive.2.toNat + p.pva.toNat)
      (sliceOf (payloadOf p) 0 32)) (p.pva.toNat / 32)) p stOK 0 := by
  obtain ⟨⟨hb, hd, hp⟩, hc, ha⟩ := h
  obtain ⟨h1, h2, h3, h4, h5⟩ := hs
  have hp : present n p = (a, true) := hp
  simp [notifyWrite, hb, hd, hc, ha, hp, h1, h2, h3, h4, h5]

theorem notifyWrite_other {n a : Node} {p : Packet} (h : NotifyCame n p a) (hs : ¬ IsSlotWrite a p) :
    notifyWrite p n = sendRsp (countHost a 2 p.pva.toNat) p stOK 0 := by
  obtain ⟨⟨hb, hd, hp⟩, hc, ha⟩ := h
  have hp : present n p = (a, true) := hp
  have hok : (p.pva.toNat % 32 == 0 && decide (p.pva.toNat < 65536) && p.len == 32 && hasPayload p &&
      bitOf a.bridge.ntfLive.1 0) = false := by
    rw [Bool.eq_false_iff]
    intro hok
    simp only [Bool.and_eq_true, beq_iff_eq, decide_eq_true_eq] at hok
    obtain ⟨⟨⟨⟨h1, h2⟩, h3⟩, h4⟩, h5⟩ := hok
    exact hs ⟨h1, h2, h3, h4, h5⟩
  simp only [notifyWrite, hb, hd, hc, ha, hp, hok, decide_false, bne_self_eq_false, Bool.or_self, Bool.not_true,
    Bool.false_eq_true, if_false]

theorem raiseVector_sent {n : Node} {v : Nat} (hm : n.bridge.masked.contains v = false) :
    raiseVector n v = emit n (.msix v) := by simp only [raiseVector, hm, Bool.false_eq_true, if_false]

theorem raiseVector_pends {n : Node} {v : Nat} (hm : n.bridge.masked.contains v = true)
    (hv : n.bridge.pendingVec.contains v = false) :
    raiseVector n v = { n with bridge := { n.bridge with pendingVec := n.bridge.pendingVec ++ [v] } } := by
  simp only [raiseVector, hm, hv, onBridge, Bool.false_eq_true, if_true, if_false]

theorem unmaskVector_eq (v : Nat) (n : Node) : unmaskVector v n = { n with
    bridge := { n.bridge with masked := n.bridge.masked.filter (· != v), pendingVec := n.bridge.pendingVec.filter (· != v) }
    out := n.out ++ if n.bridge.pendingVec.contains v then [Out.msix v] else [] } := by
  cases h : n.bridge.pendingVec.contains v <;>
    simp only [unmaskVector, h, onBridge, emit, Bool.false_eq_true, if_true, if_false, List.append_nil]

/-- Settles O47: each row's meaning, branch by branch. -/
theorem hostIsSnoopedAndTold : Obligations.HostIsSnoopedAndTold := by
  unfold Obligations.HostIsSnoopedAndTold
  intro p a w z r d v s n on b ctx pva came snoops evicting free heard left slot told
  have snoop {P : Node → Prop} (h : P (bridgeSnoop p n)) : Moves (.bridgeFwdSnoop p) s P :=
    moves_of_onNode (bridgeSnoop p) rfl h
  have birsp {sh : Bool} {dirty : Option Bytes} {P : Node → Prop} (h : P (hostBirsp pva ctx sh dirty n)) :
      Moves (.hostBirsp p.pva p.ctx sh dirty) s P := moves_of_onNode (hostBirsp pva ctx sh dirty) rfl h
  have notify {P : Node → Prop} (h : P (notifyWrite p n)) : Moves (.bridgeNotifyWrite p) s P :=
    moves_of_onNode (notifyWrite p) rfl h
  have timeout {P : Node → Prop} (h : P (if n.bridge.snoops.isEmpty then n else loseHost n)) : Moves .bisnpTimeout s P :=
    moves_of_onNode (fun n => if n.bridge.snoops.isEmpty then n else loseHost n) rfl h
  have again {P : Node → Prop} (h : P (reenumerate n)) : Moves .bridgeHostReenumerate s P := moves_of_onNode reenumerate rfl h
  refine ⟨fun hs hf hw => snoop ?_, fun hs hf hw => snoop ?_, fun hs ⟨ho, he⟩ hk => snoop ?_, fun hs ⟨ho, he⟩ hk => snoop ?_,
    fun ⟨hs, hz⟩ ho hd => birsp ?_, fun ⟨hs, hz⟩ ho hd => birsp ?_, fun ⟨hs, hz⟩ ho hd => birsp ?_, fun ⟨hs, hz⟩ ho => birsp ?_,
    fun sh h => birsp ?_, fun t hs => moves_of_onNode (fun n => if hostServed n then toHost n "BIConflictAck" t.toNat [] else n) rfl ?_,
    fun hb hs => moves_of_onNode loseHost rfl ?_, fun hb hs hz => timeout ?_, fun hz => timeout ?_,
    fun hb ha hu => again (reenumerate_lost hb ha hu), fun hu => again ?_, fun hc h4 ha hs hm => notify ?_,
    fun hc h4 ha hs hm hv => notify ?_, fun hc h4 ha hs => notify (notifyWrite_other ⟨hc, h4, ha⟩ hs),
    moves_of_onNode (unmaskVector v.val) rfl (unmaskVector_eq v.val n)⟩
  · rw [bridgeSnoop_free hs hf, hw]
    exact ⟨rfl, rfl, rfl⟩
  · rw [bridgeSnoop_free hs hf, hw]
  · rw [bridgeSnoop_evicting hs ho he, hk]; rfl
  · rw [bridgeSnoop_evicting hs ho he, hk]; rfl
  · rw [hostBirsp_heard hs hz]
    rcases ho with ho | ho <;> simp [ho, hd, left, onBridge, n, ctx, pva]
  · rw [hostBirsp_heard hs hz]
    simp [ho, hd, left, onBridge, n, ctx, pva]
  · rw [hostBirsp_heard hs hz]
    simp [ho, hd, left, onBridge, n, ctx, pva]
  · rw [hostBirsp_heard hs hz]
    simp [ho, left, onBridge, n, ctx, pva]
  · simp [hostBirsp, h]
  · simp [show hostServed s.nd = true from hs, toHost]; rfl
  · rw [loseHost_served hb hs]
    simp [onBridge]
  · simp [hz]
  · simp [hz]
  · simp [reenumerate, hu]
  · rw [notifyWrite_slot ⟨hc, h4, ha⟩ hs, raiseVector_sent (by exact hm)]
    rfl
  · rw [notifyWrite_slot ⟨hc, h4, ha⟩ hs, raiseVector_pends (by exact hm) (by exact hv)]
    rfl

end Sys2Proof.Organisation
end

section
/-! Commands over the tiles: what they come to where nothing waits, and the error-band record they leave (O44, O45). -/

namespace Sys2Proof.Organisation

open Sys2Proof.Machine Sys2Proof.Safety

/-! ### The error-band record (R489, R558) -/

@[simp] theorem leBytes_length (len n : Nat) : (leBytes len n).length = len := by
  induction len generalizing n with
  | zero => rfl
  | succ len ih => simp [leBytes, ih]

theorem flashRecord_length (w0 w1 : Nat) (es : Bytes) : (flashRecord w0 w1 es).length = 64 + es.length := by
  simp [flashRecord]; omega

theorem bandEntries_length (n : Node) : (bandEntries n).length = 512 := by
  simp [bandEntries, List.length_flatMap]

/-- The erase block of the record takes what is written; nothing else in flash changes. -/
theorem onlyBandRecord_write (s : State) (bs : Bytes) (h : bs.length ≤ 0x10000) :
    OnlyBandRecord s { s with hl := flashWrite (flashErase s.hl 0x6090000 0x10000) 0x6090000 bs } := by
  refine ⟨rfl, rfl, fun a ha => ?_⟩
  show memGet 0xFF (memWrite 0xFF (memClear s.hl.flash 0x6090000 0x10000) 0x6090000 bs) a = _
  rw [memGet_write_other _ _ _ _ _ (by omega), memGet_clear, if_neg (by omega)]

theorem onlyBandRecord_withNode {s u : State} {m : Node} (h : OnlyBandRecord { s with nd := m } u) : OnlyBandRecord s u := h

theorem recordBands_only (s : State) : OnlyBandRecord s (recordBands s) := by
  unfold recordBands
  dsimp only
  split
  · exact ⟨rfl, rfl, fun _ _ => rfl⟩
  · exact onlyBandRecord_write s _ (by rw [flashRecord_length, bandEntries_length]; omega)

theorem recordBands_nd (s : State) : (recordBands s).nd = s.nd := by
  unfold recordBands; dsimp only; split <;> rfl

/-! ### Running over the tiles -/

/-- A command over the tiles of an accepting module comes to what its change and the tiles' own moves make of the node. -/
theorem runs_of_onTiles {i : Instr} {s : State} {f : Node → Node} {m : Node} {P : State → Prop}
    (h : exec i s = .next (onTiles s f)) (ha : accepting s.nd = true) (hm : tilesGo (f s.nd) = m)
    (hp : ∀ u : State, u.nd = m → OnlyBandRecord s u → P u) : Runs i s P := by
  have ht : onTiles s f = recordBands { s with nd := m } := by rw [onTiles, if_pos ha, hm]
  rw [ht] at h
  exact ⟨_, h, hp _ (recordBands_nd _) (onlyBandRecord_withNode (recordBands_only _))⟩

/-- Where what a command makes of the node leaves nothing waiting and no tile moving, that is all that happens. -/
theorem runs_of_still {i : Instr} {s : State} {f : Node → Node} {m : Node} {P : State → Prop}
    (h : exec i s = .next (onTiles s f)) (ha : accepting s.nd = true) (hm : f s.nd = m) (hs : Still m) (hq : Quiet m)
    (hp : ∀ u : State, u.nd = m → OnlyBandRecord s u → P u) : Runs i s P :=
  runs_of_onTiles h ha (by rw [hm, tilesGo_still m hq hs]) hp

/-! ### Tiles as read and replaced -/

theorem tileAt_setTile_same (n : Node) (t : TileId) (h : TileHealth) : tileAt (setTile n t.val h) t.val = h :=
  getAt_putAt_same _ _ _ _

theorem tileAt_setTile_other (n : Node) (t j : Nat) (h : TileHealth) (hj : j ≠ t) : tileAt (setTile n t h) j = tileAt n j :=
  getAt_putAt_other _ _ _ _ _ hj

@[simp] theorem setTile_hremap (n : Node) (t : Nat) (h : TileHealth) : (setTile n t h).flt.hremap = n.flt.hremap := rfl

@[simp] theorem setTile_mem (n : Node) (t : Nat) (h : TileHealth) : (setTile n t h).mem = n.mem := rfl

@[simp] theorem setTile_power (n : Node) (t : Nat) (h : TileHealth) : (setTile n t h).power = n.power := rfl

@[simp] theorem setTile_coh (n : Node) (t : Nat) (h : TileHealth) : (setTile n t h).coh = n.coh := rfl

/-- A tile beyond the last is not there to be changed. -/
theorem tileAt_beyond (n : Node) (t : Nat) (h : 64 ≤ t) : tileAt n t = TileHealth.reset := by
  simp [tileAt, getAt, Vector.getD, Nat.not_lt.2 h]

theorem still_iff (n : Node) : Still n ↔ ∀ t : TileId, (tileAt n t.val).leaving = none ∧ (tileAt n t.val).returning = false := by
  refine forall_congr' fun t => ?_
  have : tileAt n t.val = n.flt.tiles.get t := by
    simp [tileAt, getAt, Vector.getD, Vector.get_eq_getElem]
  rw [this]

theorem tileAt_of_still {n : Node} (h : Still n) (t : Nat) : (tileAt n t).leaving = none ∧ (tileAt n t).returning = false := by
  by_cases ht : t < 64
  · exact (still_iff n).1 h ⟨t, ht⟩
  · rw [tileAt_beyond n t (Nat.le_of_not_lt ht)]; exact ⟨rfl, rfl⟩

/-- A tile replaced by one that does not move either. -/
theorem still_setTile {n : Node} (h : Still n) (t : Nat) {g : TileHealth} (hl : g.leaving = none) (hr : g.returning = false) :
    Still (setTile n t g) := by
  refine (still_iff _).2 fun j => ?_
  by_cases hj : j.val = t
  · subst hj; rw [tileAt_setTile_same]; exact ⟨hl, hr⟩
  · rw [tileAt_setTile_other _ _ _ _ hj]; exact (still_iff n).1 h j

theorem tileAt_countBin_same (n : Node) (t : TileId) : ∃ b, tileAt (countBin n t.val) t.val = { tileAt n t.val with bins := b } :=
  ⟨_, tileAt_setTile_same _ _ _⟩

@[simp] theorem tileAt_bump (n : Node) (off k t : Nat) : tileAt (bump n off k) t = tileAt n t := rfl

theorem still_countBin {n : Node} (h : Still n) (t : Nat) : Still (countBin n t) :=
  still_setTile h t (tileAt_of_still h t).1 (tileAt_of_still h t).2

theorem still_bump {n : Node} (h : Still n) (off k : Nat) : Still (bump n off k) := h

theorem still_logEvent {n : Node} (h : Still n) (e : Event) : Still (logEvent n e) := h

/-! ### What stays quiet -/

theorem quiet_bump {n : Node} (h : Quiet n) (off k : Nat) : Quiet (bump n off k) := h

theorem quiet_logEvent {n : Node} (h : Quiet n) (e : Event) : Quiet (logEvent n e) := h

theorem quiet_setTile {n : Node} (h : Quiet n) (t : Nat) (g : TileHealth) : Quiet (setTile n t g) := h

theorem quiet_countBin {n : Node} (h : Quiet n) (t : Nat) : Quiet (countBin n t) := quiet_setTile h _ _

end Sys2Proof.Organisation
end

section
/-! A containment leaves the health of tiles and regions to its last step: everything it ends on the way keeps the fault
record (O44). -/

namespace Sys2Proof.Organisation

open Sys2Proof.Machine Sys2Proof.Safety

/-! ### Forwards -/

theorem foldl_flt {β : Type} {f : Node → β → Node} (h : ∀ n b, (f n b).flt = n.flt) (l : List β) (n : Node) :
    (l.foldl f n).flt = n.flt := foldl_keeps f (·.flt) h l n

@[simp] theorem dropForwards_flt (n : Node) (d : Nat) (p : Unanswered → Bool) : (dropForwards n d p).flt = n.flt := rfl

@[simp] theorem chunkAgain_flt (n : Node) (k : Nat) (u : Unanswered) : (chunkAgain n k u).flt = n.flt := by
  unfold chunkAgain; split <;> rfl

@[simp] theorem markDirty_flt (n : Node) (ctx : Nat) (l : Nat × Nat) (cmds : List Nat) : (markDirty n ctx l cmds).flt = n.flt := rfl

@[simp] theorem loseForward_flt (n : Node) (u : Unanswered) : (loseForward n u).flt = n.flt := by
  have hd : ∀ n : Node, (match u.purpose with
      | .partRecord k => (match Tbl.find? n.sol.parts k with
        | some p => setPart n k { p with recordDue := true }
        | none => n)
      | .drain k chunk => (match Tbl.find? n.sol.parts k with
        | some p => setPart n k { p with draining := p.draining.filter (· != chunk) }
        | none => n)
      | _ => n).flt = n.flt := by
    intro n; (repeat' split) <;> rfl
  unfold loseForward
  dsimp only
  rw [setPair_flt, dropForwards_flt]
  refine (hd _).trans ?_
  split
  · exact chunkAgain_flt _ _ _
  · split
    · exact foldl_flt (fun n l => markDirty_flt n u.pkt.ctx.toNat l _) _ _
    · rfl

@[simp] theorem markMirrored_flt (n : Node) (why : SentFor) (b : Bool) : (markMirrored n why b).flt = n.flt := by
  unfold markMirrored; (repeat' split) <;> rfl

@[simp] theorem sendForwards_flt (n : Node) (ctx : Nat) (r : Range) (pva vsel : Nat) (i : FwdInfo) (why : SentFor) (bs : Bytes) :
    (sendForwards n ctx r pva vsel i why bs).1.flt = n.flt := by
  unfold sendForwards
  dsimp only
  rw [markMirrored_flt]
  refine foldl_keeps _ (fun a : Node × List (Nat × Nat) => a.1.flt) (fun a q => ?_) _ _
  exact foldl_keeps _ (fun a : Node × List (Nat × Nat) => a.1.flt) (fun a d => sendPacket_flt _ _ _) _ _

@[simp] theorem setPoison_flt (n : Node) (line : Nat) : (setPoison n line).flt = n.flt := by
  unfold setPoison; split <;> rfl

@[simp] theorem poisonLine_flt (n : Node) (ctx : Nat) (r : Range) (line : Nat) : (poisonLine n ctx r line).flt = n.flt := by
  unfold poisonLine; dsimp only; split <;> simp

/-! ### Requests -/

@[simp] theorem respond_flt (n : Node) (p : Packet) (cls st hi op6 : Nat) (bs : Bytes) :
    (respond n p cls st hi op6 bs).flt = n.flt := by
  simp [respond]

@[simp] theorem answerEnded_flt (n : Node) (p : Packet) (st landed ovf nans : Nat) (bs : Bytes) :
    (answerEnded n p st landed ovf nans bs).flt = n.flt := by
  unfold answerEnded; dsimp only; split_ifs <;> simp

@[simp] theorem closeRecord_flt (n : Node) (p : Packet) (st landed ovf nans : Nat) (bs : Bytes) :
    (closeRecord n p st landed ovf nans bs).flt = n.flt := rfl

@[simp] theorem sendTrain_flt (n : Node) (p : Packet) (st : Nat) (bs : Bytes) (k : Nat) : (sendTrain n p st bs k).flt = n.flt := by
  unfold sendTrain
  exact (foldl_flt (fun _ _ => sendPacket_flt _ _ _) _ _).trans (markAnswered_flt _ _)

@[simp] theorem dropNc_flt (n : Node) (t c : Nat) : (dropNc n t c).flt = n.flt := rfl

@[simp] theorem dropReq_flt (n : Node) (tid : Nat) : (dropReq n tid).flt = n.flt := rfl

@[simp] theorem setReq_flt (n : Node) (tid : Nat) (q : Req) : (setReq n tid q).flt = n.flt := rfl

@[simp] theorem answerRead_flt (n : Node) (q : Req) (st : Nat) : (answerRead n q st).flt = n.flt := by
  unfold answerRead; dsimp only; (repeat' split) <;> simp

@[simp] theorem notifyRecord_flt (n : Node) (c : Nat) (x : Counter) (t : Trigger) (st : Nat) :
    (notifyRecord n c x t st).flt = n.flt := by
  simp [notifyRecord]

@[simp] theorem abandonProgram_flt (n : Node) (x : Counter) (t : Trigger) : (abandonProgram n x t).flt = n.flt := by
  unfold abandonProgram; dsimp only; (repeat' split) <;> simp

@[simp] theorem answerWait_flt (n : Node) (p : Packet) (st v : Nat) : (answerWait n p st v).flt = n.flt := by
  unfold answerWait; dsimp only; split <;> simp

@[simp] theorem wakeWaits_flt (n : Node) (c : Nat) : (wakeWaits n c).flt = n.flt := by
  unfold wakeWaits; exact foldl_flt (fun _ _ => answerWait_flt _ _ _ _) _ _

@[simp] theorem setErr_flt (n : Node) (c : Nat) : (setErr n c).flt = n.flt := by
  unfold setErr
  dsimp only
  rw [wakeWaits_flt]
  split
  · rfl
  · split
    · exact abandonProgram_flt _ _ _
    · exact notifyRecord_flt _ _ _ _ _

@[simp] theorem errOf_flt (n : Node) (p : Packet) : (errOf n p).flt = n.flt := by
  unfold errOf; split <;> simp

@[simp] theorem sendReqForward_flt (n : Node) (tid : Nat) (q : Req) (pva vsel w : Nat) (bs : Bytes) :
    (sendReqForward n tid q pva vsel w bs).1.flt = n.flt := by
  unfold sendReqForward; (repeat' split) <;> simp

@[simp] theorem stopStore_flt (n : Node) (tid : Nat) (q : Req) (u : CommitUnit) (st : Nat) : (stopStore n tid q u st).flt = n.flt := by
  unfold stopStore; dsimp only; (repeat' split) <;> simp

@[simp] theorem abortReq_flt (n : Node) (tid : Nat) (b : Bool) : (abortReq n tid b).flt = n.flt := by
  unfold abortReq; dsimp only; (repeat' split) <;> simp

/-! ### Commands -/

@[simp] theorem setCmd_flt (n : Node) (tid : Nat) (c : Cmd) : (setCmd n tid c).flt = n.flt := rfl

@[simp] theorem endCmd_flt (n : Node) (tid st : Nat) (r0 w3 : Word) : (endCmd n tid st r0 w3).flt = n.flt := by
  unfold endCmd; split <;> rfl

@[simp] theorem refuseCmd_flt (n : Node) (tid st : Nat) : (refuseCmd n tid st).flt = n.flt := endCmd_flt _ _ _ _ _

@[simp] theorem engEnd_flt (n : Node) (tid : Nat) (c : Cmd) (st d : Nat) : (engEnd n tid c st d).flt = n.flt := rfl

@[simp] theorem setRun_flt (n : Node) (tid : Nat) (r : ProgRun) : (setRun n tid r).flt = n.flt := rfl

@[simp] theorem setPart_flt (n : Node) (k : Nat) (p : Part) : (setPart n k p).flt = n.flt := rfl

@[simp] theorem setIo_flt (n : Node) (tid : Nat) (io : EngIo) : (setIo n tid io).flt = n.flt := rfl

@[simp] theorem dropIo_flt (n : Node) (tid : Nat) : (dropIo n tid).flt = n.flt := rfl

@[simp] theorem setQuery_flt (n : Node) (tid : Nat) (r : QueryRun) : (setQuery n tid r).flt = n.flt := rfl

@[simp] theorem changeAct_flt (n : Node) (ctx hdr : Nat) (f : ShardAct → ShardAct) : (changeAct n ctx hdr f).flt = n.flt := rfl

@[simp] theorem endIndexCmd_flt (n : Node) (tid st : Nat) (r0 w3 : Word) : (endIndexCmd n tid st r0 w3).flt = n.flt := by
  simp [endIndexCmd]

@[simp] theorem endMut_flt (n : Node) (tid : Nat) (r : MutRun) (st : Nat) : (endMut n tid r st).flt = n.flt := by
  simp [endMut]

@[simp] theorem endHarvest_flt (n : Node) (tid : Nat) (r : HarvestRun) (st : Nat) : (endHarvest n tid r st).flt = n.flt := by
  unfold endHarvest; dsimp only; (repeat' split) <;> simp

@[simp] theorem sweepImages_flt (n : Node) : (sweepImages n).flt = n.flt := rfl

@[simp] theorem fetchMap_flt (n : Node) (ctx : Nat) : (fetchMap n ctx).flt = n.flt := by
  unfold fetchMap; (repeat' split) <;> simp

@[simp] theorem engFetch_flt (n : Node) (ctx : Nat) : (engFetch n ctx).flt = n.flt := by
  unfold engFetch; dsimp only; split <;> simp

@[simp] theorem ioSend_flt (n : Node) (tid : Nat) (io : EngIo) : (ioSend n tid io).flt = n.flt := by
  unfold ioSend; dsimp only; (repeat' split) <;> simp [ioEnd]

@[simp] theorem ioAdopt_flt (n : Node) (tid : Nat) (io : EngIo) : (ioAdopt n tid io).flt = n.flt := by
  unfold ioAdopt; (repeat' split) <;> simp [ioEnd]

@[simp] theorem ioGo_flt (n : Node) (tid : Nat) : (ioGo n tid).flt = n.flt := by
  unfold ioGo; (repeat' split) <;> simp [ioEnd]

@[simp] theorem startWrite_flt (n : Node) (tid ctx pva : Nat) (bs : Bytes) : (startWrite n tid ctx pva bs).flt = n.flt := by
  simp [startWrite]

@[simp] theorem leaveActs_flt (n : Node) (tid : Nat) (r : QueryRun) : (leaveActs n tid r).flt = n.flt := by
  unfold leaveActs; split <;> rfl

@[simp] theorem writeList_flt (n : Node) (tid ctx : Nat) (r : QueryRun) : (writeList n tid ctx r).flt = n.flt := by
  unfold writeList; dsimp only; split <;> simp

@[simp] theorem endQuery_flt (n : Node) (tid ctx : Nat) (r : QueryRun) (st : Nat) : (endQuery n tid ctx r st).flt = n.flt := by
  unfold endQuery; exact writeList_flt _ _ _ _

@[simp] theorem abortCmd_flt (n : Node) (tid : Nat) : (abortCmd n tid).1.flt = n.flt := by
  have hr : ∀ (ps : Tbl Part) (m : Node), (ps.foldl (fun n p =>
      setPart n p.1 { p.2 with restoring := none, drainStopped := false }) m).flt = m.flt :=
    fun ps m => foldl_flt (fun n p => setPart_flt n p.1 _) ps m
  unfold abortCmd
  dsimp only
  (repeat' split) <;> simp [hr]

/-! ### Packets delivered, and the whole -/

@[simp] theorem noteReq_flt (n : Node) (p : Packet) : (noteReq n p).flt = n.flt := rfl

@[simp] theorem refuseRetry_flt (n : Node) (p : Packet) (c d : Nat) : (refuseRetry n p c d).flt = n.flt := by
  simp [refuseRetry]

@[simp] theorem sendWbAck_flt (n : Node) (d seq tag ctx pva st : Nat) : (sendWbAck n d seq tag ctx pva st).flt = n.flt := by
  unfold sendWbAck; split <;> simp

@[simp] theorem dropOperands_flt (n : Node) (t : Nat) : (dropOperands n t).flt = n.flt := rfl

@[simp] theorem abortDelivered_flt (r : Nat) (n : Node) (p : Packet) : (abortDelivered r n p).flt = n.flt := by
  unfold abortDelivered; dsimp only; (repeat' split) <;> simp

/-- A region in containment is marked so, and counted. -/
theorem contain_region (n : Node) (r : RegionId) :
    (getAt (contain n r.val false).flt.regions r.val RegionState.reset).resetting = true ∧
    (getAt (contain n r.val false).flt.regions r.val RegionState.reset).resets =
      (getAt n.flt.regions r.val RegionState.reset).resets + 1 := by
  have hc : ∀ (l : List Nat) (m : Node),
      (l.foldl (fun (a : Node × Nat) tid => let f := abortCmd a.1 tid; (f.1, a.2 + bit01 f.2)) (m, 0)).1.flt = m.flt :=
    fun l m => foldl_keeps _ (fun a : Node × Nat => a.1.flt) (fun a tid => abortCmd_flt a.1 tid) l (m, 0)
  unfold contain
  dsimp only
  rw [getAt_putAt_same]
  refine ⟨rfl, ?_⟩
  show (getAt (Node.flt _).regions r.val RegionState.reset).resets + 1 = _
  rw [foldl_flt (fun n k => dropOperands_flt n (8 * r.val + k)), foldl_flt (abortDelivered_flt r.val), hc,
    foldl_flt (fun n (q : Nat × Bool) => abortReq_flt n q.1 q.2), foldl_flt loseForward_flt]

end Sys2Proof.Organisation
end

section
/-! Errors: counts and spares, failures, lost state and lost lines (O44). -/

namespace Sys2Proof.Organisation

open Sys2Proof.Machine Sys2Proof.Safety

/-! ### A mismatch on a lane slice (R470, R471) -/

/-- A second mismatch on a lane slice takes a spare while there is one. -/
theorem residueMismatch_lane {n : Node} {t : TileId} (k : Nat) (h : (tileAt n t.val).lanesOut < 8) :
    residueMismatch t.val 3 k true n = bump (setTile (logEvent (bump (countBin n t.val) (tileFault t.val 8) 1)
      { otherEvent 3 13 with uclass := 3, unit_ := t.val, data0 := 3, data1 := k }) t.val
        { tileAt (countBin n t.val) t.val with lanesOut := (tileAt n t.val).lanesOut + 1 }) (tileFault t.val 9) 1 := by
  have hl : (tileAt (countBin n t.val) t.val).lanesOut = (tileAt n t.val).lanesOut := by
    obtain ⟨b, hb⟩ := tileAt_countBin_same n t
    rw [hb]
  simp [residueMismatch, unitFails, hl, h]

theorem laneSpare_calm {n : Node} {t : TileId} (k : Nat) (h : (tileAt n t.val).lanesOut < 8) (hs : Still n) (hq : Quiet n) :
    Still (residueMismatch t.val 3 k true n) ∧ Quiet (residueMismatch t.val 3 k true n) := by
  obtain ⟨hl, hr⟩ := tileAt_of_still (still_countBin hs t.val) t.val
  rw [residueMismatch_lane k h]
  constructor
  · refine still_bump (still_setTile (still_logEvent (still_bump (still_countBin hs _) _ _) _) _ ?_ ?_) _ _
    · exact hl
    · exact hr
  · exact quiet_bump (quiet_setTile (quiet_logEvent (quiet_bump (quiet_countBin hq _) _ _) _) _ _) _ _

theorem tileAt_laneSpare {n : Node} {t : TileId} (k : Nat) (h : (tileAt n t.val).lanesOut < 8) : ∃ b,
    tileAt (residueMismatch t.val 3 k true n) t.val = { tileAt n t.val with bins := b, lanesOut := (tileAt n t.val).lanesOut + 1 } := by
  obtain ⟨b, hb⟩ := tileAt_countBin_same n t
  exact ⟨b, by simp only [residueMismatch_lane k h, tileAt_bump, tileAt_setTile_same, hb]⟩

theorem laneSpare_keeps {n : Node} {t : TileId} (k : Nat) (h : (tileAt n t.val).lanesOut < 8) :
    (residueMismatch t.val 3 k true n).flt.hremap = n.flt.hremap ∧ (residueMismatch t.val 3 k true n).mem = n.mem ∧
      (residueMismatch t.val 3 k true n).power = n.power := by
  rw [residueMismatch_lane k h]; simp [countBin]

/-! ### Lines of the tile store (R474) -/

theorem mem_of_mem_tblPut {α : Type} {t : Tbl α} {k : Nat} {v : α} {e : Nat × α} (h : e ∈ Tbl.put t k v) : e = (k, v) ∨ e ∈ t := by
  induction t with
  | nil => simpa [Tbl.put] using h
  | cons x t ih =>
    obtain ⟨j, w⟩ := x
    simp only [Tbl.put] at h
    split at h
    · simpa using h
    · split at h
      · rcases List.mem_cons.1 h with h | h
        · exact .inl h
        · exact .inr (List.mem_cons_of_mem _ h)
      · rcases List.mem_cons.1 h with h | h
        · exact .inr (h ▸ List.mem_cons_self)
        · exact (ih h).imp_right (List.mem_cons_of_mem _)

/-- A bit that stands is taken away alone. -/
theorem testBit_sub_two_pow_of_testBit {v i : Nat} (h : v.testBit i = true) (j : Nat) :
    (v - 2 ^ i).testBit j = if j = i then false else v.testBit j := by
  have hb : v / 2 ^ i % 2 ^ 1 = 1 := by
    have := Nat.testBit_eq_decide_div_mod_eq (x := v) (i := i)
    rw [h] at this; simpa using this.symm
  have hr := testBit_replace v 0 i 1 j
  simp only [hb, Nat.zero_mod, Nat.zero_mul, Nat.add_zero, Nat.one_mul, Nat.zero_testBit] at hr
  rw [hr]
  by_cases hj : j = i
  · simp [hj]
  · rw [if_neg hj, if_neg (by omega)]

theorem setBlock_stack (n : Node) (b : Nat) (t : TileBlock) : (setBlock n b t).mem.stack = n.mem.stack := rfl

theorem quiet_setBlock {n : Node} (h : Quiet n) {b : Nat} {t : TileBlock} (hb : sliceBlock n b = some t) (t' : TileBlock) :
    Quiet (setBlock n b t') := by
  obtain ⟨h1, h2, h3, h4, h5, h6, h7⟩ := h
  refine ⟨h1, h2, h3, h4, h5, h6, fun e he => ?_⟩
  rcases mem_of_mem_tblPut he with he | he
  · have := h7 (b, t) (Tbl.find?_mem _ _ _ hb)
    rw [he]; exact this
  · exact h7 e he

/-- Whether a line is valid, after the block of a line has been replaced. -/
theorem lineValid_setBlock (n : Node) (b : Nat) (t : TileBlock) (k : Nat) :
    lineValid (setBlock n b t) k = if blkOf k = b then t.valid.testBit (k % 64) else lineValid n k := by
  by_cases hk : blkOf k = b
  · rw [if_pos hk]; simp [lineValid, sliceBlock, setBlock, hk]
  · rw [if_neg hk, lineValid, sliceBlock, setBlock]
    simp only [Tbl.find?_put_other _ _ _ _ hk]; rfl

/-- A clean line that a slice cannot read leaves it. -/
theorem tileUnreadable_clean {n : Node} {ctx line : Nat} {r : Range} {b : TileBlock} (hb : sliceBlock n (blkOf line) = some b)
    (hv : b.valid.testBit (line % 64) = true) (hd : b.dirty.testBit (line % 64) = false) (hp : b.pinned = false) :
    tileUnreadable n ctx r line = setBlock n (blkOf line) { b with valid := b.valid - 2 ^ (line % 64) } := by
  simp [tileUnreadable, hb, hv, hd, hp]

theorem lineValid_cleared {n : Node} {line : Nat} {b : TileBlock} (hb : sliceBlock n (blkOf line) = some b)
    (hv : b.valid.testBit (line % 64) = true) (k : Nat) :
    lineValid (setBlock n (blkOf line) { b with valid := b.valid - 2 ^ (line % 64) }) k =
      if k = line then false else lineValid n k := by
  rw [lineValid_setBlock]
  dsimp only
  rw [testBit_sub_two_pow_of_testBit hv]
  by_cases hk : k = line
  · simp [hk]
  · rw [if_neg hk]
    by_cases hkb : blkOf k = blkOf line
    · rw [if_pos hkb, if_neg (by unfold blkOf at hkb; omega)]
      simp [lineValid, hkb, hb]
    · rw [if_neg hkb]

/-! ### A region that accepts again (R482) -/

/-- With no ring on, nothing waits for a tracker. -/
theorem trackerFreed_of_rings_nil {n : Node} (h : n.rings = []) (r : Nat) : trackerFreed r n = n := by
  simp [trackerFreed, h]

/-- Of two values put at one key the second stands. -/
theorem tblPut_put {α : Type} (t : Tbl α) (k : Nat) (v w : α) : Tbl.put (Tbl.put t k v) k w = Tbl.put t k w := by
  induction t with
  | nil => simp [Tbl.put]
  | cons x t ih =>
    obtain ⟨j, y⟩ := x
    by_cases h1 : k < j
    · simp [Tbl.put, h1]
    · by_cases h2 : k = j
      · simp [Tbl.put, h2]
      · simp [Tbl.put, h1, h2, ih]

/-! ### Lost state (R477, R478, R481) -/

/-- A counter that nothing watches, lost: it stands at the maximum with its error bit. -/
theorem setCounterMax_plain {n : Node} {c : Nat} (hw : n.ctr.waits = []) (ht : (counterOf n c).trig = none) :
    setErr (setCounter n c { counterOf n c with value := counterMax }) c =
      setCounter n c { counterOf n c with value := counterMax, err := true } := by
  rw [setErr_plain (by exact hw) (by rw [counterOf_setCounter_same]; exact ht), counterOf_setCounter_same]
  simp only [setCounter, tblPut_put]

theorem regionFails_contained {n : Node} {r : Nat} (hg : (getAt n.flt.regions r RegionState.reset).resetting = false)
    (hd : (n.flt.regions.toList.filter fun g => g.resetting).length < 2)
    (hr : (getAt n.flt.regions r RegionState.reset).resets < cfgNum n 0x0302) : regionFails n r false = contain n r false := by
  simp [regionFails, hg, Nat.not_le.2 hd, Nat.not_le.2 hr]

theorem regionReset_idle {n : Node} {r : Nat} (hg : (getAt n.flt.regions r RegionState.reset).resetting = false) :
    regionReset r n = n := by
  simp [regionReset, hg]

/-- The node with a region out of its containment. -/
def regionBack (n : Node) (r : Nat) : Node :=
  let g := getAt n.flt.regions r RegionState.reset
  { n with flt := { n.flt with regions := putAt n.flt.regions r { g with resetting := false, ended := 0, masque := false } } }

theorem regionReset_done {n : Node} {r : Nat} (hg : (getAt n.flt.regions r RegionState.reset).resetting = true) (hr : n.rings = []) :
    ∃ e, regionReset r n = bump (logEvent (regionBack n r) e) (moduleFault (3 + r)) 1 := by
  refine ⟨{ otherEvent 3 16 with
    uclass := 4, unit_ := r, data0 := (getAt n.flt.regions r RegionState.reset).ended
    data1 := bit01 (getAt n.flt.regions r RegionState.reset).masque }, ?_⟩
  simp only [regionReset, hg, Bool.not_true, Bool.false_eq_true, if_false]
  exact trackerFreed_of_rings_nil (by exact hr) r

/-! ### Lost lines (R474) -/

theorem lineFails_unmapped {n : Node} {line : Nat} (h : spanOf n line = none) (k : LineFault) : lineFails line k n = n := by
  simp [lineFails, h]

theorem uncorrectableLine_unmapped {n : Node} {line : Nat} (h : spanOf n line = none) (k : LineFault) (hk : (k == .tile) = false) :
    uncorrectableLine line k n = logEvent (bump n (tileFault (homeTile n line) 7) 1)
      { otherEvent 3 17 with uclass := 3, unit_ := homeTile n line, data0 := line * 64 } := by
  simp only [uncorrectableLine, hk, Bool.false_eq_true, if_false]
  exact lineFails_unmapped (by exact h) k

/-- The error of a tile-store line is counted, in its home tile's bin too, and logged. -/
def lineCounted (n : Node) (line : Nat) : Node :=
  logEvent (countBin (bump n (tileFault (homeTile n line) 4) 1) (homeTile n line))
    { otherEvent 3 17 with uclass := 3, unit_ := homeTile n line, data0 := line * 64 }

theorem lineCounted_mem (n : Node) (line : Nat) : (lineCounted n line).mem = n.mem := by simp [lineCounted, countBin]

theorem lineCounted_coh (n : Node) (line : Nat) : (lineCounted n line).coh = n.coh := by simp [lineCounted, countBin]

theorem still_lineCounted {n : Node} (h : Still n) (line : Nat) : Still (lineCounted n line) :=
  still_logEvent (still_countBin (still_bump h _ _) _) _

theorem quiet_lineCounted {n : Node} (h : Quiet n) (line : Nat) : Quiet (lineCounted n line) :=
  quiet_logEvent (quiet_countBin (quiet_bump h _ _) _) _

theorem sliceBlock_lineCounted (n : Node) (line b : Nat) : sliceBlock (lineCounted n line) b = sliceBlock n b := by
  rw [sliceBlock, lineCounted_mem]; rfl

theorem lineValid_lineCounted (n : Node) (line k : Nat) : lineValid (lineCounted n line) k = lineValid n k := by
  unfold lineValid; rw [sliceBlock_lineCounted]

/-- A clean line of the tile store that cannot be read is counted and leaves its slice. -/
theorem uncorrectableLine_clean {n : Node} {line : Nat} {x : Nat × Range} {b : TileBlock} (hx : spanOf n line = some x)
    (hb : sliceBlock n (blkOf line) = some b) (hv : b.valid.testBit (line % 64) = true)
    (hd : b.dirty.testBit (line % 64) = false) (hp : b.pinned = false) :
    uncorrectableLine line .tile n =
      setBlock (lineCounted n line) (blkOf line) { b with valid := b.valid - 2 ^ (line % 64) } := by
  have hm : ∀ m : Node, spanOf m line = some x → lineFails line .tile m = tileUnreadable m x.1 x.2 line := by
    intro m h; simp [lineFails, h]
  have he : uncorrectableLine line .tile n = lineFails line .tile (lineCounted n line) := by
    simp only [uncorrectableLine, beq_self_eq_true, if_true]; rfl
  rw [he, hm _ (by exact hx)]
  exact tileUnreadable_clean (by rw [sliceBlock_lineCounted]; exact hb) hv hd hp

/-- Settles O44. Each command over the tiles comes to its change of the node where that leaves nothing waiting and no tile moving. -/
theorem errorsAreHandled : Obligations.ErrorsAreHandled := by
  unfold Obligations.ErrorsAreHandled
  intro s t r c line n on h g ends count
  have done : ∀ {i : Instr} {m : Node} (f : Node → Node), exec i s = .next (onTiles s f) → f n = m → ends i m :=
    fun f hi hf ha hs hq => runs_of_still hi ha hf hs hq fun u hu hb => ⟨hu, hb⟩
  refine ⟨fun a k => done _ rfl rfl, ?_, done _ rfl rfl, fun site tries ht => done _ rfl (if_neg (by omega)),
    fun site tries ht => done _ rfl (if_pos ht), fun hg => done _ rfl (if_pos hg), fun hg => done _ rfl (if_neg (by rw [Bool.not_eq_true]; exact hg)),
    done _ rfl rfl, done _ rfl rfl, fun x z => done _ rfl rfl, fun x z => done _ rfl rfl, ?_, ?_, ?_, ?_, ?_, ?_, ?_⟩
  · intro k ha hs hq hl
    obtain ⟨hs', hq'⟩ := laneSpare_calm k.toNat hl hs hq
    obtain ⟨b, ht⟩ := tileAt_laneSpare k.toNat hl
    obtain ⟨hr, hm, hp⟩ := laneSpare_keeps k.toNat hl
    refine runs_of_still (m := residueMismatch t.val 3 k.toNat true n) rfl ha rfl hs' hq' fun u hu ho => ?_
    rw [hu]
    exact ⟨ho, by rw [ht], by rw [ht], by rw [ht]; exact (tileAt_of_still hs t.val).1, hr, hm, hp⟩
  · intro x ha hs hq
    exact runs_of_still rfl ha rfl hs hq fun u hu hb => by rw [hu]; exact ⟨hb, rfl, rfl, rfl, rfl⟩
  · intro ha hw ht hs hq
    have hf : stateFails (.counter c) n = setCounter n c.toNat { counterOf n c.toNat with value := counterMax, err := true } :=
      setCounterMax_plain hw ht
    refine runs_of_still rfl ha hf hs hq fun u hu hb => ?_
    rw [hu, counterOf_setCounter_same]
    exact ⟨hb, rfl, rfl, fun k hk => counterOf_setCounter_other _ _ _ _ hk, rfl, rfl⟩
  · intro hg hd hr ha hs hq
    obtain ⟨hres, hcount⟩ := contain_region n r
    exact runs_of_still rfl ha (regionFails_contained hg hd hr) hs hq fun u hu hb =>
      ⟨hb, hu, by rw [hu]; exact hres, by rw [hu]; exact hcount⟩
  · exact fun hg => done _ rfl (regionReset_idle hg)
  · intro hg hr ha hs hq
    obtain ⟨e, hm⟩ := regionReset_done hg hr
    refine runs_of_still rfl ha hm hs hq fun u hu hb => ?_
    rw [hu]
    exact ⟨hb, getAt_putAt_same _ _ _ _, logEvent_last _ _, rfl, rfl⟩
  · intro hl ha hs hq
    refine runs_of_still rfl ha (uncorrectableLine_unmapped hl .stack (by decide)) hs hq fun u hu hb => ?_
    rw [hu]
    exact ⟨hb, rfl, rfl, rfl, logEvent_last _ _⟩
  · intro x b hx hc hb hv hd hp ha hs hq
    have hb' : sliceBlock (lineCounted n line) (blkOf line) = some b := by rw [sliceBlock_lineCounted]; exact hb
    refine runs_of_still rfl ha (uncorrectableLine_clean hx hb hv hd hp) (still_lineCounted hs line)
      (quiet_setBlock (quiet_lineCounted hq line) hb' _) fun u hu ho => ?_
    rw [hu]
    refine ⟨ho, by rw [lineValid_cleared hb' hv, if_pos rfl], ?_, ?_, fun k hk => ?_⟩
    · rw [setBlock_stack, lineCounted_mem]
    · exact lineCounted_coh n line
    · rw [lineValid_cleared hb' hv, if_neg hk, lineValid_lineCounted]

end Sys2Proof.Organisation
end

section
/-! Tiles out of service and back, Vigil's patrol and Masque's injections (O45). -/

namespace Sys2Proof.Organisation

open Sys2Proof.Machine Sys2Proof.Safety

/-! ### Slots that are handed over (R28, R29) -/

/-- No slice holds a block, nothing is lent, and no slot moves: a tile's slots can be handed over at once. -/
def NothingHeld (n : Node) : Prop := n.trk.reqs = [] ∧ n.mem.blocks = [] ∧ n.coh.lent = []

/-- The map of slots to tiles with some slots given to a tile. -/
def handedMap (n : Node) (u : Nat) (ks : List Nat) : Vector (Vector Nat 8) 8 :=
  Vector.ofFn fun (r : Fin 8) => Vector.ofFn fun (s : Fin 8) =>
    if ks.contains (8 * r.val + s.val) then u else (n.flt.hremap.get r).get s

/-- The slots handed to a tile, and no longer moving. -/
def handed (n : Node) (u : Nat) (ks : List Nat) : Node :=
  slotsMoved { n with flt := { n.flt with hremap := handedMap n u ks } } ks

theorem handSlots_nothingHeld {n : Node} (h : NothingHeld n) (t u : Nat) (ks : List Nat) :
    handSlots n t u ks = some (handed n u ks) := by
  obtain ⟨hr, hb, hl⟩ := h
  have hs : slotBlocks n ks = [] := by simp [slotBlocks, hb]
  have hn : slotsBusy n ks = false := by simp [slotsBusy, hr]
  simp only [handSlots, hn, hs, Bool.false_eq_true, if_false, List.foldl_nil, List.any_nil]
  have hg : Tbl.getD n.coh.lent t [] = [] := by rw [hl]; rfl
  simp only [hg, List.filter_nil, List.isEmpty_nil, if_true]
  rfl

theorem slotTile_handed (n : Node) (u : Nat) (ks : List Nat) (r k : Fin 8) :
    slotTile (handed n u ks) r.val k.val = if ks.contains (8 * r.val + k.val) then u else slotTile n r.val k.val := by
  simp [slotTile, handed, slotsMoved, handedMap, getAt, Vector.getD, Vector.get_eq_getElem]

theorem moving_handed {n : Node} {ks : List Nat} (h : n.flt.moving = []) (u : Nat) : (handed (moveSlots n ks) u ks).flt.moving = [] := by
  simp [handed, slotsMoved, moveSlots, h]

theorem mem_slotsOf (n : Node) (t : Nat) (r k : Fin 8) :
    8 * r.val + k.val ∈ slotsOf n t ↔ slotTile n r.val k.val = t ∧ r.val = t / 8 := by
  simp only [slotsOf, List.mem_map, List.mem_filter, List.mem_range, beq_iff_eq]
  constructor
  · rintro ⟨s, ⟨hs, ht⟩, he⟩
    obtain ⟨hr, hk⟩ : r.val = t / 8 ∧ k.val = s := by omega
    exact ⟨by rw [hr, hk]; exact ht, hr⟩
  · rintro ⟨ht, hr⟩
    exact ⟨k.val, ⟨k.isLt, by rw [← hr]; exact ht⟩, by omega⟩

/-! ### One tile that moves -/

/-- Of the tiles, only one is picked. -/
theorem filter_tiles_single {p : Nat → Bool} (t : TileId) (h : ∀ j : TileId, p j.val = decide (j = t)) :
    (List.range 64).filter p = [t.val] := by
  have hp : (List.range 64).filter p = (List.range 64).filter (· == t.val) :=
    List.filter_congr fun j hj => by
      rw [h ⟨j, List.mem_range.1 hj⟩, Bool.eq_iff_iff]; simp [Fin.ext_iff]
  rw [hp, List.filter_beq, List.count_eq_one_of_mem List.nodup_range (List.mem_range.2 t.isLt)]
  rfl

theorem filter_tiles_none {p : Nat → Bool} (h : ∀ j : TileId, p j.val = false) : (List.range 64).filter p = [] :=
  List.filter_eq_nil_iff.2 fun j hj => by rw [h ⟨j, List.mem_range.1 hj⟩]; exact Bool.false_ne_true

/-- With one tile on its way out and none on its way in, what that tile does is all that happens. -/
theorem tilesGo_leaves {n m : Node} (t : TileId) (hr : ∀ j : TileId, (tileAt n j.val).returning = false)
    (hl : ∀ j : TileId, (tileAt n j.val).leaving.isSome = decide (j = t)) (hm : leaveGo n t.val = m) (hq : Quiet m) :
    tilesGo n = m := by
  have h1 : ((List.range 64).filter fun t => (tileAt n t).returning).foldl returnGo n = n := by rw [filter_tiles_none hr]; rfl
  have h2 : ((List.range 64).filter fun t => (tileAt n t).leaving.isSome).foldl leaveGo n = m := by
    rw [filter_tiles_single t hl]; exact hm
  unfold tilesGo
  simp only [h1, h2, settle_quiet m hq]

/-- With one tile on its way in and none on its way out afterwards, what that tile does is all that happens. -/
theorem tilesGo_returns {n m : Node} (t : TileId) (hr : ∀ j : TileId, (tileAt n j.val).returning = decide (j = t))
    (hm : returnGo n t.val = m) (hl : ∀ j : TileId, (tileAt m j.val).leaving.isSome = false) (hq : Quiet m) :
    tilesGo n = m := by
  have h1 : ((List.range 64).filter fun t => (tileAt n t).returning).foldl returnGo n = m := by
    rw [filter_tiles_single t hr]; exact hm
  have h2 : ((List.range 64).filter fun t => (tileAt m t).leaving.isSome).foldl leaveGo m = m := by rw [filter_tiles_none hl]; rfl
  unfold tilesGo
  simp only [h1, h2, settle_quiet m hq]

/-! ### A tile that leaves service (R29, R32) -/

/-- A tile leaving, with the slots it serves on the move. -/
def leavingNode (n : Node) (t : Nat) (gate : Bool) (cause : Nat) : Node :=
  moveSlots (setTile n t { tileAt n t with leaving := some (gate, cause), returning := false }) (slotsOf n t)

/-- The successor depends on the other tiles of the region alone. -/
theorem successorTile_congr {n m : Node} {t : Nat} (h : ∀ j, j ≠ t → tileAt m j = tileAt n j) : successorTile m t = successorTile n t := by
  unfold successorTile
  refine List.find?_congr fun u hu => ?_
  obtain ⟨k, hk, rfl⟩ := List.mem_map.1 hu
  have hk := List.mem_range.1 hk
  have := h (8 * (t / 8) + (t % 8 + 1 + k) % 8) (by omega)
  rw [tileAt, tileAt] at this
  simp only [this]

theorem startLeave_retire {n : Node} {t v : Nat} {cause : Nat} (hr : (tileAt n t).retired = false) (hg : (tileAt n t).gated = false)
    (hl : (tileAt n t).leaving = none) (hv : successorTile n t = some v) :
    startLeave n t false cause = leavingNode n t false cause := by
  simp [startLeave, hr, hg, hl, hv, leavingNode]

theorem startLeave_gate {n : Node} {t v : Nat} {cause : Nat} (hr : (tileAt n t).retired = false) (hg : (tileAt n t).gated = false)
    (hs : (tileAt n t).leaving = none ∧ (tileAt n t).returning = false) (hv : successorTile n t = some v) (hb : n.mem.blocks = []) :
    startLeave n t true cause = leavingNode n t true cause := by
  obtain ⟨hl, hn⟩ := hs
  have hp : ∀ u, pinnedOn n u = 0 := fun u => by simp [pinnedOn, hb]
  have ht : tileLive (tileAt n t) = true := by simp [tileLive, hr, hg, hl]
  have hd : { tileAt n t with leaving := some (true, cause), returning := false } =
      { tileAt n t with leaving := some (true, cause) } := by rw [← hn]
  rw [leavingNode, hd]
  simp [startLeave, hr, hv, hp, ht]

/-- The last live tile of a region does not gate. -/
theorem startLeave_alone {n : Node} {t : Nat} (hv : successorTile n t = none) (cause : Nat) : startLeave n t true cause = n := by
  simp [startLeave, hv]

theorem startLeave_retired {n : Node} {t : Nat} (hr : (tileAt n t).retired = true) (gate : Bool) (cause : Nat) :
    startLeave n t gate cause = n := by
  simp [startLeave, hr]

/-- The health of a tile that has left: gated, or retired and marked so. -/
def leftTile (h : TileHealth) (gate : Bool) : TileHealth :=
  let h := { h with leaving := none, gated := gate, retired := h.retired || !gate }
  if gate then h else { h with state := putField h.state 45 45 1 }

/-- The node once a tile has left: its slots with its successor, its operand buffer empty, its power domain off. -/
def leftNode (n : Node) (t u : Nat) (gate : Bool) : Node :=
  let m := dropOperands (handed n u (slotsOf n t)) t
  setTile { m with power := { m.power with domains := m.power.domains.filter (· != 3 + t) } } t (leftTile (tileAt n t) gate)

theorem quiet_leavingNode {n : Node} (h : Quiet n) (t : Nat) (gate : Bool) (cause : Nat) : Quiet (leavingNode n t gate cause) := h

theorem quiet_leftNode {n : Node} (h : Quiet n) (t u : Nat) (gate : Bool) : Quiet (leftNode n t u gate) := h

theorem nothingHeld_leavingNode {n : Node} (h : NothingHeld n) (t : Nat) (gate : Bool) (cause : Nat) :
    NothingHeld (leavingNode n t gate cause) := h

theorem tileAt_leavingNode_same (n : Node) (t : TileId) (gate : Bool) (cause : Nat) :
    tileAt (leavingNode n t.val gate cause) t.val =
      { tileAt n t.val with leaving := some (gate, cause), returning := false } := tileAt_setTile_same n t _

theorem tileAt_leavingNode_other (n : Node) {t j : Nat} (gate : Bool) (cause : Nat) (hj : j ≠ t) :
    tileAt (leavingNode n t gate cause) j = tileAt n j := tileAt_setTile_other n t j _ hj

theorem leaveGo_nothingHeld {n : Node} {t u cause : Nat} {gate : Bool} (h : NothingHeld n)
    (hl : (tileAt n t).leaving = some (gate, cause)) (hv : successorTile n t = some u) :
    ∃ e, leaveGo n t = logEvent (leftNode n t u gate) e := by
  refine ⟨{ otherEvent 3 12 with uclass := 3, unit_ := t, data0 := t, data1 := cause, data2 := u }, ?_⟩
  simp only [leaveGo, hl, hv, handSlots_nothingHeld h]
  rfl

/-- What a retirement or a gating comes to where nothing is held. -/
theorem tilesGo_leavingNode {n : Node} {t : TileId} {u cause : Nat} {gate : Bool} (hs : Still n) (hq : Quiet n)
    (hn : NothingHeld n) (hv : successorTile n t.val = some u) :
    ∃ e, tilesGo (leavingNode n t.val gate cause) = logEvent (leftNode (leavingNode n t.val gate cause) t.val u gate) e := by
  have hsame := tileAt_leavingNode_same n t gate cause
  obtain ⟨e, he⟩ := leaveGo_nothingHeld (nothingHeld_leavingNode hn t.val gate cause) (by rw [hsame])
    ((successorTile_congr fun j hj => tileAt_leavingNode_other n gate cause hj).trans hv)
  refine ⟨e, tilesGo_leaves t (fun j => ?_) (fun j => ?_) he
    (quiet_logEvent (quiet_leftNode (quiet_leavingNode hq _ _ _) _ _ _) _)⟩
  · by_cases hj : j = t
    · rw [hj, hsame]
    · rw [tileAt_leavingNode_other n gate cause (Fin.val_ne_of_ne hj)]; exact (tileAt_of_still hs j.val).2
  · by_cases hj : j = t
    · rw [hj, hsame]; simp
    · rw [tileAt_leavingNode_other n gate cause (Fin.val_ne_of_ne hj), (tileAt_of_still hs j.val).1]; simp [hj]

theorem tileAt_leftNode_same (n : Node) (t : TileId) (u : Nat) (gate : Bool) :
    tileAt (leftNode n t.val u gate) t.val = leftTile (tileAt n t.val) gate := tileAt_setTile_same _ t _

theorem tileAt_leftNode_other (n : Node) {t j : Nat} (u : Nat) (gate : Bool) (hj : j ≠ t) :
    tileAt (leftNode n t u gate) j = tileAt n j := tileAt_setTile_other _ t j _ hj

theorem leftNode_domains (n : Node) (t u : Nat) (gate : Bool) :
    ¬ (leftNode n t u gate).power.domains.contains (3 + t) := by
  simp [leftNode]

theorem slotTile_leftNode (n : Node) (t u : Nat) (gate : Bool) (r k : Fin 8) :
    slotTile (leftNode n t u gate) r.val k.val =
      if slotTile n r.val k.val = t ∧ r.val = t / 8 then u else slotTile n r.val k.val := by
  have h := slotTile_handed n u (slotsOf n t) r k
  simp only [List.contains_iff_mem, mem_slotsOf] at h
  exact h

@[simp] theorem setTile_moving (n : Node) (t : Nat) (h : TileHealth) : (setTile n t h).flt.moving = n.flt.moving := rfl

theorem slotsOf_leavingNode (n : Node) (t j : Nat) (gate : Bool) (cause : Nat) :
    slotsOf (leavingNode n t gate cause) j = slotsOf n j := rfl

theorem slotTile_leavingNode (n : Node) (t : Nat) (gate : Bool) (cause r k : Nat) :
    slotTile (leavingNode n t gate cause) r k = slotTile n r k := rfl

theorem leavingNode_mem (n : Node) (t : Nat) (gate : Bool) (cause : Nat) : (leavingNode n t gate cause).mem = n.mem := rfl

theorem moving_leftNode {n : Node} (h : n.flt.moving = []) (t u : Nat) (gate : Bool) (cause : Nat) :
    (leftNode (leavingNode n t gate cause) t u gate).flt.moving = [] := by
  rw [leftNode, setTile_moving, slotsOf_leavingNode, leavingNode]
  refine moving_handed (ks := slotsOf n t) ?_ u
  rw [setTile_moving]; exact h

theorem leftNode_mem (n : Node) (t u : Nat) (gate : Bool) : (leftNode n t u gate).mem = n.mem := by
  rw [leftNode, setTile_mem]; rfl

/-- A tile has left: gated or retired, its slots with its successor, its power domain off; nothing else of what is said here changed. -/
structure HasLeft (n m : Node) (t : TileId) (v : Nat) (gate : Bool) : Prop where
  leaving : (tileAt m t.val).leaving = none
  gated : (tileAt m t.val).gated = gate
  retired : (tileAt m t.val).retired = ((tileAt n t.val).retired || !gate)
  domains : ¬ m.power.domains.contains (3 + t.val)
  slots : ∀ r k : Fin 8, slotTile m r.val k.val =
    if slotTile n r.val k.val = t.val ∧ r.val = t.val / 8 then v else slotTile n r.val k.val
  moving : m.flt.moving = []
  mem : m.mem = n.mem
  others : ∀ j : TileId, j ≠ t → tileAt m j.val = tileAt n j.val

theorem hasLeft_logEvent {n m : Node} {t : TileId} {v : Nat} {gate : Bool} (h : HasLeft n m t v gate) (e : Event) :
    HasLeft n (logEvent m e) t v gate := ⟨h.1, h.2, h.3, h.4, h.5, h.6, h.7, h.8⟩

theorem hasLeft_leftNode {n : Node} (t : TileId) (v cause : Nat) (gate : Bool) (hm : n.flt.moving = []) :
    HasLeft n (leftNode (leavingNode n t.val gate cause) t.val v gate) t v gate := by
  have ht := (tileAt_leftNode_same (leavingNode n t.val gate cause) t v gate).trans
    (congrArg (leftTile · gate) (tileAt_leavingNode_same n t gate cause))
  refine ⟨?_, ?_, ?_, leftNode_domains _ _ _ _, fun r k => ?_, moving_leftNode hm _ _ _ _, ?_, fun j hj => ?_⟩
  · rw [ht]; cases gate <;> rfl
  · rw [ht]; cases gate <;> rfl
  · rw [ht]; cases gate <;> rfl
  · rw [slotTile_leftNode, slotTile_leavingNode]
  · rw [leftNode_mem, leavingNode_mem]
  · rw [tileAt_leftNode_other _ _ _ (Fin.val_ne_of_ne hj), tileAt_leavingNode_other _ _ _ (Fin.val_ne_of_ne hj)]

/-- A tile that starts to leave where nothing is held leaves at once. -/
theorem runs_leaving {i : Instr} {s : State} {t : TileId} {v cause : Nat} {gate : Bool} {f : Node → Node}
    (hi : exec i s = .next (onTiles s f)) (hf : f s.nd = leavingNode s.nd t.val gate cause)
    (ha : accepting s.nd = true) (hs : Still s.nd) (hq : Quiet s.nd) (hn : NothingHeld s.nd) (hm : s.nd.flt.moving = [])
    (hv : successorTile s.nd t.val = some v) : Runs i s fun u => HasLeft s.nd u.nd t v gate ∧ OnlyBandRecord s u := by
  obtain ⟨e, he⟩ := tilesGo_leavingNode (cause := cause) (gate := gate) hs hq hn hv
  refine runs_of_onTiles hi ha ((congrArg tilesGo hf).trans he) fun u hu hb => ⟨?_, hb⟩
  rw [hu]
  exact hasLeft_logEvent (hasLeft_leftNode t v cause gate hm) e

/-! ### A gated tile that comes back (R31, R32) -/

/-- A gated tile coming back, its power domain on and its slots on the move. -/
def returningNode (n : Node) (t : Nat) : Node :=
  let domains := if n.power.domains.contains (3 + t) then n.power.domains else n.power.domains ++ [3 + t]
  moveSlots (setTile { n with power := { n.power with domains := domains } } t { tileAt n t with returning := true }) (slotsBack n t)

theorem startReturn_gated {n : Node} {t : Nat} (hg : (tileAt n t).gated = true) (hr : (tileAt n t).retired = false)
    (hs : (tileAt n t).returning = false) : startReturn n t = returningNode n t := by
  simp [startReturn, hg, hr, hs, returningNode]

theorem startReturn_ungated {n : Node} {t : Nat} (hg : (tileAt n t).gated = false) : startReturn n t = n := by
  simp [startReturn, hg]

theorem tileAt_returningNode_same (n : Node) (t : TileId) :
    tileAt (returningNode n t.val) t.val = { tileAt n t.val with returning := true } := tileAt_setTile_same _ t _

theorem tileAt_returningNode_other (n : Node) {t j : Nat} (hj : j ≠ t) : tileAt (returningNode n t) j = tileAt n j :=
  tileAt_setTile_other _ t j _ hj

/-- The slots that a tile takes back depend on the other tiles alone. -/
theorem slotsBack_congr {n m : Node} {t : Nat} (h : ∀ j, j ≠ t → tileAt m j = tileAt n j) : slotsBack m t = slotsBack n t := by
  have hp : (fun u => u == t || tileLive (tileAt m u)) = fun u => u == t || tileLive (tileAt n u) := by
    funext u
    by_cases hu : u = t
    · simp [hu]
    · rw [h u hu]
  simp only [slotsBack, hp]

/-- The node once a tile is back in service. -/
def backNode (n : Node) (t : Nat) : Node :=
  setTile (handed n t (slotsBack n t)) t { tileAt n t with gated := false, returning := false }

theorem returnGo_nothingHeld {n : Node} {t : Nat} (h : NothingHeld n) (hr : (tileAt n t).returning = true) :
    returnGo n t = backNode n t := by
  simp only [returnGo, hr, handSlots_nothingHeld h]
  rfl

theorem quiet_returningNode {n : Node} (h : Quiet n) (t : Nat) : Quiet (returningNode n t) := h

theorem quiet_backNode {n : Node} (h : Quiet n) (t : Nat) : Quiet (backNode n t) := h

theorem nothingHeld_returningNode {n : Node} (h : NothingHeld n) (t : Nat) : NothingHeld (returningNode n t) := h

theorem tileAt_backNode_same (n : Node) (t : TileId) :
    tileAt (backNode n t.val) t.val = { tileAt n t.val with gated := false, returning := false } := tileAt_setTile_same _ t _

theorem tileAt_backNode_other (n : Node) {t j : Nat} (hj : j ≠ t) : tileAt (backNode n t) j = tileAt n j :=
  tileAt_setTile_other _ t j _ hj

/-- What an ungating comes to where nothing is held. -/
theorem tilesGo_returningNode {n : Node} {t : TileId} (hs : Still n) (hq : Quiet n) (hn : NothingHeld n) :
    tilesGo (returningNode n t.val) = backNode (returningNode n t.val) t.val := by
  have hsame := tileAt_returningNode_same n t
  refine tilesGo_returns t (fun j => ?_) (returnGo_nothingHeld (nothingHeld_returningNode hn _) (by rw [hsame])) (fun j => ?_)
    (quiet_backNode (quiet_returningNode hq _) _)
  · by_cases hj : j = t
    · rw [hj, hsame]; simp
    · rw [tileAt_returningNode_other n (Fin.val_ne_of_ne hj), (tileAt_of_still hs j.val).2]; simp [hj]
  · by_cases hj : j = t
    · rw [hj, tileAt_backNode_same, hsame]; simp [(tileAt_of_still hs t.val).1]
    · rw [tileAt_backNode_other _ (Fin.val_ne_of_ne hj), tileAt_returningNode_other n (Fin.val_ne_of_ne hj),
        (tileAt_of_still hs j.val).1]; rfl

theorem returningNode_domains (n : Node) (t : Nat) : (backNode (returningNode n t) t).power.domains.contains (3 + t) = true := by
  show (if n.power.domains.contains (3 + t) then n.power.domains else n.power.domains ++ [3 + t]).contains (3 + t) = true
  split
  · assumption
  · simp

theorem slotTile_backNode_eq (n : Node) (t r k : Nat) : slotTile (backNode n t) r k = slotTile (handed n t (slotsBack n t)) r k := rfl

/-- The slots that a tile takes back are served by it. -/
theorem slotTile_backNode (n : Node) (t : TileId) (k : Fin 8) (h : t.val / 8 * 8 + k.val ∈ slotsBack n t.val) :
    slotTile (backNode (returningNode n t.val) t.val) (t.val / 8) k.val = t.val := by
  have hb := slotsBack_congr (n := n) fun j hj => tileAt_returningNode_other n (t := t.val) hj
  rw [slotTile_backNode_eq, hb]
  refine (slotTile_handed _ _ _ ⟨t.val / 8, by omega⟩ k).trans (if_pos ?_)
  rw [List.contains_iff_mem, Nat.mul_comm]
  exact h

theorem moving_backNode {n : Node} (h : n.flt.moving = []) (t : TileId) :
    (backNode (returningNode n t.val) t.val).flt.moving = [] := by
  have hb := slotsBack_congr (n := n) fun j hj => tileAt_returningNode_other n (t := t.val) hj
  rw [backNode, setTile_moving, hb, returningNode]
  refine moving_handed (ks := slotsBack n t) ?_ _
  rw [setTile_moving]; exact h

theorem backNode_mem (n : Node) (t : Nat) : (backNode (returningNode n t) t).mem = n.mem := by
  rw [backNode, setTile_mem]; rfl

/-! ### Vigil (R491–R493) -/

/-- The node with Vigil's count of passes one on, where a line is the last of stack memory. -/
def passCounted (n : Node) (line : Nat) : Node :=
  if line * 64 + 64 = stackTop then
    { n with flt := { n.flt with vgPasses := putField n.flt.vgPasses 31 0 (fieldOf n.flt.vgPasses 31 0 + 1) } }
  else n

theorem passCounted_keeps (n : Node) (line : Nat) :
    (passCounted n line).mem = n.mem ∧ (passCounted n line).coh = n.coh ∧ (passCounted n line).trk = n.trk := by
  unfold passCounted; split <;> exact ⟨rfl, rfl, rfl⟩

theorem passCounted_passes (n : Node) (line : Nat) : fieldOf (passCounted n line).flt.vgPasses 31 0 =
    if line * 64 + 64 = stackTop then (fieldOf n.flt.vgPasses 31 0 + 1) % 2 ^ 32 else fieldOf n.flt.vgPasses 31 0 := by
  unfold passCounted
  split
  · exact fieldOf_putField_same _ 31 0 _ (by decide) (by decide)
  · rfl

theorem still_passCounted {n : Node} (h : Still n) (line : Nat) : Still (passCounted n line) := by
  unfold passCounted; split <;> exact h

theorem quiet_passCounted {n : Node} (h : Quiet n) (line : Nat) : Quiet (passCounted n line) := by
  unfold passCounted; split <;> exact h

theorem vigilRead_off {n : Node} (h : bitOf n.flt.vgLive 0 = false) (line : Nat) (bad : Bool) : vigilRead line bad n = n := by
  simp [vigilRead, h]

theorem vigilRead_clean {n : Node} {line : Nat} (hv : bitOf n.flt.vgLive 0 = true) (hl : line * 64 < denseBase)
    (hb : n.mem.badCheck = []) : vigilRead line false n = passCounted (bump n (moduleFault 11) 1) line := by
  simp [vigilRead, hv, Nat.not_le.2 hl, hb, passCounted]

theorem knownAnswerTest_off {n : Node} (h : bitOf n.flt.vgLive 1 = false) (fs : List (Nat × Nat)) : knownAnswerTest fs n = n := by
  simp [knownAnswerTest, h]

/-- The node with the tile set that the next known-answer test begins with. -/
def katNext (n : Node) (k : Nat) : Node := { n with flt := { n.flt with katTile := k } }

theorem still_katNext {n : Node} (h : Still n) (k : Nat) : Still (katNext n k) := h

theorem quiet_katNext {n : Node} (h : Quiet n) (k : Nat) : Quiet (katNext n k) := h

theorem knownAnswerTest_passes {n : Node} {k : Nat} (hv : bitOf n.flt.vgLive 1 = true)
    (hk : ((List.range 64).map fun k => (n.flt.katTile + k) % 64).find? (fun t => tileLive (tileAt n t)) = some k) :
    knownAnswerTest [] n = bump (katNext n ((k + 1) % 64)) (moduleFault 12) 1 := by
  simp only [knownAnswerTest, hv, hk, Bool.not_true, Bool.false_eq_true, if_false, List.foldl_nil, katNext]

/-! ### Masque (R495–R498) -/

/-- An injection counted under its kind, in the field given. -/
def masqueCounted (n : Node) (k hi lo : Nat) : Node :=
  { n with flt := { n.flt with mqKind := k, mqCount := putField n.flt.mqCount hi lo (fieldOf n.flt.mqCount hi lo + 1) } }

theorem still_masqueCounted {n : Node} (h : Still n) (k hi lo : Nat) : Still (masqueCounted n k hi lo) := h

theorem quiet_masqueCounted {n : Node} (h : Quiet n) (k hi lo : Nat) : Quiet (masqueCounted n k hi lo) := h

theorem masqueCounted_flt (n : Node) (k hi lo : Nat) (e : Event) (off : Nat) :
    (bump (logEvent (masqueCounted n k hi lo) e) off 1).flt =
      { n.flt with mqKind := k, mqCount := putField n.flt.mqCount hi lo (fieldOf n.flt.mqCount hi lo + 1) } := by
  rw [bump_flt, logEvent_flt]; rfl

/-- A count, and its log entry, are in no other part of the node. -/
theorem masqueCounted_keeps (n : Node) (k hi lo : Nat) (e : Event) (off : Nat) :
    (bump (logEvent (masqueCounted n k hi lo) e) off 1).mem = n.mem ∧ (bump (logEvent (masqueCounted n k hi lo) e) off 1).coh = n.coh ∧
      (bump (logEvent (masqueCounted n k hi lo) e) off 1).trk = n.trk ∧
      (bump (logEvent (masqueCounted n k hi lo) e) off 1).log.last = n.log.next := by
  rw [bump_mem, bump_coh, bump_trk, bump_log, logEvent_mem, logEvent_coh, logEvent_trk, logEvent_last]
  exact ⟨rfl, rfl, rfl, rfl⟩

theorem masqueInterval_off {n : Node} (h : bitOf n.flt.mqLive.1 0 = false) : masqueInterval n = n := by
  simp [masqueInterval, h]

theorem masqueTargets_mqKind (n : Node) (k j : Nat) :
    masqueTargets { n with flt := { n.flt with mqKind := j } } k = masqueTargets n k := rfl

theorem masqueInterval_untargeted {n : Node} {k : Nat} (hm : bitOf n.flt.mqLive.1 0 = true) (hk : masqueKind n = some k)
    (ht : masqueTargets n k = 0) :
    ∃ e, masqueInterval n = bump (logEvent (masqueCounted n k 63 32) e) (moduleFault (20 + k)) 1 := by
  refine ⟨{ otherEvent 8 2 with data0 := k }, ?_⟩
  simp [masqueInterval, hm, hk, masqueTargets_mqKind, ht]
  rfl

/-- A flip that is corrected, or replayed, leaves its count and its log entry. -/
theorem masqueInterval_corrected {n : Node} {k : Nat} (hm : bitOf n.flt.mqLive.1 0 = true) (hk : masqueKind n = some k)
    (h1 : k ≤ 1) (ht : masqueTargets n k ≠ 0) (hs : n.ml.memb.suspended = false)
    (hr : (n.flt.regions.toList.any fun g => g.resetting) = false) :
    ∃ e, masqueInterval n = bump (logEvent (masqueCounted n k 31 0) e) (moduleFault (13 + k)) 1 := by
  obtain rfl | rfl : k = 0 ∨ k = 1 := by omega
  all_goals
    simp only [masqueInterval, hm, hk, masqueTargets_mqKind, ht, hs, hr, inject, Bool.not_true, Bool.false_eq_true, if_false,
      decide_false, Bool.or_self]
    exact ⟨_, rfl⟩

/-- Settles O45. A tile that moves is the only one that does, and goes all the way at once; the patrols change counts alone. -/
theorem tilesAndPatrols : Obligations.TilesAndPatrols := by
  unfold Obligations.TilesAndPatrols
  intro s t cause n h calm empty leaves same
  have stays : ∀ {i : Instr} (f : Node → Node), exec i s = .next (onTiles s f) → f n = n → calm → Runs i s same :=
    fun f hi hf hc => runs_of_still hi hc.1 hf hc.2.1 hc.2.2 fun u hu hb => ⟨hu, hb⟩
  have left : ∀ {u : State} {v : Nat} {g : Bool}, HasLeft n u.nd t v g → OnlyBandRecord s u → leaves u v :=
    fun hl hb => ⟨hl.leaving, hl.domains, hl.slots, hl.moving, hl.mem, hl.others, hb⟩
  refine ⟨fun v hc he hr hg hv => ?_, fun v hc he hr hg hv => ?_, fun hc hv => ?_, fun gate hc hr => ?_, fun hc he hg hr => ?_,
    fun hc hg => ?_, fun line bad hc hv => ?_, fun line hc hv hl hb => ?_, fun fs hc hv => ?_, fun k hc hv hk => ?_,
    fun hc hm => ?_, fun k hc hm hk ht => ?_, fun k hc hm hk h1 ht hs hr => ?_⟩
  · obtain ⟨ha, hs, hq⟩ := hc
    obtain ⟨hb, hl, hm⟩ := he
    obtain ⟨u, hu, hx, ho⟩ := runs_leaving (i := .tileRetire t false cause) rfl
      (startLeave_retire hr hg (tileAt_of_still hs t.val).1 hv) ha hs hq ⟨hq.1, hb, hl⟩ hm hv
    exact ⟨u, hu, left hx ho, by simp [hx.retired], hx.gated⟩
  · obtain ⟨ha, hs, hq⟩ := hc
    obtain ⟨hb, hl, hm⟩ := he
    obtain ⟨u, hu, hx, ho⟩ := runs_leaving (i := .tileRetire t true cause) rfl
      (startLeave_gate hr hg (tileAt_of_still hs t.val) hv hb) ha hs hq ⟨hq.1, hb, hl⟩ hm hv
    exact ⟨u, hu, left hx ho, by rw [hx.retired, Bool.not_true, Bool.or_false]; exact hr, hx.gated⟩
  · exact stays _ rfl (startLeave_alone hv _) hc
  · exact stays _ rfl (startLeave_retired hr _ _) hc
  · obtain ⟨ha, hs, hq⟩ := hc
    obtain ⟨hb, hl, hm⟩ := he
    refine runs_of_onTiles (f := fun n => startReturn n t.val) rfl ha
      ((congrArg tilesGo (startReturn_gated hg hr (tileAt_of_still hs t.val).2)).trans (tilesGo_returningNode hs hq ⟨hq.1, hb, hl⟩))
      fun u hu ho => ?_
    rw [hu]
    refine ⟨by rw [tileAt_backNode_same], by rw [tileAt_backNode_same], returningNode_domains _ _, slotTile_backNode _ _,
      moving_backNode hm t, backNode_mem _ _, fun j hj => ?_, ho⟩
    rw [tileAt_backNode_other _ (Fin.val_ne_of_ne hj), tileAt_returningNode_other _ (Fin.val_ne_of_ne hj)]
  · exact stays _ rfl (startReturn_ungated hg) hc
  · exact stays _ rfl (vigilRead_off hv _ _) hc
  · obtain ⟨ha, hs, hq⟩ := hc
    refine runs_of_still (f := vigilRead line false) rfl ha (vigilRead_clean hv hl hb) (still_passCounted (still_bump hs _ _) _)
      (quiet_passCounted (quiet_bump hq _ _) _) fun u hu ho => ?_
    obtain ⟨hm, hc, ht⟩ := passCounted_keeps (bump n (moduleFault 11) 1) line
    rw [hu]
    refine ⟨ho, hm.trans (bump_mem _ _ _), hc.trans (bump_coh _ _ _), ht.trans (bump_trk _ _ _), ?_⟩
    rw [passCounted_passes, bump_flt]
  · exact stays _ rfl (knownAnswerTest_off hv _) hc
  · obtain ⟨ha, hs, hq⟩ := hc
    refine runs_of_still (f := knownAnswerTest []) rfl ha (knownAnswerTest_passes hv hk) (still_bump (still_katNext hs _) _ _)
      (quiet_bump (quiet_katNext hq _) _ _) fun u hu ho => ?_
    rw [hu]
    exact ⟨bump_flt _ _ _, bump_mem _ _ _, bump_log _ _ _, ho⟩
  · exact stays _ rfl (masqueInterval_off hm) hc
  · obtain ⟨ha, hs, hq⟩ := hc
    obtain ⟨e, he⟩ := masqueInterval_untargeted hm hk ht
    refine runs_of_still (f := masqueInterval) rfl ha he (still_bump (still_logEvent (still_masqueCounted hs _ _ _) _) _ _)
      (quiet_bump (quiet_logEvent (quiet_masqueCounted hq _ _ _) _) _ _) fun u hu ho => ?_
    obtain ⟨hmem, -, -, hlast⟩ := masqueCounted_keeps n k 63 32 e (moduleFault (20 + k))
    rw [hu]
    exact ⟨masqueCounted_flt _ _ _ _ _ _, hmem, hlast, ho⟩
  · obtain ⟨ha, hst, hq⟩ := hc
    obtain ⟨e, he⟩ := masqueInterval_corrected hm hk h1 ht hs hr
    refine runs_of_still (f := masqueInterval) rfl ha he (still_bump (still_logEvent (still_masqueCounted hst _ _ _) _) _ _)
      (quiet_bump (quiet_logEvent (quiet_masqueCounted hq _ _ _) _) _ _) fun u hu ho => ?_
    obtain ⟨hmem, hcoh, htrk, -⟩ := masqueCounted_keeps n k 31 0 e (moduleFault (13 + k))
    rw [hu]
    exact ⟨masqueCounted_flt _ _ _ _ _ _, hmem, hcoh, htrk, ho⟩

end Sys2Proof.Organisation
end

section
/-! How a command of a ring starts, passes its checks and ends (R51–R55). -/

namespace Sys2Proof.ContextRanges

open Sys2Proof.Machine Sys2Proof.Safety Sys2Proof.Organisation

/-- A row over the node alone, and what it makes of the node. -/
theorem moves_of_result {i : Instr} {s : State} {P : Node → Prop} {f : Node → Node} {m : Node} (hf : f s.nd = m)
    (hi : exec i s = .next (onNode s f)) (h : P m) : Moves i s P := moves_of_onNode f hi (hf ▸ h)

/-! ### Ending -/

theorem cmdOf_of_trk {m n : Node} (h : m.trk = n.trk) (tid : Nat) : cmdOf m tid = cmdOf n tid := by simp only [cmdOf, h]

theorem setCmd_setCmd (n : Node) (tid : Nat) (c d : Cmd) : setCmd (setCmd n tid c) tid d = setCmd n tid d := by
  simp [setCmd, tblPut_put]

theorem endCmd_eq {n : Node} {tid : Nat} {c : Cmd} (h : cmdOf n tid = some c) (st : Nat) (r0 w3 : Word) :
    endCmd n tid st r0 w3 = setCmd n tid { c with phase := .ended, status := st, result0 := r0, word3 := w3 } := by
  simp only [endCmd, h]

/-- A command that is there ends as it is told to. -/
theorem hasEnded_endCmd {n : Node} {tid : Nat} {c : Cmd} (h : cmdOf n tid = some c) (st : Nat) (r0 w3 : Word) :
    HasEnded (endCmd n tid st r0 w3) tid st r0 w3 := by
  rw [endCmd_eq h]
  exact ⟨_, cmdOf_setCmd_same _ _ _, rfl, rfl, rfl, rfl⟩

/-- Changes beside the trackers do not keep a command from ending. -/
theorem hasEnded_of_trk {m n : Node} {tid : Nat} {c : Cmd} (h : cmdOf n tid = some c) (ht : m.trk = n.trk) (st : Nat)
    (r0 w3 : Word) : HasEnded (endCmd m tid st r0 w3) tid st r0 w3 :=
  hasEnded_endCmd ((cmdOf_of_trk ht tid).trans h) st r0 w3

@[simp] theorem endCmd_ctxs (n : Node) (tid st : Nat) (r0 w3 : Word) : (endCmd n tid st r0 w3).ctxs = n.ctxs := by
  unfold endCmd; split <;> rfl

@[simp] theorem endCmd_rings (n : Node) (tid st : Nat) (r0 w3 : Word) : (endCmd n tid st r0 w3).rings = n.rings := by
  unfold endCmd; split <;> rfl

@[simp] theorem endCmd_mem (n : Node) (tid st : Nat) (r0 w3 : Word) : (endCmd n tid st r0 w3).mem = n.mem := by
  unfold endCmd; split <;> rfl

@[simp] theorem endCmd_power (n : Node) (tid st : Nat) (r0 w3 : Word) : (endCmd n tid st r0 w3).power = n.power := by
  unfold endCmd; split <;> rfl

@[simp] theorem slotOf_endCmd (n : Node) (tid st : Nat) (r0 w3 : Word) (k : Nat) : slotOf (endCmd n tid st r0 w3) k = slotOf n k := by
  simp [slotOf]

@[simp] theorem ringOf_endCmd (n : Node) (tid st : Nat) (r0 w3 : Word) (k : Nat) : ringOf (endCmd n tid st r0 w3) k = ringOf n k := by
  simp [ringOf]

/-! ### Starting -/

theorem startCmd_of_canStart {n : Node} {tid op : Nat} {c : Cmd} (h : CanStart n tid op c) (f : Cmd → Node) :
    startCmd n tid op f = f c := by
  obtain ⟨hc, ho, hm, ha⟩ := h
  simp [startCmd, hc, ho, hm, ha]

theorem not_running_of_canStart {n : Node} {tid op : Nat} {c : Cmd} (h : CanStart n tid op c) : (c.phase == .running) = false := by
  obtain ⟨_, _, hm, _⟩ := h
  simp only [mayStart, Bool.and_eq_true, beq_iff_eq] at hm
  simp [hm.1]

/-! ### The checks of R52 and R53 -/

theorem checked_passes {n : Node} {c : Cmd} (h : WellCommanded n c) (tid : Nat) {invalid : Bool} (hi : invalid = false)
    {later : List (Bool × Nat)} (hl : firstStatus later = none) (f : Unit → Node) : checked n tid c invalid later f = f () := by
  obtain ⟨hh, hr, hc⟩ := h
  simp [checked, firstStatus, hh, hr, hc, hi, hl]

theorem checked_invalid (n : Node) (tid : Nat) (c : Cmd) {invalid : Bool} (hi : invalid = true) (later : List (Bool × Nat))
    (f : Unit → Node) : checked n tid c invalid later f = refuseCmd n tid stInvalid := by
  simp [checked, firstStatus, hi]

theorem checked_later {n : Node} {c : Cmd} (h : WellCommanded n c) (tid : Nat) {invalid : Bool} (hi : invalid = false)
    {later : List (Bool × Nat)} {st : Nat} (hl : firstStatus later = some st) (f : Unit → Node) :
    checked n tid c invalid later f = refuseCmd n tid st := by
  obtain ⟨hh, hr, hc⟩ := h
  simp [checked, firstStatus, hh, hr, hc, hi, hl]

/-! ### Nothing waits -/

/-- A command's state may change where nothing waits, unless it becomes one that settling serves. -/
theorem quiet_setCmd {n : Node} (h : Quiet n) (tid : Nat) {c : Cmd}
    (hc : c.phase = .running → cmdOp c ≠ 0x22 ∧ cmdOp c ≠ 0x23 ∧ cmdOp c ≠ 0x24) : Quiet (setCmd n tid c) := by
  obtain ⟨h1, h2, h3, h4, h5, h6, h7⟩ := h
  refine ⟨h1, h2, h3, h4, h5, fun e he => ?_, h7⟩
  rcases mem_of_mem_tblPut he with rfl | he
  · exact hc
  · exact h6 e he

theorem quiet_endCmd {n : Node} (h : Quiet n) (tid st : Nat) (r0 w3 : Word) : Quiet (endCmd n tid st r0 w3) := by
  unfold endCmd
  split
  · exact h
  · exact quiet_setCmd h tid (fun hp => by cases hp)

/-- With no block in a slice, which spans are in use is nothing that waits. -/
theorem quiet_withCtxs {n : Node} (h : Quiet n) (hb : n.mem.blocks = []) (x : Contexts) : Quiet { n with ctxs := x } := by
  obtain ⟨h1, h2, h3, h4, h5, h6, _⟩ := h
  exact ⟨h1, h2, h3, h4, h5, h6, by simp [hb]⟩

/-! ### Context slots -/

@[simp] theorem slotOf_setSlot_same (n : Node) (k : Nat) (x : CtxSlot) : slotOf (setSlot n k x) k = some x :=
  Tbl.find?_put_same _ _ _

theorem slotOf_setSlot_other (n : Node) (k j : Nat) (x : CtxSlot) (h : j ≠ k) : slotOf (setSlot n k x) j = slotOf n j :=
  Tbl.find?_put_other _ _ _ _ h

end Sys2Proof.ContextRanges
end

section
/-! KEY_LOAD: contexts, share keys and membership (O24). -/

namespace Sys2Proof.ContextRanges

open Sys2Proof.Machine Sys2Proof.Safety Sys2Proof.Organisation

/-! ### A KEY_LOAD takes effect (R59, R64, R68, R81) -/

/-- A KEY_LOAD of some KOP whose turn it is, and which no check can refuse but the latch and the row's own: the command is well
formed, and there are keys to derive from. -/
structure KeyLoads (g : KeyGate) (n : Node) (tid kop : Nat) (c : Cmd) : Prop where
  starts : CanStart n tid 0x13 c
  turn : rangeTurn n c = true
  kop_eq : keyKop c = kop
  commanded : WellCommanded n c
  fields : keyReserved c = false
  master : g.master ≠ []
  kept : g.cleared = false

theorem keyRow_starts {g : KeyGate} {n : Node} {tid kop : Nat} {c : Cmd} (h : KeyLoads g n tid kop c) (f : Cmd → Node) :
    keyRow kop tid n f = f c := by
  simp [keyRow, startCmd_of_canStart h.starts, h.kop_eq, h.turn]

theorem keyChecked_passes {g : KeyGate} {n : Node} {tid kop : Nat} {c : Cmd} (h : KeyLoads g n tid kop c)
    (hu : g.unsealed = false) {invalid full : Bool} (hi : invalid = false) (hf : full = false) (f : Unit → Node) :
    keyChecked g n tid c invalid full f = f () := by
  obtain ⟨hh, hr, hc⟩ := h.commanded
  simp [keyChecked, firstStatus, hh, hr, hc, h.fields, h.master, h.kept, hu, hi, hf]

theorem keyChecked_unsealed {g : KeyGate} {n : Node} {tid kop : Nat} {c : Cmd} (h : KeyLoads g n tid kop c)
    (hu : g.unsealed = true) {invalid full : Bool} (hi : invalid = false) (f : Unit → Node) :
    keyChecked g n tid c invalid full f = refuseCmd n tid stUnsealed := by
  obtain ⟨hh, _, _⟩ := h.commanded
  simp [keyChecked, firstStatus, hh, h.fields, hu, hi]

/-! ### A context opens (R62, R65, R66, R598) -/

/-- The slot that a context has when it opens. -/
def openedSlot (n : Node) (key : KeySlot) : CtxSlot :=
  { slotNo := freeSlotNo n, key := key, admits := 0, ranges := [], nextGen := 1, keepers := [], curGen := 0, kept := [] }

@[simp] theorem slotOf_openContext (n : Node) (ctx : Nat) (key : KeySlot) :
    slotOf (openContext n ctx key) ctx = some (openedSlot n key) := by
  unfold openContext
  dsimp only
  split <;> exact Tbl.find?_put_same _ _ _

@[simp] theorem ringOf_openContext (n : Node) (ctx : Nat) (key : KeySlot) : ringOf (openContext n ctx key) ctx = Ring.reset := by
  unfold openContext
  dsimp only
  split <;> exact Tbl.getD_put_same _ _ _ _

@[simp] theorem openContext_trk (n : Node) (ctx : Nat) (key : KeySlot) : (openContext n ctx key).trk = n.trk := by
  unfold openContext
  dsimp only
  split <;> rfl

@[simp] theorem openContext_mem (n : Node) (ctx : Nat) (key : KeySlot) : (openContext n ctx key).mem = n.mem := by
  unfold openContext
  dsimp only
  split <;> rfl

/-- With its first context the module is Active. -/
theorem openContext_active {n : Node} (h : n.power.state = 2) (ctx : Nat) (key : KeySlot) :
    (openContext n ctx key).power.state = 3 := by
  unfold openContext
  dsimp only
  rw [if_pos (by exact h)]

/-- The keepers that a CTX_KEY leaves in a slot. -/
def keptKeepers (x : CtxSlot) (ks : List Nat) : CtxSlot := { x with keepers := if ks.getD 0 0 = 0 then x.keepers else ks }

/-- Of the node, recording the keepers changes the context's slot alone. -/
theorem recordKeepers_ctxs (n : Node) (ctx : Nat) (ks : List Nat) :
    recordKeepers n ctx ks = { n with ctxs := (recordKeepers n ctx ks).ctxs } := by
  unfold recordKeepers
  (repeat' split) <;> rfl

theorem slotOf_recordKeepers {n : Node} {ctx : Nat} {x : CtxSlot} (h : slotOf n ctx = some x) (ks : List Nat) :
    slotOf (recordKeepers n ctx ks) ctx = some (keptKeepers x ks) := by
  simp only [recordKeepers, keptKeepers, h]
  split
  · exact h
  · exact slotOf_setSlot_same _ _ _

@[simp] theorem recordKeepers_trk (n : Node) (ctx : Nat) (ks : List Nat) : (recordKeepers n ctx ks).trk = n.trk := by
  rw [recordKeepers_ctxs]

@[simp] theorem ringOf_recordKeepers (n : Node) (ctx : Nat) (ks : List Nat) (k : Nat) :
    ringOf (recordKeepers n ctx ks) k = ringOf n k := by
  rw [recordKeepers_ctxs]; rfl

/-- The key slot that a CTX_KEY derives (R66). -/
def ctxKeySlot (g : KeyGate) (c : Cmd) : KeySlot :=
  { gen := keyGen c, salt := keySalt c, ident := cmdCtx c, keys := contextKey g.master (cmdCtx c) (keyGen c) (keySalt c) }

theorem loadCtxKey_opens {g : KeyGate} {n : Node} {tid : Nat} {c : Cmd} (h : KeyLoads g n tid 1 c) (hu : g.unsealed = false)
    (hn : slotOf n (cmdCtx c) = none) (h0 : cmdCtx c ≠ 0) (hb : keepersBad (keyKeepers c) = false)
    (hf : n.ctxs.slots.length < 4096) :
    loadCtxKey g tid n = endCmd (recordKeepers (openContext n (cmdCtx c) (ctxKeySlot g c)) (cmdCtx c) (keyKeepers c)) tid stOK
      (keyCheck (ctxKeySlot g c).keys) 0 := by
  rw [loadCtxKey, keyRow_starts h, keyChecked_passes h hu (by simp [hn, h0, hb]) (by simp [hf])]
  simp only [hn]
  rw [← ctxKeySlot, slotOf_recordKeepers (slotOf_openContext _ _ _)]
  rfl

theorem loadCtxKey_again {g : KeyGate} {n : Node} {tid : Nat} {c : Cmd} {x : CtxSlot} (h : KeyLoads g n tid 1 c)
    (hu : g.unsealed = false) (hx : slotOf n (cmdCtx c) = some x) (h0 : cmdCtx c ≠ 0) (hb : keepersBad (keyKeepers c) = false)
    (hs : sameCtxKey x c = true) :
    loadCtxKey g tid n = endCmd (recordKeepers n (cmdCtx c) (keyKeepers c)) tid stOK (keyCheck x.key.keys) 0 := by
  rw [loadCtxKey, keyRow_starts h, keyChecked_passes h hu (by simp [hx, h0, hb, hs]) (by simp [hx])]
  simp only [hx, hs, if_true]
  rw [slotOf_recordKeepers hx]
  rfl

/-! ### A context closes (R65, R162, R434) -/

@[simp] theorem respond_trk (n : Node) (p : Packet) (cls st hi op6 : Nat) (bs : Bytes) :
    (respond n p cls st hi op6 bs).trk = n.trk := by
  simp [respond]

@[simp] theorem answerEnded_trk (n : Node) (p : Packet) (st landed ovf nans : Nat) (bs : Bytes) :
    (answerEnded n p st landed ovf nans bs).trk = n.trk := by
  unfold answerEnded; dsimp only; split_ifs <;> simp

@[simp] theorem closeRecord_trk (n : Node) (p : Packet) (st landed ovf nans : Nat) (bs : Bytes) :
    (closeRecord n p st landed ovf nans bs).trk = n.trk := rfl

@[simp] theorem answerWait_trk (n : Node) (p : Packet) (st v : Nat) : (answerWait n p st v).trk = n.trk := by
  unfold answerWait; dsimp only; split <;> simp [dropNc]

@[simp] theorem freeCounters_trk (n : Node) (ctx : Nat) : (freeCounters n ctx).trk = n.trk := by
  unfold freeCounters
  refine foldl_keeps _ (fun m : Node => m.trk) (fun n k => ?_) _ _
  exact foldl_keeps _ (fun m : Node => m.trk) (fun n w => answerWait_trk n _ _ _) _ _

/-- What is gone with a context: its slot, its ring and its revocations. -/
theorem closeContext_frees {n : Node} {ctx : Nat} {x : CtxSlot} (h : slotOf n ctx = some x) :
    slotOf (closeContext n ctx) ctx = none ∧ Tbl.find? (closeContext n ctx).rings ctx = none ∧
      (∀ v ∈ (closeContext n ctx).ctxs.revs, v.ctx ≠ ctx) ∧ (closeContext n ctx).trk = n.trk := by
  simp only [closeContext, h]
  split <;> exact ⟨Tbl.find?_del_same _ _, Tbl.find?_del_same _ _, fun v hv => by simpa using (List.mem_filter.1 hv).2,
    freeCounters_trk n ctx⟩

theorem closeContext_none {n : Node} {ctx : Nat} (h : slotOf n ctx = none) : closeContext n ctx = n := by
  simp only [closeContext, h]

theorem loadCtxClear_closes {g : KeyGate} {n : Node} {tid : Nat} {c : Cmd} (h : KeyLoads g n tid 2 c) (hu : g.unsealed = false)
    (h0 : cmdCtx c ≠ 0) (hb : ∀ x, slotOf n (cmdCtx c) = some x →
      x.ranges = [] ∧ ringEnabled (ringOf n (cmdCtx c)) = false ∧ (ringOf n (cmdCtx c)).inflight = 0) :
    loadCtxClear g tid n = endCmd (closeContext n (cmdCtx c)) tid stOK 0 0 := by
  rw [loadCtxClear, keyRow_starts h, keyChecked_passes h hu ?_ rfl]
  cases hx : slotOf n (cmdCtx c) with
  | none => simp [h0]
  | some x => obtain ⟨hr, he, hi⟩ := hb x hx; simp [h0, hr, he, hi]

/-! ### Share keys (R65, R66) -/

/-- The key slot that a SHARE_KEY derives (R66). -/
def shareKeySlot (g : KeyGate) (c : Cmd) : KeySlot :=
  { gen := keyGen c, salt := keySalt c, ident := keyShareId c, keys := shareKey g.master (keyShareId c) (keyGen c) (keySalt c) }

theorem loadShareKey_fills {g : KeyGate} {n : Node} {tid : Nat} {c : Cmd} (h : KeyLoads g n tid 3 c) (hu : g.unsealed = false)
    (h0 : cmdCtx c = 0) (hx : Tbl.find? n.ctxs.shares (keySlotNo c) = none) :
    loadShareKey g tid n = endCmd (setShare n (keySlotNo c) (shareKeySlot g c)) tid stOK (keyCheck (shareKeySlot g c).keys) 0 := by
  rw [loadShareKey, keyRow_starts h, keyChecked_passes h hu (by simp [h0, hx]) rfl]
  simp [hx, setShare, shareKeySlot]

theorem loadShareClear_empties {g : KeyGate} {n : Node} {tid : Nat} {c : Cmd} (h : KeyLoads g n tid 4 c) (hu : g.unsealed = false)
    (h0 : cmdCtx c = 0) (hs : shareUsed n (keySlotNo c) = false) :
    loadShareClear g tid n =
      endCmd { n with ctxs := { n.ctxs with shares := Tbl.del n.ctxs.shares (keySlotNo c) } } tid stOK 0 0 := by
  rw [loadShareClear, keyRow_starts h, keyChecked_passes h hu (by simp [h0, hs]) rfl]

/-! ### Membership (R63, R70) -/

/-- The mask of a span of nodes has exactly its bits. -/
theorem testBit_nodeSpan {first last : Nat} (h : first ≤ last) (i : Nat) :
    (nodeSpan first last).testBit i = decide (first ≤ i ∧ i ≤ last) := by
  have e : nodeSpan first last = 2 ^ first * (2 ^ (last + 1 - first) - 1) := by
    rw [nodeSpan, Nat.mul_sub, ← Nat.pow_add, Nat.mul_one, Nat.add_sub_cancel' (by omega)]
  rw [e, Nat.testBit_two_pow_mul, Nat.testBit_two_pow_sub_one]
  by_cases hi : first ≤ i <;> simp [hi]
  omega

theorem and_add_ldiff (a m : Nat) : (a &&& m) + Nat.ldiff a m = a := by
  induction a using Nat.binaryRec generalizing m with
  | zero => simp [Nat.ldiff]
  | bit b a ih =>
    obtain ⟨d, k, rfl⟩ : ∃ d k, m = Nat.bit d k := ⟨_, _, (Nat.bit_testBit_zero_shiftRight_one m).symm⟩
    have := ih k
    rw [Nat.land_bit, Nat.ldiff_bit]
    cases b <;> cases d <;>
      simp only [Nat.bit_val, Bool.and_true, Bool.and_false, Bool.not_true, Bool.not_false, Bool.toNat_true, Bool.toNat_false] <;>
      omega

/-- Taking a number's common bits with another away clears them. -/
theorem testBit_sub_and (a m i : Nat) : (a - (a &&& m)).testBit i = (a.testBit i && !m.testBit i) := by
  rw [show a - (a &&& m) = Nat.ldiff a m by have := and_add_ldiff a m; omega, Nat.testBit_ldiff]

/-- Whether a node is admitted once the set has been changed, bit by bit. -/
theorem isAdmitted_changeAdmits {n : Node} {ctx : Nat} (h : ctxActive n ctx = true) {f : Nat → Nat} {node : Nat}
    {op : Bool → Bool} (hf : ∀ a, (f a).testBit node = op (a.testBit node)) :
    isAdmitted (changeAdmits n ctx f) ctx node = op (isAdmitted n ctx node) := by
  obtain ⟨x, hx⟩ := Option.isSome_iff_exists.1 h
  simp [isAdmitted, changeAdmits, hx, hf]

theorem slotOf_changeAdmits_other (n : Node) {ctx k : Nat} (f : Nat → Nat) (h : k ≠ ctx) :
    slotOf (changeAdmits n ctx f) k = slotOf n k := by
  unfold changeAdmits
  split
  · rfl
  · exact slotOf_setSlot_other _ _ _ _ h

@[simp] theorem changeAdmits_trk (n : Node) (ctx : Nat) (f : Nat → Nat) : (changeAdmits n ctx f).trk = n.trk := by
  unfold changeAdmits; split <;> rfl

theorem spanBad_eq_false {n : Node} {c : Cmd} (h : spanBad n c = false) :
    ctxActive n (cmdCtx c) = true ∧ keyFirst c ≤ keyLast c := by
  simp only [spanBad, Bool.or_eq_false_iff, Bool.not_eq_false', decide_eq_false_iff_not, not_lt] at h
  obtain ⟨⟨⟨ha, hl⟩, _⟩, _⟩ := h
  exact ⟨ha, hl⟩

/-- FIRST_NODE to LAST_NODE of the command take in a node. -/
def inNodeSpan (c : Cmd) (node : Nat) : Bool := decide (keyFirst c ≤ node ∧ node ≤ keyLast c)

theorem testBit_keySpan {n : Node} {c : Cmd} (h : spanBad n c = false) (node : Nat) :
    (nodeSpan (keyFirst c) (keyLast c)).testBit node = inNodeSpan c node :=
  testBit_nodeSpan (spanBad_eq_false h).2 node

/-- A command that changes one context's admission set and ends. -/
theorem changeAdmits_ends {n : Node} {tid : Nat} {c : Cmd} (hc : cmdOf n tid = some c) (hb : spanBad n c = false) {f : Nat → Nat}
    (op : Nat → Bool → Bool) (hf : ∀ node a, (f a).testBit node = op node (a.testBit node)) :
    let m := endCmd (changeAdmits n (cmdCtx c) f) tid stOK 0 0
    (∀ node, isAdmitted m (cmdCtx c) node = op node (isAdmitted n (cmdCtx c) node)) ∧
      (∀ k, k ≠ cmdCtx c → slotOf m k = slotOf n k) ∧ HasEnded m tid stOK 0 0 := by
  refine ⟨fun node => ?_, fun k hk => ?_, hasEnded_of_trk hc (changeAdmits_trk _ _ _) _ _ _⟩
  · rw [← isAdmitted_changeAdmits (spanBad_eq_false hb).1 (hf node)]
    simp only [isAdmitted, slotOf_endCmd]
  · rw [slotOf_endCmd, slotOf_changeAdmits_other _ _ hk]

theorem loadAdmit_admits {g : KeyGate} {n : Node} {tid : Nat} {c : Cmd} (h : KeyLoads g n tid 5 c) (hu : g.unsealed = false)
    (hb : spanBad n c = false) :
    loadAdmit g tid n = endCmd (changeAdmits n (cmdCtx c) fun a => a ||| nodeSpan (keyFirst c) (keyLast c)) tid stOK 0 0 := by
  rw [loadAdmit, keyRow_starts h, keyChecked_passes h hu hb rfl]

theorem loadAdmit_unsealed {g : KeyGate} {n : Node} {tid : Nat} {c : Cmd} (h : KeyLoads g n tid 5 c) (hu : g.unsealed = true)
    (hb : spanBad n c = false) : loadAdmit g tid n = refuseCmd n tid stUnsealed := by
  rw [loadAdmit, keyRow_starts h, keyChecked_unsealed h hu hb]

theorem loadExpel_expels {g : KeyGate} {n : Node} {tid : Nat} {c : Cmd} (h : KeyLoads g n tid 6 c) (hu : g.unsealed = false)
    (hb : spanBad n c = false) :
    loadExpel g tid n =
      endCmd (changeAdmits n (cmdCtx c) fun a => a - (a &&& nodeSpan (keyFirst c) (keyLast c))) tid stOK 0 0 := by
  rw [loadExpel, keyRow_starts h, keyChecked_passes h hu hb rfl]

/-! ### The rows together -/

/-- Settles O24: each clause is one effect of its row, which the lemmas above name. -/
theorem keysLoad : Obligations.KeysLoad := by
  unfold Obligations.KeysLoad
  intro tid c s hs ht hw hk hm hl ctx open_ master
  have hc : cmdOf s.nd tid = some c := hs.1
  have loads {kop : Nat} (h : keyKop c = kop) : KeyLoads (keyGate s.hl) s.nd tid kop c := ⟨hs, ht, h, hw, hk, hm, hl⟩
  refine ⟨fun ho hkop hn h0 hb hf => moves_of_result (loadCtxKey_opens (loads hkop) ho hn h0 hb hf) rfl ?_,
    fun x ho hkop hx h0 hb he => moves_of_result (loadCtxKey_again (loads hkop) ho hx h0 hb he) rfl ?_,
    fun x ho hkop hx h0 hr he hi => moves_of_result (loadCtxClear_closes (loads hkop) ho h0 fun y hy => ?_) rfl ?_,
    fun ho hkop hx h0 => moves_of_result (loadCtxClear_closes (loads hkop) ho h0 fun y hy => ?_) rfl ?_,
    fun ho hkop h0 hx => moves_of_result (loadShareKey_fills (loads hkop) ho h0 hx) rfl ?_,
    fun ho hkop h0 hu => moves_of_result (loadShareClear_empties (loads hkop) ho h0 hu) rfl ?_,
    fun ho hkop hb => moves_of_result (loadAdmit_admits (loads hkop) ho hb) rfl
      (changeAdmits_ends hc hb (fun node b => b || inNodeSpan c node) fun node a => ?_),
    fun ho hkop hb => moves_of_result (loadExpel_expels (loads hkop) ho hb) rfl
      (changeAdmits_ends hc hb (fun node b => b && !inNodeSpan c node) fun node a => ?_),
    fun hu hkop hb => moves_of_result (loadAdmit_unsealed (loads hkop) hu hb) rfl
      ⟨hasEnded_endCmd hc _ _ _, endCmd_ctxs _ _ _ _ _⟩⟩
  · refine ⟨_, (slotOf_endCmd _ _ _ _ _ _).trans (slotOf_recordKeepers (slotOf_openContext _ _ _) _), rfl, rfl, rfl, rfl,
      by rw [ringOf_endCmd, ringOf_recordKeepers]; exact ringOf_openContext _ _ _, hasEnded_of_trk hc (by simp) _ _ _,
      fun h2 => ?_, ?_⟩
    · rw [endCmd_power, recordKeepers_ctxs]
      exact openContext_active h2 _ _
    · rw [endCmd_mem, recordKeepers_ctxs]
      exact openContext_mem _ _ _
  · refine ⟨(slotOf_endCmd _ _ _ _ _ _).trans (slotOf_recordKeepers hx _), hasEnded_of_trk hc (by simp) _ _ _, ?_, ?_⟩
    · rw [endCmd_mem, recordKeepers_ctxs]
    · rw [endCmd_rings, recordKeepers_ctxs]
  · cases hx.symm.trans hy
    exact ⟨hr, he, hi⟩
  · obtain ⟨hslot, hring, hrev, htrk⟩ := closeContext_frees hx
    exact ⟨by rwa [slotOf_endCmd], by rwa [endCmd_rings], by rwa [endCmd_ctxs], hasEnded_of_trk hc htrk _ _ _⟩
  · cases hx.symm.trans hy
  · rw [closeContext_none hx]
    exact ⟨hasEnded_of_trk hc (by rfl) _ _ _, endCmd_ctxs _ _ _ _ _, endCmd_rings _ _ _ _ _⟩
  · exact ⟨by simp [setShare, shareKeySlot, master, keyGate], hasEnded_of_trk hc (by rfl) _ _ _, by simp [setShare]⟩
  · exact ⟨by simp, hasEnded_of_trk hc (by rfl) _ _ _, by simp⟩
  · rw [Nat.testBit_or, testBit_keySpan hb]
  · rw [testBit_sub_and, testBit_keySpan hb]

end Sys2Proof.ContextRanges
end

section
/-! RANGE_SET, RANGE_CLEAR, RANGE_INVAL and REVOKE (O25). -/

namespace Sys2Proof.ContextRanges

open Sys2Proof.Machine Sys2Proof.Safety Sys2Proof.Organisation

/-! ### A range command takes effect (R59, R81) -/

/-- A range command or REVOKE whose turn it is, well formed in what all commands share; no span waits to be freed. -/
structure RangeStarts (n : Node) (tid op : Nat) (c : Cmd) : Prop where
  starts : CanStart n tid op c
  turn : rangeTurn n c = true
  commanded : WellCommanded n c
  context : cmdCtx c ≠ 0
  freeing : n.ctxs.freeing = []

theorem RangeStarts.cmd {n : Node} {tid op : Nat} {c : Cmd} (h : RangeStarts n tid op c) : cmdOf n tid = some c := h.starts.1

/-- Where no departed range waits to be freed, none is. -/
theorem sweepDeparted_of_held {n : Node} (h : ∀ f ∈ n.ctxs.freeing, f.tid ≠ 0) : sweepDeparted n = n := by
  have hf : (n.ctxs.freeing.filter fun f => f.tid == 0 && !admittedUnder n f.ctx f.range) = [] :=
    List.filter_eq_nil_iff.2 fun f hf => by simp [h f hf]
  rw [sweepDeparted, hf]
  rfl

theorem rangeRow_starts {n : Node} {tid op : Nat} {c : Cmd} (h : RangeStarts n tid op c) (f : Node → Cmd → Node) :
    rangeRow op tid n f = f n c := by
  simp [rangeRow, startCmd_of_canStart h.starts, h.turn, sweepDeparted_of_held, h.freeing]

theorem ctxActive_of_slot {n : Node} {ctx : Nat} {x : CtxSlot} (h : slotOf n ctx = some x) : ctxActive n ctx = true := by
  simp [ctxActive, h]

/-! ### RANGE_SET (R72–R75) -/

/-- A context's table with a range put into it under the next GEN. -/
def slotWithRange (x : CtxSlot) (r : Range) : CtxSlot :=
  { x with ranges := Tbl.put x.ranges r.start { r with gen := x.nextGen }, nextGen := stepGen x.nextGen }

theorem putRange_eq {n : Node} {ctx : Nat} {x : CtxSlot} (h : slotOf n ctx = some x) (r : Range) :
    putRange n ctx r = setSlot n ctx (slotWithRange x r) := by
  simp only [putRange, h, slotWithRange]

theorem rangeSet_starts {n : Node} {tid : Nat} {c : Cmd} (h : RangeStarts n tid 0x10 c) : rangeSet tid n = setRange n tid c := by
  simp only [rangeSet, h.cmd, not_running_of_canStart h.starts, rangeRow_starts h, Bool.false_eq_true, if_false]

/-- A new range enters the table. -/
theorem rangeSet_new {n : Node} {tid : Nat} {c : Cmd} {x : CtxSlot} {new : Range} (h : RangeStarts n tid 0x10 c)
    (hx : slotOf n (cmdCtx c) = some x) (hn : rangeOfWords (setWords c) 0 = new)
    (hr : rangeReserved (setWords c) (fieldOf (dword c 6) 62 28) = false) (hrep : setReplaces c = false)
    (hi : setInvalid n (cmdCtx c) new false = false) (hs : setShort n (cmdCtx c) new false = false) (hp : new.resClass ≠ 3)
    (hq : Quiet n) (hb : n.mem.blocks = []) :
    rangeSet tid n = endCmd (setSlot n (cmdCtx c) (slotWithRange x new)) tid stOK (wordOf x.nextGen) 0 := by
  have hq' : Quiet (setSlot n (cmdCtx c) (slotWithRange x new)) := quiet_withCtxs hq hb _
  have hw : waitsForSpan n new = false := by simp [waitsForSpan, h.freeing]
  rw [rangeSet_starts h, setRange]
  simp only [hn, hrep, hw, hr, hi, Bool.and_false, Bool.false_eq_true, if_false]
  rw [checked_passes h.commanded tid (by simp [h.context]) (by simp [firstStatus, ctxActive_of_slot hx, hs]), putRange_eq hx]
  simp only [hp, hx, if_false]
  exact settle_quiet _ (quiet_endCmd hq' _ _ _ _)

/-- REPLACE puts the changed range in the place of the old one. -/
theorem rangeSet_replace {n : Node} {tid : Nat} {c : Cmd} {x : CtxSlot} {new old : Range} (h : RangeStarts n tid 0x10 c)
    (hx : slotOf n (cmdCtx c) = some x) (hn : rangeOfWords (setWords c) 0 = new)
    (hr : rangeReserved (setWords c) (fieldOf (dword c 6) 62 28) = false) (hrep : setReplaces c = true)
    (hi : setInvalid n (cmdCtx c) new true = false) (ho : rangeOf n (cmdCtx c) new.start = some old) :
    rangeSet tid n = endCmd (setSlot n (cmdCtx c) (slotWithRange x (replaceIn old new))) tid stOK (wordOf x.nextGen) 0 := by
  rw [rangeSet_starts h, setRange]
  simp only [hn, hrep, hr, hi, ho, Bool.not_true, Bool.false_and, Bool.false_eq_true, if_false, if_true]
  rw [checked_passes h.commanded tid (by simp [h.context]) (by simp [firstStatus, ctxActive_of_slot hx, setShort]), putRange_eq hx]
  simp [hx]

theorem rangeSet_reserved {n : Node} {tid : Nat} {c : Cmd} (h : RangeStarts n tid 0x10 c)
    (hr : rangeReserved (setWords c) (fieldOf (dword c 6) 62 28) = true) : rangeSet tid n = refuseCmd n tid stInvalid := by
  rw [rangeSet_starts h, setRange]
  simp only [hr, Bool.or_true, Bool.true_or, Bool.not_true, Bool.and_false, Bool.false_and, Bool.false_eq_true, if_false]
  exact checked_invalid _ _ _ rfl _ _

/-! ### RANGE_CLEAR (R76–R78) -/

theorem rangesOf_eq {n : Node} {ctx : Nat} {x : CtxSlot} (h : slotOf n ctx = some x) : rangesOf n ctx = x.ranges.map Prod.snd := by
  simp [rangesOf, h]

/-- A context's table without the ranges inside the command's span. -/
def slotCleared (x : CtxSlot) (c : Cmd) : CtxSlot := { x with ranges := x.ranges.filter fun e => !whollyIn c e.2 }

/-- The node with one range taken out of its table, its span waiting to be freed. -/
def takenOut (n : Node) (tid : Nat) (c : Cmd) (x : CtxSlot) (r : Range) : Node :=
  let m := dropXlate (setSlot n (cmdCtx c) (slotCleared x c)) x.slotNo r.start (rangeBytes r)
  { m with ctxs := { m.ctxs with freeing := [{ ctx := cmdCtx c, range := r, tid := tid }] } }

/-- Discarding a span leaves contexts, trackers and NVMe commands, and clears its bytes of stack memory. -/
theorem discardSpan_keeps (n : Node) (r : Range) :
    (discardSpan n r).ctxs = n.ctxs ∧ (discardSpan n r).trk = n.trk ∧ (discardSpan n r).mem.nvme = n.mem.nvme ∧
      (discardSpan n r).mem.stack = memClear n.mem.stack r.localOff (rangeBytes r) := by
  have keeps {γ : Type} (g : Node → γ) (hg : ∀ n b, g (dropBlock n b) = g n) (l : List Nat) : g (l.foldl dropBlock n) = g n :=
    foldl_keeps dropBlock g hg l n
  refine ⟨keeps (·.ctxs) (fun _ _ => rfl) _, keeps (·.trk) (fun _ _ => rfl) _, keeps (·.mem.nvme) (fun _ _ => rfl) _, ?_⟩
  exact congrArg (memClear · r.localOff (rangeBytes r)) (keeps (·.mem.stack) (fun _ _ => rfl) _)

theorem quiet_discardSpan {n : Node} (h : Quiet n) (hb : n.mem.blocks = []) (r : Range) :
    Quiet (discardSpan n r) ∧ (discardSpan n r).mem.blocks = [] := by
  obtain ⟨h1, h2, h3, h4, h5, h6, _⟩ := h
  have hd : discardSpan n r = { n with mem := (discardSpan n r).mem, coh := (discardSpan n r).coh } := by
    simp only [discardSpan, hb, List.filter_nil, List.map_nil, List.foldl_nil]
  have hm : (discardSpan n r).mem.blocks = [] := by simp only [discardSpan, hb, List.filter_nil, List.map_nil, List.foldl_nil]
  refine ⟨?_, hm⟩
  rw [hd]
  refine ⟨h1, ?_, h3, h4, h5, h6, by simp [hm]⟩
  simp [discardSpan, hb, h2]

/-- A RANGE_CLEAR that has not ended once its ranges are out of the table goes on. -/
theorem rangeClear_begun {n m : Node} {tid : Nat} {c d : Cmd} (h : RangeStarts n tid 0x11 c) (hb : beginClear n tid c = m)
    (hd : cmdOf m tid = some d) : rangeClear tid n = if d.phase == .running then goOnClear m tid d else m := by
  simp only [rangeClear, h.cmd, not_running_of_canStart h.starts, rangeRow_starts h, Bool.false_eq_true, if_false, hb, hd]

/-- A RANGE_CLEAR whose span holds and meets no range. -/
theorem rangeClear_none {n : Node} {tid : Nat} {c : Cmd} {x : CtxSlot} (h : RangeStarts n tid 0x11 c)
    (hx : slotOf n (cmdCtx c) = some x) (hr : spanReserved c = false)
    (hm : ∀ r ∈ rangesOf n (cmdCtx c), meetsSpan c r = false ∧ whollyIn c r = false) :
    rangeClear tid n = endCmd (setSlot n (cmdCtx c) x) tid stOK 0 0 := by
  have hhit : (rangesOf n (cmdCtx c)).filter (whollyIn c) = [] :=
    List.filter_eq_nil_iff.2 fun r hr => by simp [(hm r hr).2]
  have hpart : ((rangesOf n (cmdCtx c)).any fun r => meetsSpan c r && !whollyIn c r) = false :=
    List.any_eq_false.2 fun r hr => by simp [(hm r hr).1]
  have hleft : (x.ranges.filter fun e => !whollyIn c e.2) = x.ranges :=
    List.filter_eq_self.2 fun e he => by simp [(hm e.2 (by rw [rangesOf_eq hx]; exact List.mem_map_of_mem he)).2]
  have hb : beginClear n tid c = endCmd (setSlot n (cmdCtx c) x) tid stOK 0 0 := by
    rw [beginClear, checked_passes h.commanded tid (by simp [h.context, hr, hpart]) (by simp [firstStatus, ctxActive_of_slot hx, hhit])]
    simp only [hx, hhit, hleft, List.foldl_nil, List.map_nil, List.append_nil, List.all_nil, if_true, List.length_nil]
    rw [sweepDeparted_of_held (by simp [setSlot, h.freeing])]
    rfl
  rw [endCmd_eq (c := c) (by exact h.cmd)] at hb ⊢
  rw [rangeClear_begun h hb (cmdOf_setCmd_same _ _ _)]
  simp

theorem runStage_eq {n : Node} {tid : Nat} {c : Cmd} (h : cmdOf n tid = some c) (stage : Nat) (work : List Nat) :
    runStage n tid stage work = setCmd n tid { c with phase := .running, stage := stage, work := work } := by
  simp only [runStage, h]

/-- A RANGE_CLEAR takes the one range inside its span out of the table. -/
theorem beginClear_one {n : Node} {tid : Nat} {c : Cmd} {x : CtxSlot} {r : Range} (h : RangeStarts n tid 0x11 c)
    (hx : slotOf n (cmdCtx c) = some x) (ht : tid ≠ 0) (hr : spanReserved c = false)
    (hp : ((rangesOf n (cmdCtx c)).any fun r => meetsSpan c r && !whollyIn c r) = false)
    (hhit : (rangesOf n (cmdCtx c)).filter (whollyIn c) = [r]) (hd : r.departed = false) (hheld : rangeHeld n (cmdCtx c) r = false) :
    beginClear n tid c =
      setCmd (takenOut n tid c x r) tid { c with phase := .running, stage := 2, work := [1] } := by
  rw [beginClear, checked_passes h.commanded tid (by simp [h.context, hr, hp])
    (by simp [firstStatus, ctxActive_of_slot hx, hhit, hheld])]
  simp only [hx, hhit, hd, List.foldl_cons, List.foldl_nil, List.map_cons, List.map_nil, Bool.false_eq_true, if_false]
  rw [sweepDeparted_of_held (by simpa [setSlot, dropXlate, h.freeing] using ht)]
  have ha : ([({ ctx := cmdCtx c, range := r, tid := tid } : FreeingRange)].all fun f => f.tid == 0) = false := by simp [ht]
  rw [ha, if_neg Bool.false_ne_true]
  simp only [dropXlate, setSlot, h.freeing, List.nil_append, List.length_singleton]
  exact runStage_eq (by exact h.cmd) 2 [1]

/-- What holds back no step of a RANGE_CLEAR: no request, run, holder, lent copy or NVMe command; one range waits to be freed. -/
structure ClearsOne (n : Node) (tid : Nat) (f : FreeingRange) : Prop where
  freeing : n.ctxs.freeing = [f]
  owner : f.tid = tid
  reqs : n.trk.reqs = []
  runs : n.prog.runs = []
  coh : n.coh = Coherence.reset
  nvme : n.mem.nvme = []
  stack : f.range.resClass = 0

theorem goOnClear_frees {n : Node} {tid : Nat} {c : Cmd} {f : FreeingRange} (h : ClearsOne n tid f) (hs : c.stage = 2) :
    let m := discardSpan n f.range
    goOnClear n tid c =
      settle (endCmd { m with ctxs := { m.ctxs with freeing := [] } } tid stOK (wordOf (c.work.getD 0 0)) 0) := by
  intro m
  obtain ⟨hf, ho, hq, hr, hc, hn, hst⟩ := h
  obtain ⟨kctx, -, knvme, -⟩ := discardSpan_keeps n f.range
  have hfs : clearing n tid = [f] := by simp [clearing, hf, ho]
  have hdrained : clearDrained n [f] = true := by simp [clearDrained, admittedUnder, hq, hr]
  have hheld : clearHeldLines n [f] = [] := by simp [clearHeldLines, hc, Coherence.reset, Tbl.keysOf]
  have hlent : clearLentLines n [f] = [] := by simp [clearLentLines, hc, Coherence.reset]
  have hbusy : clearNvmeBusy n [f] = false := by simp [clearNvmeBusy, hst]
  have hsnoop : n.coh.snoops = [] := by rw [hc]; rfl
  have hrel : releaseSpan m f.range tid = m := by simp [releaseSpan, hst]
  have hwait : (m.mem.nvme.any fun x => decide (x.2.purpose = .release tid)) = false := by simp [m, knvme, hn]
  have hleft : (m.ctxs.freeing.filter fun f => f.tid != tid) = [] := by simp [m, kctx, hf, ho]
  simp only [goOnClear, hs, hfs, hdrained, hheld, hlent, hbusy, hsnoop, List.foldl_cons, List.foldl_nil, List.any_nil, if_true,
    Bool.not_true, Bool.false_eq_true, if_false, List.isEmpty_nil, Bool.or_self]
  rw [hrel, hwait, hleft]
  rfl

/-- The node with the storage of one range discarded and the range freed, before its RANGE_CLEAR ends. -/
def freedNode (n : Node) (tid : Nat) (c : Cmd) (x : CtxSlot) (r : Range) : Node :=
  let m := discardSpan (setCmd (takenOut n tid c x r) tid { c with phase := .running, stage := 2, work := [1] }) r
  { m with ctxs := { m.ctxs with freeing := [] } }

/-- What a RANGE_CLEAR of one range needs beside its own checks: nothing holds the range or its lines. -/
structure ClearsFreely (n : Node) : Prop where
  quiet : Quiet n
  blocks : n.mem.blocks = []
  coh : n.coh = Coherence.reset
  nvme : n.mem.nvme = []
  runs : n.prog.runs = []

theorem rangeClear_one {n : Node} {tid : Nat} {c : Cmd} {x : CtxSlot} {r : Range} (h : RangeStarts n tid 0x11 c)
    (hn : ClearsFreely n) (hx : slotOf n (cmdCtx c) = some x) (ht : tid ≠ 0) (hr : spanReserved c = false)
    (hp : ((rangesOf n (cmdCtx c)).any fun r => meetsSpan c r && !whollyIn c r) = false)
    (hhit : (rangesOf n (cmdCtx c)).filter (whollyIn c) = [r]) (hd : r.departed = false)
    (hheld : rangeHeld n (cmdCtx c) r = false) (hcl : r.resClass = 0) :
    rangeClear tid n = endCmd (freedNode n tid c x r) tid stOK 1 0 := by
  obtain ⟨hq, hb, hcoh, hnvme, hruns⟩ := hn
  let d : Cmd := { c with phase := .running, stage := 2, work := [1] }
  let m := setCmd (takenOut n tid c x r) tid d
  have hmq : Quiet m := quiet_setCmd (quiet_withCtxs hq hb _) tid fun _ => by
    have : cmdOp d = 0x11 := h.starts.2.1
    simp [this]
  have hone : ClearsOne m tid { ctx := cmdCtx c, range := r, tid := tid } := ⟨rfl, rfl, hmq.1, hruns, hcoh, hnvme, hcl⟩
  obtain ⟨hdq, hdb⟩ := quiet_discardSpan hmq hb r
  rw [rangeClear_begun h (beginClear_one h hx ht hr hp hhit hd hheld) (cmdOf_setCmd_same _ _ _)]
  exact (goOnClear_frees (c := d) hone rfl).trans (settle_quiet _ (quiet_endCmd (quiet_withCtxs hdq hdb _) _ _ _ _))

theorem freedNode_keeps (n : Node) (tid : Nat) (c : Cmd) (x : CtxSlot) (r : Range) :
    slotOf (freedNode n tid c x r) (cmdCtx c) = some (slotCleared x c) ∧ (freedNode n tid c x r).ctxs.freeing = [] ∧
      (∃ d, cmdOf (freedNode n tid c x r) tid = some d) ∧
      (freedNode n tid c x r).mem.stack = memClear n.mem.stack r.localOff (rangeBytes r) := by
  obtain ⟨hctx, htrk, -, hst⟩ :=
    discardSpan_keeps (setCmd (takenOut n tid c x r) tid { c with phase := .running, stage := 2, work := [1] }) r
  refine ⟨?_, rfl, ⟨_, (cmdOf_of_trk (by exact htrk) tid).trans (cmdOf_setCmd_same _ _ _)⟩, hst⟩
  simp only [freedNode, slotOf, hctx]
  exact Tbl.find?_put_same _ _ _

/-! ### RANGE_INVAL (R79) -/

/-- The node with the cached translations of the command's span dropped. -/
def invalXlate (n : Node) (c : Cmd) (x : CtxSlot) : Node :=
  if spanAll c then dropXlate n x.slotNo 0 (2 ^ 57) else dropXlate n x.slotNo (spanStart c) (spanSize c)

theorem rangeInval_ends {n : Node} {tid : Nat} {c : Cmd} {x : CtxSlot} (h : RangeStarts n tid 0x12 c)
    (hx : slotOf n (cmdCtx c) = some x) (hr : spanReserved c = false) (hq : n.trk.reqs = []) :
    ∃ d, rangeInval tid n = endCmd (setCmd (invalXlate n c x) tid d) tid stOK 0 0 := by
  have hs (m : Node) (hm : m.trk = n.trk) : staleRequests m c = [] := by simp [staleRequests, hm, hq]
  refine ⟨{ c with phase := .running, stage := 1, waits := [] }, ?_⟩
  simp only [rangeInval, h.cmd, not_running_of_canStart h.starts, rangeRow_starts h, Bool.false_eq_true, if_false]
  rw [beginInval, checked_passes h.commanded tid (by simp [h.context, hr]) (by simp [firstStatus, ctxActive_of_slot hx])]
  simp only [hx]
  rw [← invalXlate, hs _ (by unfold invalXlate; split <;> rfl)]
  simp [goOnInval, wordOf]

/-- No cached translation of the context's slot meets the command's span. -/
theorem invalXlate_clears {n : Node} {c : Cmd} {x : CtxSlot} (ha : spanAll c = false) {e : Nat × List XlateCopy}
    (he : e ∈ (invalXlate n c x).ctxs.xlate) {y : XlateCopy} (hy : y ∈ e.2) (hs : y.slotNo = x.slotNo) :
    meetsSpan c y.range = false := by
  simp only [invalXlate, ha, Bool.false_eq_true, if_false, dropXlate] at he
  obtain ⟨w, -, rfl⟩ := List.mem_map.1 (List.mem_of_mem_filter he)
  have hy := (List.mem_filter.1 hy).2
  simp only [hs, beq_self_eq_true, Bool.true_and, Bool.not_eq_true'] at hy
  simpa only [meetsSpan, ha, Bool.false_or] using hy

theorem invalXlate_keeps (n : Node) (c : Cmd) (x : CtxSlot) :
    (invalXlate n c x).ctxs.slots = n.ctxs.slots ∧ (invalXlate n c x).mem = n.mem := by
  unfold invalXlate
  split <;> exact ⟨rfl, rfl⟩

/-! ### REVOKE (R432–R434) -/

/-- The revocation that a REVOKE enters. -/
def revocationOf (c : Cmd) : Revocation := { ctx := cmdCtx c, start := spanStart c, gran := fieldOf (dword c 4) 31 0 }

theorem revoke_starts {n : Node} {tid : Nat} {c : Cmd} (h : RangeStarts n tid 0x18 c) (hu : revokeUndoes c = false) :
    revoke tid n = beginRevoke n tid c := by
  simp only [revoke, h.cmd, hu, not_running_of_canStart h.starts, rangeRow_starts h, Bool.false_eq_true, if_false]

/-- Nothing is held of any extent, and nothing runs: no line, request, Leap or command, and no packet of the command unanswered. -/
structure Unheld (n : Node) (tid : Nat) : Prop where
  coh : n.coh = Coherence.reset
  reqs : n.trk.reqs = []
  outs : n.ml.outs = []
  cmds : ∀ e ∈ n.trk.cmds, e.2.phase ≠ .running
  awaits : awaitsFor n tid = false

theorem revokedLines_of_unheld {n : Node} {c : Cmd} (h : n.coh = Coherence.reset) : revokedLines n c = [] := by
  simp [revokedLines, h, Coherence.reset]

theorem revokedLent_of_unheld {n : Node} {c : Cmd} (h : n.coh = Coherence.reset) : revokedLent n c = [] := by
  simp [revokedLent, h, Coherence.reset]

theorem revokeWaits_of_unheld {n : Node} {tid : Nat} {c : Cmd} (h : Unheld n tid) : revokeWaits n c = ([], []) := by
  have hrun : (n.trk.cmds.filter fun e => e.2.phase == .running && cmdCtx e.2 == cmdCtx c &&
      (isIndexOp (cmdOp e.2) || cmdOp e.2 == 0x39)) = [] :=
    List.filter_eq_nil_iff.2 fun e he => by simp [h.cmds e he]
  simp [revokeWaits, h.reqs, hrun]

/-- A REVOKE with nothing to withdraw and nothing to wait for ends. -/
theorem goOnRevoke_ends {n : Node} {tid : Nat} {c : Cmd} (hcoh : n.coh = Coherence.reset) (ha : awaitsFor n tid = false)
    (hw : c.waits = []) (hk : c.work = [0, 0]) : goOnRevoke n tid c = endCmd (setCmd n tid c) tid stOK 0 0 := by
  have hc : { c with work := [0, 0] } = c := by rw [← hk]
  have ha' : awaitsFor (setCmd n tid c) tid = false := ha
  simp only [goOnRevoke, revokedLines_of_unheld hcoh, revokedLent_of_unheld hcoh, List.filter_nil, List.foldl_nil, hk,
    List.getD_cons_zero, List.getD_cons_succ, List.length_nil, Nat.add_zero, hc]
  rw [revokedLines_of_unheld (by exact hcoh), revokedLent_of_unheld (by exact hcoh), ha', hw]
  rfl

/-- The node with the command's revocation entered. -/
def revokedNode (n : Node) (c : Cmd) : Node := { n with ctxs := { n.ctxs with revs := n.ctxs.revs ++ [revocationOf c] } }

theorem beginRevoke_ends {n : Node} {tid : Nat} {c : Cmd} (hw : WellCommanded n c) (h0 : cmdCtx c ≠ 0)
    (hr : revokeReserved c = false) (hc : n.ctxs.revs.any (revCovers c) = false) (hl : n.ctxs.revs.length < 1024)
    (h : Unheld n tid) : ∃ d, beginRevoke n tid c = endCmd (setCmd (revokedNode n c) tid d) tid stOK 0 0 := by
  have htgt : revokeTargets (revokedNode n c) c = [] := by simp [revokeTargets, revokedNode, h.outs]
  refine ⟨{ c with phase := .running, stage := 1, work := [0, 0], waits := [] }, ?_⟩
  rw [beginRevoke, checked_passes hw tid (by simp [h0, hr]) (by simp [firstStatus, hl])]
  simp only [hc, revokeWaits_of_unheld h, Bool.false_eq_true, if_false, List.append_nil, List.length_nil]
  rw [← revocationOf, ← revokedNode, htgt, List.foldl_nil, goOnRevoke_ends (by exact h.coh) (by exact h.awaits) rfl rfl,
    setCmd_setCmd]

theorem beginRevoke_full {n : Node} {c : Cmd} (hw : WellCommanded n c) (h0 : cmdCtx c ≠ 0) (hr : revokeReserved c = false)
    (hc : n.ctxs.revs.any (revCovers c) = false) (hl : 1024 ≤ n.ctxs.revs.length) (tid : Nat) :
    beginRevoke n tid c = refuseCmd n tid stNoResource := by
  rw [beginRevoke, checked_later (st := stNoResource) hw tid (by simp [h0, hr]) (by simp [firstStatus, hc, hl])]

/-- A granule inside the command's span is revoked once the revocation is entered. -/
theorem spanRevoked_revokedNode (n : Node) {c : Cmd} {g : Nat} (hl : spanStart c ≤ g) (hh : g < spanStart c + spanSize c) :
    spanRevoked (revokedNode n c) (cmdCtx c) g 1 = true := by
  have hh : g < spanStart c + fieldOf (dword c 4) 31 0 * 65536 := hh
  simp [spanRevoked, revokedNode, revocationOf, hh, hl]

theorem reinstate_starts {n : Node} {tid : Nat} {c : Cmd} (h : RangeStarts n tid 0x18 c) (hr : revokeReserved c = false)
    (hu : revokeUndoes c = true) :
    reinstate tid n = if n.ctxs.revs.any fun v => revMeets c v && !revInside c v then refuseCmd n tid stInvalid
      else endCmd { n with ctxs := { n.ctxs with revs := n.ctxs.revs.filter fun v => !revInside c v } } tid stOK 0 0 := by
  rw [reinstate, rangeRow_starts h]
  simp only [hu, Bool.not_true, Bool.false_eq_true, if_false]
  split
  · next hp => exact checked_invalid _ _ _ (by simp [hp]) _ _
  · next hp =>
      exact checked_passes h.commanded tid (by simp only [beq_eq_false_iff_ne.2 h.context, hr, Bool.not_eq_true _ ▸ hp]; rfl) rfl _

/-! ### The rows together -/

/-- Settles O25: each clause is one effect of its row, which the lemmas above name. -/
theorem rangesAndRevocations : Obligations.RangesAndRevocations := by
  unfold Obligations.RangesAndRevocations
  refine ⟨?_, ?_⟩
  · intro tid c x s hw ht h0 hx hf hq hb ctx new
    have starts {op : Nat} (hs : CanStart s.nd tid op c) : RangeStarts s.nd tid op c := ⟨hs, ht, hw, h0, hf⟩
    refine ⟨fun hs hr hi hsh hrep hp => moves_of_result
        (rangeSet_new (starts hs) hx rfl hr hrep (hrep ▸ hi) (hrep ▸ hsh) hp hq hb) rfl ?_,
      fun old hs hr hi hrep ho => moves_of_result (rangeSet_replace (starts hs) hx rfl hr hrep (hrep ▸ hi) ho) rfl ?_,
      fun hs hr => moves_of_result (rangeSet_reserved (starts hs) hr) rfl ⟨hasEnded_endCmd hs.1 _ _ _, endCmd_ctxs _ _ _ _ _⟩,
      fun hs hr ht0 hcoh hn hruns hp r hhit hd hh hcl => ?_,
      fun hs hr hm => moves_of_result (rangeClear_none (starts hs) hx hr hm) rfl
        ⟨hasEnded_of_trk hs.1 (by rfl) _ _ _, (slotOf_endCmd _ _ _ _ _ _).trans (slotOf_setSlot_same _ _ _), endCmd_mem _ _ _ _ _⟩,
      fun hs hr => ?_⟩
    · exact ⟨(slotOf_endCmd _ _ _ _ _ _).trans (slotOf_setSlot_same _ _ _), hasEnded_of_trk hs.1 (by rfl) _ _ _, endCmd_mem _ _ _ _ _,
        endCmd_rings _ _ _ _ _⟩
    · exact ⟨(slotOf_endCmd _ _ _ _ _ _).trans (slotOf_setSlot_same _ _ _), hasEnded_of_trk hs.1 (by rfl) _ _ _,
        endCmd_mem _ _ _ _ _⟩
    · obtain ⟨hslot, hfree, ⟨d, hc⟩, hst⟩ := freedNode_keeps s.nd tid c x r
      refine moves_of_result (rangeClear_one (starts hs) ⟨hq, hb, hcoh, hn, hruns⟩ hx ht0 hr hp hhit hd hh hcl) rfl
        ⟨(slotOf_endCmd _ _ _ _ _ _).trans hslot, hasEnded_endCmd hc _ _ _, fun a hl hu => ?_, fun a ha => ?_,
          by rw [endCmd_ctxs, hfree]⟩
      · rw [endCmd_mem, hst, memGet_clear, if_pos ⟨hl, hu⟩]
      · rw [endCmd_mem, hst, memGet_clear, if_neg (by simp only [localEnd] at ha; omega)]
    · obtain ⟨d, hd⟩ := rangeInval_ends (starts hs) hx hr hq.1
      obtain ⟨hslots, hmem⟩ := invalXlate_keeps s.nd c x
      exact moves_of_result hd rfl ⟨hasEnded_endCmd (cmdOf_setCmd_same _ _ _) _ _ _, by rw [endCmd_ctxs]; exact hslots,
        by rw [endCmd_mem]; exact hmem, fun e he y hy hs ha => by rw [endCmd_ctxs] at he; exact invalXlate_clears ha he hy hs⟩
  · intro tid c s hs hw ht h0 hr hf v
    have starts : RangeStarts s.nd tid 0x18 c := ⟨hs, ht, hw, h0, hf⟩
    refine ⟨fun hu hc hl hcoh hreq hout hcmd haw => ?_, fun hu hc hl => moves_of_result ((revoke_starts starts hu).trans
      (beginRevoke_full hw h0 hr hc hl tid)) rfl ⟨hasEnded_endCmd hs.1 _ _ _, endCmd_ctxs _ _ _ _ _⟩,
      fun hu hp => moves_of_result ((reinstate_starts starts hr hu).trans (if_neg (ne_true_of_eq_false hp))) rfl
        ⟨endCmd_ctxs _ _ _ _ _, hasEnded_endCmd (by exact hs.1) _ _ _⟩,
      fun hu hp => moves_of_result ((reinstate_starts starts hr hu).trans (if_pos hp)) rfl
        ⟨endCmd_ctxs _ _ _ _ _, hasEnded_endCmd hs.1 _ _ _⟩⟩
    obtain ⟨d, hd⟩ := beginRevoke_ends hw h0 hr hc hl ⟨hcoh, hreq, hout, hcmd, haw⟩
    refine moves_of_result ((revoke_starts starts hu).trans hd) rfl
      ⟨endCmd_ctxs _ _ _ _ _, hasEnded_endCmd (cmdOf_setCmd_same _ _ _) _ _ _, fun g hl hh => ?_⟩
    rw [spanRevoked, endCmd_ctxs]
    exact spanRevoked_revokedNode s.nd hl hh

end Sys2Proof.ContextRanges
end

section
/-! Forwards and repair reads at a mirror, resync requests at a primary, and their answers (O41). -/

namespace Sys2Proof.ContextRanges

open Sys2Proof.Machine Sys2Proof.Safety Sys2Proof.Organisation

/-! ### A packet with PEER comes to its command (R373) -/

/-- A request has come to its command, it is no duplicate, and nothing of its pair holds it back. -/
def FreshPeer (n : Node) (p : Packet) (a : Node) : Prop :=
  Taken n p a ∧ dupFate a p = .fresh ∧ pairHeld a p.dst.toNat p.src.toNat = false

theorem takePeer_fresh {n a : Node} {p : Packet} (h : FreshPeer n p a) (f g : Node → Packet → Node) : takePeer f g a p = f a p := by
  obtain ⟨_, hd, hh⟩ := h
  simp only [takePeer, hd, hh, Bool.false_eq_true, if_false]

/-- A row of packets with PEER, for one that is no duplicate. -/
theorem takeRow_fresh {kind : Packet → Bool} {n a : Node} {p : Packet} (hk : kind p = true) (h : FreshPeer n p a)
    (f g : Node → Packet → Node) : takeRow kind (takePeer f g) p n = settle (f a p) := by
  rw [takeRow_taken hk h.1, takePeer_fresh h]

/-! ### Forwards at a mirror (R95, R241, R372–R375) -/

/-- Every granule of the packet's span lies in a range that takes forwards from its sender. -/
def spanTakes (n : Node) (p : Packet) : Bool :=
  (granulesOf p.pva.toNat p.len.toNat).all fun g => ((rangeOf n p.ctx.toNat g).map fun r => takesForwards r p.src.toNat).getD false

/-- The lines of a forward, each with the PVA of its first byte. -/
def forwardSpan (n : Node) (p : Packet) : List (Nat × Nat) := (peerLines n p).map fun l => (l.1, l.2.1 / 64 * 64)

theorem newForward_invalid {a : Node} {p : Packet} (hi : peerInvalid a p = true) :
    newForward a p = refuseReq (noteReq a p) p stInvalid := by
  simp only [newForward, hi, if_true]

theorem newForward_denied {a : Node} {p : Packet} (hi : peerInvalid a p = false) (ht : spanTakes a p = false)
    (hf : ∀ e ∈ a.sol.parts, e.2.crec ≠ p.pva.toNat) :
    newForward a p = refuseReq (logEvent (noteReq a p) { otherEvent 6 10 with
      ctx := p.ctx.toNat, node := p.src.toNat, data0 := p.pva.toNat }) p stDenied := by
  have hrec : (a.sol.parts.any fun e => e.2.mirror && e.2.ctx == p.ctx.toNat && e.2.crec == p.pva.toNat) = false :=
    List.any_eq_false.2 fun e he => by simp [hf e he]
  unfold spanTakes at ht
  simp only [newForward, hi, ht, hrec, Bool.not_false, Bool.and_false, Bool.false_eq_true, if_false, if_true]

theorem newForward_applied {a f win : Node} {p : Packet} (hi : peerInvalid a p = false) (ht : spanTakes a p = true)
    (hm : markBefore (noteReq a p) p = none) (hr : ∀ l ∈ forwardSpan a p, restoringAt a l.1 = false)
    (hb : placeBusy a (reqRegion a p (forwardSpan a p)) (forwardSpan a p) p = false)
    (hw : takeWindow (noteReq a p) p.src.toNat = some win) (hf : prepForward (dropRepair a p) p = (f, .ready)) :
    newForward a p = forwardTracker (applyForward (noteReq { f with prs := win.prs } p) p) p := by
  have hr : ((forwardSpan a p).any fun l => restoringAt a l.1) = false := List.any_eq_false.2 fun l hl => by simp [hr l hl]
  unfold spanTakes at ht
  unfold forwardSpan at hr hb
  simp only [newForward, hi, ht, hm, hr, hb, hw, hf, Bool.not_true, Bool.false_and, Bool.false_eq_true, if_false]
  rfl

/-! ### Answers to forwards (R375, R376, R428) -/

/-- An answer has come to a packet of the module that is still open. -/
def AnswerCame (n : Node) (p : Packet) (a : Node) (u : Unanswered) : Prop :=
  accepting n = true ∧ Arrives n p a ∧ sentFor a p = some u

theorem forwardAnswer_came {n a : Node} {p : Packet} {u : Unanswered} (h : AnswerCame n p a u) (ho : p.opcode = 2) (hc : p.cls = 2)
    (hu : sentAsForward u.purpose = true) :
    forwardAnswer p n =
      if p.status.toNat = stRetry then settleSent a p
      else if p.status.toNat = stOK then settle (indexGo (settle (dropForwards a p.src.toNat (· == u))))
      else if n.ml.memb.suspended && (leapOfForward n u).isNone then putBack a p
      else settle (indexGo (settle (forwardRefused a u p.status.toNat))) := by
  obtain ⟨ha, hp, hs⟩ := h
  have hp : present n p = (a, true) := hp
  simp only [forwardAnswer, ho, hc, ha, hp, hs, hu, bne_self_eq_false, Bool.not_true, Bool.or_self, Bool.false_and,
    Bool.false_eq_true, if_false]

/-! ### Repair reads at a mirror (R475) -/

theorem newRepair_denied {a : Node} {p : Packet} {r : Range} (hi : peerInvalid a p = false)
    (hr : rangeOf a p.ctx.toNat p.pva.toNat = some r)
    (ho : ¬(r.mirrorRole = true ∧ r.peer = p.src.toNat ∧ r.departed = false)) :
    newRepair a p = refuseReq (noteReq a p) p stDenied := by
  have hf : (r.mirrorRole && r.peer == p.src.toNat && !r.departed) = false := by
    rw [Bool.eq_false_iff]
    simpa [and_assoc] using ho
  simp only [newRepair, hi, hr, Option.filter, hf, Bool.false_eq_true, if_false]

theorem newRepair_serves {a : Node} {p : Packet} {r : Range} (hi : peerInvalid a p = false)
    (hr : rangeOf a p.ctx.toNat p.pva.toNat = some r) (ho : r.mirrorRole = true ∧ r.peer = p.src.toNat ∧ r.departed = false)
    (hb : placeBusy a (lineRegion (lineAt r p.pva.toNat)) [(lineAt r p.pva.toNat, p.pva.toNat)] p = false) :
    newRepair a p = serveRepair a p r := by
  have hf : (r.mirrorRole && r.peer == p.src.toNat && !r.departed) = true := by simpa [and_assoc] using ho
  simp only [newRepair, hi, hr, Option.filter, hf, hb, Bool.false_eq_true, if_false, if_true]

/-- The live copy of the line cannot be read. -/
theorem serveRepair_poisoned {a o : Node} {p : Packet} {r : Range} (hw : takeWindow (noteReq a p) p.src.toNat = some o)
    (hv : vselOf p ≠ 1) (hb : (discarded a (lineAt r p.pva.toNat) || isPoisoned a (lineAt r p.pva.toNat)) = true) :
    serveRepair a p r = answerPeerRead o p stPoisoned [] := by
  simp only [serveRepair, hw, hv, hb, decide_false, Bool.false_and, Bool.false_eq_true, if_false, if_true]

/-- The live copy of the line is in its slice, or comes into it at once. -/
theorem serveRepair_ready {a o f : Node} {p : Packet} {r : Range} (hw : takeWindow (noteReq a p) p.src.toNat = some o)
    (hv : vselOf p ≠ 1) (hb : (discarded a (lineAt r p.pva.toNat) || isPoisoned a (lineAt r p.pva.toNat)) = false)
    (hf : fetchLine o p.ctx.toNat r (lineAt r p.pva.toNat) false = (f, .ready)) :
    serveRepair a p r = answerPeerRead f p stOK (lineData f (lineAt r p.pva.toNat)) := by
  simp only [serveRepair, hw, hv, hb, hf, decide_false, Bool.false_and, Bool.false_eq_true, if_false, if_true]
  rfl

/-! ### Resync requests at a primary (R396, R476) -/

/-- The mark of a line that its mirror asks for and that had none. -/
def askedMark (a : Node) (p : Packet) (line : Nat) : MdLine :=
  { evict := none, inList := (dirOf a line).isNone, resync := true, fwds := [], ctx := p.ctx.toNat, pva := p.pva.toNat, askers := [p],
    cmds := [] }

theorem againResync_marks {a : Node} {p : Packet} {r : Range} (hi : peerInvalid a p = false)
    (hr : rangeOf a p.ctx.toNat p.pva.toNat = some r)
    (hb : placeBusy a (lineRegion (lineAt r p.pva.toNat)) [(lineAt r p.pva.toNat, p.pva.toNat)] p = false)
    (hm : a.coh.mdirty = []) :
    let b := noteReq a p
    let line := lineAt r p.pva.toNat
    againResync a p = resyncLine { b with coh := { b.coh with mdirty := Tbl.put b.coh.mdirty line (askedMark a p line) } } line := by
  intro b line
  have hi' : peerInvalid b p = false := hi
  have hr' : rangeOf b p.ctx.toNat p.pva.toNat = some r := hr
  have hb' : placeBusy b (lineRegion line) [(line, p.pva.toNat)] p = false := hb
  have hm' : b.coh.mdirty = [] := hm
  have hfull : mdirtyFull b = false := by simp [mdirtyFull, hm']
  have hnone : Tbl.find? b.coh.mdirty line = none := by rw [hm']; rfl
  simp only [againResync, hm, List.any_nil, Bool.false_eq_true, if_false, newResync]
  rw [show noteReq a p = b from rfl, hi', hr']
  simp only [Bool.false_eq_true, if_false]
  rw [show lineAt r p.pva.toNat = line from rfl, hb', hfull, hnone]
  simp only [Bool.and_false, Bool.false_and, Bool.false_eq_true, if_false]
  rfl

/-! ### Answers to repair reads (R474) -/

theorem repairAnswer_data {n a o : Node} {p : Packet} {u : Unanswered} {line : Nat} (h : AnswerCame n p a u) (ho : p.opcode = 1)
    (hu : u.purpose = .repair line) (hc : p.cls = 3) (hs : p.status.toNat = stOK) (hf : openSlice a (blkOf line) = (o, .ready))
    (hd : discarded (settleSent o p) line = true) :
    repairAnswer p n = settle (lineRepaired (settleSent o p) line (payloadOf p)) := by
  obtain ⟨ha, hp, hsent⟩ := h
  have hp : present n p = (a, true) := hp
  simp [repairAnswer, ho, hc, ha, hp, hsent, hu, hs, hf, hd, stOK, stRetry]

theorem repairAnswer_refused {n a : Node} {p : Packet} {u : Unanswered} {line : Nat} (h : AnswerCame n p a u) (ho : p.opcode = 1)
    (hu : u.purpose = .repair line) (hc : p.cls = 2) (hs : p.status.toNat ≠ stOK) (hr : p.status.toNat ≠ stRetry)
    (hd : discarded (settleSent a p) line = true) :
    repairAnswer p n = settle (poisonUnread (settleSent a p) line) := by
  obtain ⟨ha, hp, hsent⟩ := h
  have hp : present n p = (a, true) := hp
  simp [repairAnswer, ho, hc, ha, hp, hsent, hu, hs, hr, hd]

theorem repairAnswer_retry {n a : Node} {p : Packet} {u : Unanswered} {line : Nat} (h : AnswerCame n p a u) (ho : p.opcode = 1)
    (hu : u.purpose = .repair line) (hc : p.cls = 2) (hs : p.status.toNat = stRetry) : repairAnswer p n = settleSent a p := by
  obtain ⟨ha, hp, hsent⟩ := h
  have hp : present n p = (a, true) := hp
  simp [repairAnswer, ho, hc, ha, hp, hsent, hu, hs]

/-! ### ADOPT_QUERY (R421) -/

theorem takeMgt_came {kind : Nat → Bool} {n a : Node} {p : Packet} (hs : mgtServed n = true) (hc : p.cls = 5)
    (hk : kind p.opcode.toNat = true) (hp : Arrives n p a) (f : Node → Packet → Node) : takeMgt kind f p n = f a p := by
  have hp : present n p = (a, true) := hp
  simp [takeMgt, hs, hc, hk, hp]

/-- COUNT of an ADOPT_QUERY. -/
def adoptCount (p : Packet) : Nat := fieldOf (wordAt (mgtWords p 1) 0) 31 16

/-- The lost node that an ADOPT_QUERY names. -/
def adoptLost (p : Packet) : Nat := fieldOf (wordAt (mgtWords p 1) 0) 15 0

/-- The SEQs that an ADOPT_QUERY names. -/
def adoptSeqs (p : Packet) : List Nat :=
  (List.range (adoptCount p)).map fun i => leNat (((payloadOf p).drop (8 + 4 * i)).take 4)

/-- An ADOPT_QUERY is well formed. -/
def AdoptGood (p : Packet) : Prop :=
  fieldOf (wordAt (mgtWords p 1) 0) 63 32 = 0 ∧ 1 ≤ adoptCount p ∧ adoptCount p ≤ 120 ∧
    8 + 4 * adoptCount p ≤ (payloadOf p).length

theorem adoptGood_iff (p : Packet) : AdoptGood p ↔
    (fieldOf (wordAt (mgtWords p 1) 0) 63 32 != 0 || adoptCount p == 0 || decide (120 < adoptCount p) ||
      decide ((payloadOf p).length < 8 + 4 * adoptCount p)) = false := by
  simp only [AdoptGood, Bool.or_eq_false_iff, bne_eq_false_iff_eq, beq_eq_false_iff_ne, decide_eq_false_iff_not]
  omega

theorem adopt_bad {a : Node} {p : Packet} (h : ¬AdoptGood p) : adopt a p = logEvent a { otherEvent 6 13 with node := p.src.toNat } := by
  rw [adoptGood_iff, Bool.not_eq_false] at h
  exact if_pos h

theorem adopt_good {a : Node} {p : Packet} (h : AdoptGood p) :
    adopt a p = if (adoptSeqs p).any fun q => adoptRunning a p.src.toNat (adoptLost p) q then putBack a p
      else sendPacket a { withPayload (responseTo a p 5 stOK)
        ((adoptSeqs p).flatMap fun q => adoptRecord a p.src.toNat (adoptLost p) q) with opcode := 0xB2 } .none := by
  rw [adoptGood_iff] at h
  exact if_neg (ne_true_of_eq_false h)

/-! ### The rows together -/

/-- Settles O41: each clause is one branch of its row's meaning, which the lemmas above name. -/
theorem mirrorsFollow : Obligations.MirrorsFollow := by
  unfold Obligations.MirrorsFollow
  intro p a f line r u s ctx pva b fresh takes lines answer st
  have forward {m : Node} (hf : fresh) (hk : isForward p = true) (h : newForward a p = m) :
      Moves (.peerForward p) s fun x => x = settle m := moves_of_result (takeRow_fresh hk hf _ _) rfl (congrArg settle h)
  refine ⟨fun hf hk hi => forward hf hk (newForward_invalid hi), fun hf hk hi ht hp => forward hf hk (newForward_denied hi ht hp),
    fun win hf hk hi ht hm hr hb hw hx => forward hf hk (newForward_applied hi ht hm hr hb hw hx),
    fun ha ho hc hu => ?_, fun hf hk hm hi hr hl => ?_, fun hf hk hm hi hr hl hb hd => ?_,
    fun ha => moves_of_result (if_pos ha) rfl rfl, fun ha => moves_of_result (if_neg (ne_true_of_eq_false ha)) rfl rfl,
    fun ha ho hu => ?_,
    fun hs hc ho hp => ?_⟩
  · have answered {m : Node} (h : forwardAnswer p s.nd = m) : Moves (.forwardAnswer p) s fun x => x = m := moves_of_result h rfl rfl
    have came := forwardAnswer_came ha ho hc hu
    refine ⟨fun hre => answered ?_, fun hok => answered ?_, fun hre hok hsus hleap => answered ?_,
      fun hre hok hsus hleap => answered ?_⟩
    · rw [came, if_pos hre]
    · rw [came, if_neg (by rw [show p.status.toNat = stOK from hok]; decide), if_pos hok]
    · rw [came, if_neg hre, if_neg hok, if_neg (by simp [hsus])]
    · rw [came, if_neg hre, if_neg hok, if_pos (by simp [hsus, hleap])]
  · subst hl
    have repair {m : Node} (h : newRepair a p = m) : Moves (.repairRead p) s fun x => x = settle m :=
      moves_of_result (takeRow_fresh (by simp [hk, hm]) hf _ _) rfl (congrArg settle h)
    exact ⟨fun ho => repair (newRepair_denied hi hr ho),
      fun o ho hb hw hv hx => repair ((newRepair_serves hi hr ho hb).trans (serveRepair_poisoned hw hv hx)),
      fun o ho hb hw hv hx hfetch => repair ((newRepair_serves hi hr ho hb).trans (serveRepair_ready hw hv hx hfetch))⟩
  · subst hl
    exact moves_of_result (takeRow_fresh (by simp [hk, hm]) hf _ _) rfl (congrArg settle (againResync_marks hi hr hb hd))
  · have answered {m : Node} (h : repairAnswer p s.nd = m) : Moves (.repairReadAnswer p) s fun x => x = m := moves_of_result h rfl rfl
    exact ⟨fun o hc hst hx hd => answered (repairAnswer_data ha ho hu hc hst hx hd),
      fun hc hok hre hd => answered (repairAnswer_refused ha ho hu hc hok hre hd),
      fun hc hst => answered (repairAnswer_retry ha ho hu hc hst)⟩
  · have asked {m : Node} (h : adopt a p = m) : Moves (.adoptQuery p) s fun x => x = m :=
      moves_of_result ((takeMgt_came hs hc (by rw [ho]; rfl) hp adopt).trans h) rfl rfl
    refine ⟨fun hg => asked (adopt_bad hg), fun hg hq => asked ((adopt_good hg).trans (if_neg ?_)),
      fun hg hq => asked ((adopt_good hg).trans (if_pos (List.any_eq_true.2 hq)))⟩
    rw [List.any_eq_true]
    rintro ⟨q, hmem, hrun⟩
    exact Bool.false_ne_true ((hq q hmem).symm.trans hrun)

end Sys2Proof.ContextRanges
end

section
/-! Ohmas ports: what frames, width changes, bring-up and going down leave of a port, and when a port is up (R101–R110, R129). -/

namespace Sys2Proof.OhmasLink

open Sys2Proof.Machine Sys2Proof.Safety Sys2Proof.Organisation

/-! ### Ports as read and replaced -/

theorem portAt_of_ports {m n : Node} (h : m.ports = n.ports) (i : Nat) : portAt m i = portAt n i := by simp only [portAt, h]

theorem portAt_setPort (n : Node) (i j : Nat) (o : OPort) :
    portAt (setPort n i o) j = if j = i ∧ i < 32 then o else portAt n j := by
  by_cases hj : j = i
  · subst hj
    by_cases hi : j < 32
    · rw [if_pos ⟨rfl, hi⟩]
      exact getAt_putAt_same n.ports ⟨j, hi⟩ o OPort.reset
    · simp [portAt, setPort, getAt, putAt, Vector.getD, hi]
  · rw [if_neg (fun h => hj h.1)]
    exact getAt_putAt_other _ _ _ _ _ hj

@[simp] theorem portAt_setPort_same (n : Node) (i : PortId) (o : OPort) : portAt (setPort n i.val o) i.val = o := by
  rw [portAt_setPort, if_pos ⟨rfl, i.isLt⟩]

/-- Past the last port there is nothing but reset values. -/
theorem portAt_beyond (n : Node) {i : Nat} (h : 32 ≤ i) : portAt n i = OPort.reset := by
  simp [portAt, getAt, Vector.getD, Nat.not_lt.2 h]

@[simp] theorem portAt_bump (n : Node) (off k i : Nat) : portAt (bump n off k) i = portAt n i := rfl
@[simp] theorem portAt_emit (n : Node) (x : Out) (i : Nat) : portAt (emit n x) i = portAt n i := rfl
@[simp] theorem portAt_logEvent (n : Node) (e : Event) (i : Nat) : portAt (logEvent n e) i = portAt n i := rfl

@[simp] theorem portAt_raiseAlert (n : Node) (b i : Nat) : portAt (raiseAlert n b) i = portAt n i :=
  portAt_of_ports (raiseAlert_ports n b) i

/-- Replacing a port keeps, of every port, what the new one has in common with the old. -/
theorem setPort_keeps {α : Type} (g : OPort → α) {n : Node} {i : Nat} {o : OPort} (h : g o = g (portAt n i)) (j : Nat) :
    g (portAt (setPort n i o) j) = g (portAt n j) := by
  rw [portAt_setPort]
  split
  · next hj => rw [h, hj.1]
  · rfl

/-! ### What stays of a port -/

/-- What no frame, width change, bring-up or fall of a port changes: its configuration and its rings and groups. -/
def portSetup (o : OPort) : (Word × Word × Nat × Word) × Nat × Nat × Nat × Nat :=
  ((o.cfgLive, o.cfgStage, o.gen, o.stat), o.txLocked, o.rxLocked, o.txFailed, o.rxFailed)

/-- Sending a control flit keeps whatever of a port lies outside its FSEQ, its replay buffer and what waits for room there. -/
theorem sendCtrl_keeps {α : Type} (g : OPort → α)
    (hg : ∀ (o : OPort) (f : Nat) (r : List (Nat × Nat × Nat × Bytes)) (w : List Bytes),
      g { o with fseqTx := f, replay := r, ctrlWait := w } = g o)
    (n : Node) (i : Nat) (flit : Bytes) (j : Nat) :
    g (portAt (sendCtrl n i flit) j) = g (portAt n j) := by
  unfold sendCtrl sendFrame
  dsimp only
  split
  · have sent := setPort_keeps g (n := n) (i := i) (hg (portAt n i) (((portAt n i).fseqTx + 1) % 2 ^ 16)
      ((portAt n i).replay ++ [((portAt n i).fseqTx, 3, 0, flit)]) (portAt n i).ctrlWait) j
    split
    · exact sent
    · exact sent
  · exact setPort_keeps g (hg _ (portAt n i).fseqTx (portAt n i).replay _) j

@[simp] theorem sendCtrl_portState (n : Node) (i : Nat) (flit : Bytes) (j : Nat) :
    portState (portAt (sendCtrl n i flit) j) = portState (portAt n j) := sendCtrl_keeps portState (fun _ _ _ _ => rfl) n i flit j

@[simp] theorem sendCtrl_portSetup (n : Node) (i : Nat) (flit : Bytes) (j : Nat) :
    portSetup (portAt (sendCtrl n i flit) j) = portSetup (portAt n j) := sendCtrl_keeps portSetup (fun _ _ _ _ => rfl) n i flit j

/-! ### Going down (R129) -/

/-- A port as going down leaves it. -/
def downPort (o : OPort) (st : Nat) : OPort :=
  { setTxGroups (setRxGroups (setPortState o st) 0) 0 with
    bringup := 0, txSwitch := none, rxSwitch := none, fseqTx := 0, fseqRx := 0, replay := [],
    awaitReplay := false, replayed := (0, 0), credits := [0, 0, 0, 0, 0, 0], owed := [0, 0, 0, 0, 0, 0], assembling := [],
    onWire := [], kaMissed := 0, ctrlWait := [] }

theorem portAt_takeDown (n : Node) (i st j : Nat) :
    portAt (takeDown n i st) j = if j = i ∧ i < 32 then downPort (portAt n i) st else portAt n j := by
  rw [← portAt_setPort]
  exact portAt_of_ports (foldl_keeps transmit (fun m : Node => m.ports) (fun n b => by simp) _ _) j

@[simp] theorem portState_downPort (o : OPort) (st : Nat) : portState (downPort o st) = st % 4 := by
  simp only [downPort, portState, setTxGroups, setRxGroups, setPortState]
  simp [fieldOf_putField_other]

theorem takeDown_not_up {n : Node} {i j : Nat} (h : j ≠ i → portState (portAt n j) ≠ 2) :
    portState (portAt (takeDown n i 0) j) ≠ 2 := by
  rw [portAt_takeDown]
  split
  · rw [portState_downPort]; decide
  · by_cases hj : j = i
    · rw [portAt_beyond n (by omega)]; decide
    · exact h hj

@[simp] theorem takeDown_portSetup (n : Node) (i st j : Nat) :
    portSetup (portAt (takeDown n i st) j) = portSetup (portAt n j) := by
  rw [portAt_takeDown]
  split
  · next h => rw [h.1]; rfl
  · rfl

/-! ### Bring-up (R110) -/

@[simp] theorem portState_setPortState (o : OPort) (st : Nat) : portState (setPortState o st) = st % 4 := by
  simp [portState, setPortState]

/-- A port that fails its bring-up is down, with the step on record. -/
theorem portAt_failBringup (n : Node) (i step j : Nat) : portAt (failBringup n i step) j =
    if j = i ∧ i < 32 then { setPortState (portAt n i) 0 with bringup := 0, failedStep := step } else portAt n j :=
  portAt_setPort n i j _

/-- What beginning bring-up makes of the ports: nothing, a failed step, or training. -/
theorem beginBringup_cases (n : Node) (i : Nat) : beginBringup n i = n ∨ (∃ k, beginBringup n i = failBringup n i k) ∨
    beginBringup n i = setPort n i { setPortState (portAt n i) 1 with bringup := 3, failedStep := 0 } := by
  unfold beginBringup
  dsimp only
  split
  · exact .inl rfl
  · split
    · exact .inr (.inl ⟨1, rfl⟩)
    · split
      · exact .inr (.inl ⟨2, rfl⟩)
      · exact .inr (.inr rfl)

@[simp] theorem beginBringup_portSetup (n : Node) (i j : Nat) :
    portSetup (portAt (beginBringup n i) j) = portSetup (portAt n j) := by
  rcases beginBringup_cases n i with h | ⟨k, h⟩ | h <;> rw [h]
  · exact setPort_keeps portSetup (by rfl) j
  · exact setPort_keeps portSetup (by rfl) j

/-- Beginning bring-up brings no port up. -/
theorem beginBringup_not_up {n : Node} {i j : Nat} (h : portState (portAt n j) ≠ 2) : portState (portAt (beginBringup n i) j) ≠ 2 := by
  rcases beginBringup_cases n i with hb | ⟨k, hb⟩ | hb <;> rw [hb]
  · exact h
  · rw [portAt_failBringup]
    split
    · exact Eq.trans_ne (portState_setPortState (portAt n i) 0) (by decide)
    · exact h
  · rw [portAt_setPort]
    split
    · exact Eq.trans_ne (portState_setPortState (portAt n i) 1) (by decide)
    · exact h

/-- A port that goes down is not up, and no other port comes up with it. -/
theorem portDown_not_up {n : Node} {i j : Nat} (h : j ≠ i → portState (portAt n j) ≠ 2) :
    portState (portAt (portDown n i) j) ≠ 2 := by
  unfold portDown
  dsimp only
  split
  · exact beginBringup_not_up (takeDown_not_up (by simpa using h))
  · next hd =>
    by_cases hj : j = i
    · simp only [Bool.or_eq_true, decide_eq_true_eq, not_or] at hd
      rw [hj]
      exact hd.2
    · exact h hj

@[simp] theorem portDown_portSetup (n : Node) (i j : Nat) : portSetup (portAt (portDown n i) j) = portSetup (portAt n j) := by
  unfold portDown
  dsimp only
  split <;> simp

@[simp] theorem portDown_power (n : Node) (i : Nat) : (portDown n i).power = n.power := by
  unfold portDown
  dsimp only
  split <;> simp

/-! ### Width changes (R108) -/

@[simp] theorem changeTxWidth_portSetup (n : Node) (i mask j : Nat) :
    portSetup (portAt (changeTxWidth n i mask) j) = portSetup (portAt n j) := by
  unfold changeTxWidth
  split
  · rfl
  · split
    · simp
    · rw [sendCtrl_portSetup]
      exact setPort_keeps portSetup (by rfl) j

@[simp] theorem askRxWidth_portSetup (n : Node) (i mask j : Nat) :
    portSetup (portAt (askRxWidth n i mask) j) = portSetup (portAt n j) := by
  unfold askRxWidth
  split
  · rfl
  · split <;> simp

end Sys2Proof.OhmasLink
end

section
/-! Frames, control flits, replay and keep-alive of a port (O35). -/

namespace Sys2Proof.OhmasLink

open Sys2Proof.Machine Sys2Proof.Safety Sys2Proof.Organisation

/-! ### Frames received (R101–R103) -/

/-- What becomes of a good frame once its acknowledgement has been taken. -/
def acceptFrame (i : Nat) (trailer : Word) (flit : Bytes) (n : Node) : Node :=
  if fieldOf trailer 3 0 = 0 then n
  else if fieldOf trailer 23 8 ≠ (portAt n i).fseqRx then discardFrame n i
  else
    let g := setPort n i { portAt n i with fseqRx := (fieldOf trailer 23 8 + 1) % 2 ^ 16, awaitReplay := false }
    if fieldOf trailer 3 0 = 3 then controlFlit i flit g else takeFlit g i (fieldOf trailer 3 0) (fieldOf trailer 6 4) flit

theorem acceptFrame_idle {trailer : Word} (h : fieldOf trailer 3 0 = 0) (i : Nat) (flit : Bytes) (n : Node) :
    acceptFrame i trailer flit n = n := if_pos h

theorem acceptFrame_disordered {trailer : Word} {n : Node} {i : Nat} (h : fieldOf trailer 3 0 ≠ 0)
    (hs : fieldOf trailer 23 8 ≠ (portAt n i).fseqRx) (flit : Bytes) : acceptFrame i trailer flit n = discardFrame n i := by
  simp only [acceptFrame, h, hs, if_false, ne_eq, not_false_eq_true, if_true]

theorem acceptFrame_ordered {trailer : Word} {n : Node} {i : Nat} (h : fieldOf trailer 3 0 ≠ 0)
    (hs : fieldOf trailer 23 8 = (portAt n i).fseqRx) (flit : Bytes) :
    let g := setPort n i { portAt n i with fseqRx := (fieldOf trailer 23 8 + 1) % 2 ^ 16, awaitReplay := false }
    acceptFrame i trailer flit n = if fieldOf trailer 3 0 = 3 then controlFlit i flit g
      else takeFlit g i (fieldOf trailer 3 0) (fieldOf trailer 6 4) flit := by
  simp only [acceptFrame, h, hs, if_false, ne_eq, not_true_eq_false]

theorem receiveFrame_closed {n : Node} {i : Nat} (hs : portState (portAt n i) ≠ 2) (hb : (portAt n i).bringup ≠ 6) (w : Nat)
    (trailer : Word) (flit : Bytes) (fecOk : Bool) : receiveFrame i w trailer flit fecOk n = n := by
  simp [receiveFrame, hs, hb]

section
variable {n : Node} {i : Nat} (up : portState (portAt n i) = 2)
include up

theorem receiveFrame_uncorrected (w : Nat) (trailer : Word) (flit : Bytes) :
    receiveFrame i w trailer flit false n = discardFrame (bump n (portCounter i (16 + w)) 1) i := by
  simp [receiveFrame, up]

theorem receiveFrame_badCrc {trailer : Word} {flit : Bytes} (hc : fieldOf trailer 63 40 ≠ frameCrc flit (fieldOf trailer 39 0))
    (w : Nat) : receiveFrame i w trailer flit true n = discardFrame (bump n (portCounter i 32) 1) i := by
  simp [receiveFrame, up, hc]

theorem receiveFrame_reserved {trailer : Word} {flit : Bytes} (hc : fieldOf trailer 63 40 = frameCrc flit (fieldOf trailer 39 0))
    (hk : ¬ (fieldOf trailer 3 0 < 4 ∧ fieldOf trailer 6 4 < 6)) (w : Nat) :
    receiveFrame i w trailer flit true n = discardFrame n i := by
  have hr : 4 ≤ fieldOf trailer 3 0 ∨ 6 ≤ fieldOf trailer 6 4 := by omega
  simp [receiveFrame, up, hc, hr]

theorem receiveFrame_good {trailer : Word} {flit : Bytes} (hc : fieldOf trailer 63 40 = frameCrc flit (fieldOf trailer 39 0))
    (hk : fieldOf trailer 3 0 < 4 ∧ fieldOf trailer 6 4 < 6) (w : Nat) :
    receiveFrame i w trailer flit true n = acceptFrame i trailer flit
      (if bitOf trailer 7 then ackFrames (goodFrame i n) i (fieldOf trailer 39 24) else goodFrame i n) := by
  obtain ⟨hf, hv⟩ := hk
  simp [receiveFrame, up, hc, Nat.not_le.2 hf, Nat.not_le.2 hv, acceptFrame]

end

/-! ### Replay (R104) -/

/-- The FSEQ of a frame stands in its trailer. -/
theorem fseq_frameTrailer (ftype vc : Nat) (ackv : Bool) (fseq ack : Nat) (flit : Bytes) :
    fieldOf (frameTrailer ftype vc ackv fseq ack flit) 23 8 = fseq % 65536 := by
  have hb : bit01 ackv ≤ 1 := by cases ackv <;> decide
  simp only [fieldOf, frameTrailer, wordOf, trailerLow, BitVec.toNat_ofNat]
  generalize frameCrc _ _ = crc
  omega

/-- Several emissions, one after another. -/
def emitAll (n : Node) (os : List Out) : Node := { n with out := n.out ++ os }

@[simp] theorem portAt_emitAll (n : Node) (os : List Out) (i : Nat) : portAt (emitAll n os) i = portAt n i := rfl
@[simp] theorem emitAll_mem (n : Node) (os : List Out) : (emitAll n os).mem = n.mem := rfl
@[simp] theorem emitAll_prs (n : Node) (os : List Out) : (emitAll n os).prs = n.prs := rfl
@[simp] theorem emitAll_out (n : Node) (os : List Out) : (emitAll n os).out = n.out ++ os := rfl

theorem foldl_emit {α : Type} (f : α → Out) (l : List α) (n : Node) :
    l.foldl (fun n x => emit n (f x)) n = emitAll n (l.map f) := by
  induction l generalizing n with
  | nil => simp [emitAll]
  | cons x l ih => rw [List.foldl_cons, ih]; simp [emitAll, emit]

/-- A port that replays from an FSEQ counts that it does so. -/
def replayingPort (o : OPort) (e : Nat) : OPort :=
  { o with replayed := (e, (if o.replayed.1 = e then o.replayed.2 else 0) + 1) }

section
variable {n : Node} {i : PortId} {flit : Bytes} (up : portState (portAt n i.val) = 2)
include up

/-- Replayed eight times without being acknowledged, the FSEQ takes the port down. -/
theorem replay_exhausted
    (ht : 8 ≤ if (portAt n i.val).replayed.1 = numAt flit 8 2 then (portAt n i.val).replayed.2 else 0) :
    replay i.val flit n =
      portDown (setPort n i.val { portAt n i.val with status := putField (portAt n i.val).status 31 31 1 }) i.val := by
  simp only [replay, up, bne_self_eq_false, Bool.false_and, Bool.false_eq_true, if_false, ht, if_true]

/-- The frames from the FSEQ named are sent once more, and that is counted. -/
theorem replay_again
    (ht : (if (portAt n i.val).replayed.1 = numAt flit 8 2 then (portAt n i.val).replayed.2 else 0) < 8)
    (hf : framesStopped n = false) :
    let o := portAt n i.val
    let again := o.replay.filter fun f => serialLe 16 (numAt flit 8 2) f.1
    replay i.val flit n = again.foldl (fun n f => emit n (.frame i.val
        (frameTrailer f.2.1 f.2.2.1 (o.fseqRx != 1) f.1 (o.fseqRx + 2 ^ 16 - 1) f.2.2.2) f.2.2.2))
      (bump (bump (setPort n i.val (replayingPort o (numAt flit 8 2))) (portCounter i.val 33) 1) (portCounter i.val 34)
        again.length) := by
  have go : ∀ a b, framesStopped (bump (bump (setPort n i.val a) (portCounter i.val 33) 1) (portCounter i.val 34) b) = false :=
    fun _ _ => hf
  simp only [replay, up, bne_self_eq_false, Bool.false_and, Bool.false_eq_true, if_false, Nat.not_le.2 ht, go]
  rfl

end

/-! ### Keep-alive (R106) -/

theorem loseKeepalive_up {n : Node} {i : Nat} (up : portState (portAt n i) = 2) : loseKeepalive i n =
    portDown (bump (setPort n i { portAt n i with status := putField (portAt n i).status 30 30 1 }) (portCounter i 39) 1) i := by
  simp [loseKeepalive, up]

theorem loseKeepalive_idle {n : Node} {i : Nat} (h : portState (portAt n i) ≠ 2) : loseKeepalive i n = n := by
  simp [loseKeepalive, h]

/-- A period's end on an up port: the count of missed periods grows, and KEEPALIVE goes out. A feigned loss counts it on port 0. -/
theorem sendKeepalive_up {n : Node} {i : Nat} (up : portState (portAt n i) = 2) :
    let o := portAt n i
    sendKeepalive i n =
      sendCtrl (setPort (if i = 0 then { n with flt := { n.flt with feign := n.flt.feign - 1 } } else n) i
        { o with kaCount := (o.kaCount + 1) % 2 ^ 32, kaMissed := o.kaMissed + 1 }) i (keepaliveFlit ((o.kaCount + 1) % 2 ^ 32)) := by
  have same : portAt (if i = 0 then { n with flt := { n.flt with feign := n.flt.feign - 1 } } else n) i = portAt n i := by
    split <;> rfl
  simp only [sendKeepalive, same, up, bne_self_eq_false, Bool.false_eq_true, if_false]

/-! ### The rows together -/

/-- Settles O35: each clause is one branch of what the row does to the port. -/
theorem linkFramesAndFlits : Obligations.LinkFramesAndFlits := by
  unfold Obligations.LinkFramesAndFlits
  intro port w trailer flit fecOk s i o up receive ftype whole known asks e tries
  have frame {P : Node → Prop} (h : P (receiveFrame i w.val trailer flit fecOk s.nd)) : Moves receive s P :=
    moves_of_onNode (receiveFrame i w.val trailer flit fecOk) rfl h
  have lost {P : Node → Prop} (h : P (loseKeepalive i s.nd)) : Moves (.keepaliveLost port) s P :=
    moves_of_onNode (loseKeepalive i) rfl h
  have again {P : Node → Prop} (h : P (replay i flit s.nd)) : Moves (.replayReq port flit) s P :=
    moves_of_onNode (replay i flit) rfl h
  refine ⟨fun hu hf => frame ?_, fun hu hf hw => frame ?_, fun hu ⟨hf, hc⟩ hk => frame ?_, fun hu ⟨hf, hc⟩ hk h7 => ?_,
    fun hu ⟨hf, hc⟩ hk h7 h0 => frame ?_, fun hs hb => frame (receiveFrame_closed hs hb _ _ _ _),
    moves_of_onNode (takeCredits i flit) rfl rfl, moves_of_onNode (goodFrame i) rfl rfl,
    fun hu => moves_of_onNode (sendKeepalive i) rfl (sendKeepalive_up hu), fun hu => lost ⟨loseKeepalive_up hu, ?_⟩,
    fun hu ht => again ⟨replay_exhausted hu ht, ?_⟩, fun hu ht hf => again ?_, fun hs => lost (loseKeepalive_idle hs)⟩
  · rw [hf]
    exact receiveFrame_uncorrected hu _ _ _
  · rw [hf]
    exact receiveFrame_badCrc hu (fun hc => hw ⟨hf, hc⟩) _
  · rw [hf]
    exact receiveFrame_reserved hu hc hk _
  · have good : receiveFrame i w.val trailer flit fecOk s.nd = acceptFrame i trailer flit (goodFrame i s.nd) := by
      rw [hf, receiveFrame_good hu hc hk, h7]; rfl
    have expected : (portAt (goodFrame i s.nd) i).fseqRx = o.fseqRx := by simp [goodFrame, i, o]
    refine ⟨fun h0 => frame ?_, fun h0 hne => frame ?_, fun h3 heq => frame ?_, fun h12 heq => frame ?_⟩
    · rw [good, acceptFrame_idle h0]
      exact ⟨rfl, by simp [goodFrame, i]⟩
    · rw [good, acceptFrame_disordered h0 (expected ▸ hne)]
    · rw [good, acceptFrame_ordered (by omega) (heq.trans expected.symm)]
      exact if_pos h3
    · rw [good, acceptFrame_ordered (by omega) (heq.trans expected.symm)]
      exact if_neg (by omega)
  · rw [hf, receiveFrame_good hu hc hk, h7, acceptFrame_idle h0]; rfl
  · rw [loseKeepalive_up hu]
    exact portDown_not_up fun h => absurd rfl h
  · rw [replay_exhausted hu ht]
    exact portDown_not_up fun h => absurd rfl h
  · rw [replay_again hu ht hf, foldl_emit]
    simp only [i, portAt_emitAll, portAt_bump, portAt_setPort_same, emitAll_mem, emitAll_prs, emitAll_out]
    refine ⟨rfl, rfl, rfl, rfl, ?_⟩
    simp [setPort, fseq_frameTrailer, o, e, i]

end Sys2Proof.OhmasLink
end

section
/-! Lane groups and widths, bring-up of a port, and the optical supply (O36). -/

namespace Sys2Proof.OhmasLink

open Sys2Proof.Machine Sys2Proof.Safety Sys2Proof.Organisation

/-! ### Masks and small numbers -/

/-- A single bit of a mask, as the model reads it. -/
theorem natField_bit (n k : Nat) : natField n k k = (n.testBit k).toNat := by
  rw [natField, Nat.add_sub_cancel_left, pow_one, Nat.toNat_testBit]

theorem leNat_lt (bs : Bytes) : leNat bs < 256 ^ bs.length := by
  induction bs with
  | nil => decide
  | cons b bs ih =>
    have hb : b.toNat < 256 := b.isLt
    rw [leNat, List.length_cons, pow_succ]
    omega

/-- A number read from `n` bytes fits in them. -/
theorem numAt_lt (bs : Bytes) (o n : Nat) : numAt bs o n < 256 ^ n := by
  have h := leNat_lt (sliceOf bs o n)
  have hl : (sliceOf bs o n).length = n := by simp [sliceOf]
  rwa [hl] at h

/-! ### Widths (R107, R108) -/

/-- The groups of a port in a direction. -/
def groupsOf (tx : Bool) (o : OPort) : Nat := if tx then txGroups o else rxGroups o

/-- The width change that a port has under way in a direction. -/
def switchOf (tx : Bool) (o : OPort) : Option (Nat × Nat) := if tx then o.txSwitch else o.rxSwitch

/-- A port whose width in a direction has become that of a new mask. -/
def switchedPort (o : OPort) (tx : Bool) (mask : Nat) : OPort :=
  let p := if tx then { setTxGroups o mask with txSwitch := none } else { setRxGroups o mask with rxSwitch := none }
  if groupCount mask < groupCount (groupsOf tx o) then { p with status := putField p.status 32 32 1 } else p

theorem applyWidth_eq (n : Node) (i : Nat) (tx : Bool) (mask : Nat) : ∃ k,
    let m := bump (setPort n i (switchedPort (portAt n i) tx mask)) k 1
    applyWidth n i tx mask = if groupCount mask < 2 then portDown m i else m := by
  refine ⟨portCounter i ((if tx then 35 else 37) + if groupCount mask < groupCount (groupsOf tx (portAt n i)) then 0 else 1), ?_⟩
  simp only [applyWidth, switchedPort, groupsOf, decide_eq_true_eq]
  rfl

theorem applyWidth_wide {mask : Nat} (h : 2 ≤ groupCount mask) (n : Node) (i : Nat) (tx : Bool) :
    ∃ k, applyWidth n i tx mask = bump (setPort n i (switchedPort (portAt n i) tx mask)) k 1 := by
  obtain ⟨k, hk⟩ := applyWidth_eq n i tx mask
  exact ⟨k, hk.trans (if_neg (Nat.not_lt.2 h))⟩

/-- Fewer than two groups take a port down. -/
theorem applyWidth_narrow {mask : Nat} (h : groupCount mask < 2) (n : Node) (i : Nat) (tx : Bool) :
    portState (portAt (applyWidth n i tx mask) i) ≠ 2 := by
  obtain ⟨k, hk⟩ := applyWidth_eq n i tx mask
  rw [hk, if_pos h]
  exact portDown_not_up fun hi => absurd rfl hi

theorem widthSwitch_due {n : Node} {i : Nat} {tx : Bool} {mask count : Nat}
    (hs : switchOf tx (portAt n i) = some (mask, count)) (up : portState (portAt n i) = 2) :
    widthSwitch i tx n = applyWidth n i tx mask := by
  unfold switchOf at hs
  simp only [widthSwitch, hs, up, if_true]

theorem widthSwitch_none {n : Node} {i : Nat} {tx : Bool} (hs : switchOf tx (portAt n i) = none) : widthSwitch i tx n = n := by
  unfold switchOf at hs
  simp only [widthSwitch, hs]

theorem switchedPort_reads (o : OPort) (tx : Bool) (mask : Nat) :
    groupsOf tx (switchedPort o tx mask) = mask % 16 ∧ switchOf tx (switchedPort o tx mask) = none ∧
      portState (switchedPort o tx mask) = portState o := by
  cases tx <;> unfold switchedPort <;> dsimp only <;> split <;>
    simp [groupsOf, switchOf, txGroups, rxGroups, portState, setTxGroups, setRxGroups, fieldOf_putField_other]

theorem switchedPort_keeps (o : OPort) (tx : Bool) (mask : Nat) :
    (switchedPort o tx mask).fseqTx = o.fseqTx ∧ (switchedPort o tx mask).replay = o.replay := by
  cases tx <;> unfold switchedPort <;> dsimp only <;> split <;> exact ⟨rfl, rfl⟩

/-- A port with a group marked failed in a direction. -/
def failedPort (o : OPort) (tx : Bool) (g : Nat) (soon : Bool) : OPort :=
  let out := soon && natField o.returned (g + (if tx then 0 else 4)) (g + (if tx then 0 else 4)) == 1
  if tx then { o with txFailed := o.txFailed ||| 2 ^ g, txOut := if out then o.txOut ||| 2 ^ g else o.txOut }
  else { o with rxFailed := o.rxFailed ||| 2 ^ g, rxOut := if out then o.rxOut ||| 2 ^ g else o.rxOut }

theorem failGroup_eq (n : Node) (i : Nat) (tx : Bool) (g : Nat) (soon : Bool) :
    let p := failedPort (portAt n i) tx g soon
    failGroup n i tx g soon = if natField (groupsOf tx p) g g = 0 then setPort n i p
      else if tx then changeTxWidth (setPort n i p) i (groupsOf tx p ^^^ 2 ^ g)
      else askRxWidth (setPort n i p) i (groupsOf tx p ^^^ 2 ^ g) := rfl

/-- Marking a group failed may change the width, and so take the port down; its rings and marks are as marked. -/
theorem failGroup_portSetup (n : Node) (i : PortId) (tx : Bool) (g : Nat) (soon : Bool) :
    portSetup (portAt (failGroup n i.val tx g soon) i.val) = portSetup (failedPort (portAt n i.val) tx g soon) := by
  rw [failGroup_eq]
  (repeat' split) <;> simp

theorem failedPort_rings (o : OPort) (tx : Bool) (g : Nat) (soon : Bool) :
    (failedPort o tx g soon).txLocked = o.txLocked ∧ (failedPort o tx g soon).rxLocked = o.rxLocked ∧
      (if tx then (failedPort o tx g soon).txFailed else (failedPort o tx g soon).rxFailed).testBit g = true := by
  cases tx <;> exact ⟨rfl, rfl, by simp [failedPort]⟩

/-- A group that has failed shows as failed, and the rings are as Halord last found them. -/
theorem failGroup_marks (n : Node) (i : PortId) (tx : Bool) (g : Nat) (soon : Bool) :
    let q := portAt (failGroup n i.val tx g soon) i.val
    q.txLocked = (portAt n i.val).txLocked ∧ q.rxLocked = (portAt n i.val).rxLocked ∧
      (if tx then q.txFailed else q.rxFailed).testBit g = true := by
  obtain ⟨h1, h2, h3⟩ := failedPort_rings (portAt n i.val) tx g soon
  have hs := failGroup_portSetup n i tx g soon
  simp only [portSetup, Prod.mk.injEq] at hs
  obtain ⟨_, ht, hr, hft, hfr⟩ := hs
  exact ⟨ht.trans h1, hr.trans h2, by rw [hft, hfr]; exact h3⟩

/-- Halord's finding on a ring, as the port notes it. -/
def revisitedPort (o : OPort) (tx : Bool) (w : Nat) (held : Bool) : OPort :=
  let set := fun (m : Nat) => if held then m ||| 2 ^ w else if natField m w w = 1 then m - 2 ^ w else m
  if tx then { o with txLocked := set o.txLocked } else { o with rxLocked := set o.rxLocked }

theorem ringRevisit_held (i : Nat) (tx : Bool) (w : Nat) (soon : Bool) (n : Node) :
    ringRevisit i tx w true soon n = setPort n i (revisitedPort (portAt n i) tx w true) := rfl

theorem ringRevisit_lost (i : Nat) (tx : Bool) (w : Nat) (soon : Bool) (n : Node) : ringRevisit i tx w false soon n =
    failGroup (logEvent (setPort n i (revisitedPort (portAt n i) tx w false)) { otherEvent 2 4 with uclass := 1, unit_ := i, data0 := w })
      i tx (w / 4) soon := rfl

/-- A ring that cannot be held is not locked. -/
theorem revisitedPort_lost (o : OPort) (tx : Bool) (w : Nat) :
    natField (if tx then (revisitedPort o tx w false).txLocked else (revisitedPort o tx w false).rxLocked) w w = 0 := by
  have clear (m : Nat) : natField (if natField m w w = 1 then m - 2 ^ w else m) w w = 0 := by
    rw [natField_bit m, natField_bit]
    cases hb : m.testBit w
    · simp [hb]
    · simp [testBit_sub_two_pow_of_testBit hb]
  cases tx
  · exact clear o.rxLocked
  · exact clear o.txLocked

/-! ### Corrected symbols (R108) -/

/-- The corrected symbols of a group's wavelengths are counted. -/
def symbolsCounted (n : Node) (i g : Nat) (symbols : List Nat) : Node :=
  (List.range 4).foldl (fun n k => bump n (portCounter i (4 * g + k)) (symbols.getD k 0)) n

theorem symbolsCounted_alm (n : Node) (i g : Nat) (symbols : List Nat) : (symbolsCounted n i g symbols).alm = n.alm :=
  foldl_keeps _ (fun m : Node => m.alm) (fun n k => by simp) _ _

theorem degradeWindow_eq (i g : Nat) (symbols : List Nat) (soon : Bool) (n : Node) :
    let c := symbolsCounted n i g symbols
    let total := (symbols.take 4).foldl (· + ·) 0
    degradeWindow i g symbols soon n = if cfgNum n 0x0107 < total then
        failGroup (logEvent c { otherEvent 2 5 with uclass := 1, unit_ := i, data0 := g, data1 := total }) i false g soon
      else c := by
  have limit : cfgNum (symbolsCounted n i g symbols) 0x0107 = cfgNum n 0x0107 := by rw [cfgNum, symbolsCounted_alm]; rfl
  dsimp only
  rw [← limit]
  rfl

/-! ### A group returns (R109) -/

/-- A group that may return does so, and the width with it. -/
theorem returnGroup_back {n : Node} {i : Nat} {tx : Bool} {g : Nat} (soon : Bool) (up : portState (portAt n i) = 2)
    (hout : natField (if tx then (portAt n i).txOut else (portAt n i).rxOut) g g = 0)
    (hlock : natField (lockedGroups (if tx then (portAt n i).txLocked else (portAt n i).rxLocked)) g g = 1)
    (huse : natField (groupsOf tx (portAt n i)) g g = 0)
    (hnew : natField (allowedGroups (portAt n i) (groupsOf tx (portAt n i) ||| 2 ^ g)) g g = 1)
    (hret : natField (portAt n i).returned (g + if tx then 0 else 4) (g + if tx then 0 else 4) = 0) :
    let o := portAt n i
    let new := allowedGroups o (groupsOf tx o ||| 2 ^ g)
    let rb := g + if tx then 0 else 4
    let p := if tx then { o with returned := o.returned + 2 ^ rb, txFailed := o.txFailed &&& (15 - 2 ^ g) }
      else { o with returned := o.returned + 2 ^ rb, rxFailed := o.rxFailed &&& (15 - 2 ^ g) }
    returnGroup i tx g soon n = if tx then changeTxWidth (setPort n i p) i new else askRxWidth (setPort n i p) i new := by
  cases tx <;> simp only [groupsOf, if_true, if_false, Bool.false_eq_true, Nat.add_zero] at hout hlock huse hnew hret ⊢ <;>
    simp [returnGroup, up, hout, hlock, huse, hnew, hret]

/-! ### Bring-up (R110, R137) -/

/-- Two groups or more are found in both directions. -/
def GroupsFound (o : OPort) (tx rx : Nat) : Prop :=
  2 ≤ groupCount (allowedGroups o (lockedGroups o.txLocked &&& tx)) ∧
    2 ≤ groupCount (allowedGroups o (lockedGroups o.rxLocked &&& rx))

theorem groupsFound_iff (o : OPort) (tx rx : Nat) : GroupsFound o tx rx ↔
    (decide (groupCount (allowedGroups o (lockedGroups o.txLocked &&& tx)) < 2) ||
      decide (groupCount (allowedGroups o (lockedGroups o.rxLocked &&& rx)) < 2)) = false := by
  simp only [GroupsFound, Bool.or_eq_false_iff, decide_eq_false_iff_not, not_lt]

/-- The node once codewords are aligned: the groups found are in use, and the transmit mask goes to the peer. -/
def lockedNode (n : Node) (i tx rx : Nat) : Node :=
  let o := portAt n i
  let lock := allowedGroups o (lockedGroups o.txLocked &&& tx)
  emit (setPort n i { setRxGroups (setTxGroups o lock) (allowedGroups o (lockedGroups o.rxLocked &&& rx)) with bringup := 4 })
    (.ctrl i (laneStateFlit lock 0))

section
variable {n : Node} {i tx rx : Nat} (hb : (portAt n i).bringup = 3)
include hb

theorem codewordLock_waits (h : GroupsFound (portAt n i) tx rx) (hp : (portAt n i).rxSwitch = none) :
    codewordLock i tx rx n = lockedNode n i tx rx := by
  rw [groupsFound_iff] at h
  simp only [codewordLock, hb, h, hp, bne_self_eq_false, Bool.false_eq_true, if_false, lockedNode]

theorem codewordLock_agrees {mask count : Nat} (h : GroupsFound (portAt n i) tx rx) (hp : (portAt n i).rxSwitch = some (mask, count)) :
    codewordLock i tx rx n = lanesAgreed (lockedNode n i tx rx) i mask := by
  rw [groupsFound_iff] at h
  simp only [codewordLock, hb, h, hp, bne_self_eq_false, Bool.false_eq_true, if_false, lockedNode]

theorem codewordLock_short (h : ¬ GroupsFound (portAt n i) tx rx) : codewordLock i tx rx n = failBringup n i 3 := by
  rw [groupsFound_iff, Bool.not_eq_false] at h
  simp only [codewordLock, hb, h, bne_self_eq_false, Bool.false_eq_true, if_false, if_true]

end

/-- The step that failed stands on record, and the port is down. -/
theorem failBringup_reads (n : Node) (i : PortId) (step : Nat) :
    portState (portAt (failBringup n i.val step) i.val) = 0 ∧ (portAt (failBringup n i.val step) i.val).failedStep = step := by
  rw [portAt_failBringup, if_pos ⟨rfl, i.isLt⟩]
  exact ⟨portState_setPortState _ 0, rfl⟩

section
variable {n : Node} {i : Nat} {flit : Bytes}

theorem laneState_agrees (hb : (portAt n i).bringup = 4) : laneState i flit n = lanesAgreed n i (numAt flit 8 1 % 16) := by
  simp [laneState, hb]

theorem laneState_announces (up : portState (portAt n i) = 2) (hb : (portAt n i).bringup = 0) (hc : 2 ≤ numAt flit 9 1) :
    laneState i flit n = setPort n i { portAt n i with rxSwitch := some (numAt flit 8 1 % 16, numAt flit 9 1) } := by
  simp [laneState, up, hb, show numAt flit 9 1 ≠ 0 by omega]

theorem laneState_asks (up : portState (portAt n i) = 2) (hb : (portAt n i).bringup = 0) (hc : numAt flit 9 1 = 0) :
    laneState i flit n =
      changeTxWidth n i (allowedGroups (portAt n i) (numAt flit 8 1 % 16 &&& lockedGroups (portAt n i).txLocked)) := by
  simp [laneState, up, hb, hc]

end

/-- A port as HELLO brings it up. -/
def greetedPort (n : Node) (o : OPort) (flit : Bytes) : OPort :=
  { setPortState o 2 with
    status := putField (setPortState o 2).status 29 14 (numAt flit 8 2), bringup := 0, failedStep := 0, kaMissed := 0,
    peerMax := if numAt flit 12 1 = 1 || n.alm.personality = 1 then 2048 else 4096,
    credits := (List.range 6).map fun c => numAt flit (16 + 2 * c) 2 }

theorem hello_accepted {n : Node} {i : Nat} {flit : Bytes} (hb : (portAt n i).bringup = 6)
    (hr : helloRefused n i (numAt flit 8 2) (numAt flit 10 2) = false) :
    hello i flit n = flushUnsent (setPort n i (greetedPort n (portAt n i) flit)) := by
  simp only [hello, hb, hr, bne_self_eq_false, Bool.false_eq_true, if_false]
  rfl

theorem greetedPort_reads (n : Node) (o : OPort) (flit : Bytes) : portState (greetedPort n o flit) = 2 ∧
    fieldOf (greetedPort n o flit).status 29 14 = numAt flit 8 2 := by
  have small : numAt flit 8 2 < 2 ^ (29 + 1 - 14) := numAt_lt flit 8 2
  simp only [greetedPort, portState, setPortState]
  rw [fieldOf_putField_other _ _ _ _ _ _ (by decide) (by decide) (by decide), fieldOf_putField_same _ _ _ _ (by decide) (by decide),
    fieldOf_putField_same _ _ _ _ (by decide) (by decide), Nat.mod_eq_of_lt small]
  exact ⟨rfl, rfl⟩

theorem hello_mismatched {n : Node} {i : Nat} {flit : Bytes} (hb : (portAt n i).bringup = 6)
    (hr : helloRefused n i (numAt flit 8 2) (numAt flit 10 2) = true) : hello i flit n =
      failBringup (setPort n i { portAt n i with status := putField (portAt n i).status 33 33 1 }) i 6 := by
  simp [hello, hb, hr]

/-- Sending what waited for a port changes no port. -/
theorem portAt_flushUnsent (n : Node) (i : Nat) : portAt (flushUnsent n) i = portAt n i :=
  portAt_of_ports (foldl_keeps transmit (fun m : Node => m.ports) (fun n p => by simp) _ _) i

/-! ### Laser sources (R99, R618) -/

section
variable (e : Nat) (l : List Nat)

theorem foldl_portDown_not_up {n : Node} {j : Nat} (h : j ∉ l.map (4 * e + ·) → portState (portAt n j) ≠ 2) :
    portState (portAt (l.foldl (fun n k => portDown n (4 * e + k)) n) j) ≠ 2 := by
  induction l generalizing n with
  | nil => exact h (by simp)
  | cons k l ih =>
    rw [List.foldl_cons]
    refine ih fun hl => portDown_not_up fun hk => h ?_
    simp only [List.map_cons, List.mem_cons, not_or]
    exact ⟨hk, hl⟩

theorem foldl_portDown_power (n : Node) : (l.foldl (fun n k => portDown n (4 * e + k)) n).power = n.power :=
  foldl_keeps _ (fun m : Node => m.power) (fun n k => by simp) _ _

theorem foldl_beginBringup_keeps {α : Type} (g : Node → α) (h : ∀ n i, g (beginBringup n i) = g n) (n : Node) :
    g (l.foldl (fun n k => if portState (portAt n (4 * e + k)) = 0 then beginBringup n (4 * e + k) else n) n) = g n :=
  foldl_keeps _ g (fun n k => by split <;> simp [h]) _ _

end

/-- A cluster that has lost its light has no port up. -/
theorem stopCluster_dark (e kind : Nat) (n : Node) :
    e ∉ (stopCluster e kind n).power.elsOk ∧ ∀ k < 4, portState (portAt (stopCluster e kind n) (4 * e + k)) ≠ 2 := by
  unfold stopCluster
  refine ⟨?_, fun k hk => foldl_portDown_not_up e (List.range 4) fun h => absurd ?_ h⟩
  · rw [foldl_portDown_power]
    simp
  · exact List.mem_map.2 ⟨k, List.mem_range.2 hk, rfl⟩

theorem insertEls_lights (e : Nat) (n : Node) : e ∈ (insertEls e true n).power.elsOk ∧ (insertEls e true n).mem = n.mem ∧
    (insertEls e true n).prs = n.prs := by
  simp only [insertEls, Bool.not_true, Bool.false_eq_true, if_false]
  rw [foldl_beginBringup_keeps e _ Node.power (by simp), foldl_beginBringup_keeps e _ Node.mem (by simp),
    foldl_beginBringup_keeps e _ Node.prs (by simp)]
  exact ⟨by simp, rfl, rfl⟩

/-! ### The rows together -/

/-- Settles O36: each clause is one branch of what the row does to the port, or to the ports of a cluster. -/
theorem widthsAndBringUp : Obligations.WidthsAndBringUp := by
  unfold Obligations.WidthsAndBringUp
  intro port tx w g soon mask count symbols txl rxl flit e s i o up groups lock lockr both node total counted down
  have switch {P : Node → Prop} (h : P (widthSwitch i tx s.nd)) : Moves (.widthSwitch port tx) s P :=
    moves_of_onNode (widthSwitch i tx) rfl h
  have ring {held : Bool} {P : Node → Prop} (h : P (ringRevisit i tx w.val held soon s.nd)) :
      Moves (.ringLockRevisit port tx w held soon) s P := moves_of_onNode (ringRevisit i tx w.val held soon) rfl h
  have window {P : Node → Prop} (h : P (degradeWindow i g.val symbols soon s.nd)) :
      Moves (.degradeSymbolWindow port g symbols soon) s P := moves_of_onNode (degradeWindow i g.val symbols soon) rfl h
  have aligned {P : Node → Prop} (h : P (codewordLock i txl.toNat rxl.toNat s.nd)) : Moves (.codewordLock port txl rxl) s P :=
    moves_of_onNode (codewordLock i txl.toNat rxl.toNat) rfl h
  have lanes {P : Node → Prop} (h : P (laneState i flit s.nd)) : Moves (.laneState port flit) s P :=
    moves_of_onNode (laneState i flit) rfl h
  have greeted {P : Node → Prop} (h : P (hello i flit s.nd)) : Moves (.hello port flit) s P := moves_of_onNode (hello i flit) rfl h
  have retried {P : Node → Prop} (h : P (retryBringup i s.nd)) : Moves (.portBringupRetry port) s P :=
    moves_of_onNode (retryBringup i) rfl h
  refine ⟨fun hu hs hm hg => switch ?_, fun hu hs hg => switch ?_, fun hs => switch ?_, ring ?_, ring ?_,
    fun ht => window ?_, fun ht => window ?_,
    fun hu ho hl hg hn hr => moves_of_onNode (returnGroup i tx g.val soon) rfl (returnGroup_back soon hu ho hl hg hn hr),
    fun hb h hp => aligned (codewordLock_waits hb h hp), fun hb h hp => aligned (codewordLock_agrees hb h hp),
    fun hb h => aligned ⟨codewordLock_short hb h, ?_⟩, fun hb => aligned ?_,
    fun hb => lanes (laneState_agrees hb), fun hu hb hc => lanes (laneState_announces hu hb hc),
    fun hu hb hc => lanes (laneState_asks hu hb hc), fun hb hr hw => greeted ?_, fun hb hr => greeted ?_,
    fun hf hd => retried ?_, fun hf => retried ?_, moves_of_onNode (stopCluster e.val 6) rfl (stopCluster_dark e.val 6 s.nd),
    moves_of_onNode (stopCluster e.val 7) rfl (stopCluster_dark e.val 7 s.nd),
    moves_of_onNode (insertEls e.val true) rfl (insertEls_lights e.val s.nd), moves_of_onNode (insertEls e.val false) rfl rfl⟩
  · obtain ⟨hr, hn, hp⟩ := switchedPort_reads o tx mask
    obtain ⟨hf, hy⟩ := switchedPort_keeps o tx mask
    obtain ⟨k, hk⟩ := applyWidth_wide hg s.nd i tx
    rw [widthSwitch_due hs hu, hk]
    simp only [i, portAt_bump, portAt_setPort_same]
    exact ⟨hr.trans (Nat.mod_eq_of_lt hm), hn, hp.trans hu, hf, hy, rfl, rfl⟩
  · rw [widthSwitch_due hs hu]
    exact applyWidth_narrow hg s.nd i tx
  · exact widthSwitch_none hs
  · rw [ringRevisit_held]; rfl
  · rw [ringRevisit_lost]
    obtain ⟨ht, hr, hf⟩ := failGroup_marks (logEvent (setPort s.nd i (revisitedPort o tx w.val false))
      { otherEvent 2 4 with uclass := 1, unit_ := i, data0 := w.val }) port tx (w.val / 4) soon
    rw [ht, hr]
    simp only [i, portAt_logEvent, portAt_setPort_same]
    exact ⟨revisitedPort_lost o tx w.val, hf⟩
  · rw [degradeWindow_eq]
    exact if_neg (Nat.not_lt.2 ht)
  · rw [degradeWindow_eq]
    exact if_pos ht
  · rw [codewordLock_short hb h]
    exact failBringup_reads s.nd port 3
  · simp [codewordLock, show (portAt s.nd i).bringup ≠ 3 from hb]
  · obtain ⟨hs, hn⟩ := greetedPort_reads s.nd o flit
    rw [hello_accepted hb hr, portAt_flushUnsent, portAt_setPort_same]
    exact ⟨hs, hn, rfl, rfl, by simp [greetedPort]⟩
  · rw [hello_mismatched hb hr]
    obtain ⟨hs, hf⟩ := failBringup_reads (setPort s.nd i { o with status := putField o.status 33 33 1 }) port 6
    refine ⟨hs, hf, ?_⟩
    rw [portAt_failBringup, if_pos ⟨rfl, port.isLt⟩, portAt_setPort_same]
    simp [setPortState, bitOf_putField_other]
  · simp [retryBringup, show (portAt s.nd i).failedStep ≠ 0 from hf, show portState (portAt s.nd i) = 0 from hd]
  · simp [retryBringup, show (portAt s.nd i).failedStep = 0 from hf]

end Sys2Proof.OhmasLink
end

section
/-! The exchanges of sequence state between a pair of nodes: SEQ_RESET, SEQ_SYNC and the re-send of refused packets (O37). -/

namespace Sys2Proof.OhmasLink

open Sys2Proof.Machine Sys2Proof.Safety Sys2Proof.Organisation

/-! ### SEQ_RESET (R122) -/

/-- What a SEQ_RESET does once the sender's incarnation is on record: ACK 0 is answered, and ACK 1 ends an open exchange. -/
def answerReset (p : Packet) (n : Node) : Node :=
  let q := pairOf n p.dst.toNat p.src.toNat
  if p.aux.getLsbD 0 = false then sendUnnumbered n (seqResetPacket n p.dst.toNat p.src.toNat true)
  else if q.resetting && !q.usable then
    q.waiting.foldl transmit (setPair n p.dst.toNat p.src.toNat { q with usable := true, resetting := false, waiting := [] })
  else n

section
variable {n a : Node} {p : Packet} (h : Arrives n p a)
include h

theorem seqReset_known (hk : (pairOf a p.dst.toNat p.src.toNat).inc = some p.tag.toNat) : seqReset p n = answerReset p a := by
  have h : present n p = (a, true) := h
  simp only [seqReset, h, hk, Bool.not_true, Bool.false_eq_true, if_false, if_true, answerReset, Bool.not_eq_true']

theorem seqReset_first (hk : (pairOf a p.dst.toNat p.src.toNat).inc = none) :
    let b := forgetReceived a p.dst.toNat p.src.toNat
    seqReset p n = answerReset p (setPair b p.dst.toNat p.src.toNat
      { pairOf b p.dst.toNat p.src.toNat with inc := some p.tag.toNat }) := by
  have h : present n p = (a, true) := h
  simp only [seqReset, h, hk, Bool.not_true, Bool.false_eq_true, if_false, answerReset, Bool.not_eq_true', reduceCtorEq,
    Option.isSome_none]

/-- A SEQ_SYNC: what the peer has leaves the list, what it lacks goes again, and it is answered when it is no answer. -/
theorem seqSync_arrived :
    let own := p.dst.toNat
    let peer := p.src.toNat
    let q := pairOf a own peer
    let ws := bytesToWords 8 (payloadOf p)
    let kept := q.sent.filter fun u => !(u.pkt.cls == 5 && serialLe 32 u.pkt.seq.toNat (fieldOf (wordAt ws 3) 31 0))
    let b := setPair a own peer { q with sent := kept.map fun u => { u with beforeSync := true } }
    let c := (q.sent.filter fun u => mustResend u ws).foldl (fun n u => resend n u.pkt) b
    seqSync p n = if bitOf (wordAt ws 3) 32 then c else sendSync c own peer true := by
  have h : present n p = (a, true) := h
  simp only [seqSync, h, Bool.not_true, Bool.false_eq_true, if_false]

end

section
variable {p : Packet} {n : Node}

theorem answerReset_asks (hack : p.aux.getLsbD 0 = false) :
    answerReset p n = sendUnnumbered n (seqResetPacket n p.dst.toNat p.src.toNat true) := if_pos hack

theorem answerReset_opens (hack : p.aux.getLsbD 0 = true) (hr : (pairOf n p.dst.toNat p.src.toNat).resetting = true)
    (hu : (pairOf n p.dst.toNat p.src.toNat).usable = false) :
    let q := pairOf n p.dst.toNat p.src.toNat
    answerReset p n =
      q.waiting.foldl transmit (setPair n p.dst.toNat p.src.toNat { q with usable := true, resetting := false, waiting := [] }) := by
  simp [answerReset, hack, hr, hu]

theorem answerReset_idle (hack : p.aux.getLsbD 0 = true) (hr : (pairOf n p.dst.toNat p.src.toNat).resetting = false) :
    answerReset p n = n := by
  simp [answerReset, hack, hr]

end

theorem forgetReceived_pair (n : Node) (own peer : Nat) : pairOf (forgetReceived n own peer) own peer =
    { pairOf n own peer with deliv := [0, 0, 0], reorder := [], dups := [[], [], []], marks := [], refused := [], open_ := [],
                             held := [], rcvdCmp := 0, cmpAhead := [] } :=
  pairOf_setPair_same n own peer _

theorem repeatReset_open {n : Node} {own peer : Nat} (hr : (pairOf n own peer).resetting = true)
    (hu : (pairOf n own peer).usable = false) :
    repeatReset own peer n = sendUnnumbered n (seqResetPacket n own peer false) := by
  simp [repeatReset, hr, hu]

theorem repeatReset_closed {n : Node} {own peer : Nat}
    (h : (pairOf n own peer).resetting = false ∨ (pairOf n own peer).usable = true) : repeatReset own peer n = n := by
  rcases h with h | h <;> simp [repeatReset, h]

/-! ### SEQ_SYNC (R130) -/

theorem syncPeriod_one {n : Node} {k : Nat} {q : Pair} (h : n.prs.pairs.filter (fun e => !e.2.sent.isEmpty) = [(k, q)]) :
    syncPeriod n = sendSync n (k / 65536) (k % 65536) false := by
  simp only [syncPeriod, h, List.foldl_cons, List.foldl_nil]

theorem syncPeriod_none {n : Node} (h : ∀ e ∈ n.prs.pairs, e.2.sent = []) : syncPeriod n = n := by
  have none_owed : n.prs.pairs.filter (fun e => !e.2.sent.isEmpty) = [] :=
    List.filter_eq_nil_iff.2 fun e he => by simp [h e he]
  simp only [syncPeriod, none_owed, List.foldl_nil]

/-! ### The re-send of refused packets (R127, R142, R626) -/

theorem serialLt_self (w a : Nat) : serialLt w a a = false := by
  have h : (a + 2 ^ w - a % 2 ^ w) % 2 ^ w = 0 := Nat.sub_mod_eq_zero_of_mod_eq (by simp)
  simp [serialLt, h]

/-- The one unanswered packet of a pair, its back-off over, goes again with its SEQ. -/
theorem retryResend_one {n : Node} {own peer cls seq : Nat} {u : Unanswered} (hs : (pairOf n own peer).sent = [u])
    (hb : u.backoff = true) (hc : u.pkt.cls.toNat = cls) (hq : u.pkt.seq.toNat = seq) :
    retryResend own peer cls seq n =
      transmit (setPair n own peer { pairOf n own peer with sent := [{ u with backoff := false }] }) u.pkt := by
  subst hc hq
  simp [retryResend, hs, hb, serialLt_self]

theorem retryResend_none {n : Node} {own peer : Nat} (h : ∀ u ∈ (pairOf n own peer).sent, u.backoff = false) (cls seq : Nat) :
    retryResend own peer cls seq n = n := by
  have none_waits : (pairOf n own peer).sent.find? (fun u => (u.backoff && u.pkt.cls.toNat == cls) && u.pkt.seq.toNat == seq) = none :=
    List.find?_eq_none.2 fun u hu => by simp [h u hu]
  simp only [retryResend, none_waits]

/-! ### The rows together -/

/-- The rows that run for the module's own node, and again for its bridge's: without a bridge, once. -/
theorem moves_of_alone {i : Instr} {s : State} {P : Node → Prop} {m : Node} (f : Node → Node)
    (hi : exec i s = .next { s with nd := if bridgeId m = 0 then m else f m }) (hm : bridgeId m = 0) (h : P m) : Moves i s P :=
  ⟨m, by rw [hi, if_pos hm], h⟩

/-- Whether there is a bridge's node hangs on the power record and the Almanac. -/
theorem bridgeId_of_kept {m n : Node} (hp : m.power = n.power) (ha : m.alm = n.alm) : bridgeId m = bridgeId n := by
  simp only [bridgeId, hp, ha]

/-- Settles O37: each clause is one branch of what the row does to the pair. -/
theorem sequencesAgree : Obligations.SequencesAgree := by
  unfold Obligations.SequencesAgree
  intro p peer cls seq a s own from_ q known ack alone mine
  have reset {P : Node → Prop} (h : P (seqReset p s.nd)) : Moves (.seqReset p) s P := moves_of_onNode (seqReset p) rfl h
  have period {P : Node → Prop} (h : P (syncPeriod s.nd)) : Moves .seqSyncPeriod s P := moves_of_onNode syncPeriod rfl h
  have again {P : Node → Prop} {m : Node} (hb : alone) (hm : repeatReset s.nd.nodeId peer.toNat s.nd = m) (hp : m.power = s.nd.power)
      (ha : m.alm = s.nd.alm) (h : P m) : Moves (.seqResetRepeat peer) s P := by
    subst hm
    exact moves_of_alone (fun n => repeatReset (bridgeId n) peer.toNat n) rfl ((bridgeId_of_kept hp ha).trans hb) h
  have resent {P : Node → Prop} {m : Node} (hb : alone) (hm : retryResend s.nd.nodeId peer.toNat cls.val seq.toNat s.nd = m)
      (hp : m.power = s.nd.power) (ha : m.alm = s.nd.alm) (h : P m) : Moves (.retryResend peer cls seq) s P := by
    subst hm
    exact moves_of_alone (fun n => retryResend (bridgeId n) peer.toNat cls.val seq.toNat n) rfl ((bridgeId_of_kept hp ha).trans hb) h
  refine ⟨fun hp hk ha => reset ?_, fun hp hk ha hr hu => reset ?_, fun hp hk ha hr => reset ?_, fun hp hk ha => reset ?_,
    fun hb hr hu => again hb (repeatReset_open hr hu) (by simp) (by simp) rfl, fun hb h => again hb (repeatReset_closed h) rfl rfl rfl,
    fun hp => moves_of_onNode (seqSync p) rfl (seqSync_arrived hp), fun k q' h => period (syncPeriod_one h),
    fun h => period (syncPeriod_none h),
    fun u hb hs hw hc hq => resent hb (retryResend_one hs hw hc (congrArg BitVec.toNat hq)) (by simp) (by simp) rfl,
    fun hb h => resent hb (retryResend_none h _ _) rfl rfl rfl⟩
  · rw [seqReset_known hp hk, answerReset_asks ha]
  · rw [seqReset_known hp hk, answerReset_opens ha hr hu]
  · rw [seqReset_known hp hk, answerReset_idle ha hr]
  · rw [seqReset_first hp hk, answerReset_asks ha]
    refine ⟨rfl, ?_⟩
    simp only [pairOf_setPair_same, forgetReceived_pair, and_self]

end Sys2Proof.OhmasLink
end

section
/-! Step 8 of a start: the joins that wait for their pairs' SEQ_RESET exchanges (O8). -/

namespace Sys2Proof.OhmasLink

open Sys2Proof.Machine Sys2Proof.Safety Sys2Proof.Organisation

/-! ### Pairs that are not usable yet (R122) -/

theorem pairKey_inj {own peer own' peer' : Nat} (hp : peer < 65536) (hp' : peer' < 65536)
    (h : pairKey own' peer' = pairKey own peer) : own' = own ∧ peer' = peer := by
  unfold pairKey at h
  omega

theorem pairOf_setPair_other (n : Node) {own peer own' peer' : Nat} (q : Pair) (h : pairKey own' peer' ≠ pairKey own peer) :
    pairOf (setPair n own peer q) own' peer' = pairOf n own' peer' := Tbl.getD_put_other _ _ _ _ _ h

theorem pairOf_of_prs {m n : Node} (h : m.prs = n.prs) (own peer : Nat) : pairOf m own peer = pairOf n own peer := by
  simp only [pairOf, h]

theorem alwaysUsable_of_kept {m n : Node} (hi : m.nodeId = n.nodeId) (hp : m.power = n.power) (ha : m.alm = n.alm) (k : Nat) :
    alwaysUsable m k = alwaysUsable n k := by
  simp only [alwaysUsable, isOwn, bridgeId, hi, hp, ha]

/-- The pair is not usable, and its peer is one with which an exchange runs. -/
def Unusable (n : Node) (own peer : Nat) : Prop := (pairOf n own peer).usable = false ∧ alwaysUsable n peer = false

theorem startExchange_opens {n : Node} {own peer : Nat} (h : Unusable n own peer) :
    let r := pairOf (startExchange n own peer) own peer
    r.usable = false ∧ r.resetting = true ∧ r.waiting = (pairOf n own peer).waiting := by
  obtain ⟨hu, ha⟩ := h
  unfold startExchange
  dsimp only
  rw [hu, ha, Bool.false_or, Bool.or_false]
  split
  · next hr => exact ⟨hu, hr, rfl⟩
  · rw [pairOf_of_prs (sendUnnumbered_prs _ _), pairOf_setPair_same]
    exact ⟨rfl, rfl, rfl⟩

theorem startExchange_other (n : Node) {own peer own' peer' : Nat} (h : pairKey own' peer' ≠ pairKey own peer) :
    pairOf (startExchange n own peer) own' peer' = pairOf n own' peer' := by
  unfold startExchange
  dsimp only
  split
  · rfl
  · rw [pairOf_of_prs (sendUnnumbered_prs _ _), pairOf_setPair_other _ _ h]

/-- A pair once a packet of the module's own has been numbered, and noted where it awaits an answer. -/
def notedPair (q : Pair) (x : Packet) (why : SentFor) : Pair :=
  let q := { q with next := modAt q.next x.cls.toNat fun s => (s + 1) % 2 ^ 32 }
  if awaitsAnswer x.cls.toNat && decide (x.dst.toNat < 0xFFF0) then
    { q with sent := q.sent ++ [{ pkt := x, purpose := why, backoff := false, beforeSync := false }] }
  else q

theorem notedPair_keeps (q : Pair) (x : Packet) (why : SentFor) : (notedPair q x why).usable = q.usable ∧
    (notedPair q x why).resetting = q.resetting ∧ (notedPair q x why).waiting = q.waiting := by
  unfold notedPair
  dsimp only
  split <;> exact ⟨rfl, rfl, rfl⟩

theorem sendPacket_eq (n : Node) (p : Packet) (why : SentFor) :
    let m := startExchange n p.src.toNat p.dst.toNat
    let x := numberPacket m p
    let q := notedPair (pairOf m p.src.toNat p.dst.toNat) x why
    sendPacket n p why = if q.usable || alwaysUsable m p.dst.toNat then transmit (setPair (stepFree m) p.src.toNat p.dst.toNat q) x
      else setPair (stepFree m) p.src.toNat p.dst.toNat { q with waiting := q.waiting ++ [x] } := rfl

/-- A packet over another pair leaves this one as it was. -/
theorem sendPacket_other (n : Node) (p : Packet) (why : SentFor) {own peer : Nat}
    (h : pairKey own peer ≠ pairKey p.src.toNat p.dst.toNat) :
    pairOf (sendPacket n p why) own peer = pairOf n own peer := by
  have kept (q : Pair) : pairOf (setPair (stepFree (startExchange n p.src.toNat p.dst.toNat)) p.src.toNat p.dst.toNat q) own peer =
      pairOf n own peer := by
    rw [pairOf_setPair_other _ _ h, pairOf_of_prs (stepFree_prs _), startExchange_other _ h]
  rw [sendPacket_eq]
  split
  · rw [pairOf_of_prs (transmit_prs _ _), kept]
  · rw [kept]

/-- The first packet over a pair begins its exchange; every packet until then waits behind it, in order. -/
theorem sendPacket_waits {n : Node} {p : Packet} (h : Unusable n p.src.toNat p.dst.toNat) (why : SentFor) :
    let r := pairOf (sendPacket n p why) p.src.toNat p.dst.toNat
    r.usable = false ∧ r.resetting = true ∧
      r.waiting = (pairOf n p.src.toNat p.dst.toNat).waiting ++ [numberPacket (startExchange n p.src.toNat p.dst.toNat) p] := by
  obtain ⟨hu, hr, hw⟩ := startExchange_opens h
  have ha : alwaysUsable (startExchange n p.src.toNat p.dst.toNat) p.dst.toNat = false :=
    (alwaysUsable_of_kept (by simp) (by simp) (by simp) _).trans h.2
  obtain ⟨ku, kr, kw⟩ := notedPair_keeps (pairOf (startExchange n p.src.toNat p.dst.toNat) p.src.toNat p.dst.toNat)
    (numberPacket (startExchange n p.src.toNat p.dst.toNat) p) why
  rw [sendPacket_eq, ku, ha, hu, kw, hw, Bool.or_self, if_neg Bool.false_ne_true, pairOf_setPair_same]
  exact ⟨rfl, kr.trans hr, rfl⟩

/-! ### The joins of step 8 (R413, R566) -/

/-- A MEMB_JOIN from one node to another. -/
def IsJoin (p : Packet) (own k : Nat) : Prop := p.opcode = 0xA2 ∧ p.cls = 5 ∧ p.dst.toNat = k ∧ p.src.toNat = own

/-- Before the joins go out to the keepers: the node has its ID, and its pair with a keeper is not usable. -/
def BeforeJoin (own k : Nat) (n : Node) : Prop := n.nodeId = own ∧ Unusable n own k

/-- A MEMB_JOIN to the keeper waits for the pair's exchange, which has begun. -/
def JoinWaits (own k : Nat) (n : Node) : Prop :=
  BeforeJoin own k n ∧ (pairOf n own k).resetting = true ∧ ∃ p ∈ (pairOf n own k).waiting, IsJoin p own k

theorem unusable_sendPacket {n : Node} {own k : Nat} (hk : k < 65536) (h : Unusable n own k) (p : Packet) (why : SentFor) :
    Unusable (sendPacket n p why) own k := by
  refine ⟨?_, (alwaysUsable_of_kept (by simp) (by simp) (by simp) _).trans h.2⟩
  by_cases hp : pairKey own k = pairKey p.src.toNat p.dst.toNat
  · obtain ⟨rfl, rfl⟩ := pairKey_inj p.dst.isLt hk hp
    exact (sendPacket_waits h why).1
  · rw [sendPacket_other n p why hp]
    exact h.1

theorem beforeJoin_sendPacket {n : Node} {own k : Nat} (hk : k < 65536) (h : BeforeJoin own k n) (p : Packet) (why : SentFor) :
    BeforeJoin own k (sendPacket n p why) := ⟨(sendPacket_nodeId _ _ _).trans h.1, unusable_sendPacket hk h.2 p why⟩

theorem joinWaits_sendPacket {n : Node} {own k : Nat} (hk : k < 65536) (h : JoinWaits own k n) (p : Packet) (why : SentFor) :
    JoinWaits own k (sendPacket n p why) := by
  obtain ⟨hb, hr, x, hx, hj⟩ := h
  refine ⟨beforeJoin_sendPacket hk hb p why, ?_⟩
  by_cases hp : pairKey own k = pairKey p.src.toNat p.dst.toNat
  · obtain ⟨rfl, rfl⟩ := pairKey_inj p.dst.isLt hk hp
    obtain ⟨_, hr', hw⟩ := sendPacket_waits hb.2 why
    exact ⟨hr', x, by rw [hw]; exact List.mem_append_left _ hx, hj⟩
  · rw [sendPacket_other n p why hp]
    exact ⟨hr, x, hx, hj⟩

/-- A MEMB_JOIN that is sent over a pair that is not usable waits there. -/
theorem joinWaits_of_join {n : Node} {own k : Nat} {p : Packet} (h : BeforeJoin own k n) (hp : IsJoin p own k) (hk : k < 65536)
    (why : SentFor) : JoinWaits own k (sendPacket n p why) := by
  refine ⟨beforeJoin_sendPacket hk h p why, ?_⟩
  obtain ⟨ho, hc, rfl, rfl⟩ := hp
  obtain ⟨_, hr, hw⟩ := sendPacket_waits h.2 why
  exact ⟨hr, numberPacket (startExchange n p.src.toNat p.dst.toNat) p,
    by rw [hw]; exact List.mem_append_right _ (List.mem_singleton_self _), ho, hc, rfl, rfl⟩

/-- A fold reaches what one of its steps brings about and no step undoes. -/
theorem foldl_reaches {α β : Type} {f : α → β → α} {P Q : α → Prop}
    (hP : ∀ a b, P a → P (f a b)) (hQ : ∀ a b, Q a → Q (f a b))
    {b : β} (hb : ∀ a, P a → Q (f a b)) {l : List β} (hl : b ∈ l) {a : α} (ha : P a) : Q (l.foldl f a) := by
  have stays (l : List β) {a : α} (h : Q a) : Q (l.foldl f a) := List.foldlRecOn l f h fun a h b _ => hQ a b h
  induction l generalizing a with
  | nil => exact absurd hl List.not_mem_nil
  | cons c l ih =>
    rcases List.mem_cons.1 hl with rfl | hl
    · exact stays l (hb a ha)
    · exact ih hl (hP a c ha)

/-- The node once it has stepped its incarnation and started every pair afresh. -/
def steppedNode (n : Node) : Node :=
  { n with
    prs := { PairState.reset with incarnation := (n.prs.incarnation + 1) % 2 ^ 32 }
    ml := { n.ml with memb := { n.ml.memb with joinAcks := [] } } }

/-- MEMB_JOIN to each keeper in force but the module itself. -/
def joinKeepers (ks : List Nat) (n : Node) : Node :=
  ks.foldl (fun n k => if k = n.nodeId then n
    else sendPacket n (mgtPacket n k 0xA2 [wordOf (n.alm.failureDomain + 2 ^ 16)]) .protocol) n

theorem joinFabric_eq {s : State} (ho : s.nd.power.off = false) (hs : s.nd.power.state = 0) (hh : s.nd.power.holding = false)
    (h7 : s.nd.power.stepsDone.contains 7 = true) (hn : s.nd.nodeId ≠ 0) (hu : anyPortUp s.nd = true)
    (hj : s.nd.ml.memb.joined = false) :
    joinFabric s = { s with nd := joinBridge (joinKeepers (keepersNow s.nd) (steppedNode s.nd)) } := by
  have open_ : (s.nd.power.off || s.nd.power.state != 0 || s.nd.power.holding || !s.nd.power.stepsDone.contains 7 ||
      decide (s.nd.nodeId = 0) || !anyPortUp s.nd || s.nd.ml.memb.joined) = false := by
    simp only [ho, hs, hh, h7, hn, hu, hj, bne_self_eq_false, decide_false, Bool.or_self, Bool.not_true]
  exact if_neg (ne_true_of_eq_false open_)

/-- What every packet sent leaves as it is, the joins of the module and of its bridge leave too. -/
theorem joined_keeps {α : Type} (g : Node → α) (hs : ∀ n p why, g (sendPacket n p why) = g n)
    (hb : ∀ (n : Node) (b : Bridge), g { n with bridge := b } = g n) (ks : List Nat) (n : Node) :
    g (joinBridge (joinKeepers ks n)) = g n := by
  have keepers : g (joinKeepers ks n) = g n := foldl_keeps _ g (fun n k => by split <;> simp [hs]) _ _
  unfold joinBridge
  dsimp only
  split
  · exact keepers
  · rw [foldl_keeps _ g (fun n k => hs _ _ _), hb, keepers]

/-- The bridge's joins leave those of the module waiting. -/
theorem joinWaits_joinBridge {n : Node} {own k : Nat} (hk : k < 65536) (h : JoinWaits own k n) : JoinWaits own k (joinBridge n) := by
  unfold joinBridge
  dsimp only
  split
  · exact h
  · exact List.foldlRecOn _ _ (by exact h) fun n h _ _ => joinWaits_sendPacket hk h _ _

/-- Each keeper that is another node gets its join. -/
theorem joinKeepers_waits {n : Node} {ks : List Nat} {own k : Nat} (hk : k ∈ ks) (hlt : k < 65536) (hown : own < 65536)
    (hne : k ≠ own) (h : BeforeJoin own k n) : JoinWaits own k (joinKeepers ks n) := by
  refine foldl_reaches (P := BeforeJoin own k) (fun m b hm => ?_) (fun m b hm => ?_) (fun m hm => ?_) hk h
  · split
    · exact hm
    · exact beforeJoin_sendPacket hlt hm _ _
  · split
    · exact hm
    · exact joinWaits_sendPacket hlt hm _ _
  · rw [if_neg (by rw [hm.1]; exact hne)]
    refine joinWaits_of_join hm ⟨rfl, rfl, ?_, ?_⟩ hlt _
    · exact (BitVec.toNat_ofNat k 16).trans (Nat.mod_eq_of_lt hlt)
    · exact (congrArg (fun i => (BitVec.ofNat 16 i).toNat) hm.1).trans ((BitVec.toNat_ofNat own 16).trans (Nat.mod_eq_of_lt hown))

/-- Settles O8: the joins are sent over pairs that have just started afresh, and no later packet undoes one. -/
theorem joinBegins : Obligations.JoinBegins := by
  unfold Obligations.JoinBegins
  intro s ho hs hh h7 hn hlt hu hj
  have kept {α : Type} (g : Node → α) (h1 : ∀ n p why, g (sendPacket n p why) = g n)
      (h2 : ∀ (n : Node) (b : Bridge), g { n with bridge := b } = g n) :
      g (joinBridge (joinKeepers (keepersNow s.nd) (steppedNode s.nd))) = g (steppedNode s.nd) := joined_keeps g h1 h2 _ _
  refine ⟨_, congrArg Host.Outcome.next (joinFabric_eq ho hs hh h7 hn hu hj), kept (·.prs.incarnation) (by simp) (fun _ _ => rfl),
    kept (·.ml.memb) (by simp) (fun _ _ => rfl), fun k hk hks hno => ?_, kept Node.power (by simp) (fun _ _ => rfl),
    kept Node.ctxs (by simp) (fun _ _ => rfl), kept Node.mem (by simp) (fun _ _ => rfl), kept Node.ports (by simp) (fun _ _ => rfl),
    rfl, rfl⟩
  have hne : k ≠ s.nd.nodeId := by
    rintro rfl
    simp [isOwn, hn] at hno
  have before : BeforeJoin s.nd.nodeId k (steppedNode s.nd) := by
    refine ⟨rfl, rfl, ?_⟩
    have : alwaysUsable (steppedNode s.nd) k = alwaysUsable s.nd k := rfl
    rw [this, alwaysUsable, hno]
    simp [hks]
  obtain ⟨_, hr, hw⟩ := joinWaits_joinBridge (by omega) (joinKeepers_waits hk (by omega) (by omega) hne before)
  exact ⟨hr, hw⟩

end Sys2Proof.OhmasLink
end

section
/-! Staged objects: what a commit takes over, and what a selector loads (O39). -/

namespace Sys2Proof.OhmasLink

open Sys2Proof.Machine Sys2Proof.Safety Sys2Proof.Organisation Sys2Proof.ContextRanges

/-! ### Places that commits change -/

@[simp] theorem trafAt_setTraf_same (n : Node) (i : PortId) (t : TrafficPort) : trafAt (setTraf n i.val t) i.val = t :=
  getAt_putAt_same n.traf i t TrafficPort.reset

@[simp] theorem trafAt_countRefused (n : Node) (i : Nat) (ok : Bool) (j : Nat) : trafAt (countRefused n i ok) j = trafAt n j := by
  unfold countRefused; split <;> rfl

@[simp] theorem dportAt_setDport_same (n : Node) (d : DenseId) (q : DensePort) : dportAt (setDport n d.val q) d.val = q :=
  getAt_putAt_same n.mem.dports d q DensePort.reset

/-- A refused commit sets CFG_ERR. -/
theorem commitStatus_refused (st : Word) (gen : Nat) : bitOf (commitStatus st false gen) 0 = true := by
  unfold commitStatus
  rw [bitOf_putField_other _ _ _ _ _ (by decide) (by decide) (by decide)]
  simp

/-! ### OPORT_COMMIT (R135, R136) -/

/-- A port whose staged configuration has become live. -/
def committedPort (o : OPort) : OPort :=
  { o with cfgLive := o.cfgStage, gen := nextGen o.gen, stat := commitStatus o.stat true (nextGen o.gen) }

section
variable {n : Node} {i : PortId} {w : Word} (go : bitOf w 0 = true)
include go

theorem oportCommit_refused (h : oportCfgOk (portAt n i.val).cfgStage = false) : oportCommit i.val w n =
    setPort n i.val { portAt n i.val with stat := commitStatus (portAt n i.val).stat false (portAt n i.val).gen } := by
  simp [oportCommit, go, h]

/-- Whatever becomes of the port's width or state, an accepted configuration is live. -/
theorem oportCommit_accepted (h : oportCfgOk (portAt n i.val).cfgStage = true) :
    portSetup (portAt (oportCommit i.val w n) i.val) = portSetup (committedPort (portAt n i.val)) := by
  simp only [oportCommit, go, h, Bool.not_true, Bool.false_eq_true, if_false]
  (repeat' split) <;> simp <;> rfl

/-- A configuration without ENABLE takes the port to DISABLED. -/
theorem oportCommit_disables (h : oportCfgOk (portAt n i.val).cfgStage = true) (hd : bitOf (portAt n i.val).cfgStage 0 = false) :
    portState (portAt (oportCommit i.val w n) i.val) = 3 := by
  simp [oportCommit, go, h, hd, portAt_takeDown]

end

/-! ### DPORT_COMMIT (R329) -/

section
variable {n : Node} {d : DenseId} {w : Word} (go : bitOf w 0 = true) (on : n.power.off = false)
include go on

theorem dportCommit_refused (hs : bitOf (dportAt n d.val).cfgStage 0 = false) (hl : bitOf (dportAt n d.val).cfgLive 0 = true)
    (hu : driveUsed n d.val = true) : dportCommit d.val w n =
      setDport n d.val { dportAt n d.val with stat := commitStatus (dportAt n d.val).stat false (dportAt n d.val).gen } := by
  simp [dportCommit, go, on, hs, hl, hu]

theorem dportCommit_enables (hs : bitOf (dportAt n d.val).cfgStage 0 = true) :
    let q := dportAt n d.val
    let p := dportAt (dportCommit d.val w n) d.val
    p.cfgLive = q.cfgStage ∧ p.gen = nextGen q.gen ∧ (bitOf q.cfgLive 0 = false → fieldOf p.status 1 0 = 1) := by
  cases hl : bitOf (dportAt n d.val).cfgLive 0 <;> simp [dportCommit, go, on, hs, hl]

end

/-! ### SCHED_COMMIT (R462) -/

/-- Every staged TC_CFG of TC 0–6 is valid. -/
def schedOk (t : TrafficPort) : Bool := (List.range 7).all fun k => tcCfgOk (getAt t.tcs k TcQueue.reset).cfgStage

/-- A traffic block after SCHED_COMMIT: TC 0–6 take their staged registers together, or none does. -/
def committedTraf (t : TrafficPort) : TrafficPort :=
  { t with
    tcs := if schedOk t then Vector.ofFn fun k : Fin 8 => if k.val < 7 then { t.tcs.get k with cfgLive := (t.tcs.get k).cfgStage }
      else t.tcs.get k else t.tcs
    gen := if schedOk t then nextGen t.gen else t.gen
    stat := commitStatus t.stat (schedOk t) (if schedOk t then nextGen t.gen else t.gen) }

theorem trafAt_schedCommit {n : Node} {i : PortId} {w : Word} (go : bitOf w 0 = true) :
    trafAt (schedCommit i.val w n) i.val = committedTraf (trafAt n i.val) := by
  simp only [schedCommit, go, Bool.not_true, Bool.false_eq_true, if_false, trafAt_countRefused, trafAt_setTraf_same]
  rfl

theorem committedTraf_tcs (t : TrafficPort) (k : Fin 8) : (committedTraf t).tcs.get k =
    if schedOk t = true ∧ k.val < 7 then { t.tcs.get k with cfgLive := (t.tcs.get k).cfgStage } else t.tcs.get k := by
  unfold committedTraf
  cases schedOk t
  · simp
  · simp [Vector.get_eq_getElem]

theorem committedTraf_cfgLive (t : TrafficPort) (k : Fin 8) : ((committedTraf t).tcs.get k).cfgLive =
    if schedOk t = true ∧ k.val < 7 then (t.tcs.get k).cfgStage else (t.tcs.get k).cfgLive := by
  rw [committedTraf_tcs]
  split <;> rfl

theorem committedTraf_fifos (t : TrafficPort) (k : Fin 8) : ((committedTraf t).tcs.get k).fifos = (t.tcs.get k).fifos := by
  rw [committedTraf_tcs]
  split <;> rfl

/-! ### Shapers (R459, R463–R465) -/

section
variable {n : Node} {i : PortId} {w : Word}

theorem shpSel_loads {sh : Shaper} (hr : fieldOf w 63 16 = 0) (h : Tbl.find? (trafAt n i.val).shapers (fieldOf w 15 0) = some sh) :
    shpSel i.val w n = setTraf n i.val { trafAt n i.val with
      shpSel := w, shpStage := (sh.bucket.cfg, sh.bucket.rate, sh.bucket.burst),
      shpStat := putField (trafAt n i.val).shpStat 31 16 sh.bucket.gen } := by
  simp only [shpSel, hr, h, if_true, bucketStage]

theorem shpSel_misses (h : fieldOf w 63 16 ≠ 0 ∨ Tbl.find? (trafAt n i.val).shapers (fieldOf w 15 0) = none) :
    let u := trafAt (shpSel i.val w n) i.val
    bitOf u.shpStat 2 = true ∧ u.shpStage = (shpCfgReset n.alm, 0, 0) ∧ u.shapers = (trafAt n i.val).shapers := by
  have missed : (if fieldOf w 63 16 = 0 then Tbl.find? (trafAt n i.val).shapers (fieldOf w 15 0) else none) = none := by
    rcases h with h | h <;> simp [h]
  simp only [shpSel, missed, trafAt_setTraf_same]
  refine ⟨?_, rfl, trivial⟩
  simp [bitOf_putField_other]

theorem shpCommit_taken {sh : Shaper} (go : bitOf w 0 = true) (hr : fieldOf (trafAt n i.val).shpSel 63 16 = 0)
    (h : Tbl.find? (trafAt n i.val).shapers (fieldOf (trafAt n i.val).shpSel 15 0) = some sh)
    (hok : bucketCfgOk true (trafAt n i.val).shpStage = true) :
    let t := trafAt n i.val
    let c := fieldOf t.shpSel 15 0
    let x := commitBucket sh.bucket t.shpStage
    shpCommit i.val w n = setTraf n i.val (runShaper
      { t with shapers := Tbl.put t.shapers c { sh with bucket := x }, shpStat := commitStatus t.shpStat true x.gen } c) := by
  simp only [shpCommit, go, hr, h, hok, Bool.not_true, Bool.false_eq_true, if_false, decide_true, Bool.and_self, if_true]

theorem shpCommit_refused (go : bitOf w 0 = true) (hok : bucketCfgOk true (trafAt n i.val).shpStage = false) :
    let u := trafAt (shpCommit i.val w n) i.val
    u.shapers = (trafAt n i.val).shapers ∧ bitOf u.shpStat 0 = true := by
  simp [shpCommit, go, hok]

end

/-! ### Policers (R459, R466) -/

section
variable {n : Node} {w : Word}

theorem polSel_loads {x : Bucket} (hr : fieldOf w 63 16 = 0) (h : Tbl.find? n.pol.buckets (fieldOf w 15 0) = some x) :
    (polSel w n).pol.polSel = w ∧ (polSel w n).pol.polStage = (x.cfg, x.rate, x.burst) ∧ (polSel w n).pol.buckets = n.pol.buckets := by
  simp only [polSel, hr, h, if_true, bucketStage, and_self]

theorem polSel_misses (h : fieldOf w 63 16 ≠ 0 ∨ Tbl.find? n.pol.buckets (fieldOf w 15 0) = none) :
    bitOf (polSel w n).pol.polStat 2 = true ∧ (polSel w n).pol.polStage = (shpCfgReset n.alm, 0, 0) ∧
      (polSel w n).pol.buckets = n.pol.buckets := by
  have missed : (if fieldOf w 63 16 = 0 then Tbl.find? n.pol.buckets (fieldOf w 15 0) else none) = none := by
    rcases h with h | h <;> simp [h]
  simp only [polSel, missed]
  refine ⟨?_, rfl, trivial⟩
  simp [bitOf_putField_other]

theorem polCommit_taken {x : Bucket} (go : bitOf w 0 = true) (hr : fieldOf n.pol.polSel 63 16 = 0)
    (h : Tbl.find? n.pol.buckets (fieldOf n.pol.polSel 15 0) = some x) (hok : bucketCfgOk false n.pol.polStage = true) :
    (polCommit w n).pol.buckets = Tbl.put n.pol.buckets (fieldOf n.pol.polSel 15 0) (commitBucket x n.pol.polStage) := by
  simp [polCommit, go, hr, h, hok]

theorem polCommit_refused (go : bitOf w 0 = true) (hok : bucketCfgOk false n.pol.polStage = false) :
    (polCommit w n).pol.buckets = n.pol.buckets ∧ bitOf (polCommit w n).pol.polStat 0 = true := by
  simp [polCommit, go, hok]

end

/-! ### The bridge's windows and notification window (R199) -/

theorem fetchMap_bridge (n : Node) (ctx : Nat) : (fetchMap n ctx).bridge = n.bridge := by
  unfold fetchMap; (repeat' split) <;> simp

theorem engFetch_bridge (n : Node) (ctx : Nat) : (engFetch n ctx).bridge = n.bridge := by
  unfold engFetch; dsimp only; split <;> simp [fetchMap_bridge, sweepImages]

theorem selectWindow_loads (w : Word) (n : Node) :
    (selectWindow w n).bridge.winSel = w ∧
      (selectWindow w n).bridge.winStage = (if fieldOf w 63 3 = 0 then
        ((winAt n (fieldOf w 2 0)).cfg, (winAt n (fieldOf w 2 0)).dpa, (winAt n (fieldOf w 2 0)).pva) else (0, 0, 0)) ∧
      (fieldOf w 63 3 ≠ 0 → bitOf (selectWindow w n).bridge.winStat 2 = true) ∧ (selectWindow w n).bridge.wins = n.bridge.wins := by
  by_cases h : fieldOf w 63 3 = 0
  · simp [selectWindow, onBridge, h]
  · refine ⟨rfl, ?_, fun _ => ?_, rfl⟩
    · simp [selectWindow, onBridge, h, BridgeWin.reset]
    · simp [selectWindow, onBridge, h, bitOf_putField_other]

/-- The window that a commit would put in the place of the selected one. -/
def stagedWin (n : Node) : BridgeWin :=
  { cfg := n.bridge.winStage.1, dpa := n.bridge.winStage.2.1, pva := n.bridge.winStage.2.2,
    gen := nextGen (winAt n (fieldOf n.bridge.winSel 2 0)).gen }

section
variable {n : Node} {w : Word} (go : bitOf w 0 = true)
include go

theorem commitWindow_taken (hr : fieldOf n.bridge.winSel 63 3 = 0) (hf : windowFits n (fieldOf n.bridge.winSel 2 0) (stagedWin n) = true) :
    (commitWindow w n).bridge.wins = putAt n.bridge.wins (fieldOf n.bridge.winSel 2 0) (stagedWin n) ∧
      (commitWindow w n).bridge.winStat = commitStatus n.bridge.winStat true (stagedWin n).gen := by
  have hf' := hf
  unfold stagedWin at hf'
  simp only [commitWindow, go, hr, hf', Bool.not_true, Bool.false_eq_true, if_false, bne_self_eq_false, Bool.or_self]
  split
  · rw [engFetch_bridge]
    exact ⟨rfl, rfl⟩
  · exact ⟨rfl, rfl⟩

theorem commitWindow_refused
    (h : fieldOf n.bridge.winSel 63 3 ≠ 0 ∨ windowFits n (fieldOf n.bridge.winSel 2 0) (stagedWin n) = false) :
    (commitWindow w n).bridge.wins = n.bridge.wins ∧ bitOf (commitWindow w n).bridge.winStat 0 = true := by
  have bad : (fieldOf n.bridge.winSel 63 3 != 0 || !windowFits n (fieldOf n.bridge.winSel 2 0) (stagedWin n)) = true := by
    rcases h with h | h <;> simp [h]
  unfold stagedWin at bad
  simp [commitWindow, go, bad, onBridge]

/-- The staged notification window is valid: no reserved bit, and an enabled window's address on 64 KiB. -/
def NotifyOk (n : Node) : Prop :=
  fieldOf n.bridge.ntfStage.1 63 1 = 0 ∧ (bitOf n.bridge.ntfStage.1 0 = true → fieldOf n.bridge.ntfStage.2 15 0 = 0)

omit go in
theorem notifyOk_iff (n : Node) : NotifyOk n ↔ (fieldOf n.bridge.ntfStage.1 63 1 != 0 ||
    (bitOf n.bridge.ntfStage.1 0 && fieldOf n.bridge.ntfStage.2 15 0 != 0)) = false := by
  simp [NotifyOk]

theorem commitNotify_taken (h : NotifyOk n) :
    (commitNotify w n).bridge.ntfLive = n.bridge.ntfStage ∧ (commitNotify w n).bridge.ntfGen = nextGen n.bridge.ntfGen := by
  rw [notifyOk_iff] at h
  simp only [commitNotify, go, h, onBridge, Bool.not_true, Bool.false_eq_true, if_false, and_self]

theorem commitNotify_refused (h : ¬ NotifyOk n) :
    (commitNotify w n).bridge.ntfLive = n.bridge.ntfLive ∧ bitOf (commitNotify w n).bridge.ntfStat 0 = true := by
  rw [notifyOk_iff, Bool.not_eq_false] at h
  simp [commitNotify, go, h, onBridge]

/-! ### Commits of the fault and policy blocks (R329, R490, R494, R529) -/

theorem ebCommit_eq : ebCommit w n = if ebOk n n.flt.ebStage then { n with flt := { n.flt with ebNext := n.flt.ebNext ++ [n.flt.ebStage] } }
    else { n with flt := { n.flt with ebStat := commitStatus n.flt.ebStat false n.flt.ebGen } } := by
  simp only [ebCommit, go, Bool.not_true, Bool.false_eq_true, if_false]

theorem vgCommit_taken : (vgCommit w n).flt.vgLive = (if vgOk n.flt.vgStage then n.flt.vgStage else n.flt.vgLive) ∧
    (vgCommit w n).flt.vgGen = (if vgOk n.flt.vgStage then nextGen n.flt.vgGen else n.flt.vgGen) ∧
    (vgOk n.flt.vgStage = false → bitOf (vgCommit w n).flt.vgStat 0 = true) := by
  simp only [vgCommit, go, Bool.not_true, Bool.false_eq_true, if_false]
  exact ⟨trivial, trivial, fun h => by rw [h]; exact commitStatus_refused _ _⟩

theorem mqCommit_taken : (mqCommit w n).flt.mqLive = (if mqOk n n.flt.mqStage then n.flt.mqStage else n.flt.mqLive) ∧
    (mqCommit w n).flt.mqGen = (if mqOk n n.flt.mqStage then nextGen n.flt.mqGen else n.flt.mqGen) ∧
    (mqOk n n.flt.mqStage = false → bitOf (mqCommit w n).flt.mqStat 0 = true) := by
  simp only [mqCommit, go, Bool.not_true, Bool.false_eq_true, if_false]
  exact ⟨trivial, trivial, fun h => by rw [h]; exact commitStatus_refused _ _⟩

end

theorem plcCommit_taken {w : Word} (go : bitOf w 0 = true) (s : State) :
    let p := s.hl.plc
    let u := plcCommit w s
    u.nd = s.nd ∧ u.pending = s.pending ∧ u.hl.plc.live = p.live ∧
      u.hl.plc.next = (if plcOk s.nd p.stage then p.next ++ [p.stage] else p.next) ∧
      (plcOk s.nd p.stage = false → bitOf u.hl.plc.stat 0 = true) := by
  cases hok : plcOk s.nd s.hl.plc.stage <;> simp [plcCommit, go, hok, onPolicy, commitStatus_refused]

/-! ### Writes without bit 0 (R456) -/

/-- The commits over the node alone, each with its meaning. -/
def commitRows (port : PortId) (d : DenseId) (w : Word) : List (Instr × (Node → Node)) :=
  [(.oportCommit port w, oportCommit port.val w), (.dportCommit d w, dportCommit d.val w), (.schedCommit port w, schedCommit port.val w),
   (.shpCommit port w, shpCommit port.val w), (.polCommit w, polCommit w), (.ebCommit w, ebCommit w), (.vgCommit w, vgCommit w),
   (.mqCommit w, mqCommit w), (.hbWinCommit w, commitWindow w), (.hbNtfCommit w, commitNotify w)]

theorem exec_commitRow {port : PortId} {d : DenseId} {w : Word} {row : Instr × (Node → Node)} (h : row ∈ commitRows port d w)
    (s : State) : exec row.1 s = .next (onNode s row.2) := by
  simp only [commitRows, List.mem_cons, List.not_mem_nil, or_false] at h
  rcases h with rfl | rfl | rfl | rfl | rfl | rfl | rfl | rfl | rfl | rfl <;> rfl

theorem commitRow_idle {port : PortId} {d : DenseId} {w : Word} {row : Instr × (Node → Node)} (h : row ∈ commitRows port d w)
    (hw : bitOf w 0 = false) (n : Node) : row.2 n = n := by
  simp only [commitRows, List.mem_cons, List.not_mem_nil, or_false] at h
  rcases h with rfl | rfl | rfl | rfl | rfl | rfl | rfl | rfl | rfl | rfl <;>
    simp [oportCommit, dportCommit, schedCommit, shpCommit, polCommit, ebCommit, vgCommit, mqCommit, commitWindow, commitNotify, hw]

/-! ### The rows together -/

/-- Settles O39: each clause is one branch of its commit or selector. -/
theorem stagedObjectsCommit : Obligations.StagedObjectsCommit := by
  unfold Obligations.StagedObjectsCommit
  intro port d w s n i o t q f b go rows
  have oport {P : Node → Prop} (h : P (oportCommit i w n)) : Moves (.oportCommit port w) s P := moves_of_onNode (oportCommit i w) rfl h
  have dport {P : Node → Prop} (h : P (dportCommit d.val w n)) : Moves (.dportCommit d w) s P :=
    moves_of_onNode (dportCommit d.val w) rfl h
  have shaper {P : Node → Prop} (h : P (shpSel i w n)) : Moves (.shpSel port w) s P := moves_of_onNode (shpSel i w) rfl h
  have shaped {P : Node → Prop} (h : P (shpCommit i w n)) : Moves (.shpCommit port w) s P := moves_of_onNode (shpCommit i w) rfl h
  have policer {P : Node → Prop} (h : P (polSel w n)) : Moves (.polSel w) s P := moves_of_onNode (polSel w) rfl h
  have policed {P : Node → Prop} (h : P (polCommit w n)) : Moves (.polCommit w) s P := moves_of_onNode (polCommit w) rfl h
  have window {P : Node → Prop} (h : P (commitWindow w n)) : Moves (.hbWinCommit w) s P := moves_of_onNode (commitWindow w) rfl h
  have notify {P : Node → Prop} (h : P (commitNotify w n)) : Moves (.hbNtfCommit w) s P := moves_of_onNode (commitNotify w) rfl h
  refine ⟨fun r hr hw => ?_, fun hg hk => oport (oportCommit_refused hg hk), fun hg hk => oport ?_,
    fun hg hp hs hl hu => dport (dportCommit_refused hg hp hs hl hu), fun hg hp hs => dport (dportCommit_enables hg hp hs),
    fun hg => moves_of_onNode (schedCommit i w) rfl ?_, fun sh hr h => shaper (shpSel_loads hr h), fun h => shaper (shpSel_misses h),
    fun hg sh hr h => ⟨fun hk => shaped (shpCommit_taken hg hr h hk), fun hk => shaped (shpCommit_refused hg hk)⟩,
    fun x hr h => policer (polSel_loads hr h), fun h => policer (polSel_misses h),
    fun hg x hr h => ⟨fun hk => policed ?_, fun hk => policed (polCommit_refused hg hk)⟩,
    fun hg => moves_of_onNode (ebCommit w) rfl (ebCommit_eq hg), fun hg => moves_of_onNode (vgCommit w) rfl (vgCommit_taken hg),
    fun hg => moves_of_onNode (mqCommit w) rfl (mqCommit_taken hg), fun hg => ⟨plcCommit w s, rfl, plcCommit_taken hg s⟩,
    moves_of_onNode (selectWindow w) rfl (selectWindow_loads w n),
    fun hg => ⟨fun hr hf => window (commitWindow_taken hg hr hf), fun h => window (commitWindow_refused hg h)⟩,
    fun hg => ⟨fun h => notify (commitNotify_taken hg h), fun h => notify (commitNotify_refused hg h)⟩⟩
  · by_cases hp : r = .plcCommit w
    · subst hp
      exact ⟨n, congrArg Host.Outcome.next (if_pos (by rw [hw]; rfl)), rfl⟩
    · obtain ⟨row, hrow, rfl⟩ : ∃ row ∈ commitRows port d w, row.1 = r := by
        simpa [rows, commitRows, hp, eq_comm] using hr
      exact moves_of_result (commitRow_idle hrow hw n) (exec_commitRow hrow s) rfl
  · have hs := oportCommit_accepted hg hk
    simp only [portSetup, Prod.mk.injEq] at hs
    obtain ⟨⟨hl, _, hgen, hst⟩, _⟩ := hs
    exact ⟨hl, hgen, hst, fun hd => oportCommit_disables hg hk hd⟩
  · rw [trafAt_schedCommit hg]
    exact ⟨committedTraf_cfgLive t, rfl, committedTraf_fifos t⟩
  · rw [polCommit_taken hg hr h hk]
    exact ⟨Tbl.find?_put_same _ _ _, fun k hk => Tbl.find?_put_other _ _ _ _ hk⟩

end Sys2Proof.OhmasLink
end

section
/-! Arrival counters: increments, and the commands that set and arm them (O23, O55). -/

namespace Sys2Proof.Visibility

open Sys2Proof.Machine Sys2Proof.Safety Sys2Proof.Organisation Sys2Proof.ContextRanges

/-! ### What leaves the counters as they are -/

theorem counterOf_of_ctr {m n : Node} (h : m.ctr.tab = n.ctr.tab) (c : Nat) : counterOf m c = counterOf n c := by
  simp only [counterOf, h]

theorem respond_ctr (n : Node) (p : Packet) (cls st hi op6 : Nat) (bs : Bytes) : (respond n p cls st hi op6 bs).ctr = n.ctr := by
  simp [respond]

theorem answerEnded_ctr (n : Node) (p : Packet) (st landed ovf nans : Nat) (bs : Bytes) :
    (answerEnded n p st landed ovf nans bs).ctr = n.ctr := by
  unfold answerEnded; dsimp only; split_ifs <;> exact respond_ctr _ _ _ _ _ _ _

theorem answerWait_ctr (n : Node) (p : Packet) (st v : Nat) : (answerWait n p st v).ctr = n.ctr := by
  unfold answerWait
  rw [answerEnded_ctr]
  split <;> rfl

/-- Parked WAITs that wake leave every counter as it is. -/
@[simp] theorem counterOf_wakeWaits (n : Node) (c j : Nat) : counterOf (wakeWaits n c) j = counterOf n j := by
  refine counterOf_of_ctr ?_ j
  unfold wakeWaits
  exact foldl_keeps _ (fun m : Node => m.ctr.tab) (fun m w => by rw [answerWait_ctr]) _ _

@[simp] theorem counterOf_notifyRecord (n : Node) (c j : Nat) (x : Counter) (t : Trigger) (st : Nat) :
    counterOf (notifyRecord n c x t st) j = counterOf n j :=
  counterOf_of_ctr (congrArg Counters.tab (sendPacket_ctr _ _ _)) j

@[simp] theorem counterOf_abandonProgram (n : Node) (j : Nat) (x : Counter) (t : Trigger) :
    counterOf (abandonProgram n x t) j = counterOf n j := by
  refine counterOf_of_ctr ?_ j
  unfold abandonProgram; dsimp only; (repeat' split) <;> simp

/-- A firing of a counter's trigger joins those that wait to run. -/
@[simp] theorem counterOf_withProg (n : Node) (x : Programs) (j : Nat) : counterOf { n with prog := x } j = counterOf n j := rfl

/-! ### Increments (R153, R155) -/

/-- ERR leaves VALUE, and abandons the trigger. -/
theorem counterOf_setErr_same (n : Node) (c : Nat) :
    counterOf (setErr n c) c = { counterOf n c with err := true, trig := none } := by
  unfold setErr
  dsimp only
  rw [counterOf_wakeWaits]
  split
  · exact counterOf_setCounter_same _ _ _
  · split <;> simp

/-- A trigger that is evaluated changes nothing of its counter but itself. -/
theorem counterOf_evalTrigger_same (n : Node) (c : Nat) (e : Option Nat) :
    ∃ t, counterOf (evalTrigger n c e) c = { counterOf n c with trig := t } := by
  unfold evalTrigger
  dsimp only
  split
  · exact ⟨_, rfl⟩
  · split
    · exact ⟨_, rfl⟩
    · split
      · exact ⟨_, (counterOf_withProg _ _ _).trans (counterOf_setCounter_same _ _ _)⟩
      · exact ⟨_, (counterOf_notifyRecord _ _ _ _ _ _).trans (counterOf_setCounter_same _ _ _)⟩

/-- Settles O55: past the maximum the increment is `setErr`, up to it an evaluation of the counter, and neither changes VALUE. -/
theorem countersSaturate : Obligations.CountersSaturate := by
  unfold Obligations.CountersSaturate
  intro n c bytes epoch x v y
  refine ⟨fun hv => ?_, fun hv => ?_⟩
  · have hy : y = counterOf (setErr (setCounter n c { x with value := counterMax }) c) c :=
      congrArg (counterOf · c) (if_pos hv)
    simp [hy, counterOf_setErr_same]
  · have hy : y = counterOf (evalCounter (setCounter n c { x with value := v }) c epoch) c :=
      congrArg (counterOf · c) (if_neg (Nat.not_lt.2 hv))
    obtain ⟨t, ht⟩ := counterOf_evalTrigger_same (wakeWaits (setCounter n c { x with value := v }) c) c epoch
    simp [hy, evalCounter, ht]

/-! ### One counter changes -/

/-- Of the node one counter has changed and stands at `x`; the WAITs that are parked are those of before. -/
structure OneCounter (n m : Node) (k : Nat) (x : Counter) : Prop where
  frame : m = { n with ctr := m.ctr }
  waits : m.ctr.waits = n.ctr.waits
  same : counterOf m k = x
  others : ∀ j, j ≠ k → counterOf m j = counterOf n j

theorem oneCounter_setCounter (n : Node) (k : Nat) (x : Counter) : OneCounter n (setCounter n k x) k x :=
  ⟨rfl, rfl, counterOf_setCounter_same _ _ _, fun _ hj => counterOf_setCounter_other _ _ _ _ hj⟩

theorem OneCounter.setAgain {n m : Node} {k : Nat} {x : Counter} (h : OneCounter n m k x) (y : Counter) :
    OneCounter n (setCounter m k y) k y :=
  ⟨by rw [h.frame]; rfl, h.waits, counterOf_setCounter_same _ _ _,
    fun j hj => (counterOf_setCounter_other _ _ _ _ hj).trans (h.others j hj)⟩

theorem OneCounter.quiet {n m : Node} {k : Nat} {x : Counter} (h : OneCounter n m k x) (hq : Quiet n) : Quiet m := by
  rw [h.frame]; exact hq

/-- A counter that nothing watches changes its owner, and nothing else comes of it (R162). -/
theorem changeOwner_plain {n : Node} {k : Nat} (hw : n.ctr.waits = []) (ht : (counterOf n k).trig = none) (o : Nat) :
    changeOwner n k o = if (counterOf n k).owner = o then n else setCounter n k { counterOf n k with owner := o } := by
  simp [changeOwner, setCounter, hw, ht]

theorem OneCounter.changeOwner {n m : Node} {k : Nat} {x : Counter} (h : OneCounter n m k x) (hw : n.ctr.waits = [])
    (ht : x.trig = none) (o : Nat) : OneCounter n (changeOwner m k o) k { x with owner := o } := by
  rw [changeOwner_plain (h.waits.trans hw) (h.same ▸ ht), h.same]
  split
  · next ho => exact ho ▸ h
  · exact h.setAgain _

theorem endCmd_ctr (n : Node) (tid st : Nat) (r0 w3 : Word) : (endCmd n tid st r0 w3).ctr = n.ctr := by
  unfold endCmd; split <;> rfl

theorem endCmd_prs (n : Node) (tid st : Nat) (r0 w3 : Word) : (endCmd n tid st r0 w3).prs = n.prs := by
  unfold endCmd; split <;> rfl

/-- What holds once a command has changed one counter, answered its VALUE of before, and ended. -/
theorem OneCounter.ended {n m : Node} {k tid st : Nat} {c : Cmd} {x : Counter} (h : OneCounter n m k x) (hc : cmdOf n tid = some c)
    (r0 : Word) :
    let e := endCmd m tid st r0 0
    counterOf e k = x ∧ (∀ j, j ≠ k → counterOf e j = counterOf n j) ∧ HasEnded e tid st r0 0 ∧ e.mem = n.mem ∧ e.prs = n.prs := by
  have at_ (j : Nat) : counterOf (endCmd m tid st r0 0) j = counterOf m j :=
    counterOf_of_ctr (congrArg Counters.tab (endCmd_ctr _ _ _ _ _)) j
  refine ⟨(at_ k).trans h.same, fun j hj => (at_ j).trans (h.others j hj), hasEnded_of_trk hc (by rw [h.frame]) _ _ _, ?_, ?_⟩
  · rw [endCmd_mem, h.frame]
  · rw [endCmd_prs, h.frame]

/-! ### COUNTER_SET (R161, R162) -/

/-- What a COUNTER_SET makes of its counter, before it gives it an owner. -/
def assigned (c : Cmd) (x : Counter) : Counter :=
  { x with value := (dword c 4).toNat, bytes := bitOf (dword c 3) 16, err := false,
           trig := if bitOf (dword c 3) 18 then none else x.trig }

/-- The node with the counter of a COUNTER_SET assigned, and given its owner where the command names one. -/
def assign (n : Node) (c : Cmd) : Node :=
  let m := setCounter n (cntTarget c) (assigned c (counterOf n (cntTarget c)))
  if setsOwner c then changeOwner m (cntTarget c) (fieldOf (dword c 3) 47 32) else m

/-- Where no WAIT is parked and no trigger is left armed, the counter is what the command says, and nothing else changes. -/
theorem oneCounter_assign {n : Node} {c : Cmd} (hw : n.ctr.waits = [])
    (ht : (counterOf n (cntTarget c)).trig = none ∨ bitOf (dword c 3) 18 = true) :
    OneCounter n (assign n c) (cntTarget c) ⟨(dword c 4).toNat, false, bitOf (dword c 3) 16,
      if setsOwner c then fieldOf (dword c 3) 47 32 else (counterOf n (cntTarget c)).owner, none⟩ := by
  have ha : (assigned c (counterOf n (cntTarget c))).trig = none := by
    rcases ht with ht | ht <;> simp [assigned, ht]
  have h := oneCounter_setCounter n (cntTarget c) (assigned c (counterOf n (cntTarget c)))
  have hx : assigned c (counterOf n (cntTarget c)) =
      ⟨(dword c 4).toNat, false, bitOf (dword c 3) 16, (counterOf n (cntTarget c)).owner, none⟩ := by
    rw [← ha]; rfl
  unfold assign
  dsimp only
  split
  · have ho := h.changeOwner hw ha (fieldOf (dword c 3) 47 32)
    rw [hx] at ho ⊢; exact ho
  · rw [hx] at h ⊢; exact h

theorem counterSet_takes {n : Node} {tid : Nat} {c : Cmd} (h : CanStart n tid 0x40 c) (hw : WellCommanded n c) (hx : cmdCtx c ≠ 0)
    (hr : counterSetReserved c = false) (hs : c.ring = 0 ∨ setsOwner c = false)
    (ho : c.ring = 0 ∨ (counterOf n (cntTarget c)).owner = cmdCtx c) :
    counterSet tid n =
      settle (endCmd (evalCounter (assign n c) (cntTarget c) none) tid stOK (wordOf (counterOf n (cntTarget c)).value) 0) := by
  rw [counterSet, startCmd_of_canStart h, checked_passes hw tid (by simp [hx, hr]) ?_]
  · rfl
  · rcases hs with hs | hs
    · simp [firstStatus, hs]
    · rcases ho with ho | ho <;> simp [firstStatus, hs, ho]

theorem counterSet_denied {n : Node} {tid : Nat} {c : Cmd} (h : CanStart n tid 0x40 c) (hw : WellCommanded n c) (hx : cmdCtx c ≠ 0)
    (hr : counterSetReserved c = false) (hring : c.ring ≠ 0)
    (ho : setsOwner c = true ∨ (counterOf n (cntTarget c)).owner ≠ cmdCtx c) : counterSet tid n = refuseCmd n tid stDenied := by
  rw [counterSet, startCmd_of_canStart h, checked_later hw tid (by simp [hx, hr])]
  rcases ho with ho | ho <;> simp [firstStatus, hring, ho]

/-! ### COUNTER_ARM (R163, R164) -/

/-- The node with the trigger of a COUNTER_ARM armed, in place of an unfired one. -/
def armed (n : Node) (c : Cmd) : Node :=
  let m := setCounter n (cntTarget c) { counterOf n (cntTarget c) with trig := some (armTrigger c n.ctr.armings) }
  { m with ctr := { m.ctr with armings := m.ctr.armings + 1 } }

theorem oneCounter_armed (n : Node) (c : Cmd) :
    OneCounter n (armed n c) (cntTarget c) { counterOf n (cntTarget c) with trig := some (armTrigger c n.ctr.armings) } :=
  ⟨rfl, rfl, counterOf_setCounter_same n _ _, fun _ hj => counterOf_setCounter_other n _ _ _ hj⟩

theorem counterArm_takes {n : Node} {tid : Nat} {c : Cmd} (h : CanStart n tid 0x41 c) (hw : WellCommanded n c) (hx : cmdCtx c ≠ 0)
    (hr : armInvalid c = false) (ho : (counterOf n (cntTarget c)).owner = cmdCtx c) :
    counterArm tid n =
      settle (endCmd (evalTrigger (armed n c) (cntTarget c) none) tid stOK (wordOf (counterOf n (cntTarget c)).value) 0) := by
  rw [counterArm, startCmd_of_canStart h, checked_passes hw tid (by simp [hx, hr]) (by simp [firstStatus, ho])]
  rfl

theorem counterArm_denied {n : Node} {tid : Nat} {c : Cmd} (h : CanStart n tid 0x41 c) (hw : WellCommanded n c) (hx : cmdCtx c ≠ 0)
    (hr : armInvalid c = false) (ho : (counterOf n (cntTarget c)).owner ≠ cmdCtx c) : counterArm tid n = refuseCmd n tid stDenied := by
  rw [counterArm, startCmd_of_canStart h, checked_later hw tid (st := stDenied) (by simp [hx, hr]) (by simp [firstStatus, ho])]

/-- A trigger whose threshold is not reached, or whose counter carries ERR, does not fire (R164). -/
theorem evalTrigger_unmet {n : Node} {k : Nat} {t : Trigger} (ht : (counterOf n k).trig = some t)
    (h : (counterOf n k).err = true ∨ (counterOf n k).value < t.threshold) (e : Option Nat) : evalTrigger n k e = n := by
  have hb : ((counterOf n k).err || decide ((counterOf n k).value < t.threshold)) = true := by simpa using h
  simp only [evalTrigger, ht, hb, if_true]

/-- Settles O23: what is set or armed is one counter, which nothing watches or whose trigger does not fire yet. The admin ring's freedom
to set any counter, and arming under ERR, are the model's (log 75). -/
theorem countersAreSet : Obligations.CountersAreSet := by
  unfold Obligations.CountersAreSet
  intro tid c s x own arm others
  have set {P : Node → Prop} (h : P (counterSet tid s.nd)) : Moves (.counterSet tid) s P := moves_of_onNode (counterSet tid) rfl h
  have arms {P : Node → Prop} (h : P (counterArm tid s.nd)) : Moves (.counterArm tid) s P := moves_of_onNode (counterArm tid) rfl h
  have refused {c' : Cmd} (hc : cmdOf s.nd tid = some c') :
      HasEnded (refuseCmd s.nd tid stDenied) tid stDenied 0 0 ∧ (refuseCmd s.nd tid stDenied).ctr = s.nd.ctr :=
    ⟨hasEnded_endCmd hc _ _ _, endCmd_ctr _ _ _ _ _⟩
  refine ⟨fun ⟨hc, hw, hx, hr⟩ hq hwaits ht hs ho => set ?_, fun ⟨hc, hw, hx, hr⟩ hring ho => set ?_,
    fun ⟨hc, hw, hx, hr⟩ hq ho ht => arms ?_, fun ⟨hc, hw, hx, hr⟩ ho => arms ?_⟩
  · rw [counterSet_takes hc hw hx hr hs ho]
    have h1 := oneCounter_assign hwaits ht
    have he : evalCounter (assign s.nd c) (cntTarget c) none = assign s.nd c := by
      rw [evalCounter, wakeWaits_of_waits_nil (h1.waits.trans hwaits), evalTrigger_of_trig_none (congrArg Counter.trig h1.same)]
    rw [he, settle_quiet _ (quiet_endCmd (h1.quiet hq) _ _ _ _)]
    exact h1.ended hc.1 _
  · rw [counterSet_denied hc hw hx hr hring ho]
    exact refused hc.1
  · rw [counterArm_takes hc hw hx hr ho]
    have h1 := oneCounter_armed s.nd c
    rw [evalTrigger_unmet (congrArg Counter.trig h1.same) (by rw [h1.same]; exact ht),
      settle_quiet _ (quiet_endCmd (h1.quiet hq) _ _ _ _)]
    obtain ⟨hk, hj, hend, _, hprs⟩ := h1.ended hc.1 (st := stOK) (wordOf x.value)
    exact ⟨hk, hj, hend, hprs⟩
  · rw [counterArm_denied hc hw hx hr ho]
    exact refused hc.1

end Sys2Proof.Visibility
end

section
/-! What sending packets leaves waiting: nothing, where nothing waited before. -/

namespace Sys2Proof.Visibility

open Sys2Proof.Machine Sys2Proof.Safety Sys2Proof.Organisation Sys2Proof.ContextRanges Sys2Proof.OhmasLink

/-- No pair holds a request back. -/
def NoneHeld (n : Node) : Prop := ∀ e ∈ n.prs.pairs, e.2.held = []

theorem noneHeld_of_quiet {n : Node} (h : Quiet n) : NoneHeld n := by
  obtain ⟨_, _, _, _, hh, _, _⟩ := h
  exact hh

theorem noneHeld_of_prs {m n : Node} (hp : m.prs = n.prs) (h : NoneHeld n) : NoneHeld m := by
  unfold NoneHeld; rw [hp]; exact h

theorem held_pairOf {n : Node} (h : NoneHeld n) (own peer : Nat) : (pairOf n own peer).held = [] := by
  unfold pairOf Tbl.getD
  cases hf : Tbl.find? n.prs.pairs (pairKey own peer) with
  | none => rfl
  | some q => exact h _ (Tbl.find?_mem _ _ _ hf)

theorem noneHeld_setPair {n : Node} (h : NoneHeld n) (own peer : Nat) {q : Pair} (hq : q.held = []) :
    NoneHeld (setPair n own peer q) := by
  intro e he
  rcases mem_of_mem_tblPut he with rfl | he
  · exact hq
  · exact h e he

theorem noneHeld_startExchange {n : Node} (h : NoneHeld n) (own peer : Nat) : NoneHeld (startExchange n own peer) := by
  unfold startExchange
  dsimp only
  split
  · exact h
  · exact noneHeld_of_prs (sendUnnumbered_prs _ _) (noneHeld_setPair h _ _ (held_pairOf h own peer))

theorem noneHeld_sendPacket {n : Node} (h : NoneHeld n) (p : Packet) (why : SentFor) : NoneHeld (sendPacket n p why) := by
  have hm := noneHeld_startExchange h p.src.toNat p.dst.toNat
  have hq (x : Packet) : (notedPair (pairOf (startExchange n p.src.toNat p.dst.toNat) p.src.toNat p.dst.toNat) x why).held = [] := by
    unfold notedPair
    dsimp only
    split <;> exact held_pairOf hm _ _
  have hs := noneHeld_of_prs (stepFree_prs _) hm
  rw [sendPacket_eq]
  split
  · exact noneHeld_of_prs (transmit_prs _ _) (noneHeld_setPair hs _ _ (hq _))
  · exact noneHeld_setPair hs _ _ (hq _)

/-- Where nothing waits, changes beside what can wait leave nothing waiting. -/
theorem quiet_of_kept {m n : Node} (h : Quiet n) (hk : m.trk = n.trk) (hd : m.coh.mdirty = n.coh.mdirty) (hp : m.prog = n.prog)
    (hs : m.sol = n.sol) (hx : m.ctxs = n.ctxs) (hl : m.ml = n.ml) (hm : m.mem = n.mem) (hh : NoneHeld m) : Quiet m := by
  obtain ⟨h1, h2, h3, h4, _, h6, h7⟩ := h
  have hspan (l : Nat) : spanOf m l = spanOf n l := by simp only [spanOf, spansInUse, hx, hl]
  refine ⟨by rw [hk]; exact h1, hd.trans h2, by rw [hp]; exact h3, by rw [hs]; exact h4, hh, by rw [hk]; exact h6, ?_⟩
  simp only [hspan, hm]
  exact h7

theorem quiet_sendPacket {n : Node} (h : Quiet n) (p : Packet) (why : SentFor) : Quiet (sendPacket n p why) :=
  quiet_of_kept h (by simp) (by simp) (by simp) (by simp) (by simp) (by simp) (by simp) (noneHeld_sendPacket (noneHeld_of_quiet h) p why)

end Sys2Proof.Visibility
end

section
/-! COPY and FILL: how they start, what the answers to their packets come to, and how they end (O22). -/

namespace Sys2Proof.Visibility

open Sys2Proof.Machine Sys2Proof.Safety Sys2Proof.Organisation Sys2Proof.ContextRanges Sys2Proof.OhmasLink

/-! ### What the descriptor says -/

theorem isCopy_of_fill {n : Node} {tid : Nat} {c : Cmd} (h : CanStart n tid 2 c) : isCopy c = false := by
  obtain ⟨_, ho, _, _⟩ := h
  simp [isCopy, ho]

theorem isCopy_of_copy {n : Node} {tid : Nat} {c : Cmd} (h : CanStart n tid 1 c) : isCopy c = true := by
  obtain ⟨_, ho, _, _⟩ := h
  simp [isCopy, ho]

theorem engDstCtx_of_fill {c : Cmd} (h : isCopy c = false) : engDstCtx c = cmdCtx c := if_neg (by simp [h])

/-! ### Ending -/

/-- An engine command ends with its status, or with PARTIAL once a byte has landed (R170, R172). -/
theorem hasEnded_engEnd (n : Node) (tid : Nat) (c : Cmd) (st done : Nat) : HasEnded (engEnd n tid c st done) tid
    (if st = stOK then stOK else if 0 < done then stPartial else st) (wordOf done) 0 :=
  ⟨_, cmdOf_setCmd_same _ _ _, rfl, rfl, rfl, rfl⟩

theorem quiet_engEnd {n : Node} (h : Quiet n) (tid : Nat) (c : Cmd) (st done : Nat) : Quiet (engEnd n tid c st done) :=
  quiet_setCmd h tid (fun hp => by cases hp)

/-! ### Starting -/

/-- A command that has passed its checks, with everything still to send. -/
def begun (c : Cmd) : Cmd := engStage c 1 0 0 0 0 []

theorem engRow_starts {n : Node} {tid op : Nat} {c : Cmd} (h : CanStart n tid op c) : engRow op tid n =
    checked n tid c (engInvalid c) [(isCopy c && c.ring != 0 && fieldOf (dword c 5) 55 40 != 0, stDenied)] fun _ =>
      if engLength c = 0 then engZero (setCmd n tid { c with phase := .running }) tid { c with phase := .running }
      else engNext (setCmd n tid (begun c)) tid (begun c) := by
  have hp : ¬(c.phase == .running) = true := by rw [not_running_of_canStart h]; decide
  simp only [engRow, h.1, if_neg hp]
  exact startCmd_of_canStart h _

theorem engRow_invalid {n : Node} {tid op : Nat} {c : Cmd} (h : CanStart n tid op c) (hi : engInvalid c = true) :
    engRow op tid n = refuseCmd n tid stInvalid := by
  rw [engRow_starts h, checked_invalid _ _ _ hi]

/-- Only a COPY of the admin ring names a DST_CTX (R168). -/
def NamesOwnCtx (c : Cmd) : Prop := isCopy c = false ∨ c.ring = 0 ∨ fieldOf (dword c 5) 55 40 = 0

theorem NamesOwnCtx.passes {c : Cmd} (h : NamesOwnCtx c) :
    firstStatus [(isCopy c && c.ring != 0 && fieldOf (dword c 5) 55 40 != 0, stDenied)] = none := by
  rcases h with h | h | h <;> simp [firstStatus, h]

theorem engRow_runs {n : Node} {tid op : Nat} {c : Cmd} (h : CanStart n tid op c) (hw : WellCommanded n c)
    (hi : engInvalid c = false) (hx : NamesOwnCtx c) (hl : 0 < engLength c) :
    engRow op tid n = engNext (setCmd n tid (begun c)) tid (begun c) := by
  rw [engRow_starts h, checked_passes hw tid hi hx.passes, if_neg (by omega)]

theorem engRow_fence {n : Node} {tid op : Nat} {c : Cmd} (h : CanStart n tid op c) (hw : WellCommanded n c)
    (hi : engInvalid c = false) (hx : NamesOwnCtx c) (hl : engLength c = 0) :
    engRow op tid n = engZero (setCmd n tid { c with phase := .running }) tid { c with phase := .running } := by
  rw [engRow_starts h, checked_passes hw tid hi hx.passes, if_pos hl]

/-- The bytes left to the end of a PVA's chunk. -/
def chunkRoom (pva : Nat) : Nat := 2 ^ 21 - pva % 2 ^ 21

theorem engPiece_begun_fill (n : Node) {c : Cmd} (hc : isCopy c = false) :
    engPiece n (begun c) = min (min (engLength c) (maxPayload n)) (chunkRoom (engDst c)) := by
  have hb : isCopy (begun c) = false := hc
  rw [engPiece, hb]
  rfl

theorem engPiece_begun_copy (n : Node) {c : Cmd} (hc : isCopy c = true) :
    engPiece n (begun c) = min (min (engLength c) (maxPayload n)) (min (chunkRoom (engSrc c)) (chunkRoom (engDst c))) := by
  have hb : isCopy (begun c) = true := hc
  rw [engPiece, hb]
  rfl

theorem fillBytes_begun (n : Node) {c : Cmd} (hc : isCopy c = false) :
    fillBytes n (begun c) = (List.range (min (min (engLength c) (maxPayload n)) (chunkRoom (engDst c)))).map
      fun i => BitVec.ofNat 8 ((dword c 3).toNat / 256 ^ (i % 8)) := by
  have hd (i : Nat) : engDone (begun c) + i = i := Nat.zero_add i
  simp only [fillBytes, engPiece_begun_fill n hc, hd]
  rfl

/-! ### Sending -/

theorem transmit_setCmd (n : Node) (tid : Nat) (c : Cmd) (p : Packet) : transmit (setCmd n tid c) p = setCmd (transmit n p) tid c := by
  have hp : portChoice (setCmd n tid c) p = portChoice n p := rfl
  have ho (k : Nat) : isOwn (setCmd n tid c) k = isOwn n k := rfl
  unfold transmit
  rw [hp, ho]
  split
  · rfl
  · cases portChoice n p <;> rfl

theorem sendUnnumbered_setCmd (n : Node) (tid : Nat) (c : Cmd) (p : Packet) :
    sendUnnumbered (setCmd n tid c) p = setCmd (sendUnnumbered n p) tid c := transmit_setCmd (stepFree n) tid c _

theorem startExchange_setCmd (n : Node) (tid : Nat) (c : Cmd) (own peer : Nat) :
    startExchange (setCmd n tid c) own peer = setCmd (startExchange n own peer) tid c := by
  unfold startExchange
  simp only [apply_ite (setCmd · tid c)]
  congr 1
  exact sendUnnumbered_setCmd (setPair n own peer _) tid c _

/-- What a command has come to makes no difference to the packets it sends. -/
theorem sendPacket_setCmd (n : Node) (tid : Nat) (c : Cmd) (p : Packet) (why : SentFor) :
    sendPacket (setCmd n tid c) p why = setCmd (sendPacket n p why) tid c := by
  rw [sendPacket_eq, sendPacket_eq, startExchange_setCmd]
  simp only [apply_ite (setCmd · tid c), ← transmit_setCmd]
  rfl

theorem cmdOf_engSend (n : Node) (tid : Nat) (c : Cmd) (stage h : Nat) (p : Packet) (bs : Bytes) :
    cmdOf (engSend n tid c stage h p bs) tid =
      some (engStage c stage (engDone c) (engGen c) (nextSeq n n.nodeId h p.cls.toNat) h bs) := cmdOf_setCmd_same _ _ _

theorem engSend_keeps (n : Node) (tid : Nat) (c : Cmd) (stage h : Nat) (p : Packet) (bs : Bytes) :
    (engSend n tid c stage h p bs).mem = n.mem ∧ (engSend n tid c stage h p bs).ctr = n.ctr ∧
      (engSend n tid c stage h p bs).prs = (sendPacket n p (.engine tid stage)).prs :=
  ⟨sendPacket_mem _ _ _, sendPacket_ctr _ _ _, rfl⟩

/-- The state of a COPY or FILL is nothing that settling serves. -/
theorem quiet_setCmd_engine {n : Node} (hq : Quiet n) (tid : Nat) {c : Cmd} (hc : cmdOp c = 1 ∨ cmdOp c = 2) :
    Quiet (setCmd n tid c) := quiet_setCmd hq tid fun _ => by omega

theorem quiet_engSend {n : Node} (hq : Quiet n) (tid : Nat) {c : Cmd} (hc : cmdOp c = 1 ∨ cmdOp c = 2) (stage h : Nat) (p : Packet)
    (bs : Bytes) : Quiet (engSend n tid c stage h p bs) := quiet_setCmd_engine (quiet_sendPacket hq p _) tid hc

/-- The WRITE in hand goes out to its home (R170). -/
theorem engWrite_home {n : Node} {tid h : Nat} {c : Cmd} {bs : Bytes}
    (hr : engRoute n (engDstCtx c) (engDst c + engDone c) (engGen c) = .home h) :
    ∃ p : Packet, p.cls = 0 ∧ engWrite n tid c bs = engSend n tid c 4 h p bs := by
  refine ⟨_, ?_, by simp only [engWrite, hr]; rfl⟩
  split <;> rfl

theorem engNext_fill {n : Node} {tid : Nat} {c : Cmd} (hc : isCopy c = false) (hl : engDone c < engLength c) :
    engNext n tid c = engWrite n tid c (fillBytes n c) := by
  simp [engNext, hc, Nat.not_le.2 hl]

theorem engNext_copy {n : Node} {tid h : Nat} {c : Cmd} (hc : isCopy c = true) (hl : engDone c < engLength c)
    (hr : engRoute n (cmdCtx c) (engSrc c + engDone c) (engGen c) = .home h) :
    engNext n tid c = engSend n tid c 2 h
      { engPacket n h (cmdCtx c) (engSrc c + engDone c) 1 with len := BitVec.ofNat 13 (engPiece n c) } [] := by
  simp [engNext, hc, Nat.not_le.2 hl, hr]

theorem engNext_done {n : Node} {tid : Nat} {c : Cmd} (hl : engLength c ≤ engDone c) :
    engNext n tid c = engEnd n tid c stOK (engDone c) := by
  simp [engNext, hl]

/-- A FILL of some length sends its first WRITE (R169). -/
theorem engRow_sendsWrite {n : Node} {tid h : Nat} {c : Cmd} (hs : CanStart n tid 2 c) (hw : WellCommanded n c)
    (hi : engInvalid c = false) (hl : 0 < engLength c) (hr : engRoute n (cmdCtx c) (engDst c) 0 = .home h) :
    ∃ p : Packet, p.cls = 0 ∧
      engRow 2 tid n = engSend (setCmd n tid (begun c)) tid (begun c) 4 h p (fillBytes n (begun c)) := by
  have hf := isCopy_of_fill hs
  have hd : engDstCtx (begun c) = cmdCtx c := engDstCtx_of_fill hf
  have hl' : engDone (begun c) < engLength (begun c) := hl
  rw [engRow_runs hs hw hi (.inl hf) hl, engNext_fill (c := begun c) hf hl']
  exact engWrite_home (by rw [hd]; exact hr)

/-- A COPY of some length sends its first READ (R168). -/
theorem engRow_sendsRead {n : Node} {tid h : Nat} {c : Cmd} (hs : CanStart n tid 1 c) (hw : WellCommanded n c)
    (hi : engInvalid c = false) (hl : 0 < engLength c) (hx : c.ring = 0 ∨ fieldOf (dword c 5) 55 40 = 0)
    (hr : engRoute n (cmdCtx c) (engSrc c) 0 = .home h) :
    engRow 1 tid n = engSend (setCmd n tid (begun c)) tid (begun c) 2 h
      { engPacket n h (cmdCtx c) (engSrc c) 1 with len := BitVec.ofNat 13 (engPiece n (begun c)) } [] := by
  have hf := isCopy_of_copy hs
  have hl' : engDone (begun c) < engLength (begun c) := hl
  rw [engRow_runs hs hw hi (.inr hx) hl]
  exact engNext_copy (n := setCmd n tid (begun c)) (c := begun c) hf hl' hr

/-! ### Fences (R171) -/

/-- With nothing of its ring before it, a command of LENGTH 0 waits for nothing. -/
theorem engFenceOpen_first {n : Node} {c : Cmd} (h : earlierCmds n c = []) : engFenceOpen n c = true := by
  unfold engFenceOpen
  simp only [h, List.map_nil, List.filter_nil, List.any_nil, List.isEmpty_nil, Bool.not_false]
  split <;> rfl

/-- A command that starts to run comes before no command that it did not come before. -/
theorem earlierCmds_setCmd_running {n : Node} {tid : Nat} {c : Cmd} (h : earlierCmds n c = []) :
    earlierCmds (setCmd n tid { c with phase := .running }) { c with phase := .running } = [] := by
  unfold earlierCmds at h ⊢
  rw [List.filter_eq_nil_iff] at h ⊢
  intro e he
  rcases mem_of_mem_tblPut he with rfl | he
  · simp
  · exact h e he

theorem engZero_first {n : Node} {tid h : Nat} {c : Cmd} (he : earlierCmds n c = [])
    (hr : engRoute n (engDstCtx c) (engDst c) 0 = .home h) : engZero n tid c = engEnd n tid c stOK 0 := by
  simp only [engZero, hr, engFenceOpen_first he, if_true]

/-! ### Answers (R124, R170, R172) -/

theorem takeAnswer_some {n a : Node} {p : Packet} {w : SentFor} (h : takeAnswer n p = (a, some w)) :
    ∃ b u, present n p = (b, true) ∧ sentFor b p = some u ∧ u.purpose = w ∧ settleSent b p = a := by
  unfold takeAnswer at h
  rcases hp : present n p with ⟨b, t⟩
  cases t with
  | false => simp [hp] at h
  | true =>
    cases hs : sentFor b p with
    | none => simp [hp, hs] at h
    | some u =>
      simp only [hp, hs, Bool.not_true, Bool.false_eq_true, if_false, Prod.mk.injEq, Option.some.injEq] at h
      exact ⟨b, u, rfl, hs, h.2, h.1⟩

/-- An answer other than RETRY to a packet of a COPY or FILL. -/
theorem engineResponse_answers {n a : Node} {p : Packet} {tid k : Nat} (ha : accepting n = true)
    (h : takeAnswer n p = (a, some (.engine tid k))) (hr : p.status.toNat ≠ stRetry) (hk : k = 2 ∨ k = 4) :
    engineResponse p n = settle (engAnswer a tid k p) := by
  obtain ⟨b, u, hp, hs, hu, rfl⟩ := takeAnswer_some h
  have hk' : ¬(k = 7 ∨ k = 8) := by omega
  simp [engineResponse, ha, hp, hs, hu, hr, hk']

/-- An answer meets the command that it is for. -/
theorem engAnswer_running {a : Node} {p : Packet} {tid op : Nat} {c : Cmd} (hc : IsRunning a tid op c)
    (hr : p.status.toNat ≠ stRetry) (hm : p.status.toNat ≠ stMoved) (hk : c.stage = 2 ∨ c.stage = 4) :
    engAnswer a tid c.stage p =
      if c.stage = 2 then
        if p.status.toNat = stOK ∧ p.cls = 3 then engWrite a tid c (sliceOf (payloadOf p) 0 (engPiece a c))
        else engEnd a tid c p.status.toNat (engDone c)
      else engWritten a tid c p.status.toNat (landedOf p) := by
  obtain ⟨hc, _, hp, _⟩ := hc
  have h6 : c.stage ≠ 6 := by omega
  simp [engAnswer, hc, hp, hr, hm, h6]

/-- The last WRITE has landed: the command has nothing left to send. -/
theorem engWritten_last {a : Node} {tid : Nat} {c : Cmd} (hl : engDone c + (engBytes c).length = engLength c) (landed : Nat) :
    let d := engStage c 1 (engDone c + (engBytes c).length) (engGen c) 0 0 []
    engWritten a tid c stOK landed = engEnd (setCmd a tid d) tid d stOK (engLength c) := by
  intro d
  have hd : engDone d = engLength c := hl
  rw [engWritten, if_pos rfl, ← hd]
  exact engNext_done (Nat.le_of_eq hd.symm)

/-- Settles O22: each clause is one branch of the row that starts the command, or of what its answers come to. That the engines keep one
packet outstanding, within one chunk, is the model's choice (log 79). -/
theorem copyEnginesRun : Obligations.CopyEnginesRun := by
  unfold Obligations.CopyEnginesRun
  intro tid c s piece room
  have fill {P : Node → Prop} (h : P (engRow 2 tid s.nd)) : Moves (.fill tid) s P := moves_of_onNode (engRow 2 tid) rfl h
  have copy {P : Node → Prop} (h : P (engRow 1 tid s.nd)) : Moves (.copy tid) s P := moves_of_onNode (engRow 1 tid) rfl h
  have refused {op : Nat} (hs : CanStart s.nd tid op c) :
      HasEnded (refuseCmd s.nd tid stInvalid) tid stInvalid 0 0 ∧ (refuseCmd s.nd tid stInvalid).prs = s.nd.prs :=
    ⟨hasEnded_endCmd hs.1 _ _ _, endCmd_prs _ _ _ _ _⟩
  refine ⟨fun hs hi => fill ?_, fun hs hi => copy ?_, fun h hs hw hi hl hr => fill ?_, fun h hs hw hi hl hx hr => copy ?_,
    fun h hs hw hi hl he hr => fill ?_, ?_⟩
  · rw [engRow_invalid hs hi]; exact refused hs
  · rw [engRow_invalid hs hi]; exact refused hs
  · obtain ⟨p, hp, he⟩ := engRow_sendsWrite hs hw hi hl hr
    obtain ⟨hmem, hctr, _⟩ := engSend_keeps (setCmd s.nd tid (begun c)) tid (begun c) 4 h p (fillBytes s.nd (begun c))
    rw [he]
    refine ⟨?_, hmem, hctr⟩
    rw [cmdOf_engSend, hp, fillBytes_begun s.nd (isCopy_of_fill hs)]
    rfl
  · rw [engRow_sendsRead hs hw hi hl hx hr, engPiece_begun_copy _ (isCopy_of_copy hs)]
    obtain ⟨_, _, hprs⟩ := engSend_keeps (setCmd s.nd tid (begun c)) tid (begun c) 2 h { engPacket s.nd h (cmdCtx c) (engSrc c) 1 with
      len := BitVec.ofNat 13 (piece (min (room (engSrc c)) (room (engDst c)))) } []
    refine ⟨cmdOf_engSend _ _ _ _ _ _ _, hprs.trans ?_⟩
    rw [sendPacket_setCmd]
    rfl
  · have hf := isCopy_of_fill hs
    have hd : engDstCtx { c with phase := .running } = cmdCtx c := engDstCtx_of_fill hf
    rw [engRow_fence hs hw hi (.inl hf) hl, engZero_first (earlierCmds_setCmd_running he) (h := h) (by rw [hd]; exact hr)]
    exact ⟨hasEnded_engEnd _ _ _ _ _, rfl⟩
  · rintro p a k ht hq hc ha ho rfl hm
    have answer {P : Node → Prop} {m : Node} (hk : c.stage = 2 ∨ c.stage = 4) (hr : p.status.toNat ≠ stRetry)
        (he : engAnswer a tid c.stage p = m) (hqm : Quiet m) (h : P m) : Moves (.engineResponse p) s P :=
      moves_of_onNode (engineResponse p) rfl (by rw [engineResponse_answers ha ht hr hk, he, settle_quiet _ hqm]; exact h)
    refine ⟨fun hk hst hl => ?_, fun h hk hst hcls hr => ?_, fun hk hst hr => ?_⟩
    · have hr : p.status.toNat ≠ stRetry := by rw [hst]; decide
      have hend := engAnswer_running hc hr hm (.inr hk)
      rw [if_neg (by omega), hst, engWritten_last hl] at hend
      exact answer (.inr hk) hr hend (quiet_engEnd (by exact quiet_setCmd_engine hq tid ho) _ _ _ _) (hasEnded_engEnd _ _ _ _ _)
    · have hr' : p.status.toNat ≠ stRetry := by rw [hst]; decide
      obtain ⟨w, hw, he⟩ := engWrite_home (tid := tid) (bs := sliceOf (payloadOf p) 0 (engPiece a c)) hr
      have hsent := engAnswer_running hc hr' hm (.inl hk)
      rw [if_pos hk, if_pos ⟨hst, hcls⟩, he] at hsent
      refine answer (.inl hk) hr' hsent (quiet_engSend hq tid ho _ _ _ _) ?_
      rw [cmdOf_engSend, hw]
      rfl
    · have hend := engAnswer_running hc hr hm (.inl hk)
      rw [if_pos hk, if_neg fun h => hst h.1] at hend
      have hs := hasEnded_engEnd a tid c p.status.toNat (engDone c)
      rw [if_neg hst] at hs
      exact answer (.inl hk) hr hend (quiet_engEnd hq _ _ _ _) hs

end Sys2Proof.Visibility
end

section
/-! What answers leave waiting and in memory, and how a request that is alone at work ends (R59, R146, R242). -/

namespace Sys2Proof.Visibility

open Sys2Proof.Machine Sys2Proof.Safety Sys2Proof.Organisation Sys2Proof.ContextRanges

/-! ### Answers leave nothing waiting -/

theorem quiet_setPair {n : Node} (h : Quiet n) (own peer : Nat) {q : Pair} (hq : q.held = []) : Quiet (setPair n own peer q) :=
  quiet_of_kept h rfl rfl rfl rfl rfl rfl rfl (noneHeld_setPair (noneHeld_of_quiet h) own peer hq)

theorem quiet_markAnswered {n : Node} (h : Quiet n) (p : Packet) : Quiet (markAnswered n p) :=
  quiet_setPair h _ _ (held_pairOf (noneHeld_of_quiet h) _ _)

theorem quiet_closeRecord {n : Node} (h : Quiet n) (p : Packet) (st landed ovf nans : Nat) (bs : Bytes) :
    Quiet (closeRecord n p st landed ovf nans bs) := h

theorem quiet_dropNc {n : Node} (h : Quiet n) (t c : Nat) : Quiet (dropNc n t c) := h

theorem quiet_respond {n : Node} (h : Quiet n) (p : Packet) (cls st hi op6 : Nat) (bs : Bytes) :
    Quiet (respond n p cls st hi op6 bs) := quiet_sendPacket (quiet_markAnswered h p) _ _

theorem quiet_answerEnded {n : Node} (h : Quiet n) (p : Packet) (st landed ovf nans : Nat) (bs : Bytes) :
    Quiet (answerEnded n p st landed ovf nans bs) := by
  unfold answerEnded; dsimp only; split_ifs <;> exact quiet_respond h _ _ _ _ _ _

theorem quiet_sendTrain {n : Node} (h : Quiet n) (p : Packet) (st : Nat) (bs : Bytes) (k : Nat) : Quiet (sendTrain n p st bs k) :=
  List.foldlRecOn (motive := Quiet) _ _ (quiet_markAnswered h p) fun _ hm _ _ => quiet_sendPacket hm _ _

/-- The node once a read with ACQUIRE has dropped its tile's copies of NC lines (R150). -/
def acquired (n : Node) (q : Req) : Node :=
  match isAcquire q.pkt, q.lines.head? with
  | true, some l => dropNc n (homeTile n l.1) q.pkt.ctx.toNat
  | _, _ => n

theorem answerRead_eq (n : Node) (q : Req) (st : Nat) :
    let m := closeRecord (acquired n q) q.pkt st 0 0 0 []
    let t := transferImage (descOf q.pkt) (takenByte q)
    answerRead n q st =
      if st != stOK && st != stLateCheap then respond m q.pkt 2 st 0 0 []
      else if q.pkt.opcode = 4 then sendTrain m q.pkt st t.1 (countsWord t.2.1 t.2.2)
      else respond m q.pkt 3 st (if st = stOK then q.grant else 0) 0
        ((List.range q.pkt.len.toNat).map fun i => takenByte q (q.pkt.pva.toNat + i)) := rfl

theorem quiet_acquired {n : Node} (h : Quiet n) (q : Req) : Quiet (acquired n q) := by
  unfold acquired
  split
  · exact quiet_dropNc h _ _
  · exact h

theorem quiet_answerRead {n : Node} (h : Quiet n) (q : Req) (st : Nat) : Quiet (answerRead n q st) := by
  have hm := quiet_closeRecord (quiet_acquired h q) q.pkt st 0 0 0 []
  rw [answerRead_eq]
  split
  · exact quiet_respond hm _ _ _ _ _ _
  · split
    · exact quiet_sendTrain hm _ _ _ _
    · exact quiet_respond hm _ _ _ _ _ _

theorem respond_mem (n : Node) (p : Packet) (cls st hi op6 : Nat) (bs : Bytes) : (respond n p cls st hi op6 bs).mem = n.mem :=
  sendPacket_mem _ _ _

theorem answerEnded_mem (n : Node) (p : Packet) (st landed ovf nans : Nat) (bs : Bytes) :
    (answerEnded n p st landed ovf nans bs).mem = n.mem := by
  unfold answerEnded; dsimp only; split_ifs <;> exact respond_mem _ _ _ _ _ _ _

theorem sendTrain_mem (n : Node) (p : Packet) (st : Nat) (bs : Bytes) (k : Nat) : (sendTrain n p st bs k).mem = n.mem :=
  foldl_keeps _ (fun m : Node => m.mem) (fun _ _ => sendPacket_mem _ _ _) _ _

theorem acquired_mem (n : Node) (q : Req) : (acquired n q).mem = n.mem := by
  unfold acquired; split <;> rfl

theorem answerRead_mem (n : Node) (q : Req) (st : Nat) : (answerRead n q st).mem = n.mem := by
  have hm : (closeRecord (acquired n q) q.pkt st 0 0 0 []).mem = n.mem := acquired_mem n q
  rw [answerRead_eq]
  split
  · rw [respond_mem, hm]
  · split
    · rw [sendTrain_mem, hm]
    · rw [respond_mem, hm]

/-! ### One request at work -/

/-- The request in tracker `tid` is the only one at work, and nothing else waits. -/
def OnlyReq (n : Node) (tid : Nat) (q : Req) : Prop := n.trk.reqs = [(tid, q)] ∧ Quiet { n with trk := { n.trk with reqs := [] } }

theorem OnlyReq.find {n : Node} {tid : Nat} {q : Req} (h : OnlyReq n tid q) : Tbl.find? n.trk.reqs tid = some q := by
  simp [h.1, Tbl.find?]

theorem OnlyReq.noneHeld {n : Node} {tid : Nat} {q : Req} (h : OnlyReq n tid q) : NoneHeld n := by
  obtain ⟨_, _, _, _, _, hh, _, _⟩ := h
  exact hh

theorem OnlyReq.mdirty {n : Node} {tid : Nat} {q : Req} (h : OnlyReq n tid q) : n.coh.mdirty = [] := by
  obtain ⟨_, _, hd, _⟩ := h
  exact hd

theorem OnlyReq.drop {n : Node} {tid : Nat} {q : Req} (h : OnlyReq n tid q) :
    dropReq n tid = { n with trk := { n.trk with reqs := [] } } := by
  simp [dropReq, h.1, Tbl.del]

theorem OnlyReq.quiet_drop {n : Node} {tid : Nat} {q : Req} (h : OnlyReq n tid q) : Quiet (dropReq n tid) := h.drop ▸ h.2

theorem OnlyReq.setReq {n : Node} {tid : Nat} {q : Req} (h : OnlyReq n tid q) (q' : Req) : OnlyReq (setReq n tid q') tid q' :=
  ⟨by simp [Machine.setReq, h.1, Tbl.put], h.2⟩

theorem OnlyReq.drop_setReq {n : Node} {tid : Nat} {q : Req} (h : OnlyReq n tid q) (q' : Req) :
    dropReq (Machine.setReq n tid q') tid = dropReq n tid := by
  rw [(h.setReq q').drop, h.drop]; rfl

/-- Nothing comes before the only request. -/
theorem OnlyReq.lineTaken {n : Node} {tid : Nat} {q : Req} (h : OnlyReq n tid q) (line : Nat) : lineTaken n tid q line = false := by
  simp [Machine.lineTaken, h.1]

theorem OnlyReq.storeTurn {n : Node} {tid : Nat} {q : Req} (h : OnlyReq n tid q) : storeTurn n tid q = true := by
  simp [Machine.storeTurn, h.1]

theorem OnlyReq.probeTurn {n : Node} {tid : Nat} {q : Req} (h : OnlyReq n tid q) : probeTurn n tid q = true := by
  simp [Machine.probeTurn, firstOfPair, h.1]

/-- The request leaves its tracker, and is answered OK with its outcome. -/
def endedOK (n : Node) (tid : Nat) (p : Packet) (landed ovf nans : Nat) (result : Bytes) : Node :=
  answerEnded (closeRecord (dropReq n tid) p stOK landed ovf nans result) p stOK landed ovf nans result

theorem endedOK_mem (n : Node) (tid : Nat) (p : Packet) (landed ovf nans : Nat) (result : Bytes) :
    (endedOK n tid p landed ovf nans result).mem = n.mem := answerEnded_mem _ _ _ _ _ _ _

theorem OnlyReq.quiet_endedOK {n : Node} {tid : Nat} {q : Req} (h : OnlyReq n tid q) (p : Packet) (landed ovf nans : Nat)
    (result : Bytes) : Quiet (endedOK n tid p landed ovf nans result) :=
  quiet_answerEnded (quiet_closeRecord h.quiet_drop _ _ _ _ _ _) _ _ _ _ _ _

/-! ### Settling -/

theorem settleFuel_onlyReq {n : Node} {tid : Nat} {q : Req} (h : OnlyReq n tid q) : settleFuel n = q.units.length + 3 + 1 := by
  have hs : settleFuel n = (n.trk.reqs.map fun e => e.2.units.length + 2).foldl (· + ·) 2 :=
    foldl_stays _ _ _ fun e he => by rw [h.noneHeld e he]; rfl
  rw [hs, h.1]
  simp only [List.map_cons, List.map_nil, List.foldl_cons, List.foldl_nil]
  omega

/-- Where nothing waits, what follows the passes of `settle` changes nothing. -/
theorem afterPasses_quiet {n : Node} (h : Quiet n) : releaseDirect (settleParts (startFirings n)) = n := by
  have hc : clearMarks n = n := by simp [clearMarks, h.2.1]
  have hs := settle_quiet n h
  simp only [settle, hc, settleLoop_quiet n _ h.1 (noneHeld_of_quiet h)] at hs
  exact hs

/-- A request that is alone at work, and that ends at once, is all that settling serves. -/
theorem settle_onlyReq {n m : Node} {tid : Nat} {q : Req} (h : OnlyReq n tid q) (ha : advanceReq n tid = (m, true)) (hm : Quiet m) :
    settle n = m := by
  have hc : clearMarks n = n := by simp [clearMarks, h.mdirty]
  have hp : settlePass n = (m, true) := by
    simp [settlePass, h.1, Tbl.keysOf, ha, releaseHeld_quiet m (noneHeld_of_quiet hm)]
  have hl : settleLoop (settleFuel n) n = m := by
    rw [settleFuel_onlyReq h, settleLoop, hp]
    exact settleLoop_quiet m _ hm.1 (noneHeld_of_quiet hm)
  simp only [settle, hc, hl]
  exact afterPasses_quiet hm

end Sys2Proof.Visibility
end

section
/-! Reads, stores and PROBEs of one unit at the home (O33). -/

namespace Sys2Proof.Visibility

open Sys2Proof.Machine Sys2Proof.Safety Sys2Proof.Organisation Sys2Proof.ContextRanges

/-! ### Kinds of request -/

theorem not_zeroLength_of_homeKind {k : Nat} {p : Packet} (h : homeKind k p = true) : isZeroLength p = false := by
  simp only [homeKind, Bool.and_eq_true, Bool.not_eq_true'] at h
  obtain ⟨⟨_, hz⟩, _⟩ := h
  exact hz

/-- A request that reads data. -/
def Reads (p : Packet) : Prop := isProbe p = false ∧ isRead p = true

/-- A request that stores data. -/
def Stores (p : Packet) : Prop := isProbe p = false ∧ isRead p = false ∧ storesData p = true

theorem reads_of_homeKind {k : Nat} {p : Packet} (hk : k = 1 ∨ k = 4) (h : homeKind k p = true) : Reads p := by
  have hz := not_zeroLength_of_homeKind h
  have ho := opcode_of_homeKind h
  rcases hk with rfl | rfl
  · have ho : p.opcode = 1 := BitVec.eq_of_toNat_eq ho
    simp [Reads, isProbe, isRead, ho, hz]
  · have ho : p.opcode = 4 := BitVec.eq_of_toNat_eq ho
    simp [Reads, isProbe, isRead, ho, hz]

theorem stores_of_homeKind {k : Nat} {p : Packet} (hk : k = 2 ∨ k = 3 ∨ k = 5 ∨ k = 6) (h : homeKind k p = true) : Stores p := by
  have hz := not_zeroLength_of_homeKind h
  have ho := opcode_of_homeKind h
  rcases hk with rfl | rfl | rfl | rfl
  · have ho : p.opcode = 2 := BitVec.eq_of_toNat_eq ho
    simp [Stores, isProbe, isRead, storesData, isStore, ho, hz]
  · have ho : p.opcode = 3 := BitVec.eq_of_toNat_eq ho
    simp [Stores, isProbe, isRead, storesData, isStore, ho, hz]
  · have ho : p.opcode = 5 := BitVec.eq_of_toNat_eq ho
    simp [Stores, isProbe, isRead, storesData, isStore, ho, hz]
  · have ho : p.opcode = 6 := BitVec.eq_of_toNat_eq ho
    simp [Stores, isProbe, isRead, storesData, isStore, ho, hz]

/-- A PROBE, or a READ or WRITE of no bytes, reads nothing (R151). -/
theorem probes_of_probeKind {p : Packet} (h : probeKind p = true) : isProbe p = true ∧ isRead p = false := by
  simp only [probeKind, Bool.and_eq_true] at h
  refine ⟨h.2, ?_⟩
  cases hz : isZeroLength p with
  | false =>
    have ho : p.opcode = 8 := by simpa [isProbe, hz] using h.2
    simp [isRead, ho]
  | true =>
    have ho : p.opcode = 1 ∨ p.opcode = 2 := by
      simp only [isZeroLength, Bool.and_eq_true, Bool.or_eq_true, beq_iff_eq] at hz
      exact hz.1.1
    rcases ho with ho | ho <;> simp [isRead, ho, hz]

/-! ### Ending (R146, R151, R314) -/

theorem finishReq_read {n : Node} {tid : Nat} {q : Req} (h : OnlyReq n tid q) (hu : q.units = []) (hp : Reads q.pkt) :
    finishReq n tid = (answerRead (dropReq n tid) q (readStatus q), true) := by
  obtain ⟨hp, hr⟩ := hp
  simp [finishReq, h.find, hu, hp, hr]

theorem countReq_uncounted {n : Node} {q : Req} (h : isCnt q.pkt = false) (st : Nat) : countReq n q st = n := by
  simp [countReq, h]

theorem finishReq_store {n : Node} {tid : Nat} {q : Req} (h : OnlyReq n tid q) (hu : q.units = []) (hk : Stores q.pkt)
    (hs : storeSettled n q = true) (hl : q.lostState = false) (hc : isCnt q.pkt = false)
    (hst : q.status = some stOK) :
    finishReq n tid = (endedOK n tid q.pkt q.landed q.ovf q.nans q.result, true) := by
  obtain ⟨hp, hr, _⟩ := hk
  simp [finishReq, endedOK, h.find, hu, hp, hr, hs, hl, hst, countReq_uncounted hc]

theorem finishReq_probe {n : Node} {tid : Nat} {q : Req} (h : OnlyReq n tid q) (hu : q.units = []) (hp : isProbe q.pkt = true)
    (hc : isCnt q.pkt = false) :
    finishReq n tid = (endedOK n tid q.pkt 0 0 0 [], true) := by
  simp [finishReq, endedOK, h.find, hu, hp, h.probeTurn, countReq_uncounted hc]

/-! ### Reads (R176, R188, R210, R314) -/

/-- A request with one unit to serve, in one line, and the range that the line lies in. -/
structure OneLine (n : Node) (q : Req) (u : CommitUnit) (line pva : Nat) (r : Range) : Prop where
  units : q.units = [u]
  lines : u.lines = [(line, pva)]
  range : rangeFor n q.pkt.ctx.toNat pva = some r

/-- A request that has read its only line, from a slice where it stands. -/
def hasRead (g : Node) (q : Req) (line pva : Nat) : Req :=
  { q with units := [], grant := 0, taken := q.taken ++
      [{ line := line, pva := pva, data := lineData g line, poison := isPoisoned g line, cheap := false }] }

theorem readUnits_one {b g : Node} {tid line pva : Nat} {q : Req} {u : CommitUnit} {r : Range} (h : OnlyReq b tid q)
    (hl : OneLine b q u line pva r) (hw : wantsCopy q.pkt r = false)
    (hp : prepLine b q.pkt.ctx.toNat r pva line .read = (g, .ready)) :
    readUnits b tid = (setReq g tid (hasRead g q line pva), true) := by
  simp [readUnits, h.find, hl.units, hl.lines, h.lineTaken, readUnit, hl.range, hw, hp, hasRead]

theorem readStatus_hasRead {g : Node} {q : Req} {line pva : Nat} (ht : q.taken = []) (hs : q.status = none) :
    readStatus (hasRead g q line pva) = if isPoisoned g line then stPoisoned else stOK := by
  simp [readStatus, hasRead, ht, hs]

theorem advanceReq_read {b g : Node} {tid line pva : Nat} {q : Req} {u : CommitUnit} {r : Range} (h : OnlyReq b tid q)
    (hg : OnlyReq g tid q) (hk : Reads q.pkt) (hl : OneLine b q u line pva r) (hw : wantsCopy q.pkt r = false)
    (hp : prepLine b q.pkt.ctx.toNat r pva line .read = (g, .ready)) :
    advanceReq b tid = (answerRead (dropReq g tid) (hasRead g q line pva) (readStatus (hasRead g q line pva)), true) := by
  have hf := finishReq_read (hg.setReq (hasRead g q line pva)) rfl hk
  rw [hg.drop_setReq] at hf
  simp [advanceReq, h.find, hk.2, readUnits_one h hl hw hp, hf]

theorem advanceReq_probe {b : Node} {tid : Nat} {q : Req} (h : OnlyReq b tid q) (hu : q.units = []) (hp : isProbe q.pkt = true)
    (hr : isRead q.pkt = false) (hc : isCnt q.pkt = false) :
    advanceReq b tid = (endedOK b tid q.pkt 0 0 0 [], true) := by
  simp [advanceReq, h.find, hr, hu, finishReq_probe h hu hp hc]

/-! ### Stores into a slice (R144, R146, R229, R236) -/

theorem length_patchLine (pva : Nat) (x : Patch) (old : Bytes) : (patchLine pva x old).length = 64 := by
  simp [patchLine]

/-- A line that has been written whole reads as it was written. -/
theorem lineData_written {m : Node} {plain : Tbl Byte} {line : Nat} {bs : Bytes} (h : m.mem.plain = memWrite 0 plain (line * 64) bs)
    (hl : bs.length = 64) : lineData m line = bs := by
  rw [lineData, h, ← hl, memRead_write_same]

/-- A block of a slice that takes a line's store: the line is valid and dirty, and the block was used last. -/
def storedBlock (n : Node) (t : TileBlock) (line : Nat) : TileBlock :=
  { t with valid := t.valid ||| 2 ^ (line % 64), dirty := t.dirty ||| 2 ^ (line % 64), use := n.mem.uses }

/-- The node with a line's bytes in its slice, beside the state of its block. -/
def withLine (n : Node) (line : Nat) (bs : Bytes) : Node :=
  { n with mem := { n.mem with plain := memWrite 0 n.mem.plain (line * 64) bs, uses := n.mem.uses + 1 } }

/-- A store into a slice of a class that is not written through. -/
theorem storeLine_eq {n : Node} {r : Range} {line : Nat} {t : TileBlock} (hb : sliceBlock n (blkOf line) = some t)
    (h2 : r.resClass ≠ 2) (h3 : r.resClass ≠ 3) (bs : Bytes) :
    storeLine n r line 0 bs = setBlock (withLine n line bs) (blkOf line) (storedBlock n t line) := by
  have hb' : Tbl.find? n.mem.blocks (blkOf line) = some t := hb
  simp [storeLine, hb', h2, h3, touchBlock, sliceBlock, setBlock, tblPut_put, withLine, storedBlock]

/-- The request in tracker `tid` is the only one at work, and of the bytes in the slices those of one line have changed. -/
structure StoredLine (g m : Node) (tid : Nat) (q : Req) (line : Nat) (bs : Bytes) : Prop where
  only : OnlyReq m tid q
  plain : m.mem.plain = memWrite 0 g.mem.plain (line * 64) bs

theorem storedLine_storeLine {n : Node} {tid : Nat} {q : Req} {r : Range} {line : Nat} {t : TileBlock} (h : OnlyReq n tid q)
    (hb : sliceBlock n (blkOf line) = some t) (h2 : r.resClass ≠ 2) (h3 : r.resClass ≠ 3) (bs : Bytes) :
    StoredLine n (storeLine n r line 0 bs) tid q line bs := by
  rw [storeLine_eq hb h2 h3]
  refine ⟨⟨h.1, ?_⟩, rfl⟩
  have hq : Quiet (withLine { n with trk := { n.trk with reqs := [] } } line bs) := h.2
  exact quiet_setBlock hq (t := t) hb _

theorem storedLine_sendPacket {g n : Node} {tid line : Nat} {q : Req} {bs : Bytes} (h : StoredLine g n tid q line bs) (p : Packet)
    (why : SentFor) : StoredLine g (sendPacket n p why) tid q line bs := by
  obtain ⟨ho, hm⟩ := h
  refine ⟨⟨by rw [sendPacket_trk, ho.1], ?_⟩, by rw [sendPacket_mem, hm]⟩
  exact quiet_of_kept ho.2 (by simp) (by simp) (by simp) (by simp) (by simp) (by simp) (by simp)
    (noneHeld_sendPacket ho.noneHeld p why)

/-- A property that every packet keeps, forwards of a request keep (R372). -/
theorem sendForwards_keeps {P : Node → Prop} (hP : ∀ m p why, P m → P (sendPacket m p why)) {n : Node} (h : P n) (ctx : Nat)
    (r : Range) (pva vsel : Nat) (i : FwdInfo) (tid : Nat) (bs : Bytes) : P (sendForwards n ctx r pva vsel i (.forward tid) bs).1 := by
  unfold sendForwards
  dsimp only [markMirrored]
  refine List.foldlRecOn (motive := fun a : Node × List (Nat × Nat) => P a.1) _ _ h fun a ha x _ => ?_
  exact List.foldlRecOn (motive := fun a : Node × List (Nat × Nat) => P a.1) _ _ ha fun a ha y _ => hP _ _ _ ha

/-- A request's forward is packets alone, where no forward state was lost. -/
theorem sendReqForward_keeps {P : Node → Prop} (hP : ∀ m p why, P m → P (sendPacket m p why)) {n : Node} (h : P n)
    (hd : n.coh.mdirty = []) (tid : Nat) (q : Req) (pva vsel word6 : Nat) (bs : Bytes) :
    P (sendReqForward n tid q pva vsel word6 bs).1 := by
  have hn (line : Nat) : needsResync n line = false := by simp [needsResync, hd, Tbl.find?]
  unfold sendReqForward
  split
  · exact h
  · simp only [hn, Bool.not_false, if_true]
    exact sendForwards_keeps hP h _ _ _ _ _ _ _

/-- Where the chunk is in no part and no Leap goes on, the live version is the only one. -/
theorem storeVersions_plain {n : Node} {ctx line : Nat} {r : Range} (hp : partOf n (chunkOf line) = none) (ho : n.ml.outs = [])
    {t : TileBlock} (hb : sliceBlock n (blkOf line) = some t) (h2 : r.resClass ≠ 2) (h3 : r.resClass ≠ 3) (o : Origin) (same : Bool)
    (live : Bytes) (image : Bytes → Bytes) :
    storeVersions n ctx r line o same live image = (storeLine n r line 0 live, [0]) := by
  have hs : (storeLine n r line 0 live).ml.outs = [] := by rw [storeLine_eq hb h2 h3]; exact ho
  simp [storeVersions, hp, followLocalLeap, hs]

theorem logLateCut_none {n : Node} {line : Nat} (h : partOf n (chunkOf line) = none) (p : Packet) : logLateCut n line p = n := by
  simp only [logLateCut, h]

/-- The node before a line of a unit is stored: one that the packet covers whole loses its poison (R210). -/
def cleaned (g : Node) (p : Packet) (line pva : Nat) : Node := if coversWhole p pva then clearPoison g line else g

theorem cleaned_eq (g : Node) (p : Packet) (line pva : Nat) :
    ∃ x, cleaned g p line pva = { g with coh := { g.coh with poison := x } } := by
  unfold cleaned
  split
  · exact ⟨_, rfl⟩
  · exact ⟨g.coh.poison, rfl⟩

theorem cleaned_keeps (g : Node) (p : Packet) (line pva : Nat) :
    (cleaned g p line pva).mem = g.mem ∧ (cleaned g p line pva).ml = g.ml ∧ (cleaned g p line pva).sol = g.sol ∧
      ∀ tid q, OnlyReq g tid q → OnlyReq (cleaned g p line pva) tid q := by
  obtain ⟨x, hx⟩ := cleaned_eq g p line pva
  rw [hx]
  exact ⟨rfl, rfl, rfl, fun _ _ h => h⟩

/-- The request once its only unit stands in memory; `fs` are its forwards. -/
def hasStored (g : Node) (q : Req) (u : CommitUnit) (fs : List (Nat × Nat)) : Req :=
  let e := unitEffect q.pkt u (versionByte g q.pkt.ctx.toNat false)
  { q with units := [], landed := q.landed + u.payLen, ovf := q.ovf + e.ovf, nans := q.nans + e.nans, result := e.prior,
           fwds := q.fwds ++ fs, status := some stOK }

theorem commitUnit_one {g : Node} {tid line pva : Nat} {q : Req} {u : CommitUnit} {r : Range} {t : TileBlock} (h : OnlyReq g tid q)
    (hu : u.lines = [(line, pva)]) (hr : rangeFor g q.pkt.ctx.toNat pva = some r) (hb : sliceBlock g (blkOf line) = some t)
    (h2 : r.resClass ≠ 2) (h3 : r.resClass ≠ 3) (hp : partOf g (chunkOf line) = none) (ho : g.ml.outs = []) :
    let bs := patchLine pva (unitEffect q.pkt u (versionByte g q.pkt.ctx.toNat false)).bytes (lineData g line)
    ∃ m fs, StoredLine g m tid q line bs ∧ commitUnit g tid q u [] = setReq m tid (hasStored g q u fs) := by
  intro bs
  obtain ⟨hmem, hml, hsol, honly⟩ := cleaned_keeps g q.pkt line pva
  have hd : (if coversWhole q.pkt pva then clearPoison g line else g) = cleaned g q.pkt line pva := rfl
  generalize cleaned g q.pkt line pva = n at hmem hml hsol honly hd
  have hp' : partOf n (chunkOf line) = none := by simpa only [partOf, hsol] using hp
  have hb' : sliceBlock n (blkOf line) = some t := by simpa only [sliceBlock, hmem] using hb
  have hdata : lineData n line = lineData g line := by simp only [lineData, hmem]
  have hst := storedLine_storeLine (honly tid q h) hb' h2 h3 bs
  simp only [commitUnit, hu, List.foldl_cons, List.foldl_nil, hr, hd, logLateCut_none hp', hdata,
    storeVersions_plain hp' (by rw [hml]; exact ho) hb' h2 h3, List.map_cons, List.map_nil, List.nil_append, List.zipIdx_singleton]
  refine ⟨_, _, sendReqForward_keeps (P := fun m => StoredLine g m tid q line bs) (fun _ _ _ h => storedLine_sendPacket h _ _)
    ⟨hst.only, by rw [hst.plain, hmem]⟩ hst.only.mdirty tid _ _ _ _ _, rfl⟩

theorem storeUnit_one {b g : Node} {tid line pva : Nat} {q : Req} {u : CommitUnit} {r : Range} (h : OnlyReq b tid q)
    (hl : OneLine b q u line pva r) (hx : isPoisoned b line = false) (hp : prepUnit b q u = (g, .ready)) :
    storeUnit b tid = (commitUnit g tid q u [], true) := by
  simp [storeUnit, h.find, hl.units, h.storeTurn, hl.lines, h.lineTaken, hx, hp]

/-- A store of one unit is performed and, where nothing holds its completion back, answered OK. -/
theorem advanceReq_store {b g c : Node} {tid line pva : Nat} {q : Req} {u : CommitUnit} {r : Range} {fs : List (Nat × Nat)}
    (h : OnlyReq b tid q) (hk : Stores q.pkt) (hcnt : isCnt q.pkt = false) (hl : OneLine b q u line pva r)
    (hx : isPoisoned b line = false) (hp : prepUnit b q u = (g, .ready)) (hc : commitUnit g tid q u [] = c)
    (ho : OnlyReq c tid (hasStored g q u fs)) (hs : storeSettled c (hasStored g q u fs) = true) (hlost : q.lostState = false) :
    let q' := hasStored g q u fs
    advanceReq b tid = (endedOK c tid q.pkt q'.landed q'.ovf q'.nans q'.result, true) := by
  intro q'
  have hpkt : q'.pkt = q.pkt := rfl
  have hf := finishReq_store (q := q') ho rfl hk hs hlost hcnt rfl
  rw [hpkt] at hf
  obtain ⟨_, hrd, hsd⟩ := hk
  simp [advanceReq, h.find, hrd, hsd, hl.units, storeUnit_one h hl hx hp, hc, hf]

/-! ### The rows together -/

/-- A request that is admitted alone, and that one pass serves, comes to what that pass makes of it. -/
theorem moves_served {s : State} {p : Packet} {a b m : Node} {tid : Nat} {q : Req} {row : Instr × (Packet → Bool)} {P : Node → Prop}
    (ht : Taken s.nd p a) (hb : takeRequest a p = b) (h : OnlyReq b tid q) (hrow : row ∈ homeRows p) (hk : row.2 p = true)
    (ha : advanceReq b tid = (m, true)) (hm : Quiet m) (hP : P m) : Moves row.1 s P :=
  moves_of_onNode _ (exec_homeRow hrow s) (by rw [takeRow_taken hk ht, hb, settle_onlyReq h ha hm]; exact hP)

/-- Settles O33: with one unit in one line, each request is served in the first pass after its admission. -/
theorem memoryOperations : Obligations.MemoryOperations := by
  unfold Obligations.MemoryOperations
  rintro p s b g tid line pva q u r ⟨a, ht, hb, hreqs, rfl, hnone, hquiet⟩
  have hob : OnlyReq b tid q := ⟨hreqs, hquiet⟩
  intro one t read e c still
  refine ⟨fun i hi ⟨htaken, hu, hl, hr⟩ hw hp ⟨hqg, hrg⟩ => ?_,
    fun i hi ⟨htaken, hu, hl, hr⟩ hc hx hp ⟨hqg, hrg⟩ hblk h2 h3 hrg' hpart hout _ q' hq' hs hlost => ?_, fun hk hu hc => ?_⟩
  · have hog : OnlyReq g tid q := ⟨hrg, hqg⟩
    obtain ⟨k, hrow, hk14, hk⟩ : ∃ k, (i, homeKind k) ∈ homeRows q.pkt ∧ (k = 1 ∨ k = 4) ∧ homeKind k q.pkt = true := by
      rcases hi with ⟨rfl, hk⟩ | ⟨rfl, hk⟩
      · exact ⟨1, by simp [homeRows], by decide, hk⟩
      · exact ⟨4, by simp [homeRows], by decide, hk⟩
    exact moves_served ht hb hob hrow hk (advanceReq_read hob hog (reads_of_homeKind hk14 hk) ⟨hu, hl, hr⟩ hw hp)
      (quiet_answerRead hog.quiet_drop _ _)
      ⟨rfl, readStatus_hasRead htaken hnone, by rw [answerRead_mem]; rfl⟩
  · have hog : OnlyReq g tid q := ⟨hrg, hqg⟩
    obtain ⟨k, hrow, hkind, hk⟩ : ∃ k, (i, homeKind k) ∈ homeRows q.pkt ∧ (k = 2 ∨ k = 3 ∨ k = 5 ∨ k = 6) ∧
        homeKind k q.pkt = true := by
      rcases hi with ⟨rfl, hk⟩ | ⟨rfl, hk⟩ | ⟨rfl, hk⟩ | ⟨rfl, hk⟩
      · exact ⟨2, by simp [homeRows], by decide, hk⟩
      · exact ⟨3, by simp [homeRows], by decide, hk⟩
      · exact ⟨5, by simp [homeRows], by decide, hk⟩
      · exact ⟨6, by simp [homeRows], by decide, hk⟩
    obtain ⟨blk, hblk⟩ := Option.isSome_iff_exists.1 hblk
    obtain ⟨m, fs, hm, hcm⟩ := commitUnit_one hog hl hrg' hblk h2 h3 hpart hout
    have hoc : OnlyReq c tid (hasStored g q u fs) := by rw [show c = _ from hcm]; exact hm.only.setReq _
    obtain rfl : hasStored g q u fs = q' := by simpa [hoc.1] using hq'
    have hlen := length_patchLine pva e.bytes (lineData g line)
    have hend (landed ovf nans : Nat) (bs : Bytes) : (endedOK c tid q.pkt landed ovf nans bs).mem.plain =
        memWrite 0 g.mem.plain (line * 64) (patchLine pva e.bytes (lineData g line)) := by
      rw [endedOK_mem, ← hm.plain, show c = _ from hcm]; rfl
    refine moves_served ht hb hob hrow hk (advanceReq_store hob (stores_of_homeKind hkind hk) hc ⟨hu, hl, hr⟩ hx hp rfl hoc hs hlost)
      (hoc.quiet_endedOK _ _ _ _ _) ⟨rfl, rfl, rfl, lineData_written (hend _ _ _ _) hlen, fun x hx => ?_⟩
    rw [hend, memGet_write_other _ _ _ _ _ (by omega)]
  · have hrow : (.probe q.pkt, probeKind) ∈ homeRows q.pkt := by simp [homeRows]
    obtain ⟨hpr, hrd⟩ := probes_of_probeKind hk
    exact moves_served ht hb hob hrow hk (advanceReq_probe hob hu hpr hrd hc) (hob.quiet_endedOK _ _ _ _ _)
      ⟨rfl, endedOK_mem _ _ _ _ _ _ _⟩

end Sys2Proof.Visibility
end

section
/-! The host's requests at the bridge, and the answers to them (O46). -/

namespace Sys2Proof.Coherence

open Sys2Proof.Machine Sys2Proof.Safety Sys2Proof.Organisation Sys2Proof.OhmasLink

/-! ### Sending a request of the host (R198) -/

/-- The bridge's packet, addressed to the home `h` under the newest map known and numbered for its pair. -/
def addressed (n : Node) (h : Nat) (p : Packet) : Packet :=
  { p with
    dst := BitVec.ofNat 16 h, src := BitVec.ofNat 16 (bridgeId n), mapgen := BitVec.ofNat 32 (knownGen n p.ctx.toNat)
    seq := BitVec.ofNat 32 (nextSeq n (bridgeId n) h p.cls.toNat) }

/-- In `m` the request that the bridge has just made of the home `h` stands on its list; memory, the directory, the contexts and what
the host holds are those of `n`. -/
def HasAsked (n m : Node) (h tag : Nat) (owed : HostOwed) (p : Packet) : Prop :=
  m.mem = n.mem ∧ m.coh = n.coh ∧ m.ctxs = n.ctxs ∧ m.bridge.holds = n.bridge.holds ∧
    ∃ q ∈ m.bridge.reqs, q.hostTag = tag ∧ q.owed = owed ∧ q.lostHome = 0 ∧ q.pkt = addressed n h p

/-- The map names the home of a packet not yet addressed. -/
def HasHome (n : Node) (h : Nat) (p : Packet) : Prop := engRoute n p.ctx.toNat p.pva.toNat p.mapgen.toNat = .home h

/-- A request with a home, no store of a lost one, leaves; the record of it takes the packet as sent. -/
theorem routeHost_home {n : Node} {r : HostReq} {h : Nat} (hh : HasHome n h r.pkt) (hl : r.lostHome = 0) :
    routeHost n r = onBridge (sendPacket n (addressed n h r.pkt) .protocol) fun b =>
      { b with reqs := b.reqs.map fun x => if x = r then { r with pkt := addressed n h r.pkt } else x } := by
  have hr : engRoute n r.pkt.ctx.toNat r.pkt.pva.toNat r.pkt.mapgen.toNat = .home h := hh
  simp only [routeHost, hr, hl, bne_self_eq_false, Bool.false_eq_true, if_false]
  rfl

theorem askHost_home {n : Node} {h : Nat} {p : Packet} (hh : HasHome n h p) (tag : Nat) (owed : HostOwed) :
    HasAsked n (askHost n tag owed p) h tag owed p := by
  let r : HostReq := { hostTag := tag, owed := owed, pkt := p, lostHome := 0, asked := false }
  let m := onBridge n fun b => { b with reqs := b.reqs ++ [r] }
  have sent : askHost n tag owed p = onBridge (sendPacket m (addressed n h p) .protocol) fun b =>
      { b with reqs := b.reqs.map fun x => if x = r then { r with pkt := addressed n h p } else x } :=
    routeHost_home (n := m) (r := r) hh rfl
  rw [sent, onBridge, sendPacket_bridge]
  exact ⟨sendPacket_mem _ _ _, sendPacket_coh _ _ _, sendPacket_ctxs _ _ _, rfl, { r with pkt := addressed n h p },
    List.mem_map.2 ⟨r, List.mem_append_right _ (List.mem_singleton.2 rfl), if_pos rfl⟩, rfl, rfl, rfl, rfl⟩

/-! ### Reads and writes of the host (R176, R194, R198) -/

/-- The first byte of the line that a host request names. -/
abbrev hostLine (m : HostM2S) : Nat := m.dpa.toNat / 64 * 64

/-- What a read is owed, by its MetaValue. -/
def readOwed (m : HostM2S) : HostOwed := if m.meta_ = 2 then .readAny else if m.meta_ = 3 then .readShared else .readPlain

/-- Some read of the host, caching or not. -/
def IsRead (o : HostOwed) : Prop := o = .readAny ∨ o = .readShared ∨ o = .readPlain

theorem isRead_readOwed (m : HostM2S) : IsRead (readOwed m) := by
  unfold readOwed
  split
  · exact .inl rfl
  · split
    · exact .inr (.inl rfl)
    · exact .inr (.inr rfl)

/-- A snoop that asks the host for the data of the line is under way. -/
def snooped (n : Node) (ctx pva : Nat) : Bool :=
  n.bridge.snoops.any fun z => z.fwd.ctx.toNat == ctx && z.fwd.pva.toNat == pva && z.fwd.opcode != 0x40

/-- The snoop, with the data if it is one of the line. -/
def withDirty (ctx pva : Nat) (data : Bytes) (z : BridgeSnoop) : BridgeSnoop :=
  if z.fwd.ctx.toNat == ctx && z.fwd.pva.toNat == pva then { z with dirty := some data } else z

theorem snooped_of_quiet {n : Node} {ctx pva : Nat}
    (h : ∀ z ∈ n.bridge.snoops, ¬ (z.fwd.ctx.toNat = ctx ∧ z.fwd.pva.toNat = pva)) : snooped n ctx pva = false := by
  rw [snooped, List.any_eq_false]
  intro z hz hc
  simp only [Bool.and_eq_true, beq_iff_eq] at hc
  obtain ⟨hline, _⟩ := hc
  exact h z hz hline

/-- A read that fails gives the host poison and its Cmp. -/
theorem hostFails_read {o : HostOwed} (h : IsRead o) (n : Node) (tag : Nat) :
    hostFails n tag o = emitAll n [.host "MemData, poisoned" tag [], .host "Cmp" tag []] := by
  rcases h with rfl | rfl | rfl <;> simp [hostFails, toHost, emit, emitAll]

section
variable {m : HostM2S} {n : Node} (on : hostServed n = true)
include on

theorem hostRead_unmapped (hw : windowFor n (hostLine m) = none) :
    hostRead m n = emitAll (countHost n 0 m.dpa.toNat)
      [.host "MemData, poisoned" m.tag.toNat [], .host "Cmp" m.tag.toNat []] := by
  simp only [hostRead, on, hw, Bool.not_true, Bool.false_eq_true, if_false]
  exact hostFails_read (isRead_readOwed m) _ _

theorem hostWrite_unmapped (hw : windowFor n (hostLine m) = none) :
    hostWrite m n = emitAll (countHost n 0 m.dpa.toNat) [.host "Cmp" m.tag.toNat []] := by
  simp only [hostWrite, on, hw, Bool.not_true, Bool.false_eq_true, if_false]
  rfl

variable {w : BridgeWin} (hw : windowFor n (hostLine m) = some w)
include hw

theorem hostRead_mapped {o : HostOwed} (ho : readOwed m = o) : hostRead m n = askHost n m.tag.toNat o
    (if o = .readPlain then hostPlain w (pvaFor w (hostLine m)) else hostCaching w (pvaFor w (hostLine m))) := by
  subst ho
  simp only [hostRead, on, hw, Bool.not_true, Bool.false_eq_true, if_false]
  rfl

/-- A write of a line that no snoop asks for: the host gives the line up, or stores to it. -/
theorem hostWrite_stores (hs : snooped n (winCtx w) (pvaFor w (hostLine m)) = false) :
    hostWrite m n = if m.meta_ = 0 ∧ hostOwns n (winCtx w) (pvaFor w (hostLine m)) = true
      then askHost n m.tag.toNat .evict (withPayload (hostPacket w 3 0x68 (pvaFor w (hostLine m))) (sliceOf m.data 0 64))
      else askHost n m.tag.toNat .write (withPayload (hostPacket w 0 2 (pvaFor w (hostLine m))) (sliceOf m.data 0 64)) := by
  rw [snooped] at hs
  simp only [hostWrite, on, hw, hs, Bool.not_true, Bool.false_eq_true, if_false, Bool.and_eq_true, decide_eq_true_eq]

/-- A write of a line that a snoop asks for is that snoop's data. -/
theorem hostWrite_snooped (hs : snooped n (winCtx w) (pvaFor w (hostLine m)) = true) :
    hostWrite m n = toHost (onBridge n fun b =>
      { b with snoops := b.snoops.map (withDirty (winCtx w) (pvaFor w (hostLine m)) (sliceOf m.data 0 64)) }) "Cmp" m.tag.toNat [] := by
  rw [snooped] at hs
  simp only [hostWrite, on, hw, hs, Bool.not_true, Bool.false_eq_true, if_false, if_true]
  rfl

theorem hostPartial_none (hr : enabledRuns m.enables = []) : hostPartial m n = toHost n "Cmp" m.tag.toNat [] := by
  simp only [hostPartial, on, hw, hr, List.isEmpty_nil, Bool.not_true, Bool.false_eq_true, if_false, if_true]

theorem hostPartial_one {i k : Nat} (hr : enabledRuns m.enables = [(i, k)]) :
    hostPartial m n = askHost n m.tag.toNat .write
      (withPayload (hostPacket w 0 2 (pvaFor w (hostLine m) + i)) (sliceOf m.data i k)) := by
  simp only [hostPartial, on, hw, hr, List.isEmpty_cons, List.foldl_cons, List.foldl_nil, Bool.not_true, Bool.false_eq_true,
    if_false]

end

/-- Any other request of the host is completed and logged. -/
def hostOther (m : HostM2S) (o : BitVec 4) (n : Node) : Node :=
  if hostServed n then toHost (countHost n 1 o.toNat) "Cmp" m.tag.toNat [] else n

theorem exec_hostOther (m : HostM2S) (o : BitVec 4) (s : State) : exec (.hostOtherM2s m o) s = .next (onNode s (hostOther m o)) := rfl

/-! ### Answers to the bridge's requests (R194, R420) -/

/-- An answer to the bridge has come, and is no ADOPT_RESULT. -/
def AnswerCame (n : Node) (p : Packet) (a : Node) : Prop :=
  bridgeId n ≠ 0 ∧ p.dst.toNat = bridgeId n ∧ accepting n = true ∧ Arrives n p a ∧ p.opcode ≠ 0xB2

/-- The answer that has come, no WB_ACK, is that of the request `r`. -/
def Answers (n : Node) (p : Packet) (a : Node) (r : HostReq) : Prop :=
  AnswerCame n p a ∧ p.opcode ≠ 0x69 ∧ hostReqFor (settleSent a p) p = some r

/-- The answer that has come is the WB_ACK of the WB_EVICT `r`. -/
def AcksEvict (n : Node) (p : Packet) (a : Node) (r : HostReq) : Prop :=
  AnswerCame n p a ∧ p.opcode = 0x69 ∧ hostReqFor a p = some r ∧ r.owed = .evict

theorem hostReqFor_mem {n : Node} {p : Packet} {r : HostReq} (h : hostReqFor n p = some r) : r ∈ n.bridge.reqs :=
  List.mem_of_find?_eq_some h

/-- A write is answered once no other part of it is left. -/
theorem hostWritten_last {n : Node} {tag : Nat} (h : ∀ z ∈ n.bridge.reqs, z.hostTag ≠ tag) :
    hostWritten n tag = emitAll n [.host "Cmp" tag []] := by
  have hn : (n.bridge.reqs.any fun r => r.hostTag == tag) = false := by simpa using h
  simp only [hostWritten, hn, Bool.false_eq_true, if_false]
  rfl

section
variable {n : Node} {r : HostReq} {p : Packet}

/-- The grant that comes with the data of a READ makes the host a holder of the line. -/
theorem hostData_granted (hr : r.pkt.opcode = 1) (hg : fieldOf p.op5 35 32 = 1 ∨ fieldOf p.op5 35 32 = 2) (ho : r.owed ≠ .readPlain) :
    hostData n r p = emitAll (hostTakes n r.pkt.ctx.toNat r.pkt.pva.toNat (fieldOf p.op5 35 32 == 2))
      [.host "MemData" r.hostTag (sliceOf (payloadOf p) 0 64),
       .host (if r.owed = .readAny ∧ fieldOf p.op5 35 32 = 2 then "Cmp-E" else "Cmp-S") r.hostTag []] := by
  rcases hg with hg | hg <;> simp [hostData, hr, hg, ho, toHost, emit, emitAll]

/-- The data of a TILE_READ make nobody a holder. -/
theorem hostData_plain (hr : r.pkt.opcode ≠ 1) :
    hostData n r p = emitAll n [.host "MemData" r.hostTag (sliceOf (payloadOf p) 0 64), .host "Cmp" r.hostTag []] := by
  simp only [hostData, if_neg hr, decide_true, Bool.or_true, if_true, toHost, emit, emitAll, List.append_assoc]
  rfl

theorem hostAnswered_moved (hm : p.status.toNat = stMoved) :
    hostAnswered n r p = reroute n r (newerGen r.pkt.mapgen.toNat p.mapgen.toNat) := by
  simp only [hostAnswered, hm, if_true]

variable (hm : p.status.toNat ≠ stMoved)
include hm

theorem hostAnswered_read (hr : IsRead r.owed) : hostAnswered n r p =
    if p.status.toNat = stOK then hostData (dropHostReq n r) r p else hostFails (dropHostReq n r) r.hostTag r.owed := by
  rcases hr with hr | hr | hr <;> simp only [hostAnswered, hm, hr, if_false]

theorem hostAnswered_write (hr : r.owed = .write) : hostAnswered n r p = hostWritten (dropHostReq n r) r.hostTag := by
  simp only [hostAnswered, hm, hr, if_false]

theorem hostAnswered_evict (hr : r.owed = .evict) : hostAnswered n r p =
    if p.status.toNat = stDenied
    then onBridge n fun b => { b with reqs := b.reqs.map fun x => if x = r then { r with asked := true } else x }
    else hostWritten (dropHostReq (hostDrops n r.pkt.ctx.toNat r.pkt.pva.toNat) r) r.hostTag := by
  simp only [hostAnswered, hm, hr, if_false]

end

section
variable {n a : Node} {p : Packet} {r : HostReq}

/-- Any answer but WB_ACK settles the packet that it answers; RETRY leaves it to the re-send. -/
theorem bridgeResponse_answers (h : Answers n p a r) :
    bridgeResponse p n = if p.status.toNat = stRetry then settleSent a p else hostAnswered (settleSent a p) r p := by
  obtain ⟨⟨hb, hd, ha, hp, hq⟩, ho, hr⟩ := h
  have hp : present n p = (a, true) := hp
  have ho' : (p.opcode != 0x69) = true := bne_iff_ne.2 ho
  by_cases hst : p.status.toNat = stRetry <;>
    simp only [bridgeResponse, hb, hd, ha, hp, hq, ho, ho', hr, hst, decide_true, decide_false, bne_self_eq_false, Bool.or_self,
      Bool.and_self, Bool.and_true, Bool.not_true, Bool.false_eq_true, if_true, if_false]

/-- WB_ACK settles nothing; with RETRY the WB_EVICT goes out again as it was. -/
theorem bridgeResponse_acksEvict (h : AcksEvict n p a r) :
    bridgeResponse p n = if p.status.toNat = stRetry then transmit a r.pkt else hostAnswered a r p := by
  obtain ⟨⟨hb, hd, ha, hp, _⟩, ho, hr, _⟩ := h
  have hp : present n p = (a, true) := hp
  simp [bridgeResponse, hb, hd, ha, hp, ho, hr]

theorem bridgeResponse_read (h : Answers n p a r) (hr : IsRead r.owed) (hs : p.status.toNat = stOK) :
    bridgeResponse p n = hostData (dropHostReq (settleSent a p) r) r p := by
  rw [bridgeResponse_answers h, if_neg (by rw [hs]; decide), hostAnswered_read (by rw [hs]; decide) hr, if_pos hs]

theorem bridgeResponse_failedRead (h : Answers n p a r) (hr : IsRead r.owed) (hs : p.status.toNat ≠ stOK)
    (ht : p.status.toNat ≠ stRetry) (hm : p.status.toNat ≠ stMoved) :
    bridgeResponse p n = emitAll (dropHostReq (settleSent a p) r)
      [.host "MemData, poisoned" r.hostTag [], .host "Cmp" r.hostTag []] := by
  rw [bridgeResponse_answers h, if_neg ht, hostAnswered_read hm hr, if_neg hs, hostFails_read hr]

theorem bridgeResponse_write (h : Answers n p a r) (hr : r.owed = .write) (ht : p.status.toNat ≠ stRetry)
    (hm : p.status.toNat ≠ stMoved) (hl : ∀ z ∈ (dropHostReq (settleSent a p) r).bridge.reqs, z.hostTag ≠ r.hostTag) :
    bridgeResponse p n = emitAll (dropHostReq (settleSent a p) r) [.host "Cmp" r.hostTag []] := by
  rw [bridgeResponse_answers h, if_neg ht, hostAnswered_write hm hr, hostWritten_last hl]

theorem bridgeResponse_moved (h : Answers n p a r) (hm : p.status.toNat = stMoved) :
    bridgeResponse p n = reroute (settleSent a p) r (newerGen r.pkt.mapgen.toNat p.mapgen.toNat) := by
  rw [bridgeResponse_answers h, if_neg (by rw [hm]; decide), hostAnswered_moved hm]

theorem bridgeResponse_evicted (h : AcksEvict n p a r) (hs : p.status.toNat = stOK)
    (hl : ∀ z ∈ (dropHostReq a r).bridge.reqs, z.hostTag ≠ r.hostTag) :
    bridgeResponse p n = emitAll (dropHostReq (hostDrops a r.pkt.ctx.toNat r.pkt.pva.toNat) r) [.host "Cmp" r.hostTag []] := by
  obtain ⟨_, _, _, he⟩ := id h
  rw [bridgeResponse_acksEvict h, if_neg (by rw [hs]; decide), hostAnswered_evict (by rw [hs]; decide) he,
    if_neg (by rw [hs]; decide), hostWritten_last (by exact hl)]

theorem bridgeResponse_evictDenied (h : AcksEvict n p a r) (hs : p.status.toNat = stDenied) : bridgeResponse p n =
    onBridge a fun b => { b with reqs := b.reqs.map fun x => if x = r then { r with asked := true } else x } := by
  obtain ⟨_, _, _, he⟩ := id h
  rw [bridgeResponse_acksEvict h, if_neg (by rw [hs]; decide), hostAnswered_evict (by rw [hs]; decide) he, if_pos hs]

end

/-! ### The rows together -/

/-- Settles O46: each clause is one branch of its row's meaning. -/
theorem hostRequestsAreServed : Obligations.HostRequestsAreServed := by
  unfold Obligations.HostRequestsAreServed
  intro m w h p a r s n on b tag dpa pva ctx mapped routed asks quiet line tells st drops came plain acked
  have read {d : Bool} {P : Node → Prop} (h : P (hostRead m n)) : Moves (.hostMemrd m d) s P := moves_of_onNode (hostRead m) rfl h
  have write {P : Node → Prop} (h : P (hostWrite m n)) : Moves (.hostMemwr m) s P := moves_of_onNode (hostWrite m) rfl h
  have part {P : Node → Prop} (h : P (hostPartial m n)) : Moves (.hostMemwrptl m) s P := moves_of_onNode (hostPartial m) rfl h
  have other {o : BitVec 4} {P : Node → Prop} (h : P (hostOther m o n)) : Moves (.hostOtherM2s m o) s P :=
    moves_of_onNode (hostOther m o) (exec_hostOther m o s) h
  have answer {P : Node → Prop} (h : P (bridgeResponse p n)) : Moves (.bridgeRequestResponse p) s P :=
    moves_of_onNode (bridgeResponse p) rfl h
  refine ⟨fun d hn hw => read (hostRead_unmapped hn hw), fun hn hw => write (hostWrite_unmapped hn hw),
    fun d ⟨⟨hn, hw⟩, hh⟩ h2 => read ?_, fun d ⟨⟨hn, hw⟩, hh⟩ h3 => read ?_, fun d ⟨⟨hn, hw⟩, hh⟩ h2 h3 => read ?_,
    fun ⟨⟨hn, hw⟩, hh⟩ hq h0 hown => write ?_, fun ⟨⟨hn, hw⟩, hh⟩ hq hno => write ?_,
    fun ⟨hn, hw⟩ ⟨z, hz, hc, hv, ho⟩ => write ?_, fun i k ⟨⟨hn, hw⟩, hh⟩ hr => part ?_,
    fun ⟨hn, hw⟩ hr => part (hostPartial_none hn hw hr), ⟨n, rfl, rfl⟩, fun o hn => other (if_pos hn),
    fun d o hn => ⟨read (by simp [hostRead, hn]), write (by simp [hostWrite, hn]), part (by simp [hostPartial, hn]),
      other (by simp [hostOther, hn])⟩,
    fun hp _ h1 hr hs hg => answer ?_, fun hp _ h1 hr hs => answer ?_, fun hp h1 hr hs => answer ?_,
    fun hp hr hs ht hm => answer (bridgeResponse_failedRead hp hr hs ht hm),
    fun hp hr ht hm hl => answer (bridgeResponse_write hp hr ht hm hl), fun hk hs hl => answer (bridgeResponse_evicted hk hs hl),
    fun hk hs => answer ?_, fun hk hs => answer ((bridgeResponse_acksEvict hk).trans (if_pos hs)),
    fun hp hs => answer ((bridgeResponse_answers hp).trans (if_pos hs)), fun hp hs => answer (bridgeResponse_moved hp hs)⟩
  · rw [hostRead_mapped hn hw (if_pos h2)]
    exact askHost_home (by exact hh) _ _
  · rw [hostRead_mapped hn hw ((if_neg (by rw [h3]; decide)).trans (if_pos h3))]
    exact askHost_home (by exact hh) _ _
  · rw [hostRead_mapped hn hw ((if_neg h2).trans (if_neg h3))]
    exact askHost_home (by exact hh) _ _
  · rw [hostWrite_stores hn hw (snooped_of_quiet hq), if_pos ⟨h0, hown⟩]
    exact askHost_home (by exact hh) _ _
  · rw [hostWrite_stores hn hw (snooped_of_quiet hq), if_neg (by simpa [or_iff_not_imp_left] using hno)]
    exact askHost_home (by exact hh) _ _
  · have hsn : snooped n ctx pva = true := by
      simp only [snooped, hz, List.any_cons, List.any_nil, hc, hv, beq_self_eq_true, bne_iff_ne.2 ho, Bool.and_self, Bool.or_false]
    rw [hostWrite_snooped hn hw hsn]
    have hd : (n.bridge.snoops.map (withDirty ctx pva line)).map (·.dirty) = [some line] := by simp [hz, withDirty, hc, hv]
    exact ⟨hd, rfl, rfl⟩
  · rw [hostPartial_one hn hw hr]
    exact askHost_home (by exact hh) _ _
  · rw [bridgeResponse_read hp (.inl hr) hs, hostData_granted h1 (.inr hg) (by simp [hr]), if_pos ⟨hr, hg⟩, hg]
    rfl
  · have hk : IsRead r.owed := hr.elim (fun h => .inl h.2) fun h => .inr (.inl h.2)
    rw [bridgeResponse_read hp hk hs, hostData_granted h1 (by omega) (by rcases hr with h | h <;> simp [h.2]), if_neg ?_]
    · rfl
    · rintro ⟨ha, h2⟩
      rcases hr with ⟨h1, _⟩ | ⟨_, hsh⟩
      · omega
      · simp [ha] at hsh
  · rw [bridgeResponse_read hp (.inr (.inr hr)) hs, hostData_plain h1]
    rfl
  · rw [bridgeResponse_evictDenied hk hs]
    obtain ⟨_, _, hr, _⟩ := hk
    exact ⟨List.mem_map.2 ⟨r, hostReqFor_mem hr, if_pos rfl⟩, rfl, rfl⟩

end Sys2Proof.Coherence
end

section
/-! Program slots, the start of a run, and firings (O26). -/

namespace Sys2Proof.ElementPrograms

open Sys2Proof.Machine Sys2Proof.Safety Sys2Proof.Organisation Sys2Proof.ContextRanges

/-! ### Slots as read and replaced (R258) -/

@[simp] theorem endCmd_prog (n : Node) (tid st : Nat) (r0 w3 : Word) : (endCmd n tid st r0 w3).prog = n.prog := by
  unfold endCmd; split <;> rfl

theorem progSlot_of_prog {m n : Node} (h : m.prog = n.prog) (k : Nat) : progSlot m k = progSlot n k := by simp only [progSlot, h]

@[simp] theorem progSlot_endCmd (n : Node) (tid st : Nat) (r0 w3 : Word) (k : Nat) : progSlot (endCmd n tid st r0 w3) k = progSlot n k :=
  progSlot_of_prog (endCmd_prog _ _ _ _ _) k

@[simp] theorem progSlot_setProgSlot_same (n : Node) (k : Nat) (x : ProgSlot) : progSlot (setProgSlot n k x) k = x :=
  Tbl.getD_put_same _ _ _ _

theorem progSlot_setProgSlot_other (n : Node) {k j : Nat} (x : ProgSlot) (h : j ≠ k) :
    progSlot (setProgSlot n k x) j = progSlot n j := Tbl.getD_put_other _ _ _ _ _ h

/-- A command that replaces one slot and ends. -/
theorem setProgSlot_ends {n : Node} {tid : Nat} {c : Cmd} (hc : cmdOf n tid = some c) (k : Nat) (x : ProgSlot) (r0 : Word) :
    let m := endCmd (setProgSlot n k x) tid stOK r0 0
    progSlot m k = x ∧ HasEnded m tid stOK r0 0 ∧ (∀ j, j ≠ k → progSlot m j = progSlot n j) ∧ m.mem = n.mem :=
  ⟨by simp, hasEnded_of_trk hc (by rfl) _ _ _, fun j hj => by simp [progSlot_setProgSlot_other n x hj], endCmd_mem _ _ _ _ _⟩

/-! ### PROGRAM_LOAD (R259, R260) -/

/-- PROG_SLOT. -/
abbrev slotIndex (c : Cmd) : Nat := fieldOf (dword c 3) 9 0
/-- NUM_OPS. -/
abbrev opsCount (c : Cmd) : Nat := fieldOf (dword c 3) 21 16
/-- CODE_PVA of a PROGRAM_LOAD, PARAM_PVA of a PROGRAM_RUN. -/
abbrev imagePva (c : Cmd) : Nat := (dword c 4).toNat

/-- The micro-ops that a PROGRAM_LOAD finds in its code image. -/
abbrev codeRead (a : Node) (c : Cmd) : List Nat :=
  (List.range (opsCount c)).map fun i => numAt (spanBytes a (cmdCtx c) (imagePva c) (4 * opsCount c)) (4 * i) 4

/-- A PROGRAM_LOAD that nothing but its micro-ops can refuse; `a` is the node once its code image is at hand. -/
structure CodeAtHand (n : Node) (tid : Nat) (c : Cmd) (a : Node) : Prop where
  starts : CanStart n tid 0x38 c
  commanded : WellCommanded n c
  loads : bitOf (dword c 3) 24 = false
  fields : loadReserved c = false
  some_ops : 1 ≤ opsCount c
  few_ops : opsCount c ≤ 32
  aligned : imagePva c % 64 = 0
  homed : spanHomed n (cmdCtx c) (imagePva c) (4 * opsCount c) = true
  owned : slotForeign n c = false
  granted : spanGranted n (cmdCtx c) (imagePva c) (4 * opsCount c) (·.r) = true
  ready : engineReadPrep n (cmdCtx c) (imagePva c) (4 * opsCount c) = (a, .ready)
  clean : spanPoisoned a (cmdCtx c) (imagePva c) (4 * opsCount c) = false

theorem programLoad_reads {n a : Node} {tid : Nat} {c : Cmd} (h : CodeAtHand n tid c a) :
    programLoad tid n =
      if codeOk (codeRead a c) then
        endCmd (setProgSlot a (slotIndex c)
          { owner := cmdCtx c, pgen := stepGen (progSlot a (slotIndex c)).pgen, code := codeRead a c }) tid stOK
          (wordOf (stepGen (progSlot a (slotIndex c)).pgen)) 0
      else refuseCmd a tid stInvalid := by
  have hops : ¬(opsCount c = 0 ∨ 32 < opsCount c) := by have := h.some_ops; have := h.few_ops; omega
  rw [programLoad, startCmd_of_canStart h.starts, if_neg (by simp [h.loads])]
  dsimp only
  rw [checked_passes h.commanded tid (by simp [h.fields, hops, h.aligned, h.homed]) (by simp [firstStatus, h.owned, h.granted]),
    h.ready]
  simp only [h.clean, reduceCtorEq, if_false, Bool.false_eq_true]
  cases codeOk (codeRead a c) <;> rfl

theorem programUnload_frees {n : Node} {tid : Nat} {c : Cmd} (hs : CanStart n tid 0x38 c) (hw : WellCommanded n c)
    (hu : bitOf (dword c 3) 24 = true) (hr : loadReserved c = false) (ho : opsCount c = 0) (hp : dword c 4 = 0)
    (hf : slotForeign n c = false) :
    programUnload tid n =
      endCmd (setProgSlot n (slotIndex c) { owner := 0, pgen := (progSlot n (slotIndex c)).pgen, code := [] }) tid stOK
        (wordOf (progSlot n (slotIndex c)).pgen) 0 := by
  rw [programUnload, startCmd_of_canStart hs, if_neg (by simp [hu])]
  exact checked_passes hw tid (by simp [hr, ho, hp]) (by simp [firstStatus, hf]) _

/-! ### The start of a run (R261, R262, R287) -/

/-- COUNT. -/
abbrev recordCount (c : Cmd) : Nat := fieldOf (dword c 5) 39 0

/-- What a PROGRAM_RUN finds in its parameter block. -/
abbrev paramsRead (a : Node) (c : Cmd) : RunParams := paramsOf (bytesToWords 24 (spanBytes a (cmdCtx c) (imagePva c) 192))

/-- A PROGRAM_RUN that passes steps 1 to 3 of R262: its fields, its slot's PGEN and its slot's owner. -/
structure SlotMatches (n : Node) (c : Cmd) : Prop where
  commanded : WellCommanded n c
  fields : runReserved c = false
  owner_eq : (progSlot n (slotIndex c)).owner = cmdCtx c
  pgen_eq : (progSlot n (slotIndex c)).pgen = fieldOf (dword c 3) 63 32

/-- The run that an admitted PROGRAM_RUN of a ring starts with. -/
def admittedRun (n a : Node) (tid : Nat) (c : Cmd) : ProgRun :=
  { tid := tid, ctx := cmdCtx c, code := (progSlot n (slotIndex c)).code, streams := (paramsRead a c).streams,
    consts := (paramsRead a c).consts, seed := (paramsRead a c).seed, redPva := (paramsRead a c).redPva,
    redEn := (paramsRead a c).redEn, count := recordCount c, epoch := fieldOf (dword c 5) 63 48, done := [], tiles := [], accs := [],
    ovf := 0, nans := 0, bytes := 0, poisoned := false, aborted := false, redDone := false, fwds := [], arming := none }

/-- A PROGRAM_RUN whose parameter block is at hand and passes steps 5 to 7 of R262; `a` is the node then. -/
structure ParamsAtHand (n : Node) (c : Cmd) (a : Node) : Prop where
  homed : spanHomed n (cmdCtx c) (imagePva c) 192 = true
  room : n.prog.runs.length < 256
  ready : engineReadPrep n (cmdCtx c) (imagePva c) 192 = (a, .ready)
  granted : spanGranted n (cmdCtx c) (imagePva c) 192 (·.r) = true
  fields : (paramsRead a c).reserved = false
  clean : spanPoisoned a (cmdCtx c) (imagePva c) 192 = false
  streams_ok : firstStatus (runChecks n (cmdCtx c) (recordCount c) (paramsRead a c)
    ((progSlot n (slotIndex c)).code.map microOp)) = none

theorem SlotMatches.ctx_ne_zero {n : Node} {c : Cmd} (h : SlotMatches n c) : cmdCtx c ≠ 0 := by
  have := h.fields
  simp only [runReserved, Bool.or_eq_false_iff, beq_eq_false_iff_ne] at this
  tauto

/-- What comes of a PROGRAM_RUN after steps 1 to 3 of R262. -/
theorem SlotMatches.checked_eq {n : Node} {c : Cmd} (h : SlotMatches n c) (tid : Nat) (f : Unit → Node) :
    checked n tid c (runReserved c)
      [((progSlot n (slotIndex c)).owner == 0 || (progSlot n (slotIndex c)).pgen != fieldOf (dword c 3) 63 32, stInvalid),
        ((progSlot n (slotIndex c)).owner != cmdCtx c, stDenied)] f = f () :=
  checked_passes h.commanded tid h.fields (by simp [firstStatus, h.owner_eq, h.pgen_eq, h.ctx_ne_zero]) f

theorem beginRun_empty {n : Node} {c : Cmd} (h : SlotMatches n c) (h0 : recordCount c = 0) (tid : Nat) (fired : Option Firing) :
    beginRun n tid c fired = endCmd n tid stOK 0 0 := by
  simp only [beginRun]
  rw [h.checked_eq, if_pos h0]

theorem firstStatus_append {l r : List (Bool × Nat)} (h : firstStatus l = none) : firstStatus (l ++ r) = firstStatus r := by
  induction l with
  | nil => rfl
  | cons x l ih =>
    obtain ⟨b, st⟩ := x
    cases b
    · exact ih h
    · simp [firstStatus] at h

theorem runEpoch_none (c : Cmd) : runEpoch c none = fieldOf (dword c 5) 63 48 := by simp [runEpoch]

theorem paramsOf_seed_lt (ws : List Word) : (paramsOf ws).seed < 2 ^ 64 := BitVec.isLt _

theorem beginRun_admits {n a : Node} {c : Cmd} (h : SlotMatches n c) (hp : ParamsAtHand n c a) (h0 : 0 < recordCount c) (tid : Nat) :
    beginRun n tid c none = runStage (bump (setRun a tid (admittedRun n a tid c)) (progCounter 0) 1) tid 0 [] := by
  simp only [beginRun]
  rw [h.checked_eq, if_neg (by exact h0.ne'), if_neg (by simp [hp.homed]), if_neg (by simpa using hp.room), hp.ready,
    firstStatus_append (by simp [firstStatus, hp.fields, hp.granted, hp.clean]), hp.streams_ok]
  simp only [Option.map_none, Option.getD_none, ite_self, Nat.add_zero, Nat.mod_eq_of_lt (paramsOf_seed_lt _), runEpoch_none]
  rfl

@[simp] theorem find?_runs_setRun_same (n : Node) (tid : Nat) (r : ProgRun) : Tbl.find? (setRun n tid r).prog.runs tid = some r :=
  Tbl.find?_put_same _ _ _

theorem find?_runs_setRun_other (n : Node) {tid t : Nat} (r : ProgRun) (h : t ≠ tid) :
    Tbl.find? (setRun n tid r).prog.runs t = Tbl.find? n.prog.runs t := Tbl.find?_put_other _ _ _ _ h

/-! ### Firings (R166, R280) -/

/-- The descriptor that a firing finds at RUN_PVA. -/
abbrev firedDesc (a : Node) (f : Firing) : List Word := bytesToWords 8 (spanBytes a f.ctx f.runPva 64)

/-- The command that a firing becomes. -/
def firedCmd (a : Node) (f : Firing) : Cmd :=
  { ring := f.ctx, fired := true, slot := (Config.freeWord a.free).toNat % 65536, desc := firedDesc a f, writer := 0,
    region := f.ctx % 8, order := a.trk.nextTid, phase := .consumed, status := 0, result0 := 0, word3 := 0, landed := 0,
    setErr := false, stage := 0, work := [f.arming], waits := [], mirrored := false }

/-- The node once a firing has its tracker. -/
def firedNode (a : Node) (f : Firing) : Node :=
  setCmd { stepFree a with trk := { a.trk with nextTid := a.trk.nextTid + 1 } } a.trk.nextTid (firedCmd a f)

@[simp] theorem cmdOf_firedNode (a : Node) (f : Firing) : cmdOf (firedNode a f) a.trk.nextTid = some (firedCmd a f) :=
  cmdOf_setCmd_same _ _ _

/-- What a firing's command comes to at its start. -/
def firedStart (a : Node) (f : Firing) : Node :=
  if cmdOp (firedCmd a f) = 0x39 then beginRun (firedNode a f) a.trk.nextTid (firedCmd a f) (some f)
  else refuseCmd (firedNode a f) a.trk.nextTid stInvalid

/-- The log entry of a firing that ran nothing or whose command failed. -/
def logFiring (n : Node) (f : Firing) : Node :=
  logEvent n { otherEvent 3 4 with uclass := 1, ctx := f.ctx, data0 := f.counter, data1 := f.runPva }

/-- What is kept of a firing's start `m`: nothing of the command while it still waits; else the command, and the firing is gone. -/
def keepFiring (n m : Node) (tid : Nat) (f : Firing) : Node :=
  match cmdOf m tid with
  | none => n
  | some d =>
    if d.phase = .consumed then { m with trk := { m.trk with cmds := Tbl.del m.trk.cmds tid, nextTid := tid } }
    else
      let k := dropFiring (setCmd m tid { d with work := [f.arming] }) f
      if d.phase = .ended && d.status != stOK then logFiring k f else k

/-- A firing that may start now, and whose descriptor is at hand; `a` is the node then. -/
structure FiringDue (n : Node) (f : Firing) (a : Node) : Prop where
  idle : armingBusy n f.arming = false
  room : n.prog.runs.length < 256
  readable : runReadable n f = true
  ready : engineReadPrep n f.ctx f.runPva 64 = (a, .ready)
  clean : spanPoisoned a f.ctx f.runPva 64 = false

theorem fireOne_due {n a : Node} {f : Firing} (h : FiringDue n f a) :
    fireOne n f = keepFiring n (firedStart a f) a.trk.nextTid f := by
  have ha : (engineReadPrep n f.ctx f.runPva 64).1 = a := by rw [h.ready]
  have hr : (engineReadPrep n f.ctx f.runPva 64).2 = .ready := by rw [h.ready]
  rw [fireOne, if_neg (by simpa [h.idle] using h.room), if_neg (by simp [h.readable]), if_neg (by simp [hr]),
    if_neg (by simp [hr, ha, h.clean]), ← ha]
  rfl

/-- The node once a firing's command has ended at its start. -/
def firingEnded (a : Node) (f : Firing) (st : Nat) (r0 w3 : Word) : Node :=
  dropFiring (endCmd (firedNode a f) a.trk.nextTid st r0 w3) f

/-- A firing whose command ends at its start leaves the list; one that does not end OK is logged. -/
theorem fireOne_ends {n a : Node} {f : Firing} (h : FiringDue n f a) {st : Nat} {r0 w3 : Word}
    (he : firedStart a f = endCmd (firedNode a f) a.trk.nextTid st r0 w3) :
    fireOne n f = if st = stOK then firingEnded a f st r0 w3 else logFiring (firingEnded a f st r0 w3) f := by
  rw [fireOne_due h, he, firingEnded, endCmd_eq (cmdOf_firedNode a f)]
  simp only [keepFiring, cmdOf_setCmd_same, setCmd_setCmd]
  by_cases hs : st = stOK <;> simp [hs] <;> rfl

theorem firingEnded_reads (a : Node) (f : Firing) (st : Nat) (r0 w3 : Word) :
    cmdOf (firingEnded a f st r0 w3) a.trk.nextTid =
        some { firedCmd a f with phase := .ended, status := st, result0 := r0, word3 := w3 } ∧
      (firingEnded a f st r0 w3).prog = { a.prog with firings := a.prog.firings.erase f } := by
  rw [firingEnded, endCmd_eq (cmdOf_firedNode a f)]
  exact ⟨cmdOf_setCmd_same _ _ _, rfl⟩

theorem firedStart_refused {a : Node} {f : Firing} (ho : cmdOp (firedCmd a f) ≠ 0x39) :
    firedStart a f = endCmd (firedNode a f) a.trk.nextTid stInvalid 0 0 := if_neg ho

/-- The checks of a fired command look at its descriptor and its ring alone. -/
theorem SlotMatches.fired {a : Node} {f : Firing} {c : Cmd} (h : SlotMatches a c) (hd : c.desc = firedDesc a f) (hf : c.fired = true)
    (hr : c.ring = f.ctx) : SlotMatches (firedNode a f) (firedCmd a f) := by
  cases c
  dsimp only at hd hf hr
  subst hd hf hr
  exact ⟨h.commanded, h.fields, h.owner_eq, h.pgen_eq⟩

theorem firedStart_empty {a : Node} {f : Firing} (h : SlotMatches (firedNode a f) (firedCmd a f))
    (ho : cmdOp (firedCmd a f) = 0x39) (h0 : recordCount (firedCmd a f) = 0) :
    firedStart a f = endCmd (firedNode a f) a.trk.nextTid stOK 0 0 := (if_pos ho).trans (beginRun_empty h h0 _ _)

theorem firingResume_found {n : Node} {f : Firing} (hf : n.prog.firings.find? (fun g => g.arming == f.arming) = some f)
    (ha : accepting n = true) : firingResume f.arming n = fireOne n f := by
  simp only [firingResume, hf, ha, if_true]

/-! ### The rows together -/

/-- Settles O26: each clause is one effect of its row, which the lemmas above name. -/
theorem programsLoadAndRun : Obligations.ProgramsLoadAndRun := by
  unfold Obligations.ProgramsLoadAndRun
  intro tid c a s k ops pva ctx code load run count q
  have codeAt : load → CodeAtHand s.nd tid c a := fun ⟨hs, hw, hu, hr, h1, h32, hp, hh, hf, hg, he, hc⟩ =>
    ⟨hs, hw, hu, hr, h1, h32, hp, hh, hf, hg, he, hc⟩
  have slotAt : run → SlotMatches s.nd c := fun ⟨_, hw, hr, ho, hg⟩ => ⟨hw, hr, ho, hg⟩
  refine ⟨fun hl hk hc => moves_of_result ((programLoad_reads (codeAt hl)).trans (if_pos hk)) rfl ?_,
    fun hl hk hc => moves_of_result ((programLoad_reads (codeAt hl)).trans (if_neg (by exact hk ▸ Bool.false_ne_true))) rfl ?_,
    fun hs hw hu hr ho hp hf => moves_of_result (programUnload_frees hs hw hu hr ho hp hf) rfl ?_,
    fun hr h0 => moves_of_result ((startCmd_of_canStart hr.1 _).trans (beginRun_empty (slotAt hr) h0 _ _)) rfl ?_,
    fun hr h0 hh hn he hg hf hp hk hc => moves_of_result ((startCmd_of_canStart hr.1 _).trans
      (beginRun_admits (slotAt hr) ⟨hh, hn, he, hg, hf, hp, hk⟩ h0 _)) rfl ?_,
    fun f hf ha hb hn hr he hp ho hq => moves_of_result ((firingResume_found hf ha).trans
      (fireOne_ends ⟨hb, hn, hr, he, hp⟩ (firedStart_refused ho))) rfl ?_,
    fun f hf ha hb hn hr he hp hq ho h0 hd hfi hri hw hrr hown hg hctx => moves_of_result
      ((firingResume_found (by simp [hf]) ha).trans (fireOne_ends ⟨hb, hn, hr, he, hp⟩
        (firedStart_empty (SlotMatches.fired ⟨hw, hrr, hown, hg⟩ hd hfi hri) ho h0))) rfl ?_⟩
  · exact setProgSlot_ends hc _ _ _
  · exact ⟨endCmd_prog _ _ _ _ _, hasEnded_endCmd hc _ _ _⟩
  · exact setProgSlot_ends hs.1 _ _ _
  · exact ⟨hasEnded_endCmd hr.1.1 _ _ _, endCmd_prog _ _ _ _ _, endCmd_mem _ _ _ _ _⟩
  · rw [runStage_eq (c := c) (by exact hc)]
    exact ⟨_, find?_runs_setRun_same _ _ _, rfl, rfl, rfl, rfl, rfl, rfl, rfl, rfl, rfl, rfl,
      by rw [cmdOf_setCmd_same]; rfl, rfl⟩
  · rw [if_neg (by decide)]
    obtain ⟨hcmd, hprog⟩ := firingEnded_reads a f stInvalid 0 0
    refine ⟨⟨_, (cmdOf_of_trk (logEvent_trk _ _) _).trans hcmd, rfl, rfl, rfl, rfl⟩, ?_, ?_⟩
    · rw [logFiring, logEvent_prog, hprog, hq]
    · rw [logFiring, logEvent_prog, hprog]
  · rw [if_pos rfl]
    obtain ⟨hcmd, hprog⟩ := firingEnded_reads a f stOK 0 0
    exact ⟨⟨_, hcmd, rfl, rfl, rfl, rfl⟩, by rw [hprog, hq]; simp⟩

end Sys2Proof.ElementPrograms
end

section
/-! The blocks of a run, and its end (O27). -/

namespace Sys2Proof.ElementPrograms

open Sys2Proof.Machine Sys2Proof.Safety Sys2Proof.Organisation Sys2Proof.ContextRanges

/-! ### Blocks (R263, R276, R284) -/

/-- Of its run, a tile that joins changes the tiles alone. -/
theorem joinTile_run (n : Node) (tid : Nat) (run : ProgRun) (tile : Nat) :
    ∃ ts, (joinTile n tid run tile).2 = { run with tiles := ts } := by
  unfold joinTile
  split <;> exact ⟨_, rfl⟩

theorem programBlock_idle {n : Node} {tid blk : Nat} {run : ProgRun} (hr : Tbl.find? n.prog.runs tid = some run)
    (hd : blockDue n run blk = false) : programBlock tid blk n = n := by
  simp only [programBlock, hr, hd, Bool.not_false, if_true]

/-- A block that is due, its lines at hand, commits, or ends where one of them is poisoned; `j` is the node and the run once its tile
has joined. -/
theorem programBlock_due {n g : Node} {tid blk : Nat} {run : ProgRun} {j : Node × ProgRun}
    (hr : Tbl.find? n.prog.runs tid = some run) (hd : blockDue n run blk = true)
    (hj : joinTile n tid run (blockTile n run blk) = j) (hp : prepBlock j.1 j.2 blk = (g, .ready)) :
    programBlock tid blk n = if blockPoisoned g j.2 blk then failBlock g tid j.2 blk false else commitBlock g tid j.2 blk := by
  simp only [programBlock, hr, hd, hj, hp, reduceCtorEq, if_false, Bool.not_true, Bool.false_eq_true]

/-- What a block that commits leaves of its run. -/
theorem commitBlock_run (n : Node) (tid : Nat) (run : ProgRun) (blk : Nat) :
    ∃ r, Tbl.find? (commitBlock n tid run blk).prog.runs tid = some r ∧ r.done = run.done ++ [blk] ∧ r.code = run.code ∧
      r.count = run.count ∧ r.aborted = run.aborted ∧ r.poisoned = run.poisoned ∧
      r.bytes = run.bytes + (blockOuts n run blk).1.1.length + (blockOuts n run blk).2.1.length :=
  ⟨_, find?_runs_setRun_same _ _ _, rfl, rfl, rfl, rfl, rfl, rfl⟩

/-- What a block that meets poison leaves: its run is marked, and nothing is stored. -/
theorem failBlock_run (n : Node) (tid : Nat) (run : ProgRun) (blk : Nat) :
    (∃ r, Tbl.find? (failBlock n tid run blk false).prog.runs tid = some r ∧ r.done = run.done ++ [blk] ∧ r.poisoned = true) ∧
      (∀ t, t ≠ tid → Tbl.find? (failBlock n tid run blk false).prog.runs t = Tbl.find? n.prog.runs t) ∧
      (failBlock n tid run blk false).mem = n.mem :=
  ⟨⟨_, find?_runs_setRun_same _ _ _, rfl, by simp⟩, fun _ ht => find?_runs_setRun_other n _ ht, rfl⟩

theorem not_aborted_of_blockDue {n : Node} {run : ProgRun} {blk : Nat} (h : blockDue n run blk = true) : run.aborted = false := by
  simp only [blockDue, Bool.and_eq_true, Bool.not_eq_true'] at h
  tauto

/-! ### The end of a run (R263, R273, R283, R284) -/

/-- The status that a run ends with. -/
def runStatus (run : ProgRun) : Nat :=
  if run.aborted then (if run.bytes = 0 then stInternal else stPartial) else if run.poisoned then stPoisoned else stOK

theorem runStatus_eq_ok_iff (run : ProgRun) : runStatus run = stOK ↔ (run.aborted || run.poisoned) = false := by
  unfold runStatus
  cases run.aborted <;> cases run.poisoned <;> by_cases h : run.bytes = 0 <;> simp [h, stInternal, stPartial, stPoisoned, stOK]

/-- RESULT0 of a run. -/
def runResult (run : ProgRun) (accs : List Nat) : Word :=
  if run.aborted || run.poisoned then wordOf run.bytes else wordOf (accs.getD 0 0 + accs.getD 1 0 * 2 ^ 32)

/-- The node once a run has left its slot; a run that does not end OK is counted. -/
def leaveRun (n : Node) (tid : Nat) (run : ProgRun) : Node :=
  let m := { n with prog := { n.prog with runs := Tbl.del n.prog.runs tid }, free := n.free + 5 }
  if runStatus run = stOK then m else bump m (progCounter 5) 1

theorem leaveRun_keeps (n : Node) (tid : Nat) (run : ProgRun) :
    (leaveRun n tid run).prog = { n.prog with runs := Tbl.del n.prog.runs tid } ∧ (leaveRun n tid run).mem = n.mem ∧
      (leaveRun n tid run).trk = n.trk := by
  unfold leaveRun
  dsimp only
  split <;> exact ⟨rfl, rfl, rfl⟩

/-- A run that closes leaves its slot, and its command, which is still there, ends. -/
theorem closeRun_eq {n : Node} {tid : Nat} {c : Cmd} (hc : cmdOf n tid = some c) (run : ProgRun) (accs : List Nat) :
    closeRun n tid run accs =
      endCmd (setCmd (leaveRun n tid run) tid { c with setErr := c.setErr || run.aborted, stage := run.epoch + 1 }) tid
        (runStatus run) (runResult run accs) (wordOf (countsWord run.ovf run.nans)) := by
  obtain ⟨_, _, htrk⟩ := leaveRun_keeps n tid run
  have hr : runResult run accs =
      if runStatus run = stOK then wordOf (accs.getD 0 0 + accs.getD 1 0 * 2 ^ 32) else wordOf run.bytes := by
    simp only [runResult, runStatus_eq_ok_iff]
    cases run.aborted || run.poisoned <;> simp
  rw [closeRun, hr]
  change endCmd (match cmdOf (leaveRun n tid run) tid with | some c => _ | none => _) _ _ _ _ = _
  rw [(cmdOf_of_trk htrk tid).trans hc]
  rfl

/-- A run without a record to write closes once its blocks and its forwards are done with. -/
theorem runComplete_closes {n : Node} {tid : Nat} {run : ProgRun} (hr : Tbl.find? n.prog.runs tid = some run)
    (ha : accepting n = true) (hf : run.fwds = []) (he : run.redEn = false) (hw : run.redDone = false)
    (hm : (n.coh.mdirty.any fun x => x.2.cmds.contains tid) = false) (hd : run.aborted = true ∨ run.done.length = runBlocks run) :
    runComplete tid n = closeRun n tid run (runAccs n run) := by
  have hend : (run.aborted || decide (run.done.length = runBlocks run)) = true := by simpa using hd
  simp only [runComplete, hr]
  rw [hend, hf, hm, ha]
  simp [he, hw]

/-! ### The rows together -/

/-- Settles O27: each clause is one branch of `programBlock` or `runComplete`, which the lemmas above name. -/
theorem blocksRun : Obligations.BlocksRun := by
  unfold Obligations.BlocksRun
  intro tid blk run s hrun j others
  obtain ⟨ts, hj⟩ : ∃ ts, j.2 = { run with tiles := ts } := joinTile_run _ _ _ _
  refine ⟨fun g hd hp hc => ?_, fun g hd hp hc => ?_, fun hd => ?_, fun c hc ha hf he hw hm hend => ?_⟩
  · refine moves_of_result ((programBlock_due hrun hd rfl hp).trans (if_neg (by exact hc ▸ Bool.false_ne_true))) rfl ⟨?_, rfl⟩
    obtain ⟨r, hfind, hdone, hcode, hcount, habort, hpois, hbytes⟩ := commitBlock_run g tid j.2 blk
    rw [hj] at hdone hcode hcount habort hpois
    exact ⟨r, hfind, hdone, hcode, hcount, habort.trans (not_aborted_of_blockDue hd), hpois, by rw [hbytes, hj]⟩
  · refine moves_of_result ((programBlock_due hrun hd rfl hp).trans (if_pos hc)) rfl ?_
    obtain ⟨⟨r, hfind, hdone, hpois⟩, hothers, hmem⟩ := failBlock_run g tid j.2 blk
    rw [hj] at hdone
    exact ⟨⟨r, hfind, hdone, hpois⟩, hothers, hmem⟩
  · exact moves_of_result (programBlock_idle hrun hd) rfl rfl
  · refine moves_of_result ((runComplete_closes hrun ha hf he hw hm hend).trans (closeRun_eq hc _ _)) rfl ?_
    obtain ⟨hprog, hmem, _⟩ := leaveRun_keeps s.nd tid run
    refine ⟨?_, fun t ht => ?_, ?_, hasEnded_endCmd (cmdOf_setCmd_same _ _ _) _ _ _⟩
    · rw [endCmd_prog]
      exact (congrArg (Tbl.find? ·.runs tid) hprog).trans (Tbl.find?_del_same _ _)
    · rw [endCmd_prog]
      exact (congrArg (Tbl.find? ·.runs t) hprog).trans (Tbl.find?_del_other _ _ _ ht)
    · rw [endCmd_mem]
      exact hmem

end Sys2Proof.ElementPrograms
end

section
/-! The ordered entry into Standby, and the restart of Halord's firmware by its watchdog (O9). -/

namespace Sys2Proof.MemoryTiers

open Sys2Proof.Machine Sys2Proof.Safety Sys2Proof.Organisation Sys2Proof.OhmasLink

/-! ### The entry's steps (R301, R604) -/

/-- The module at a step of its ordered entry into Standby. -/
def atEntry (n : Node) (k : Nat) : Node := { n with power := { n.power with entry := k } }

/-- A Flush to every drive that is up. -/
def flushDrives (n : Node) : Node := (drivesUp n).foldl (fun n d => issueNvme n d 0 0 0 false [] [] .flush) n

theorem standbyFlush_waits {s : State} (he : s.nd.power.entry = 1) (hw : s.nd.trk.reqs ≠ [] ∨ s.nd.trk.cmds ≠ []) :
    standbyFlush s = s := by
  have hb : (!s.nd.trk.reqs.isEmpty || !s.nd.trk.cmds.isEmpty) = true := by simpa using hw
  simp only [standbyFlush, he, hb, if_true]

theorem standbyFlush_clean {s : State} (he : s.nd.power.entry = 1) (hr : s.nd.trk.reqs = []) (hc : s.nd.trk.cmds = [])
    (hd : dirtyTiered s.nd = []) (hf : ∀ f ∈ s.nd.mem.frames, f.2.dirty = 0) :
    standbyFlush s = { s with nd := atEntry s.nd 2 } := by
  have hn : s.nd.mem.frames.filter (fun f => f.2.dirty != 0) = [] :=
    List.filter_eq_nil_iff.2 fun f h => by simp [hf f h]
  simp [standbyFlush, he, hr, hc, hd, hn, atEntry]

theorem standbyFlush_flushes {s : State} (he : s.nd.power.entry = 2) (hw : nvmeOut s.nd isFrameWrite = false) :
    standbyFlush s = { s with nd := atEntry (flushDrives s.nd) 3 } := by
  simp [standbyFlush, he, hw, atEntry, flushDrives]

/-- The module has reported itself and waits for its beats to be missed, unless there are too few keepers to miss them. -/
theorem standbyFlush_reports {s : State} (he : s.nd.power.entry = 3) (hw : nvmeOut s.nd (· == .flush) = false) :
    standbyFlush s = if (keepersNow s.nd).length < 2
      then enterStandby { s with nd := atEntry (reportNode s.nd s.nd.nodeId) 4 } 0x0501 false
      else { s with nd := atEntry (reportNode s.nd s.nd.nodeId) 4 } := by
  have hk : keepersShort (atEntry (reportNode s.nd s.nd.nodeId) 4) = decide ((keepersNow s.nd).length < 2) := by
    simp [keepersShort, keepersNow, atEntry]
  have hs : standbyFlush s = if keepersShort (atEntry (reportNode s.nd s.nd.nodeId) 4) = true
      then enterStandby { s with nd := atEntry (reportNode s.nd s.nd.nodeId) 4 } 0x0501 false
      else { s with nd := atEntry (reportNode s.nd s.nd.nodeId) 4 } := by
    simp only [standbyFlush, he, hw]
    rfl
  simp only [hs, hk, decide_eq_true_eq]

/-! ### Flushes (R301) -/

/-- A Flush of a drive is outstanding. -/
def FlushOut (n : Node) (d : Nat) : Prop := ∃ c ∈ n.mem.nvme, c.2.port = d ∧ c.2.opcode = 0 ∧ c.2.purpose = .flush

/-- A Flush of a drive is outstanding under a number that no later command takes. -/
def FlushStands (n : Node) (d : Nat) : Prop :=
  ∃ cid c, cid < n.mem.nextCid ∧ Tbl.find? n.mem.nvme cid = some c ∧ c.port = d ∧ c.opcode = 0 ∧ c.purpose = .flush

theorem FlushStands.out {n : Node} {d : Nat} (h : FlushStands n d) : FlushOut n d := by
  obtain ⟨cid, c, _, hf, hc⟩ := h
  exact ⟨(cid, c), Tbl.find?_mem _ _ _ hf, hc⟩

theorem flushStands_issueNvme_flush (n : Node) (d : Nat) : FlushStands (issueNvme n d 0 0 0 false [] [] .flush) d :=
  ⟨n.mem.nextCid, _, Nat.lt_succ_self _, Tbl.find?_put_same _ _ _, rfl, rfl, rfl⟩

theorem FlushStands.issueNvme {n : Node} {d : Nat} (h : FlushStands n d) (e opcode lba blocks : Nat) (fua : Bool) (data : Bytes)
    (states : List Nat) (why : NvmeFor) : FlushStands (issueNvme n e opcode lba blocks fua data states why) d := by
  obtain ⟨cid, c, hlt, hf, hc⟩ := h
  exact ⟨cid, c, Nat.lt_succ_of_lt hlt, (Tbl.find?_put_other _ _ _ _ (Nat.ne_of_lt hlt)).trans hf, hc⟩

/-- Every drive that is up gets its Flush. -/
theorem flushDrives_flushes {n : Node} {d : DenseId} (hd : fieldOf (dportAt n d.val).status 1 0 = 2) : FlushOut (flushDrives n) d.val := by
  have hmem : d.val ∈ drivesUp n := List.mem_filter.2 ⟨List.mem_range.2 d.isLt, decide_eq_true hd⟩
  have hs : FlushStands (flushDrives n) d.val :=
    foldl_reaches (b := d.val) (P := fun _ => True) (Q := (FlushStands · d.val)) (fun _ _ _ => trivial)
      (fun _ e h => h.issueNvme e _ _ _ _ _ _ _) (fun m _ => flushStands_issueNvme_flush m d.val) hmem trivial
  exact hs.out

/-- Flushes change nothing that no issued command changes. -/
theorem flushDrives_keeps {α : Type} (g : Node → α)
    (h : ∀ (n : Node) (d : Nat), g (issueNvme n d 0 0 0 false [] [] .flush) = g n) (n : Node) : g (flushDrives n) = g n :=
  foldl_keeps _ g h _ _

/-! ### The watchdog (R503, R544) -/

/-- The mailbox's transfer, where there is one, is ended. -/
def transferEnded (s : State) : State := if mbxBusy s then mbxEnd s stAborted else s

/-- Ending the transfer clears BUSY, and of the rest of Halord touches the mailbox and the chain alone. -/
theorem transferEnded_keeps (s : State) :
    bitOf (transferEnded s).hl.mbx.stat 0 = false ∧ (transferEnded s).nd = s.nd ∧ (transferEnded s).pending = s.pending ∧
      (transferEnded s).hl = { s.hl with mbx := (transferEnded s).hl.mbx, chain := (transferEnded s).hl.chain } := by
  unfold transferEnded
  split
  · simp only [mbxEnd, onChain, onMbx, mbxEnded]
    refine ⟨?_, trivial, trivial, trivial⟩
    rw [bitOf_putField_other _ _ _ _ _ (by decide) (by decide) (by decide),
      bitOf_putField_other _ _ _ _ _ (by decide) (by decide) (by decide)]
    simp
  · next h => exact ⟨Bool.eq_false_iff.2 h, rfl, rfl, rfl⟩

/-- A session writes a firmware image into its slot, not yet staged. -/
def slotOpen (h : Halord) : Bool :=
  match h.session with
  | some x => x.kind == 0 && !x.staged
  | none => false

/-- Halord restarting: what its SRAM held is gone, and a slot being written is no longer pending. -/
def restartedHalord (h : Halord) : Halord :=
  let h' := { h with restarting := true, push := none }
  { (if slotOpen h' then setPending h' false else h') with session := none }

theorem watchdogExpiry_eq {s : State} (ha : aonUp s = true) (hr : s.hl.restarting = false) (ho : romOnly s = false) :
    watchdogExpiry s = { transferEnded s with hl := restartedHalord (transferEnded s).hl } := by
  simp only [watchdogExpiry, ha, hr, ho, Bool.not_true, Bool.or_self, Bool.false_eq_true, if_false]
  rfl

/-- The restart touches the flags of Halord's SRAM, the pending slot and its record. -/
theorem restartedHalord_keeps (h : Halord) :
    restartedHalord h = { h with restarting := true, push := none, session := none, flash := (restartedHalord h).flash
                                 sec := { h.sec with pending := (restartedHalord h).sec.pending } } := by
  unfold restartedHalord; dsimp only; split <;> rfl

/-- The slot record is 64 bytes. -/
theorem putSlotRecord_flash_other (h : Halord) {a : Nat} (ha : a < 0x60E0000 ∨ 0x60E0040 ≤ a) :
    memGet 0xFF (putSlotRecord h).flash a = memGet 0xFF h.flash a := by
  refine memGet_write_other _ _ _ _ _ ?_
  rw [List.length_append, leBytes_length, leBytes_length]
  omega

theorem restartedHalord_flash_other (h : Halord) {a : Nat} (ha : a < 0x60E0000 ∨ 0x60E0040 ≤ a) :
    memGet 0xFF (restartedHalord h).flash a = memGet 0xFF h.flash a := by
  unfold restartedHalord
  dsimp only
  split
  · exact putSlotRecord_flash_other _ ha
  · rfl

/-! ### The rows together -/

/-- Settles O9: each step of the entry is one branch of `standbyFlush`; the restart touches Halord alone, and of its flash the slot
record. That the entry goes by one STANDBY_FLUSH a step, and the restart ends session and push, is the model's reading (log 39, 93). -/
theorem standbyEntryAndWatchdog : Obligations.StandbyEntryAndWatchdog := by
  unfold Obligations.StandbyEntryAndWatchdog
  have flushed {s t : State} {P : State → Prop} (h : standbyFlush s = t) (hp : P t) : Runs .standbyFlush s P :=
    ⟨t, congrArg Host.Outcome.next h, hp⟩
  refine ⟨fun s => ⟨fun he hw => flushed (standbyFlush_waits he hw) rfl,
    fun he hr hc hd hf => flushed (standbyFlush_clean he hr hc hd hf) rfl, fun he hw => ?_, fun he hw hk => ?_, fun he hw hk => ?_⟩,
    fun s => ⟨fun ha hr ho => ?_, fun hr => ?_⟩⟩
  · have kept {α : Type} (g : Node → α) := flushDrives_keeps g (n := s.nd)
    refine flushed (standbyFlush_flushes he hw) ⟨?_, fun d hd => flushDrives_flushes hd, kept Node.ctxs fun _ _ => rfl,
      kept (·.mem.blocks) fun _ _ => rfl, kept Node.trk fun _ _ => rfl, rfl, rfl⟩
    exact congrArg (fun p : Power => { p with entry := 3 }) (kept Node.power fun _ _ => rfl)
  · refine flushed ((standbyFlush_reports he hw).trans (if_neg (by omega))) ⟨?_, reportNode_ctxs _ _, reportNode_mem _ _, rfl, rfl⟩
    exact congrArg (fun p : Power => { p with entry := 4 }) (reportNode_power _ _)
  · exact flushed ((standbyFlush_reports he hw).trans (if_pos hk)) ⟨rfl, rfl, rfl, rfl, rfl, rfl, rfl⟩
  · obtain ⟨hbusy, hnd, hpending, hhl⟩ := transferEnded_keeps s
    have hkeeps := restartedHalord_keeps (transferEnded s).hl
    refine ⟨_, congrArg Host.Outcome.next (watchdogExpiry_eq ha hr ho), ?_⟩
    refine ⟨congrArg (·.restarting) hkeeps, congrArg (·.session) hkeeps, congrArg (·.push) hkeeps, ?_, hnd, ?_, ?_, ?_, ?_,
      fun a hflash => ?_, hpending⟩
    · exact (congrArg (bitOf ·.mbx.stat 0) hkeeps).trans hbusy
    · exact (congrArg (·.sec.fuses) hkeeps).trans (congrArg (·.sec.fuses) hhl)
    · exact (congrArg (·.sec.unsealed) hkeeps).trans (congrArg (·.sec.unsealed) hhl)
    · exact (congrArg (·.plc) hkeeps).trans (congrArg (·.plc) hhl)
    · exact (congrArg (·.i3c) hkeeps).trans (congrArg (·.i3c) hhl)
    · exact (restartedHalord_flash_other _ hflash).trans (congrArg (memGet 0xFF ·.flash a) hhl)
  · exact ⟨_, congrArg Host.Outcome.next (if_pos hr), rfl, logEvent_last _ _, rfl, rfl, rfl, rfl, rfl⟩

end Sys2Proof.MemoryTiers
end

section
/-! Drives: their fills and completions, timeouts, removals and additions (O42). -/

namespace Sys2Proof.MemoryTiers

open Sys2Proof.Machine Sys2Proof.Safety Sys2Proof.Organisation Sys2Proof.ContextRanges Sys2Proof.OhmasLink

/-! ### Fills and completions (R303, R323–R325) -/

/-- A command has left the table, and its drive has answered. -/
def answeredNode (n : Node) (cid : Nat) (c : NvmeCmd) : Node := portAnswered (dropNvme n cid) c.port

theorem find?_nvme_answeredNode (n : Node) (cid : Nat) (c : NvmeCmd) : Tbl.find? (answeredNode n cid c).mem.nvme cid = none :=
  Tbl.find?_del_same _ _

section
variable {n : Node} {cid : Nat} {c : NvmeCmd} (hc : Tbl.find? n.mem.nvme cid = some c)
include hc

theorem fillComplete_accepted {f : Nat} (data md : Bytes) (hp : c.purpose = .frameFill f) (ha : accepting n = true) :
    fillComplete cid data md n = settle (frameFilled (answeredNode n cid c) f true data md) := by
  simp only [fillComplete, hc, hp, ha, if_true]
  rfl

theorem fillComplete_refused {f : Nat} (data md : Bytes) (hp : c.purpose = .frameFill f) (ha : accepting n = false) :
    fillComplete cid data md n = n := by
  simp only [fillComplete, hc, hp, ha, Bool.false_eq_true, if_false]

theorem nvmeCompletion_found (ok : Bool) (data md : Bytes) : nvmeCompletion cid ok data md n = settle (nvmeDone n cid c ok data md) := by
  simp only [nvmeCompletion, hc]

theorem nvmeTimeout_found : nvmeTimeout cid n = nvmeFails n cid c := by
  simp only [nvmeTimeout, hc]

end

theorem nvmeCompletion_unknown {n : Node} {cid : Nat} (ok : Bool) (data md : Bytes) (h : Tbl.find? n.mem.nvme cid = none) :
    nvmeCompletion cid ok data md n = n := by
  simp only [nvmeCompletion, h]

theorem nvmeTimeout_unknown {n : Node} {cid : Nat} (h : Tbl.find? n.mem.nvme cid = none) : nvmeTimeout cid n = n := by
  simp only [nvmeTimeout, h]

/-- The frame holds the states that its blocks' metadata say. -/
theorem frameFilled_installs {n : Node} {f : Nat} {x : CacheFrame} (ok : Bool) (data md : Bytes) (h : Tbl.find? n.mem.frames f = some x) :
    Tbl.find? (frameFilled n f ok data md).mem.frames f = some { x with states := readStates (x.blk * 16) 16 ok data md, filling := false } ∧
      (frameFilled n f ok data md).mem.nvme = n.mem.nvme := by
  simp only [frameFilled, h]
  exact ⟨Tbl.find?_put_same _ _ _, rfl⟩

/-- A Flush, a frame's Write, or the release of a cleared span. -/
def EndsPlainly (w : NvmeFor) : Prop := w = .flush ∨ (∃ f, w = .frameWrite f) ∨ ∃ tid, w = .release tid

theorem nvmeDone_plain {c : NvmeCmd} (n : Node) (cid : Nat) (data md : Bytes) (h : EndsPlainly c.purpose) :
    nvmeDone n cid c true data md = answeredNode n cid c := by
  rcases h with h | ⟨f, h⟩ | ⟨tid, h⟩ <;> simp only [nvmeDone, h, if_true] <;> rfl

theorem nvmeDone_directWrite {c : NvmeCmd} {b : Nat} (n : Node) (cid : Nat) (data md : Bytes) (h : c.purpose = .directWrite b) :
    nvmeDone n cid c true data md = writeBack (answeredNode n cid c) b := by
  simp only [nvmeDone, h, if_true]
  rfl

theorem nvmeDone_directRead {c : NvmeCmd} {n : Node} {cid b : Nat} {ok : Bool} {data md : Bytes} (h : c.purpose = .directRead b)
    (hr : (directRead (answeredNode n cid c) b ok data md).2 = true) :
    nvmeDone n cid c ok data md = (directRead (answeredNode n cid c) b ok data md).1 := by
  simp only [nvmeDone, h]
  exact if_pos hr

/-! ### Timeouts (R326) -/

/-- A drive's timeout is counted, marked in its status and logged. -/
def lateNode (n : Node) (d : Nat) : Node :=
  logEvent (setDport n d { dportAt n d with
    status := putField (dportAt n d).status 4 4 1, timeouts := (dportAt n d).timeouts + 1 }) { otherEvent 4 2 with uclass := 2, unit_ := d }

theorem nvmeFails_first {n : Node} {cid : Nat} {c : NvmeCmd} (ht : (dportAt n c.port).timeouts = 0) (hp : ∀ k, c.purpose ≠ .abort k) :
    nvmeFails n cid c = reissue (abortNvme (lateNode n c.port) cid c) cid c := by
  have hlt : ¬2 ≤ (dportAt n c.port).timeouts + 1 := by omega
  simp only [nvmeFails, hlt, if_false]
  cases h : c.purpose with
  | abort k => exact absurd h (hp k)
  | _ => rfl

theorem nvmeFails_again {n : Node} {c : NvmeCmd} (cid : Nat) (ht : 1 ≤ (dportAt n c.port).timeouts) :
    nvmeFails n cid c = driveLost (lateNode n c.port) c.port := by
  have hle : 2 ≤ (dportAt n c.port).timeouts + 1 := by omega
  simp only [nvmeFails, hle, if_true]
  rfl

/-- A command aborted and issued once more takes two numbers; the Abort is sent first. -/
theorem reissue_abortNvme_keeps (n : Node) (cid : Nat) (c : NvmeCmd) :
    let m := reissue (abortNvme n cid c) cid c
    m.mem.nextCid = n.mem.nextCid + 2 ∧ m.mem.frames = n.mem.frames ∧ m.mem.plain = n.mem.plain ∧
      ∃ o, m.out = n.out ++ [.nvme c.port n.mem.nextCid 8 cid 0 false [] [], o] :=
  ⟨rfl, rfl, rfl, _, List.append_assoc _ _ _⟩

/-! ### Drives that come (R328) -/

theorem driveAdded_ignored {n : Node} {d : Nat} (trained fmtOk : Bool) (nsBlocks queues : Nat) (dz : Bool)
    (h : accepting n = false ∨ fieldOf (dportAt n d).status 1 0 = 2) : driveAdded d trained fmtOk nsBlocks queues dz n = n := by
  have hb : (!accepting n || fieldOf (dportAt n d).status 1 0 == 2) = true := by simpa using h
  simp only [driveAdded, hb, if_true]

/-- The port of a drive that has come, with its committed configuration as it was. -/
def addedPort (q : DensePort) (trained fmtOk : Bool) (nsBlocks queues : Nat) (dz : Bool) : DensePort :=
  { densePortUp q true trained fmtOk nsBlocks queues dz with cfgLive := q.cfgLive, gen := q.gen, stat := q.stat }

theorem addedPort_up (q : DensePort) (nsBlocks queues : Nat) (dz : Bool) :
    fieldOf (addedPort q true true nsBlocks queues dz).status 1 0 = 2 ∧ (addedPort q true true nsBlocks queues dz).nsBlocks = nsBlocks ∧
      (addedPort q true true nsBlocks queues dz).queues = min queues 64 ∧ (addedPort q true true nsBlocks queues dz).timeouts = 0 := by
  refine ⟨?_, rfl, rfl, rfl⟩
  simp only [addedPort, densePortUp, Bool.and_self, if_true]
  rw [fieldOf_putField_other _ _ _ _ _ _ (by decide) (by decide) (by decide)]
  simp

theorem addedPort_down {trained fmtOk : Bool} (q : DensePort) (nsBlocks queues : Nat) (dz : Bool) (h : (trained && fmtOk) = false) :
    fieldOf (addedPort q trained fmtOk nsBlocks queues dz).status 1 0 = 0 := by
  simp [addedPort, densePortUp, h]

section
variable {n : Node} {d : Nat} (ha : accepting n = true) (hs : fieldOf (dportAt n d).status 1 0 ≠ 2)
  (he : bitOf (dportAt n d).cfgLive 0 = true)
include ha hs he

theorem driveAdded_up (nsBlocks queues : Nat) (dz : Bool) :
    driveAdded d true true nsBlocks queues dz n = settle (setDport n d (addedPort (dportAt n d) true true nsBlocks queues dz)) := by
  simp only [driveAdded, ha, he, beq_eq_false_iff_ne.2 hs, Bool.not_true, Bool.or_self, Bool.and_self, Bool.false_eq_true, if_false,
    if_true]
  rfl

theorem driveAdded_down {trained fmtOk : Bool} (nsBlocks queues : Nat) (dz : Bool) (h : (trained && fmtOk) = false) :
    ∃ e, driveAdded d trained fmtOk nsBlocks queues dz n =
      raiseAlert (logEvent (setDport n d (addedPort (dportAt n d) trained fmtOk nsBlocks queues dz)) e) alDrive := by
  simp only [driveAdded, ha, he, h, beq_eq_false_iff_ne.2 hs, Bool.not_true, Bool.or_self, Bool.false_eq_true, if_false]
  exact ⟨_, rfl⟩

end

/-- An alert that is raised stands. -/
theorem bitOf_alert_raiseAlert (n : Node) {bit : Nat} (h : bit < 64) : bitOf (raiseAlert n bit).log.alert bit = true := by
  unfold raiseAlert
  split
  · assumption
  · dsimp only
    (repeat' split) <;> simp [h]

theorem dportAt_of_mem {m n : Node} (h : m.mem = n.mem) (d : Nat) : dportAt m d = dportAt n d := by simp only [dportAt, h]

/-! ### The rows together -/

/-- Settles O42: each clause is one branch of its row's meaning, which the lemmas above name. DRIVE for a drive that stays down, and a
row left while the module does not accept, are the model's choice (log 109, 10). -/
theorem drivesAnswerAndFail : Obligations.DrivesAnswerAndFail := by
  unfold Obligations.DrivesAnswerAndFail
  intro cid f b d c x data md nsBlocks queues dz s n has done filled q late
  have completed {m : Node} {P : Node → Prop} {ok : Bool} (h : nvmeCompletion cid ok data md n = m) (hp : P m) :
      Moves (.nvmeCompletion cid ok data md) s P := moves_of_result h rfl hp
  have timedOut {m : Node} {P : Node → Prop} (h : nvmeTimeout cid n = m) (hp : P m) : Moves (.nvmeTimeout cid) s P :=
    moves_of_result h rfl hp
  have added {m : Node} {P : Node → Prop} {trained fmtOk : Bool} (h : driveAdded d.val trained fmtOk nsBlocks queues dz n = m) (hp : P m) :
      Moves (.driveAdded d trained fmtOk nsBlocks queues dz) s P := moves_of_result h rfl hp
  refine ⟨fun hc hp ha hf hq => ?_, fun hc hp ha => moves_of_result (fillComplete_refused hc data md hp ha) rfl rfl,
    fun hc hp hq => completed ?_ ⟨rfl, find?_nvme_answeredNode _ _ _, rfl⟩,
    fun hc hp => completed ((nvmeCompletion_found hc _ _ _).trans (congrArg settle (nvmeDone_directWrite _ _ _ _ hp))) rfl,
    fun ok hc hp hr => completed ((nvmeCompletion_found hc _ _ _).trans (congrArg settle (nvmeDone_directRead hp hr))) rfl,
    fun ok hc => completed (nvmeCompletion_unknown _ _ _ hc) rfl,
    fun hc hp ht => timedOut ((nvmeTimeout_found hc).trans (nvmeFails_first ht hp)) ⟨rfl, reissue_abortNvme_keeps late cid c⟩,
    fun hc ht => timedOut ((nvmeTimeout_found hc).trans (nvmeFails_again cid ht)) rfl,
    fun hc => timedOut (nvmeTimeout_unknown hc) rfl, moves_of_result rfl rfl ?_,
    fun trained fmtOk h => added (driveAdded_ignored _ _ _ _ _ h) rfl, fun ha hs he hq => ?_, fun trained fmtOk ha hs he h => ?_⟩
  · obtain ⟨hframe, hnvme⟩ := frameFilled_installs (n := done) true data md hf
    exact moves_of_result ((fillComplete_accepted hc data md hp ha).trans (settle_quiet _ hq)) rfl
      ⟨rfl, (congrArg (Tbl.find? · cid) hnvme).trans (find?_nvme_answeredNode n cid c), hframe⟩
  · rw [nvmeCompletion_found hc, nvmeDone_plain _ _ _ _ hp]
    exact settle_quiet _ hq
  · simp only [driveRemoved, beq_iff_eq]
    rfl
  · have hport := dportAt_setDport_same n d (addedPort q true true nsBlocks queues dz)
    refine added ((driveAdded_up ha hs he _ _ _).trans (settle_quiet _ (by exact hq))) ?_
    rw [hport]
    obtain ⟨h1, h2, h3, h4⟩ := addedPort_up q nsBlocks queues dz
    exact ⟨h1, h2, h3, h4, rfl⟩
  · obtain ⟨e, hdown⟩ := driveAdded_down ha hs he nsBlocks queues dz h
    refine added hdown ⟨?_, bitOf_alert_raiseAlert _ (by decide), ?_, ?_, raiseAlert_ctxs _ _⟩
    · rw [dportAt_of_mem (raiseAlert_mem _ _), dportAt_of_mem (logEvent_mem _ _), dportAt_setDport_same]
      exact addedPort_down _ _ _ _ h
    · exact congrArg (·.plain) (raiseAlert_mem _ _)
    · exact congrArg (·.frames) (raiseAlert_mem _ _)

end Sys2Proof.MemoryTiers
end

section
/-! Lenders' answers to the requests for lent storage (O43). -/

namespace Sys2Proof.MemoryTiers

open Sys2Proof.Machine Sys2Proof.Safety Sys2Proof.Organisation Sys2Proof.ContextRanges

/-- The node with another table of blocks that lenders are asked for. -/
def withLentIo (n : Node) (t : Tbl LenderIo) : Node := { n with mem := { n.mem with lentIo := t } }

/-! ### Answers that settle a packet (R626) -/

@[simp] theorem settleSent_mem (n : Node) (p : Packet) : (settleSent n p).mem = n.mem := by
  unfold settleSent; dsimp only; split <;> rfl

@[simp] theorem settleSent_log (n : Node) (p : Packet) : (settleSent n p).log = n.log := by
  unfold settleSent; dsimp only; split <;> rfl

@[simp] theorem spanOf_settleSent (n : Node) (p : Packet) (line : Nat) : spanOf (settleSent n p) line = spanOf n line := by
  unfold settleSent; dsimp only; split <;> rfl

/-- A lender's answer has come to the packet it answers, which asked for a block. -/
def LenderCame (n : Node) (p : Packet) (a : Node) (u : Unanswered) (b : Nat) : Prop :=
  (p.opcode = 1 ∨ p.opcode = 2) ∧ (p.cls = 2 ∨ p.cls = 3) ∧ accepting n = true ∧ Arrives n p a ∧ sentFor a p = some u ∧
    u.purpose = .lender b

section
variable {n a : Node} {p : Packet} {u : Unanswered} {b : Nat} (h : LenderCame n p a u b)
include h

theorem lenderResponse_came :
    lenderResponse p n =
      if p.status.toNat = stRetry then settleSent a p
      else if p.opcode = 2 then
        settle (if p.status.toNat = stOK then settleSent a p
          else logEvent (settleSent a p) { otherEvent 4 3 with node := p.src.toNat, status := p.status.toNat, data0 := b * 4096 })
      else ((Tbl.find? a.mem.lentIo b).map (lentRead a p b)).getD (settleSent a p) := by
  obtain ⟨ho, hc, ha, hp, hs, hu⟩ := h
  have hp : present n p = (a, true) := hp
  have shaped : (!(p.opcode == 1 || p.opcode == 2) || !(p.cls == 2 || p.cls == 3) || !accepting n) = false := by
    rw [ha, Bool.or_eq_true_iff.2 (ho.imp beq_iff_eq.2 beq_iff_eq.2), Bool.or_eq_true_iff.2 (hc.imp beq_iff_eq.2 beq_iff_eq.2)]
    rfl
  simp only [lenderResponse, shaped, hp, hs, hu, Option.map_some, Bool.not_true, Bool.false_eq_true, if_false]
  cases Tbl.find? a.mem.lentIo b <;> rfl

theorem lenderResponse_retry (hs : p.status.toNat = stRetry) : lenderResponse p n = settleSent a p :=
  (lenderResponse_came h).trans (if_pos hs)

theorem lenderResponse_written (ho : p.opcode = 2) (hs : p.status.toNat = stOK) : lenderResponse p n = settle (settleSent a p) := by
  rw [lenderResponse_came h, if_neg (by rw [hs]; decide), if_pos ho, if_pos hs]

theorem lenderResponse_unwritten (ho : p.opcode = 2) (hs : p.status.toNat ≠ stOK) (hr : p.status.toNat ≠ stRetry) :
    lenderResponse p n =
      settle (logEvent (settleSent a p) { otherEvent 4 3 with node := p.src.toNat, status := p.status.toNat, data0 := b * 4096 }) := by
  rw [lenderResponse_came h, if_neg hr, if_pos ho, if_neg hs]

theorem lenderResponse_read {io : LenderIo} (ho : p.opcode = 1) (hr : p.status.toNat ≠ stRetry)
    (hio : Tbl.find? a.mem.lentIo b = some io) : lenderResponse p n = lentRead a p b io := by
  rw [lenderResponse_came h, if_neg hr, if_neg (by rw [ho]; decide), hio]
  rfl

end

/-! ### Reads of a block (R297, R298) -/

/-- The read of a block once the bytes of one packet have come. -/
def gotLeg (a : Node) (p : Packet) (io : LenderIo) (leg : Nat × Nat) : LenderIo :=
  { io with legs := io.legs.erase leg, data := overlayAt io.data leg.2 (sliceOf (payloadOf p) 0 (maxPayload a)) }

section
variable {a : Node} {p : Packet} {b : Nat} {io : LenderIo} {leg : Nat × Nat} (hl : io.legs.find? (fun l => l.1 == reqSeq p) = some leg)
include hl

theorem lentRead_more (hs : p.status.toNat = stOK) (hg : (gotLeg a p io leg).legs ≠ []) :
    lentRead a p b io = withLentIo (settleSent a p) (Tbl.put a.mem.lentIo b (gotLeg a p io leg)) := by
  have hg : (io.legs.erase leg).isEmpty = false := by simpa [gotLeg] using hg
  simp only [lentRead, hl, hs, bne_self_eq_false, hg, Bool.not_false, Bool.false_eq_true, if_false, if_true, settleSent_mem,
    withLentIo, gotLeg]

theorem lentRead_whole (hs : p.status.toNat = stOK) (hg : (gotLeg a p io leg).legs = [])
    (hr : (lentArrived a b (gotLeg a p io leg)).2 = true) :
    let z := settleSent (lentArrived a b (gotLeg a p io leg)).1 p
    lentRead a p b io = settle (withLentIo z (Tbl.del z.mem.lentIo b)) := by
  have hg : (io.legs.erase leg).isEmpty = true := by simpa [gotLeg] using hg
  simp only [lentRead, hl, hs, bne_self_eq_false, hg, Bool.not_true, Bool.false_eq_true, if_false]
  exact if_pos hr

theorem lentRead_refused {ctx : Nat} {r : Range} (hs : p.status.toNat ≠ stOK) (hx : spanOf a (b * 64) = some (ctx, r)) :
    lentRead a p b io =
      settle (blockUnreadable (openSlice (withLentIo (settleSent a p) (Tbl.del a.mem.lentIo b)) b).1 ctx r b) := by
  have hs : (p.status.toNat != stOK) = true := bne_iff_ne.2 hs
  have hx' : spanOf (withLentIo (settleSent a p) (Tbl.del a.mem.lentIo b)) (b * 64) = some (ctx, r) :=
    (spanOf_settleSent a p (b * 64)).trans hx
  simp only [withLentIo, settleSent_mem] at hx'
  simp only [lentRead, hl, hs, if_true, settleSent_mem, hx', withLentIo]

end

/-! ### The row -/

/-- Settles O43: each clause is one branch of `lenderResponse`, which the lemmas above name. What a refusal comes to is the model's
choice (log 64). -/
theorem lendersAnswer : Obligations.LendersAnswer := by
  unfold Obligations.LendersAnswer
  intro p a u b io leg s st came with_ got reads
  have answered {m : Node} {P : Node → Prop} (h : lenderResponse p s.nd = m) (hp : P m) : Moves (.lenderResponse p) s P :=
    moves_of_result h rfl hp
  refine ⟨fun hc hre => answered (lenderResponse_retry hc hre) rfl,
    fun hc ho hok hq => answered ((lenderResponse_written hc ho hok).trans (settle_quiet _ hq)) ⟨rfl, settleSent_log _ _⟩,
    fun hc ho hok hre => answered (lenderResponse_unwritten hc ho hok hre) rfl,
    fun ⟨hc, ho, hre, hio, hl⟩ hok hg => answered ((lenderResponse_read hc ho hre hio).trans (lentRead_more hl hok hg)) rfl,
    fun ⟨hc, ho, hre, hio, hl⟩ hok hg hr =>
      answered ((lenderResponse_read hc ho hre hio).trans (lentRead_whole hl hok hg hr)) ⟨_, rfl, rfl⟩,
    fun ctx r ⟨hc, ho, hre, hio, hl⟩ hok hx => answered ((lenderResponse_read hc ho hre hio).trans (lentRead_refused hl hok hx)) rfl⟩

end Sys2Proof.MemoryTiers
end

section
/-! How the commands of an index go on and end: what the two families of rows share (O30, O31). -/

namespace Sys2Proof.HammingSearch

open Sys2Proof.Machine Sys2Proof.Safety Sys2Proof.Organisation Sys2Proof.ContextRanges

/-! ### Ending (R54, R55) -/

@[simp] theorem endCmd_srch (n : Node) (tid st : Nat) (r0 w3 : Word) : (endCmd n tid st r0 w3).srch = n.srch := by
  unfold endCmd; split <;> rfl

/-- A refused command has ended, and neither the searches nor the memory have changed. -/
theorem refuseCmd_ends {n : Node} {tid : Nat} {c : Cmd} (hc : cmdOf n tid = some c) (st : Nat) :
    HasEnded (refuseCmd n tid st) tid st 0 0 ∧ (refuseCmd n tid st).srch = n.srch ∧ (refuseCmd n tid st).mem = n.mem :=
  ⟨hasEnded_endCmd hc _ _ _, endCmd_srch _ _ _ _ _, endCmd_mem _ _ _ _ _⟩

theorem settle_refuseCmd {n : Node} (h : Quiet n) (tid st : Nat) : settle (refuseCmd n tid st) = refuseCmd n tid st :=
  settle_quiet _ (quiet_endCmd h tid st 0 0)

/-- An index command that has ended has no transfer left. -/
theorem ioOf_endIndexCmd (n : Node) (tid st : Nat) (r0 w3 : Word) : ioOf (endIndexCmd n tid st r0 w3) tid = none := by
  simp only [ioOf, endIndexCmd, endCmd_srch]
  exact Tbl.find?_del_same _ _

theorem find?_harvests_endIndexCmd (n : Node) (tid st : Nat) (r0 w3 : Word) :
    Tbl.find? (endIndexCmd n tid st r0 w3).srch.harvests tid = none := by
  simp only [endIndexCmd, endCmd_srch]
  exact Tbl.find?_del_same _ _

/-! ### Going on -/

theorem running_of_isRunning {n : Node} {tid op : Nat} {c : Cmd} (h : IsRunning n tid op c) : (c.phase == .running) = true := by
  obtain ⟨_, _, hp, _⟩ := h
  exact beq_iff_eq.2 hp

theorem resumeCmd_of_isRunning {n : Node} {tid op : Nat} {c : Cmd} (h : IsRunning n tid op c) (f : Cmd → Node) :
    resumeCmd n tid op f = f c := by
  have hp := running_of_isRunning h
  obtain ⟨hc, ho, _, ha⟩ := h
  simp only [resumeCmd, hc, ho, hp, ha, beq_self_eq_true, Bool.and_self, if_true]

/-- With no transfer left after its first turn, a command goes no further. -/
theorem goOn_once {f : Node → Nat → Node} {tid : Nat} {n m : Node} (hf : f n tid = m) (hm : ioOf m tid = none) (fuel : Nat) :
    goOn f tid (fuel + 1) n = m := by
  simp only [goOn, hf, hm]

end Sys2Proof.HammingSearch
end

section
/-! SEARCH and HARVEST: how they begin, and how a coordinator and an INIT end (O30). -/

namespace Sys2Proof.HammingSearch

open Sys2Proof.Machine Sys2Proof.Safety Sys2Proof.Organisation Sys2Proof.ContextRanges

/-! ### SEARCH of one shard (R357, R359, R365) -/

theorem searchShard_starts {n : Node} {tid : Nat} {c : Cmd} (h : CanStart n tid 0x30 c) (hs : bitOf (dword c 7) 0 = true)
    (hl : n.srch.queries.length < 1024) :
    searchShard tid n = checked n tid c (shardReserved c) [] fun _ =>
      settle (goOn queryGo tid 4 (startRead (setQuery (runStage n tid 1 []) tid (newQuery c)) tid (cmdCtx c) (dword c 3).toNat 64)) := by
  have hp := not_running_of_canStart h
  simp only [searchShard, h.1, hs, hp, startCmd_of_canStart h, if_neg (Nat.not_le.2 hl), Bool.not_true, Bool.false_eq_true, if_false]

theorem searchShard_waits {n : Node} {tid : Nat} {c : Cmd} (h : CanStart n tid 0x30 c) (hl : 1024 ≤ n.srch.queries.length) :
    searchShard tid n = n := by
  have hp := not_running_of_canStart h
  simp only [searchShard, h.1, hp, startCmd_of_canStart h, if_pos hl, Bool.false_eq_true, if_false, ite_self]

/-! ### Coordinated SEARCH (R357, R360, R361) -/

/-- A coordinated query that has yet to read its query block. -/
def newCoord : Coord :=
  { query := none, shards := [], stage := 1, shard := 0, todo := [], expected := 0, prior := 0 }

theorem searchCoordinated_starts {n : Node} {tid : Nat} {c : Cmd} (h : CanStart n tid 0x30 c) (hs : bitOf (dword c 7) 0 = false)
    (hl : n.srch.coords.length < 256) :
    searchCoordinated tid n =
      checked n tid c (coordReserved c) [((counterOf n (mergeCounter c)).owner != cmdCtx c, stDenied)] fun _ =>
        settle (goOn coordGo tid 8 (startRead (setCoord (runStage n tid 1 []) tid newCoord) tid (cmdCtx c) (dword c 3).toNat 64)) := by
  have hp := not_running_of_canStart h
  simp only [searchCoordinated, h.1, hs, hp, startCmd_of_canStart h, if_neg (Nat.not_le.2 hl), Bool.false_eq_true, if_false, newCoord]

theorem coordinatorMerge_running {n : Node} {tid : Nat} {c : Cmd} {r : Coord} (h : IsRunning n tid 0x30 c)
    (hr : Tbl.find? n.srch.coords tid = some r) :
    coordinatorMerge tid n =
      if r.stage = 8 ∧ r.expected ≤ (counterOf n (mergeCounter c)).value then settle (goOn coordGo tid 8 (coordRead n tid c r))
      else settle (goOn coordGo tid 8 n) := by
  simp only [coordinatorMerge, resumeCmd_of_isRunning h, hr, Bool.and_eq_true, decide_eq_true_eq]

/-- With no transfer and no shard to route, a coordinated query stays as it is. -/
theorem coordGo_idle {n : Node} {tid : Nat} {c : Cmd} {r : Coord} (hc : cmdOf n tid = some c)
    (hr : Tbl.find? n.srch.coords tid = some r) (hio : ioOf n tid = none) (hs : r.stage ≠ 4) : coordGo n tid = n := by
  simp only [coordGo, hc, hr, hio, if_neg hs]

/-- The header of the result list is written: the query completes. -/
theorem coordGo_written {n : Node} {tid : Nat} {c : Cmd} {r : Coord} {io : EngIo} (hc : cmdOf n tid = some c)
    (hr : Tbl.find? n.srch.coords tid = some r) (hio : ioOf n tid = some io) (hs : r.stage = 11) (hst : io.status = some stOK) :
    coordGo n tid = coordEnd (dropIo n tid) tid r := by
  simp only [coordGo, hc, hr, hio, hst, coordIoDone, hs, Nat.reduceEqDiff, if_false, if_true]

/-! ### HARVEST (R349–R352) -/

theorem harvest_starts {n : Node} {tid hop : Nat} {c : Cmd} (h : CanStart n tid 0x33 c) (ho : fieldOf (dword c 4) 1 0 = hop)
    (hb : harvestBehind n c = false) (f : Node → Cmd → Node) : harvest tid hop f n = settle (f n c) := by
  have hp := not_running_of_canStart h
  simp only [harvest, h.1, ho, hb, hp, startCmd_of_canStart h, bne_self_eq_false, Bool.false_eq_true, if_false]

/-- A HARVEST of one HOP that may start moves the node as its start and what settles after it do. -/
theorem moves_of_harvestStarts {i : Instr} {s : State} {P : Node → Prop} {tid hop : Nat} {c : Cmd} {f : Node → Cmd → Node} {m : Node}
    (h : CanStart s.nd tid 0x33 c ∧ fieldOf (dword c 4) 1 0 = hop ∧ harvestBehind s.nd c = false)
    (hi : exec i s = .next (onNode s (harvest tid hop f))) (hm : f s.nd c = m) (hp : P (settle m)) : Moves i s P := by
  obtain ⟨hs, ho, hb⟩ := h
  exact moves_of_result ((harvest_starts hs ho hb f).trans (congrArg settle hm)) hi hp

theorem harvest_running {n : Node} {tid hop : Nat} {c : Cmd} (h : IsRunning n tid 0x33 c) (ho : fieldOf (dword c 4) 1 0 = hop)
    (f : Node → Cmd → Node) : harvest tid hop f n = settle (harvestGo tid 8 n) := by
  have hp := running_of_isRunning h
  simp only [harvest, h.1, ho, hp, resumeCmd_of_isRunning h, bne_self_eq_false, Bool.false_eq_true, if_false, if_true]

/-- The command runs, and its shard's entry in the activity table names it. -/
def harvestBegun (n : Node) (tid : Nat) (r : HarvestRun) : Node :=
  setHarvest (changeAct (runStage n tid 1 []) r.geo.ctx r.geo.hdr fun e => { e with harvest := some tid }) tid r

/-- A MERGE or COMPACT that has read its shard's header. -/
def mergeRun (compact : Bool) (g : ShardGeo) (l : ShardLive) : HarvestRun :=
  { geo := g, compact := compact, stage := 1, upTo := l.tail, pos := l.head, slot := 0, mainN := l.mainN, entry := l.entry,
    merged := 0, full := false, kept := [], removed := 0 }

/-- An INIT that has yet to write its fixed line. -/
def initRun (c : Cmd) : HarvestRun :=
  { geo := initGeo c, compact := false, stage := 9, upTo := 0, pos := 0, slot := 0, mainN := fieldOf (dword c 4) 63 32, entry := 0,
    merged := 0, full := false, kept := [], removed := 0 }

theorem startHarvest_invalid {c : Cmd} (hr : harvestReserved c = true) (n : Node) (tid : Nat) (compact : Bool) :
    startHarvest n tid c compact = refuseCmd n tid stInvalid := checked_invalid _ _ _ hr _ _

/-- A MERGE or COMPACT with a good header: what decides over it, in the order of the checks. -/
theorem startHarvest_reads {n a : Node} {c : Cmd} {g : ShardGeo} {l : ShardLive} (hw : WellCommanded n c)
    (hr : harvestReserved c = false) (hh : readHeader n (cmdCtx c) (dword c 3).toNat = (a, .good g l)) (tid : Nat) (compact : Bool) :
    startHarvest n tid c compact =
      if compact = true ∧ g.area1 = 0 then refuseCmd a tid stInvalid
      else if shardGrants a g (·.w) = false then refuseCmd a tid stDenied
      else harvestGo tid 8 (harvestBegun a tid (mergeRun compact g l)) := by
  rw [startHarvest, checked_passes hw tid hr rfl, hh]
  simp only [Bool.and_eq_true, decide_eq_true_eq, Bool.not_eq_true', harvestBegun, mergeRun]

/-- An INIT that passes its checks begins, unless a shard stands at its place. -/
theorem startInit_reads {n a : Node} {c : Cmd} (hw : WellCommanded n c) (hr : initReserved n c = false)
    (hg : shardGrants n (initGeo c) (·.w) = true)
    (hv : (shardSpans (initGeo c)).any (fun x => spanRevoked n (cmdCtx c) x.1 x.2) = false)
    (hp : engineReadPrep n (cmdCtx c) (dword c 3).toNat 64 = (a, .ready)) (tid : Nat) :
    startInit n tid c =
      if (!spanPoisoned a (cmdCtx c) (dword c 3).toNat 64 && lineChecks (spanBytes a (cmdCtx c) (dword c 3).toNat 64)) = true then
        refuseCmd a tid stInvalid
      else harvestGo tid 4 (harvestBegun a tid (initRun c)) := by
  have hctx : (initGeo c).ctx = cmdCtx c := rfl
  have hhdr : (initGeo c).hdr = (dword c 3).toNat := rfl
  simp only [startInit, hctx, hhdr]
  rw [checked_passes hw tid hr (by simp [firstStatus, hg, hv]), hp]
  rfl

/-- Without a HARVEST there is nothing to go through. -/
theorem harvestGo_none {n : Node} {tid : Nat} (h : Tbl.find? n.srch.harvests tid = none) (fuel : Nat) : harvestGo tid fuel n = n := by
  induction fuel with
  | zero => rfl
  | succ fuel ih =>
    have hs : harvestStep n tid = n := by simp only [harvestStep, h]
    rw [harvestGo, hs, ih]

theorem find?_harvests_endHarvest (n : Node) (tid : Nat) (r : HarvestRun) (st : Nat) :
    Tbl.find? (endHarvest n tid r st).srch.harvests tid = none := by
  unfold endHarvest
  dsimp only
  split <;> exact find?_harvests_endIndexCmd _ _ _ _ _

/-- The live line of an INIT is visible: the command completes. -/
theorem harvestGo_initVisible {n : Node} {tid : Nat} {r : HarvestRun} (hr : Tbl.find? n.srch.harvests tid = some r)
    (hs : r.stage = 11) (hv : ownVisible n tid r.geo.ctx = true) (fuel : Nat) :
    harvestGo tid (fuel + 1) n = endHarvest n tid { r with mainN := 0 } stOK := by
  have h : harvestStep n tid = endHarvest n tid { r with mainN := 0 } stOK := by
    simp only [harvestStep, hr, hs, initStep, hv, Nat.reduceLeDiff, if_true, Bool.not_true, Bool.false_eq_true, if_false]
  rw [harvestGo, h, harvestGo_none (find?_harvests_endHarvest _ _ _ _)]

/-! ### The rows together -/

/-- Settles O30: each clause is one branch of its row's meaning, which the lemmas above name. When a coordinator takes MCNT for done,
and what an INIT makes of a poisoned first line and reports, are the model's choice (log 71, log 70). -/
theorem searchAndHarvest : Obligations.SearchAndHarvest := by
  unfold Obligations.SearchAndHarvest
  intro tid c a g l s ctx pva sub search harvest own invalid run init begun
  have ends : cmdOf s.nd tid = some c → HasEnded (refuseCmd s.nd tid stInvalid) tid stInvalid 0 0 ∧
    (refuseCmd s.nd tid stInvalid).srch = s.nd.srch ∧ (refuseCmd s.nd tid stInvalid).mem = s.nd.mem := (refuseCmd_ends · _)
  refine ⟨fun h hs hw hr hl => moves_of_result ((searchShard_starts h hs hl).trans (checked_passes hw tid hr rfl _)) rfl rfl,
    fun h hs hl hr => moves_of_result ((searchShard_starts h hs hl).trans (checked_invalid _ _ _ hr _ _)) rfl (ends h.1),
    fun h _ hl => moves_of_result (searchShard_waits h hl) rfl rfl,
    fun h hs hw hr hl ho => moves_of_result ((searchCoordinated_starts h hs hl).trans
      (checked_passes hw tid hr (by simp [firstStatus, show (counterOf s.nd (mergeCounter c)).owner = cmdCtx c from ho]) _)) rfl rfl,
    fun h hs hw hr hl ho => moves_of_result ((searchCoordinated_starts h hs hl).trans
      (checked_later hw tid hr (st := stDenied)
        (by simp [firstStatus, show (counterOf s.nd (mergeCounter c)).owner ≠ cmdCtx c from ho]) _)) rfl
      ⟨hasEnded_endCmd h.1 _ _ _, endCmd_srch _ _ _ _ _⟩,
    fun h hs hr hl => moves_of_result ((searchCoordinated_starts h hs hl).trans (checked_invalid _ _ _ hr _ _)) rfl (ends h.1),
    fun r h hr => ?_,
    fun h hr hq => moves_of_harvestStarts h rfl (startHarvest_invalid hr _ _ _) (by rw [settle_refuseCmd hq]; exact ends h.1.1),
    fun h hw hr hh => ?_, fun h hw hr hh => ?_, fun h hw hr hg hv hp => ?_,
    fun r h ho hr hs hv => moves_of_result ((harvest_running h ho _).trans (congrArg settle (harvestGo_initVisible hr hs hv 7))) rfl rfl⟩
  · have merge {P : Node → Prop} {m : Node} (hm : _ = m) (hp : P m) : Moves (.coordinatorMerge tid) s P :=
      moves_of_result ((coordinatorMerge_running h hr).trans hm) rfl hp
    refine ⟨fun hs hv => merge (if_pos ⟨hs, hv⟩) rfl, fun hs hv hio hq => merge ?_ rfl, fun io hs hio hst => merge ?_ rfl⟩
    · have hi := coordGo_idle h.1 hr hio (by omega)
      rw [if_neg fun x => Nat.not_le.2 hv x.2, goOn_once hi hio, settle_quiet _ hq]
    · rw [if_neg (by omega), goOn_once (coordGo_written h.1 hr hio hs hst) (ioOf_endIndexCmd _ _ _ _ _)]
      rfl
  · have go {m : Node} (hm : _ = m) : Moves (.harvestMerge tid) s (· = settle m) :=
      moves_of_harvestStarts h rfl ((startHarvest_reads hw hr hh tid false).trans hm) rfl
    rw [if_neg fun x => Bool.false_ne_true x.1] at go
    exact ⟨fun hg => go (if_neg (by simp [hg])), fun hg => go (if_pos hg)⟩
  · have go {m : Node} (hm : _ = m) : Moves (.harvestCompact tid) s (· = settle m) :=
      moves_of_harvestStarts h rfl ((startHarvest_reads hw hr hh tid true).trans hm) rfl
    exact ⟨fun h1 => go (if_pos ⟨rfl, h1⟩), fun h1 hg => go ((if_neg fun x => h1 x.2).trans (if_neg (by simp [hg])))⟩
  · have go {m : Node} (hm : _ = m) : Moves (.harvestInit tid) s (· = settle m) :=
      moves_of_harvestStarts h rfl ((startInit_reads hw hr hg hv hp tid).trans hm) rfl
    exact ⟨fun ht => go (if_pos ht), fun ht => go (if_neg (Bool.eq_false_iff.1 ht))⟩

end Sys2Proof.HammingSearch
end

section
/-! INDEX_INSERT and INDEX_DELETE: how they take their place, wait for room and end (O31). -/

namespace Sys2Proof.HammingSearch

open Sys2Proof.Machine Sys2Proof.Safety Sys2Proof.Organisation Sys2Proof.ContextRanges

/-! ### Taking a place (R342, R346, R347) -/

theorem indexMutation_starts {n : Node} {tid op : Nat} {c : Cmd} (h : CanStart n tid op c) (insert : Bool) :
    indexMutation tid op insert n = settle (startMut n tid c insert) := by
  have hp := not_running_of_canStart h
  simp only [indexMutation, h.1, hp, startCmd_of_canStart h, Bool.false_eq_true, if_false]

theorem indexMutation_running {n : Node} {tid op : Nat} {c : Cmd} (h : IsRunning n tid op c) (insert : Bool) :
    indexMutation tid op insert n = settle (goOn mutGo tid 4 n) := by
  have hp := running_of_isRunning h
  simp only [indexMutation, h.1, hp, resumeCmd_of_isRunning h, if_true]

/-- W on the header and on the side list of a shard. -/
abbrev shardWrites (a : Node) (c : Cmd) (g : ShardGeo) : Bool :=
  spanGranted a (cmdCtx c) g.hdr 128 (·.w) && spanGranted a (cmdCtx c) (sideBase g) (sideRoom g * entrySize g) (·.w)

/-- COUNT. -/
abbrev entryCount (c : Cmd) : Nat := fieldOf (dword c 5) 16 0

/-- A mutation that has yet to read its source. -/
def newMut (c : Cmd) (g : ShardGeo) (insert : Bool) : MutRun :=
  { geo := g, insert := insert, src := (dword c 4).toNat, count := entryCount c, done := 0, lastSeq := 0, stage := 0, group := 0,
    stops := false }

/-- The command runs, and stands last in its shard's queue. -/
def mutQueued (a : Node) (tid : Nat) (c : Cmd) (g : ShardGeo) (insert : Bool) : Node :=
  setMut (changeAct (runStage a tid 1 []) (cmdCtx c) g.hdr fun e => { e with mutations := e.mutations ++ [tid] }) tid (newMut c g insert)

theorem startMut_headerEnds {n a : Node} {c : Cmd} {insert : Bool} {st : Nat} (hw : WellCommanded n c)
    (hr : mutReserved c insert = false) (hh : readHeader n (cmdCtx c) (dword c 3).toNat = (a, .ends st)) (tid : Nat) :
    startMut n tid c insert = refuseCmd a tid st := by
  rw [startMut, checked_passes hw tid hr rfl]
  simp only [hh]

/-- A mutation with a good header: what decides over it, in the order of the checks. -/
theorem startMut_reads {n a : Node} {c : Cmd} {g : ShardGeo} {l : ShardLive} {insert : Bool} (hw : WellCommanded n c)
    (hr : mutReserved c insert = false) (hh : readHeader n (cmdCtx c) (dword c 3).toNat = (a, .good g l)) (tid : Nat) :
    startMut n tid c insert =
      if shardWrites a c g = false then refuseCmd a tid stDenied
      else if entryCount c = 0 then refuseCmd a tid stOK
      else goOn mutGo tid 4 (mutQueued a tid c g insert) := by
  rw [startMut, checked_passes hw tid hr rfl]
  simp only [hh, Bool.not_eq_true', mutQueued, newMut]

/-! ### Ending (R342, R347) -/

/-- The publish of the last group is visible, and the mutation is the first of its shard: it ends. -/
theorem mutGo_published {n : Node} {tid : Nat} {r : MutRun} (hr : Tbl.find? n.srch.muts tid = some r) (hs : r.stage = 4)
    (hn : r.stops = false) (hd : r.count ≤ r.done + r.group)
    (hf : ((actOf n r.geo.ctx r.geo.hdr).bind fun e => e.mutations.head?) = some tid) (hv : ownVisible n tid r.geo.ctx = true) :
    mutGo n tid = endMut (dropIo (published n r.geo) tid) tid { r with done := r.done + r.group } stOK := by
  simp only [mutGo, hr, hf, hs, hn, hv, readSource, if_pos hd, bne_self_eq_false, Bool.not_true, Bool.false_eq_true, Nat.reduceEqDiff,
    OfNat.ofNat_ne_zero, if_false]

theorem ioOf_endMut (n : Node) (tid : Nat) (r : MutRun) (st : Nat) : ioOf (endMut n tid r st) tid = none := ioOf_endIndexCmd _ _ _ _ _

/-! ### Room in the side list (R348) -/

theorem roomFreed_eq {n : Node} {tid : Nat} {r : MutRun} (ha : accepting n = true) (hr : Tbl.find? n.srch.muts tid = some r) :
    roomFreed tid n = if r.stage = 2 ∨ r.stage = 5 then settle (goOn mutGo tid 4 n) else n := by
  simp only [roomFreed, hr, ha, Bool.true_and, Bool.or_eq_true, beq_iff_eq]

/-! ### The rows together -/

/-- Settles O31: each clause is one branch of `indexMutation` or `roomFreed`, which the lemmas above name. -/
theorem indexMutates : Obligations.IndexMutates := by
  unfold Obligations.IndexMutates
  intro tid c a g l s ins i op ctx count writes fresh
  have row {P : Node → Prop} {m : Node} (hm : indexMutation tid op ins s.nd = m) (hp : P m) : Moves i s P := by
    cases ins <;> exact moves_of_result hm rfl hp
  refine ⟨fun h hr hq => row ((indexMutation_starts h ins).trans
      ((congrArg settle (checked_invalid _ _ _ hr _ _)).trans (settle_refuseCmd hq _ _))) (refuseCmd_ends h.1 _),
    fun h hw hr => ⟨fun st hh => row ((indexMutation_starts h ins).trans (congrArg settle (startMut_headerEnds hw hr hh tid))) rfl,
      fun hh => ?_⟩,
    fun r h hr hs hn hd hf hv => row ((indexMutation_running h ins).trans
      (congrArg settle (goOn_once (mutGo_published hr hs hn hd hf hv) (ioOf_endMut _ _ _ _) 3))) rfl,
    fun r ha hr => moves_of_result (roomFreed_eq ha hr) rfl rfl⟩
  have go {m : Node} (hm : _ = m) : Moves i s (· = settle m) :=
    row ((indexMutation_starts h ins).trans (congrArg settle ((startMut_reads hw hr hh tid).trans hm))) rfl
  have granted (hw : writes = true) : ¬ shardWrites a c g = false := by rw [show shardWrites a c g = true from hw]; decide
  exact ⟨fun hw => go (if_pos hw), fun hw h0 => go ((if_neg (granted hw)).trans (if_pos h0)),
    fun hw h0 => go ((if_neg (granted hw)).trans (if_neg h0))⟩

end Sys2Proof.HammingSearch
end

section
/-! The parts of cohorts, as they are read and replaced, and how a command over them ends (R383, R386, R393). -/

namespace Sys2Proof.MirrorsSolstice

open Sys2Proof.Machine Sys2Proof.Safety Sys2Proof.Organisation Sys2Proof.ContextRanges

/-! ### Commands -/

@[simp] theorem endCmd_sol (n : Node) (tid st : Nat) (r0 w3 : Word) : (endCmd n tid st r0 w3).sol = n.sol := by
  unfold endCmd; split <;> rfl

@[simp] theorem runStage_sol (n : Node) (tid stage : Nat) (work : List Nat) : (runStage n tid stage work).sol = n.sol := by
  unfold runStage; split <;> rfl

/-- A refused command has ended, and neither the parts nor the memory have changed. -/
theorem refuseCmd_keepsParts {n : Node} {tid : Nat} {c : Cmd} (h : cmdOf n tid = some c) (st : Nat) :
    HasEnded (refuseCmd n tid st) tid st 0 0 ∧ (refuseCmd n tid st).sol = n.sol ∧ (refuseCmd n tid st).mem = n.mem :=
  ⟨hasEnded_endCmd h _ _ _, endCmd_sol _ _ _ _ _, endCmd_mem _ _ _ _ _⟩

/-! ### Parts -/

@[simp] theorem setPart_trk (n : Node) (k : Nat) (p : Part) : (setPart n k p).trk = n.trk := rfl
@[simp] theorem setPart_mem (n : Node) (k : Nat) (p : Part) : (setPart n k p).mem = n.mem := rfl

@[simp] theorem find?_parts_setPart_same (n : Node) (k : Nat) (p : Part) : Tbl.find? (setPart n k p).sol.parts k = some p :=
  Tbl.find?_put_same _ _ _

theorem find?_parts_setPart_other (n : Node) {k j : Nat} (p : Part) (h : k ≠ j) :
    Tbl.find? (setPart n j p).sol.parts k = Tbl.find? n.sol.parts k := Tbl.find?_put_other _ _ _ _ h

/-- In a table without doubled keys, an entry is what its key finds. -/
theorem find?_of_mem {α : Type} {t : Tbl α} (hn : (t.map Prod.fst).Nodup) {k : Nat} {v : α} (h : (k, v) ∈ t) :
    Tbl.find? t k = some v := by
  induction t with
  | nil => cases h
  | cons x t ih =>
    obtain ⟨hx, hn⟩ := List.nodup_cons.1 hn
    rcases List.mem_cons.1 h with rfl | h
    · exact if_pos rfl
    · exact (if_neg fun e => hx (List.mem_map.2 ⟨_, h, e.symm⟩)).trans (ih hn h)

section
variable (f : Part → Part) (l : List (Nat × Part)) (n : Node)

/-- Some parts changed one after the other: the commands and the memory are as they were. -/
theorem foldl_setPart_keeps : (l.foldl (fun n e => setPart n e.1 (f e.2)) n).trk = n.trk ∧
    (l.foldl (fun n e => setPart n e.1 (f e.2)) n).mem = n.mem :=
  ⟨foldl_keeps _ (fun m : Node => m.trk) (fun _ _ => setPart_trk _ _ _) l n,
    foldl_keeps _ (fun m : Node => m.mem) (fun _ _ => setPart_mem _ _ _) l n⟩

theorem find?_foldl_setPart_other {k : Nat} (h : ∀ e ∈ l, k ≠ e.1) :
    Tbl.find? (l.foldl (fun n e => setPart n e.1 (f e.2)) n).sol.parts k = Tbl.find? n.sol.parts k := by
  induction l generalizing n with
  | nil => rfl
  | cons x l ih =>
    rw [List.foldl_cons, ih _ fun e he => h e (List.mem_cons_of_mem _ he), find?_parts_setPart_other _ _ (h x List.mem_cons_self)]

theorem find?_foldl_setPart_of_mem (hn : (l.map Prod.fst).Nodup) {k : Nat} {p : Part} (h : (k, p) ∈ l) :
    Tbl.find? (l.foldl (fun n e => setPart n e.1 (f e.2)) n).sol.parts k = some (f p) := by
  induction l generalizing n with
  | nil => cases h
  | cons x l ih =>
    obtain ⟨hx, hn⟩ := List.nodup_cons.1 hn
    rcases List.mem_cons.1 h with rfl | h
    · rw [List.foldl_cons, find?_foldl_setPart_other f l _ fun e he hk => hx (List.mem_map.2 ⟨e, he, hk.symm⟩)]
      exact find?_parts_setPart_same _ _ _
    · exact ih _ hn h

end

end Sys2Proof.MirrorsSolstice
end

section
/-! The Solstice commands, and what parts do of themselves (O28). -/

namespace Sys2Proof.MirrorsSolstice

open Sys2Proof.Machine Sys2Proof.Safety Sys2Proof.Organisation Sys2Proof.ContextRanges

/-! ### OPEN (R383–R386) -/

/-- A SOLSTICE_OPEN whose span list, source list and record line are readable, at hand one after the other, and not poisoned. -/
structure OpenReads (n a b d : Node) (tid : Nat) (c : Cmd) (r : Range) : Prop where
  starts : CanStart n tid 0x20 c
  commanded : WellCommanded n c
  fields : openReserved c = false
  crec : crecRange n c = some r
  spansReadable : spanReadable n (cmdCtx c) (openSpanPva c) (32 * openSpans c) = true
  srcsReadable : spanReadable n (cmdCtx c) (openSrcPva c) (2 * openSources c) = true
  spansReady : engineReadPrep n (cmdCtx c) (openSpanPva c) (32 * openSpans c) = (a, .ready)
  srcsReady : engineReadPrep a (cmdCtx c) (openSrcPva c) (2 * openSources c) = (b, .ready)
  crecReady : engineReadPrep b (cmdCtx c) (openCrec c) 64 = (d, .ready)
  spansClean : spanPoisoned d (cmdCtx c) (openSpanPva c) (32 * openSpans c) = false
  srcsClean : spanPoisoned d (cmdCtx c) (openSrcPva c) (2 * openSources c) = false
  crecClean : spanPoisoned d (cmdCtx c) (openCrec c) 64 = false

theorem solsticeOpen_reads {n a b d : Node} {tid : Nat} {c : Cmd} {r : Range} (h : OpenReads n a b d tid c r) :
    solsticeOpen tid n = openPart d tid c r := by
  obtain ⟨hh, hr, hc⟩ := h.commanded
  simp [solsticeOpen, startCmd_of_canStart h.starts, h.fields, h.crec, h.spansReadable, h.srcsReadable, h.spansReady, h.srcsReady,
    h.crecReady, h.spansClean, h.srcsClean, h.crecClean, hh, hr, hc, worseFetch]

theorem solsticeOpen_reserved {n : Node} {tid : Nat} {c : Cmd} (h : CanStart n tid 0x20 c) (hr : openReserved c = true) :
    solsticeOpen tid n = refuseCmd n tid stInvalid := by
  simp only [solsticeOpen, startCmd_of_canStart h, hr, Bool.true_or, if_true]
  exact checked_invalid _ _ _ rfl _ _

/-- The span entries that an OPEN has read. -/
def openEntries (d : Node) (c : Cmd) : List (List Word) :=
  spanEntries (openSpans c) (spanBytes d (cmdCtx c) (openSpanPva c) (32 * openSpans c))

/-- The sources that an OPEN has read, each once. -/
def openSrcs (d : Node) (c : Cmd) : List Nat :=
  ((List.range (openSources c)).map fun i =>
    leNat (((spanBytes d (cmdCtx c) (openSrcPva c) (2 * openSources c)).drop (2 * i)).take 2)).eraseDups

/-- The part that an OPEN makes of the lists it has read. -/
def openedPart (d : Node) (tid : Nat) (c : Cmd) (r : Range) : Part :=
  newPart d tid c r ((openEntries d c).map spanEntry) (openSrcs d c)

/-- The parts with one more, under the next number. -/
def addPart (t : Solstice) (q : Part) : Solstice := { parts := Tbl.put t.parts t.nextPart q, nextPart := t.nextPart + 1 }

theorem openPart_makes {d : Node} {tid : Nat} {c : Cmd} {r : Range} (hw : WellCommanded d c)
    (he : (openEntries d c).any entryBad = false)
    (hi : openInvalid d (openedPart d tid c r) (spanBytes d (cmdCtx c) (openCrec c) 64) = false)
    (hs : openShort d (openedPart d tid c r) = false) :
    openPart d tid c r =
      if r.mirrorRole = true then endCmd { d with sol := addPart d.sol (openedPart d tid c r) } tid stOK 0 0
      else settle (runStage { d with sol := addPart d.sol (openedPart d tid c r) } tid 1 []) := by
  have hl : firstStatus [(openShort d (openedPart d tid c r), stNoResource)] = none := by rw [hs]; rfl
  unfold openPart
  exact checked_passes hw tid (Bool.or_eq_false_iff.2 ⟨he, hi⟩) hl _

/-! ### ANNOUNCE (R388, R389) -/

/-- The cut that an announce gives. -/
def annCut (n : Node) (c : Cmd) : Nat := if annAuto c then reqPoint n (annSource c) else (dword c 4).toNat

/-- A part whose source has announced a cut. -/
def announced (n : Node) (c : Cmd) (p : Part) : Part :=
  { p with srcs := p.srcs.map (raiseCut (annSource c) (annCut n c)), recordStale := true }

/-- The parts that an announce reaches. -/
def annHits (n : Node) (c : Cmd) : Tbl Part := n.sol.parts.filter fun e => annApplies c e.2

theorem solsticeAnnounce_reaches {n : Node} {tid : Nat} {c : Cmd} (h : CanStart n tid 0x21 c) (hw : WellCommanded n c)
    (hr : annReserved c = false) (hs : c.ring = 0 ∨ annSource c = c.writer) :
    solsticeAnnounce tid n =
      endCmd ((annHits n c).foldl (fun m e => setPart m e.1 (announced n c e.2)) n) tid stOK (wordOf (annHits n c).length) 0 := by
  have hd : firstStatus [(c.ring != 0 && annSource c != c.writer, stDenied)] = none := by
    rcases hs with hs | hs <;> simp [firstStatus, hs]
  rw [solsticeAnnounce, startCmd_of_canStart h, checked_passes hw tid hr hd]
  rfl

/-- Each part that the announce applies to has the cut, and each other one is as it was. -/
theorem find?_announced {n : Node} {k : Nat} {p : Part} (c : Cmd) (hn : (n.sol.parts.map Prod.fst).Nodup)
    (hp : Tbl.find? n.sol.parts k = some p) :
    Tbl.find? ((annHits n c).foldl (fun m e => setPart m e.1 (announced n c e.2)) n).sol.parts k =
      some (if annApplies c p then announced n c p else p) := by
  by_cases ha : annApplies c p = true
  · rw [if_pos ha]
    exact find?_foldl_setPart_of_mem _ _ _ (hn.sublist (List.filter_sublist.map _)) (List.mem_filter.2 ⟨Tbl.find?_mem _ _ _ hp, ha⟩)
  · rw [if_neg ha, ← hp]
    refine find?_foldl_setPart_other _ _ _ fun e he hk => ha ?_
    obtain ⟨hmem, happ⟩ := List.mem_filter.1 he
    have hfound : Tbl.find? n.sol.parts k = some e.2 := hk ▸ find?_of_mem hn hmem
    cases hp.symm.trans hfound
    exact happ

/-! ### SEAL_QUERY (R393) -/

theorem solsticeSealQuery_starts {n : Node} {tid : Nat} {c : Cmd} (h : CanStart n tid 0x22 c) (hw : WellCommanded n c)
    (hr : cohortReserved c 17 = false) (hp : partsOf n (cmdCtx c) (cohortWord c) ≠ []) :
    solsticeSealQuery tid n =
      if (bitOf (dword c 3) 16 && (partsOf n (cmdCtx c) (cohortWord c)).any fun p => p.2.state == 1) = true then runStage n tid 1 []
      else answerQuery n tid (partsOf n (cmdCtx c) (cohortWord c)) := by
  rw [solsticeSealQuery, startCmd_of_canStart h]
  exact checked_passes hw tid (by rw [hr, List.isEmpty_eq_false_iff.2 hp]; rfl) rfl _

theorem solsticeSealQuery_answers {n : Node} {tid : Nat} {c : Cmd} (h : CanStart n tid 0x22 c) (hw : WellCommanded n c)
    (hr : cohortReserved c 17 = false) (hp : partsOf n (cmdCtx c) (cohortWord c) ≠ [])
    (hq : bitOf (dword c 3) 16 = false ∨ ∀ e ∈ partsOf n (cmdCtx c) (cohortWord c), e.2.state ≠ 1) :
    solsticeSealQuery tid n = answerQuery n tid (partsOf n (cmdCtx c) (cohortWord c)) := by
  rw [solsticeSealQuery_starts h hw hr hp, if_neg]
  rw [Bool.and_eq_true, List.any_eq_true]
  rintro ⟨hb, e, he, hs⟩
  exact hq.elim (fun hf => Bool.false_ne_true (hf.symm.trans hb)) fun hno => hno e he (beq_iff_eq.1 hs)

theorem solsticeSealQuery_waits {n : Node} {tid : Nat} {c : Cmd} (h : CanStart n tid 0x22 c) (hw : WellCommanded n c)
    (hr : cohortReserved c 17 = false) (hb : bitOf (dword c 3) 16 = true)
    (ho : ∃ e ∈ partsOf n (cmdCtx c) (cohortWord c), e.2.state = 1) : solsticeSealQuery tid n = runStage n tid 1 [] := by
  obtain ⟨e, he, hs⟩ := ho
  rw [solsticeSealQuery_starts h hw hr (List.ne_nil_of_mem he), if_pos]
  exact Bool.and_eq_true_iff.2 ⟨hb, List.any_eq_true.2 ⟨e, he, beq_iff_eq.2 hs⟩⟩

/-- With fewer than 256 parts the answer holds their number. -/
theorem answerQuery_few (n : Node) (tid : Nat) {ps : Tbl Part} (h : ps.length < 256) :
    answerQuery n tid ps = endCmd n tid (((ps.find? fun e => e.2.state == 4).map fun e => e.2.status).getD stOK)
      (wordOf (leastState ps + ps.length * 2 ^ 8 + sumOver ps (fun _ p => awaitCount p) 0xFFFF * 2 ^ 16 +
        sumOver ps (fun k _ => splitCount n k) (2 ^ 32 - 1) * 2 ^ 32))
      (wordOf (sumOver ps (fun _ p => p.drained.length) (2 ^ 32 - 1) +
        sumOver ps (fun _ p => (drainChunks p).length) (2 ^ 32 - 1) * 2 ^ 32)) := by
  simp only [answerQuery, if_pos h]

/-! ### Sealing, pruning and draining (R390–R392) -/

section
variable {n : Node} {k : Nat} {p : Part} (hp : Tbl.find? n.sol.parts k = some p)
include hp

theorem partSeal_found :
    partSeal k n = if (!accepting n || !sealReady n p) = true then n
      else settle (setPart n k { p with state := 2, recordDue := true }) := by
  simp only [partSeal, hp]

theorem sourcePrune_due {src : Nat} (ha : accepting n = true) (hc : classifies p = true)
    (hd : (p.srcs.any fun x => x.node == src && x.lost && !x.pruned) = true) :
    sourcePrune k src n =
      if (n.trk.reqs.any fun e => e.2.pkt.src.toNat == src && e.2.pkt.dst.toNat == n.nodeId) = true then n
      else settle (setPart n k { p with srcs := p.srcs.map (pruneSource src (reqPoint n src)), recordStale := true }) := by
  simp only [sourcePrune, hp, ha, hc, hd, Bool.and_self, Bool.not_true, Bool.false_or]

theorem drainChunk_due {chunk pva : Nat} (ha : accepting n = true) (hw : writesRecord p = true) (hs : p.state = 2)
    (hst : p.drainStopped = false) (hd : p.drained.contains chunk = false) (hg : p.draining.contains chunk = false)
    (ht : (p.chunks.find? fun x => x.1 == chunk).bind (drainTo p) = some pva) :
    drainChunk k chunk n = settle (drainInto n k p chunk pva) := by
  simp only [drainChunk, hp, ha, hw, hs, hst, hd, hg, ht, bne_self_eq_false, Bool.not_true, Bool.or_self, Bool.false_eq_true, if_false]

theorem recordTick_due (ha : accepting n = true) (hd : p.recordStale = true ∨ p.recordDue = true) :
    recordTick k n = settle (writeRecord n k) := by
  simp only [recordTick, hp, ha, Bool.or_eq_true_iff.2 hd, Bool.and_self, if_true]

end

/-- An admitted request of a source to the module has not ended. -/
theorem sourceBusy_iff (n : Node) (src : NodeId) :
    (n.trk.reqs.any fun e => e.2.pkt.src.toNat == src.toNat && e.2.pkt.dst.toNat == n.nodeId) = true ↔
      ∃ e ∈ n.trk.reqs, e.2.pkt.src = src ∧ e.2.pkt.dst.toNat = n.nodeId := by
  simp only [List.any_eq_true, Bool.and_eq_true, beq_iff_eq, BitVec.toNat_inj]

theorem drainInto_refused {n : Node} {p : Part} {pva : Nat}
    (h : (spanGranted n p.ctx pva 65536 fun r => r.resClass == 2 && r.w) = false) (k chunk : Nat) :
    drainInto n k p chunk pva = stopDrain n k p := by
  simp only [drainInto, h, Bool.not_false, if_true]

/-! ### The cohort record (R384) -/

theorem cohortRecord_length (n : Node) (k : Nat) (p : Part) (rgen : Nat) : (cohortRecord n k p rgen).length = 64 := by
  simp [cohortRecord]

@[simp] theorem markOpener_sol (n : Node) (p : Part) (sent : Bool) : (markOpener n p sent).sol = n.sol := by
  unfold markOpener; (repeat' split) <;> rfl

/-- A part as its record is written: RGEN has moved on, and nothing of it is left to write. -/
theorem writeRecord_writes {n f : Node} {k : Nat} {p : Part} (hp : Tbl.find? n.sol.parts k = some p) (hw : writesRecord p = true)
    (hf : engineStorePrep n p.ctx p.crec 64 .own = (f, .ready)) (hpf : Tbl.find? f.sol.parts k = some p) :
    ∃ q, Tbl.find? (writeRecord n k).sol.parts k = some q ∧ q.rgen = (p.rgen + 1) % 2 ^ 32 ∧ q.recordDue = false ∧
      q.recordStale = false := by
  simp only [writeRecord, hp, hw, hf, hpf, bne_self_eq_false, Bool.not_true, Bool.false_eq_true, if_false, markOpener_sol]
  exact ⟨_, find?_parts_setPart_same _ _ _, rfl, rfl, rfl⟩

/-! ### RESTORE (R394) -/

theorem solsticeRestore_starts {n : Node} {tid : Nat} {c c' : Cmd} {k : Nat} {p : Part} (h : CanStart n tid 0x23 c)
    (hw : WellCommanded n c) (hr : cohortReserved c 16 = false) (hps : partsOf n (cmdCtx c) (cohortWord c) = [(k, p)])
    (hs : p.state = 2 ∨ p.state = 3) (hre : p.restoring = none)
    (hc : cmdOf (runStage (setPart n k { p with restoring := some tid, drainStopped := true }) tid 2 []) tid = some c') :
    solsticeRestore tid n =
      settle (goOnRestore (runStage (setPart n k { p with restoring := some tid, drainStopped := true }) tid 2 []) tid c') := by
  have hst : (cohortReserved c 16 || ([(k, p)] : Tbl Part).isEmpty ||
      ([(k, p)] : Tbl Part).any fun p => p.2.state != 2 && p.2.state != 3) = false := by
    rcases hs with hs | hs <;> simp [hr, hs]
  have hno : (([(k, p)] : Tbl Part).any fun p => p.2.restoring.isSome) = false := by simp [hre]
  simp only [solsticeRestore, h.1, not_running_of_canStart h, startCmd_of_canStart h, hps, hno, Bool.false_eq_true, if_false]
  rw [checked_passes hw tid hst rfl]
  simp only [List.foldl_cons, List.foldl_nil, hc]

theorem solsticeRestore_none {n : Node} {tid : Nat} {c : Cmd} (h : CanStart n tid 0x23 c)
    (hps : partsOf n (cmdCtx c) (cohortWord c) = []) : solsticeRestore tid n = refuseCmd n tid stInvalid := by
  simp only [solsticeRestore, h.1, not_running_of_canStart h, startCmd_of_canStart h, hps, List.any_nil, Bool.false_eq_true, if_false]
  exact checked_invalid _ _ _ (by simp) _ _

/-! ### Copy-back (R394) -/

section
variable {n : Node} {k : Nat} {w : CowChunk} (hc : Tbl.find? n.mem.cow k = some w) (hr : w.restored = true) (ha : accepting n = true)
include hc hr ha

theorem restoreCopyBack_homeless (hs : spanOf n (k * 1024) = none) : restoreCopyBack k n = freeRestored n k := by
  simp only [restoreCopyBack, hc, hr, ha, hs, Bool.not_true, Bool.or_self, Bool.false_eq_true, if_false]

theorem restoreCopyBack_stack {x : Nat} {r : Range} (hs : spanOf n (k * 1024) = some (x, r)) (hk : r.resClass = 0 ∨ r.resClass = 3) :
    restoreCopyBack k n = settle (freeRestored (copyBackStack n k w) k) := by
  have h1 : r.resClass ≠ 1 := by omega
  have h2 : r.resClass ≠ 2 := by omega
  have h4 : r.resClass ≠ 4 := by omega
  simp only [restoreCopyBack, hc, hr, ha, hs, h1, h2, h4, Bool.not_true, Bool.or_self, Bool.false_eq_true, if_false, Option.map_some,
    Option.getD_some]

end

theorem memRead_append (d : Byte) (m : Tbl Byte) (a i j : Nat) : memRead d m a (i + j) = memRead d m a i ++ memRead d m (a + i) j := by
  induction i generalizing a with
  | zero => simp [memRead]
  | succ i ih => rw [Nat.add_right_comm, memRead, ih, memRead, List.cons_append, Nat.add_right_comm, Nat.add_assoc]

/-- Block by block of `b` bytes, a copy takes over the bytes from its start on. -/
theorem memRead_foldl_copy (src dst : Tbl Byte) (base b j : Nat) :
    memRead 0 ((List.range j).foldl (fun m i => memWrite 0 m (base + i * b) (memRead 0 src (i * b) b)) dst) base (j * b) =
      memRead 0 src 0 (j * b) := by
  induction j with
  | zero => simp [memRead]
  | succ j ih =>
    have hlast : memRead 0 (memWrite 0 ((List.range j).foldl (fun m i => memWrite 0 m (base + i * b) (memRead 0 src (i * b) b)) dst)
        (base + j * b) (memRead 0 src (j * b) b)) (base + j * b) b = memRead 0 src (j * b) b := by
      have h := memRead_write_same 0 ((List.range j).foldl (fun m i => memWrite 0 m (base + i * b) (memRead 0 src (i * b) b)) dst)
        (base + j * b) (memRead 0 src (j * b) b)
      rwa [memRead_length] at h
    rw [List.range_succ, List.foldl_append, List.foldl_cons, List.foldl_nil, Nat.succ_mul, memRead_append, memRead_append,
      memRead_write_other _ _ _ _ _ _ (Or.inl (Nat.le_refl _)), ih, hlast, Nat.zero_add]

/-- The 16 blocks of a chunk, copied back, are the 65,536 bytes of its copy. -/
theorem memRead_copyBackStack (n : Node) (k : Nat) (w : CowChunk) :
    memRead 0 (copyBackStack n k w).mem.stack (k * 65536) 65536 = memRead 0 w.bytes 0 65536 := by
  have hstack : (copyBackStack n k w).mem.stack =
      (List.range 16).foldl (fun m i => memWrite 0 m (k * 65536 + i * 4096) (memRead 0 w.bytes (i * 4096) 4096)) n.mem.stack :=
    (List.foldl_hom (fun m : Node => m.mem.stack) fun m i => by
      rw [show k * 65536 + i * 4096 = (k * 16 + i) * 4096 by omega]).symm
  rw [hstack]
  exact memRead_foldl_copy w.bytes n.mem.stack (k * 65536) 4096 16

/-! ### DROP (R395) -/

theorem solsticeDrop_mirror {n : Node} {tid : Nat} {c : Cmd} {k : Nat} {p : Part} (h : CanStart n tid 0x24 c)
    (hw : WellCommanded n c) (hr : cohortReserved c 16 = false) (hps : partsOf n (cmdCtx c) (cohortWord c) = [(k, p)])
    (hs : p.state ≠ 5) (hm : p.mirror = true) (ho : p.opener = none) (hre : p.restoring = none) :
    solsticeDrop tid n = settle (runStage (freeParts n [k]) tid 1 []) := by
  obtain ⟨hh, hd, hc⟩ := hw
  simp [solsticeDrop, startCmd_of_canStart h, hps, hs, hr, hh, hd, hc, dropCohort, writesRecord, hm, ho, hre]

theorem mem_freeParts {n : Node} {k : Nat} {e : Nat × Part} (h : e ∈ (freeParts n [k]).sol.parts) : e.1 ≠ k := by
  simpa using (List.mem_filter.1 h).2

theorem solsticeDrop_none {n : Node} {tid : Nat} {c : Cmd} (h : CanStart n tid 0x24 c)
    (hps : partsOf n (cmdCtx c) (cohortWord c) = []) : solsticeDrop tid n = refuseCmd n tid stInvalid := by
  simp only [solsticeDrop, startCmd_of_canStart h, hps, List.any_nil, List.isEmpty_nil, Bool.or_true, Bool.true_or, Bool.false_eq_true,
    if_false, if_true]
  exact checked_invalid _ _ _ rfl _ _

/-! ### The rows together -/

/-- Settles O28: each clause is one branch of its row's meaning, which the lemmas above name. -/
theorem cohortsRun : Obligations.CohortsRun := by
  unfold Obligations.CohortsRun
  intro tid k c p s ctx ps partIs
  refine ⟨fun a b d r hs hw hf hr hsp hso ha hb hd hc1 hc2 hc3 hwd hcmd he hi hsh => ?_,
    fun hs hr => moves_of_result (solsticeOpen_reserved hs hr) rfl ⟨hasEnded_endCmd hs.1 _ _ _, endCmd_sol _ _ _ _ _⟩,
    fun hs hw hr ha hn hp => moves_of_result (solsticeAnnounce_reaches hs hw hr ha) rfl ?_,
    fun hs hw hr hp hl hq => moves_of_result ((solsticeSealQuery_answers hs hw hr hp hq).trans (answerQuery_few _ _ hl)) rfl
      ⟨hasEnded_endCmd hs.1 _ _ _, endCmd_sol _ _ _ _ _⟩,
    fun hs hw hr hb ho => moves_of_result (solsticeSealQuery_waits hs hw hr hb ho) rfl ⟨?_, runStage_sol _ _ _ _⟩,
    fun hp ha hr => moves_of_result ((partSeal_found hp).trans (if_neg (by simp [ha, hr]))) rfl rfl,
    fun hp hr => moves_of_result ((partSeal_found hp).trans (if_pos (by simp [hr]))) rfl rfl,
    fun src hp ha hc hd =>
      ⟨fun hb => moves_of_result ((sourcePrune_due hp ha hc hd).trans (if_neg (mt (sourceBusy_iff _ _).1 hb))) rfl rfl,
        fun hb => moves_of_result ((sourcePrune_due hp ha hc hd).trans (if_pos ((sourceBusy_iff _ _).2 hb))) rfl rfl⟩,
    fun chunk pva hp ha hw hs hst hd hg ht =>
      ⟨fun hsp => moves_of_result (drainChunk_due hp ha hw hs hst hd hg ht) rfl (congrArg settle (drainInto_refused hsp _ _)),
        fun _ => moves_of_result (drainChunk_due hp ha hw hs hst hd hg ht) rfl rfl⟩,
    fun hp ha hd => moves_of_result (recordTick_due hp ha hd) rfl rfl,
    fun f hp hw hf hpf => ⟨cohortRecord_length _ _ _ _, writeRecord_writes hp hw hf hpf⟩,
    fun hs hw hr hps hst hre c' hc => moves_of_result (solsticeRestore_starts hs hw hr hps hst hre hc) rfl rfl,
    fun hs _ hps => moves_of_result (solsticeRestore_none hs hps) rfl (refuseCmd_keepsParts hs.1 _),
    fun w hc hr ha hsp => moves_of_result (restoreCopyBack_homeless hc hr ha hsp) rfl ⟨rfl, Tbl.find?_del_same _ _⟩,
    fun w x r hc hr ha hsp hk => moves_of_result (restoreCopyBack_stack hc hr ha hsp hk) rfl ⟨rfl, memRead_copyBackStack _ _ _⟩,
    fun hs hw hr hps hst hm ho hre =>
      moves_of_result (solsticeDrop_mirror hs hw hr hps hst hm ho hre) rfl ⟨rfl, fun _ => mem_freeParts⟩,
    fun hs _ hps => moves_of_result (solsticeDrop_none hs hps) rfl (refuseCmd_keepsParts hs.1 _)⟩
  · have opens : solsticeOpen tid s.nd = _ :=
      (solsticeOpen_reads ⟨hs, hw, hf, hr, hsp, hso, ha, hb, hd, hc1, hc2, hc3⟩).trans (openPart_makes hwd he hi hsh)
    exact ⟨fun hm => moves_of_result (opens.trans (if_pos hm)) rfl
        ⟨endCmd_sol _ _ _ _ _, hasEnded_of_trk hcmd (by rfl) _ _ _, endCmd_mem _ _ _ _ _⟩,
      fun hm => moves_of_result (opens.trans (if_neg (ne_true_of_eq_false hm))) rfl rfl⟩
  · obtain ⟨htrk, hmem⟩ := foldl_setPart_keeps (announced s.nd c) (annHits s.nd c) s.nd
    exact ⟨(congrArg (Tbl.find? ·.parts k) (endCmd_sol _ _ _ _ _)).trans (find?_announced c hn hp), hasEnded_of_trk hs.1 htrk _ _ _,
      (endCmd_mem _ _ _ _ _).trans hmem⟩
  · rw [runStage_eq hs.1, cmdOf_setCmd_same]
    rfl

end Sys2Proof.MirrorsSolstice
end

section
/-! Membership as its commands read and replace it, and what their packets leave (R413–R416). -/

namespace Sys2Proof.MirrorsSolstice

open Sys2Proof.Machine Sys2Proof.Safety Sys2Proof.Organisation Sys2Proof.ContextRanges

/-! ### What stays of a node -/

section
variable (n : Node) (f : Membership → Membership)
@[simp] theorem onMemb_power : (onMemb n f).power = n.power := rfl
@[simp] theorem onMemb_nodeId : (onMemb n f).nodeId = n.nodeId := rfl
@[simp] theorem onMemb_memb : (onMemb n f).ml.memb = f n.ml.memb := rfl
@[simp] theorem onMemb_mem : (onMemb n f).mem = n.mem := rfl

/-- Two changes that make the same of the membership are one change of the node. -/
theorem onMemb_congr {f g : Membership → Membership} (h : f n.ml.memb = g n.ml.memb) : onMemb n f = onMemb n g := by
  simp only [onMemb, h]

end

section
variable (n : Node) (p : Packet)
@[simp] theorem settleSent_alm : (settleSent n p).alm = n.alm := by unfold settleSent; dsimp only; split <;> rfl
@[simp] theorem settleSent_power : (settleSent n p).power = n.power := by unfold settleSent; dsimp only; split <;> rfl
@[simp] theorem settleSent_nodeId : (settleSent n p).nodeId = n.nodeId := by unfold settleSent; dsimp only; split <;> rfl
@[simp] theorem settleSent_ml : (settleSent n p).ml = n.ml := by unfold settleSent; dsimp only; split <;> rfl
@[simp] theorem settleSent_ctxs : (settleSent n p).ctxs = n.ctxs := by unfold settleSent; dsimp only; split <;> rfl
end

/-- What sending packets keeps, sending a train of them keeps. -/
theorem sendMembers_keeps {α : Type} (g : Node → α) (h : ∀ n p why, g (sendPacket n p why) = g n) (n : Node) (dst : Nat)
    (ms : Tbl Member) : g (sendMembers n dst ms) = g n := by
  unfold sendMembers sendMgtTrain
  rw [h]
  exact foldl_keeps _ g (fun _ _ => h _ _ _) _ _

theorem tellSuspicion_keeps {α : Type} (g : Node → α) (h : ∀ n p why, g (sendPacket n p why) = g n) (n : Node) (node : Nat)
    (withdraw : Bool) : g (tellSuspicion n node withdraw) = g n := foldl_keeps _ g (fun _ _ => h _ _ _) _ _

@[simp] theorem tellSuspicion_ml (n : Node) (node : Nat) (withdraw : Bool) : (tellSuspicion n node withdraw).ml = n.ml :=
  tellSuspicion_keeps (·.ml) sendPacket_ml n node withdraw

@[simp] theorem tellSuspicion_alm (n : Node) (node : Nat) (withdraw : Bool) : (tellSuspicion n node withdraw).alm = n.alm :=
  tellSuspicion_keeps (·.alm) sendPacket_alm n node withdraw

/-- A beat that is sent changes pairs, and what sending changes. -/
theorem sendBeat_keeps {α : Type} (g : Node → α) (h : ∀ n p why, g (sendPacket n p why) = g n)
    (hq : ∀ n own peer q, g (setPair n own peer q) = g n) (own : Nat) (n : Node) (k : Nat) : g (sendBeat own n k) = g n :=
  (h _ _ _).trans (hq _ _ _ _)

/-! ### Keepers -/

/-- The keepers in force hang on the Almanac and on the nodes lost. -/
theorem keepersNow_of_kept {m n : Node} (ha : m.alm = n.alm) (hl : m.ml.memb.lost = n.ml.memb.lost) : keepersNow m = keepersNow n := by
  simp only [keepersNow, ha, hl]

theorem answers_of_kept {m n : Node} (ha : m.alm = n.alm) (hi : m.nodeId = n.nodeId) (hl : m.ml.memb.lost = n.ml.memb.lost)
    (acks : List Nat) : answers m acks = answers n acks := by
  simp only [answers, keepersNow_of_kept ha hl, hi]

theorem fromKeeper_iff (n : Node) (p : Packet) : fromKeeper n p = true ↔ p.src.toNat ∈ n.alm.membKeepers := List.contains_iff_mem

/-! ### Suspicions -/

/-- A member once a keeper's suspicion is entered or withdrawn. -/
def suspected (keeper : Nat) (withdraw : Bool) (m : Member) : Member :=
  { m with suspects := if withdraw then m.suspects.filter (· != keeper) else m.suspects.filter (· != keeper) ++ [keeper] }

theorem find?_markSuspect {n : Node} {x : Nat} {m : Member} (h : Tbl.find? n.ml.memb.members x = some m) (keeper : Nat)
    (withdraw : Bool) : Tbl.find? (markSuspect n x keeper withdraw).ml.memb.members x = some (suspected keeper withdraw m) := by
  simp only [markSuspect, onMemb_memb, Tbl.upd, h]
  exact Tbl.find?_put_same _ _ _

/-- A keeper suspects a member, and tells the others. -/
def tellsOf (n : Node) (x : Nat) : Node := tellSuspicion (markSuspect n x n.nodeId false) x false

theorem find?_tellsOf {n : Node} {x : Nat} {m : Member} (h : Tbl.find? n.ml.memb.members x = some m) :
    Tbl.find? (tellsOf n x).ml.memb.members x = some (suspected n.nodeId false m) := by
  rw [tellsOf, tellSuspicion_ml]
  exact find?_markSuspect h _ _

theorem suspected_new {keeper : Nat} {m : Member} (h : keeper ∉ m.suspects) :
    (suspected keeper false m).suspects = m.suspects ++ [keeper] := by
  have hf : m.suspects.filter (· != keeper) = m.suspects :=
    List.filter_eq_self.2 fun k hk => bne_iff_ne.2 fun e => h (e ▸ hk)
  simp only [suspected, hf, Bool.false_eq_true, if_false]

theorem declare_few {s : State} {x : Nat} {m : Member} (h : Tbl.find? s.nd.ml.memb.members x = some m) (hf : m.suspects.length < 2) :
    declare x s = s := by
  simp only [declare, h, hf, decide_true, Bool.true_or, if_true]

/-- Two keepers suspect the member: it is declared lost under the next VIEW. -/
theorem declare_two {s : State} {x : Nat} {m : Member} (h : Tbl.find? s.nd.ml.memb.members x = some m) (hf : 2 ≤ m.suspects.length)
    (hk : keepersShort s.nd = false) :
    let view := (s.nd.ml.memb.view + 1) % 2 ^ 32
    let n := onMemb s.nd fun m => { m with view := view }
    declare x s = applyLoss x view { s with nd := sendPacket n (mgtPacket n 0xFFF0 0xA4 [wordOf (x + view * 2 ^ 32)]) .protocol } := by
  simp only [declare, h, hk, decide_eq_false (Nat.not_lt.2 hf), Bool.or_self, Bool.false_eq_true, if_false]

section
variable {s : State} {y : Nat} {mb : Member} (hm : Tbl.find? s.nd.ml.memb.members y = some mb) (hk : isMembKeeper s.nd = true)
  (hs : s.nd.nodeId ∉ mb.suspects)
include hm hk hs

theorem suspect_tells : suspect y s = declare y { s with nd := tellsOf s.nd y } := by
  have hc : mb.suspects.contains s.nd.nodeId = false := by simpa using hs
  simp only [suspect, hm, hk, hc, Bool.not_true, Bool.or_self, Bool.false_eq_true, if_false, tellsOf]

theorem suspect_first (h0 : mb.suspects = []) : suspect y s = { s with nd := tellsOf s.nd y } := by
  rw [suspect_tells hm hk hs]
  exact declare_few (find?_tellsOf hm) (by rw [suspected_new hs, h0]; exact Nat.one_lt_two)

theorem suspect_second (h0 : mb.suspects ≠ []) (hk2 : keepersShort s.nd = false) :
    let view := (s.nd.ml.memb.view + 1) % 2 ^ 32
    let n := onMemb (tellsOf s.nd y) fun m => { m with view := view }
    suspect y s = applyLoss y view { s with nd := sendPacket n (mgtPacket n 0xFFF0 0xA4 [wordOf (y + view * 2 ^ 32)]) .protocol } := by
  have hmemb : (tellsOf s.nd y).ml.memb = (markSuspect s.nd y s.nd.nodeId false).ml.memb := by rw [tellsOf, tellSuspicion_ml]
  have hview : (tellsOf s.nd y).ml.memb.view = s.nd.ml.memb.view := congrArg (·.view) hmemb
  have hlen : 2 ≤ (suspected s.nd.nodeId false mb).suspects.length := by
    rw [suspected_new hs, List.length_append]
    exact Nat.succ_le_succ (List.length_pos_iff.2 h0)
  have hnow : keepersNow (tellsOf s.nd y) = keepersNow s.nd :=
    keepersNow_of_kept (tellSuspicion_alm _ _ _) (congrArg (·.lost) hmemb)
  have hshort : keepersShort (tellsOf s.nd y) = false := by
    rw [keepersShort, hnow]
    exact hk2
  rw [suspect_tells hm hk hs, ← hview]
  exact declare_two (find?_tellsOf hm) hlen hshort

end

theorem suspect_unknown {s : State} {y : Nat} (h : Tbl.find? s.nd.ml.memb.members y = none) : suspect y s = s := by
  simp only [suspect, h]

end Sys2Proof.MirrorsSolstice
end

section
/-! Members: joins, beats, suspicion and loss (O49). -/

namespace Sys2Proof.MirrorsSolstice

open Sys2Proof.Machine Sys2Proof.Safety Sys2Proof.Organisation Sys2Proof.ContextRanges

/-- A row, and what it comes to. -/
theorem runs_of_eq {i : Instr} {s r t : State} {P : State → Prop} (hi : exec i s = .next r) (hr : r = t) (hp : P t) : Runs i s P :=
  ⟨t, hi.trans (congrArg _ hr), hp⟩

theorem moves_of_eq {i : Instr} {s r : State} {m : Node} {P : Node → Prop} (hi : exec i s = .next r) (hr : r = { s with nd := m })
    (hp : P m) : Moves i s P := ⟨m, hi.trans (congrArg _ hr), hp⟩

/-! ### A membership packet comes to its command (R412) -/

/-- An MGT packet of some opcode has come to its command. -/
def MgtCame (n : Node) (p : Packet) (a : Node) (o : Nat) : Prop :=
  mgtServed n = true ∧ p.cls = 5 ∧ p.opcode.toNat = o ∧ Arrives n p a

theorem opcode_of_came {n a : Node} {p : Packet} {o : Nat} (h : MgtCame n p a o) : p.opcode.toNat = o := by
  obtain ⟨_, _, ho, _⟩ := h
  exact ho

section
variable {s : State} {p : Packet} {a : Node} {o : Nat} {i : Instr} {kind : Nat → Bool} (h : MgtCame s.nd p a o) (hk : kind o = true)
include h hk

theorem moves_of_came {f : Node → Packet → Node} {m : Node} {P : Node → Prop}
    (hi : exec i s = .next (onNode s (takeMgt kind f p))) (hf : f a p = m) (hp : P m) : Moves i s P := by
  obtain ⟨hs, hc, ho, hA⟩ := h
  exact moves_of_result ((takeMgt_came hs hc (ho ▸ hk) hA f).trans hf) hi hp

theorem runs_of_came {f : State → Packet → State} {t : State} {P : State → Prop}
    (hi : exec i s = .next (takeMgtState kind f p s)) (hf : f { s with nd := a } p = t) (hp : P t) : Runs i s P := by
  obtain ⟨hs, hc, ho, hA⟩ := h
  have hA : present s.nd p = (a, true) := hA
  refine runs_of_eq hi ?_ hp
  rw [← hf]
  simp only [takeMgtState, hs, hc, ho, hk, hA, bne_self_eq_false, Bool.not_true, Bool.or_self, Bool.false_eq_true, if_false, if_true]

theorem moves_of_cameState {f : State → Packet → State} {m : Node} {P : Node → Prop}
    (hi : exec i s = .next (takeMgtState kind f p s)) (hf : f { s with nd := a } p = { s with nd := m }) (hp : P m) : Moves i s P := by
  obtain ⟨t, ht, rfl⟩ := runs_of_came (P := (· = { s with nd := m })) h hk hi hf rfl
  exact ⟨m, ht, hp⟩

end

/-! ### Beats at a keeper (R414) -/

/-- The acknowledgement of a beat. -/
def ackBeat (n : Node) (p : Packet) : Node :=
  sendPacket n { withPayload (responseTo n p 5 stOK) (wordsToBytes [wordOf n.ml.memb.view]) with opcode := 0xA1 } .none

theorem takeBeat_member {n : Node} {p : Packet} {m : Member} (h : Tbl.find? n.ml.memb.members p.src.toNat = some m)
    (hk : isMembKeeper n = true) :
    takeBeat n p = ackBeat (if n.nodeId ∈ m.suspects then
      tellSuspicion (markSuspect n p.src.toNat n.nodeId true) p.src.toNat true else n) p := by
  simp only [takeBeat, h, hk, Bool.not_true, Bool.false_eq_true, if_false, List.contains_iff_mem, ackBeat]

theorem takeBeat_unknown {n : Node} {p : Packet} (h : Tbl.find? n.ml.memb.members p.src.toNat = none) : takeBeat n p = n := by
  simp only [takeBeat, h]

/-! ### Joins at a keeper (R413, R566) -/

/-- The word of a MEMB_JOIN. -/
def joinWord (p : Packet) : Word := wordAt (mgtWords p 1) 0

/-- The joiner is a member, of the domain that it gives. -/
def memberAdded (n : Node) (p : Packet) : Node :=
  onMemb (addMember n p.src.toNat (fieldOf (joinWord p) 15 0) (bitOf (joinWord p) 16)) fun m => { m with view := max m.view 1 }

theorem takeJoin_malformed {n : Node} {p : Packet} (h : ¬8 ≤ (payloadOf p).length) :
    takeJoin n p = logEvent n { otherEvent 6 17 with node := p.src.toNat } := by
  simp only [takeJoin, decide_eq_true (Nat.not_le.1 h), Bool.true_or, if_true]

section
variable {n : Node} {p : Packet} (hl : 8 ≤ (payloadOf p).length) (hf : fieldOf (joinWord p) 63 17 = 0) (hg : isGroup p.src.toNat = false)
include hl hf hg

theorem takeJoin_short (hk : keepersShort n = true) : takeJoin n p = n := by
  unfold joinWord at hf
  simp only [takeJoin, decide_eq_false (Nat.not_lt.2 hl), hf, hg, hk, bne_self_eq_false, Bool.or_self, Bool.true_or,
    Bool.false_eq_true, if_false, if_true]

/-- A keeper takes the joiner among the members; what else it does is to send packets. -/
theorem takeJoin_keeps {α : Type} (g : Node → α) (h : ∀ n p why, g (sendPacket n p why) = g n) (hs : keepersShort n = false)
    (hk : isMembKeeper n = true) : g (takeJoin n p) = g (memberAdded n p) := by
  unfold joinWord at hf
  simp only [takeJoin, decide_eq_false (Nat.not_lt.2 hl), hf, hg, hs, hk, bne_self_eq_false, Bool.or_self, Bool.true_or,
    Bool.not_true, Bool.false_eq_true, if_false]
  rw [sendMembers_keeps g h]
  split
  · rw [sendMembers_keeps g h, h]; rfl
  · rw [h]; rfl

theorem takeJoin_member (hs : keepersShort n = false) (hk : isMembKeeper n = true) :
    Tbl.find? (takeJoin n p).ml.memb.members p.src.toNat =
        some { domain := fieldOf (joinWord p) 15 0, sx96 := bitOf (joinWord p) 16, suspects := [] } ∧
      p.src.toNat ∉ (takeJoin n p).ml.memb.lost ∧ (takeJoin n p).ml.memb.view = max n.ml.memb.view 1 ∧
      (takeJoin n p).mem = n.mem ∧ (takeJoin n p).ctxs = n.ctxs ∧ (takeJoin n p).trk = n.trk := by
  have keeps {α : Type} (g : Node → α) (h : ∀ n p why, g (sendPacket n p why) = g n) : g (takeJoin n p) = g (memberAdded n p) :=
    takeJoin_keeps hl hf hg g h hs hk
  rw [keeps (·.ml) sendPacket_ml, keeps (·.mem) sendPacket_mem, keeps (·.ctxs) sendPacket_ctxs, keeps (·.trk) sendPacket_trk]
  exact ⟨Tbl.find?_put_same _ _ _, fun hx => by simpa using (List.mem_filter.1 hx).2, rfl, rfl, rfl, rfl⟩

end

/-! ### The module's own join and beats (R413, R414, R566) -/

section
variable {s : State} {p : Packet} {a : Node} {u : Unanswered} (h : MgtCame s.nd p a 0xA1)
include h

theorem membAck_unasked (hu : sentFor a p = none) : membAck p s = { s with nd := a } := by
  obtain ⟨hs, hc, ho, hA⟩ := h
  have hA : present s.nd p = (a, true) := hA
  have ho : p.opcode = 0xA1 := BitVec.eq_of_toNat_eq ho
  simp only [membAck, hs, hc, ho, hA, hu, bne_self_eq_false, Bool.not_true, Bool.or_self, Bool.false_eq_true, if_false]

variable (hu : sentFor a p = some u) (hk : p.src.toNat ∈ a.alm.membKeepers) (hd : p.dst.toNat = a.nodeId)
include hu hk hd

theorem membAck_keeper :
    membAck p s =
      if u.pkt.opcode = 0xA2 then
        joinAnswered { s with nd := settleSent a p } a.nodeId p.src.toNat (fieldOf (wordAt (mgtWords p 1) 0) 31 0)
      else if u.pkt.opcode = 0xA0 then { s with nd := beatAnswered (settleSent a p) p.src.toNat }
      else { s with nd := settleSent a p } := by
  obtain ⟨hs, hc, ho, hA⟩ := h
  have hA : present s.nd p = (a, true) := hA
  have ho : p.opcode = 0xA1 := BitVec.eq_of_toNat_eq ho
  have hf : fromKeeper (settleSent a p) p = true := (fromKeeper_iff _ _).2 (by rwa [settleSent_alm])
  simp only [membAck, hs, hc, ho, hA, hu, hf, hd, settleSent_nodeId, bne_self_eq_false, Bool.not_true, Bool.or_self,
    Bool.false_eq_true, if_false, decide_true, Bool.and_true, decide_eq_true_eq]

end

/-- The node once a keeper has answered its join. -/
def joinHeard (n : Node) (x : Nat) : Node := onMemb n fun m => { m with joinAcks := m.joinAcks ++ [x] }

theorem joinAnswered_own {s : State} {x : Nat} (hj : s.nd.ml.memb.joined = false) (hx : x ∉ s.nd.ml.memb.joinAcks) (view : Nat) :
    joinAnswered s s.nd.nodeId x view =
      if (answers s.nd (s.nd.ml.memb.joinAcks ++ [x])).length < 2 then { s with nd := joinHeard s.nd x }
      else becomeMember view { s with nd := joinHeard s.nd x } := by
  have he : onMemb s.nd (fun m => { m with joinAcks := if m.joinAcks.contains x = true then m.joinAcks else m.joinAcks ++ [x] }) =
      joinHeard s.nd x := onMemb_congr _ (by simp [hx])
  simp only [joinAnswered, hj, bne_self_eq_false, Bool.false_eq_true, if_false, he]
  rfl

/-- The membership of a module that has joined. -/
def memberNow (view : Nat) (m : Membership) : Membership :=
  { m with joined := true, groups := [0xFFF0, 0xFFF1], view := max 1 (max m.view view), missed := 0, beatAcks := [], beaten := false,
           suspended := false }

@[simp] theorem endTrial_pending (s : State) : (endTrial s).pending = s.pending := by
  unfold endTrial; dsimp only; (repeat' split) <;> rfl

@[simp] theorem endTrial_ml (s : State) : (endTrial s).nd.ml = s.nd.ml := by
  unfold endTrial; dsimp only; (repeat' split) <;> rfl

@[simp] theorem endTrial_power (s : State) : (endTrial s).nd.power = s.nd.power := by
  unfold endTrial; dsimp only; (repeat' split) <;> rfl

/-- Step 8 is the one in hand. -/
def joinsNow (p : Power) : Prop := p.state = 0 ∧ 7 ∈ p.stepsDone ∧ 8 ∉ p.stepsDone

/-- With step 8 in hand and no Standby waiting, a module that becomes a member is Ready. -/
theorem becomeMember_ready {s : State} (h : joinsNow s.nd.power) (hw : s.nd.power.standbyWaits = false) (view : Nat) :
    ∃ t : State, becomeMember view s = endTrial (setPower (completeStep t 9) fun p => { p with state := 2, step := 0 }) ∧
      t.nd.ml.memb = memberNow view s.nd.ml.memb ∧ t.pending = s.pending := by
  obtain ⟨h0, h7, h8⟩ := h
  refine ⟨completeStep (commitStaged { s with nd := onMemb s.nd (memberNow view) }) 8, ?_, ?_, ?_⟩
  · unfold becomeMember
    dsimp only
    rw [if_neg (by simp [h0, h7, h8]), stepEnded_of_not_waiting _ (by rw [completeStep_power]; exact hw),
      if_neg (by rw [completeStep_power]; exact h0 ▸ Nat.zero_ne_one)]
    rfl
  · rw [completeStep_nd_ml]; rfl
  · rw [completeStep_pending]; rfl

theorem becomeMember_later {s : State} (h : ¬joinsNow s.nd.power) (view : Nat) :
    becomeMember view s = { s with nd := onMemb s.nd (memberNow view) } := by
  unfold becomeMember
  dsimp only
  rw [if_pos]
  · rfl
  · simpa [joinsNow, imp_iff_not_or, or_assoc] using h

/-- A module that becomes a member has joined, whether or not that ends its start. -/
theorem becomeMember_joins {s : State} (hw : s.nd.power.standbyWaits = false) (view : Nat) :
    (becomeMember view s).nd.ml.memb = memberNow view s.nd.ml.memb ∧ (becomeMember view s).pending = s.pending ∧
      (joinsNow s.nd.power → (becomeMember view s).nd.power.state = 2) := by
  by_cases h : joinsNow s.nd.power
  · obtain ⟨t, ht, hm, hp⟩ := becomeMember_ready h hw view
    rw [ht, endTrial_ml, endTrial_power, endTrial_pending]
    exact ⟨(congrArg (·.memb) (completeStep_nd_ml t 9)).trans hm, (completeStep_pending t 9).trans hp, fun _ => rfl⟩
  · rw [becomeMember_later h]
    exact ⟨rfl, rfl, fun hj => absurd hj h⟩

/-- The node once a keeper has acknowledged its latest beat. -/
def beatHeard (n : Node) (x : Nat) : Node := onMemb n fun m => { m with beatAcks := m.beatAcks ++ [x] }

/-- The node once enough keepers have. -/
def beatMet (n : Node) (x : Nat) : Node :=
  onMemb n fun m => { m with beatAcks := m.beatAcks ++ [x], missed := 0, suspended := false }

theorem beatAnswered_new {n : Node} {x : Nat} (hx : x ∉ n.ml.memb.beatAcks) :
    beatAnswered n x =
      if (answers n (n.ml.memb.beatAcks ++ [x])).length < 2 then beatHeard n x
      else if n.ml.memb.suspended = true then settle (loseMirrors (beatMet n x)) else beatMet n x := by
  have he : onMemb n (fun m => { m with beatAcks := if m.beatAcks.contains x = true then m.beatAcks else m.beatAcks ++ [x] }) =
      beatHeard n x := onMemb_congr _ (by simp [hx])
  simp only [beatAnswered, he]
  rfl

theorem answers_settleSent (n : Node) (p : Packet) (acks : List Nat) : answers (settleSent n p) acks = answers n acks :=
  answers_of_kept (settleSent_alm _ _) (settleSent_nodeId _ _) (by rw [settleSent_ml]) acks

section
variable {s : State} {p : Packet} {a : Node} {u : Unanswered} (h : MgtCame s.nd p a 0xA1) (hu : sentFor a p = some u)
  (hk : p.src.toNat ∈ a.alm.membKeepers) (hd : p.dst.toNat = a.nodeId)
include h hu hk hd

/-- A further keeper has answered the module's join. -/
theorem membAck_join (ho : u.pkt.opcode = 0xA2) (hj : a.ml.memb.joined = false) (hx : p.src.toNat ∉ a.ml.memb.joinAcks) :
    membAck p s =
      if (answers a (a.ml.memb.joinAcks ++ [p.src.toNat])).length < 2 then { s with nd := joinHeard (settleSent a p) p.src.toNat }
      else becomeMember (fieldOf (wordAt (mgtWords p 1) 0) 31 0) { s with nd := joinHeard (settleSent a p) p.src.toNat } := by
  have hown := joinAnswered_own (s := { s with nd := settleSent a p }) (x := p.src.toNat) (by rwa [settleSent_ml])
    (by rwa [settleSent_ml]) (fieldOf (wordAt (mgtWords p 1) 0) 31 0)
  rw [settleSent_nodeId, settleSent_ml, answers_settleSent] at hown
  rw [membAck_keeper h hu hk hd, if_pos ho, hown]

/-- A further keeper has acknowledged the module's latest beat: with two the module is heard, and acts on what it missed. -/
theorem membAck_beat (ho : u.pkt.opcode = 0xA0) (hx : p.src.toNat ∉ a.ml.memb.beatAcks) {m : Node}
    (hm : (if (answers a (a.ml.memb.beatAcks ++ [p.src.toNat])).length < 2 then beatHeard (settleSent a p) p.src.toNat
      else if a.ml.memb.suspended = true then settle (loseMirrors (beatMet (settleSent a p) p.src.toNat))
      else beatMet (settleSent a p) p.src.toNat) = m) : membAck p s = { s with nd := m } := by
  have hnew := beatAnswered_new (n := settleSent a p) (x := p.src.toNat) (by rwa [settleSent_ml])
  rw [settleSent_ml, answers_settleSent, hm] at hnew
  rw [membAck_keeper h hu hk hd, if_neg (by rw [ho]; decide), if_pos ho, hnew]

end

/-! ### BEAT_PERIOD (R413, R414) -/

/-- Beats in a row that two keepers have not acknowledged, once the last one is judged. -/
def missedBeats (n : Node) : Nat :=
  let b := n.ml.memb
  if b.beaten && decide ((answers n b.beatAcks).length < 2) then b.missed + 1 else if b.beaten then 0 else b.missed

theorem missedBeats_eq (n : Node) :
    missedBeats n = if n.ml.memb.beaten = true ∧ (answers n n.ml.memb.beatAcks).length < 2 then n.ml.memb.missed + 1
      else if n.ml.memb.beaten then 0 else n.ml.memb.missed := by
  simp only [missedBeats, Bool.and_eq_true, decide_eq_true_eq]

/-- The node once its last beat is judged. -/
def beatJudged (n : Node) : Node :=
  onMemb n fun m => { m with
    missed := missedBeats n, beatAcks := [], beaten := true, suspended := m.suspended || decide (beatMiss n ≤ missedBeats n) }

/-- The next beats go to the keepers, the bridge's own among them. -/
def sendBeats (n : Node) : Node :=
  let m := ((keepersNow n).filter (· != n.nodeId)).foldl (sendBeat n.nodeId) n
  if bridgeId m != 0 && m.bridge.joined && m.bridge.hostUp then (keepersNow m).foldl (sendBeat (bridgeId m)) m else m

theorem sendBeats_keeps {α : Type} (g : Node → α) (h : ∀ n p why, g (sendPacket n p why) = g n)
    (hq : ∀ n own peer q, g (setPair n own peer q) = g n) (n : Node) : g (sendBeats n) = g n := by
  have hb (own : Nat) (l : List Nat) (n : Node) : g (l.foldl (sendBeat own) n) = g n := foldl_keeps _ g (sendBeat_keeps g h hq own) l n
  unfold sendBeats
  dsimp only
  split
  · rw [hb, hb]
  · rw [hb]

theorem beatPeriod_unjoined {n : Node} (h : n.ml.memb.joined = false) : beatPeriod n = n := by
  simp only [beatPeriod, h, Bool.not_false, Bool.true_or, if_true]

/-- A member that is not on its way out judges its last beat, and sends the next ones. -/
theorem beatPeriod_member {n : Node} (hj : n.ml.memb.joined = true) (hf : n.power.failed = false) (hr : n.power.refclk = true)
    (hs : 2 ≤ n.power.state) (he : n.power.entry < 4) : beatPeriod n = sendBeats (beatJudged n) :=
  if_neg (by simp [hj, hf, hr, he]; exact hs)

/-! ### Reports and declared losses (R415, R416) -/

theorem takeReport_member {s : State} {p : Packet} (hl : 8 ≤ (payloadOf p).length)
    (hf : fieldOf (wordAt (mgtWords p 1) 0) 63 16 = 0) (hm : (Tbl.find? s.nd.ml.memb.members p.src.toNat).isSome = true) :
    takeReport s p = suspect (fieldOf (wordAt (mgtWords p 1) 0) 15 0) s := by
  simp only [takeReport, decide_eq_false (Nat.not_lt.2 hl), hf, hm, bne_self_eq_false, Bool.or_true, Bool.not_true, Bool.or_self,
    Bool.false_eq_true, if_false]

theorem takeReport_unknown {s : State} {p : Packet} (hx : p.src.toNat ≠ s.nd.nodeId)
    (hm : Tbl.find? s.nd.ml.memb.members p.src.toNat = none) :
    takeReport s p = { s with nd := logEvent s.nd { otherEvent 6 19 with node := p.src.toNat } } := by
  simp only [takeReport, hm, beq_eq_false_iff_ne.2 hx, Option.isSome_none, Bool.or_self, Bool.not_false, Bool.or_true, if_true]

section
variable {s : State} {p : Packet}

theorem takeLost_foreign (h : p.src.toNat ∉ s.nd.alm.membKeepers) : takeLost s p = { s with nd := foreignMgt s.nd p } := by
  simp only [takeLost, Bool.eq_false_iff.2 (mt (fromKeeper_iff s.nd p).1 h), Bool.not_false, if_true]

theorem takeAgreement_foreign (h : p.src.toNat ∉ s.nd.alm.membKeepers) : takeAgreement s p = { s with nd := foreignMgt s.nd p } := by
  simp only [takeAgreement, Bool.eq_false_iff.2 (mt (fromKeeper_iff s.nd p).1 h), Bool.not_false, if_true]

variable (h : p.src.toNat ∈ s.nd.alm.membKeepers)
include h

theorem takeLost_keeper :
    takeLost s p = applyLoss (fieldOf (wordAt (mgtWords p 1) 0) 15 0) (fieldOf (wordAt (mgtWords p 1) 0) 63 32) s := by
  simp only [takeLost, (fromKeeper_iff s.nd p).2 h, Bool.not_true, Bool.false_eq_true, if_false]

theorem takeAgreement_suspicion (ho : p.opcode.toNat = 0xA5) (hk : isMembKeeper s.nd = true) :
    takeAgreement s p = declare (fieldOf (wordAt (mgtWords p 1) 0) 15 0)
      { s with nd := markSuspect s.nd (fieldOf (wordAt (mgtWords p 1) 0) 15 0) p.src.toNat (bitOf (wordAt (mgtWords p 1) 0) 16) } := by
  have ho : p.opcode = 0xA5 := BitVec.eq_of_toNat_eq ho
  simp only [takeAgreement, (fromKeeper_iff s.nd p).2 h, ho, hk, Bool.not_true, Bool.false_eq_true, if_false, if_true]

theorem takeAgreement_members {t : Node} {bs : Bytes} (ho : p.opcode.toNat = 0xA6) (ht : takeTrain s.nd p = (t, some bs)) :
    takeAgreement s p = { s with nd := takeMembers t bs } := by
  have h5 : p.opcode ≠ 0xA5 := fun e => by rw [e] at ho; exact absurd ho (by decide)
  have ho : p.opcode = 0xA6 := BitVec.eq_of_toNat_eq ho
  simp only [takeAgreement, (fromKeeper_iff s.nd p).2 h, if_neg h5, if_pos ho, ht, Bool.not_true, Bool.false_eq_true, if_false]

end

/-- The suspicion of one keeper is not enough for a loss. -/
theorem suspected_few {m : Member} (h : m.suspects = []) (keeper : Nat) (withdraw : Bool) :
    (suspected keeper withdraw m).suspects.length < 2 := by
  cases withdraw <;> simp [suspected, h]

/-- The node under the VIEW of a declared loss. -/
def viewed (n : Node) (view : Nat) : Node := onMemb n fun m => { m with view := if serialLt 32 m.view view then view else m.view }

/-- Failing raises the alert FAILED. -/
theorem bitOf_alert_failModule {n : Node} (h : n.power.failed = false) (cause d0 : Nat) :
    bitOf (failModule n cause d0).log.alert alFailed = true := by
  simp only [failModule, h, Bool.false_eq_true, if_false, reportNode_log, logEvent_alert]
  exact MemoryTiers.bitOf_alert_raiseAlert _ (by decide)

/-- A module whose own loss is declared takes the VIEW, leaves the members and fails. -/
theorem applyLoss_own {s : State} (he : s.nd.power.entry ≠ 4) (view : Nat) :
    applyLoss s.nd.nodeId view s =
      { s with nd := failModule (onMemb (viewed s.nd view) fun m => { m with joined := false }) 9 s.nd.nodeId } := by
  have hi : s.nd.nodeId = (viewed s.nd view).nodeId := (onMemb_nodeId _ _).symm
  have he' : (viewed s.nd view).power.entry ≠ 4 := by rwa [viewed, onMemb_power]
  exact (if_pos hi).trans (if_neg he')

/-- It is not a member any more, and its failure is alerted. -/
theorem lostSelf_failed {n : Node} (hf : n.power.failed = false) (view : Nat) :
    let m := failModule (onMemb (viewed n view) fun m => { m with joined := false }) 9 n.nodeId
    m.power.failed = true ∧ m.ml.memb.joined = false ∧ bitOf m.log.alert alFailed = true ∧ m.mem = n.mem := by
  dsimp only
  rw [failModule_power, failModule_ml, failModule_mem]
  refine ⟨rfl, ?_, bitOf_alert_failModule ?_ _ _, ?_⟩
  · rw [onMemb_memb]
  · rwa [onMemb_power, viewed, onMemb_power]
  · rw [onMemb_mem, viewed, onMemb_mem]

/-! ### The rows together -/

/-- Settles O49: each clause is one branch of its row's meaning, which the lemmas above name. The layouts of 0xA5 and 0xA6, a keeper that
counts itself, and losses declared by the Almanac's keepers alone are the model's choice (log 42, 51, 52). -/
theorem membersJoinAndAreLost : Obligations.MembersJoinAndAreLost := by
  unfold Obligations.MembersJoinAndAreLost
  intro p a x y mb u s on came w word memb tell is keeper acked ackers marked
  refine ⟨?_, ?_, ?_, ?_, ?_, ?_, ?_, ?_, ?_, ?_, ?_, ?_, ?_, ?_, ?_, ?_, ?_, ?_, ?_, ?_, ?_, ?_, ?_, ?_⟩
  · rintro ⟨h, rfl⟩ hm hk hs
    exact moves_of_came h rfl rfl ((takeBeat_member hm hk).trans (congrArg (ackBeat · p) (if_neg hs))) rfl
  · rintro ⟨h, rfl⟩ hm hk hs
    exact moves_of_came h rfl rfl ((takeBeat_member hm hk).trans (congrArg (ackBeat · p) (if_pos hs))) rfl
  · rintro ⟨h, rfl⟩ hm
    exact moves_of_came h rfl rfl (takeBeat_unknown hm) rfl
  · rintro ⟨h, rfl⟩ hl
    exact moves_of_came h rfl rfl (takeJoin_malformed hl) rfl
  · rintro ⟨h, rfl⟩ hl hf hg hs
    exact moves_of_came h rfl rfl (takeJoin_short hl hf hg hs) rfl
  · rintro ⟨h, rfl⟩ hl hf hg hs hk
    exact moves_of_came h rfl rfl rfl (takeJoin_member hl hf hg hs hk)
  · rintro ⟨h, hu, rfl, hk, hd⟩ ho hj hx hf
    refine runs_of_eq rfl ((membAck_join h hu hk hd ho hj hx).trans (if_pos hf)) ⟨?_, settleSent_power _ _, rfl, rfl⟩
    rw [joinHeard, onMemb_memb, settleSent_ml]
  · rintro ⟨h, hu, rfl, hk, hd⟩ ho hj hx hf hw
    obtain ⟨hm, hp, hr⟩ := becomeMember_joins (s := { s with nd := joinHeard (settleSent a p) p.src.toNat })
      (by rwa [joinHeard, onMemb_power, settleSent_power]) (fieldOf w 31 0)
    refine runs_of_eq rfl ((membAck_join h hu hk hd ho hj hx).trans (if_neg (Nat.not_lt.2 hf))) ?_
    rw [hm, hp, joinHeard, onMemb_memb, settleSent_ml]
    refine ⟨rfl, rfl, rfl, rfl, rfl, fun h0 h7 h8 => hr ?_⟩
    rw [joinHeard, onMemb_power, settleSent_power]
    exact ⟨h0, h7, h8⟩
  · rintro ⟨h, hu, rfl, hk, hd⟩ ho hx hf
    refine moves_of_eq rfl (membAck_beat h hu hk hd ho hx (if_pos hf)) ⟨?_, MemoryTiers.settleSent_mem _ _⟩
    rw [beatHeard, onMemb_memb, settleSent_ml]
  · rintro ⟨h, hu, rfl, hk, hd⟩ ho hx hf hsus
    refine moves_of_eq rfl (membAck_beat h hu hk hd ho hx ((if_neg (Nat.not_lt.2 hf)).trans (if_neg (ne_true_of_eq_false hsus))))
      ⟨?_, MemoryTiers.settleSent_mem _ _⟩
    rw [beatMet, onMemb_memb, settleSent_ml]
  · rintro ⟨h, hu, rfl, hk, hd⟩ ho hx hf hsus
    refine moves_of_eq rfl (membAck_beat h hu hk hd ho hx ((if_neg (Nat.not_lt.2 hf)).trans (if_pos hsus)))
      ⟨beatMet (settleSent a p) p.src.toNat, ?_, MemoryTiers.settleSent_mem _ _, settleSent_ctxs _ _, rfl⟩
    rw [beatMet, onMemb_memb, settleSent_ml]
  · exact fun h hu => moves_of_eq rfl (membAck_unasked h hu) rfl
  · exact fun hj => moves_of_result (beatPeriod_unjoined hj) rfl rfl
  · intro hj hf hr hs he
    refine moves_of_result (beatPeriod_member hj hf hr hs he) rfl ?_
    rw [sendBeats_keeps (·.ml) sendPacket_ml setPair_ml, sendBeats_keeps (·.mem) sendPacket_mem setPair_mem,
      sendBeats_keeps (·.trk) sendPacket_trk setPair_trk, beatJudged, onMemb_memb, missedBeats_eq]
    exact ⟨rfl, rfl, rfl⟩
  · rintro z rfl hm hk hs h0
    exact moves_of_eq rfl (suspect_first hm hk hs h0) rfl
  · rintro z rfl hm hk hs h0 hk2
    exact runs_of_eq rfl (suspect_second hm hk hs h0 hk2) rfl
  · exact fun z hm => moves_of_eq rfl (suspect_unknown hm) rfl
  · rintro ⟨h, rfl⟩ hl hf rfl hx hm hk h0
    exact moves_of_cameState h rfl rfl ((takeReport_member hl hf hx).trans (suspect_first hm hk (h0 ▸ List.not_mem_nil) h0)) rfl
  · rintro ⟨h, rfl⟩ hx hm
    exact moves_of_cameState h rfl rfl (takeReport_unknown hx hm) rfl
  · rintro o (rfl | rfl | rfl) ⟨h, rfl⟩ hk
    · exact moves_of_cameState h rfl rfl (takeLost_foreign hk) rfl
    · exact moves_of_cameState h rfl rfl (takeAgreement_foreign hk) rfl
    · exact moves_of_cameState h rfl rfl (takeAgreement_foreign hk) rfl
  · rintro ⟨h, rfl⟩ hk hown he hf
    have hlost : takeLost { s with nd := a } p =
        applyLoss a.nodeId (fieldOf w 63 32) { s with nd := a } := (takeLost_keeper hk).trans (by rw [hown])
    exact moves_of_cameState h rfl rfl (hlost.trans (applyLoss_own (s := { s with nd := a }) he _)) (lostSelf_failed hf _)
  · rintro ⟨h, rfl⟩ hk
    exact runs_of_came h rfl rfl (takeLost_keeper hk) rfl
  · rintro ⟨h, rfl⟩ hk hm rfl hx h0
    exact moves_of_cameState h rfl rfl ((takeAgreement_suspicion hk (opcode_of_came h) hm).trans
      (declare_few (find?_markSuspect hx _ _) (suspected_few h0 _ _))) rfl
  · rintro t bs ⟨h, rfl⟩ hk ht
    exact moves_of_cameState h rfl rfl (takeAgreement_members hk (opcode_of_came h) ht) rfl

end Sys2Proof.MirrorsSolstice
end

section
/-! Leaps: how they start and stop, what their messages come to, and how they go on to their proposal (O29). -/

namespace Sys2Proof.CompositionLeap

open Sys2Proof.Machine Sys2Proof.Safety Sys2Proof.Organisation Sys2Proof.ContextRanges Sys2Proof.Visibility Sys2Proof.MirrorsSolstice

/-! ### Leaps as read and replaced -/

@[simp] theorem endCmd_ml (n : Node) (tid st : Nat) (r0 w3 : Word) : (endCmd n tid st r0 w3).ml = n.ml := by
  unfold endCmd; split <;> rfl

/-- A refused command has ended, and neither the Leaps nor the kept maps have changed. -/
theorem refuseCmd_keepsLeaps {n : Node} {tid : Nat} {c : Cmd} (h : cmdOf n tid = some c) (st : Nat) :
    HasEnded (refuseCmd n tid st) tid st 0 0 ∧ (refuseCmd n tid st).ml = n.ml :=
  ⟨hasEnded_endCmd h _ _ _, endCmd_ml _ _ _ _ _⟩

@[simp] theorem leapOf_setLeap_same (n : Node) (k : Nat) (l : LeapOut) : leapOf (setLeap n k l) k = some l :=
  Tbl.find?_put_same _ _ _

@[simp] theorem leapOf_addLeap (n : Node) (l : LeapOut) : leapOf (addLeap n l) n.ml.nextLeap = some l :=
  Tbl.find?_put_same _ _ _

theorem leapOf_of_ml {m n : Node} (h : m.ml = n.ml) (k : Nat) : leapOf m k = leapOf n k := by simp only [leapOf, h]

theorem setLeap_setLeap (n : Node) (k : Nat) (l l' : LeapOut) : setLeap (setLeap n k l) k l' = setLeap n k l' := by
  simp only [setLeap, tblPut_put]

/-- A value put in the place of another that gives the same leaves what a table's values give in all. -/
theorem flatMap_put {α β : Type} {t : Tbl α} {k : Nat} {v w : α} (hw : Tbl.find? t k = some w) (f : α → List β)
    (hf : f w = []) (hv : f v = []) : ((Tbl.put t k v).flatMap fun e => f e.2) = t.flatMap fun e => f e.2 := by
  induction t with
  | nil => cases hw
  | cons x t ih =>
    obtain ⟨j, u⟩ := x
    unfold Tbl.put
    split
    · rw [List.flatMap_cons, hv, List.nil_append]
    · split
      · next h =>
        have hu : u = w := Option.some.inj ((if_pos h.symm).symm.trans hw)
        rw [List.flatMap_cons, List.flatMap_cons, hv, hu, hf]
      · next h =>
        rw [List.flatMap_cons, List.flatMap_cons, ih ((if_neg (Ne.symm h)).symm.trans hw)]

/-- A Leap that fills no local spans may go on where nothing waits. -/
theorem quiet_setLeap {n : Node} (h : Quiet n) {k : Nat} {l l' : LeapOut} (hk : leapOf n k = some l) (hl : l.locals_ = [])
    (hl' : l'.locals_ = []) : Quiet (setLeap n k l') := by
  have outs : ((setLeap n k l').ml.outs.flatMap fun e => e.2.locals_.map fun r => (e.2.ctx, r)) =
      n.ml.outs.flatMap fun e => e.2.locals_.map fun r => (e.2.ctx, r) :=
    flatMap_put hk (fun x : LeapOut => x.locals_.map fun r => (x.ctx, r)) (by simp [hl]) (by simp [hl'])
  have spans (line : Nat) : spanOf (setLeap n k l') line = spanOf n line := by
    unfold spanOf spansInUse
    rw [outs]
    rfl
  obtain ⟨h1, h2, h3, h4, h5, h6, h7⟩ := h
  refine ⟨h1, h2, h3, h4, h5, h6, fun b hb => ?_⟩
  rw [spans]
  exact h7 b hb

/-- A train leaves what its packets leave. -/
theorem sendMgtTrain_keeps {α : Type} (g : Node → α) (h : ∀ n p why, g (sendPacket n p why) = g n) (n : Node) (base : Packet)
    (bs : Bytes) (why : SentFor) : g (sendMgtTrain n base bs why) = g n :=
  (h _ _ _).trans (foldl_keeps _ g (fun _ _ => h _ _ _) _ _)

/-- LEAP_OPEN leaves what its packets leave. -/
theorem sendLeapOpen_keeps {α : Type} (g : Node → α) (h : ∀ n p why, g (sendPacket n p why) = g n) (n : Node) (l : LeapOut)
    (withRanges : Bool) (why : SentFor) : g (sendLeapOpen n l withRanges why) = g n := sendMgtTrain_keeps g h _ _ _ _

/-! ### LEAP_START (R423) -/

/-- The Leap that a LEAP_START asks for. -/
def leapWanted (tid : Nat) (c : Cmd) : LeapOut := { leapAsked (cmdCtx c) (c.desc.drop 3) with tid := tid }

section
variable {n : Node} {tid : Nat} {c : Cmd} (h : CanStart n tid 0x28 c) (hw : WellCommanded n c)
  (hb : (cmdCtx c == 0 || leapReserved (c.desc.drop 3) false) = false) (hm : mapAbsent n (cmdCtx c) = false)
include h hb hm

theorem leapStart_checked : leapStart tid n =
    checked n tid c (leapInvalid n (leapWanted tid c)) [(decide (16 ≤ n.ml.outs.length), stNoResource)] fun _ =>
      beginLeap (runStage n tid 1 []) (leapWanted tid c) false := by
  rw [leapStart, startCmd_of_canStart h]
  simp only [hb, hm, Bool.and_false, Bool.false_eq_true, if_false, Bool.false_or]
  rfl

theorem leapStart_invalid (hi : leapInvalid n (leapWanted tid c) = true) : leapStart tid n = refuseCmd n tid stInvalid :=
  (leapStart_checked h hb hm).trans (checked_invalid _ _ _ hi _ _)

include hw

theorem leapStart_full (hi : leapInvalid n (leapWanted tid c) = false) (hf : 16 ≤ n.ml.outs.length) :
    leapStart tid n = refuseCmd n tid stNoResource :=
  (leapStart_checked h hb hm).trans (checked_later hw tid hi (by simp [firstStatus, hf]) _)

theorem leapStart_begins (hi : leapInvalid n (leapWanted tid c) = false) (hf : n.ml.outs.length < 16) :
    leapStart tid n = beginLeap (runStage n tid 1 []) (leapWanted tid c) false :=
  (leapStart_checked h hb hm).trans (checked_passes hw tid hi (by simp [firstStatus, Nat.not_le.2 hf]) _)

end

/-- A command's Leap to another module, which is not lost, opens there. -/
theorem beginLeap_opens {n : Node} {tid : Nat} {c : Cmd} {l : LeapOut} (h : cmdOf n tid = some c) (hl : isLocalLeap n l = false)
    (ht : isLost n l.target = false) : beginLeap (runStage n tid 1 []) l false =
      sendLeapOpen (addLeap (runStage n tid 1 []) l) l true (.leap n.ml.nextLeap) := by
  rw [runStage_eq h]
  exact (if_neg (ne_true_of_eq_false hl)).trans (if_neg (ne_true_of_eq_false ht))

/-- With LEAP_OPEN out, the Leap is under way, its command runs, and the memory is as it was. -/
theorem leapOpened {n : Node} {tid : Nat} {c : Cmd} (h : cmdOf n tid = some c) (l : LeapOut) (why : SentFor) :
    let m := sendLeapOpen (addLeap (runStage n tid 1 []) l) l true why
    leapOf m n.ml.nextLeap = some l ∧ m.ml.nextLeap = n.ml.nextLeap + 1 ∧ (cmdOf m tid).map (·.phase) = some .running ∧
      m.mem = n.mem := by
  dsimp only
  have hml := sendLeapOpen_keeps (·.ml) sendPacket_ml (addLeap (runStage n tid 1 []) l) l true why
  have htrk := sendLeapOpen_keeps (·.trk) sendPacket_trk (addLeap (runStage n tid 1 []) l) l true why
  rw [leapOf_of_ml hml, hml, cmdOf_of_trk htrk, sendLeapOpen_keeps (·.mem) sendPacket_mem, runStage_eq h]
  exact ⟨leapOf_addLeap _ _, rfl, congrArg (Option.map (·.phase)) (cmdOf_setCmd_same n tid _), rfl⟩

/-! ### LEAP_ABORT (R427) -/

theorem leapAbort_named {n : Node} {tid k : Nat} {c : Cmd} {l : LeapOut} (h : CanStart n tid 0x29 c) (hw : WellCommanded n c)
    (hk : leapNamed n c = some (k, l)) (ha : l.abort = none)
    (hb : (pvaBad (dword c 3) || dword c 5 != 0 || dword c 6 != 0 || dword c 7 != 0) = false) :
    leapAbort tid n =
      if l.step = 7 then setLeap (runStage n tid 1 []) k { l with abort := some tid }
      else endLeap (setLeap (runStage n tid 1 []) k { l with abort := some tid }) k stAborted := by
  rw [leapAbort, startCmd_of_canStart h]
  simp only [hk]
  exact checked_passes hw tid (by rw [hb, ha]; rfl) rfl _

theorem leapAbort_unnamed {n : Node} {tid : Nat} {c : Cmd} (h : CanStart n tid 0x29 c) (hk : leapNamed n c = none) :
    leapAbort tid n = refuseCmd n tid stInvalid := by
  rw [leapAbort, startCmd_of_canStart h]
  simp only [hk]
  exact checked_invalid _ _ _ rfl _ _

/-! ### LEAP_ORDER (R430) -/

/-- The context of a LEAP_ORDER. -/
def orderCtx (p : Packet) : Nat := fieldOf (wordAt (mgtWords p 6) 5) 15 0

/-- A LEAP_ORDER leaves its target to the module. -/
def orderSeeks (p : Packet) : Bool := fieldOf (wordAt (mgtWords p 6) 2) 15 0 == 0

/-- The Leap that a LEAP_ORDER asks for. -/
def orderedLeap (p : Packet) : LeapOut :=
  { leapAsked (orderCtx p) ((mgtWords p 6).take 5) with order := some (p.src.toNat, p.seq.toNat, p.tag.toNat) }

/-- A LEAP_ORDER of a module that is formed as R430 says. -/
structure OrderFormed (n : Node) (p : Packet) : Prop where
  sender : isModule n p.src.toNat = true
  whole : 48 ≤ (payloadOf p).length
  ctx : orderCtx p ≠ 0
  clear : fieldOf (wordAt (mgtWords p 6) 5) 63 16 = 0
  words : leapReserved ((mgtWords p 6).take 5) true = false
  seeks : orderSeeks p = true → (orderedLeap p).asMirror = true
  known : mapAbsent n (orderCtx p) = false

/-- The words of a LEAP_ORDER are not what R430 says. -/
def orderBad (p : Packet) : Bool :=
  (payloadOf p).length < 48 || orderCtx p == 0 || fieldOf (wordAt (mgtWords p 6) 5) 63 16 != 0 ||
    leapReserved ((mgtWords p 6).take 5) true || (orderSeeks p && !(orderedLeap p).asMirror)

theorem orderBad_formed {n : Node} {p : Packet} (h : OrderFormed n p) : orderBad p = false := by
  obtain ⟨_, hl, hc, hf, hr, hk, _⟩ := h
  have hk : (orderSeeks p && !(orderedLeap p).asMirror) = false := by
    cases hq : orderSeeks p
    · rfl
    · rw [hk hq]; rfl
  simp only [orderBad, decide_eq_false (Nat.not_lt.2 hl), beq_eq_false_iff_ne.2 hc, hf, hr, hk, bne_self_eq_false, Bool.or_self]

theorem takeOrder_formed {n : Node} {p : Packet} (h : OrderFormed n p) : takeOrder n p =
    if !ctxActive n (orderCtx p) then mapResult n p stDenied 0
    else if orderBad p || leapInvalid n (orderedLeap p) then mapResult n p stInvalid (curGen n (orderCtx p))
    else if 16 ≤ n.ml.outs.length then mapResult n p stNoResource (curGen n (orderCtx p))
    else beginLeap n (orderedLeap p) (orderSeeks p) :=
  (if_neg (by rw [h.sender]; decide)).trans (if_neg (by
    rw [show mapAbsent n (fieldOf (wordAt (mgtWords p 6) 5) 15 0) = false from h.known, Bool.and_false]
    decide))

section
variable {n : Node} {p : Packet} (h : OrderFormed n p)
include h

theorem takeOrder_denied (hx : ctxActive n (orderCtx p) = false) : takeOrder n p = mapResult n p stDenied 0 :=
  (takeOrder_formed h).trans (if_pos (by rw [hx]; rfl))

variable (hx : ctxActive n (orderCtx p) = true)
include hx

theorem takeOrder_invalid (hi : leapInvalid n (orderedLeap p) = true) :
    takeOrder n p = mapResult n p stInvalid (curGen n (orderCtx p)) := by
  rw [takeOrder_formed h, if_neg (by rw [hx]; decide), orderBad_formed h, Bool.false_or, if_pos hi]

theorem takeOrder_begins (hi : leapInvalid n (orderedLeap p) = false) (hn : n.ml.outs.length < 16) :
    takeOrder n p = beginLeap n (orderedLeap p) (orderSeeks p) := by
  rw [takeOrder_formed h, if_neg (by rw [hx]; decide), orderBad_formed h, Bool.false_or, if_neg (ne_true_of_eq_false hi),
    if_neg (Nat.not_le.2 hn)]

end

/-! ### LEAP_OPEN at the target (R423, R424, R435) -/

@[simp] theorem leapReply_ctxs (n : Node) (p : Packet) (st : Nat) : (leapReply n p st).ctxs = n.ctxs := sendPacket_ctxs _ _ _

theorem leapOpenTrain_whole {n b : Node} {p : Packet} {bs : Bytes} (hm : isModule n p.src.toNat = true)
    (ht : takeTrain n p = (b, some bs)) : leapOpenTrain n p = takeOpen b p (openAsk bs) := by
  simp only [leapOpenTrain, hm, ht, Bool.not_true, Bool.false_eq_true, if_false]

theorem mem_addRevs {n : Node} {vs : List Revocation} {v : Revocation} (hv : v ∈ vs) : v ∈ (addRevs n vs).ctxs.revs := by
  by_cases hn : v ∈ n.ctxs.revs
  · exact List.mem_append_left _ hn
  · exact List.mem_append_right _ (List.mem_filter.2 ⟨hv, by simp [hn]⟩)

section
variable {n : Node} {p : Packet} {o : OpenAsk}

theorem takeOpen_revs (hc : o.chunks = 0) (hr : (addRevs n o.revs).ctxs.revs.length ≤ 1024) :
    takeOpen n p o = leapReply (addRevs n o.revs) p stOK := by
  simp only [takeOpen, if_pos hc, if_neg (Nat.not_lt.2 hr)]

variable (hc : 0 < o.chunks) (hr : o.ranges ≠ [])
include hc hr

theorem takeOpen_refused {st : Nat} (h : openRefusal n p.src.toNat o = some st) : takeOpen n p o = leapReply n p st := by
  simp only [takeOpen, if_neg (Nat.ne_of_gt hc), List.isEmpty_eq_false_iff.2 hr, Bool.false_and, Bool.false_eq_true, if_false, h]

theorem takeOpen_accepted {rs : List Range} (h : openRefusal n p.src.toNat o = none)
    (hs : leapSpans n (arrivingRanges o p.src.toNat) o.tclass o.tcomp = some rs) :
    takeOpen n p o = leapReply (acceptOpen n p.src.toNat o rs) p stOK := by
  simp only [takeOpen, if_neg (Nat.ne_of_gt hc), List.isEmpty_eq_false_iff.2 hr, Bool.false_and, Bool.false_eq_true, if_false, h, hs]

end

/-- A span is found for a range in the class that it is asked for in. -/
theorem allocSpan_resClass {n : Node} {others : List Range} {r x : Range} (h : allocSpan n others r = some x) :
    x.resClass = r.resClass := by
  simp only [allocSpan, Option.map_eq_some_iff] at h
  obtain ⟨o, _, rfl⟩ := h
  rfl

/-- The spans found so far, with one for a further range. -/
def withSpan (n : Node) (a : Option (List Range)) (r : Range) : Option (List Range) :=
  a.bind fun got => (allocSpan n got r).map fun x => got ++ [x]

theorem foldl_withSpan_none (n : Node) (rs : List Range) : rs.foldl (withSpan n) none = none := by
  induction rs with
  | nil => rfl
  | cons r rs ih => exact ih

/-- What holds of every class asked for holds of every class found. -/
theorem resClass_of_foldl_withSpan {n : Node} {P : Nat → Prop} {rs got xs : List Range}
    (h : rs.foldl (withSpan n) (some got) = some xs) (hr : ∀ r ∈ rs, P r.resClass) (hg : ∀ r ∈ got, P r.resClass) :
    ∀ x ∈ xs, P x.resClass := by
  induction rs generalizing got with
  | nil => exact Option.some.inj h ▸ hg
  | cons r rs ih =>
    obtain ⟨hr, hrs⟩ := List.forall_mem_cons.1 hr
    rw [List.foldl_cons, withSpan, Option.bind_some] at h
    cases hx : allocSpan n got r with
    | none => rw [hx, Option.map_none, foldl_withSpan_none] at h; cases h
    | some x =>
      rw [hx, Option.map_some] at h
      refine ih h hrs fun y hy => ?_
      rcases List.mem_append.1 hy with hy | hy
      · exact hg y hy
      · rw [List.mem_singleton.1 hy, allocSpan_resClass hx]; exact hr

/-- No range that a Leap brings is LENT at its new home. -/
theorem leapSpans_notLent {n : Node} {rs xs : List Range} {tclass : Option Nat} {tcomp : Option Bool}
    (h : leapSpans n rs tclass tcomp = some xs) : ∀ x ∈ xs, x.resClass ≠ 4 := by
  unfold leapSpans at h
  dsimp only at h
  split at h
  · cases h
  · next hn =>
    refine resClass_of_foldl_withSpan (P := (· ≠ 4)) h (fun r hr h4 => hn ?_) (by simp)
    exact List.any_eq_true.2 ⟨r, hr, by simp [h4]⟩

/-! ### READY at the source (R424, R430) -/

theorem takeReady_leap {n : Node} {p : Packet} {u : Unanswered} {k : Nat} (hm : isModule n p.src.toNat = true)
    (hu : sentFor n p = some u) (hk : u.purpose = .leap k) : takeReady n p = leapAnswered (settleSent n p) k p.status.toNat := by
  simp only [takeReady, hm, hu, Option.map_some, hk, Bool.not_true, Bool.false_eq_true, if_false]

section
variable {n : Node} {k st : Nat} {l : LeapOut} (hk : leapOf n k = some l)
include hk

theorem leapAnswered_copies (hs : l.step = 1) (ho : st = stOK) (hm : l.asMirror = false) :
    leapAnswered n k st = settle (leapGo (setLeap n k { l with step := 3 }) k) := by
  simp only [leapAnswered, hk, if_pos hs, if_pos ho, hm, Bool.false_eq_true, if_false, List.foldl_nil]

theorem leapAnswered_refused (hs : l.step = 1) (ho : st ≠ stOK) (hr : l.order = none) : leapAnswered n k st = endLeap n k st := by
  simp only [leapAnswered, hk, if_pos hs, if_neg ho, hr, Option.isSome_none, Bool.false_and, Bool.false_eq_true, if_false]

theorem leapAnswered_mirrored (hs : l.step = 4) : leapAnswered n k st =
    if st = stOK then settle (setLeap n k { l with step := 5 }) else endLeap n k stAborted := by
  have h1 : l.step ≠ 1 := by omega
  simp only [leapAnswered, hk, if_neg h1, if_pos hs]

end

/-! ### LEAP_PEER at the mirror (R412, R424) -/

theorem takeLeapPeer_foreign {n : Node} {p : Packet} (hm : isModule n p.src.toNat = false) : takeLeapPeer n p = foreignMgt n p := by
  simp only [takeLeapPeer, hm, Bool.not_false, if_true]

/-- The ranges of the extent that a LEAP_PEER names, of which this module is the mirror. -/
def peerRanges (n : Node) (p : Packet) : List Range :=
  mirrorHeld n (fieldOf (wordAt (mgtWords p 3) 0) 15 0) (wordAt (mgtWords p 3) 1).toNat (wordAt (mgtWords p 3) 2).toNat p.src.toNat

theorem takeLeapPeer_came {n : Node} {p : Packet} (hm : isModule n p.src.toNat = true) (ho : p.opcode.toNat = 0xB7) :
    takeLeapPeer n p =
      if (peerRanges n p).isEmpty then leapReply n p stDenied
      else leapReply (setPeer2 n (fieldOf (wordAt (mgtWords p 3) 0) 15 0) (peerRanges n p)
        (fieldOf (wordAt (mgtWords p 3) 0) 31 16)) p stOK := by
  have ho : p.opcode = 0xB7 := BitVec.eq_of_toNat_eq ho
  have release : (p.opcode == 0xB8) = false := by rw [ho]; decide
  exact (if_neg (by rw [hm]; decide)).trans (if_neg (by rw [release]; decide))

theorem foreignMgt_logs (n : Node) (p : Packet) : (foreignMgt n p).log.last = n.log.next ∧ (foreignMgt n p).ctxs = n.ctxs :=
  ⟨logEvent_last _ _, rfl⟩

/-! ### Progress (R424) -/

/-- The Leap once a chunk is COPIED. -/
def leapCounted (l : LeapOut) (c : Nat) : LeapOut := { l with copied := l.copied ++ [c], copying := none, sentChunk := false }

/-- The Leap once its last chunk is COPIED and its extent closed. -/
def leapClosed (l : LeapOut) (c : Nat) : LeapOut :=
  { l with copied := l.copied ++ [c], copying := none, sentChunk := false, step := 5 }

section
variable {n : Node} {k fuel : Nat} {l : LeapOut} (hk : leapOf n k = some l) (hs : l.step = 3)
include hk hs

/-- The chunk in hand is COPIED, and the next one's turn comes. -/
theorem leapChunks_chunk {c : Nat} (hc : l.copying = some c) (hgo : leapChunkGo n k l c = (n, true)) :
    leapChunks k (fuel + 1) n =
      leapChunks k fuel (setLeap n k (leapCounted l c)) := by
  rw [leapChunks]
  simp only [hk, hc, hgo, Bool.not_true, Bool.false_eq_true, if_false]
  exact if_neg (by simp [hs])

theorem leapChunks_end (hc : l.copying = none) (hn : nextChunk l = none) : leapChunks k (fuel + 1) n = leapCopied n k l := by
  rw [leapChunks]
  simp only [hk, hc, hn]
  exact if_neg (by simp [hs])

end

theorem leapCopied_closes {n : Node} {l : LeapOut} (hr : l.asMirror = false) (hm : leapMirror n l = 0) (k : Nat) :
    leapCopied n k l = setLeap n k { l with copying := none, sentChunk := false, step := 5 } :=
  (if_neg (ne_true_of_eq_false hr)).trans (if_pos (by simp [hm]))

/-- With its last chunk answered, a Leap without a mirror closes its extent. -/
theorem leapChunks_last {n : Node} {k c : Nat} {l : LeapOut} (hk : leapOf n k = some l) (hs : l.step = 3)
    (hc : l.copying = some c) (ht : l.sentChunk = true) (ha : awaits n (.leapChunk k c) = false)
    (hn : nextChunk { l with copied := l.copied ++ [c] } = none) (hr : l.asMirror = false) (hm : leapMirror n l = 0) (fuel : Nat) :
    leapChunks k (fuel + 2) n = setLeap n k (leapClosed l c) := by
  have go : leapChunkGo n k l c = (n, true) := by simp only [leapChunkGo, ht, ha, if_true, Bool.not_false]
  rw [leapChunks_chunk hk hs hc go, leapChunks_end (l := leapCounted l c) (leapOf_setLeap_same _ _ _) hs rfl hn,
    leapCopied_closes (n := setLeap n k (leapCounted l c)) (l := leapCounted l c) hr hm, setLeap_setLeap]
  rfl

theorem leapChunkCopied_last {n : Node} {k c : Nat} {l : LeapOut} (hacc : accepting n = true) (hk : leapOf n k = some l)
    (hs : l.step = 3) (hc : l.copying = some c) (ht : l.sentChunk = true) (ha : awaits n (.leapChunk k c) = false)
    (hp : 0 < l.chunks) (hn : nextChunk { l with copied := l.copied ++ [c] } = none) (hr : l.asMirror = false)
    (hm : leapMirror n l = 0) : leapChunkCopied k c n = settle (setLeap n k (leapClosed l c)) := by
  obtain ⟨fuel, hf⟩ : ∃ fuel, l.chunks = fuel + 1 := ⟨l.chunks - 1, by omega⟩
  have go : leapGo n k = setLeap n k (leapClosed l c) := by
    simp only [leapGo, hk, Option.map_some, Option.getD_some, hf]
    exact leapChunks_last hk hs hc ht ha hn hr hm _
  simp only [leapChunkCopied, hk, hacc, hs, hc, go, bne_self_eq_false, Bool.not_true, Bool.or_self, Bool.false_and, Bool.false_eq_true,
    if_false]

/-- Where nothing is held or lent, there is nothing to withdraw. -/
theorem leapWithdraw_reset {n : Node} (h : n.coh = Coherence.reset) (k : Nat) (l : LeapOut) : leapWithdraw n k l = n := by
  have drop (t : Nat) : dropNc n t l.ctx = n := by
    have hb : Tbl.upd n.coh.opbuf t (fun cs => cs.filter fun c => !(c.nc && c.ctx == l.ctx)) = n.coh.opbuf := by rw [h]; rfl
    unfold dropNc
    rw [hb]
  have drops (ts : List Nat) : ts.foldl (fun n t => dropNc n t l.ctx) n = n := by
    induction ts with
    | nil => rfl
    | cons t ts ih => rw [List.foldl_cons, drop, ih]
  simp only [leapWithdraw, h, Coherence.reset, Tbl.keysOf, List.map_nil, List.filter_nil, List.foldl_nil, List.flatMap_nil,
    List.append_nil, drops]

/-- A closed extent on which nothing runs is proposed. -/
theorem leapDrain_proposes {n : Node} {k : Nat} {l : LeapOut} (hq : Quiet n) (hk : leapOf n k = some l) (hs : l.step = 5)
    (hl : isLocalLeap n l = false) (hh : isHandover n l = false) (hc : n.coh = Coherence.reset) (hr : leapQuiet n l = true) :
    leapDrain n k = proposeLeap n k l := by
  have noParts : n.sol.parts = [] := by
    obtain ⟨_, _, _, hparts, _⟩ := hq
    exact hparts
  simp only [leapDrain, hk, hs, leapWithdraw_reset hc, settle_quiet n hq, hr, hl, hh, noParts, List.any_nil, bne_self_eq_false,
    Bool.not_true, Bool.false_eq_true, if_false]

theorem leapDrain_open {n : Node} {k : Nat} {l : LeapOut} (hk : leapOf n k = some l) (hs : l.step ≠ 5) : leapDrain n k = n := by
  simp only [leapDrain, hk, bne_iff_ne.2 hs, if_true]

/-- With a keeper alive, a Leap's proposal is out. -/
theorem proposeLeap_lead {n : Node} {k lead : Nat} (l : LeapOut)
    (h : leadKeeper n (((slotOf n l.ctx).map (·.keepers)).getD []) = some lead) :
    leapOf (proposeLeap n k l) k = some { l with step := 7, switched := curGen n l.ctx } ∧ (proposeLeap n k l).mem = n.mem := by
  simp only [proposeLeap, h]
  exact ⟨(leapOf_of_ml (sendPacket_ml _ _ _) k).trans (leapOf_setLeap_same _ _ _), sendPacket_mem _ _ _⟩

/-! ### RECLAIM (R431) -/

/-- What a RECLAIM asks for. -/
def reclaimAsked (p : Packet) : Reclaim :=
  ⟨p.src.toNat, (wordAt (mgtWords p 2) 0).toNat, fieldOf (wordAt (mgtWords p 2) 1) 31 0, p.tag.toNat, p.seq.toNat⟩

/-- The node with a reclaim to do. -/
def addReclaim (n : Node) (q : Reclaim) : Node := { n with ml := { n.ml with reclaims := n.ml.reclaims ++ [q] } }

/-- A RECLAIM that is formed as R431 says. -/
structure ReclaimFormed (p : Packet) : Prop where
  whole : 16 ≤ (payloadOf p).length
  clear : fieldOf (wordAt (mgtWords p 2) 0) 63 48 = 0
  aligned : (reclaimAsked p).addr % 65536 = 0
  granClear : fieldOf (wordAt (mgtWords p 2) 1) 63 32 = 0
  gran : (reclaimAsked p).gran ≠ 0

theorem takeReclaim_formed {p : Packet} (h : ReclaimFormed p) (n : Node) :
    takeReclaim n p =
      settle ((Tbl.keysOf (reclaimsGo (addReclaim n (reclaimAsked p))).ml.outs).foldl leapGo
        (reclaimsGo (addReclaim n (reclaimAsked p)))) := by
  obtain ⟨hl, h0, ha, h1, hg⟩ := h
  unfold reclaimAsked at ha hg
  simp only [takeReclaim, decide_eq_false (Nat.not_lt.2 hl), h0, ha, h1, beq_eq_false_iff_ne.2 hg, bne_self_eq_false, Bool.or_self,
    Bool.false_eq_true, if_false, reclaimAsked, addReclaim]

@[simp] theorem reclaimDone_ml (n : Node) (q : Reclaim) : (reclaimDone n q).ml = n.ml := sendPacket_ml _ _ _

/-- A single reclaim that finds no range is done. -/
theorem reclaimsGo_unused {n : Node} {q : Reclaim} (hr : n.ml.reclaims = []) (hl : reclaimLeft n q = []) :
    reclaimsGo (addReclaim n q) = reclaimDone n q := by
  have one : (addReclaim n q).ml.reclaims = [q] := congrArg (· ++ [q]) hr
  have left : reclaimLeft (addReclaim n q) q = [] := hl
  have back : { addReclaim n q with ml := { (addReclaim n q).ml with reclaims := [q].erase q } } = n := by
    rw [List.erase_cons_head, ← hr]
    rfl
  rw [reclaimsGo, one, List.foldl_cons, List.foldl_nil, left, one, back]
  rfl

theorem takeReclaim_unused {n : Node} {p : Packet} (h : ReclaimFormed p) (hr : n.ml.reclaims = []) (ho : n.ml.outs = [])
    (hn : reclaimLeft n (reclaimAsked p) = []) (hq : Quiet n) : takeReclaim n p = reclaimDone n (reclaimAsked p) := by
  rw [takeReclaim_formed h, reclaimsGo_unused hr hn, reclaimDone_ml, ho]
  exact settle_quiet _ (quiet_sendPacket hq _ _)

/-! ### The rows together -/

/-- Settles O29: each clause is one branch of its row's meaning, which the lemmas above name. The layouts of LEAP_OPEN, READY and
LEAP_PEER are the model's (log 41), and so is which refusals end a Leap with ABORTED (log 54). -/
theorem leapsMove : Obligations.LeapsMove := by
  unfold Obligations.LeapsMove
  intro tid k c l p a s asked badStart badAbort came module
  refine ⟨fun hs hw hb hm => ⟨fun hi => ?_, fun hi hf => ?_, fun hi hf hl ht => ?_⟩,
    fun hs hw hk ha hb => ⟨fun h7 => ?_, fun h7 => ?_⟩, fun hs hk => ?_,
    fun h hmod hl hc hf hr hk ha => ⟨fun hx => ?_, fun hx hi => ?_, fun hx hi hn => ?_⟩,
    fun h hmod b bs ht => ⟨fun hc hr => ?_, fun st hc hr hst => ?_, fun rs hc hr hst hsp => ?_⟩,
    fun h hmod u hu hpur hk => ⟨fun h1 ho hm => ?_, fun h1 ho hr => ?_, fun h4 ho => ?_, fun h4 ho => ?_⟩,
    fun h hmod => ⟨fun hr => ?_, fun hr => ?_⟩, fun h hmod => ?_,
    fun chunk ha hq hk h3 hc ht hloc haw hp hn hr hm => ?_, fun lead ha hq hk h5 hl hh hc hr hlead => ?_, fun ha hk h5 => ?_,
    fun h hl h0 ha h1 hg hr ho hn hq => ?_⟩
  · exact moves_of_result (leapStart_invalid hs hb hm hi) rfl (refuseCmd_keepsLeaps hs.1 _)
  · exact moves_of_result (leapStart_full hs hw hb hm hi hf) rfl (refuseCmd_keepsLeaps hs.1 _)
  · exact moves_of_result ((leapStart_begins hs hw hb hm hi hf).trans (beginLeap_opens hs.1 hl ht)) rfl ⟨rfl, leapOpened hs.1 asked _⟩
  · exact moves_of_result ((leapAbort_named hs hw hk ha hb).trans (if_pos h7)) rfl rfl
  · exact moves_of_result ((leapAbort_named hs hw hk ha hb).trans (if_neg h7)) rfl rfl
  · exact moves_of_result (leapAbort_unnamed hs hk) rfl (refuseCmd_keepsLeaps hs.1 _)
  · exact moves_of_came h rfl rfl (takeOrder_denied ⟨hmod, hl, hc, hf, hr, hk, ha⟩ hx) rfl
  · exact moves_of_came h rfl rfl (takeOrder_invalid ⟨hmod, hl, hc, hf, hr, hk, ha⟩ hx hi) rfl
  · exact moves_of_came h rfl rfl (takeOrder_begins ⟨hmod, hl, hc, hf, hr, hk, ha⟩ hx hi hn) rfl
  · refine moves_of_came h rfl rfl ((leapOpenTrain_whole hmod ht).trans (takeOpen_revs hc hr)) ⟨rfl, fun v hv => ?_⟩
    rw [leapReply_ctxs]
    exact mem_addRevs hv
  · exact moves_of_came h rfl rfl ((leapOpenTrain_whole hmod ht).trans (takeOpen_refused hc hr hst)) rfl
  · exact moves_of_came h rfl rfl ((leapOpenTrain_whole hmod ht).trans (takeOpen_accepted hc hr hst hsp)) ⟨rfl, leapSpans_notLent hsp⟩
  · exact moves_of_came h rfl rfl ((takeReady_leap hmod hu hpur).trans (leapAnswered_copies hk h1 ho hm)) rfl
  · exact moves_of_came h rfl rfl ((takeReady_leap hmod hu hpur).trans (leapAnswered_refused hk h1 ho hr)) rfl
  · exact moves_of_came h rfl rfl ((takeReady_leap hmod hu hpur).trans ((leapAnswered_mirrored hk h4).trans (if_pos ho))) rfl
  · exact moves_of_came h rfl rfl ((takeReady_leap hmod hu hpur).trans ((leapAnswered_mirrored hk h4).trans (if_neg ho))) rfl
  · exact moves_of_came h rfl rfl ((takeLeapPeer_came hmod (opcode_of_came h)).trans (if_pos (List.isEmpty_iff.2 hr))) rfl
  · exact moves_of_came h rfl rfl ((takeLeapPeer_came hmod (opcode_of_came h)).trans (if_neg (mt List.isEmpty_iff.1 hr))) rfl
  · exact moves_of_came h rfl rfl (takeLeapPeer_foreign hmod) ⟨rfl, foreignMgt_logs _ _⟩
  · refine moves_of_result ((leapChunkCopied_last ha hk h3 hc ht haw hp hn hr hm).trans
      (settle_quiet _ (quiet_setLeap hq hk hloc hloc))) rfl ⟨leapOf_setLeap_same _ _ _, rfl⟩
  · obtain ⟨hout, hmem⟩ := proposeLeap_lead (k := k) l hlead
    exact moves_of_result ((if_pos ha).trans (leapDrain_proposes hq hk h5 hl hh hc hr)) rfl ⟨hout, rfl, hmem⟩
  · exact moves_of_result ((if_pos ha).trans (leapDrain_open hk h5)) rfl rfl
  · exact moves_of_came h rfl rfl (takeReclaim_unused ⟨hl, h0, ha, h1, hg⟩ hr ho hn hq) rfl

end Sys2Proof.CompositionLeap
end

section
/-! The keepers of maps: creating, proposing, agreeing, subscribing, fetching and pushing (O48). -/

namespace Sys2Proof.CompositionLeap

open Sys2Proof.Machine Sys2Proof.Safety Sys2Proof.Organisation Sys2Proof.ContextRanges Sys2Proof.MirrorsSolstice

/-! ### Kept maps as read and replaced -/

@[simp] theorem keptOf_setKept_same (n : Node) (ctx : Nat) (k : KeptMap) : keptOf (setKept n ctx k) ctx = some k :=
  Tbl.find?_put_same _ _ _

/-- The context in the first word of a map's message of some words. -/
def msgCtx (p : Packet) (count : Nat) : Nat := fieldOf (wordAt (mgtWords p count) 0) 15 0

/-! ### MAP_CREATE (R408) -/

/-- The keepers that a MAP_CREATE names. -/
def createKeepers (p : Packet) : List Nat :=
  [fieldOf (wordAt (mgtWords p 3) 0) 47 32, fieldOf (wordAt (mgtWords p 3) 0) 63 48, fieldOf (wordAt (mgtWords p 3) 1) 15 0]

/-- KEEP_PVA of a MAP_CREATE. -/
def createPva (p : Packet) : Nat := (wordAt (mgtWords p 3) 2).toNat

/-- JOIN of a MAP_CREATE. -/
def createJoins (p : Packet) : Bool := bitOf (wordAt (mgtWords p 3) 0) 16

/-- A MAP_CREATE is not what R408 asks, or its map is there already. -/
def createBad (n : Node) (p : Packet) : Bool :=
  (payloadOf p).length < 24 || msgCtx p 3 == 0 || fieldOf (wordAt (mgtWords p 3) 0) 31 17 != 0 ||
    fieldOf (wordAt (mgtWords p 3) 1) 63 16 != 0 || pvaBad (wordAt (mgtWords p 3) 2) || createPva p % 2 ^ 22 != 0 ||
    keepersClash n (createKeepers p) || !(createKeepers p).contains n.nodeId || (keptOf n (msgCtx p 3)).isSome

/-- The module holds a span for the image at KEEP_PVA, readable and writable. -/
def createHeld (n : Node) (p : Packet) : Bool :=
  ((rangeOf n (msgCtx p 3) (createPva p)).map fun r =>
    !r.mirrorRole && !r.departed && r.r && r.w && decide (createPva p + 2 ^ 22 ≤ r.start + rangeBytes r)).getD false

/-- The kept map that a MAP_CREATE makes: without JOIN it is of generation 1, with JOIN it waits for the image. -/
def createdMap (p : Packet) (join : Bool) : KeptMap :=
  let ask : MapProposal :=
    { sender := p.src.toNat, tag := p.tag.toNat, seq := p.seq.toNat, expect := 0, ops := [], gen := 0, acks := [],
      committed := false, via := p.src.toNat, keepers := [], refusedBy := [] }
  { image := { ctx := msgCtx p 3, gen := if join then 0 else 1, keepers := createKeepers p, entries := [] }, keepPva := createPva p,
    subs := [], props := if join then [ask] else [], accepted := none, joining := join, unstored := true }

theorem createMap_eq (n : Node) (p : Packet) : createMap n p =
    if createBad n p then mapResult n p stInvalid 0
    else if !isDriver n p.src.toNat || !createHeld n p then mapResult n p stDenied 0
    else if decide (64 ≤ n.ml.kept.length) then mapResult n p stNoResource 0
    else if createJoins p then
      sendPacket (setKept n (msgCtx p 3) (createdMap p (createJoins p)))
        (mgtPacket n ((createKeepers p).getD 0 0) 0x94 [wordOf (msgCtx p 3), 0]) .protocol
    else mapResult (storeKept (setKept n (msgCtx p 3) (createdMap p (createJoins p))) (msgCtx p 3)) p stOK 1 := rfl

/-- A MAP_CREATE that is what R408 asks. -/
def CreateFormed (n : Node) (p : Packet) : Prop :=
  24 ≤ (payloadOf p).length ∧ msgCtx p 3 ≠ 0 ∧ fieldOf (wordAt (mgtWords p 3) 0) 31 17 = 0 ∧
    fieldOf (wordAt (mgtWords p 3) 1) 63 16 = 0 ∧ pvaBad (wordAt (mgtWords p 3) 2) = false ∧ createPva p % 2 ^ 22 = 0 ∧
    keepersClash n (createKeepers p) = false ∧ n.nodeId ∈ createKeepers p

section
variable {n : Node} {p : Packet} (h : CreateFormed n p)
include h

theorem createBad_formed : createBad n p = (keptOf n (msgCtx p 3)).isSome := by
  obtain ⟨hl, hc, h0, h1, hp, ha, hk, ho⟩ := h
  simp only [createBad, decide_eq_false (Nat.not_lt.2 hl), beq_eq_false_iff_ne.2 hc, h0, h1, hp, ha, hk, List.contains_iff_mem.2 ho,
    bne_self_eq_false, Bool.not_true, Bool.or_self, Bool.false_or]

theorem createMap_there {k : KeptMap} (hk : keptOf n (msgCtx p 3) = some k) : createMap n p = mapResult n p stInvalid 0 := by
  rw [createMap_eq, if_pos (by rw [createBad_formed h, hk]; rfl)]

variable (hk : keptOf n (msgCtx p 3) = none)
include hk

theorem createMap_new : createMap n p =
    if !isDriver n p.src.toNat || !createHeld n p then mapResult n p stDenied 0
    else if decide (64 ≤ n.ml.kept.length) then mapResult n p stNoResource 0
    else if createJoins p then
      sendPacket (setKept n (msgCtx p 3) (createdMap p (createJoins p)))
        (mgtPacket n ((createKeepers p).getD 0 0) 0x94 [wordOf (msgCtx p 3), 0]) .protocol
    else mapResult (storeKept (setKept n (msgCtx p 3) (createdMap p (createJoins p))) (msgCtx p 3)) p stOK 1 := by
  rw [createMap_eq, if_neg (by rw [createBad_formed h, hk]; decide)]

theorem createMap_denied (hd : isDriver n p.src.toNat = false) : createMap n p = mapResult n p stDenied 0 := by
  rw [createMap_new h hk, if_pos (by rw [hd]; rfl)]

variable (hd : isDriver n p.src.toNat = true) (hh : createHeld n p = true)
include hd hh

theorem createMap_full (hf : 64 ≤ n.ml.kept.length) : createMap n p = mapResult n p stNoResource 0 := by
  rw [createMap_new h hk, hd, hh, if_neg (by decide), if_pos (decide_eq_true hf)]

variable (hf : n.ml.kept.length < 64)
include hf

theorem createMap_makes (hj : createJoins p = false) :
    createMap n p = mapResult (storeKept (setKept n (msgCtx p 3) (createdMap p false)) (msgCtx p 3)) p stOK 1 := by
  rw [createMap_new h hk, hd, hh, if_neg (by decide), if_neg (by simpa using hf), hj, if_neg (by decide)]

theorem createMap_joins (hj : createJoins p = true) : createMap n p =
    sendPacket (setKept n (msgCtx p 3) (createdMap p true))
      (mgtPacket n ((createKeepers p).getD 0 0) 0x94 [wordOf (msgCtx p 3), 0]) .protocol := by
  rw [createMap_new h hk, hd, hh, if_neg (by decide), if_neg (by simpa using hf), hj, if_pos rfl]

end

theorem createHeld_of_range {n : Node} {p : Packet}
    (h : ∃ r, rangeOf n (msgCtx p 3) (createPva p) = some r ∧ r.mirrorRole = false ∧ r.departed = false ∧ r.r = true ∧ r.w = true ∧
      createPva p + 2 ^ 22 ≤ r.start + rangeBytes r) : createHeld n p = true := by
  obtain ⟨r, hr, hm, hd, hread, hwrite, hroom⟩ := h
  simp only [createHeld, hr, Option.map_some, Option.getD_some, hm, hd, hread, hwrite, decide_eq_true hroom, Bool.not_false,
    Bool.and_self]

/-! ### MAP_PROPOSE (R409) -/

theorem proposeMap_unkept {n : Node} {p : Packet} (hk : keptOf n (msgCtx p 4) = none) :
    proposeMap n p = mapResult n p stInvalid 0 := by
  unfold msgCtx at hk
  simp only [proposeMap, hk]

theorem proposeMap_denied {n : Node} {p : Packet} {k : KeptMap} (hk : keptOf n (msgCtx p 4) = some k)
    (hd : isDriver n p.src.toNat = false) (hm : isModule n p.src.toNat = false) :
    proposeMap n p = mapResult n p stDenied k.image.gen := by
  unfold msgCtx at hk
  simp only [proposeMap, hk, hd, hm, Bool.not_false, Bool.and_self, if_true]

/-- NOPS of a MAP_PROPOSE. -/
def proposeCount (p : Packet) : Nat := fieldOf (wordAt (mgtWords p 4) 0) 28 16

/-- The words of each operation that a MAP_PROPOSE holds inline. -/
def proposeWords (p : Packet) : List (List Word) :=
  (List.range (proposeCount p)).map fun i => bytesToWords 4 (((payloadOf p).drop 32).drop (32 * i))

/-- The proposal that a MAP_PROPOSE makes. -/
def proposalOf (p : Packet) : MapProposal :=
  { keepersProposal ((proposeWords p).map mapEntryOf) [] with
    sender := p.src.toNat, tag := p.tag.toNat, seq := p.seq.toNat, expect := fieldOf (wordAt (mgtWords p 4) 1) 31 0, via := p.src.toNat }

/-- A MAP_PROPOSE of a driver or a module, its operations inline, is formed as R409 says, and comes to the lead of a map that has no
other proposal in hand. -/
def ProposalFormed (n : Node) (p : Packet) (k : KeptMap) : Prop :=
  (isDriver n p.src.toNat = true ∨ isModule n p.src.toNat = true) ∧ 32 + 32 * proposeCount p ≤ (payloadOf p).length ∧ msgCtx p 4 ≠ 0 ∧
    fieldOf (wordAt (mgtWords p 4) 0) 63 29 = 0 ∧ 1 ≤ proposeCount p ∧ proposeCount p ≤ 127 ∧
    fieldOf (wordAt (mgtWords p 4) 1) 63 32 = 0 ∧ wordAt (mgtWords p 4) 2 = 0 ∧ wordAt (mgtWords p 4) 3 = 0 ∧
    (∀ o ∈ proposeWords p, opBad o = false) ∧ isLead n k = true ∧ k.accepted = none ∧ k.props = []

theorem proposeMap_lead {n : Node} {p : Packet} {k : KeptMap} (h : ProposalFormed n p k)
    (hk : keptOf n (msgCtx p 4) = some k) : proposeMap n p = enqueueProposal n (msgCtx p 4) (proposalOf p) := by
  obtain ⟨hs, hlen, hc, h0, h1, h127, he, hi, h3, ho, hl, _, _⟩ := h
  have hs : (!isDriver n p.src.toNat && !isModule n p.src.toNat) = false := by rcases hs with hs | hs <;> simp [hs]
  have ho : (proposeWords p).any opBad = false := by simpa using ho
  have hlen0 : ¬(payloadOf p).length < 32 := by omega
  have h0n : proposeCount p ≠ 0 := by omega
  have h4096 : ¬4096 < proposeCount p := by omega
  unfold proposeWords proposeCount at ho
  unfold proposeCount at hlen h127 h0n h4096
  unfold msgCtx at hc hk
  simp only [proposeMap, hk, hs, decide_eq_false hlen0, beq_eq_false_iff_ne.2 hc, h0, beq_eq_false_iff_ne.2 h0n, decide_eq_false h4096,
    he, hi, h3, decide_eq_false (Nat.not_lt.2 h127), decide_eq_false (Nat.not_lt.2 hlen), show pvaBad 0 = false from rfl,
    show (0 : Word).toNat = 0 from rfl, Nat.zero_mod, bne_self_eq_false, Bool.or_self, Bool.and_false, Bool.false_and,
    Bool.false_eq_true, if_false, readOps, if_true, ho, hl]
  rfl

/-- A proposal that comes while none waits is the lead's to judge. -/
theorem enqueueProposal_first {n : Node} {ctx : Nat} {k : KeptMap} (hk : keptOf n ctx = some k) (hp : k.props = []) (q : MapProposal) :
    enqueueProposal n ctx q = leadGo ctx 1 (setKept n ctx { k with props := [q] }) := by
  simp only [enqueueProposal, hk, hp, List.nil_append, leadOn, keptOf_setKept_same, Option.map_some, Option.getD_some,
    List.length_singleton]

section
variable {n : Node} {ctx fuel : Nat} {k : KeptMap} {q : MapProposal} {rest : List MapProposal} (hk : keptOf n ctx = some k)
  (hl : isLead n k = true) (ha : k.accepted = none) (hp : k.props = q :: rest) (hg : q.gen = 0)
include hk hl ha hp hg

theorem leadGo_offers {m : MapImage} (hf : proposalFault n k q = none)
    (hm : imageAfter n (proposerOf n q) k.image q.ops q.keepers = some m) : leadGo ctx (fuel + 1) n =
      offerImage (setKept n ctx { k with accepted := some m, props := { q with gen := m.gen } :: rest }) k m := by
  simp only [leadGo, hk, hl, ha, hp, hg, hf, hm, Option.isSome_none, Bool.not_true, Bool.or_self, bne_self_eq_false, Bool.false_eq_true,
    if_false]

theorem leadGo_refuses {st : Nat} (hf : proposalFault n k q = some st) : leadGo ctx (fuel + 1) n =
    leadGo ctx fuel (answerProposal (setKept n ctx { k with props := rest }) q st k.image.gen) := by
  simp only [leadGo, hk, hl, ha, hp, hg, hf, Option.isSome_none, Bool.not_true, Bool.or_self, bne_self_eq_false, Bool.false_eq_true,
    if_false, Option.getD_some]

end

section
variable {n : Node} {p : Packet} {k : KeptMap} (h : ProposalFormed n p k) (hk : keptOf n (msgCtx p 4) = some k)
include h hk

/-- A proposal that stands is offered as the next generation. -/
theorem proposeMap_offers {m : MapImage} (hf : proposalFault n { k with props := [proposalOf p] } (proposalOf p) = none)
    (hm : imageAfter n (proposerOf n (proposalOf p)) k.image (proposalOf p).ops [] = some m) : proposeMap n p =
      offerImage (setKept (setKept n (msgCtx p 4) { k with props := [proposalOf p] }) (msgCtx p 4)
        { k with accepted := some m, props := [{ proposalOf p with gen := m.gen }] }) { k with props := [proposalOf p] } m := by
  have lead := proposeMap_lead h hk
  obtain ⟨_, _, _, _, _, _, _, _, _, _, hl, ha, hp⟩ := h
  rw [lead, enqueueProposal_first hk hp]
  exact leadGo_offers (k := { k with props := [proposalOf p] }) (keptOf_setKept_same _ _ _) hl ha rfl rfl hf hm

/-- Another is answered, and gone. -/
theorem proposeMap_refuses {st : Nat} (hf : proposalFault n { k with props := [proposalOf p] } (proposalOf p) = some st) :
    proposeMap n p = answerProposal (setKept (setKept n (msgCtx p 4) { k with props := [proposalOf p] }) (msgCtx p 4)
      { k with props := [] }) (proposalOf p) st k.image.gen := by
  have lead := proposeMap_lead h hk
  obtain ⟨_, _, _, _, _, _, _, _, _, _, hl, ha, hp⟩ := h
  rw [lead, enqueueProposal_first hk hp]
  exact leadGo_refuses (fuel := 0) (k := { k with props := [proposalOf p] }) (keptOf_setKept_same _ _ _) hl ha rfl rfl hf

end

/-- A proposal for another generation than the one there is fails with ABORTED. -/
theorem proposalFault_expect {n : Node} {k : KeptMap} {q : MapProposal} (hs : isDriver n q.sender = true ∨ isModule n q.sender = true)
    (h0 : q.expect ≠ 0) (hg : q.expect ≠ k.image.gen) : proposalFault n k q = some stAborted := by
  have allowed : (!(proposerOf n q).keepers && !(proposerOf n q).driver && !isModule n q.sender) = false := by
    rcases hs with hs | hs <;> simp [proposerOf, hs]
  simp only [proposalFault, firstStatus, allowed, bne_iff_ne.2 h0, bne_iff_ne.2 hg, Bool.and_self, Bool.false_eq_true, if_false, if_true]

/-! ### MAP_AGREEMENT (R409, R412) -/

theorem agreeMap_foreign {n : Node} {p : Packet} (hm : isModule n p.src.toNat = false) : agreeMap n p = foreignMgt n p := by
  simp only [agreeMap, hm, Bool.not_false, if_true]

section
variable {n : Node} {p : Packet} (hm : isModule n p.src.toNat = true)
include hm

theorem agreeMap_offer {t : Node} {bs : Bytes} (ho : p.opcode.toNat = 0x96) (ht : takeTrain n p = (t, some bs)) :
    agreeMap n p = offered t p bs := by
  simp only [agreeMap, hm, ho, ht, decide_true, Bool.true_or, Bool.not_true, Bool.false_eq_true, if_false, if_true]

theorem agreeMap_accepted (ho : p.opcode.toNat = 0x97) : agreeMap n p = acceptedBy n p := by
  have train : (decide (p.opcode.toNat = 0x96) || decide (p.opcode.toNat = 0x9A)) = false := by rw [ho]; decide
  simp only [agreeMap, hm, train, if_pos ho, Bool.not_true, Bool.false_eq_true, if_false]

theorem agreeMap_committed (ho : p.opcode.toNat = 0x99) : agreeMap n p = committedBy n p := by
  have train : (decide (p.opcode.toNat = 0x96) || decide (p.opcode.toNat = 0x9A)) = false := by rw [ho]; decide
  have h97 : p.opcode.toNat ≠ 0x97 := by omega
  have h98 : p.opcode.toNat ≠ 0x98 := by omega
  simp only [agreeMap, hm, train, if_neg h97, if_neg h98, if_pos ho, Bool.not_true, Bool.false_eq_true, if_false]

end

/-- What a keeper tells the lead of the image that it offered. -/
def tellLead (n : Node) (p : Packet) (m : MapImage) (o : Nat) : Node :=
  sendPacket n (mgtPacket n p.src.toNat o [wordOf m.ctx, wordOf m.gen]) .protocol

section
variable {n : Node} {p : Packet} {bs : Bytes} {m : MapImage} {k : KeptMap} (hb : mapOfBytes bs = some m) (hk : keptOf n m.ctx = some k)
include hb hk

theorem offered_follows (hj : k.joining = false) (hg : m.gen = stepGen k.image.gen) (hs : p.src.toNat ∈ k.image.keepers)
    (ha : k.accepted = none ∨ k.accepted = some m) :
    offered n p bs = tellLead (setKept n m.ctx { k with accepted := some m }) p m 0x97 := by
  have ha : (k.accepted.isNone || k.accepted == some m) = true := by rcases ha with ha | ha <;> simp [ha]
  simp only [offered, hb, hk, hj, beq_iff_eq.2 hg, List.contains_iff_mem.2 hs, ha, Bool.not_false, Bool.and_self, if_true, tellLead]

theorem offered_refused (h : m.gen ≠ stepGen k.image.gen ∨ ∃ x, k.accepted = some x ∧ x ≠ m) :
    offered n p bs = tellLead n p m 0x98 := by
  have no : (!k.joining && m.gen == stepGen k.image.gen && k.image.keepers.contains p.src.toNat &&
      (k.accepted.isNone || k.accepted == some m)) = false := by
    rcases h with hg | ⟨x, hx, hne⟩
    · simp [hg]
    · simp [hx, hne]
  simp only [offered, hb, hk, no, Bool.false_eq_true, if_false, tellLead]

end

section
variable {n : Node} {p : Packet} {m : MapImage} {k : KeptMap} (hk : keptOf n (msgCtx p 2) = some k) (ha : k.accepted = some m)
  (hg : m.gen = (wordAt (mgtWords p 2) 1).toNat)
include hk ha hg

theorem acceptedBy_commits (hl : isLead n k = true) (hs : p.src.toNat ∈ k.image.keepers) :
    acceptedBy n p = commitMap n (msgCtx p 2) := by
  unfold msgCtx at hk
  simp only [acceptedBy, hk, hl, List.contains_iff_mem.2 hs, ha, Option.map_some, hg, beq_self_eq_true, Bool.and_self, if_true, msgCtx]

theorem committedBy_follows : committedBy n p =
    storeKept (setKept n (msgCtx p 2) { k with image := m, accepted := none, unstored := true }) (msgCtx p 2) := by
  unfold msgCtx at hk
  simp only [committedBy, hk, ha, if_pos hg, msgCtx]

end

/-! ### MAP_RESULT (R409, R410, R427) -/

theorem takeResult_unasked {n : Node} {p : Packet} (h : sentFor n p = none) : takeResult n p = n := by simp only [takeResult, h]

section
variable {n : Node} {p : Packet} {u : Unanswered} (hu : sentFor n p = some u)
include hu

theorem takeResult_leap {k : Nat} (hp : u.purpose = .leap k) :
    takeResult n p = settle (leapProposed (settleSent n p) k p.status.toNat p.mapgen.toNat) := by
  simp only [takeResult, hu, hp]

theorem takeResult_push (hp : u.purpose = .protocol) (ho : u.pkt.opcode = 0x95) :
    takeResult n p = pushAcked (settleSent n p) (numAt u.pkt.data 0 2) p.src.toNat := by
  have ho : u.pkt.opcode.toNat = 0x95 := by rw [ho]; rfl
  simp only [takeResult, hu, hp, if_pos ho]

end

/-- A module's acknowledgement counts for the change that waits for it. -/
theorem pushAcked_counts {n : Node} {ctx : Nat} {k : KeptMap} {x : MapProposal} {rest : List MapProposal} (hk : keptOf n ctx = some k)
    (hp : k.props = x :: rest) (hx : x.committed = true) (node : Nat) :
    pushAcked n ctx node = setKept n ctx { k with props := { x with acks := x.acks.filter (· != node) } :: rest } := by
  simp only [pushAcked, hk, hp, hx, if_true]

/-! ### Subscribers and fetches (R411) -/

/-- The subscribers other than the sender. -/
def otherSubs (k : KeptMap) (p : Packet) := k.subs.filter fun s => s.node != p.src.toNat

/-- A MAP_SUBSCRIBE or MAP_FETCH that is formed as R411 says; `low` is the lowest bit of word 0 that must be clear. -/
def BufferFormed (p : Packet) (low : Nat) : Prop :=
  16 ≤ (payloadOf p).length ∧ msgCtx p 2 ≠ 0 ∧ fieldOf (wordAt (mgtWords p 2) 0) 63 low = 0 ∧
    fieldOf (wordAt (mgtWords p 2) 1) 63 48 = 0 ∧ (wordAt (mgtWords p 2) 1).toNat % 64 = 0

theorem bufferFormed_checks {p : Packet} {low : Nat} (h : BufferFormed p low) :
    ((payloadOf p).length < 16 || fieldOf (wordAt (mgtWords p 2) 0) 15 0 == 0 || fieldOf (wordAt (mgtWords p 2) 0) 63 low != 0 ||
      fieldOf (wordAt (mgtWords p 2) 1) 63 48 != 0 || (wordAt (mgtWords p 2) 1).toNat % 64 != 0) = false := by
  obtain ⟨hl, hc, h0, h1, ha⟩ := h
  unfold msgCtx at hc
  simp only [decide_eq_false (Nat.not_lt.2 hl), beq_eq_false_iff_ne.2 hc, h0, h1, ha, bne_self_eq_false, Bool.or_self]

section
variable {n : Node} {p : Packet} {k : KeptMap} (hk : keptOf n (msgCtx p 2) = some k) (hj : k.joining = false)
  (h : BufferFormed p 17)
include hk hj h

theorem subscribe_formed : subscribe n p =
    if bitOf (wordAt (mgtWords p 2) 0) 16 then mapResult (setKept n (msgCtx p 2) { k with subs := otherSubs k p }) p stOK k.image.gen
    else if decide (1024 ≤ (otherSubs k p).length) then mapResult n p stNoResource k.image.gen
    else mapResult (setKept n (msgCtx p 2)
      { k with subs := otherSubs k p ++ [{ node := p.src.toNat, buf := (wordAt (mgtWords p 2) 1).toNat }] }) p stOK k.image.gen := by
  have ok := bufferFormed_checks h
  unfold msgCtx at hk
  simp only [subscribe, hk, ok, hj, Bool.or_self, Bool.false_eq_true, if_false]
  rfl

theorem subscribe_leaves (hb : bitOf (wordAt (mgtWords p 2) 0) 16 = true) :
    subscribe n p = mapResult (setKept n (msgCtx p 2) { k with subs := otherSubs k p }) p stOK k.image.gen := by
  rw [subscribe_formed hk hj h, if_pos hb]

variable (hb : bitOf (wordAt (mgtWords p 2) 0) 16 = false)
include hb

theorem subscribe_full (hf : 1024 ≤ (otherSubs k p).length) : subscribe n p = mapResult n p stNoResource k.image.gen := by
  rw [subscribe_formed hk hj h, if_neg (ne_true_of_eq_false hb), if_pos (decide_eq_true hf)]

theorem subscribe_joins (hf : (otherSubs k p).length < 1024) :
    subscribe n p = mapResult (setKept n (msgCtx p 2)
      { k with subs := otherSubs k p ++ [{ node := p.src.toNat, buf := (wordAt (mgtWords p 2) 1).toNat }] }) p stOK k.image.gen := by
  rw [subscribe_formed hk hj h, if_neg (ne_true_of_eq_false hb), if_neg (by simpa using hf)]

end

theorem fetchFrom_unkept {n : Node} {p : Packet} (hk : keptOf n (msgCtx p 2) = none) : fetchFrom n p = mapResult n p stInvalid 0 := by
  unfold msgCtx at hk
  simp only [fetchFrom, hk]

theorem fetchFrom_pushes {n : Node} {p : Packet} {k : KeptMap} (hk : keptOf n (msgCtx p 2) = some k) (hj : k.joining = false)
    (h : BufferFormed p 16) : fetchFrom n p = pushImage n p.src.toNat (wordAt (mgtWords p 2) 1).toNat (some p) k.image := by
  have ok := bufferFormed_checks h
  unfold msgCtx at hk
  simp only [fetchFrom, hk, ok, hj, Bool.or_self, Bool.false_eq_true, if_false]

/-! ### MAP_PUSH (R412, R417) -/

theorem takePush_foreign {n : Node} {p : Packet} (hm : isModule n p.src.toNat = false) : takePush n p = foreignMgt n p := by
  simp only [takePush, hm, Bool.not_false, if_true]

section
variable {n t : Node} {p : Packet} {bs : Bytes} (hm : isModule n p.src.toNat = true) (ht : takeTrain n p = (t, some bs))
include hm ht

theorem takePush_unreadable (hb : mapOfBytes bs = none) :
    takePush n p = logEvent t { otherEvent 6 16 with node := p.src.toNat } := by
  simp only [takePush, hm, ht, hb, Bool.not_true, Bool.false_eq_true, if_false]

theorem takePush_applies {m : MapImage} (hb : mapOfBytes bs = some m) : takePush n p =
    afterMap (mapResult (pushToImages (pushToHome (pushToKeeper (settleFetch t p m.ctx) m) m) m) p stOK m.gen) := by
  simp only [takePush, hm, ht, hb, Bool.not_true, Bool.false_eq_true, if_false]

end

/-! ### MAP_CHANGE_EFFECT (R410) -/

theorem changeEffect_answers {n : Node} {ctx : Nat} {k : KeptMap} {x : MapProposal} {rest : List MapProposal} (hs : mgtServed n = true)
    (hk : keptOf n ctx = some k) (hp : k.props = x :: rest) (hx : x.committed = true) (ha : x.acks = []) :
    changeEffect ctx n = leadOn (answerProposal (setKept n ctx { k with props := rest }) x stOK k.image.gen) ctx := by
  simp only [changeEffect, hk, hp, hs, hx, ha, List.isEmpty_nil, Bool.not_true, Bool.or_self, Bool.false_eq_true, if_false]

theorem changeEffect_waits {n : Node} {ctx : Nat} {k : KeptMap} {x : MapProposal} {rest : List MapProposal} (hk : keptOf n ctx = some k)
    (hp : k.props = x :: rest) (ha : x.acks ≠ []) : changeEffect ctx n = n := by
  simp only [changeEffect, hk, hp, List.isEmpty_eq_false_iff.2 ha, Bool.not_false, Bool.or_true, if_true]

/-! ### The rows together -/

/-- Settles O48: each clause is one branch of its row's meaning, which the lemmas above name. The keepers' own codes 0x96 to 0x9B and
their layouts (log 40), the order of a proposal's refusals (log 47), the statuses of MAP_CREATE (log 48) and that a push whose CHECK fails
goes unacknowledged (log 45) are the model's. -/
theorem mapsAreKept : Obligations.MapsAreKept := by
  unfold Obligations.MapsAreKept
  intro p a k m' st u s came w ctxIn gen src kept answers ks keep creates held image made nops opws proposes prop queued whole follows tell
    others subs
  refine ⟨fun ⟨h, hf⟩ hk hd hh hl hj => ?_, fun ⟨h, hf⟩ hk hd hh hl hj => ?_, fun ⟨h, hf⟩ hk hd => ?_, fun ⟨h, hf⟩ hk => ?_,
    fun ⟨h, hf⟩ hk hd hh hl => ?_, fun h hk => ?_, fun h hk hd hm => ?_, fun ⟨h, hk, hpr⟩ hf hm => ?_, fun ⟨h, hk, hpr⟩ hf => ?_,
    fun ⟨h, hk, hpr⟩ h0 hg => ?_,
    fun o hlo hhi h hm => ?_, fun t bs h ⟨hm, ht⟩ hb ⟨hk, hj, hg, hs⟩ ha => ?_, fun t bs h ⟨hm, ht⟩ hb hk hno => ?_,
    fun h hm hk hl hs ha hg => ?_, fun h hm hk ha hg => ?_, fun h hu => ?_, fun l h hu hp => ?_,
    fun c x rest h hu hp ho hc hk hpr hx => ?_, fun ⟨h, hk, hj, hf⟩ hb hl => ?_, fun ⟨h, hk, hj, hf⟩ hb hl => ?_,
    fun ⟨h, hk, hj, hf⟩ hb => ?_, fun h hk => ?_, fun h hk hj hl hc h0 h1 ha => ?_, fun h hm => ?_,
    fun t bs h ⟨hm, ht⟩ hb => ?_, fun t bs h ⟨hm, ht⟩ hb => ?_, fun c x hs hk hp hx ha => ?_, fun c x rest hk hp ha => ?_⟩
  · exact moves_of_came h rfl rfl (createMap_makes hf hk hd (createHeld_of_range hh) hl hj) rfl
  · exact moves_of_came h rfl rfl (createMap_joins hf hk hd (createHeld_of_range hh) hl hj)
      ⟨createdMap p true, rfl, rfl, rfl, rfl, rfl, rfl⟩
  · exact moves_of_came h rfl rfl (createMap_denied hf hk hd) rfl
  · exact moves_of_came h rfl rfl (createMap_there hf hk) rfl
  · exact moves_of_came h rfl rfl (createMap_full hf hk hd (createHeld_of_range hh) hl) rfl
  · exact moves_of_came h rfl rfl (proposeMap_unkept hk) rfl
  · exact moves_of_came h rfl rfl (proposeMap_denied hk hd hm) rfl
  · exact moves_of_came h rfl rfl (proposeMap_offers hpr hk hf hm) rfl
  · exact moves_of_came h rfl rfl (proposeMap_refuses hpr hk hf) rfl
  · exact moves_of_came h rfl rfl (proposeMap_refuses hpr hk (proposalFault_expect hpr.1 h0 hg)) rfl
  · exact moves_of_came h (decide_eq_true ⟨hlo, hhi⟩) rfl (agreeMap_foreign hm) rfl
  · exact moves_of_came h rfl rfl ((agreeMap_offer hm (opcode_of_came h) ht).trans (offered_follows hb hk hj hg hs ha)) rfl
  · exact moves_of_came h rfl rfl ((agreeMap_offer hm (opcode_of_came h) ht).trans (offered_refused hb hk hno)) rfl
  · exact moves_of_came h rfl rfl ((agreeMap_accepted hm (opcode_of_came h)).trans (acceptedBy_commits hk ha hg hl hs)) rfl
  · exact moves_of_came h rfl rfl ((agreeMap_committed hm (opcode_of_came h)).trans (committedBy_follows hk ha hg)) rfl
  · exact moves_of_came h rfl rfl (takeResult_unasked hu) rfl
  · exact moves_of_came h rfl rfl (takeResult_leap hu hp) rfl
  · exact moves_of_came h rfl rfl ((takeResult_push hu hp ho).trans (hc ▸ pushAcked_counts (hc ▸ hk) hpr hx src)) rfl
  · exact moves_of_came h rfl rfl (subscribe_joins hk hj hf hb hl) rfl
  · exact moves_of_came h rfl rfl (subscribe_full hk hj hf hb hl) rfl
  · exact moves_of_came h rfl rfl (subscribe_leaves hk hj hf hb) rfl
  · exact moves_of_came h rfl rfl (fetchFrom_unkept hk) rfl
  · exact moves_of_came h rfl rfl (fetchFrom_pushes hk hj ⟨hl, hc, h0, h1, ha⟩) rfl
  · exact moves_of_came h rfl rfl (takePush_foreign hm) rfl
  · exact moves_of_came h rfl rfl (takePush_unreadable hm ht hb) rfl
  · exact moves_of_came h rfl rfl (takePush_applies hm ht hb) rfl
  · exact moves_of_result (changeEffect_answers hs hk hp hx ha) rfl rfl
  · exact moves_of_result (changeEffect_waits hk hp ha) rfl rfl

end Sys2Proof.CompositionLeap
end

section
/-! The end of an error-band window (O12). -/

namespace Sys2Proof.FaultHandling

open Sys2Proof.Machine Sys2Proof.Safety Sys2Proof.Organisation

/-! ### Folds in which one element acts -/

/-- A fold in which one element of the list changes the start, and the others leave both the start and what that element makes of it. -/
theorem foldl_of_unique {α β : Type} {f : α → β → α} {a : α} {l : List β} {x : β} (hx : x ∈ l) (hd : l.Nodup)
    (before : ∀ y ∈ l, y ≠ x → f a y = a) (after : ∀ y ∈ l, y ≠ x → f (f a x) y = f a x) : l.foldl f a = f a x := by
  obtain ⟨l₁, l₂, rfl⟩ := List.append_of_mem hx
  obtain ⟨-, hnot, hdisj⟩ := List.nodup_append.1 hd
  rw [List.foldl_append, foldl_stays f a l₁ fun y hy => before y (by simp [hy]) (hdisj y hy x (by simp)), List.foldl_cons,
    foldl_stays f (f a x) l₂ fun y hy => after y (by simp [hy]) fun he => (List.nodup_cons.1 hnot).1 (he ▸ hy)]

/-- The one number of a range that passes. -/
theorem filter_range_eq_singleton {k b : Nat} {p : Nat → Bool} (hb : b < k) (h : ∀ c < k, p c = true ↔ c = b) :
    (List.range k).filter p = [b] := by
  have hp : ∀ c ∈ List.range k, p c = (c == b) := fun c hc => by
    rw [Bool.eq_iff_iff, h c (List.mem_range.1 hc), beq_iff_eq]
  rw [List.filter_congr hp, List.filter_beq, List.count_eq_one_of_mem List.nodup_range (List.mem_range.2 hb)]; rfl

/-! ### The ladder over the tiles (R487) -/

theorem tileAt_eq_get (n : Node) (t : TileId) : tileAt n t.val = n.flt.tiles.get t := by
  simp [tileAt, getAt, Vector.getD, Vector.get_eq_getElem]

/-- What the end of a window does for one tile: one step of the ladder for each band over THRESH. -/
def climb (n : Node) (t : Nat) : Node :=
  if (tileAt n t).retired then n else ((List.range 8).filter (bandOver n (tileAt n t))).foldl (fun n b => ladderStep n t b) n

theorem climb_under {n : Node} {t : Nat} (h : ∀ b < 8, bandOver n (tileAt n t) b = false) : climb n t = n := by
  have hnone : (List.range 8).filter (bandOver n (tileAt n t)) = [] :=
    List.filter_eq_nil_iff.2 fun b hb => by simp [h b (List.mem_range.1 hb)]
  rw [climb, hnone, List.foldl_nil, ite_self]

theorem climb_one {n : Node} {t b : Nat} (hr : (tileAt n t).retired = false) (hb : b < 8)
    (h : ∀ c < 8, bandOver n (tileAt n t) c = true ↔ c = b) : climb n t = ladderStep n t b := by
  rw [climb, hr, if_neg Bool.false_ne_true, filter_range_eq_singleton hb h]; rfl

/-- The tile with the margin of a band raised by one. -/
def marginRaised (h : TileHealth) (b : Nat) : TileHealth :=
  { h with state := putField h.state (3 * b + 2) (3 * b) (natField h.state.toNat (3 * b + 2) (3 * b) + 1) }

section
variable {n : Node} {t : TileId} {b : Nat}
  (h : natField (tileAt n t.val).state.toNat (3 * b + 2) (3 * b) < fieldOf n.flt.ebLive 23 21)
include h

theorem ladderStep_margin : ladderStep n t.val b =
    logEvent (setTile n t.val (marginRaised (tileAt n t.val) b)) { otherEvent 3 19 with uclass := 3, unit_ := t.val, data0 := b } :=
  if_pos h

theorem tile_ladderStep_margin : (ladderStep n t.val b).flt.tiles.get t = marginRaised (tileAt n t.val) b := by
  rw [ladderStep_margin h, logEvent_flt, ← tileAt_eq_get, tileAt_setTile_same]

theorem still_ladderStep_margin (hs : Still n) : Still (ladderStep n t.val b) := by
  obtain ⟨hl, hr⟩ := tileAt_of_still hs t.val
  rw [ladderStep_margin h]
  exact still_logEvent (still_setTile hs t.val (g := marginRaised (tileAt n t.val) b) hl hr) _

theorem quiet_ladderStep_margin (hq : Quiet n) : Quiet (ladderStep n t.val b) := by
  rw [ladderStep_margin h]
  exact quiet_logEvent (quiet_setTile hq t.val (marginRaised (tileAt n t.val) b)) _

end

/-! ### The window starts again (R486, R490) -/

/-- The bins, the rows' counts and the regions' reset counts cleared. -/
def windowCleared (n : Node) : Node :=
  { n with flt := { n.flt with tiles := n.flt.tiles.map fun h => { h with bins := [], rows := [] },
                               regions := n.flt.regions.map fun r => { r with resets := 0 } } }

theorem bandWindowEnd_eq (n : Node) : bandWindowEnd n = takeEbNext (windowCleared ((List.range 64).foldl climb n)) := by
  unfold bandWindowEnd; generalize List.range 64 = tiles; rfl

/-- Taking what was committed changes the live block, its GEN and status, and what waits. -/
theorem takeEbNext_only (n : Node) : ∃ w gen stat next,
    takeEbNext n = { n with flt := { n.flt with ebLive := w, ebGen := gen, ebStat := stat, ebNext := next } } := by
  suffices h : ∀ (ws : List Word) (m : Node), ∃ w gen stat next, ws.foldl (fun n w =>
      { n with flt := { n.flt with ebLive := w, ebGen := nextGen n.flt.ebGen,
                                   ebStat := commitStatus n.flt.ebStat true (nextGen n.flt.ebGen), ebNext := [] } }) m =
      { m with flt := { m.flt with ebLive := w, ebGen := gen, ebStat := stat, ebNext := next } } from h n.flt.ebNext n
  intro ws
  induction ws with
  | nil => exact fun m => ⟨_, _, _, _, rfl⟩
  | cons x ws ih => intro m; rw [List.foldl_cons]; obtain ⟨w, gen, stat, next, h⟩ := ih _; exact ⟨w, gen, stat, next, h⟩

theorem takeEbNext_none {n : Node} (h : n.flt.ebNext = []) : takeEbNext n = n := by rw [takeEbNext, h]; rfl

theorem takeEbNext_one {n : Node} {w : Word} (h : n.flt.ebNext = [w]) :
    (takeEbNext n).flt.ebLive = w ∧ (takeEbNext n).flt.ebGen = nextGen n.flt.ebGen ∧ (takeEbNext n).flt.ebNext = [] := by
  rw [takeEbNext, h]; exact ⟨rfl, rfl, rfl⟩

/-- What follows the ladder moves no tile, and leaves nothing waiting. -/
theorem still_windowRestarts {n : Node} (h : Still n) : Still (takeEbNext (windowCleared n)) := by
  obtain ⟨_, _, _, _, he⟩ := takeEbNext_only (windowCleared n)
  rw [he]
  intro t
  simpa [windowCleared, Vector.get_eq_getElem] using h t

theorem quiet_windowRestarts {n : Node} (h : Quiet n) : Quiet (takeEbNext (windowCleared n)) := by
  obtain ⟨_, _, _, _, he⟩ := takeEbNext_only (windowCleared n)
  rw [he]; exact h

theorem tile_windowRestarts (n : Node) (k : TileId) :
    (takeEbNext (windowCleared n)).flt.tiles.get k = { n.flt.tiles.get k with bins := [], rows := [] } := by
  obtain ⟨_, _, _, _, he⟩ := takeEbNext_only (windowCleared n)
  rw [he]; simp [windowCleared, Vector.get_eq_getElem]

theorem region_windowRestarts (n : Node) (k : RegionId) :
    (takeEbNext (windowCleared n)).flt.regions.get k = { n.flt.regions.get k with resets := 0 } := by
  obtain ⟨_, _, _, _, he⟩ := takeEbNext_only (windowCleared n)
  rw [he]; simp [windowCleared, Vector.get_eq_getElem]

theorem log_windowRestarts (n : Node) : (takeEbNext (windowCleared n)).log = n.log := by
  obtain ⟨_, _, _, _, he⟩ := takeEbNext_only (windowCleared n)
  rw [he]; rfl

/-! ### The row -/

theorem bandWindowEnd_under {n : Node} (h : ∀ (t : TileId) (b : Fin 8), bandOver n (tileAt n t.val) b.val = false) :
    bandWindowEnd n = takeEbNext (windowCleared n) := by
  rw [bandWindowEnd_eq, foldl_stays climb n _ fun t ht => climb_under fun b hb => h ⟨t, List.mem_range.1 ht⟩ ⟨b, hb⟩]

/-- With one tile and band over THRESH, the ladder takes one step. -/
theorem bandWindowEnd_one {n : Node} {k : TileId} {b : Fin 8} (hr : (tileAt n k.val).retired = false)
    (h : ∀ (j : TileId) (c : Fin 8), bandOver n (tileAt n j.val) c.val = true ↔ j = k ∧ c = b)
    (hm : natField (tileAt n k.val).state.toNat (3 * b.val + 2) (3 * b.val) < fieldOf n.flt.ebLive 23 21) :
    bandWindowEnd n = takeEbNext (windowCleared (ladderStep n k.val b.val)) := by
  have hstep : climb n k.val = ladderStep n k.val b.val :=
    climb_one hr b.isLt fun c hc => (h k ⟨c, hc⟩).trans (by simp [Fin.ext_iff])
  have under {j : Nat} (hj : j < 64) (hne : j ≠ k.val) {c : Nat} (hc : c < 8) : bandOver n (tileAt n j) c = false :=
    Bool.eq_false_iff.2 fun ho => hne (congrArg Fin.val ((h ⟨j, hj⟩ ⟨c, hc⟩).1 ho).1)
  rw [bandWindowEnd_eq, ← hstep]
  refine congrArg (fun m => takeEbNext (windowCleared m)) (foldl_of_unique (List.mem_range.2 k.isLt) List.nodup_range
    (fun j hj hne => climb_under fun c hc => under (List.mem_range.1 hj) hne hc) fun j hj hne => climb_under fun c hc => ?_)
  rw [hstep, ladderStep_margin hm]
  exact (congrArg (bandOver n · c) (tileAt_setTile_other n k.val j _ hne)).trans (under (List.mem_range.1 hj) hne hc)

/-- Settles O12: the fold over the tiles takes no step, or the one step of the tile and band over THRESH, and then the window starts
again. That the rows' and the regions' counts are cleared with the bins rests on R472 and R482 and is the model's reading (log 27), as is
that a commit waits for this boundary with the values staged then (log 28). -/
theorem bandWindowEnds : Obligations.BandWindowEnds := by
  unfold Obligations.BandWindowEnds
  intro s hrestart ha hq hs
  have hexec : exec .errorBandWindowEnd s = .next (onTiles s bandWindowEnd) :=
    congrArg Host.Outcome.next (if_neg (by rw [hrestart]; exact Bool.false_ne_true))
  refine ⟨fun hunder => ?_, fun k b hr hover hm => ?_⟩
  · refine runs_of_still hexec ha (bandWindowEnd_under hunder) (still_windowRestarts hs) (quiet_windowRestarts hq) fun u hu ho => ?_
    rw [hu]
    refine ⟨tile_windowRestarts s.nd, region_windowRestarts s.nd, fun w hw => takeEbNext_one (n := windowCleared s.nd) hw,
      fun hw => ?_, ?_, ho⟩
    · rw [takeEbNext_none (n := windowCleared s.nd) hw]; exact ⟨rfl, rfl⟩
    · obtain ⟨_, _, _, _, he⟩ := takeEbNext_only (windowCleared s.nd)
      rw [he]; rfl
  · refine runs_of_still hexec ha (bandWindowEnd_one hr hover hm) (still_windowRestarts (still_ladderStep_margin hm hs))
      (quiet_windowRestarts (quiet_ladderStep_margin hm hq)) fun u hu ho => ?_
    rw [hu]
    refine ⟨?_, ?_, ?_, ho⟩
    · rw [tile_windowRestarts, tile_ladderStep_margin hm, ← tileAt_eq_get]; rfl
    · rw [tile_windowRestarts]
    · rw [log_windowRestarts, ladderStep_margin hm]; exact logEvent_last _ _

end Sys2Proof.FaultHandling
end

section
/-! Sensor samples, and the copies of log entries to flash (O10). -/

namespace Sys2Proof.FaultHandling

open Sys2Proof.Machine Sys2Proof.Safety Sys2Proof.Organisation Sys2Proof.MemoryTiers

/-! ### Sensor words (R522) -/

theorem bitOf_wordOf {n i : Nat} (h : i < 64) : bitOf (wordOf n) i = n.testBit i := by
  rw [bitOf, wordOf, BitVec.getLsbD_ofNat, decide_eq_true h, Bool.true_and]

theorem fieldOf_lt (w : Word) (hi lo : Nat) : fieldOf w hi lo < 2 ^ (hi + 1 - lo) := Nat.mod_lt _ (Nat.two_pow_pos _)

/-- A temperature word: the low 16 bits of the sample under the bit `i` of VALID or FAULT. -/
theorem fieldOf_tempWord {f i : Nat} (hf : f < 2 ^ 16) (hi : i = 16 ∨ i = 17) : fieldOf (wordOf (f + 2 ^ i)) 15 0 = f := by
  rcases hi with rfl | rfl <;> simp only [fieldOf, wordOf, BitVec.toNat_ofNat] <;> omega

theorem bitOf_tempWord {f i j : Nat} (hf : f < 2 ^ 16) (hi : i = 16 ∨ i = 17) (hj : j = 16 ∨ j = 17) :
    bitOf (wordOf (f + 2 ^ i)) j = decide (j = i) := by
  rw [bitOf_wordOf (by omega), Nat.testBit_eq_decide_div_mod_eq]
  rcases hi with rfl | rfl <;> rcases hj with rfl | rfl <;> simp <;> omega

theorem sampled_valid {off : Nat} (h : off < 0x4A0) (old v : Word) :
    fieldOf (sampled off old (some v)) 15 0 = fieldOf v 15 0 ∧ bitOf (sampled off old (some v)) 16 = true ∧
      bitOf (sampled off old (some v)) 17 = false := by
  have hs : sampled off old (some v) = wordOf (fieldOf v 15 0 + 2 ^ 16) := if_pos h
  have hf := fieldOf_lt v 15 0
  rw [hs]
  exact ⟨fieldOf_tempWord hf (.inl rfl), bitOf_tempWord hf (.inl rfl) (.inl rfl), bitOf_tempWord hf (.inl rfl) (.inr rfl)⟩

theorem sampled_fault {off : Nat} (h : off < 0x4A0) (old : Word) :
    bitOf (sampled off old none) 16 = false ∧ bitOf (sampled off old none) 17 = true := by
  have hs : sampled off old none = wordOf (fieldOf old 15 0 + 2 ^ 17) := if_pos h
  have hf := fieldOf_lt old 15 0
  rw [hs]
  exact ⟨bitOf_tempWord hf (.inr rfl) (.inl rfl), bitOf_tempWord hf (.inr rfl) (.inr rfl)⟩

theorem sampled_other {off : Nat} (h : 0x4A0 ≤ off) (old v : Word) : sampled off old (some v) = v := if_neg (Nat.not_lt.2 h)

/-- The sensor block with a reading taken. -/
def takeReading (ws : Tbl Word) (r : Reading) : Tbl Word :=
  Tbl.put ws r.offset.toNat (sampled r.offset.toNat (Tbl.getD ws r.offset.toNat 0) r.value)

/-- The last reading stands. -/
theorem getD_takeReadings_last (ws : Tbl Word) (rs : List Reading) (r : Reading) :
    ∃ old, Tbl.getD ((rs ++ [r]).foldl takeReading ws) r.offset.toNat 0 = sampled r.offset.toNat old r.value := by
  rw [List.foldl_append]; exact ⟨_, Tbl.getD_put_same _ _ _ _⟩

/-! ### Bands and classes of tiles (R485) -/

theorem nextBand_lt {old : Nat} (h : old < 8) (c : Int) : nextBand old c < 8 := by
  have below {k : Nat} (hk : k ≤ 8) (p : Nat → Bool) : ((List.range k).filter p).foldl max 0 < 8 :=
    List.foldlRecOn (motive := (· < 8)) _ max (by decide) fun a ha b hb =>
      Nat.max_lt.2 ⟨ha, (List.mem_range.1 (List.mem_of_mem_filter hb)).trans_le hk⟩
  exact Nat.max_lt.2 ⟨below (Nat.le_refl 8) _, below h _⟩

theorem bandOf_lt (h : TileHealth) : bandOf h < 8 := fieldOf_lt h.state 42 40

theorem activityClass_lt (p : Nat) : activityClass p < 4 := by unfold activityClass; (repeat' split) <;> omega

/-- A tile's record under a temperature: its band follows. -/
def rebanded (temp : Option Int) (h : TileHealth) : TileHealth :=
  match temp with
  | some c => { h with state := putField h.state 42 40 (nextBand (bandOf h) c) }
  | none => h

theorem bandOf_rebanded (temp : Option Int) (h : TileHealth) : bandOf (rebanded temp h) = match temp with
    | some c => nextBand (bandOf h) c
    | none => bandOf h := by
  cases temp with
  | none => rfl
  | some c => exact (fieldOf_putField_same _ 42 40 _ (by decide) (by decide)).trans (Nat.mod_eq_of_lt (nextBand_lt (bandOf_lt h) c))

theorem classOf_rebanded (temp : Option Int) (h : TileHealth) : classOf (rebanded temp h) = classOf h := by
  cases temp with
  | none => rfl
  | some c => exact fieldOf_putField_other _ 42 40 _ 44 43 (by decide) (by decide) (.inr (by decide))

/-- A tile's record under an occupancy: its class follows. -/
def reclassed (u : Nat) (h : TileHealth) : TileHealth :=
  { h with state := putField h.state 44 43 (activityClass u), busy := h.busy || decide (activityClass u ≠ 0) }

theorem classOf_reclassed (u : Nat) (h : TileHealth) : classOf (reclassed u h) = activityClass u :=
  (fieldOf_putField_same _ 44 43 _ (by decide) (by decide)).trans (Nat.mod_eq_of_lt (activityClass_lt u))

theorem bandOf_reclassed (u : Nat) (h : TileHealth) : bandOf (reclassed u h) = bandOf h :=
  fieldOf_putField_other _ 44 43 _ 42 40 (by decide) (by decide) (.inl (by decide))

/-! ### The samples over the tiles -/

/-- One tile takes its band from its sensors. -/
def bandTile (s : State) (n : Node) (t : Nat) : Node :=
  match tileTemp s t with
  | some c => setTile n t (rebanded (some c) (tileAt n t))
  | none => n

/-- One tile takes its class from its occupancy. -/
def classTile (n : Node) (o : TileId × BitVec 7) : Node := setTile n o.1.val (reclassed o.2.toNat (tileAt n o.1.val))

theorem tileAt_bandTile_same (s : State) (n : Node) (t : TileId) :
    tileAt (bandTile s n t.val) t.val = rebanded (tileTemp s t.val) (tileAt n t.val) := by
  unfold bandTile
  cases tileTemp s t.val with
  | none => rfl
  | some c => exact tileAt_setTile_same _ _ _

theorem tileAt_bandTile_other (s : State) (n : Node) {t j : Nat} (h : j ≠ t) : tileAt (bandTile s n t) j = tileAt n j := by
  unfold bandTile
  cases tileTemp s t with
  | none => rfl
  | some c => exact tileAt_setTile_other _ _ _ _ h

/-- Every tile takes its band, each from its own sensors. -/
theorem tileAt_bandTiles (s : State) (n : Node) (k : TileId) :
    tileAt ((List.range 64).foldl (bandTile s) n) k.val = rebanded (tileTemp s k.val) (tileAt n k.val) := by
  have leaves {l : List Nat} (h : k.val ∉ l) (m : Node) : tileAt (l.foldl (bandTile s) m) k.val = tileAt m k.val :=
    List.foldlRecOn (motive := fun x => tileAt x k.val = tileAt m k.val) l _ rfl fun x hx t ht =>
      (tileAt_bandTile_other s x fun he : k.val = t => h (he ▸ ht)).trans hx
  obtain ⟨l₁, l₂, hl⟩ := List.append_of_mem (List.mem_range.2 k.isLt)
  obtain ⟨-, hrest, hdisj⟩ := List.nodup_append.1 (hl ▸ List.nodup_range)
  rw [hl, List.foldl_append, List.foldl_cons, leaves (List.nodup_cons.1 hrest).1, tileAt_bandTile_same,
    leaves fun hk => hdisj _ hk _ (List.mem_cons_self ..) rfl]

theorem bandOf_classTile (n : Node) (o : TileId × BitVec 7) (k : Nat) :
    bandOf (tileAt (classTile n o) k) = bandOf (tileAt n k) := by
  by_cases h : k = o.1.val
  · subst h; exact (congrArg bandOf (tileAt_setTile_same _ _ _)).trans (bandOf_reclassed _ _)
  · exact congrArg bandOf (tileAt_setTile_other _ _ _ _ h)

theorem tileAt_classTiles_other {occ : List (TileId × BitVec 7)} {k : TileId} (h : ∀ o ∈ occ, o.1 ≠ k) (n : Node) :
    tileAt (occ.foldl classTile n) k.val = tileAt n k.val :=
  List.foldlRecOn (motive := fun x => tileAt x k.val = tileAt n k.val) occ _ rfl fun _ hx o ho =>
    (tileAt_setTile_other _ _ _ _ fun he => h o ho (Fin.ext he.symm)).trans hx

theorem classOf_classTiles_last (pre : List (TileId × BitVec 7)) (k : TileId) (u : BitVec 7) (n : Node) :
    classOf (tileAt ((pre ++ [(k, u)]).foldl classTile n) k.val) = activityClass u.toNat := by
  rw [List.foldl_append]
  exact (congrArg classOf (tileAt_setTile_same _ _ _)).trans (classOf_reclassed _ _)

/-- The node differs in the tiles' records at most. -/
def OnlyTiles (n m : Node) : Prop := m = { n with flt := { n.flt with tiles := m.flt.tiles } }

theorem onlyTiles_setTile {n m : Node} (h : OnlyTiles n m) (t : Nat) (g : TileHealth) : OnlyTiles n (setTile m t g) := by
  unfold OnlyTiles at *; rw [h]; rfl

theorem onlyTiles_bandTile {n m : Node} (h : OnlyTiles n m) (s : State) (t : Nat) : OnlyTiles n (bandTile s m t) := by
  unfold bandTile
  cases tileTemp s t with
  | none => exact h
  | some c => exact onlyTiles_setTile h _ _

/-- The state once the readings stand in the sensor block. -/
def withReadings (s : State) (rs : List Reading) : State :=
  { s with hl := { s.hl with sens := { s.hl.sens with words := rs.foldl takeReading s.hl.sens.words } } }

/-- The node once bands and classes have followed. -/
def sampledNode (s : State) (occ : List (TileId × BitVec 7)) : Node :=
  occ.foldl classTile ((List.range 64).foldl (bandTile s) s.nd)

theorem onlyTiles_sampledNode (s : State) (occ : List (TileId × BitVec 7)) : OnlyTiles s.nd (sampledNode s occ) :=
  List.foldlRecOn occ _ (List.foldlRecOn (List.range 64) _ rfl fun _ h t _ => onlyTiles_bandTile h s t) fun _ h _ _ =>
    onlyTiles_setTile h _ _

theorem sensorSample_eq {s : State} (hr : s.hl.restarting = false) (hoff : s.nd.power.off = false) (rs : List Reading)
    (occ : List (TileId × BitVec 7)) :
    sensorSample rs occ s = { withReadings s rs with nd := sampledNode (withReadings s rs) occ } := by
  unfold sensorSample sampledNode
  rw [if_neg (by simp [hr, hoff])]
  generalize List.range 64 = tiles
  rfl

/-! ### Log entries to flash (R524, R526) -/

theorem logEncode_length (e : LogEntry) : (logEncode e).length = 64 := by
  simp only [logEncode, List.length_append, leBytes_length]

section
variable (s : State) (e : LogEntry) (slot : Nat) (erase : Bool)

/-- A slot written changes flash, and the first entry that flash still holds. -/
theorem writeLogSlot_only : ∃ flash first, writeLogSlot s e slot erase =
    { s with hl := { s.hl with flash := flash }, nd := { s.nd with log := { s.nd.log with first := first } } } := by
  cases erase <;> exact ⟨_, _, rfl⟩

theorem writeLogSlot_hl : (writeLogSlot s e slot erase).hl =
    flashWrite (if erase then flashErase s.hl (logArea + slot / 1024 * 65536) 65536 else s.hl) (logArea + slot * 64) (logEncode e) := rfl

theorem writeLogSlot_reads : flashRead (writeLogSlot s e slot erase).hl (logArea + 64 * slot) 64 = logEncode e := by
  have hread := flashRead_write_same (if erase then flashErase s.hl (logArea + slot / 1024 * 65536) 65536 else s.hl)
    (logArea + slot * 64) (logEncode e)
  rw [logEncode_length] at hread
  rw [writeLogSlot_hl, Nat.mul_comm 64 slot, hread]

variable {slot} in
/-- Neither the slot nor its erase block reaches beyond the log area. -/
theorem writeLogSlot_flash_other (h : slot < 65536) {a : Nat} (ha : a < 0x7000000 ∨ 0x7400000 ≤ a) :
    memGet 0xFF (writeLogSlot s e slot erase).hl.flash a = memGet 0xFF s.hl.flash a := by
  have hslot : a < logArea + slot * 64 ∨ logArea + slot * 64 + (logEncode e).length ≤ a := by
    rw [logEncode_length, logArea]; omega
  have hblock : ¬(logArea + slot / 1024 * 65536 ≤ a ∧ a < logArea + slot / 1024 * 65536 + 65536) := by rw [logArea]; omega
  rw [writeLogSlot_hl, flashWrite, memGet_write_other _ _ _ _ _ hslot]
  cases erase with
  | false => rfl
  | true => rw [if_pos rfl, flashErase, memGet_clear, if_neg hblock]

end

/-- With room in the staging buffer, a new entry takes its place at the end. -/
theorem logEvent_staged {n : Node} (h : n.log.staged.length < 4096) (e : Event) : ∃ entry, (logEvent n e).log =
    { n.log with next := n.log.next + 1, last := n.log.next, staged := n.log.staged ++ [entry] } := by
  simp only [logEvent, if_pos h]
  exact ⟨_, rfl⟩

/-- Raising an alert changes nothing else of the log. -/
theorem raiseAlert_log (n : Node) (bit : Nat) : ∃ alert, (raiseAlert n bit).log = { n.log with alert := alert } := by
  unfold raiseAlert
  dsimp only
  (repeat' split) <;> exact ⟨_, rfl⟩

/-- The oldest staged entry is written, and leaves the staging buffer. -/
def copiedEntry (s : State) (e : LogEntry) (rest : List LogEntry) (slot : Nat) (erase : Bool) : State :=
  let w := writeLogSlot s e slot erase
  { w with nd := { w.nd with log := { w.nd.log with staged := rest } } }

/-- The entries that were not kept are covered by one entry, and the alert is raised. -/
def coverLost (s : State) : State :=
  alertIn (logIn { s with nd := { s.nd with log := { s.nd.log with lost := 0 } } }
    { otherEvent 10 0 with data0 := s.nd.log.lost, data1 := s.nd.log.lostFirst }) alLogDrop

theorem coverLost_keeps (s : State) : (coverLost s).nd.power = s.nd.power ∧ (coverLost s).nd.ctxs = s.nd.ctxs ∧
    (coverLost s).nd.mem = s.nd.mem := by
  refine ⟨?_, ?_, ?_⟩ <;> simp [coverLost]

theorem coverLost_log {s : State} (h : s.nd.log.staged.length < 4096) :
    (coverLost s).nd.log.staged.length = s.nd.log.staged.length + 1 ∧ (coverLost s).nd.log.lost = 0 ∧
      bitOf (coverLost s).nd.log.alert alLogDrop = true := by
  obtain ⟨entry, hlog⟩ := logEvent_staged (n := { s.nd with log := { s.nd.log with lost := 0 } }) h
    { otherEvent 10 0 with data0 := s.nd.log.lost, data1 := s.nd.log.lostFirst }
  obtain ⟨alert, halert⟩ := raiseAlert_log (logEvent { s.nd with log := { s.nd.log with lost := 0 } }
    { otherEvent 10 0 with data0 := s.nd.log.lost, data1 := s.nd.log.lostFirst }) alLogDrop
  have hall : (coverLost s).nd.log = _ := halert.trans (congrArg (fun l : EventLog => { l with alert := alert }) hlog)
  refine ⟨?_, ?_, bitOf_alert_raiseAlert _ (by decide)⟩
  · rw [hall]; exact List.length_append
  · rw [hall]

/-- The slot an entry goes to: its place in the log area, or the same place of the next erase block. -/
def logSlot (ok : Bool) (e : LogEntry) : Nat := if ok then e.lseq % 65536 else (e.lseq % 65536 + 1024) % 65536

theorem logSlot_lt (ok : Bool) (e : LogEntry) : logSlot ok e < 65536 := by
  unfold logSlot; split <;> exact Nat.mod_lt _ (by decide)

theorem logFlashCopy_eq {s : State} {e : LogEntry} {rest : List LogEntry} (hr : s.hl.restarting = false)
    (hoff : s.nd.power.off = false) (hs : s.nd.log.staged = e :: rest) (ok : Bool) :
    ∃ erase, logFlashCopy ok s = if s.nd.log.lost = 0 then copiedEntry s e rest (logSlot ok e) erase
      else coverLost (copiedEntry s e rest (logSlot ok e) erase) := by
  unfold logFlashCopy
  rw [if_neg (by simp [hr, hoff]), hs]
  cases ok <;> exact ⟨_, rfl⟩

/-- What a copy leaves, whether or not entries were lost. -/
theorem copiedEntry_keeps (s : State) (e : LogEntry) (rest : List LogEntry) (slot : Nat) (erase : Bool) :
    let t := copiedEntry s e rest slot erase
    t.nd.log.staged = rest ∧ t.nd.log.alert = s.nd.log.alert ∧ t.nd.log.next = s.nd.log.next ∧
      t.hl = { s.hl with flash := t.hl.flash } ∧ t.nd.power = s.nd.power ∧ t.nd.ctxs = s.nd.ctxs ∧ t.nd.mem = s.nd.mem ∧
      t.pending = s.pending := by
  obtain ⟨flash, first, h⟩ := writeLogSlot_only s e slot erase
  unfold copiedEntry
  rw [h]
  exact ⟨rfl, rfl, rfl, rfl, rfl, rfl, rfl, rfl⟩

/-! ### The rows together -/

/-- Settles O10: a sample stands as the last reading of its offset put it, each tile takes its band and class in its own record, and a log
entry's slot lies in the log area with its erase block. That a tile's class is taken from the occupancy given with the sample (log 34), and
that a failed copy goes to the same place of the next erase block (log 38), is the model's reading. -/
theorem samplesAndLogStand : Obligations.SamplesAndLogStand := by
  unfold Obligations.SamplesAndLogStand
  refine ⟨fun rs r occ s hr hoff => ?_, fun ok e rest s hr hoff hs hroom => ?_⟩
  · obtain ⟨old, hw⟩ := getD_takeReadings_last s.hl.sens.words rs r
    refine ⟨_, congrArg Host.Outcome.next (sensorSample_eq hr hoff (rs ++ [r]) occ), ?_⟩
    beta_reduce
    intro w
    have hw : w = sampled r.offset.toNat old r.value := hw
    refine ⟨fun v hv ho => ?_, fun hv ho => ?_, fun v hv ho => ?_, fun k => ?_, fun k hk => ?_, fun pre k u hocc => ?_, rfl, rfl,
      onlyTiles_sampledNode _ occ⟩
    · rw [hw, hv]; exact sampled_valid ho old v
    · rw [hw, hv]; exact sampled_fault ho old
    · rw [hw, hv]; exact sampled_other ho old v
    · refine (foldl_keeps classTile (fun n => bandOf (tileAt n k.val)) (fun n o => bandOf_classTile n o k.val) occ _).trans ?_
      exact (congrArg bandOf (tileAt_bandTiles _ s.nd k)).trans (bandOf_rebanded _ _)
    · refine (congrArg classOf (tileAt_classTiles_other hk _)).trans ?_
      rw [tileAt_bandTiles, classOf_rebanded]; rfl
    · rw [hocc]; exact classOf_classTiles_last pre k u _
  · obtain ⟨erase, hcopy⟩ := logFlashCopy_eq hr hoff hs ok
    have hread := writeLogSlot_reads s e (logSlot ok e) erase
    have hother := fun a => writeLogSlot_flash_other s e erase (logSlot_lt ok e) (a := a)
    obtain ⟨hstaged, halert, hnext, hhl, hpower, hctxs, hmem, hpending⟩ := copiedEntry_keeps s e rest (logSlot ok e) erase
    refine ⟨_, congrArg Host.Outcome.next hcopy, ?_⟩
    by_cases hlost : s.nd.log.lost = 0
    · rw [if_pos hlost]
      exact ⟨hread, hother, fun _ => ⟨hstaged, halert, hnext⟩, absurd hlost, hhl, hpower, hctxs, hmem, hpending⟩
    · obtain ⟨cpower, cctxs, cmem⟩ := coverLost_keeps (copiedEntry s e rest (logSlot ok e) erase)
      have hlog := coverLost_log (s := copiedEntry s e rest (logSlot ok e) erase) (by
        rw [hs, List.length_cons] at hroom; rw [hstaged]; exact hroom)
      rw [if_neg hlost]
      exact ⟨hread, hother, fun h => absurd h hlost, fun _ => hstaged ▸ hlog, hhl, cpower.trans hpower, cctxs.trans hctxs,
        cmem.trans hmem, hpending⟩

end Sys2Proof.FaultHandling
end

section
/-! How BIST ends step 4 of a start: its failures settled, its record in flash, and what comes of the start (O6). -/

namespace Sys2Proof.FaultHandling

open Sys2Proof.Machine Sys2Proof.Safety Sys2Proof.Organisation Sys2Proof.MemoryTiers

/-! ### Failures settled (R484, R560) -/

/-- A failure settled changes the fault records alone. -/
theorem settleFailure_only (n : Node) (f : BistFailure) : ∃ flt, (settleFailure n f).1 = { n with flt := flt } := by
  unfold settleFailure
  extract_lets
  (repeat' split) <;> exact ⟨_, rfl⟩

theorem settleAll_only (fs before : List BistFailure) (n : Node) (os : List Nat) :
    ∃ flt, (settleAll fs before n os).1 = { n with flt := flt } := by
  induction fs generalizing before n os with
  | nil => exact ⟨_, rfl⟩
  | cons f rest ih =>
    rw [settleAll]
    split
    · exact ih _ _ _
    · obtain ⟨flt, hone⟩ := settleFailure_only n f
      obtain ⟨flt', hrest⟩ := ih (before ++ [f]) (settleFailure n f).1 (os ++ [(settleFailure n f).2])
      exact ⟨flt', hrest.trans (by rw [hone])⟩

section
variable (n : Node) {f : BistFailure}

/-- A lane slice out of service: a spare takes its place up to the eighth, and the ninth retires the tile. -/
theorem settleFailure_lane (hu : f.uclass = 0) (ha : f.array = 3) :
    let h := tileAt n f.unit_.toNat
    settleFailure n f = (setTile n f.unit_.toNat { h with lanesOut := h.lanesOut + 1, retired := h.retired || decide (8 ≤ h.lanesOut) },
      if 8 ≤ h.lanesOut then 4 else 2) :=
  (if_pos hu).trans (if_pos (congrArg BitVec.toNat ha))

theorem settleFailure_engine (hu : f.uclass = 0) (ha : f.array = 6 ∨ f.array = 7 ∨ f.array = 8) :
    settleFailure n f = (setTile n f.unit_.toNat { tileAt n f.unit_.toNat with retired := true }, 4) := by
  rcases ha with ha | ha | ha <;> simp [settleFailure, hu, ha, tileAt, setTile]

theorem settleFailure_block (hu : f.uclass = 3) : (settleFailure n f).2 = 6 ∧
    (settleFailure n f).1.flt.blocksOut.contains f.unit_.toNat = true := by
  cases hc : n.flt.blocksOut.contains f.unit_.toNat <;> simp [settleFailure, hu] at hc ⊢ <;> simp [hc]

end

/-! ### The records in flash (R558, R561) -/

theorem flashRead_erase_other (h : Halord) {a n off len : Nat} (hd : off + len ≤ a ∨ a + n ≤ off) :
    flashRead (flashErase h a n) off len = flashRead h off len := by
  refine List.ext_getElem (by simp [flashRead, memRead_length]) fun k hk _ => ?_
  rw [flashRead, memRead_length] at hk
  simp only [flashRead, memRead_getElem, flashErase]
  rw [memGet_clear, if_neg (by omega)]

theorem flashRead_of_flash {h g : Halord} (e : h.flash = g.flash) (off len : Nat) : flashRead h off len = flashRead g off len := by
  rw [flashRead, flashRead, e]

/-- The record of the repairs stays within its erase block. -/
theorem flashRead_writeRepairRecord_other (h : Halord) (boot : Nat) (fs : List BistFailure) (os : List Nat) {off len : Nat}
    (hoff : 0x6090000 ≤ off) : flashRead (writeRepairRecord h boot fs os) off len = flashRead h off len := by
  unfold writeRepairRecord
  dsimp only
  rw [flashRead_write_other, flashRead_erase_other _ (.inr (by omega))]
  right
  rw [flashRecord_length, List.length_take]
  omega

/-- The BIST result record as R558 lays it out. -/
def bistRecord (boot : Nat) (fs : List BistFailure) (os : List Nat) : Bytes :=
  let kept := (fs.zip os).take 16380
  flashRecord (boot + kept.length * 2 ^ 32 + bit01 (decide (16380 < fs.length)) * 2 ^ 46) (os.filter (· == 7)).length
    (kept.flatMap fun x => bistEntry x.1 x.2)

theorem flashRead_writeBistRecord (h : Halord) (boot : Nat) (fs : List BistFailure) (os : List Nat) :
    flashRead (writeBistRecord h boot fs os) 0x60A0000 (bistRecord boot fs os).length = bistRecord boot fs os :=
  flashRead_write_same _ _ _

theorem writeRepairRecord_sec (h : Halord) (boot : Nat) (fs : List BistFailure) (os : List Nat) :
    (writeRepairRecord h boot fs os).sec = h.sec := rfl

theorem writeBistRecord_sec (h : Halord) (boot : Nat) (fs : List BistFailure) (os : List Nat) :
    (writeBistRecord h boot fs os).sec = h.sec := rfl

/-! ### Tiles retired at a start (R557) -/

/-- A tile out of service, retired or gated. -/
def tileOut (n : Node) (t : Nat) : Bool := (tileAt n t).retired || (tileAt n t).gated

theorem deadRegion_congr {n m : Node} (h : ∀ t, tileOut n t = tileOut m t) : deadRegion n = deadRegion m := by
  have eq (x : Node) : deadRegion x = (List.range 8).any fun r => (List.range 8).all fun k => tileOut x (8 * r + k) := rfl
  simp only [eq, h]

/-- A retired tile hands its entries over to its successor. -/
def retireTile (s : State) (t : Nat) : State :=
  if (tileAt s.nd t).retired then
    match successorTile s.nd t with
    | none => s
    | some u =>
      let m := setTile s.nd t { tileAt s.nd t with state := putField (tileAt s.nd t).state 45 45 1 }
      logIn { s with nd := { m with flt := remapTile m.flt t u } }
        { sev := sevWarn, code := 0x121, uclass := 3, unit_ := t, data0 := t, data1 := u }
  else s

theorem retireAtStart_eq (s : State) : retireAtStart s = (List.range 64).foldl retireTile s := by
  unfold retireAtStart
  generalize List.range 64 = tiles
  rfl

/-- A retirement changes the fault records and the log alone. -/
theorem retireTile_keeps {α : Type} (g : State → α) (h : ∀ s flt e, g (logIn { s with nd := { s.nd with flt := flt } } e) = g s)
    (s : State) (t : Nat) : g (retireTile s t) = g s := by
  unfold retireTile
  split
  · split
    · rfl
    · exact h _ _ _
  · rfl

theorem retireAtStart_keeps {α : Type} (g : State → α) (h : ∀ s flt e, g (logIn { s with nd := { s.nd with flt := flt } } e) = g s)
    (s : State) : g (retireAtStart s) = g s := by
  rw [retireAtStart_eq]; exact foldl_keeps retireTile g (retireTile_keeps g h) _ s

theorem tileOut_setTile (n : Node) (t : TileId) {h : TileHealth} (hk : (h.retired || h.gated) = tileOut n t.val) (j : Nat) :
    tileOut (setTile n t.val h) j = tileOut n j := by
  by_cases hj : j = t.val
  · subst hj; rw [← hk, tileOut, tileAt_setTile_same]
  · rw [tileOut, tileOut, tileAt_setTile_other _ _ _ _ hj]

theorem tileOut_congr {n m : Node} (h : n.flt.tiles = m.flt.tiles) (j : Nat) : tileOut n j = tileOut m j := by
  simp only [tileOut, tileAt, h]

theorem tileOut_retireTile (s : State) (t : TileId) (j : Nat) : tileOut (retireTile s t.val).nd j = tileOut s.nd j := by
  unfold retireTile
  split
  · split
    · rfl
    · refine Eq.trans (tileOut_congr ?_ j) (tileOut_setTile s.nd t
        (h := { tileAt s.nd t.val with state := putField (tileAt s.nd t.val).state 45 45 1 }) rfl j)
      rw [logIn_nd, logEvent_flt]; rfl
  · rfl

theorem tileOut_retireTiles {l : List Nat} (hl : ∀ t ∈ l, t < 64) (s : State) (j : Nat) :
    tileOut (l.foldl retireTile s).nd j = tileOut s.nd j := by
  induction l generalizing s with
  | nil => rfl
  | cons t l ih =>
    rw [List.foldl_cons, ih fun u hu => hl u (List.mem_cons_of_mem _ hu)]
    exact tileOut_retireTile s ⟨t, hl t List.mem_cons_self⟩ j

/-- No region is lost or won by the hand-over. -/
theorem deadRegion_retireAtStart (s : State) : deadRegion (retireAtStart s).nd = deadRegion s.nd := by
  rw [retireAtStart_eq]
  exact deadRegion_congr (tileOut_retireTiles (fun t => List.mem_range.1) s)

/-! ### BIST reported (R552, R555, R557) -/

/-- The state once failures are settled and recorded, and the unit-secret path has opened. -/
def bistSettled (fs : List BistFailure) (s : State) : State :=
  let r := settleAll fs [] s.nd []
  let h := writeRepairRecord (writeBistRecord s.hl r.1.power.bootCount fs r.2) r.1.power.bootCount fs r.2
  { s with nd := r.1, hl := { h with sec := openSecretPath h.sec } }

/-- The state once the tiles retired have their successors, and BIST is logged. -/
def bistReported (fs : List BistFailure) (s : State) : State :=
  logIn (retireAtStart (bistSettled fs s)) { sev := sevNotice, code := 0x120, data0 := min fs.length 16380,
                                             data1 := ((settleAll fs [] s.nd []).2.filter (· == 7)).length }

section
variable (fs : List BistFailure) (s : State)

/-- After the failures are settled, BIST changes the fault records and the log alone. -/
theorem bistReported_of_settled {α : Type} (g : State → α)
    (h : ∀ s flt e, g (logIn { s with nd := { s.nd with flt := flt } } e) = g s) : g (bistReported fs s) = g (bistSettled fs s) := by
  have logged (x : State) (e : Event) : g (logIn x e) = g x := h x x.nd.flt e
  exact (logged _ _).trans (retireAtStart_keeps g h _)

theorem bistReported_hl : (bistReported fs s).hl = (bistSettled fs s).hl := bistReported_of_settled fs s State.hl fun _ _ _ => rfl

theorem bistReported_sec : (bistReported fs s).hl.sec = openSecretPath s.hl.sec := by
  rw [bistReported_hl, bistSettled]
  dsimp only
  rw [writeRepairRecord_sec, writeBistRecord_sec]

theorem bistSettled_flash :
    let r := settleAll fs [] s.nd []
    let boot := r.1.power.bootCount
    (bistSettled fs s).hl.flash = (writeRepairRecord (writeBistRecord s.hl boot fs r.2) boot fs r.2).flash := by
  simp only [bistSettled]

theorem bistReported_pending : (bistReported fs s).pending = s.pending := by
  rw [bistReported_of_settled fs s State.pending fun _ _ _ => rfl, bistSettled]

/-- Of the node, nothing but the fault records, the log, the free values and the counters has changed. -/
theorem bistReported_keeps {α : Type} (g : Node → α) (hf : ∀ n flt, g { n with flt := flt } = g n) (hl : ∀ n e, g (logEvent n e) = g n) :
    g (bistReported fs s).nd = g s.nd := by
  obtain ⟨flt, hr⟩ := settleAll_only fs [] s.nd []
  refine (bistReported_of_settled fs s (fun x => g x.nd) fun x flt e => (hl _ e).trans (hf x.nd flt)).trans ?_
  exact (congrArg g hr).trans (hf _ _)

theorem bistReported_power : (bistReported fs s).nd.power = s.nd.power :=
  bistReported_keeps fs s Node.power (fun _ _ => rfl) fun _ _ => rfl

theorem bistReported_ctxs : (bistReported fs s).nd.ctxs = s.nd.ctxs :=
  bistReported_keeps fs s Node.ctxs (fun _ _ => rfl) fun _ _ => rfl

theorem bistReported_alm : (bistReported fs s).nd.alm = s.nd.alm :=
  bistReported_keeps fs s Node.alm (fun _ _ => rfl) fun _ _ => rfl

theorem bistReported_deadRegion : deadRegion (bistReported fs s).nd = deadRegion (settleAll fs [] s.nd []).1 := by
  have hlogged (n : Node) (e : Event) : deadRegion (logEvent n e) = deadRegion n := deadRegion_congr fun _ => rfl
  rw [bistReported, logIn_nd, hlogged, deadRegion_retireAtStart, bistSettled]

theorem bistReported_record :
    let record := bistRecord s.nd.power.bootCount fs (settleAll fs [] s.nd []).2
    flashRead (bistReported fs s).hl 0x60A0000 record.length = record := by
  obtain ⟨flt, hr⟩ := settleAll_only fs [] s.nd []
  have hboot : (settleAll fs [] s.nd []).1.power.bootCount = s.nd.power.bootCount := by rw [hr]
  dsimp only
  rw [← hboot, bistReported_hl, flashRead_of_flash (bistSettled_flash fs s)]
  exact (flashRead_writeRepairRecord_other _ _ _ _ (by decide)).trans (flashRead_writeBistRecord _ _ _ _)

end

/-! ### A start that fails (R569) -/

theorem bitOf_alert_raiseAlert_kept {n : Node} {i : Nat} (hi : bitOf n.log.alert i = true) {bit : Nat} (hb : bit < 64) :
    bitOf (raiseAlert n bit).log.alert i = true := by
  by_cases h : i = bit
  · subst h; exact bitOf_alert_raiseAlert n hb
  · unfold raiseAlert
    have hput : bitOf (putField n.log.alert bit bit 1) i = true :=
      (bitOf_putField_other _ _ _ _ _ hb (Nat.le_refl _) (by omega)).trans hi
    split
    · exact hi
    · dsimp only
      (repeat' split) <;> exact hput

theorem bitOf_alert_failStart (s : State) (k cause : Nat) : bitOf (failStart s k cause).nd.log.alert alFault = true :=
  bitOf_alert_raiseAlert_kept (bitOf_alert_raiseAlert _ (by decide)) (by decide)

/-! ### A start that goes on (R508, R509) -/

/-- Step 4 is done: failed port blocks are disabled with their dense ports. -/
def bistPassed (s : State) : State :=
  let n := s.nd.flt.blocksOut.foldl disableBlock s.nd
  completeStep { s with nd := { n with mem := disableDenses n.mem n.flt.blocksOut } } 4

section
variable (s : State)

theorem bistPassed_keeps {α : Type} (g : Node → α) (hd : ∀ n r, g (disableBlock n r) = g n) (hm : ∀ n mem, g { n with mem := mem } = g n)
    (hc : ∀ x k, g (completeStep x k).nd = g x.nd) : g (bistPassed s).nd = g s.nd :=
  (hc _ _).trans ((hm _ _).trans (foldl_keeps disableBlock g hd _ _))

theorem bistPassed_hl : (bistPassed s).hl = s.hl := rfl

theorem bistPassed_pending : (bistPassed s).pending = s.pending := rfl

theorem bistPassed_power : (bistPassed s).nd.power = { s.nd.power with step := 4, stepsDone := s.nd.power.stepsDone ++ [4] } := by
  have hfold : (s.nd.flt.blocksOut.foldl disableBlock s.nd).power = s.nd.power := foldl_keeps disableBlock Node.power disableBlock_power _ _
  exact (completeStep_power _ _).trans (congrArg (fun p : Power => { p with step := 4, stepsDone := p.stepsDone ++ [4] }) hfold)

theorem bistPassed_ctxs : (bistPassed s).nd.ctxs = s.nd.ctxs :=
  bistPassed_keeps s Node.ctxs disableBlock_ctxs (fun _ _ => rfl) completeStep_nd_ctxs

theorem bistPassed_alm : (bistPassed s).nd.alm = s.nd.alm :=
  bistPassed_keeps s Node.alm disableBlock_alm (fun _ _ => rfl) completeStep_nd_alm

/-- The head takes address 1 and sends ENUM from it. -/
theorem sendEnum_sends : (sendEnum s).nd.chainAddr = 1 ∧ (sendEnum s).hl.chain.enumOut = true ∧
    (sendEnum s).nd.out.getLast? = some (.chain (chainEncode
      { dst := 0, src := 1, type := 1, tag := 0, status := 0, payload := [2, 0] ++ leBytes 2 s.nd.alm.groupBase })) :=
  ⟨rfl, rfl, List.getLast?_concat⟩

/-- A node ID taken changes the node ID and the chain's status at most. -/
theorem takeNodeId_only : ∃ id status, takeNodeId s =
    { s with nd := { s.nd with nodeId := id }, hl := { s.hl with chain := { s.hl.chain with status := status } } } := by
  unfold takeNodeId
  dsimp only
  (repeat' split) <;> exact ⟨_, _, rfl⟩

end

/-- What the start goes on to. -/
def bistOnward (s : State) : State := if s.nd.power.hostEn then sendEnum s else advanceStart (takeNodeId s)

theorem bistOnward_keeps {s : State} (h : s.nd.power.standbyWaits = false) :
    let t := bistOnward s
    (∀ k, s.nd.power.stepsDone.contains k = true → t.nd.power.stepsDone.contains k = true) ∧
      t.nd.power.holding = s.nd.power.holding ∧ t.nd.power.failed = s.nd.power.failed ∧ t.hl.sec = s.hl.sec ∧
      t.hl.flash = s.hl.flash ∧ t.nd.ctxs = s.nd.ctxs ∧ t.pending = s.pending := by
  unfold bistOnward
  split
  · exact ⟨fun _ hk => hk, rfl, rfl, rfl, rfl, rfl, rfl⟩
  · obtain ⟨id, status, ht⟩ := takeNodeId_only s
    have hw : (takeNodeId s).nd.power.standbyWaits = false := by rw [ht]; exact h
    refine ⟨fun k hk => List.contains_iff_mem.2 (advanceStart_stepsDone _ hw k ?_), ?_, ?_, ?_, ?_, ?_, ?_⟩
    · rw [ht]; exact List.contains_iff_mem.1 hk
    · rw [advanceStart_power_holding _ hw, ht]
    · rw [advanceStart_power_failed _ hw, ht]
    · rw [advanceStart_hl _ hw, ht]
    · rw [advanceStart_hl _ hw, ht]
    · rw [advanceStart_nd_ctxs _ hw, ht]
    · rw [advanceStart_pending _ hw, ht]

/-! ### The row -/

section
variable {fs : List BistFailure} {s : State} (hoff : s.nd.power.off = false) (hstate : s.nd.power.state = 0)
  (hhold : s.nd.power.holding = false) (hrail : s.nd.power.railStep = 0) (hthree : s.nd.power.stepsDone.contains 3 = true)
  (hfour : s.nd.power.stepsDone.contains 4 = false)
include hoff hstate hhold hrail hthree hfour

theorem bistComplete_eq : bistComplete fs s =
    if deadRegion (bistReported fs s).nd || (settleAll fs [] s.nd []).2.contains 7 then failStart (bistReported fs s) 4 0x120
    else
      let t := stepEnded (bistPassed (bistReported fs s))
      if t.nd.power.state = 1 then t else bistOnward t := by
  unfold bistComplete
  dsimp only
  rw [if_neg (by rw [hoff, hstate, hhold, hrail, hthree, hfour]; decide)]
  unfold bistReported bistSettled bistOnward bistPassed
  dsimp only

theorem bistComplete_fails (hf : deadRegion (settleAll fs [] s.nd []).1 = true ∨ (settleAll fs [] s.nd []).2.contains 7 = true) :
    bistComplete fs s = failStart (bistReported fs s) 4 0x120 := by
  have hdead : (deadRegion (bistReported fs s).nd || (settleAll fs [] s.nd []).2.contains 7) = true := by
    rw [bistReported_deadRegion, Bool.or_eq_true]; exact hf
  rw [bistComplete_eq hoff hstate hhold hrail hthree hfour, if_pos hdead]

theorem bistComplete_passes (hw : s.nd.power.standbyWaits = false) (hd : deadRegion (settleAll fs [] s.nd []).1 = false)
    (h7 : (settleAll fs [] s.nd []).2.contains 7 = false) : bistComplete fs s = bistOnward (bistPassed (bistReported fs s)) := by
  have hlive : ¬(deadRegion (bistReported fs s).nd || (settleAll fs [] s.nd []).2.contains 7) = true := by
    rw [bistReported_deadRegion, hd, h7]; exact Bool.false_ne_true
  have hp := bistPassed_power (bistReported fs s)
  rw [bistReported_power] at hp
  have hended : stepEnded (bistPassed (bistReported fs s)) = bistPassed (bistReported fs s) :=
    stepEnded_of_not_waiting _ (by rw [hp]; exact hw)
  have hstart : ¬(bistPassed (bistReported fs s)).nd.power.state = 1 := by rw [hp, hstate]; decide
  rw [bistComplete_eq hoff hstate hhold hrail hthree hfour, if_neg hlive]
  dsimp only
  rw [hended, if_neg hstart]

end

/-- Settles O6: the settled failures change the fault records alone, so the report finds the power record as it was and the record it
writes is the only one in its erase block; what follows is the failed start, or step 4 done and the chain enumerated. -/
theorem bistEndsStepFour : Obligations.BistEndsStepFour := by
  unfold Obligations.BistEndsStepFour
  refine ⟨fun fs s hoff hstate hhold hrail hw hthree hfour => ?_, fun _ => rfl, fun n f hu ha => ?_, fun n f hu ha => ?_,
    fun n f hu => settleFailure_block n hu⟩
  · have hrecord := bistReported_record fs s
    have hpower := bistReported_power fs s
    refine ⟨fun hd h7 => ?_, fun hf => ?_⟩
    · have hpassed := bistPassed_power (bistReported fs s)
      rw [hpower] at hpassed
      obtain ⟨hdone, hheld, hfailed, hsec, hflash, hctxs, hpending⟩ :=
        bistOnward_keeps (s := bistPassed (bistReported fs s)) (by rw [hpassed]; exact hw)
      rw [bistPassed_hl] at hsec hflash
      have hopened := hsec.trans (bistReported_sec fs s)
      refine ⟨_, congrArg Host.Outcome.next (bistComplete_passes hoff hstate hhold hrail hthree hfour hw hd h7), hdone 4 ?_, ?_, ?_,
        fun hc => ?_, fun hc => ?_, ?_, ?_, ?_, fun hh => ?_⟩
      · rw [hpassed]; exact List.contains_iff_mem.2 (List.mem_append_right _ (List.mem_singleton_self 4))
      · rw [hheld, hpassed]; exact hhold
      · rw [hfailed, hpassed]
      · rw [hopened, openSecretPath, hc]; exact ⟨rfl, rfl⟩
      · rw [hopened, openSecretPath, hc]; rfl
      · exact (flashRead_of_flash hflash _ _).trans hrecord
      · exact hctxs.trans ((bistPassed_ctxs _).trans (bistReported_ctxs fs s))
      · exact hpending.trans ((bistPassed_pending _).trans (bistReported_pending fs s))
      · have hhost : (bistPassed (bistReported fs s)).nd.power.hostEn = true := by rw [hpassed]; exact hh
        have henum := sendEnum_sends (bistPassed (bistReported fs s))
        rw [bistPassed_alm, bistReported_alm] at henum
        rw [bistOnward, if_pos hhost]
        exact henum
    · refine ⟨_, congrArg Host.Outcome.next (bistComplete_fails hoff hstate hhold hrail hthree hfour hf), ?_⟩
      beta_reduce
      rw [failStart_power, failStart_hl, failStart_nd_ctxs, failStart_pending, hpower]
      exact ⟨rfl, rfl, rfl, hstate, bitOf_alert_failStart _ _ _, hrecord, bistReported_ctxs fs s, bistReported_pending fs s⟩
  · rw [settleFailure_lane n hu ha]; exact ⟨rfl, rfl⟩
  · rw [settleFailure_engine n hu ha]; exact ⟨rfl, rfl⟩

end Sys2Proof.FaultHandling
end

section
/-! What lasts from step to step: the queue, the form of flash, the fuses, and the Unsealed latch with what may end it. Here, what each
command of Halord's own leaves of them (O53, O56–O59). -/

namespace Sys2Proof.HalordService

open Sys2Proof.Machine Sys2Proof.Safety Sys2Proof.Organisation Sys2Proof.FaultHandling

/-! ### What lasts -/

/-- What of the state the safety statements speak of. -/
def lasting (s : State) : List Instr × Tbl Byte × Nat × Bool × Bool × Bool :=
  (s.pending, s.hl.flash, s.hl.sec.fuses, s.hl.sec.presOpen, s.hl.sec.sealOk, s.hl.sec.unsealed)

/-- A Halord that may come of another while the presence window does not open and no sample closes the seal: flash keeps its form, no fuse
is unblown, and the Unsealed state ends only with presence and a closed loop (R574, R586). -/
def HalordFollows (h k : Halord) : Prop :=
  (memWf 0xFF h.flash = true → memWf 0xFF k.flash = true) ∧
  (h.sec.fuses ≤ 64 → h.sec.fuses ≤ k.sec.fuses ∧ k.sec.fuses ≤ 64) ∧
  (k.sec.presOpen = true → h.sec.presOpen = true) ∧ (k.sec.sealOk = true → h.sec.sealOk = true) ∧
  (h.sec.unsealed = true → k.sec.unsealed = true ∨ h.sec.presOpen = true ∧ h.sec.sealOk = true)

/-- A state that may come of another in the same way, with the queue as it was. -/
def Follows (s t : State) : Prop := t.pending = s.pending ∧ HalordFollows s.hl t.hl

theorem HalordFollows.refl (h : Halord) : HalordFollows h h := ⟨id, fun hf => ⟨Nat.le_refl _, hf⟩, id, id, .inl⟩

theorem HalordFollows.trans {h k l : Halord} (a : HalordFollows h k) (b : HalordFollows k l) : HalordFollows h l := by
  obtain ⟨aflash, afuses, apres, aseal, aopen⟩ := a
  obtain ⟨bflash, bfuses, bpres, bseal, bopen⟩ := b
  refine ⟨bflash ∘ aflash, fun hf => ?_, apres ∘ bpres, aseal ∘ bseal, fun hu => ?_⟩
  · obtain ⟨hle, hmax⟩ := afuses hf
    exact ⟨hle.trans (bfuses hmax).1, (bfuses hmax).2⟩
  · obtain hk | he := aopen hu
    · exact (bopen hk).imp_right fun ⟨hp, hs⟩ => ⟨apres hp, aseal hs⟩
    · exact .inr he

theorem Follows.refl (s : State) : Follows s s := ⟨rfl, .refl _⟩

theorem Follows.trans {s t u : State} (a : Follows s t) (b : Follows t u) : Follows s u := ⟨b.1.trans a.1, a.2.trans b.2⟩

theorem Follows.of_lasting {s t : State} (h : lasting t = lasting s) : Follows s t := by
  simp only [lasting, Prod.mk.injEq] at h
  obtain ⟨hpending, hflash, hfuses, hpres, hseal, hopen⟩ := h
  refine ⟨hpending, ?_⟩
  unfold HalordFollows
  rw [hflash, hfuses, hpres, hseal, hopen]
  exact HalordFollows.refl _

/-- What only changes things that do not last may come before or after. -/
theorem Follows.lastly {s t u : State} (h : Follows s t) (hl : lasting u = lasting t) : Follows s u := h.trans (.of_lasting hl)

theorem Follows.firstly {s t u : State} (h : Follows t u) (hl : lasting t = lasting s) : Follows s u := (Follows.of_lasting hl).trans h

/-- A Halord that may come of the old one, with any node. -/
theorem Follows.of_halord {s : State} {h : Halord} (n : Node) (hf : HalordFollows s.hl h) : Follows s { s with nd := n, hl := h } :=
  ⟨rfl, hf⟩

theorem Follows.foldl {α : Type} {f : State → α → State} (h : ∀ s a, Follows s (f s a)) (l : List α) (s : State) :
    Follows s (l.foldl f s) :=
  List.foldlRecOn (motive := Follows s) l f (.refl s) fun _ ht a _ => ht.trans (h _ a)

/-! ### What touches nothing that lasts -/

section
variable (s : State)

theorem lasting_withNode (n : Node) : lasting { s with nd := n } = lasting s := rfl
@[simp] theorem lasting_logIn (e : Event) : lasting (logIn s e) = lasting s := rfl
@[simp] theorem lasting_alertIn (bit : Nat) : lasting (alertIn s bit) = lasting s := rfl
@[simp] theorem lasting_setPower (f : Power → Power) : lasting (setPower s f) = lasting s := rfl
@[simp] theorem lasting_onNode (f : Node → Node) : lasting (onNode s f) = lasting s := rfl
@[simp] theorem lasting_onPolicy (f : Policy → Policy) : lasting (onPolicy s f) = lasting s := rfl
@[simp] theorem lasting_policyStep : lasting (policyStep s) = lasting s := rfl
@[simp] theorem lasting_onMbx (f : Mailbox → Mailbox) : lasting (onMbx s f) = lasting s := rfl
@[simp] theorem lasting_onChain (f : Chain → Chain) : lasting (onChain s f) = lasting s := rfl
@[simp] theorem lasting_onI3c (f : I3c → I3c) : lasting (onI3c s f) = lasting s := rfl
@[simp] theorem lasting_countHalord (k : Nat) : lasting (countHalord s k) = lasting s := rfl
@[simp] theorem lasting_putFrame (bs : Bytes) : lasting (putFrame s bs) = lasting s := rfl
@[simp] theorem lasting_sendChain (dst type tag st : Nat) (bs : Bytes) : lasting (sendChain s dst type tag st bs) = lasting s := rfl
@[simp] theorem lasting_askChain (dst type : Nat) (bs : Bytes) (why : ChainFor) (words : Nat) :
    lasting (askChain s dst type bs why words) = lasting s := rfl
@[simp] theorem lasting_takeTag : lasting (takeTag s).1 = lasting s := rfl
@[simp] theorem lasting_rxLocked : lasting (rxLocked s) = lasting s := rfl
@[simp] theorem lasting_mbxEnd (st : Nat) : lasting (mbxEnd s st) = lasting s := rfl
@[simp] theorem lasting_mbxAdvance (k : Nat) : lasting (mbxAdvance s k) = lasting s := rfl
@[simp] theorem lasting_setSession (x : ImgSession) : lasting (setSession s x) = lasting s := rfl
@[simp] theorem lasting_mapSession (f : ImgSession → ImgSession) : lasting (mapSession s f) = lasting s := rfl
@[simp] theorem lasting_dropAsked (tag : Nat) : lasting (dropAsked s tag) = lasting s := rfl
@[simp] theorem lasting_recordAnswer (tag st : Nat) (ws : List Word) : lasting (recordAnswer s tag st ws) = lasting s := rfl
@[simp] theorem lasting_giveValue (w : Word) : lasting (giveValue s w) = lasting s := rfl
@[simp] theorem lasting_sendBegin (p : Push) : lasting (sendBegin s p) = lasting s := rfl
@[simp] theorem lasting_sendNak (session i : Nat) : lasting (sendNak s session i) = lasting s := rfl
@[simp] theorem lasting_gatherAsk (g : Gather) : lasting (gatherAsk s g) = lasting s := rfl
@[simp] theorem lasting_chainFlag (bit : Nat) : lasting (chainFlag s bit) = lasting s := rfl
@[simp] theorem lasting_passEnum (f : ChainFrame) (a : Nat) : lasting (passEnum s f a) = lasting s := rfl
@[simp] theorem lasting_newChallenge : lasting (newChallenge s) = lasting s := rfl
@[simp] theorem lasting_zeroiseForBist : lasting (zeroiseForBist s) = lasting s := rfl
@[simp] theorem lasting_completeStep (k : Nat) : lasting (completeStep s k) = lasting s := rfl
@[simp] theorem lasting_raiseRails (k : Nat) : lasting (raiseRails s k) = lasting s := rfl
@[simp] theorem lasting_failStart (k cause : Nat) : lasting (failStart s k cause) = lasting s := by
  simp only [lasting, failStart_pending, failStart_hl]
@[simp] theorem lasting_enterStandby (code : Nat) (brown : Bool) : lasting (enterStandby s code brown) = lasting s := rfl
@[simp] theorem lasting_sendEnum : lasting (sendEnum s) = lasting s := rfl
theorem commitStaged_only : ∃ flt plc, commitStaged s = { s with nd := { s.nd with flt := flt }, hl := { s.hl with plc := plc } } := by
  unfold commitStaged; exact ⟨_, _, rfl⟩
@[simp] theorem lasting_commitStaged : lasting (commitStaged s) = lasting s := by obtain ⟨_, _, h⟩ := commitStaged_only s; rw [h]; rfl
@[simp] theorem lasting_goOff (ds : List Nat) : lasting (goOff s ds) = lasting s := rfl
@[simp] theorem lasting_loseInput : lasting (loseInput s) = lasting s := rfl
@[simp] theorem lasting_countRequest : lasting (countRequest s) = lasting s := rfl

@[simp] theorem lasting_logSecurity (e : Event) : lasting (logSecurity s e) = lasting s := by unfold logSecurity; dsimp only; split <;> rfl
@[simp] theorem lasting_stepEnded : lasting (stepEnded s) = lasting s := by unfold stepEnded; split <;> rfl
@[simp] theorem lasting_gatherFrom (a : Nat) : lasting (gatherFrom s a) = lasting s := by unfold gatherFrom; split <;> rfl
@[simp] theorem lasting_mbxSettle : lasting (mbxSettle s) = lasting s := by unfold mbxSettle; dsimp only; (repeat' split) <;> rfl
@[simp] theorem lasting_fetchLocal : lasting (fetchLocal s) = lasting s := by unfold fetchLocal; dsimp only; simp
@[simp] theorem lasting_takeNodeId : lasting (takeNodeId s) = lasting s := by
  obtain ⟨id, status, h⟩ := takeNodeId_only s
  simp only [lasting, h]
@[simp] theorem lasting_requestStandby : lasting (requestStandby s) = lasting s := by
  unfold requestStandby; dsimp only; (repeat' split) <;> rfl
@[simp] theorem lasting_plcCommit (w : Word) : lasting (plcCommit w s) = lasting s := by
  unfold plcCommit; dsimp only; (repeat' split) <;> rfl
@[simp] theorem lasting_paceSession (x : ImgSession) : lasting (paceSession s x) = lasting s := by
  unfold paceSession; (repeat' split) <;> rfl

@[simp] theorem lasting_advanceStart : lasting (advanceStart s) = lasting s := by
  unfold advanceStart; dsimp only
  (repeat' split) <;> simp [lasting_withNode]

/-- An operation of the secret path changes no more of the security state than the keys derived from it. -/
theorem openSecretPath_keys (x : Security) : ∃ i k, openSecretPath x = { x with identity := i, storageKey := k } := by
  unfold openSecretPath; split <;> exact ⟨_, _, rfl⟩

theorem lasting_withSecretPath (s : State) : lasting { s with hl := { s.hl with sec := openSecretPath s.hl.sec } } = lasting s := by
  obtain ⟨i, k, h⟩ := openSecretPath_keys s.hl.sec
  rw [h]; rfl

@[simp] theorem lasting_holdNoAlmanac : lasting (holdNoAlmanac s) = lasting s := (lasting_withSecretPath _).trans rfl

@[simp] theorem lasting_logRejected (copy : Nat) (c : AlmCheck) : lasting (logRejected s copy c) = lasting s := by
  unfold logRejected; split <;> rfl

@[simp] theorem lasting_loadErrorBands : lasting (loadErrorBands s) = lasting s := by
  unfold loadErrorBands; split <;> simp only [lasting, logIn]

@[simp] theorem lasting_loadRepairs : lasting (loadRepairs s) = lasting s := by unfold loadRepairs; dsimp only; split <;> rfl

theorem lasting_withPolicy (n : Node) (i : I3c) (p : Policy) :
    lasting { s with nd := n, hl := { s.hl with i3c := i, plc := p } } = lasting s := rfl

@[simp] theorem lasting_stepThree : lasting (stepThree s) = lasting s := by
  have hc (x y : AlmCheck) : lasting (logRejected (logRejected s 0 x) 1 y) = lasting s :=
    (lasting_logRejected _ _ _).trans (lasting_logRejected _ _ _)
  unfold stepThree
  dsimp only
  generalize almChoose _ _ = choice
  cases choice with
  | none => exact (lasting_holdNoAlmanac _).trans (hc _ _)
  | some a =>
    dsimp only
    generalize policyReset a = plc
    generalize applyAlmanac _ = n
    split
    · rw [lasting_stepEnded, lasting_completeStep, lasting_loadErrorBands, lasting_withPolicy, hc]
    · rw [lasting_raiseRails, lasting_loadRepairs, lasting_zeroiseForBist, lasting_stepEnded, lasting_completeStep,
        lasting_loadErrorBands, lasting_withPolicy, hc]

theorem lasting_foldl {α : Type} {f : State → α → State} (h : ∀ s a, lasting (f s a) = lasting s) (l : List α) :
    lasting (l.foldl f s) = lasting s := foldl_keeps f lasting h l s

end

end Sys2Proof.HalordService
end

section
/-! What lasts, command by command: the start, the policy engine, the chain, the mailbox, images and security (O53, O56, O58, O59). -/

namespace Sys2Proof.HalordService

open Sys2Proof.Machine Sys2Proof.Safety Sys2Proof.Organisation Sys2Proof.FaultHandling

/-! ### Flash and the slot record (R547, R583) -/

/-- Halord with flash of the same form and the security state as far as it lasts. -/
theorem halordFollows_flash {h k : Halord} (hf : memWf 0xFF h.flash = true → memWf 0xFF k.flash = true)
    (hfuses : k.sec.fuses = h.sec.fuses) (hpres : k.sec.presOpen = h.sec.presOpen) (hseal : k.sec.sealOk = h.sec.sealOk)
    (hopen : k.sec.unsealed = h.sec.unsealed) : HalordFollows h k := by
  refine ⟨hf, fun hm => ?_, ?_, ?_, fun hu => .inl (hopen.trans hu)⟩
  · rw [hfuses]; exact ⟨Nat.le_refl _, hm⟩
  · rw [hpres]; exact id
  · rw [hseal]; exact id

section
variable (h : Halord)

theorem halordFollows_flashWrite (off : Nat) (bs : Bytes) : HalordFollows h (flashWrite h off bs) :=
  halordFollows_flash (flashWrite_wf off bs) rfl rfl rfl rfl

theorem halordFollows_flashErase (off n : Nat) : HalordFollows h (flashErase h off n) :=
  halordFollows_flash (flashErase_wf off n) rfl rfl rfl rfl

theorem putSlotRecord_sec : (putSlotRecord h).sec = h.sec := rfl

/-- The slot record's fields changed, and the record with them. -/
theorem halordFollows_putSlotRecord (a p t : Bool) :
    HalordFollows h (putSlotRecord { h with sec := { h.sec with active := a, pending := p, trial := t } }) := by
  refine halordFollows_flash (fun w => putSlotRecord_wf w) ?_ ?_ ?_ ?_ <;> rw [putSlotRecord_sec]

theorem halordFollows_setPending (b : Bool) : HalordFollows h (setPending h b) := halordFollows_putSlotRecord h _ b _

theorem halordFollows_eraseWrite (a n off : Nat) (bs : Bytes) : HalordFollows h (flashWrite (flashErase h a n) off bs) :=
  (halordFollows_flashErase h a n).trans (halordFollows_flashWrite _ off bs)

theorem halordFollows_storeAlmanac (slot : Nat) (bs : Bytes) : HalordFollows h (storeAlmanac h slot bs) := by
  unfold storeAlmanac; dsimp only; split
  · exact .refl h
  · exact halordFollows_eraseWrite h _ _ _ bs

theorem halordFollows_loadSlot (b : Bool) : HalordFollows h (loadSlot h b) := halordFollows_flash id rfl rfl rfl rfl

/-- The slot that the ROM chooses leaves the slot record changed at most. -/
theorem halordFollows_romChoose {b : Bool} {k : Halord} {evs : List Event} (hc : romChoose h = some (b, k, evs)) :
    HalordFollows h k := by
  have swapped := halordFollows_putSlotRecord h (!h.sec.active) false
  have back := halordFollows_putSlotRecord h (!h.sec.active) h.sec.pending false
  unfold romChoose at hc
  dsimp only at hc
  split at hc
  · cases hc; exact swapped true
  · (repeat' split at hc) <;> cases hc
    · exact back
    · exact back
    · exact .refl h
    · exact .refl h

end

/-! ### The start (R544–R570, R584, R606) -/

section
variable (s : State)

theorem follows_logSecurity (l : List Event) : Follows s (l.foldl logSecurity s) := .of_lasting (lasting_foldl s lasting_logSecurity l)

theorem follows_romBoot : Follows s (romBoot s) := by
  unfold romBoot
  cases hc : romChoose s.hl with
  | none => exact .of_lasting (lasting_failStart _ _ _)
  | some x =>
    obtain ⟨b, k, evs⟩ := x
    have hk : Follows s { s with hl := loadSlot k b } :=
      .of_halord s.nd ((halordFollows_romChoose s.hl hc).trans (halordFollows_loadSlot k b))
    have hl := hk.trans (follows_logSecurity _ evs)
    dsimp only
    split
    · exact hl.lastly (lasting_raiseRails _ _)
    · split
      · exact hl.lastly (by simp)
      · exact hl.lastly (by simp)

/-- The node as a start finds it: empty but for what is kept, BOOT_COUNT stepped (R513, R523, R544). -/
def startedNode (n : Node) (fromStandby : Bool) : Node :=
  let m := clearData { n with nodeId := 0, chainAddr := 0, tele := [], power := { n.power with
    off := false, state := 0, step := 0, fromStandby := fromStandby, holding := false, failed := false, entry := 0,
    standbyWaits := false, brownOut := false, railStep := 0, rising := [], stepsDone := [], stacksUp := [],
    stackTries := Vector.replicate 8 0, denseDone := [], bootCount := (n.power.bootCount + 1) % 2 ^ 32, noChange := 0,
    refclk := true } }
  { m with log := { m.log with dropped := 0 } }

/-- Halord as a start finds it: no session, push, presence window or transfer, and a new CHALLENGE (R543, R544, R597). -/
def startedHalord (h : Halord) (head : Bool) : Halord :=
  { h with session := none, push := none, restarting := false
           chain := { Chain.reset with head := head, nextTag := h.chain.nextTag, nextSession := h.chain.nextSession }
           mbx := if bitOf h.mbx.stat 0 then mbxEnded h.mbx stAborted else h.mbx
           plc := { Policy.reset with live := h.plc.live, stage := h.plc.stage }
           sec := { h.sec with presOpen := false, debugOpen := false, report := []
                               challenge := Config.challenge h.sec.challenges
                               challenges := h.sec.challenges + 1 } }

/-- The state that a start begins from. -/
def started (fromStandby : Bool) : State :=
  { s with nd := startedNode s.nd fromStandby, hl := startedHalord s.hl (startedNode s.nd fromStandby).power.hostEn }

theorem beginStart_eq (fromStandby : Bool) : beginStart s fromStandby = if s.hl.sec.presOpen
    then logIn (started s fromStandby) { sev := sevNotice, code := 0x702 } else started s fromStandby := by
  unfold beginStart started startedNode startedHalord
  dsimp only

theorem halordFollows_startedHalord (h : Halord) (head : Bool) : HalordFollows h (startedHalord h head) :=
  ⟨id, fun hm => ⟨Nat.le_refl _, hm⟩, fun he => absurd he Bool.false_ne_true, id, .inl⟩

theorem follows_beginStart (fromStandby : Bool) : Follows s (beginStart s fromStandby) := by
  have hs : Follows s (started s fromStandby) := .of_halord _ (halordFollows_startedHalord s.hl _)
  rw [beginStart_eq]
  split
  · exact hs.lastly (lasting_logIn _ _)
  · exact hs

/-- The state that a cold start begins from: HOST_EN sampled, the log recovered from flash, Halord's SRAM and the module's keys gone
(R543, R544). -/
def coldState (hostEn : Bool) : State :=
  { s with
    nd := { s.nd with alm := Almanac.reset, power := { s.nd.power with hostEn := hostEn }
                      log := { recoverLog s.hl s.nd.log with alert := 0, mask := 0x1FF, ibi := true } }
    hl := { s.hl with mbx := Mailbox.reset, sens := Sensors.reset, plc := Policy.reset, i3c := I3c.reset
                      sec := { s.hl.sec with cleared := false, identity := false, storageKey := [], pushOk := 0, pushFail := 0,
                                             lastRop := 0, lastStatus := 0 } } }

/-- Step 1 done, once AON's rails are up. -/
def stepOneDone : State := stepEnded (completeStep s 1)

theorem coldStart_eq (hostEn : Bool) : coldStart s hostEn =
    if (beginStart (coldState s hostEn) false).nd.power.domains.contains 0 = true then
      if (stepOneDone (beginStart (coldState s hostEn) false)).nd.power.state = 1
      then stepOneDone (beginStart (coldState s hostEn) false) else romBoot (stepOneDone (beginStart (coldState s hostEn) false))
    else raiseRails (beginStart (coldState s hostEn) false) 1 := by
  unfold coldStart coldState stepOneDone
  dsimp only

theorem lasting_coldState (hostEn : Bool) : lasting (coldState s hostEn) = lasting s := rfl

theorem lasting_stepOneDone : lasting (stepOneDone s) = lasting s := lasting_stepEnded _

theorem follows_coldStart (hostEn : Bool) : Follows s (coldStart s hostEn) := by
  have begun := (follows_beginStart (coldState s hostEn) false).firstly (lasting_coldState s hostEn)
  have one := begun.lastly (lasting_stepOneDone _)
  rw [coldStart_eq]
  split
  · split
    · exact one
    · exact one.trans (follows_romBoot _)
  · exact begun.lastly (lasting_raiseRails _ _)

theorem follows_standbyExit : Follows s (standbyExit s) := by
  unfold standbyExit
  dsimp only
  split
  · exact (follows_beginStart s true).lastly (lasting_raiseRails _ _)
  · exact (follows_beginStart s true).lastly (lasting_stepThree _)

theorem follows_railsComplete : Follows s (railsComplete s) := by
  unfold railsComplete
  dsimp only
  split
  · split
    · exact .of_lasting (by simp)
    · exact (follows_romBoot _).firstly (by simp)
  · split
    · refine .of_lasting ?_
      (repeat' split) <;> simp
    · (repeat' split) <;> exact .of_lasting rfl

theorem follows_powerInputUp (hostEn : Bool) : Follows s (powerInputUp hostEn s) := by
  unfold powerInputUp; dsimp only; split
  · exact (follows_coldStart _ _).firstly rfl
  · exact .of_lasting rfl

theorem follows_resetRelease (hostEn : Bool) : Follows s (resetRelease hostEn s) := by
  unfold resetRelease; dsimp only; split
  · exact (follows_coldStart _ _).firstly rfl
  · exact .of_lasting rfl

theorem follows_brownOut : Follows s (brownOut s) := by
  unfold brownOut; dsimp only; split <;> exact .of_lasting rfl

theorem follows_autoExit : Follows s (autoExit s) := by
  unfold autoExit; dsimp only; split
  · exact (follows_standbyExit _).firstly rfl
  · exact .of_lasting rfl

theorem follows_capacitanceCharged : Follows s (capacitanceCharged s) := by
  unfold capacitanceCharged; split <;> exact .of_lasting rfl

theorem follows_railUp (d : Nat) : Follows s (railUp d s) := by
  unfold railUp
  split
  · exact .refl s
  · dsimp only
    (repeat' split)
    · exact .of_lasting rfl
    · exact (follows_railsComplete _).firstly rfl
    · exact .of_lasting rfl

theorem follows_railFault (d : Nat) : Follows s (railFault d s) := by
  have withNode (n : Node) (f : Power → Power) : lasting (setPower { s with nd := n } f) = lasting s := rfl
  unfold railFault
  dsimp only
  (repeat' split)
  · exact .of_lasting (lasting_goOff s [])
  · exact (follows_railsComplete _).firstly (withNode _ _)
  · exact .of_lasting (withNode _ _)
  · exact .of_lasting ((lasting_failStart _ _ _).trans (lasting_withNode s _))
  · exact .of_lasting (lasting_withNode s _)

theorem halordFollows_writeRecords (h : Halord) (boot : Nat) (fs : List BistFailure) (os : List Nat) :
    HalordFollows h (writeRepairRecord (writeBistRecord h boot fs os) boot fs os) :=
  (halordFollows_eraseWrite h _ _ _ _).trans (halordFollows_eraseWrite (writeBistRecord h boot fs os) _ _ _ _)

theorem follows_bistReported (fs : List BistFailure) : Follows s (bistReported fs s) := by
  have hw := Follows.of_halord (s := s) (settleAll fs [] s.nd []).1
    (halordFollows_writeRecords s.hl (settleAll fs [] s.nd []).1.power.bootCount fs (settleAll fs [] s.nd []).2)
  exact (hw.lastly (lasting_withSecretPath _)).lastly (bistReported_of_settled fs s lasting fun _ _ _ => rfl)

theorem lasting_bistOnward : lasting (bistOnward s) = lasting s := by unfold bistOnward; split <;> simp

theorem lasting_bistPassed : lasting (bistPassed s) = lasting s := (lasting_completeStep _ _).trans (lasting_withNode _ _)

theorem follows_bistComplete (fs : List BistFailure) : Follows s (bistComplete fs s) := by
  by_cases h : (s.nd.power.off || s.nd.power.state != 0 || s.nd.power.holding || s.nd.power.railStep != 0 ||
      !s.nd.power.stepsDone.contains 3 || s.nd.power.stepsDone.contains 4) = true
  · rw [show bistComplete fs s = s from if_pos h]; exact .refl s
  · simp only [Bool.or_eq_true, not_or, bne_iff_ne, ne_eq, not_not, Bool.not_eq_true, Bool.not_eq_true'] at h
    obtain ⟨⟨⟨⟨⟨hoff, hstate⟩, hhold⟩, hrail⟩, hthree⟩, hfour⟩ := h
    have reported := follows_bistReported s fs
    have passed := reported.lastly (lasting_bistPassed _)
    rw [bistComplete_eq hoff hstate hhold hrail (by simpa using hthree) hfour]
    split
    · exact reported.lastly (lasting_failStart _ _ _)
    · dsimp only
      split
      · exact passed.lastly (lasting_stepEnded _)
      · exact (passed.lastly (lasting_stepEnded _)).lastly (lasting_bistOnward _)

theorem follows_stackTrained (r : Nat) (trained bad : Bool) : Follows s (stackTrained r trained bad s) := by
  unfold stackTrained; dsimp only
  (repeat' split) <;> exact .of_lasting (by simp)

theorem follows_denseBringup (d : Nat) (present trained fmtOk : Bool) (nsBlocks queues : Nat) (dz : Bool) :
    Follows s (denseBringup d present trained fmtOk nsBlocks queues dz s) := by
  unfold denseBringup; dsimp only
  (repeat' split) <;> exact .of_lasting (by simp [lasting_withNode])

theorem follows_joinFabric : Follows s (joinFabric s) := by
  unfold joinFabric; dsimp only; split <;> exact .of_lasting rfl

theorem follows_refclkLoss : Follows s (refclkLoss s) := by unfold refclkLoss; split <;> exact .of_lasting rfl

theorem follows_requestReady : Follows s (requestReady s) := by
  unfold requestReady; dsimp only
  (repeat' split)
  · exact .refl s
  · exact follows_standbyExit s
  · exact .of_lasting rfl

theorem follows_requestStandby : Follows s (requestStandby s) := .of_lasting (lasting_requestStandby s)

end

end Sys2Proof.HalordService
end

section
/-! What lasts, command by command: tiles, the policy engine and membership (O53, O56, O58, O59). -/

namespace Sys2Proof.HalordService

open Sys2Proof.Machine Sys2Proof.Safety Sys2Proof.Organisation Sys2Proof.MemoryTiers Sys2Proof.FaultHandling

section
variable (s : State)

/-! ### Tiles and their record (R29, R489) -/

theorem follows_recordBands : Follows s (recordBands s) := by
  unfold recordBands
  dsimp only
  split
  · exact .refl s
  · exact .of_halord s.nd (halordFollows_eraseWrite s.hl _ _ _ _)

theorem follows_onTiles (f : Node → Node) : Follows s (onTiles s f) := by
  unfold onTiles
  split
  · exact (follows_recordBands _).firstly (lasting_withNode s _)
  · exact .refl s

/-! ### The policy engine (R521, R533–R538) -/

theorem lasting_takePlcNext : lasting (takePlcNext s) = lasting s := lasting_foldl s (fun _ _ => lasting_onPolicy _ _) _

theorem lasting_powerStep : lasting (powerStep s) = lasting s := by
  unfold powerStep
  split
  · rfl
  · dsimp only
    (repeat' split) <;> simp

theorem lasting_stackHeat (r : Nat) : lasting (stackHeat s r) = lasting s := by
  unfold stackHeat
  split
  · rfl
  · dsimp only
    (repeat' split) <;> simp

theorem lasting_clusterHeat (r : Nat) : lasting (clusterHeat s r) = lasting s := by
  unfold clusterHeat
  (repeat' split) <;> simp

theorem lasting_tileHeat (t : Nat) : lasting (tileHeat s t) = lasting s := by
  unfold tileHeat
  dsimp only
  (repeat' split) <;> simp only [lasting_alertIn, lasting_withNode, lasting_policyStep, lasting_onPolicy]

theorem lasting_heats :
    lasting ((List.range 8).foldl (fun s r => clusterHeat (stackHeat s r) r) ((List.range 64).foldl tileHeat s)) = lasting s :=
  (lasting_foldl _ (fun s r => (lasting_clusterHeat (stackHeat s r) r).trans (lasting_stackHeat s r)) _).trans
    (lasting_foldl s lasting_tileHeat _)

theorem lasting_ungateIdle : lasting (ungateIdle s) = lasting s := by
  unfold ungateIdle
  split <;> rfl

theorem lasting_prefetch : lasting (prefetch s) = lasting s := by
  unfold prefetch
  dsimp only
  split <;> exact lasting_withNode s _

theorem follows_policyPeriodEnd : Follows s (policyPeriodEnd s) := by
  have stepped : lasting (powerStep (takePlcNext s)) = lasting s := (lasting_powerStep _).trans (lasting_takePlcNext s)
  unfold policyPeriodEnd
  split
  · exact .refl s
  · dsimp only
    split
    · exact .of_lasting ((lasting_enterStandby _ _ _).trans ((lasting_withNode _ _).trans stepped))
    · exact (follows_onTiles _ _).firstly
        ((lasting_prefetch _).trans ((lasting_ungateIdle _).trans ((lasting_heats _).trans stepped)))

theorem lasting_propose (ctx start chunks cause load : Nat) : lasting (propose s ctx start chunks cause load) = lasting s := by
  unfold propose
  dsimp only
  simp

theorem lasting_proposals (b space : Nat) (l : List (BitVec 16 × Word × BitVec 32)) :
    lasting (proposals s b space l) = lasting s := by
  unfold proposals
  dsimp only
  split
  · rfl
  · split
    · exact lasting_foldl s (fun _ _ => lasting_propose _ _ _ _ _ _) _
    · split
      · exact lasting_foldl s (fun _ _ => lasting_propose _ _ _ _ _ _) _
      · split
        · exact lasting_propose s _ _ _ _ _
        · rfl

theorem lasting_gateRegion (r : Nat) : lasting (gateRegion s r) = lasting s := by
  unfold gateRegion
  dsimp only
  split
  · rfl
  · refine lasting_foldl s (fun u t => ?_) _
    (repeat' split) <;> rfl

theorem follows_evaluationWindowEnd (b space : Nat) (l : List (BitVec 16 × Word × BitVec 32)) :
    Follows s (evaluationWindowEnd b space l s) := by
  unfold evaluationWindowEnd
  split
  · exact .refl s
  · dsimp only
    have logged : lasting (if powerStuck s then alertIn (logIn s (otherEvent 5 6)) alPower else s) = lasting s := by split <;> simp
    exact (follows_onTiles _ _).firstly ((lasting_withNode _ _).trans ((lasting_foldl _ lasting_gateRegion _).trans
      ((lasting_proposals _ _ _ _).trans logged)))

theorem follows_sensorSample (rs : List Reading) (os : List (TileId × BitVec 7)) : Follows s (sensorSample rs os s) := by
  unfold sensorSample
  split
  · exact .refl s
  · exact .of_lasting rfl

/-! ### The log's way to flash, the flush and the watchdog (R503, R526, R604) -/

theorem follows_writeLogSlot (e : LogEntry) (slot : Nat) (erase : Bool) : Follows s (writeLogSlot s e slot erase) := by
  unfold writeLogSlot
  dsimp only
  refine .of_halord _ ?_
  split
  · exact halordFollows_eraseWrite s.hl _ _ _ _
  · exact halordFollows_flashWrite s.hl _ _

theorem follows_copiedEntry (e : LogEntry) (rest : List LogEntry) (slot : Nat) (erase : Bool) :
    Follows s (copiedEntry s e rest slot erase) := (follows_writeLogSlot s e slot erase).lastly (lasting_withNode _ _)

theorem lasting_coverLost : lasting (coverLost s) = lasting s := by
  unfold coverLost
  rw [lasting_alertIn, lasting_logIn, lasting_withNode]

theorem follows_logFlashCopy (ok : Bool) : Follows s (logFlashCopy ok s) := by
  by_cases idle : (s.hl.restarting || s.nd.power.off) = true
  · rw [logFlashCopy, if_pos idle]; exact .refl s
  · cases hstaged : s.nd.log.staged with
    | nil => rw [logFlashCopy, if_neg idle, hstaged]; exact .refl s
    | cons e rest =>
      simp only [Bool.or_eq_true, not_or, Bool.not_eq_true] at idle
      obtain ⟨erase, hcopy⟩ := logFlashCopy_eq idle.1 idle.2 hstaged ok
      rw [hcopy]
      split
      · exact follows_copiedEntry s e rest _ erase
      · exact (follows_copiedEntry s e rest _ erase).lastly (lasting_coverLost _)

theorem lasting_standbyFlush : lasting (standbyFlush s) = lasting s := by
  unfold standbyFlush
  dsimp only
  split
  · split
    · rfl
    · exact lasting_withNode s _
  · split
    · split
      · rfl
      · exact lasting_withNode s _
    · split
      · split
        · rfl
        · split
          · exact (lasting_enterStandby _ _ _).trans (lasting_withNode s _)
          · exact lasting_withNode s _
      · rfl

theorem lasting_transferEnded : lasting (transferEnded s) = lasting s := by
  unfold transferEnded
  split
  · exact lasting_mbxEnd s _
  · rfl

/-- A restart drops the session, and the mark of a slot that is being written (R503, R596). -/
theorem halordFollows_restartedHalord (h : Halord) : HalordFollows h (restartedHalord h) := by
  have dropped {k : Halord} (hk : HalordFollows h k) : HalordFollows h { k with session := none } := hk
  unfold restartedHalord
  dsimp only
  split
  · exact dropped ((HalordFollows.refl h).trans (halordFollows_setPending { h with restarting := true, push := none } false))
  · exact dropped (.refl h)

theorem follows_watchdogExpiry : Follows s (watchdogExpiry s) := by
  by_cases idle : (!aonUp s || s.hl.restarting || romOnly s) = true
  · rw [watchdogExpiry, if_pos idle]; exact .refl s
  · simp only [Bool.or_eq_true, not_or, Bool.not_eq_true, Bool.not_eq_false'] at idle
    obtain ⟨⟨haon, hres⟩, hrom⟩ := idle
    rw [watchdogExpiry_eq haon hres hrom]
    exact (Follows.of_halord _ (halordFollows_restartedHalord _)).firstly (lasting_transferEnded s)

theorem follows_restartComplete : Follows s (restartComplete s) := by
  unfold restartComplete; split <;> exact .of_lasting rfl

/-! ### Membership (R413–R416, R566, R574) -/

/-- Fuses are blown up to the security version of the slot, and there are 64 (R574). -/
theorem halordFollows_fuses (h : Halord) (hlt : h.sec.fuses ≤ h.sec.svn) :
    HalordFollows h { h with sec := { h.sec with fuses := min 64 h.sec.svn } } :=
  ⟨id, fun hm => ⟨Nat.le_min.2 ⟨hm, hlt⟩, Nat.min_le_left _ _⟩, id, id, .inl⟩

theorem follows_endTrial : Follows s (endTrial s) := by
  have ended : HalordFollows s.hl (putSlotRecord { s.hl with sec := { s.hl.sec with trial := false } }) :=
    halordFollows_putSlotRecord s.hl _ _ false
  unfold endTrial
  split
  · exact .refl s
  · dsimp only
    split
    · exact .of_halord _ ended
    · rename_i hblow
      simp only [Bool.or_eq_true, decide_eq_true_eq, not_or, Nat.not_le] at hblow
      exact (Follows.of_halord _ (ended.trans (halordFollows_fuses _ (Nat.le_of_lt hblow.2)))).lastly (lasting_logIn _ _)

theorem follows_becomeMember (view : Nat) : Follows s (becomeMember view s) := by
  unfold becomeMember
  dsimp only
  split
  · exact .of_lasting (lasting_withNode s _)
  · split
    · exact .of_lasting (by simp [lasting_withNode])
    · exact (follows_endTrial _).firstly (by simp [lasting_withNode])

theorem follows_joinAnswered (own x view : Nat) : Follows s (joinAnswered s own x view) := by
  unfold joinAnswered
  dsimp only
  split
  · exact .of_lasting (lasting_withNode s _)
  · split
    · exact .refl s
    · split
      · exact .of_lasting (lasting_withNode s _)
      · exact (follows_becomeMember _ _).firstly (lasting_withNode s _)

theorem follows_membAck (p : Packet) : Follows s (membAck p s) := by
  unfold membAck
  split
  · exact .refl s
  · dsimp only
    split
    · exact .of_lasting (lasting_withNode s _)
    · split
      · exact .of_lasting (lasting_withNode s _)
      · (repeat' split)
        · exact .of_lasting (lasting_withNode s _)
        · exact (follows_joinAnswered _ _ _ _).firstly (lasting_withNode s _)
        · exact .of_lasting (lasting_withNode s _)
        · exact .of_lasting (lasting_withNode s _)

/-- The module in Standby, when something calls for it. -/
theorem lasting_standbyIf (c : Prop) [Decidable c] (code : Nat) (brown : Bool) :
    lasting (if c then enterStandby s code brown else s) = lasting s := by
  split
  · exact lasting_enterStandby s _ _
  · rfl

theorem lasting_applyLoss (x view : Nat) : lasting (applyLoss x view s) = lasting s := by
  unfold applyLoss
  dsimp only
  split
  · split
    · exact (lasting_enterStandby _ _ _).trans (lasting_withNode s _)
    · exact lasting_withNode s _
  · exact (lasting_standbyIf _ _ _ _).trans (lasting_withNode s _)

theorem lasting_declare (x : Nat) : lasting (declare x s) = lasting s := by
  unfold declare
  dsimp only
  split
  · rfl
  · split
    · rfl
    · exact (lasting_applyLoss _ _ _).trans (lasting_withNode s _)

theorem lasting_suspect (x : Nat) : lasting (suspect x s) = lasting s := by
  unfold suspect
  dsimp only
  split
  · rfl
  · split
    · rfl
    · exact (lasting_declare _ _).trans (lasting_withNode s _)

theorem lasting_takeMgtState (kind : Nat → Bool) (f : State → Packet → State) (p : Packet)
    (hf : ∀ u : State, lasting (f u p) = lasting u) : lasting (takeMgtState kind f p s) = lasting s := by
  unfold takeMgtState
  dsimp only
  split
  · rfl
  · split
    · exact (hf _).trans (lasting_withNode s _)
    · exact lasting_withNode s _

theorem lasting_takeReport (p : Packet) : lasting (takeReport s p) = lasting s := by
  unfold takeReport
  dsimp only
  split
  · exact lasting_withNode s _
  · exact lasting_suspect s _

theorem lasting_takeLost (p : Packet) : lasting (takeLost s p) = lasting s := by
  unfold takeLost
  dsimp only
  split
  · exact lasting_withNode s _
  · exact lasting_applyLoss s _ _

theorem lasting_takeAgreement (p : Packet) : lasting (takeAgreement s p) = lasting s := by
  unfold takeAgreement
  dsimp only
  (repeat' split)
  · exact lasting_withNode s _
  · rfl
  · exact (lasting_declare _ _).trans (lasting_withNode s _)
  · exact lasting_withNode s _
  · exact lasting_withNode s _
  · rfl

end

end Sys2Proof.HalordService
end

section
/-! What lasts, command by command: security, images, the mailbox and the chain (O53, O56, O58, O59). -/

namespace Sys2Proof.HalordService

open Sys2Proof.Machine Sys2Proof.Safety Sys2Proof.Organisation Sys2Proof.FaultHandling

section
variable (s : State)

/-! ### The presence window and the Unsealed state (R585, R586) -/

theorem follows_closePresence : Follows s (closePresence s) := by
  unfold closePresence
  split
  · exact (Follows.of_halord (h := { s.hl with sec := { s.hl.sec with presOpen := false } }) s.nd
      ⟨id, fun hm => ⟨Nat.le_refl _, hm⟩, fun he => absurd he Bool.false_ne_true, id, .inl⟩).lastly (lasting_logSecurity _ _)
  · exact .refl s

/-- With presence the Unsealed state may end, when the loop's last sample was closed. -/
theorem follows_endUnsealed (hp : s.hl.sec.presOpen = true) : Follows s (endUnsealed s) := by
  unfold endUnsealed
  split
  · rename_i hc
    simp only [Bool.and_eq_true] at hc
    exact (Follows.of_halord (h := { s.hl with sec := { s.hl.sec with unsealed := false, sealOpens := 0 } }) s.nd
      ⟨id, fun hm => ⟨Nat.le_refl _, hm⟩, id, id, fun _ => .inr ⟨hp, hc.2⟩⟩).lastly (lasting_logSecurity _ _)
  · exact .refl s

/-! ### Sessions and staging (R573, R579, R580) -/

theorem follows_openSession (x : ImgSession) : Follows s (openSession s x) := by
  unfold openSession
  dsimp only
  split
  · exact (Follows.of_halord s.nd ((halordFollows_setPending s.hl false).trans (halordFollows_flashErase _ _ _))).lastly
      (lasting_setSession _ x)
  · exact .of_lasting (lasting_setSession s x)

theorem follows_programBytes (x : ImgSession) (k : Nat) : Follows s (programBytes s x k) := by
  unfold programBytes
  exact (Follows.of_halord s.nd (halordFollows_flashWrite s.hl _ _)).lastly (lasting_setSession _ _)

theorem follows_stageFirmware (x : ImgSession) : Follows s (stageFirmware s x).1 := by
  unfold stageFirmware
  dsimp only
  split
  · exact .refl s
  · exact (((follows_programBytes s x x.length).lastly (lasting_mapSession _ _)).trans
      (.of_halord _ (halordFollows_setPending _ true))).lastly (lasting_logSecurity _ _)

theorem halordFollows_writeAlmanac (h : Halord) (copy : Nat) (bs : Bytes) : HalordFollows h (writeAlmanac h copy bs) :=
  halordFollows_eraseWrite h _ _ _ bs

theorem follows_stageAlmanac (x : ImgSession) : Follows s (stageAlmanac s x).1 := by
  unfold stageAlmanac
  dsimp only
  split
  · exact .refl s
  · refine (Follows.of_halord s.nd ?_).lastly (lasting_setSession _ _)
    split
    · exact (halordFollows_writeAlmanac s.hl 0 _).trans (halordFollows_writeAlmanac _ 1 _)
    · exact halordFollows_writeAlmanac s.hl _ _

theorem follows_stageSession (x : ImgSession) : Follows s (stageSession s x).1 := by
  unfold stageSession
  split
  · exact follows_stageFirmware s x
  · exact follows_stageAlmanac s x

theorem lasting_landImageWord {u : State} {offset : Nat} {w : Word} (h : landImageWord s offset w = some u) : lasting u = lasting s := by
  unfold landImageWord at h
  (repeat' split at h) <;> cases h
  rfl

/-! ### Requests that end (R594) and the head's push (R582) -/

theorem lasting_requestDone (rop st : Nat) : lasting (requestDone s rop st) = lasting s := by
  unfold requestDone
  dsimp only
  split <;> rfl

theorem lasting_pushSettle : lasting (pushSettle s) = lasting s := by
  unfold pushSettle
  split
  · rfl
  · dsimp only
    split
    · exact (lasting_requestDone _ _ _).trans rfl
    · rfl

theorem lasting_pushResult (a st : Nat) : lasting (pushResult s a st) = lasting s := by
  unfold pushResult
  split
  · rfl
  · split
    · exact (lasting_pushSettle _).trans rfl
    · rfl

theorem lasting_pushAbort : lasting (pushAbort s) = lasting s := by
  unfold pushAbort
  split
  · rfl
  · exact lasting_foldl s (fun u a => lasting_pushResult u a _) _

theorem lasting_pushSend (k : Nat) : lasting (pushSend k s) = lasting s := by
  induction k generalizing s with
  | zero => rfl
  | succ k ih =>
    unfold pushSend
    split
    · rfl
    · split
      · rfl
      · exact (ih _).trans rfl

/-- The head with a TAG and a SESSION taken for a push (R581). -/
def pushNumbered : State := onChain (takeTag s).1 fun c => { c with nextSession := c.nextSession % (2 ^ 32 - 1) + 1 }

/-- The head's own copy, when the head is one of the targets, and its status. -/
def ownCopied (targets : Nat) (own : State → State × Nat) : State × Nat :=
  if (maskTargets targets).any (ownAddr s) then own s else (s, stOK)

/-- Outcomes known as a push begins: the head's own, and ABORTED of targets that cannot be reached. -/
def firstResults (targets st : Nat) : Tbl Nat :=
  (maskTargets targets).foldl (fun t a =>
    if ownAddr s a then Tbl.put t a st else if canReach s a then t else Tbl.put t a stAborted) []

/-- The push that the head in state `s` begins. -/
def newPush (kind : Nat) (image : Bytes) (targets : Nat) (copy : Bool) (results : Tbl Nat) : Push :=
  { session := s.hl.chain.nextSession, kind := kind, targets := targets, image := image, next := 0, nchunk := ceilDiv image.length 240,
    holds := [], results := results, copy := copy, tag := s.hl.chain.nextTag, repeats := 0 }

/-- The head's push set. -/
def withPush (p : Option Push) : State := { s with hl := { s.hl with push := p } }

/-- A push runs: it ends at once when every outcome is known, else IMG_BEGIN and the first chunks go out. -/
def runPush (p : Push) : State :=
  if (maskTargets p.targets).all fun a => (Tbl.find? p.results a).isSome then pushSettle (withPush s (some p))
  else pushSend pushWindow (sendBegin (withPush s (some p)) p)

theorem startPush_eq (kind : Nat) (image : Bytes) (targets : Nat) (copy : Bool) (own : State → State × Nat) :
    startPush s kind image targets copy own =
      runPush (ownCopied (pushNumbered s) targets own).1 (newPush s kind image targets copy
        (firstResults (ownCopied (pushNumbered s) targets own).1 targets (ownCopied (pushNumbered s) targets own).2)) := by
  unfold startPush ownCopied pushNumbered firstResults runPush newPush withPush
  rfl

theorem lasting_withPush (p : Option Push) : lasting (withPush s p) = lasting s := rfl

theorem lasting_runPush (p : Push) : lasting (runPush s p) = lasting s := by
  unfold runPush
  split
  · exact (lasting_pushSettle _).trans (lasting_withPush s _)
  · exact (lasting_pushSend _ _).trans ((lasting_sendBegin _ _).trans (lasting_withPush s _))

/-- A push stages the head's own copy, and sends. -/
theorem follows_startPush (kind : Nat) (image : Bytes) (targets : Nat) (copy : Bool) (own : State → State × Nat)
    (ho : ∀ u, Follows u (own u).1) : Follows s (startPush s kind image targets copy own) := by
  have mine (u : State) : Follows u (ownCopied u targets own).1 := by
    unfold ownCopied
    split
    · exact ho u
    · exact .refl u
  rw [startPush_eq]
  exact ((mine _).firstly ((lasting_onChain _ _).trans (lasting_takeTag s))).lastly (lasting_runPush _ _)

end

end Sys2Proof.HalordService
end

section
/-! What lasts, command by command: requests, the mailbox and registers (O53, O56, O58, O59). -/

namespace Sys2Proof.HalordService

open Sys2Proof.Machine Sys2Proof.Safety Sys2Proof.Organisation Sys2Proof.FaultHandling

section
variable (s : State)

/-! ### Requests (R577) -/

theorem lasting_afterSigned (b : Bool) (r : State × Nat) : lasting (afterSigned b r).1 = lasting r.1 := by
  cases b
  · rfl
  · exact lasting_newChallenge _

theorem follows_afterSigned {r : State × Nat} (b : Bool) (h : Follows s r.1) : Follows s (afterSigned b r).1 :=
  h.lastly (lasting_afterSigned b r)

theorem follows_runImgOpen (req : RequestWords) : Follows s (runImgOpen req s).1 := by
  unfold runImgOpen
  dsimp only
  split
  · exact .refl s
  · exact follows_openSession s _

theorem follows_runImgStage : Follows s (runImgStage s).1 := by
  unfold runImgStage
  split
  · split
    · exact follows_stageSession s _
    · exact .refl s
  · exact .refl s

theorem follows_runImgUnstage : Follows s (runImgUnstage s).1 := by
  unfold runImgUnstage
  exact (Follows.of_halord s.nd (halordFollows_setPending _ false)).firstly (lasting_mapSession s _)

theorem follows_runAttest (req : RequestWords) : Follows s (runAttest req s).1 := by
  unfold runAttest
  split
  · exact .refl s
  · exact .of_lasting rfl

/-- Where no status is given, no check of the list failed. -/
theorem firstStatus_none {l : List (Bool × Nat)} (h : firstStatus l = none) {c : Bool × Nat} (hc : c ∈ l) : c.1 = false := by
  induction l with
  | nil => cases hc
  | cons x l ih =>
    obtain ⟨b, st⟩ := x
    cases b with
    | true => cases h
    | false =>
      cases hc with
      | head => rfl
      | tail _ hl => exact ih h hl

theorem follows_runOwnerSet (req : RequestWords) : Follows s (runOwnerSet req s).1 := by
  unfold runOwnerSet
  dsimp only
  split
  · exact follows_afterSigned s _ (.refl s)
  · rename_i hok
    have hpres : s.hl.sec.presOpen = true := by
      simpa using firstStatus_none hok (c := (!s.hl.sec.presOpen, stPresence)) (by simp)
    exact follows_afterSigned s _ ((follows_endUnsealed (onSec s fun x => { x with
      ownerPub := wordsToBytes ((req.drop 1).take 4), storageKey := (ownerKey s req).getD []
      wrapped := kwWrap (secretKey "SX96-OWN") ((ownerKey s req).getD []) }) hpres).firstly rfl)

theorem follows_runBindSet (req : RequestWords) : Follows s (runBindSet req s).1 := by
  unfold runBindSet
  refine follows_afterSigned s _ ?_
  split <;> exact .of_lasting rfl

theorem follows_runDebugUnlock (req : RequestWords) : Follows s (runDebugUnlock req s).1 := by
  unfold runDebugUnlock
  refine follows_afterSigned s _ ?_
  split <;> exact .of_lasting rfl

/-- Halord without an owner (R589). -/
def ownerless (h : Halord) : Halord :=
  { h with sec := { h.sec with ownerPub := [], wrapped := [], storageKey := [], requireBind := false } }

/-- The module with its owner and both Almanac copies gone (R589). -/
def ownerGone : State := { s with hl := flashErase (flashErase (ownerless s.hl) (almBase 0) 0x40000) (almBase 1) 0x40000 }

theorem runFactoryReset_eq : runFactoryReset s = if !s.hl.sec.presOpen then (s, stPresence) else (endUnsealed (ownerGone s), stOK) := rfl

theorem halordFollows_ownerless (h : Halord) : HalordFollows h (ownerless h) := halordFollows_flash id rfl rfl rfl rfl

theorem follows_ownerGone : Follows s (ownerGone s) :=
  .of_halord s.nd ((halordFollows_ownerless s.hl).trans ((halordFollows_flashErase _ _ _).trans (halordFollows_flashErase _ _ _)))

theorem follows_runFactoryReset : Follows s (runFactoryReset s).1 := by
  rw [runFactoryReset_eq]
  split
  · exact .refl s
  · rename_i hpres
    simp only [Bool.not_eq_true', Bool.not_eq_false] at hpres
    exact (follows_ownerGone s).trans (follows_endUnsealed _ hpres)

theorem follows_runOwn (req : RequestWords) : Follows s (runOwn req s).1 := by
  unfold runOwn
  dsimp only
  (repeat' split)
  · exact .refl s
  · exact .refl s
  · exact follows_runImgOpen s req
  · exact follows_runImgStage s
  · exact follows_runImgUnstage s
  · exact follows_runAttest s req
  · exact follows_closePresence s
  · exact follows_runOwnerSet s req
  · exact follows_runBindSet s req
  · exact follows_runDebugUnlock s req
  · exact follows_runFactoryReset s
  · exact .refl s

theorem follows_runImgPush (req : RequestWords) : Follows s (runImgPush req s).1 := by
  unfold runImgPush
  split
  · exact .refl s
  · rename_i x _
    dsimp only
    by_cases bad : (!requestOk req || !s.nd.power.hostEn ||
        !(x.session == 0 && (if x.kind = 0 then x.staged else x.bytes.length == x.length))) = true
    · rw [if_pos bad]; exact .refl s
    · rw [if_neg bad]
      dsimp only
      refine follows_startPush s _ _ _ _ _ fun u => ?_
      split
      · exact .refl u
      · exact follows_stageAlmanac u x

theorem follows_runRelay (req : RequestWords) : Follows s (runRelay req s).1 := by
  unfold runRelay
  dsimp only
  (repeat' split)
  · exact .refl s
  · exact .refl s
  · exact follows_runOwn s _
  · exact .of_lasting (lasting_askChain s _ _ _ _ _)

theorem follows_runAlmanacCopy (req : RequestWords) : Follows s (runAlmanacCopy req s).1 := by
  unfold runAlmanacCopy
  dsimp only
  (repeat' split)
  · exact .refl s
  · exact .refl s
  · exact follows_stageAlmanac s _
  · exact .of_lasting (lasting_askChain s _ _ _ _ _)

theorem follows_runRequest (req : RequestWords) : Follows s (runRequest req s).1 := by
  unfold runRequest
  dsimp only
  (repeat' split)
  · exact .refl s
  · exact .refl s
  · exact follows_runImgPush s req
  · exact follows_runRelay s req
  · exact follows_runAlmanacCopy s req
  · exact follows_runOwn s req

/-- What a request makes of the state, and the end of the transfer when its status is known (R576). -/
theorem launch_eq (req : RequestWords) : launch req s = match (runRequest req (onMbx s fun m => { m with waits := true })).2 with
    | some st => requestDone (runRequest req (onMbx s fun m => { m with waits := true })).1 (ropOf req) st
    | none => (runRequest req (onMbx s fun m => { m with waits := true })).1 := by
  unfold launch
  dsimp only
  cases runRequest req (onMbx s fun m => { m with waits := true }) with
  | mk u st => cases st <;> rfl

theorem follows_launch (req : RequestWords) : Follows s (launch req s) := by
  have ran := (follows_runRequest (onMbx s fun m => { m with waits := true }) req).firstly (lasting_onMbx s _)
  rw [launch_eq]
  split
  · exact ran.lastly (lasting_requestDone _ _ _)
  · exact ran

theorem follows_submitAs (ok : Bool) (req : RequestWords) : Follows s (submitAs ok req s) := by
  unfold submitAs submit
  (repeat' split)
  · exact .refl s
  · exact .of_lasting (lasting_onMbx s _)
  · exact (follows_launch _ req).firstly (lasting_onMbx s _)
  · exact .refl s

/-! ### Registers of the window (R12, R511) -/

theorem lasting_writePolicy (o : Nat) (w : Word) : lasting (writePolicy s o w) = lasting s := by
  unfold writePolicy
  (repeat' split)
  · exact lasting_onPolicy s _
  · exact lasting_onPolicy s _
  · exact lasting_onPolicy s _
  · exact lasting_plcCommit s w
  · exact lasting_onPolicy s _
  · exact lasting_onPolicy s _
  · rfl

/-- Halord's flash and security state are what lasts of it. -/
theorem lasting_withHalord {h : Halord} (hf : h.flash = s.hl.flash) (hs : h.sec = s.hl.sec) : lasting { s with hl := h } = lasting s := by
  simp only [lasting, hf, hs]

theorem lasting_windowWrite (off : Nat) (w : Word) : lasting (windowWrite off w s) = lasting s := by
  unfold windowWrite
  (repeat' split)
  · rfl
  · exact lasting_withHalord s rfl rfl
  · exact lasting_withHalord s rfl rfl
  · unfold writeChain; (repeat' split) <;> exact lasting_withHalord s rfl rfl
  · exact lasting_onNode s _
  · exact lasting_writePolicy s _ w
  · exact lasting_onNode s _

/-! ### The mailbox (R518, R520) -/

theorem lasting_fetchRemote (fuel : Nat) : lasting (fetchRemote fuel s) = lasting s := by
  induction fuel generalizing s with
  | zero => rfl
  | succ fuel ih =>
    unfold fetchRemote
    dsimp only
    split
    · rfl
    · exact (ih _).trans rfl

theorem lasting_mbxFetch : lasting (mbxFetch s) = lasting s := by
  unfold mbxFetch
  (repeat' split)
  · rfl
  · exact lasting_fetchLocal s
  · exact lasting_fetchRemote s 4

theorem lasting_mbxPump : lasting (mbxPump s) = lasting s := by
  unfold mbxPump
  dsimp only
  split <;> rfl

theorem lasting_mbxStart (op : Nat) (cmd : Word) : lasting (mbxStart op cmd s) = lasting s := by
  unfold mbxStart
  split
  · exact lasting_onMbx s _
  · dsimp only
    split
    · rfl
    · split
      · rfl
      · exact (lasting_mbxFetch _).trans rfl

theorem lasting_mbxStop : lasting (mbxStop s) = lasting s := by
  unfold mbxStop
  split
  · exact (lasting_mbxEnd _ _).trans (lasting_withPush s none)
  · rfl

theorem lasting_mbxCommand (cmd : Word) : lasting (mbxCommand cmd s) = lasting s := by
  unfold mbxCommand
  dsimp only
  (repeat' split)
  · exact lasting_mbxStart s _ cmd
  · exact lasting_mbxStop s
  · exact lasting_onMbx s _

theorem lasting_mbxRow (op : Nat) (cmd : Word) : lasting (mbxRow op cmd s) = lasting s := by
  unfold mbxRow
  split
  · exact lasting_mbxCommand s cmd
  · rfl

theorem lasting_mbxTake : lasting (mbxTake s).2 = lasting s := by
  unfold mbxTake
  split
  · exact (lasting_mbxFetch _).trans rfl
  · rfl

theorem lasting_mbxDataRead : lasting (mbxDataRead s) = lasting s := by
  unfold mbxDataRead
  split
  · exact (lasting_giveValue _ _).trans (lasting_mbxTake s)
  · rfl

theorem follows_imageWord (w : Word) : Follows s (imageWord s w) := by
  unfold imageWord
  dsimp only
  split
  · split
    · exact (follows_launch _ _).firstly rfl
    · exact .of_lasting rfl
  · split
    · rename_i u hu
      exact .of_lasting ((lasting_mbxSettle _).trans ((lasting_mbxAdvance _ _).trans (lasting_landImageWord s hu)))
    · exact .of_lasting (lasting_mbxEnd s _)

theorem follows_mbxDataWrite (w : Word) : Follows s (mbxDataWrite w s) := by
  unfold mbxDataWrite
  dsimp only
  (repeat' split)
  · exact .refl s
  · exact .of_lasting ((lasting_mbxSettle _).trans rfl)
  · exact .of_lasting ((lasting_mbxPump _).trans rfl)
  · exact follows_imageWord s w
  · exact .of_lasting ((lasting_mbxSettle _).trans ((lasting_mbxAdvance _ _).trans (lasting_windowWrite s _ w)))

theorem follows_registerPut (off : Nat) (w : Word) : Follows s (registerPut off w s) := by
  unfold registerPut
  (repeat' split)
  · exact .of_lasting (lasting_mbxCommand s w)
  · exact follows_mbxDataWrite s w
  · exact .of_lasting (lasting_windowWrite s off w)

theorem lasting_registerGet (off : Nat) : lasting (registerGet off s).2 = lasting s := by
  unfold registerGet
  split
  · exact lasting_mbxTake s
  · rfl

theorem lasting_bar0BadAccess : lasting (bar0BadAccess s) = lasting s := by unfold bar0BadAccess; split <;> rfl

theorem follows_registerWrite (off : Nat) (w : Word) : Follows s (registerWrite off w s) := by
  unfold registerWrite
  (repeat' split)
  · exact .refl s
  · exact .of_lasting (lasting_bar0BadAccess s)
  · exact follows_registerPut s off w

theorem follows_imageAreaWrite (offset : Nat) (w : Word) : Follows s (imageAreaWrite offset w s) := by
  unfold imageAreaWrite
  dsimp only
  (repeat' split)
  · exact .refl s
  · exact .of_lasting rfl
  · rename_i u hu
    exact .of_lasting ((lasting_onMbx _ _).trans ((lasting_onMbx _ _).trans (lasting_landImageWord s hu)))
  · exact .of_lasting rfl

/-! ### I3C (R539, R540) -/

theorem follows_powerReq (w : Word) : Follows s (powerReq w s) := by
  unfold powerReq
  (repeat' split)
  · exact follows_requestStandby s
  · exact follows_requestReady s
  · exact .of_lasting (lasting_countRequest s)

theorem follows_i3cWrite (bytes : Bytes) : Follows s (i3cWrite bytes s) := by
  have chosen (ix : Nat) : lasting { s with hl := { s.hl with i3c := { s.hl.i3c with index := ix } } } = lasting s := rfl
  unfold i3cWrite
  split
  · exact .refl s
  · split
    · exact .refl s
    · dsimp only
      (repeat' split)
      · exact .of_lasting (chosen _)
      · exact .of_lasting ((lasting_windowWrite _ _ _).trans (chosen _))
      · exact (follows_powerReq _ _).firstly (chosen _)
      · exact .of_lasting (chosen _)

theorem lasting_i3cCcc (code : Nat) (data : Bytes) : lasting (i3cCcc code data s) = lasting s := by
  have ibi (b : Bool) : lasting (setIbi data b s) = lasting s := by unfold setIbi; split <;> rfl
  unfold i3cCcc
  dsimp only
  (repeat' split)
  · rfl
  · rfl
  · exact lasting_onI3c s _
  · exact lasting_onI3c s _
  · exact ibi true
  · exact ibi false
  · rfl
  · exact lasting_withNode s _

end

end Sys2Proof.HalordService
end

section
/-! What lasts, command by command: images and requests that travel, and the chain (O53, O56, O58, O59). -/

namespace Sys2Proof.HalordService

open Sys2Proof.Machine Sys2Proof.Safety Sys2Proof.Organisation Sys2Proof.FaultHandling

section
variable (s : State)

/-! ### Frames received (R507) -/

/-- What a module makes of a frame follows when its use of the frame, and what it does besides with a bad one, do. -/
theorem follows_chainReceive (bytes : Bytes) (type : Nat) {use : ChainFrame → State → State} {bad : State → State}
    (hu : ∀ f u, Follows u (use f u)) (hb : ∀ u, Follows u (bad u)) : Follows s (chainReceive s bytes type use bad) := by
  have counted (k : Nat) : lasting (countHalord (rxLocked s) k) = lasting s := (lasting_countHalord _ _).trans (lasting_rxLocked s)
  unfold chainReceive
  split
  · exact .refl s
  · split
    · dsimp only
      split
      · exact .of_lasting ((lasting_countHalord _ _).trans ((lasting_countHalord _ _).trans (counted 0)))
      · exact (hb _).firstly ((lasting_putFrame _ _).trans ((lasting_countHalord _ _).trans (counted 0)))
    · split
      · exact .refl s
      · dsimp only
        (repeat' split)
        · exact .of_lasting ((lasting_putFrame _ _).trans (counted 0))
        · exact (hu _ _).firstly (counted 0)
        · exact (hu _ _).firstly (counted 0)
        · exact (hu _ _).firstly ((lasting_putFrame _ _).trans (counted 0))
        · exact .of_lasting ((lasting_putFrame _ _).trans (counted 0))

theorem follows_received (bytes : Bytes) (type : Nat) {use : ChainFrame → State → State} (hu : ∀ f u, Follows u (use f u)) :
    Follows s (chainReceive s bytes type use id) := follows_chainReceive s bytes type hu .refl

theorem follows_receivedOwn (bytes : Bytes) (type : Nat) {use : ChainFrame → State → State} (hu : ∀ f u, Follows u (use f u)) :
    Follows s (chainReceive s bytes type (onlyOwn use) id) := by
  refine follows_received s bytes type fun f u => ?_
  unfold onlyOwn
  split
  · exact .refl u
  · exact hu f u

/-! ### Images that travel (R581, R582) -/

theorem follows_finishSession : Follows s (finishSession s) := by
  unfold finishSession
  dsimp only
  (repeat' split)
  · exact .refl s
  · exact .refl s
  · exact .refl s
  · exact (follows_stageSession s _).lastly ((lasting_sendChain _ _ _ _ _ _).trans (lasting_mapSession _ _))

theorem lasting_noSession : lasting { s with hl := { s.hl with session := none } } = lasting s := lasting_withHalord s rfl rfl

/-- A session opened where it has not begun, and ended when it is whole. -/
theorem follows_opened (begun : Prop) [Decidable begun] (x : ImgSession) :
    Follows s (if begun then s else finishSession (openSession s x)) := by
  split
  · exact .refl s
  · exact (follows_openSession s x).trans (follows_finishSession _)

theorem follows_beginTarget (f : ChainFrame) : Follows s (beginTarget f s) := by
  unfold beginTarget
  dsimp only
  split
  · exact .refl s
  · split
    · (repeat' split)
      · exact .of_lasting (lasting_noSession s)
      · exact .refl s
      · exact .refl s
    · exact follows_opened s _ _

theorem lasting_sendNaks (session : Nat) (l : List Nat) : lasting (l.foldl (fun s k => sendNak s session k) s) = lasting s :=
  lasting_foldl s (fun u k => lasting_sendNak u session k) l

theorem follows_takeChunk (x : ImgSession) (toAll : Bool) (i : Nat) (d : Bytes) : Follows s (takeChunk s x toAll i d) := by
  have noted (y : ImgSession) (l : List Nat) : lasting (l.foldl (fun s k => sendNak s y.session k) (paceSession s y)) = lasting s :=
    (lasting_sendNaks _ _ _).trans (lasting_paceSession s y)
  unfold takeChunk
  dsimp only
  generalize (if toAll = true then _ else _ : ImgSession) = y
  generalize List.filter _ _ = l
  cases y.result with
  | none => exact (follows_finishSession _).firstly (noted y l)
  | some st =>
    dsimp only
    split
    · exact .of_lasting ((lasting_sendChain _ _ _ _ _ _).trans (noted y l))
    · exact .of_lasting (noted y l)

theorem follows_chunkArrives (f : ChainFrame) : Follows s (chunkArrives f s) := by
  unfold chunkArrives
  dsimp only
  split
  · (repeat' split)
    · exact .of_lasting ((lasting_pushSend _ _).trans (lasting_withPush s _))
    · exact .refl s
    · exact .refl s
  · generalize hu : (if s.hl.chain.owed.contains _ = true then _ else s) = u
    have owed : lasting u = lasting s := by
      subst hu
      split
      · exact (lasting_onChain _ _).trans (lasting_sendChain s _ _ _ _ _)
      · rfl
    (repeat' split)
    · exact .of_lasting owed
    · exact (follows_takeChunk u _ _ _ _).firstly owed
    · exact .of_lasting owed

theorem lasting_badChunk (bytes : Bytes) : lasting (badChunk bytes s) = lasting s := by
  unfold badChunk
  dsimp only
  (repeat' split)
  · rfl
  · exact (lasting_sendNak _ _ _).trans ((lasting_sendNaks _ _ _).trans (lasting_setSession s _))
  · rfl

theorem lasting_nakArrives (f : ChainFrame) : lasting (nakArrives f s) = lasting s := by
  unfold nakArrives
  dsimp only
  (repeat' split) <;> simp only [lasting_sendChain, lasting_sendNak, lasting_onChain]

theorem lasting_onPush (f : ChainFrame) (g : Push → Push) : lasting (onPush f g s) = lasting s := by
  unfold onPush
  (repeat' split)
  · exact lasting_withPush s _
  · rfl
  · rfl

theorem lasting_resultArrives (f : ChainFrame) : lasting (resultArrives f s) = lasting s := by
  unfold resultArrives
  (repeat' split)
  · exact lasting_pushResult s _ _
  · rfl
  · rfl

/-- A target of a push paces what it is sent (R582). -/
def pacedTarget (x : ImgSession) : State := if x.session = 0 then s else paceSession s x

/-- A session with `k` more of its bytes programmed. -/
def programmedBy (x : ImgSession) (k : Nat) : ImgSession :=
  { x with programmed := x.programmed + min k (x.bytes.length - x.programmed) }

/-- The module with `k` more bytes of a session in the inactive slot, and what follows of that for the session. -/
def progressed (x : ImgSession) (k : Nat) : State := finishSession (pacedTarget (programBytes s x k) (programmedBy x k))

/-- A POWER_REQ Standby that waited for the write takes effect once it is done (R542). -/
def entryAfterWrite : State :=
  if s.nd.power.standbyWaits && decide (2 ≤ s.nd.power.state) && !flashBusy s.hl then
    setPower s fun p => { p with standbyWaits := false, entry := 1 }
  else s

theorem flashProgress_eq {x : ImgSession} (k : Nat) (hidle : (!aonUp s || s.hl.restarting) = false) (hx : s.hl.session = some x)
    (hk : x.kind = 0) : flashProgress k s = entryAfterWrite (progressed s x k) := by
  rw [flashProgress, if_neg (by simp [hidle]), hx]
  simp only [hk]
  rfl

theorem lasting_entryAfterWrite : lasting (entryAfterWrite s) = lasting s := by unfold entryAfterWrite; split <;> rfl

theorem lasting_pacedTarget (x : ImgSession) : lasting (pacedTarget s x) = lasting s := by
  unfold pacedTarget
  split
  · rfl
  · exact lasting_paceSession s x

theorem follows_progressed (x : ImgSession) (k : Nat) : Follows s (progressed s x k) :=
  ((follows_programBytes s x k).lastly (lasting_pacedTarget _ _)).trans (follows_finishSession _)

theorem follows_flashProgress (k : Nat) : Follows s (flashProgress k s) := by
  by_cases idle : (!aonUp s || s.hl.restarting) = true
  · rw [flashProgress, if_pos idle]; exact .refl s
  · cases hx : s.hl.session with
    | none => rw [flashProgress, if_neg idle, hx]; exact .refl s
    | some x =>
      by_cases hk : x.kind = 0
      · rw [flashProgress_eq s k (by simpa using idle) hx hk]
        exact (follows_progressed s x k).lastly (lasting_entryAfterWrite _)
      · rw [flashProgress, if_neg idle, hx]
        dsimp only
        rw [if_pos hk]
        exact .refl s

/-! ### Requests that travel (R581) -/

theorem follows_takeCopyOrder (w : Word) : Follows s (takeCopyOrder s w).1 := by
  unfold takeCopyOrder
  split
  · exact .refl s
  · exact .of_lasting (lasting_setSession s _)

/-- A relayed request or copy order run at its target, and its status. -/
def runAtTarget (f : ChainFrame) (req : RequestWords) : State × Nat :=
  if f.payload.length % 8 ≠ 0 || req.isEmpty then (s, stInvalid)
  else if s.hl.restarting then (s, stAborted)
  else if ropOf req = 0x14 && req.length == 2 then takeCopyOrder s (wordAt req 1)
  else if relayable (ropOf req) then runOwn req s
  else (s, stInvalid)

/-- The outcome of a request is recorded, logged and returned to the frame's sender (R581, R594). -/
def outcomeReturned (f : ChainFrame) (rop st : Nat) : State :=
  sendChain (logIn (onSec s fun x => { x with lastRop := rop, lastStatus := st })
    { sev := sevInfo, code := 0x710, data0 := rop + st * 2 ^ 8 }) f.src 0x17 f.tag st []

/-- The words of a request that a frame carries. -/
def carriedRequest (f : ChainFrame) : RequestWords := bytesToWords (f.payload.length / 8) f.payload

theorem secReqArrives_eq (f : ChainFrame) : secReqArrives f s =
    outcomeReturned (runAtTarget s f (carriedRequest f)).1 f (ropOf (carriedRequest f)) (runAtTarget s f (carriedRequest f)).2 := rfl

theorem lasting_outcomeReturned (f : ChainFrame) (rop st : Nat) : lasting (outcomeReturned s f rop st) = lasting s := rfl

theorem follows_runAtTarget (f : ChainFrame) (req : RequestWords) : Follows s (runAtTarget s f req).1 := by
  unfold runAtTarget
  (repeat' split)
  · exact .refl s
  · exact .refl s
  · exact follows_takeCopyOrder s _
  · exact follows_runOwn s req
  · exact .refl s

theorem follows_secReqArrives (f : ChainFrame) : Follows s (secReqArrives f s) := by
  rw [secReqArrives_eq]
  exact (follows_runAtTarget s f _).lastly (lasting_outcomeReturned _ _ _ _)

theorem follows_secRspArrives (f : ChainFrame) : Follows s (secRspArrives f s) := by
  unfold secRspArrives
  (repeat' split)
  · exact .refl s
  · exact .of_lasting ((lasting_requestDone _ _ _).trans (lasting_dropAsked s _))
  · exact .of_lasting ((lasting_requestDone _ _ _).trans (lasting_dropAsked s _))
  · exact (follows_startPush _ _ _ _ _ _ fun u => .refl u).firstly (lasting_dropAsked s _)
  · exact .refl s

theorem follows_secReq (frame : Bytes) : Follows s (secReq frame s) := by
  refine follows_received s frame _ fun f u => ?_
  split
  · exact .refl u
  · exact follows_secReqArrives u f

/-! ### Pins (R585, R590) -/

theorem lasting_jtagLoad (ir : TapInstr) : lasting (jtagLoad ir s) = lasting s := by
  have loaded (idle : Prop) [Decidable idle] (e : Event) :
      lasting (if idle then s else logSecurity (scanZeroise s) e) = lasting s := by
    split
    · rfl
    · exact (lasting_logSecurity _ _).trans rfl
  exact loaded _ _

/-! ### The chain (R506–R510, R516, R554) -/

theorem follows_gatherStart : Follows s (gatherStart s) := by
  unfold gatherStart
  dsimp only
  refine (Follows.of_halord s.nd ?_).lastly ((lasting_gatherFrom _ _).trans (lasting_onChain _ _))
  split
  · exact halordFollows_storeAlmanac s.hl 0 _
  · exact .refl s.hl

theorem follows_gatherAnswer (st : Nat) (data : Bytes) : Follows s (gatherAnswer s st data) := by
  unfold gatherAnswer
  split
  · exact .refl s
  · dsimp only
    (repeat' split)
    · exact .of_lasting (lasting_gatherFrom s _)
    · exact .of_lasting (lasting_gatherAsk s _)
    · exact .of_lasting (lasting_gatherFrom s _)
    · exact .of_lasting (lasting_gatherAsk s _)
    · exact .of_lasting (lasting_gatherAsk s _)
    · exact (Follows.of_halord s.nd (halordFollows_storeAlmanac s.hl _ _)).lastly (lasting_gatherFrom _ _)

theorem follows_enumAtHead (f : ChainFrame) : Follows s (enumAtHead f s) := by
  unfold enumAtHead
  split
  · exact .of_lasting (lasting_chainFlag s 7)
  · exact ((follows_gatherStart _).firstly ((lasting_takeNodeId _).trans (lasting_onChain s _))).lastly (lasting_advanceStart _)

theorem lasting_enumAtMember (f : ChainFrame) : lasting (enumAtMember f s) = lasting s := by
  unfold enumAtMember
  dsimp only
  split
  · split <;> simp only [lasting_passEnum, lasting_chainFlag]
  · split
    · exact (lasting_putFrame _ _).trans (lasting_chainFlag s 8)
    · exact (lasting_advanceStart _).trans ((lasting_takeNodeId _).trans ((lasting_passEnum _ _ _).trans
        ((lasting_onChain _ _).trans (lasting_withNode s _))))

theorem follows_chainEnum (frame : Bytes) : Follows s (chainEnum frame s) := by
  have counted (k : Nat) : lasting (countHalord (rxLocked s) k) = lasting s := (lasting_countHalord _ _).trans (lasting_rxLocked s)
  unfold chainEnum
  split
  · exact .refl s
  · split
    · exact .of_lasting ((lasting_countHalord _ _).trans ((lasting_countHalord _ _).trans (counted 0)))
    · dsimp only
      (repeat' split)
      · exact .refl s
      · exact (follows_enumAtHead _ _).firstly (counted 0)
      · exact .of_lasting ((lasting_putFrame _ _).trans (counted 0))
      · exact .of_lasting ((lasting_enumAtMember _ _).trans (counted 0))

theorem lasting_chainEnumRetry : lasting (chainEnumRetry s) = lasting s := by
  unfold chainEnumRetry
  split
  · exact lasting_sendEnum s
  · rfl

/-- Symbol lock is lost: the chain is down, which is logged and raises CHAIN (R510). -/
def lockLost : State :=
  logIn (alertIn (onChain s fun c => { c with down := true, status := putField (putField c.status 11 11 1) 0 0 0 }) alChain)
    (otherEvent 9 1)

/-- A partial session ends with the chain (R510). -/
def partialDropped : State :=
  match s.hl.session with
  | some x => if x.session ≠ 0 && x.result.isNone then { s with hl := { s.hl with session := none } } else s
  | none => s

theorem chainDown_eq : chainDown s = if !aonUp s then s else partialDropped (pushAbort (lockLost s)) := rfl

theorem lasting_partialDropped : lasting (partialDropped s) = lasting s := by
  unfold partialDropped
  (repeat' split)
  · exact lasting_noSession s
  · rfl
  · rfl

theorem lasting_chainDown : lasting (chainDown s) = lasting s := by
  rw [chainDown_eq]
  split
  · rfl
  · exact (lasting_partialDropped _).trans ((lasting_pushAbort _).trans rfl)

theorem lasting_chainForward (frame : Bytes) : lasting (chainForward frame s) = lasting s := by
  unfold chainForward
  split
  · rfl
  · split
    · dsimp only
      split <;> simp only [lasting_countHalord, lasting_putFrame, lasting_rxLocked]
    · dsimp only
      (repeat' split) <;> simp only [lasting_countHalord, lasting_putFrame, lasting_rxLocked]

theorem lasting_readWords (space k a : Nat) : lasting (readWords space k a s).2 = lasting s := by
  induction k generalizing a s with
  | zero => rfl
  | succ k ih =>
    refine (ih _ _).trans ?_
    split
    · exact lasting_registerGet s a
    · rfl

theorem lasting_readAtTarget (f : ChainFrame) : lasting (readAtTarget f s) = lasting s := by
  unfold readAtTarget
  split
  · exact lasting_sendChain s _ _ _ _ _
  · exact (lasting_sendChain _ _ _ _ _ _).trans (lasting_readWords s _ _ _)

theorem follows_writeWords (ws : List Word) (a : Nat) : Follows s (writeWords ws a s) := by
  induction ws generalizing a s with
  | nil => exact .refl s
  | cons w rest ih => exact (follows_registerPut s a w).trans (ih _ _)

theorem follows_writeFresh (f : ChainFrame) : Follows s (writeAtTarget.fresh f s) := by
  unfold writeAtTarget.fresh
  dsimp only
  generalize hu : (if _ = stOK then _ else s) = u
  have wrote : Follows s u := by
    subst hu
    split
    · exact follows_writeWords s _ _
    · exact .refl s
  exact wrote.lastly ((lasting_sendChain _ _ _ _ _ _).trans (lasting_onChain _ _))

theorem follows_writeAtTarget (f : ChainFrame) : Follows s (writeAtTarget f s) := by
  unfold writeAtTarget
  (repeat' split)
  · exact .of_lasting (lasting_sendChain s _ _ _ _ _)
  · exact follows_writeFresh s f
  · exact follows_writeFresh s f

theorem lasting_drainReads (fuel : Nat) : lasting (drainReads fuel s) = lasting s := by
  induction fuel generalizing s with
  | zero => rfl
  | succ fuel ih =>
    unfold drainReads
    (repeat' split)
    · rfl
    · rfl
    · exact lasting_mbxEnd s _
    · exact (ih _).trans ((lasting_mbxAdvance _ _).trans ((lasting_onMbx _ _).trans (lasting_dropAsked s _)))

theorem follows_readAnswered (f : ChainFrame) : Follows s (readAnswered f s) := by
  unfold readAnswered
  (repeat' split)
  · exact .refl s
  · exact .of_lasting (lasting_countHalord s 3)
  · exact .of_lasting ((lasting_mbxFetch _).trans ((lasting_mbxSettle _).trans ((lasting_drainReads _ _).trans
      (lasting_recordAnswer s _ _ _))))
  · exact (follows_gatherAnswer _ _ _).firstly (lasting_dropAsked s _)
  · exact .refl s

theorem lasting_writeAnswered (f : ChainFrame) : lasting (writeAnswered f s) = lasting s := by
  unfold writeAnswered
  (repeat' split)
  · rfl
  · rfl
  · exact lasting_mbxEnd s _
  · exact (lasting_mbxSettle _).trans ((lasting_mbxPump _).trans ((lasting_onMbx _ _).trans ((lasting_mbxAdvance _ _).trans
      (lasting_dropAsked s _))))

theorem lasting_alertArrives (f : ChainFrame) : lasting (alertArrives f s) = lasting s := by
  unfold alertArrives
  split
  · exact lasting_onChain s _
  · rfl

theorem lasting_giveUp (q : ChainReq) : lasting (giveUp s q) = lasting s := by
  unfold giveUp
  dsimp only
  (repeat' split)
  · exact (lasting_mbxEnd _ _).trans (lasting_dropAsked s _)
  · exact (lasting_mbxEnd _ _).trans (lasting_dropAsked s _)
  · exact (lasting_requestDone _ _ _).trans (lasting_dropAsked s _)
  · exact (lasting_requestDone _ _ _).trans (lasting_dropAsked s _)
  · exact (lasting_gatherFrom _ _).trans (lasting_dropAsked s _)
  · exact lasting_dropAsked s _

theorem lasting_pushTimeout (p : Push) : lasting (pushTimeout s p) = lasting s := by
  unfold pushTimeout
  split
  · exact lasting_pushAbort s
  · dsimp only
    refine (lasting_pushSend _ _).trans ?_
    split
    · exact (lasting_sendBegin _ _).trans (lasting_withPush s _)
    · exact (lasting_sendChain _ _ _ _ _ _).trans ((lasting_sendBegin _ _).trans (lasting_withPush s _))

theorem lasting_chainTimeout (tag : Nat) : lasting (chainTimeout tag s) = lasting s := by
  unfold chainTimeout
  (repeat' split)
  · rfl
  · exact lasting_giveUp s _
  · exact (lasting_countHalord _ _).trans ((lasting_putFrame _ _).trans (lasting_onChain s _))
  · exact lasting_pushTimeout s _
  · rfl
  · rfl

end

end Sys2Proof.HalordService
end

section
/-! What every command leaves as it was, and what every step keeps (O53, O56–O59). -/

namespace Sys2Proof.HalordService

open Sys2Proof.Machine Sys2Proof.Safety Sys2Proof.Organisation Sys2Proof.MemoryTiers Sys2Proof.FaultHandling

/-! ### Commands by their reach -/

/-- A command of the data plane changes the node alone. -/
theorem exec_dataPlane {i : Instr} (h : reachesHalord i = false) (s : State) : ∃ m, exec i s = .next { s with nd := m } := by
  cases i with
  | powerInputUp | resetNAssert | resetNRelease | overVoltageTrip | aonTrip | brownOut | standbyAutoExit | inputCapacitanceCharged
  | railInWindow | railFault | bistComplete | stackTrainingDone | densePortBringupDone | startJoinFabric | refclkLoss | refclkReturn
  | powerReqStandby | powerReqReady | powerReqNoChange | standbyFlush | watchdogExpiry | sensorSample | policyPeriodEnd
  | evaluationWindowEnd | logFlashCopy | errorBandWindowEnd | chainEnum | chainEnumRetry | chainFrameForward | chainRdReq | chainWrReq
  | chainRdRsp | chainWrRsp | chainAlert | chainRequestTimeout | chainDown | mbxRead | mbxWrite | mbxAbort | mbxDataRead | mbxDataWrite
  | i3cPrivateWrite | i3cCcc | bar0BadAccess | registerWrite | plcCommit | membAck | membReport | membLost | membAgreement
  | memberSuspectTimer | residueMismatch | correctedError | uncorrectableLine | uncorrectableStateError | meshReplay | tileRetire
  | tileUngate | vigilPatrolRead | knownAnswerTest | masqueInterval | imgOpenFirmware | imgOpenAlmanac | imageAreaWrite | imgStage
  | imgUnstage | imgPush | relay | attest | presClose | ownerSet | bindSet | debugUnlock | factoryReset | almanacCopy | imgBegin
  | imgChunk | imgNak | imgHold | imgGo | imgResult | secReq | secRsp | presNHold | presenceWindowExpiry | sealSample | jtagInstruction
  | presNRelease | regionResetComplete | containmentTimeout | halordRestartComplete | flashProgramProgress =>
    exact Bool.noConfusion h
  | _ => exact ⟨_, rfl⟩

/-- The pins whose commands may open the presence window or close the seal loop. -/
def watchesSeal : Instr → Bool
  | .presNHold | .sealSample _ => true
  | _ => false

/-- What a command of Halord's own makes of the state may come of it, those of the presence pin and the seal loop apart. -/
theorem exec_follows {i : Instr} (hr : reachesHalord i = true) (hw : watchesSeal i = false) (s : State) :
    ∃ t, exec i s = .next t ∧ Follows s t := by
  cases i with
  | powerInputUp hostEn => exact ⟨_, rfl, follows_powerInputUp s hostEn⟩
  | resetNAssert => exact ⟨_, rfl, .of_lasting rfl⟩
  | resetNRelease hostEn => exact ⟨_, rfl, follows_resetRelease s hostEn⟩
  | overVoltageTrip => exact ⟨_, rfl, .of_lasting (lasting_loseInput s)⟩
  | aonTrip => exact ⟨_, rfl, .of_lasting (lasting_loseInput s)⟩
  | brownOut => exact ⟨_, rfl, follows_brownOut s⟩
  | standbyAutoExit => exact ⟨_, rfl, follows_autoExit s⟩
  | inputCapacitanceCharged => exact ⟨_, rfl, follows_capacitanceCharged s⟩
  | railInWindow d => exact ⟨_, rfl, follows_railUp s d.val⟩
  | railFault d => exact ⟨_, rfl, follows_railFault s d.val⟩
  | bistComplete fs => exact ⟨_, rfl, follows_bistComplete s fs⟩
  | stackTrainingDone r trained bad => exact ⟨_, rfl, follows_stackTrained s r.val trained bad⟩
  | densePortBringupDone d present trained fmtOk nsBlocks queues dz =>
    exact ⟨_, rfl, follows_denseBringup s d.val present trained fmtOk nsBlocks queues dz⟩
  | startJoinFabric => exact ⟨_, rfl, follows_joinFabric s⟩
  | refclkLoss => exact ⟨_, rfl, follows_refclkLoss s⟩
  | refclkReturn => exact ⟨_, rfl, .of_lasting (lasting_setPower s _)⟩
  | powerReqStandby => exact ⟨_, rfl, follows_requestStandby s⟩
  | powerReqReady => exact ⟨_, rfl, follows_requestReady s⟩
  | powerReqNoChange =>
    refine ⟨_, rfl, .of_lasting ?_⟩
    split
    · rfl
    · exact lasting_countRequest s
  | standbyFlush => exact ⟨_, rfl, .of_lasting (lasting_standbyFlush s)⟩
  | watchdogExpiry => exact ⟨_, rfl, follows_watchdogExpiry s⟩
  | sensorSample rs os => exact ⟨_, rfl, follows_sensorSample s rs os⟩
  | policyPeriodEnd => exact ⟨_, rfl, follows_policyPeriodEnd s⟩
  | evaluationWindowEnd b space l => exact ⟨_, rfl, follows_evaluationWindowEnd s _ _ l⟩
  | logFlashCopy ok => exact ⟨_, rfl, follows_logFlashCopy s ok⟩
  | errorBandWindowEnd =>
    refine ⟨_, rfl, ?_⟩
    split
    · exact .refl s
    · exact follows_onTiles s _
  | chainEnum frame => exact ⟨_, rfl, follows_chainEnum s frame⟩
  | chainEnumRetry => exact ⟨_, rfl, .of_lasting (lasting_chainEnumRetry s)⟩
  | chainFrameForward frame => exact ⟨_, rfl, .of_lasting (lasting_chainForward s frame)⟩
  | chainRdReq frame => exact ⟨_, rfl, follows_receivedOwn s frame _ fun f u => .of_lasting (lasting_readAtTarget u f)⟩
  | chainWrReq frame => exact ⟨_, rfl, follows_receivedOwn s frame _ fun f u => follows_writeAtTarget u f⟩
  | chainRdRsp frame => exact ⟨_, rfl, follows_receivedOwn s frame _ fun f u => follows_readAnswered u f⟩
  | chainWrRsp frame => exact ⟨_, rfl, follows_receivedOwn s frame _ fun f u => .of_lasting (lasting_writeAnswered u f)⟩
  | chainAlert frame => exact ⟨_, rfl, follows_receivedOwn s frame _ fun f u => .of_lasting (lasting_alertArrives u f)⟩
  | chainRequestTimeout tag => exact ⟨_, rfl, .of_lasting (lasting_chainTimeout s tag.toNat)⟩
  | chainDown => exact ⟨_, rfl, .of_lasting (lasting_chainDown s)⟩
  | mbxRead cmd => exact ⟨_, rfl, .of_lasting (lasting_mbxRow s 1 cmd)⟩
  | mbxWrite cmd => exact ⟨_, rfl, .of_lasting (lasting_mbxRow s 2 cmd)⟩
  | mbxAbort cmd => exact ⟨_, rfl, .of_lasting (lasting_mbxRow s 3 cmd)⟩
  | mbxDataRead => exact ⟨_, rfl, .of_lasting (lasting_mbxDataRead s)⟩
  | mbxDataWrite w => exact ⟨_, rfl, follows_mbxDataWrite s w⟩
  | i3cPrivateWrite bytes => exact ⟨_, rfl, follows_i3cWrite s bytes⟩
  | i3cCcc code data => exact ⟨_, rfl, .of_lasting (lasting_i3cCcc s code.toNat data)⟩
  | bar0BadAccess => exact ⟨_, rfl, .of_lasting (lasting_bar0BadAccess s)⟩
  | registerWrite offset w => exact ⟨_, rfl, follows_registerWrite s offset.toNat w⟩
  | plcCommit w => exact ⟨_, rfl, .of_lasting (lasting_plcCommit s w)⟩
  | membAck p => exact ⟨_, rfl, follows_membAck s p⟩
  | membReport p => exact ⟨_, rfl, .of_lasting (lasting_takeMgtState s _ _ p fun u => lasting_takeReport u p)⟩
  | membLost p => exact ⟨_, rfl, .of_lasting (lasting_takeMgtState s _ _ p fun u => lasting_takeLost u p)⟩
  | membAgreement p => exact ⟨_, rfl, .of_lasting (lasting_takeMgtState s _ _ p fun u => lasting_takeAgreement u p)⟩
  | memberSuspectTimer node => exact ⟨_, rfl, .of_lasting (lasting_suspect s node.toNat)⟩
  | imgOpenFirmware req => exact ⟨_, rfl, follows_submitAs s _ req⟩
  | imgOpenAlmanac req => exact ⟨_, rfl, follows_submitAs s _ req⟩
  | imageAreaWrite offset w => exact ⟨_, rfl, follows_imageAreaWrite s offset w⟩
  | imgStage req => exact ⟨_, rfl, follows_submitAs s _ req⟩
  | imgUnstage req => exact ⟨_, rfl, follows_submitAs s _ req⟩
  | imgPush req => exact ⟨_, rfl, follows_submitAs s _ req⟩
  | relay req => exact ⟨_, rfl, follows_submitAs s _ req⟩
  | attest req => exact ⟨_, rfl, follows_submitAs s _ req⟩
  | presClose req => exact ⟨_, rfl, follows_submitAs s _ req⟩
  | ownerSet req => exact ⟨_, rfl, follows_submitAs s _ req⟩
  | bindSet req => exact ⟨_, rfl, follows_submitAs s _ req⟩
  | debugUnlock req => exact ⟨_, rfl, follows_submitAs s _ req⟩
  | factoryReset req => exact ⟨_, rfl, follows_submitAs s _ req⟩
  | almanacCopy req => exact ⟨_, rfl, follows_submitAs s _ req⟩
  | imgBegin frame => exact ⟨_, rfl, follows_received s frame _ fun f u => follows_beginTarget u f⟩
  | imgChunk frame =>
    exact ⟨_, rfl, follows_chainReceive s frame _ (fun f u => follows_chunkArrives u f) fun u => .of_lasting (lasting_badChunk u frame)⟩
  | imgNak frame => exact ⟨_, rfl, follows_received s frame _ fun f u => .of_lasting (lasting_nakArrives u f)⟩
  | imgHold frame => exact ⟨_, rfl, follows_received s frame _ fun f u => .of_lasting (lasting_onPush u f _)⟩
  | imgGo frame =>
    exact ⟨_, rfl, follows_received s frame _ fun f u => .of_lasting ((lasting_pushSend _ _).trans (lasting_onPush u f _))⟩
  | imgResult frame => exact ⟨_, rfl, follows_received s frame _ fun f u => .of_lasting (lasting_resultArrives u f)⟩
  | secReq frame => exact ⟨_, rfl, follows_secReq s frame⟩
  | secRsp frame => exact ⟨_, rfl, follows_received s frame _ fun f u => follows_secRspArrives u f⟩
  | presenceWindowExpiry => exact ⟨_, rfl, follows_closePresence s⟩
  | jtagInstruction ir => exact ⟨_, rfl, .of_lasting (lasting_jtagLoad s ir)⟩
  | presNRelease => exact ⟨_, rfl, .of_lasting rfl⟩
  | halordRestartComplete => exact ⟨_, rfl, follows_restartComplete s⟩
  | flashProgramProgress n => exact ⟨_, rfl, follows_flashProgress s n⟩
  | residueMismatch | correctedError | uncorrectableLine | uncorrectableStateError | meshReplay | tileRetire | tileUngate
  | vigilPatrolRead | knownAnswerTest | masqueInterval | regionResetComplete | containmentTimeout =>
    exact ⟨_, rfl, follows_onTiles s _⟩
  | presNHold | sealSample => exact Bool.noConfusion hw
  | _ => exact Bool.noConfusion hr

/-! ### What lasts through every command -/

/-- The queue stands, what stands in flash and fuses stays sound and no fuse is unblown, and the Unsealed state ends only with presence and
a closed loop (R574, R586). -/
def Lasts (s t : State) : Prop :=
  t.pending = s.pending ∧ (Sound s → Sound t ∧ s.hl.sec.fuses ≤ t.hl.sec.fuses) ∧
  (s.hl.sec.unsealed = true → t.hl.sec.unsealed = true ∨ s.hl.sec.presOpen = true ∧ s.hl.sec.sealOk = true)

theorem Follows.lasts {s t : State} (h : Follows s t) : Lasts s t := by
  obtain ⟨hpending, hflash, hfuses, _, _, hopen⟩ := h
  refine ⟨hpending, fun ⟨hwf, hmax⟩ => ?_, hopen⟩
  obtain ⟨hle, hmax'⟩ := hfuses hmax
  exact ⟨⟨hflash hwf, hmax'⟩, hle⟩

/-- A change of the security state that neither touches the fuses nor ends the Unsealed state, and then others that do not end it either. -/
theorem lasts_of_pins {s t : State} {f : Security → Security} (h : Follows (onSec s f) t)
    (hfuses : (f s.hl.sec).fuses = s.hl.sec.fuses) (hopen : s.hl.sec.unsealed = true → t.hl.sec.unsealed = true) : Lasts s t := by
  obtain ⟨hpending, hsound, _⟩ := h.lasts
  refine ⟨hpending, fun ⟨hwf, hmax⟩ => ?_, fun hu => .inl (hopen hu)⟩
  obtain ⟨ht, hle⟩ := hsound ⟨hwf, hfuses.trans_le hmax⟩
  exact ⟨ht, hfuses.symm.trans_le hle⟩

@[simp] theorem logSecurity_hl (s : State) (e : Event) : (logSecurity s e).hl = s.hl := by
  unfold logSecurity; dsimp only; split <;> rfl

@[simp] theorem closePresence_unsealed (s : State) : (closePresence s).hl.sec.unsealed = s.hl.sec.unsealed := by
  unfold closePresence
  split
  · rw [logSecurity_hl]; rfl
  · rfl

theorem lasts_presHold (s : State) : Lasts s (presHold s) := by
  unfold presHold
  split
  · exact (Follows.refl s).lasts
  · dsimp only
    split
    · exact lasts_of_pins (.of_lasting (lasting_logSecurity _ _)) rfl fun h => by rw [logSecurity_hl]; exact h
    · exact lasts_of_pins (.refl _) rfl id

theorem lasts_sealSample (closed : Bool) (s : State) : Lasts s (sealSample closed s) := by
  unfold sealSample
  split
  · exact (Follows.refl s).lasts
  · split
    · exact lasts_of_pins (.refl _) rfl id
    · dsimp only
      split
      · exact lasts_of_pins (.refl _) rfl id
      · have ended := (follows_closePresence (onSec s fun x =>
            { x with sealOk := false, sealOpens := min 2 (x.sealOpens + 1), unsealed := true })).lastly
          ((lasting_logSecurity (alertIn (closePresence _) alSecurity) { sev := sevError, code := 0x703 }).trans (lasting_alertIn _ _))
        refine lasts_of_pins ended rfl fun _ => ?_
        rw [logSecurity_hl, alertIn_hl, closePresence_unsealed]
        rfl

/-- Every command answers a next state, and what lasts does. -/
theorem exec_lasts (i : Instr) (s : State) : ∃ t, exec i s = .next t ∧ Lasts s t := by
  cases hr : reachesHalord i with
  | false =>
    obtain ⟨m, h⟩ := exec_dataPlane hr s
    exact ⟨_, h, (Follows.of_lasting (lasting_withNode s m)).lasts⟩
  | true =>
    cases hw : watchesSeal i with
    | false =>
      obtain ⟨t, h, hf⟩ := exec_follows hr hw s
      exact ⟨t, h, hf.lasts⟩
    | true =>
      cases i with
      | presNHold => exact ⟨_, rfl, lasts_presHold s⟩
      | sealSample closed => exact ⟨_, rfl, lasts_sealSample closed s⟩
      | _ => exact Bool.noConfusion hw

theorem lasts_of_exec {i : Instr} {s t : State} (h : exec i s = .next t) : Lasts s t := by
  obtain ⟨u, hu, hl⟩ := exec_lasts i s
  cases hu.symm.trans h
  exact hl

/-! ### Steps -/

theorem step_nil {s : State} (h : s.pending = []) : step s = .next s := by unfold step; rw [h]

theorem step_cons {s : State} {i : Instr} {rest : List Instr} (h : s.pending = i :: rest) :
    step s = exec i { s with pending := rest } := by unfold step; rw [h]

/-- A step is a command's, or the block idles: sound states stay sound, and the Unsealed state ends only with presence. -/
theorem lasts_of_step {s t : State} (h : step s = .next t) :
    (Sound s → Sound t ∧ s.hl.sec.fuses ≤ t.hl.sec.fuses) ∧
    (s.hl.sec.unsealed = true → t.hl.sec.unsealed = true ∨ s.hl.sec.presOpen = true ∧ s.hl.sec.sealOk = true) := by
  cases hp : s.pending with
  | nil =>
    rw [step_nil hp] at h
    cases h
    exact (Follows.refl s).lasts.2
  | cons i rest =>
    rw [step_cons hp] at h
    exact (lasts_of_exec h).2

theorem withFetchWord_eq (s : State) (nbits w : Nat) : s.withFetchWord nbits w = s := by
  unfold State.withFetchWord
  rfl

end Sys2Proof.HalordService

open Sys2Proof Sys2Proof.Machine Sys2Proof.Safety Sys2Proof.HalordService

/-- Settles O53: the step is exec of the front, and every command has a meaning that answers a next state. The idling on an empty queue is
the model's choice (log entry 8). -/
theorem stepTakesTheFront : Obligations.StepTakesTheFront := by
  refine ⟨fun i s => step_cons rfl, fun s hs => step_nil hs, fun i s => ?_, fun s nbits w => ⟨rfl, withFetchWord_eq s nbits w⟩⟩
  obtain ⟨t, h, _⟩ := exec_lasts i s
  exact ⟨t, h⟩

/-- Settles O56, by what each command leaves of flash and the fuses. The form of flash is the model's (log entry 4). -/
theorem everyStepIsSound : Obligations.EveryStepIsSound := fun _ _ hs h => (lasts_of_step h).1 hs

/-- Settles O57: the state after reset is an erased flash with no fuse blown (the model's choice, log entry 4). -/
theorem resetIsSound : Obligations.ResetIsSound := ⟨rfl, Nat.zero_le 64⟩

/-- Settles O58: OWNER_SET and FACTORY_RESET alone end the Unsealed state, and both are refused without presence. -/
theorem unsealedEndsWithPresence : Obligations.UnsealedEndsWithPresence := by
  intro s t h hu ht
  obtain hstill | hends := (lasts_of_step h).2 hu
  · rw [ht] at hstill; exact absurd hstill Bool.false_ne_true
  · exact hends

/-- Settles O59, by what each command leaves; that the queue is a field of the state is the model's (log entry 1). -/
theorem commandsKeepTheirSide : Obligations.CommandsKeepTheirSide := by
  refine ⟨fun i s t h => (lasts_of_exec h).1, fun i s t hr h => ?_⟩
  obtain ⟨m, hm⟩ := exec_dataPlane hr s
  cases hm.symm.trans h
  rfl
end

section
/-! The clock cap in force and the alert pin, and the board controller's I3C accesses (O18, O60). -/

namespace Sys2Proof.HalordService

open Sys2Proof.Machine Sys2Proof.Safety Sys2Proof.Organisation

/-! ### Caps and the alert pin (R535, R541) -/

/-- The largest of three numbers is one of them, and none is larger. -/
theorem max_three (a b c : Nat) : max (max a b) c ∈ [a, b, c] ∧ ∀ l ∈ [a, b, c], l ≤ max (max a b) c := by
  simp only [List.mem_cons, List.not_mem_nil, or_false, forall_eq_or_imp, forall_eq]
  omega

/-- Two words have a bit set in common when their conjunction is not 0. -/
theorem and_ne_zero_iff (a b : Word) : a &&& b ≠ 0 ↔ ∃ k, k < 64 ∧ bitOf a k = true ∧ bitOf b k = true := by
  have hz (k : Nat) : (0 : Word).getLsbD k = false := BitVec.getLsbD_zero
  constructor
  · intro h
    by_contra none
    refine h (BitVec.eq_of_getLsbD_eq fun k hk => ?_)
    rw [BitVec.getLsbD_and, hz, Bool.and_eq_false_iff]
    by_contra both
    simp only [not_or, Bool.not_eq_false] at both
    exact none ⟨k, hk, both⟩
  · rintro ⟨k, _, ha, hb⟩ h
    have hk := (BitVec.getLsbD_and (x := a) (y := b) (i := k)).symm.trans ((congrArg (BitVec.getLsbD · k) h).trans (hz k))
    rw [bitOf] at ha hb
    rw [ha, hb] at hk
    exact absurd hk (by decide)

theorem alertLow_iff (n : Node) : alertLow n = true ↔ ∃ k, k < 64 ∧ bitOf n.log.alert k = true ∧ bitOf n.log.mask k = true := by
  rw [alertLow, bne_iff_ne, and_ne_zero_iff]

/-! ### I3C (R539, R540) -/

section
variable {s : State} (ha : aonUp s = true)
include ha

/-- The I3C target's register chosen. -/
theorem i3cWrite_short (ix : Byte) {rest : Bytes} (h : rest.length < 8) :
    i3cWrite (ix :: rest) s = onI3c s fun i => { i with index := ix.toNat } := by
  simp only [i3cWrite, ha, Bool.not_true, Bool.false_eq_true, if_false]
  rw [if_pos h]
  rfl

theorem i3cWrite_word (ix : Byte) {rest : Bytes} (h : rest.length = 8) : i3cWrite (ix :: rest) s =
    if ix = 0x03 then windowWrite 0x3000 (wordOf (leNat rest)) (onI3c s fun i => { i with index := ix.toNat })
    else if ix = 0x07 then powerReq (wordOf (leNat rest)) (onI3c s fun i => { i with index := ix.toNat })
    else onI3c s fun i => { i with index := ix.toNat } := by
  simp only [i3cWrite, ha, Bool.not_true, Bool.false_eq_true, if_false]
  rw [if_neg (by omega), List.take_of_length_le (by omega)]
  rfl

/-- Index 0x07 is POWER_REQ. -/
theorem i3cWrite_power {rest : Bytes} (h : rest.length = 8) :
    i3cWrite (0x07 :: rest) s = powerReq (wordOf (leNat rest)) (onI3c s fun i => { i with index := 7 }) := i3cWrite_word ha 0x07 h

/-- Index 0x03 is ALERT_STATUS. -/
theorem i3cWrite_alert {rest : Bytes} (h : rest.length = 8) :
    i3cWrite (0x03 :: rest) s = onNode (onI3c s fun i => { i with index := 3 }) fun n => writeAlert n 0 (wordOf (leNat rest)) :=
  i3cWrite_word ha 0x03 h

theorem i3cCcc_address (b : Byte) (rest : Bytes) : i3cCcc 0x07 (b :: rest) s =
    if s.hl.i3c.dynAddr.isSome then s else onI3c s fun i => { i with dynAddr := some (b.toNat / 2) } := by
  simp [i3cCcc, ha, leNat]

theorem i3cCcc_reset (data : Bytes) : i3cCcc 0x06 data s = onI3c s fun i => { i with dynAddr := none } := by
  simp [i3cCcc, ha]

theorem i3cCcc_events (rest : Bytes) :
    i3cCcc 0x01 (1 :: rest) s = { s with nd := { s.nd with log := { s.nd.log with ibi := false } } } := by
  have named : bitOf (wordOf (leNat [(1 : Byte)])) 0 = true := rfl
  have set : setIbi (1 :: rest) false s = { s with nd := { s.nd with log := { s.nd.log with ibi := false } } } := if_pos named
  simpa [i3cCcc, ha] using set

end

end Sys2Proof.HalordService

open Sys2Proof Sys2Proof.Machine Sys2Proof.Safety Sys2Proof.Organisation Sys2Proof.HalordService

/-- Settles O60: the cap is a maximum, and the pin follows the common bits of ALERT_STATUS and MASK. -/
theorem capsAndAlertPin : Obligations.CapsAndAlertPin := ⟨fun _ _ => max_three _ _ _, alertLow_iff⟩

/-- Settles O18, access by access; the numbers of the common command codes are the model's (PRESUMED, log entry 46). -/
theorem i3cAccesses : Obligations.I3cAccesses := by
  intro s ha
  refine ⟨fun ix rest h => ⟨_, rfl, i3cWrite_short ha ix h⟩, fun rest h hw => ⟨_, rfl, ?_⟩, fun rest h hw => ⟨_, rfl, ?_⟩,
    fun rest h => ⟨_, congrArg Host.Outcome.next (i3cWrite_alert ha h), rfl, rfl⟩, fun b rest hnone => ⟨_, rfl, ?_⟩,
    fun b rest a hsome => ⟨_, rfl, ?_⟩, fun data => ⟨_, rfl, i3cCcc_reset ha data⟩, fun rest => ⟨_, rfl, i3cCcc_events ha rest⟩⟩
  · rw [i3cWrite_power ha h, powerReq, if_pos hw]
    rfl
  · rw [i3cWrite_power ha h, powerReq, if_neg (by rw [hw]; decide), if_pos hw]
    rfl
  · exact (i3cCcc_address ha b rest).trans (by rw [hnone]; rfl)
  · exact (i3cCcc_address ha b rest).trans (by rw [hsome]; rfl)
end

section
/-! Off, POWER_REQ, the cold start, a brown-out and the automatic return (O1–O4). -/

namespace Sys2Proof.HalordService

open Sys2Proof.Machine Sys2Proof.Safety Sys2Proof.Organisation

/-! ### The data path emptied -/

section
variable (n : Node)

@[simp] theorem clearData_power : (clearData n).power = n.power := rfl
@[simp] theorem clearData_log : (clearData n).log = n.log := rfl
@[simp] theorem clearData_nodeId : (clearData n).nodeId = n.nodeId := rfl
@[simp] theorem clearData_chainAddr : (clearData n).chainAddr = n.chainAddr := rfl
@[simp] theorem clearData_ctxs : (clearData n).ctxs = Contexts.reset := rfl
@[simp] theorem clearData_trk : (clearData n).trk = Trackers.reset := rfl
@[simp] theorem clearData_plain : (clearData n).mem.plain = [] := rfl
@[simp] theorem clearData_stack : (clearData n).mem.stack = [] := rfl

end

/-! ### Off (R599, R602, R607) -/

section
variable (s : State) (ds : List Nat)

/-- The power record of a module that is Off. -/
def offPower (p : Power) (ds : List Nat) : Power :=
  { p with off := true, state := 0, step := 0, holding := false, entry := 0, standbyWaits := false, brownOut := false, railStep := 0
           rising := [], stepsDone := [], domains := ds, stacksUp := [], denseDone := [], stackTries := Vector.replicate 8 0 }

end

/-! ### What a start begins from (R544, R606) -/

section
variable (s : State) (fromStandby hostEn : Bool)

/-- The power record as a start finds it. -/
def startedPower (p : Power) (fromStandby : Bool) : Power :=
  { p with off := false, state := 0, step := 0, fromStandby := fromStandby, holding := false, failed := false, entry := 0
           standbyWaits := false, brownOut := false, railStep := 0, rising := [], stepsDone := [], stacksUp := []
           stackTries := Vector.replicate 8 0, denseDone := [], bootCount := (p.bootCount + 1) % 2 ^ 32, noChange := 0, refclk := true }

/-- Only the log shows whether a presence window was closed as the start began. -/
theorem beginStart_only : ∃ n, beginStart s fromStandby = { s with nd := n, hl := startedHalord s.hl s.nd.power.hostEn } ∧
    (n = startedNode s.nd fromStandby ∨ n = logEvent (startedNode s.nd fromStandby) { sev := sevNotice, code := 0x702 }) := by
  rw [beginStart_eq]
  split
  · exact ⟨_, rfl, .inr rfl⟩
  · exact ⟨_, rfl, .inl rfl⟩

/-- What no log entry touches is as the start found it. -/
theorem beginStart_reads {α : Type} (g : Node → α) (hg : ∀ n e, g (logEvent n e) = g n) :
    g (beginStart s fromStandby).nd = g (startedNode s.nd fromStandby) := by
  obtain ⟨n, h, rfl | rfl⟩ := beginStart_only s fromStandby
  · rw [h]
  · rw [h]; exact hg _ _

@[simp] theorem beginStart_power : (beginStart s fromStandby).nd.power = startedPower s.nd.power fromStandby :=
  beginStart_reads s fromStandby Node.power logEvent_power

@[simp] theorem beginStart_hl : (beginStart s fromStandby).hl = startedHalord s.hl s.nd.power.hostEn := by
  obtain ⟨_, h, _⟩ := beginStart_only s fromStandby
  rw [h]

@[simp] theorem beginStart_pending : (beginStart s fromStandby).pending = s.pending := by
  obtain ⟨_, h, _⟩ := beginStart_only s fromStandby
  rw [h]

theorem beginStart_empty : (beginStart s fromStandby).nd.nodeId = 0 ∧ (beginStart s fromStandby).nd.chainAddr = 0 ∧
    (beginStart s fromStandby).nd.ctxs = Contexts.reset ∧ (beginStart s fromStandby).nd.trk = Trackers.reset ∧
    (beginStart s fromStandby).nd.mem.plain = [] :=
  ⟨beginStart_reads s _ Node.nodeId logEvent_nodeId, beginStart_reads s _ Node.chainAddr logEvent_chainAddr,
    beginStart_reads s _ Node.ctxs logEvent_ctxs, beginStart_reads s _ Node.trk logEvent_trk,
    congrArg Tiers.plain (beginStart_reads s _ Node.mem logEvent_mem)⟩

/-- With AON off a cold start waits for the input capacitance first. -/
theorem coldStart_charges (h : s.nd.power.domains.contains 0 = false) :
    coldStart s hostEn = raiseRails (beginStart (coldState s hostEn) false) 1 := by
  rw [coldStart_eq, beginStart_power, if_neg]
  exact ne_true_of_eq_false h

/-- A Standby exit at the chain head raises the rails of the host bridge. -/
theorem standbyExit_head (h : s.nd.power.hostEn = true) : standbyExit s = raiseRails (beginStart s true) 3 := by
  rw [standbyExit]
  exact if_pos ((congrArg Power.hostEn (beginStart_power s true)).trans h)

theorem standbyExit_other (h : s.nd.power.hostEn = false) : standbyExit s = stepThree (beginStart s true) := by
  rw [standbyExit]
  exact if_neg (ne_true_of_eq_false ((congrArg Power.hostEn (beginStart_power s true)).trans h))

end

/-! ### POWER_REQ (R570, R599) -/

section
variable {s : State}

theorem requestStandby_serving (hoff : s.nd.power.off = false) (h : 2 ≤ s.nd.power.state) (he : s.nd.power.entry = 0) :
    requestStandby s = if flashBusy s.hl then setPower s fun p => { p with standbyWaits := true }
      else setPower s fun p => { p with entry := 1 } := by
  have h0 : s.nd.power.state ≠ 0 := by omega
  have h1 : s.nd.power.state ≠ 1 := by omega
  simp [requestStandby, hoff, h0, h1, he]

theorem requestStandby_starting (hoff : s.nd.power.off = false) (h : s.nd.power.state = 0) :
    requestStandby s = if s.nd.power.holding then enterStandby s 0x0501 false
      else setPower s fun p => { p with standbyWaits := true } := by
  simp [requestStandby, hoff, h]

theorem requestStandby_standby (hoff : s.nd.power.off = false) (h : s.nd.power.state = 1) :
    requestStandby s = countRequest (setPower s fun p => { p with brownOut := false }) := by
  simp [requestStandby, hoff, h]

theorem requestReady_standby (hoff : s.nd.power.off = false) (h : s.nd.power.state = 1) : requestReady s = standbyExit s := by
  simp [requestReady, hoff, h]

theorem requestReady_starting (h : s.nd.power.state = 0) : requestReady s = s := by simp [requestReady, h]

theorem requestReady_serving (hoff : s.nd.power.off = false) (h : 2 ≤ s.nd.power.state) : requestReady s = countRequest s := by
  have h0 : s.nd.power.state ≠ 0 := by omega
  have h1 : s.nd.power.state ≠ 1 := by omega
  simp [requestReady, hoff, h0, h1]

end

/-- A request without effect is counted and logged. -/
theorem countRequest_keeps (s : State) : (countRequest s).nd.power = { s.nd.power with noChange := s.nd.power.noChange + 1 } ∧
    (countRequest s).nd.log.last = s.nd.log.next ∧ (countRequest s).nd.ctxs = s.nd.ctxs ∧ (countRequest s).nd.rings = s.nd.rings ∧
    KeepsHalord s (countRequest s) := by
  refine ⟨logEvent_power _ _, ?_, rfl, rfl, rfl, rfl⟩
  rw [countRequest, logIn_nd, logEvent_last]
  rfl

/-- The module at the start of a Standby exit at the chain head (R544, R606). -/
theorem headExit_reads (s : State) : (raiseRails (beginStart s true) 3).nd.power =
      { startedPower s.nd.power true with railStep := 3, rising := [(2, 0)] } ∧
    (raiseRails (beginStart s true) 3).hl.flash = s.hl.flash ∧ (raiseRails (beginStart s true) 3).pending = s.pending := by
  refine ⟨?_, ?_, beginStart_pending s true⟩
  · rw [← beginStart_power]
    rfl
  · exact (congrArg Halord.flash (beginStart_hl s true) :)

/-- A cold start with AON off (R544, R606 step 1). -/
theorem coldStart_charging {s : State} (hostEn : Bool) (h : s.nd.power.domains.contains 0 = false) :
    (coldStart s hostEn).nd.power =
      { startedPower { s.nd.power with hostEn := hostEn } false with railStep := 1, rising := [] } ∧
    (coldStart s hostEn).hl = startedHalord (coldState s hostEn).hl hostEn ∧ (coldStart s hostEn).pending = s.pending ∧
    (coldStart s hostEn).nd.nodeId = 0 ∧ (coldStart s hostEn).nd.chainAddr = 0 ∧ (coldStart s hostEn).nd.ctxs = Contexts.reset ∧
    (coldStart s hostEn).nd.trk = Trackers.reset ∧ (coldStart s hostEn).nd.mem.plain = [] := by
  rw [coldStart_charges s hostEn h]
  refine ⟨?_, beginStart_hl _ false, beginStart_pending _ false, beginStart_empty _ false⟩
  have hp := beginStart_power (coldState s hostEn) false
  rw [show (coldState s hostEn).nd.power = { s.nd.power with hostEn := hostEn } from rfl] at hp
  rw [← hp]
  rfl

/-- The module in Standby (R599, R605). -/
theorem enterStandby_reads (s : State) (code : Nat) (brown : Bool) :
    (enterStandby s code brown).nd.power.state = 1 ∧ (enterStandby s code brown).nd.power.off = false ∧
    (enterStandby s code brown).nd.power.domains = [0] ∧ (enterStandby s code brown).nd.power.brownOut = brown ∧
    (enterStandby s code brown).nd.power.input = s.nd.power.input ∧ (enterStandby s code brown).nd.ctxs = Contexts.reset ∧
    (enterStandby s code brown).nd.trk = Trackers.reset ∧ (enterStandby s code brown).nd.mem.stack = [] ∧
    (enterStandby s code brown).nd.log.last = s.nd.log.next ∧ KeepsHalord s (enterStandby s code brown) := by
  refine ⟨rfl, rfl, rfl, rfl, rfl, rfl, rfl, rfl, ?_, rfl, rfl⟩
  rw [enterStandby, logIn_nd, logEvent_last]
  rfl

end Sys2Proof.HalordService

open Sys2Proof Sys2Proof.Machine Sys2Proof.Safety Sys2Proof.Organisation Sys2Proof.HalordService

/-- Settles O2: each of the four makes the module Off, with the data path empty. -/
theorem goesOff : Obligations.GoesOff := by
  intro s offWith
  have off {t : State} {ds : List Nat} {p : Power} (ht : t = { s with nd := { clearData s.nd with power := p, log := t.nd.log } })
      (hp : p = { offPower s.nd.power ds with input := p.input, resetLow := p.resetLow }) : offWith t ds := by
    rw [ht, hp]
    exact ⟨rfl, rfl, rfl, rfl, rfl, rfl, rfl, rfl, rfl, rfl, rfl⟩
  exact ⟨⟨_, rfl, off rfl rfl, rfl, rfl, rfl⟩, ⟨_, rfl, off rfl rfl, rfl, rfl⟩, ⟨_, rfl, off rfl rfl, rfl, rfl⟩,
    ⟨_, rfl, off rfl rfl, rfl⟩⟩

/-- Settles O4, by the branches of POWER_REQ. -/
theorem powerRequests : Obligations.PowerRequests := by
  intro s hoff counted
  have count (u : State) (hu : u = countRequest s) : counted u := by
    obtain ⟨hp, hlog, hctxs, hrings, hhalord⟩ := countRequest_keeps s
    subst hu
    exact ⟨congrArg Power.noChange hp, (congrArg Power.state hp :), hlog, hctxs, hrings, hhalord⟩
  refine ⟨fun h he hb => ⟨_, rfl, ?_⟩, fun h he hb => ⟨_, rfl, ?_⟩, fun h hh => ⟨_, rfl, ?_⟩, fun h hh => ⟨_, rfl, ?_⟩,
    fun h => ⟨_, rfl, ?_⟩, fun h hh => ⟨_, rfl, ?_⟩, fun h hh => ⟨_, rfl, ?_⟩, fun h => ⟨_, rfl, requestReady_starting h⟩,
    fun h => ⟨_, rfl, count _ (requestReady_serving hoff h)⟩, ⟨_, rfl, count _ (if_neg (ne_true_of_eq_false hoff))⟩⟩
  · rw [requestStandby_serving hoff h he, if_neg (ne_true_of_eq_false hb)]
    rfl
  · rw [requestStandby_serving hoff h he, if_pos hb]
    rfl
  · rw [requestStandby_starting hoff h, if_neg (ne_true_of_eq_false hh)]
    rfl
  · rw [requestStandby_starting hoff h, if_pos hh]
    obtain ⟨hstate, _, hdomains, hbrown, _, _, _, _, _, hhalord⟩ := enterStandby_reads s 0x0501 false
    exact ⟨hstate, hdomains, hbrown, hhalord⟩
  · rw [requestStandby_standby hoff h]
    obtain ⟨hp, hlog, hctxs, hrings, hhalord⟩ := countRequest_keeps (setPower s fun p => { p with brownOut := false })
    exact ⟨⟨congrArg Power.noChange hp, (congrArg Power.state hp :), hlog, hctxs, hrings, hhalord⟩, congrArg Power.brownOut hp⟩
  · rw [requestReady_standby hoff h, standbyExit_head s hh]
    obtain ⟨hp, hflash, hpending⟩ := headExit_reads s
    rw [hp]
    exact ⟨rfl, rfl, rfl, rfl, rfl, hflash, hpending⟩
  · rw [requestReady_standby hoff h, standbyExit_other s hh]

/-- Settles O1, by what a start begins from. -/
theorem coldStartBegins : Obligations.ColdStartBegins := by
  intro hostEn s cold haon
  have charging {u : State} {off : Bool} (hu : u = { s with nd := { s.nd with power :=
      { s.nd.power with input := true, resetLow := false, off := off } } }) : cold (coldStart u hostEn) := by
    obtain ⟨hpower, hhl, hpending, hid, hchain, hctxs, htrk, hplain⟩ := coldStart_charging (s := u) hostEn (by rw [hu]; exact haon)
    generalize coldStart u hostEn = t at *
    subst hu
    exact ⟨(congrArg Power.off hpower :), (congrArg Power.input hpower :), (congrArg Power.resetLow hpower :),
      (congrArg Power.state hpower :), (congrArg Power.hostEn hpower :), (congrArg (·.chain.head) hhl :),
      (congrArg Power.railStep hpower :), (congrArg Power.rising hpower :), (congrArg Power.stepsDone hpower :),
      (congrArg Power.bootCount hpower :), hid, hchain, hctxs, htrk, hplain, (congrArg Halord.session hhl :),
      (congrArg Halord.push hhl :), (congrArg (·.sec.presOpen) hhl :), (congrArg (·.sec.debugOpen) hhl :),
      (congrArg (·.sec.fuses) hhl :), (congrArg (·.sec.unsealed) hhl :), (congrArg Halord.flash hhl :), hpending⟩
  refine ⟨fun hoff hlow => ⟨_, rfl, ?_⟩, fun hlow hin => ⟨_, rfl, ?_⟩, fun h => ⟨_, rfl, ?_⟩, fun h => ⟨_, rfl, ?_⟩⟩
  · rw [powerInputUp]
    rw [if_pos (by simp [setPower, hoff, hlow])]
    exact charging (by rw [← hlow]; rfl)
  · rw [resetRelease]
    rw [if_pos (by simp [setPower, hlow, hin])]
    exact charging (by rw [← hin]; rfl)
  · refine if_neg ?_
    rcases h with h | h <;> simp [setPower, h]
  · refine if_neg ?_
    rcases h with h | h <;> simp [setPower, h]

/-- Settles O3, by the entry into Standby and the Standby exit. -/
theorem brownOutAndReturn : Obligations.BrownOutAndReturn := by
  intro s inputIs
  refine ⟨fun hoff hstate haon => ⟨_, rfl, ?_⟩, fun h => ⟨_, rfl, if_pos ?_⟩, fun hoff hstate hb hh => ⟨_, rfl, ?_⟩,
    fun hoff hstate hb hh => ⟨_, rfl, ?_⟩, fun h => ⟨_, rfl, if_neg ?_⟩⟩
  · have drop : brownOut s = enterStandby (inputIs false) 0x0502 true :=
      if_neg (by simp only [setPower, hoff, hstate, haon]; decide)
    rw [drop]
    obtain ⟨hs, ho, hd, hbrown, hinput, hctxs, htrk, hstack, hlog, hhalord⟩ := enterStandby_reads (inputIs false) 0x0502 true
    exact ⟨hs, ho, hd, hbrown, hinput, hctxs, htrk, hstack, hlog, hhalord⟩
  · simp only [setPower, Bool.or_eq_true, Bool.not_eq_true']
    exact h.elim (fun h => .inl (.inl h)) fun h => h.elim (fun h => .inl (.inr (decide_eq_true h))) .inr
  · have back : autoExit s = standbyExit (inputIs true) := if_pos (by simp [setPower, hoff, hstate, hb])
    rw [back, standbyExit_head (inputIs true) hh]
    obtain ⟨hp, hflash, hpending⟩ := headExit_reads (inputIs true)
    exact ⟨(congrArg Power.state hp :), (congrArg Power.fromStandby hp :), (congrArg Power.input hp :),
      (congrArg Power.bootCount hp :), (congrArg Power.railStep hp :), (congrArg Power.rising hp :),
      (congrArg Power.brownOut hp :), hflash, hpending⟩
  · have back : autoExit s = standbyExit (inputIs true) := if_pos (by simp [setPower, hoff, hstate, hb])
    rw [back, standbyExit_other (inputIs true) hh]
  · rcases h with h | h | h <;> simp [setPower, h]
end

section
/-! Rails in the order of the table, their faults, and the loss of REFCLK (O5). -/

namespace Sys2Proof.HalordService

open Sys2Proof.Machine Sys2Proof.Safety Sys2Proof.Organisation Sys2Proof.OhmasLink

/-! ### Rails that rise (R606) -/

section
variable {s : State} {d c : Nat}

/-- A domain's next rail starts. -/
theorem railUp_next (h : s.nd.power.rising.find? (fun r => r.1 == d) = some (d, c)) (hc : c + 1 < railCount d) :
    railUp d s = setPower s fun p => { p with rising := p.rising.map fun r => if r.1 = d then (d, c + 1) else r } := by
  rw [railUp, h]
  exact if_pos hc

/-- The state with a domain's last rail up. -/
def domainUp (s : State) (d : Nat) : State :=
  setPower s fun p => { p with rising := p.rising.filter (fun r => r.1 != d), domains := p.domains ++ [d] }

theorem railUp_last (h : s.nd.power.rising.find? (fun r => r.1 == d) = some (d, c)) (hc : railCount d ≤ c + 1) :
    railUp d s = if (s.nd.power.rising.filter fun r => r.1 != d).isEmpty then railsComplete (domainUp s d) else domainUp s d := by
  rw [railUp, h]
  exact if_neg (Nat.not_lt.2 hc)

end

/-- Steps 4 to 12 of the table are followed by the next one. -/
theorem railsComplete_next {s : State} (h4 : 4 ≤ s.nd.power.railStep) (h12 : s.nd.power.railStep ≤ 12) :
    railsComplete s = raiseRails s (s.nd.power.railStep + 1) := by
  rw [railsComplete]
  dsimp only
  rw [if_neg (by omega), if_neg (by omega), if_pos (by omega), if_neg (by omega)]

/-! ### Rail faults (R607) -/

theorem portAt_get (n : Node) (k : Fin 32) : portAt n k.val = n.ports.get k := by
  simp [portAt, getAt, Vector.getD, Vector.get_eq_getElem]

/-- A port that is DISABLED stays so while others are disabled. -/
theorem portState_disabling_kept (l : List Nat) (f : Nat → Nat) {n : Node} {j : Nat} (h : portState (portAt n j) = 3) :
    portState (portAt (l.foldl (fun n k => takeDown n (f k) 3) n) j) = 3 := by
  induction l generalizing n with
  | nil => exact h
  | cons k l ih =>
    refine ih ?_
    rw [portAt_takeDown]
    split
    · exact portState_downPort _ 3
    · exact h

theorem portState_disabling (l : List Nat) (f : Nat → Nat) (n : Node) {j : Nat} (hj : j < 32) (h : ∃ k ∈ l, f k = j) :
    portState (portAt (l.foldl (fun n k => takeDown n (f k) 3) n) j) = 3 := by
  induction l generalizing n with
  | nil => simp at h
  | cons k l ih =>
    obtain ⟨i, hi, hf⟩ := h
    cases hi with
    | head =>
      refine portState_disabling_kept l f ?_
      rw [portAt_takeDown, if_pos ⟨hf.symm, by omega⟩]
      exact portState_downPort _ 3
    | tail _ hl => exact ih _ ⟨i, hl, hf⟩

/-- The four Ohmas ports of a port block that is taken out of service are DISABLED. -/
theorem disableBlock_portState (n : Node) (r : Nat) (k : Fin 32) (h : k.val / 4 = r) :
    portState ((disableBlock n r).ports.get k) = 3 := by
  rw [← portAt_get, disableBlock]
  exact portState_disabling (List.range 4) (4 * r + ·) _ k.isLt ⟨k.val % 4, List.mem_range.2 (by omega), by omega⟩

/-- And its two dense ports. -/
theorem disableDenses_status (m : Tiers) (r : Nat) (k : Fin 16) (h : k.val / 2 = r) :
    fieldOf ((disableDenses m [r]).dports.get k).status 1 0 = 3 := by
  simp [disableDenses, Vector.get_eq_getElem, h]

/-- A fault of a rail of a P domain takes its port block out of service. -/
def blockFaulted (s : State) (d : Nat) : State :=
  let n := disableBlock s.nd (d - 75)
  let n := { n with mem := disableDenses n.mem [d - 75] }
  setPower { s with nd := logEvent n { otherEvent 5 1 with data0 := d } } fun p =>
    { p with rising := p.rising.filter fun r => r.1 != d }

theorem blockFaulted_power (s : State) (d : Nat) :
    (blockFaulted s d).nd.power = { s.nd.power with rising := s.nd.power.rising.filter fun r => r.1 != d } := by
  simp only [blockFaulted, setPower, logEvent_power, disableBlock_power]

theorem blockFaulted_ports (s : State) (d : Nat) : (blockFaulted s d).nd.ports = (disableBlock s.nd (d - 75)).ports := by
  simp only [blockFaulted, setPower, logEvent_ports]

theorem blockFaulted_mem (s : State) (d : Nat) : (blockFaulted s d).nd.mem = disableDenses s.nd.mem [d - 75] := by
  simp only [blockFaulted, setPower, logEvent_mem, disableBlock_mem]

theorem blockFaulted_ctxs (s : State) (d : Nat) : (blockFaulted s d).nd.ctxs = s.nd.ctxs := by
  simp only [blockFaulted, setPower, logEvent_ctxs, disableBlock_ctxs]

theorem blockFaulted_keeps (s : State) (d : Nat) : KeepsHalord s (blockFaulted s d) := by
  unfold blockFaulted setPower
  exact ⟨rfl, rfl⟩

theorem railFault_port {s : State} {d : Nat} (hd : 75 ≤ d)
    (h : ¬(s.nd.power.railStep = 14 ∧ (s.nd.power.rising.filter fun r => r.1 != d) = [])) : railFault d s = blockFaulted s d := by
  have go : railFault d s = if (blockFaulted s d).nd.power.railStep = 14 && (blockFaulted s d).nd.power.rising.isEmpty then
      railsComplete (blockFaulted s d) else blockFaulted s d := by
    rw [railFault, if_neg (by omega), if_pos hd]
    rfl
  rw [go, blockFaulted_power]
  refine if_neg ?_
  simpa using h

theorem railFault_core {s : State} {d : Nat} (h0 : 0 < d) (hd : d < 75) : railFault d s =
    if s.nd.power.state = 0 && !s.nd.power.off then failStart { s with nd := failModule s.nd 20 d } (s.nd.power.step + 1) 0
    else { s with nd := failModule s.nd 20 d } := by
  rw [railFault, if_neg (by omega), if_neg (by omega)]
  dsimp only
  rw [failModule_power]

end Sys2Proof.HalordService

open Sys2Proof Sys2Proof.Machine Sys2Proof.Safety Sys2Proof.Organisation Sys2Proof.HalordService

/-- Settles O5: rails by the steps of the table, REFCLK by its flag. -/
theorem railsAndRefclk : Obligations.RailsAndRefclk := by
  refine ⟨fun s => ⟨fun h1 hin hlow => ⟨_, rfl, ?_⟩, fun d c h hc => ⟨_, rfl, ?_⟩, fun d c h hc hmore => ⟨_, rfl, ?_⟩,
    fun d c h hc h4 h12 => ⟨_, rfl, ?_⟩, fun d hd h => ⟨_, rfl, ?_⟩, fun d h0 hd => ⟨_, rfl, ?_⟩⟩,
    fun s => ⟨fun hoff hs => ⟨_, rfl, ?_⟩, ⟨_, rfl, rfl, fun hs hf => ?_⟩⟩⟩
  · exact if_pos (by simp [h1, hin, hlow])
  · rw [railUp_next h hc]
    exact ⟨rfl, rfl⟩
  · rw [railUp_last h hc, if_neg (by simpa using hmore)]
    exact ⟨rfl, rfl⟩
  · have only : (s.nd.power.rising.filter fun r => r.1 != d.val).isEmpty = true := by rw [h]; simp
    have first : s.nd.power.rising.find? (fun r => r.1 == d.val) = some (d.val, c) := by rw [h]; simp
    rw [railUp_last first hc, if_pos only]
    rw [railsComplete_next (s := domainUp s d.val) h4 h12]
    exact ⟨rfl, rfl⟩
  · rw [railFault_port hd h]
    refine ⟨fun k hk => ?_, fun k hk => ?_, ?_, ?_, blockFaulted_ctxs s d.val, blockFaulted_keeps s d.val⟩
    · rw [blockFaulted_ports]; exact disableBlock_portState _ _ k hk
    · rw [blockFaulted_mem]; exact disableDenses_status _ _ k hk
    · rw [blockFaulted_power]
    · rw [blockFaulted_power]
  · rw [railFault_core h0 hd]
    split
    · refine ⟨?_, ?_, ?_, fun _ _ => ?_, ?_, ?_, ?_⟩ <;> simp
    · rename_i hs
      refine ⟨?_, ?_, ?_, fun hoff hstate => absurd ?_ hs, ?_, ?_, ?_⟩ <;> simp [*]
  · have lost : refclkLoss s = logIn (setPower s fun p => { p with refclk := false }) (otherEvent 5 2) :=
      if_neg (by simp [hoff]; omega)
    rw [lost]
    refine ⟨?_, logEvent_power _ _, ?_, rfl, rfl, rfl, rfl, rfl, rfl, rfl, rfl⟩
    · simp [accepting, setPower]
    · rw [logIn_nd, logEvent_last]; rfl
  · simp [accepting, refclkReturn, setPower, hs, hf]
end

section
/-! The presence pin, the seal loop and the TAP (O52). -/

namespace Sys2Proof.HalordService

open Sys2Proof.Machine Sys2Proof.Safety Sys2Proof.Organisation Sys2Proof.MemoryTiers Sys2Proof.FaultHandling

/-- A security event steps the log, may raise SECURITY, and leaves the rest of the module. -/
theorem logSecurity_keeps (s : State) (e : Event) : (logSecurity s e).nd.log.last = s.nd.log.next ∧
    (logSecurity s e).nd.mem = s.nd.mem ∧ (logSecurity s e).nd.ctxs = s.nd.ctxs ∧ (logSecurity s e).hl = s.hl ∧
    (logSecurity s e).pending = s.pending := by
  unfold logSecurity
  dsimp only
  split
  · refine ⟨?_, ?_, ?_, rfl, rfl⟩
    · obtain ⟨alert, h⟩ := raiseAlert_log (logEvent s.nd e) alSecurity
      rw [alertIn_nd, logIn_nd, h]; exact logEvent_last _ _
    · rw [alertIn_nd, raiseAlert_mem]; rfl
    · rw [alertIn_nd, raiseAlert_ctxs]; rfl
  · exact ⟨logEvent_last _ _, rfl, rfl, rfl, rfl⟩

/-- One of severity 2 or more raises SECURITY (R594). -/
theorem logSecurity_alerts (s : State) {e : Event} (h : 2 ≤ e.sev) : bitOf (logSecurity s e).nd.log.alert alSecurity = true := by
  unfold logSecurity
  dsimp only
  rw [if_pos h]
  exact bitOf_alert_raiseAlert _ (by decide)

/-! ### Presence (R585) -/

section
variable {s : State}

/-- The window opens. -/
theorem presHold_opens (ha : aonUp s = true) (harm : s.hl.sec.presArmed = true) (hp : s.hl.sec.presOpen = false) : presHold s =
    logSecurity (onSec s fun x => { x with presLow := true, presArmed := false, presOpen := true })
      { sev := sevNotice, code := 0x701 } := by
  simp [presHold, ha, harm, hp, onSec]

/-- It does not open twice. -/
theorem presHold_again (ha : aonUp s = true) (h : s.hl.sec.presArmed = false ∨ s.hl.sec.presOpen = true) :
    presHold s = onSec s fun x => { x with presLow := true, presArmed := false } := by
  have stays : (s.hl.sec.presArmed && !s.hl.sec.presOpen) = false := by rcases h with h | h <;> simp [h]
  simp [presHold, ha, stays, onSec]

theorem closePresence_open (h : s.hl.sec.presOpen = true) :
    closePresence s = logSecurity (onSec s fun x => { x with presOpen := false }) { sev := sevNotice, code := 0x702 } := if_pos h

theorem closePresence_closed (h : s.hl.sec.presOpen = false) : closePresence s = s := if_neg (ne_true_of_eq_false h)

/-- Closing leaves the window closed, and the module as it was. -/
theorem closePresence_keeps (s : State) : (closePresence s).hl = { s.hl with sec := { s.hl.sec with presOpen := false } } ∧
    (closePresence s).pending = s.pending ∧ (closePresence s).nd.mem = s.nd.mem ∧ (closePresence s).nd.ctxs = s.nd.ctxs := by
  cases h : s.hl.sec.presOpen with
  | true =>
    rw [closePresence_open h]
    obtain ⟨_, hmem, hctxs, hhl, hpending⟩ := logSecurity_keeps (onSec s fun x => { x with presOpen := false })
      { sev := sevNotice, code := 0x702 }
    exact ⟨hhl, hpending, hmem, hctxs⟩
  | false =>
    rw [closePresence_closed h, ← h]
    exact ⟨rfl, rfl, rfl, rfl⟩

/-! ### The seal loop (R586) -/

section
variable (hin : s.nd.power.input = true) (haon : s.nd.power.domains.contains 0 = true)
include hin haon

theorem sealSample_closed : sealSample true s = onSec s fun x => { x with sealOk := true, sealOpens := 0 } := by
  simp only [sealSample, hin, haon, Bool.not_true, Bool.or_self, Bool.false_eq_true, if_false, if_true]

/-- One open sample is noted. -/
theorem sealSample_first (h : s.hl.sec.sealOpens = 0) :
    sealSample false s = onSec s fun x => { x with sealOk := false, sealOpens := 1 } := by
  simp only [sealSample, hin, haon, Bool.not_true, Bool.or_self, Bool.false_eq_true, if_false]
  simp [onSec, h]

/-- A second in a row makes the module Unsealed. -/
theorem sealSample_second (h : 1 ≤ s.hl.sec.sealOpens) (hu : s.hl.sec.unsealed = false) : sealSample false s =
    logSecurity (alertIn (closePresence (onSec s fun x =>
      { x with sealOk := false, sealOpens := min 2 (x.sealOpens + 1), unsealed := true })) alSecurity)
      { sev := sevError, code := 0x703 } := by
  have two : min 2 (s.hl.sec.sealOpens + 1) = 2 := by omega
  simp only [sealSample, hin, haon, Bool.not_true, Bool.or_self, Bool.false_eq_true, if_false]
  simp [onSec, two, hu]

end

theorem sealSample_unpowered (h : ¬(s.nd.power.input = true ∧ s.nd.power.domains.contains 0 = true)) (b : Bool) :
    sealSample b s = s := by
  refine if_pos ?_
  rw [not_and_or, Bool.not_eq_true, Bool.not_eq_true] at h
  rcases h with h | h <;> simp only [h, Bool.not_false, Bool.true_or, Bool.or_true]

/-! ### The TAP (R590, R595) -/

/-- EXTEST, and an internal instruction once they are unlocked, act. -/
def tapActs (s : State) : TapInstr → Bool
  | .extest => true
  | .internal _ => s.hl.sec.debugOpen && decide (2 ≤ s.nd.power.state)
  | _ => false

theorem jtagLoad_eq (ir : TapInstr) : jtagLoad ir s = if !aonUp s || !tapActs s ir || s.hl.sec.cleared then s
    else logSecurity (scanZeroise s) { sev := sevWarn, code := 0x730, data0 := (tapCode ir).toNat } := by
  cases ir <;> rfl

theorem tapActs_iff (ir : TapInstr) : tapActs s ir = true ↔
    ir = .extest ∨ (∃ b, ir = .internal b) ∧ s.hl.sec.debugOpen = true ∧ 2 ≤ s.nd.power.state := by
  cases ir <;> simp [tapActs]

end

end Sys2Proof.HalordService

open Sys2Proof Sys2Proof.Machine Sys2Proof.Safety Sys2Proof.HalordService

/-- Settles O52, pin by pin. -/
theorem pinsAndSeal : Obligations.PinsAndSeal := by
  intro ir s c up powered onlySec others acts
  refine ⟨fun ha harm hp => ⟨_, congrArg Host.Outcome.next (presHold_opens ha harm hp), ?_⟩, fun ha h => ⟨_, rfl, presHold_again ha h⟩,
    fun ha => ⟨_, rfl, if_pos (by rw [ha]; rfl)⟩, ⟨_, rfl, rfl⟩,
    fun hp => ⟨_, congrArg Host.Outcome.next (closePresence_open hp), ?_⟩, fun hp => ⟨_, rfl, closePresence_closed hp⟩,
    fun ⟨hin, haon⟩ => ⟨_, rfl, sealSample_closed hin haon⟩, fun ⟨hin, haon⟩ h => ⟨_, rfl, sealSample_first hin haon h⟩,
    fun ⟨hin, haon⟩ h hu => ⟨_, congrArg Host.Outcome.next (sealSample_second hin haon h hu), ?_⟩,
    fun b h => ⟨_, rfl, sealSample_unpowered h b⟩, fun ha hacts hc => ?_, fun h => ?_⟩
  · obtain ⟨hlog, hmem, hctxs, hhl, hpending⟩ := logSecurity_keeps (onSec s fun x =>
      { x with presLow := true, presArmed := false, presOpen := true }) { sev := sevNotice, code := 0x701 }
    exact ⟨⟨hpending, hmem, hctxs, (congrArg Halord.flash hhl :), (congrArg Halord.mbx hhl :)⟩, hlog, (congrArg Halord.sec hhl :)⟩
  · obtain ⟨hlog, hmem, hctxs, hhl, hpending⟩ := logSecurity_keeps (onSec s fun x => { x with presOpen := false })
      { sev := sevNotice, code := 0x702 }
    exact ⟨⟨hpending, hmem, hctxs, (congrArg Halord.flash hhl :), (congrArg Halord.mbx hhl :)⟩, (congrArg Halord.sec hhl :), hlog⟩
  · obtain ⟨chl, cpending, cmem, cctxs⟩ := closePresence_keeps (onSec s fun x =>
      { x with sealOk := false, sealOpens := min 2 (x.sealOpens + 1), unsealed := true })
    obtain ⟨_, hmem, hctxs, hhl, hpending⟩ := logSecurity_keeps (alertIn (closePresence (onSec s fun x =>
      { x with sealOk := false, sealOpens := min 2 (x.sealOpens + 1), unsealed := true })) alSecurity)
      { sev := sevError, code := 0x703 }
    have hl := hhl.trans chl
    exact ⟨⟨hpending.trans cpending, hmem.trans ((raiseAlert_mem _ _).trans cmem), hctxs.trans ((raiseAlert_ctxs _ _).trans cctxs),
      (congrArg Halord.flash hl :), (congrArg Halord.mbx hl :)⟩, logSecurity_alerts _ (by decide), (congrArg Halord.sec hl :)⟩
  · have loads : jtagLoad ir s = logSecurity (scanZeroise s) { sev := sevWarn, code := 0x730, data0 := (tapCode ir).toNat } := by
      rw [jtagLoad_eq, if_neg (by simpa [(tapActs_iff ir).2 hacts] using And.intro ha hc)]
    obtain ⟨hlog, _, hctxs, hhl, hpending⟩ := logSecurity_keeps (scanZeroise s)
      { sev := sevWarn, code := 0x730, data0 := (tapCode ir).toNat }
    refine ⟨_, congrArg Host.Outcome.next loads, (congrArg (·.sec.cleared) hhl :), hlog, fun e he => ?_,
      (congrArg (·.sec.storageKey) hhl :), (congrArg Halord.flash hhl :), hpending⟩
    rw [hctxs] at he
    obtain ⟨x, _, rfl⟩ := List.mem_map.1 he
    rfl
  · refine ⟨_, congrArg Host.Outcome.next ((jtagLoad_eq ir).trans (if_pos ?_)), rfl⟩
    rcases h with h | h
    · simp [show tapActs s ir = false from Bool.not_eq_true _ ▸ (tapActs_iff ir).not.2 h]
    · simp [show s.hl.sec.cleared = true from h]
end

section
/-! The mailbox: its command register, its data register and the end of a transfer (O16). -/

namespace Sys2Proof.HalordService

open Sys2Proof.Machine Sys2Proof.Safety Sys2Proof.Organisation

/-! ### The end of a transfer (R518) -/

/-- MBX_STAT of a transfer that has ended: BUSY 0, DONE 1 and its status; the error bits stand. -/
theorem mbxEnded_stat (m : Mailbox) {st : Nat} (h : st < 256) : bitOf (mbxEnded m st).stat 0 = false ∧
    bitOf (mbxEnded m st).stat 1 = true ∧ fieldOf (mbxEnded m st).stat 15 8 = st := by
  refine ⟨?_, ?_, ?_⟩
  · rw [mbxEnded]
    rw [bitOf_putField_other _ _ _ _ _ (by decide) (by decide) (by decide),
      bitOf_putField_other _ _ _ _ _ (by decide) (by decide) (by decide), bitOf_putField_same _ _ _ (by decide)]
    rfl
  · rw [mbxEnded]
    rw [bitOf_putField_other _ _ _ _ _ (by decide) (by decide) (by decide), bitOf_putField_same _ _ _ (by decide)]
    rfl
  · rw [mbxEnded, fieldOf_putField_same _ _ _ _ (by decide) (by decide)]
    exact Nat.mod_eq_of_lt h

theorem mbxEnded_stat_kept (m : Mailbox) (st : Nat) {i : Nat} (hi : 2 ≤ i ∧ i < 8) :
    bitOf (mbxEnded m st).stat i = bitOf m.stat i := by
  rw [mbxEnded]
  rw [bitOf_putField_other _ _ _ _ _ (by decide) (by decide) (by omega), bitOf_putField_other _ _ _ _ _ (by decide) (by decide) (by omega),
    bitOf_putField_other _ _ _ _ _ (by decide) (by decide) (by omega)]

/-- A mailbox that has ended a transfer with a status. -/
def MbxDone (m : Mailbox) (st : Nat) : Prop := bitOf m.stat 0 = false ∧ bitOf m.stat 1 = true ∧ fieldOf m.stat 15 8 = st

theorem mbxEnd_done (s : State) {st : Nat} (h : st < 256) : MbxDone (mbxEnd s st).hl.mbx st := mbxEnded_stat s.hl.mbx h

theorem mbxBusy_ended (s : State) {st : Nat} (h : st < 256) : mbxBusy (mbxEnd s st) = false := (mbxEnd_done s h).1

/-- Nothing is left to transfer: the transfer ends with OK. -/
theorem mbxSettle_done {s : State} (hb : mbxBusy s = true) (hw : s.hl.mbx.waits = false) (hc : s.hl.mbx.closing = none)
    (hr : s.hl.mbx.remain = 0) (hf : s.hl.mbx.inFlight = 0) : mbxSettle s = mbxEnd s stOK := by
  simp [mbxSettle, hb, hw, hc, hr, hf]

/-- A transfer that was stopped, with nothing on its way, ends with the status it was stopped with. -/
theorem mbxSettle_stopped {s : State} {st : Nat} (hb : mbxBusy s = true) (hw : s.hl.mbx.waits = false) (hc : s.hl.mbx.closing = some st)
    (ht : s.hl.mbx.toWrite = []) (hf : s.hl.mbx.inFlight = 0) : mbxSettle s = mbxEnd s st := by
  simp [mbxSettle, hb, hw, hc, ht, hf]

/-! ### MBX_CMD (R518, R520) -/

/-- A transfer begun, before its checks. -/
def mbxBegun (s : State) (op : Nat) (cmd : Word) : State :=
  onMbx s fun m =>
    { m with stat := putField m.stat 0 0 1, op := op, space := fieldOf cmd 7 4, target := fieldOf cmd 12 8, remain := fieldOf cmd 47 16
             buffer := [], toWrite := [], inFlight := 0, request := [], closing := none, waits := false }

section
variable {s : State}

theorem mbxRow_start {op : Nat} {cmd : Word} (ha : aonUp s = true) (h : fieldOf cmd 3 0 = op) (hop : op = 1 ∨ op = 2) :
    mbxRow op cmd s = mbxStart op cmd s := by
  rcases hop with rfl | rfl <;> simp [mbxRow, mbxCommand, ha, h]

theorem mbxRow_abort {cmd : Word} (ha : aonUp s = true) (h : fieldOf cmd 3 0 = 3) : mbxRow 3 cmd s = mbxStop s := by
  simp [mbxRow, mbxCommand, ha, h]

theorem mbxStart_busy (hb : mbxBusy s = true) (op : Nat) (cmd : Word) :
    mbxStart op cmd s = onMbx s fun m => { m with stat := putField m.stat 2 2 1 } := if_pos hb

theorem mbxStart_idle (hb : mbxBusy s = false) (op : Nat) (cmd : Word) : mbxStart op cmd s =
    match mbxRefusal s op (fieldOf cmd 7 4) (fieldOf cmd 12 8) s.hl.mbx.addr.toNat (fieldOf cmd 47 16) with
    | some st => mbxEnd (mbxBegun s op cmd) st
    | none => if fieldOf cmd 47 16 = 0 then mbxEnd (mbxBegun s op cmd) stOK else mbxFetch (mbxBegun s op cmd) := by
  rw [mbxStart, if_neg (ne_true_of_eq_false hb)]
  rfl

theorem mbxBusy_begun (op : Nat) (cmd : Word) : mbxBusy (mbxBegun s op cmd) = true := bitOf_putField_same _ _ _ (by decide)

/-- The next `k` words that a local READ fetches. -/
def nextWords (s : State) (k : Nat) : List Word :=
  (List.range k).map fun i => spaceWord s s.hl.mbx.space (s.hl.mbx.addr.toNat + 8 * i)

/-- The mailbox with words of a READ added to its buffer, and counted. -/
def handed (s : State) (ws : List Word) : State :=
  mbxAdvance (onMbx s fun m => { m with buffer := m.buffer ++ ws }) ws.length

theorem nextWords_length (s : State) (k : Nat) : (nextWords s k).length = k := by simp [nextWords]

theorem fetchLocal_eq {k : Nat} (h : min (512 - s.hl.mbx.buffer.length) s.hl.mbx.remain = k) :
    fetchLocal s = mbxSettle (handed s (nextWords s k)) := by
  rw [handed, nextWords_length, ← h]
  rfl

/-- A READ of up to 512 words of this module's own flash fetches them all at once. -/
theorem mbxFetch_flash {cmd : Word} (hlocal : fieldOf cmd 12 8 = 0 ∨ ownAddr s (fieldOf cmd 12 8) = true)
    (hcount : fieldOf cmd 47 16 ≤ 512) : mbxFetch (mbxBegun s 1 cmd) =
      mbxEnd (handed (mbxBegun s 1 cmd) (nextWords (mbxBegun s 1 cmd) (fieldOf cmd 47 16))) stOK := by
  have own : mbxLocal (mbxBegun s 1 cmd) = true := by
    rcases hlocal with h | h
    · simp [mbxLocal, mbxBegun, onMbx, h]
    · exact (Bool.or_eq_true _ _).mpr (.inr h)
  have all : min (512 - (mbxBegun s 1 cmd).hl.mbx.buffer.length) (mbxBegun s 1 cmd).hl.mbx.remain = fieldOf cmd 47 16 :=
    Nat.min_eq_right hcount
  have left : (handed (mbxBegun s 1 cmd) (nextWords (mbxBegun s 1 cmd) (fieldOf cmd 47 16))).hl.mbx.remain = 0 := by
    rw [handed, nextWords_length]
    exact Nat.sub_self _
  rw [mbxFetch, if_neg (by rw [mbxBusy_begun]; exact Bool.false_ne_true), if_pos own, fetchLocal_eq all]
  exact mbxSettle_done (mbxBusy_begun 1 cmd) rfl rfl left rfl

theorem nextWords_flash {cmd : Word} (hspace : fieldOf cmd 7 4 = 1) (k : Nat) : nextWords (mbxBegun s 1 cmd) k =
    (List.range k).map fun i => flashWord s (s.hl.mbx.addr.toNat + 8 * i) := by
  refine List.map_congr_left fun i _ => ?_
  show spaceWord (mbxBegun s 1 cmd) (fieldOf cmd 7 4) _ = _
  rw [hspace]
  rfl

/-! ### MBX_DATA (R520) -/

theorem mbxDataRead_next {w : Word} {rest : List Word} (ha : aonUp s = true) (hb : mbxBusy s = false) (h : s.hl.mbx.buffer = w :: rest) :
    mbxDataRead s = giveValue (onMbx s fun m => { m with buffer := rest }) w := by
  have idle : mbxFetch (onMbx s fun m => { m with buffer := rest }) = onMbx s fun m => { m with buffer := rest } :=
    if_pos (by rw [show mbxBusy (onMbx s fun m => { m with buffer := rest }) = false from hb]; rfl)
  simp only [mbxDataRead, ha, if_true, mbxTake, h, idle]

theorem mbxDataRead_none (ha : aonUp s = true) (h : s.hl.mbx.buffer = []) :
    mbxDataRead s = giveValue (onMbx s fun m => { m with stat := putField m.stat 3 3 1 }) 0 := by
  simp only [mbxDataRead, ha, if_true, mbxTake, h]

/-- OVERRUN: the transfer is stopped (R520). -/
def overrun (s : State) : State := onMbx s fun m => { m with stat := putField m.stat 4 4 1, closing := some stAborted }

section
variable (ha : aonUp s = true) (hb : mbxBusy s = true) (hop : s.hl.mbx.op = 2) (hw : s.hl.mbx.waits = false)
  (ht : s.hl.mbx.toWrite = []) (hf : s.hl.mbx.inFlight = 0) (hr : 0 < s.hl.mbx.remain)
include ha hb hop hw ht hf hr

theorem mbxDataWrite_overrun (w : Word) (hfree : mbxFree s = 0) : mbxDataWrite w s = mbxSettle (overrun s) := by
  simp [mbxDataWrite, overrun, ha, hb, hop, hw, ht, hf, hfree, Nat.pos_iff_ne_zero.1 hr]

theorem mbxDataWrite_register (w : Word) (hfree : mbxFree s ≠ 0) (hl : mbxLocal s = true) (hs : s.hl.mbx.space ≠ 3) : mbxDataWrite w s =
    mbxSettle (mbxAdvance (windowWrite s.hl.mbx.addr.toNat w s) 1) := by
  simp [mbxDataWrite, ha, hb, hop, hw, ht, hf, hfree, hl, hs, Nat.pos_iff_ne_zero.1 hr]

end

/-- MASK of the alert block written (R515). -/
def maskSet (s : State) (w : Word) : State := { s with nd := { s.nd with log := { s.nd.log with mask := w &&& 0x1FF } } }

theorem windowWrite_mask (w : Word) : windowWrite 0x3008 w s = maskSet s w := rfl

end

end Sys2Proof.HalordService

open Sys2Proof Sys2Proof.Machine Sys2Proof.Safety Sys2Proof.HalordService

/-- Settles O16: MBX_CMD by its branches, MBX_DATA by the word it gives or takes. When words count as transferred, and what an overrun does,
are the model's (log entries 87 and 88). -/
theorem mailboxTransfers : Obligations.MailboxTransfers := by
  intro s ha ended refusal
  have ends {t : State} {st : Nat} (hst : st < 256) (hnd : t.nd = s.nd) (hflash : t.hl.flash = s.hl.flash) (hsec : t.hl.sec = s.hl.sec)
      (hpending : t.pending = s.pending) : ended (mbxEnd t st) st := by
    obtain ⟨hbusy, hdone, hstatus⟩ := mbxEnd_done t hst
    exact ⟨hbusy, hdone, hstatus, hnd, hflash, hsec, hpending⟩
  refine ⟨fun hb cmd => ⟨fun h => ⟨_, rfl, ?_⟩, fun h => ⟨_, rfl, ?_⟩, fun h => ⟨_, rfl, ?_⟩⟩,
    fun hb cmd => ⟨fun st hst h hr => ⟨_, rfl, ?_⟩, fun st hst h hr => ⟨_, rfl, ?_⟩, fun h hr hc => ⟨_, rfl, ?_⟩,
      fun h hr h0 h512 hspace hlocal => ⟨_, rfl, ?_⟩, fun h hr h0 => ⟨_, rfl, ?_⟩⟩,
    fun w rest h hb => ⟨_, rfl, ?_⟩, fun h => ⟨_, rfl, ?_⟩, fun w hb hop hw hc hs hl ht hf hr haddr hfree => ⟨_, rfl, ?_⟩,
    fun w hb hop hw ht hf hc hr hfree => ⟨_, rfl, ?_⟩⟩
  · exact (mbxRow_start ha h (.inl rfl)).trans (mbxStart_busy hb 1 cmd)
  · exact (mbxRow_start ha h (.inr rfl)).trans (mbxStart_busy hb 2 cmd)
  · rw [mbxRow_abort ha h, mbxStop, if_pos hb]
    exact ⟨ends (by decide) rfl rfl rfl rfl, rfl⟩
  · rw [mbxRow_start ha h (.inl rfl), mbxStart_idle hb, show mbxRefusal _ _ _ _ _ _ = some st from hr]
    exact ends hst rfl rfl rfl rfl
  · rw [mbxRow_start ha h (.inr rfl), mbxStart_idle hb, show mbxRefusal _ _ _ _ _ _ = some st from hr]
    exact ends hst rfl rfl rfl rfl
  · rw [mbxRow_start ha h (.inl rfl), mbxStart_idle hb, show mbxRefusal _ _ _ _ _ _ = none from hr]
    dsimp only
    rw [if_pos hc]
    exact ends (by decide) rfl rfl rfl rfl
  · rw [mbxRow_start ha h (.inl rfl), mbxStart_idle hb, show mbxRefusal _ _ _ _ _ _ = none from hr]
    dsimp only
    rw [if_neg (by omega), mbxFetch_flash hlocal h512, nextWords_flash hspace]
    refine ⟨ends (by decide) rfl rfl rfl rfl, ?_, List.nil_append _⟩
    exact (congrArg (fieldOf cmd 47 16 - ·) (by simp)).trans (Nat.sub_self _)
  · rw [mbxRow_start ha h (.inr rfl), mbxStart_idle hb, show mbxRefusal _ _ _ _ _ _ = none from hr]
    dsimp only
    rw [if_neg (by omega)]
    have writes : mbxFetch (mbxBegun s 2 cmd) = mbxBegun s 2 cmd := if_pos (by rw [mbxBusy_begun]; rfl)
    rw [writes]
    exact ⟨mbxBusy_begun 2 cmd, rfl, rfl, rfl, rfl, rfl, rfl, rfl⟩
  · rw [mbxDataRead_next ha hb h]
    exact ⟨rfl, rfl⟩
  · rw [mbxDataRead_none ha h]
    exact ⟨bitOf_putField_same _ _ _ (by decide), rfl, rfl⟩
  · rw [mbxDataWrite_register ha hb hop hw ht hf (by omega) w hfree hl (by omega), haddr,
      show (0x3008 : Word).toNat = 0x3008 from rfl, windowWrite_mask]
    have left : s.hl.mbx.remain - 1 = 0 := by omega
    rw [mbxSettle_done (s := mbxAdvance (maskSet s w) 1) hb hw hc left hf]
    obtain ⟨hbusy, hdone, hstatus⟩ := mbxEnd_done (mbxAdvance (maskSet s w) 1) (st := stOK) (by decide)
    exact ⟨rfl, (congrArg (· + wordOf (8 * 1)) haddr).trans rfl, left, hbusy, hdone, hstatus, rfl, rfl⟩
  · rw [mbxDataWrite_overrun ha hb hop hw ht hf hr w hfree, mbxSettle_stopped (s := overrun s) ?_ hw rfl ht hf]
    · refine ⟨?_, ends (by decide) rfl rfl rfl rfl⟩
      exact (mbxEnded_stat_kept _ _ (by decide)).trans (bitOf_putField_same _ _ _ (by decide))
    · exact (bitOf_putField_other _ _ _ _ _ (by decide) (by decide) (by decide)).trans hb
end

section
/-! Answers to the module's own chain requests, and their repeats (O15). -/

namespace Sys2Proof.HalordService

open Sys2Proof.Machine Sys2Proof.Safety Sys2Proof.Organisation

/-- A frame has been received and counted (R507, R516). -/
def frameCounted (s : State) : State := countHalord (rxLocked s) 0

/-- A frame of a command's TYPE, addressed to this module, is consumed by it (R507). -/
theorem chainReceive_own {s : State} {bytes : Bytes} {f : ChainFrame} {type : Nat} {use : ChainFrame → State → State}
    {bad : State → State} (ha : aonUp s = true) (hr : romOnly s = false) (hd : chainDecode bytes = some f) (ht : f.type = type)
    (ho : ownAddr s f.dst = true) : chainReceive s bytes type use bad = use f (frameCounted s) := by
  have hrom : romOnly (countHalord (rxLocked s) 0) = false := hr
  have hown : ownAddr (countHalord (rxLocked s) 0) f.dst = true := ho
  simp only [chainReceive, ha, hd, ht, hrom, hown, ne_eq, not_true_eq_false, Bool.not_true, Bool.false_eq_true, if_false, if_true]
  rfl

theorem chainReceive_onlyOwn {s : State} {bytes : Bytes} {f : ChainFrame} {type : Nat} {use : ChainFrame → State → State}
    (ha : aonUp s = true) (hr : romOnly s = false) (hd : chainDecode bytes = some f) (ht : f.type = type)
    (ho : ownAddr s f.dst = true) (h31 : f.dst ≠ 31) : chainReceive s bytes type (onlyOwn use) id = use f (frameCounted s) :=
  (chainReceive_own ha hr hd ht ho).trans (if_neg h31)

/-! ### The one request awaited (R507) -/

/-- The only request awaited at the module is `q`. -/
def Awaits (s : State) (q : ChainReq) : Prop := s.hl.chain.reqs = [q] ∧ q.got = none

/-- Where nothing is awaited, nothing is after a transfer. -/
theorem reqs_mbxEnd_nil {s : State} (h : s.hl.chain.reqs = []) (st : Nat) : (mbxEnd s st).hl.chain.reqs = [] := by
  simp [mbxEnd, onChain, onMbx, h]

/-- Nothing is awaited after the transfer that asked has ended. -/
theorem reqs_mbxEnd {s : State} {q : ChainReq} (h : s.hl.chain.reqs = [q]) (hq : q.purpose ≠ .gather) (st : Nat) :
    (mbxEnd s st).hl.chain.reqs = [] := by
  simp [mbxEnd, onChain, onMbx, h, hq]

theorem mbxEnd_nd (s : State) (st : Nat) : (mbxEnd s st).nd = s.nd := rfl

theorem dropAsked_nd (s : State) (tag : Nat) : (dropAsked s tag).nd = s.nd := rfl

section
variable {s : State} {q : ChainReq} (h : Awaits s q)
include h

theorem askedOf_awaited : askedOf s q.dst q.tag = some q := by
  simp [askedOf, h.1, h.2]

theorem find_awaited : (s.hl.chain.reqs.find? fun r => r.tag == q.tag && r.got.isNone) = some q := by simp [h.1, h.2]

theorem reqs_dropAsked : (dropAsked s q.tag).hl.chain.reqs = [] := by simp [dropAsked, onChain, h.1]

end

/-! ### Answers (R507, R520) -/

theorem bytesToWords_length (k : Nat) (bs : Bytes) : (bytesToWords k bs).length = k := by
  induction k generalizing bs with
  | zero => rfl
  | succ k ih => rw [bytesToWords, List.length_cons, ih]

/-- A READ that is not BUSY fetches nothing. -/
theorem mbxFetch_idle {s : State} (hb : mbxBusy s = false) : mbxFetch s = s := if_pos (by rw [hb]; rfl)

theorem mbxSettle_idle {s : State} (hb : mbxBusy s = false) : mbxSettle s = s := if_pos (by rw [hb]; rfl)

/-- The words of an answered read, handed to the mailbox. -/
def wordsTaken (s : State) (tag : Nat) (ws : List Word) : State :=
  mbxAdvance (onMbx (dropAsked s tag) fun m => { m with buffer := m.buffer ++ ws, inFlight := m.inFlight - ws.length }) ws.length

section
variable {s : State} {q : ChainReq} (h : Awaits s q)
include h

theorem reqs_recordAnswer (st : Nat) (ws : List Word) :
    (recordAnswer s q.tag st ws).hl.chain.reqs = [{ q with got := some (st, ws) }] := by
  simp [recordAnswer, onChain, h.1]

/-- An answer that fails ends the reads. -/
theorem drainReads_fails (hp : q.purpose = .mailboxRead) {st : Nat} (hst : st ≠ stOK) (ws : List Word) (k : Nat) :
    drainReads (k + 1) (recordAnswer s q.tag st ws) = mbxEnd (recordAnswer s q.tag st ws) st := by
  simp [drainReads, recordAnswer, onChain, h.1, hp, hst]

theorem reqs_wordsTaken (st : Nat) (ws : List Word) :
    (wordsTaken (recordAnswer s q.tag st ws) q.tag ws).hl.chain.reqs = [] := by
  simp [wordsTaken, mbxAdvance, onMbx, dropAsked, recordAnswer, onChain, h.1]

/-- The words of the one answer go to the mailbox. -/
theorem drainReads_takes (hp : q.purpose = .mailboxRead) (ws : List Word) (k : Nat) :
    drainReads (k + 2) (recordAnswer s q.tag stOK ws) = wordsTaken (recordAnswer s q.tag stOK ws) q.tag ws := by
  have rest : drainReads (k + 1) (wordsTaken (recordAnswer s q.tag stOK ws) q.tag ws) =
      wordsTaken (recordAnswer s q.tag stOK ws) q.tag ws := by simp only [drainReads, reqs_wordsTaken h, List.find?_nil]
  rw [drainReads, reqs_recordAnswer h]
  simp only [List.find?_cons, hp, beq_self_eq_true]
  exact rest

/-- The one awaited read is answered with all the words that are left: the transfer ends with OK. -/
theorem readAnswered_last {f : ChainFrame} (hsrc : f.src = q.dst) (htag : f.tag = q.tag) (hp : q.purpose = .mailboxRead)
    (hst : f.status = stOK) (hlen : f.payload.length = 8 * q.words) (hb : mbxBusy s = true) (hw : s.hl.mbx.waits = false)
    (hc : s.hl.mbx.closing = none) (hr : s.hl.mbx.remain = q.words) (hf : s.hl.mbx.inFlight = q.words) : readAnswered f s =
      mbxEnd (wordsTaken (recordAnswer s q.tag stOK (bytesToWords q.words f.payload)) q.tag (bytesToWords q.words f.payload)) stOK := by
  have size := bytesToWords_length q.words f.payload
  generalize hws : bytesToWords q.words f.payload = ws at size ⊢
  have left : (wordsTaken (recordAnswer s q.tag stOK ws) q.tag ws).hl.mbx.remain = 0 := by
    show s.hl.mbx.remain - ws.length = 0
    omega
  have flying : (wordsTaken (recordAnswer s q.tag stOK ws) q.tag ws).hl.mbx.inFlight = 0 := by
    show s.hl.mbx.inFlight - ws.length = 0
    omega
  rw [readAnswered, hsrc, htag, askedOf_awaited h]
  simp only [hst, hlen, hp, ne_eq, not_true_eq_false, decide_false, Bool.and_false, Bool.false_eq_true, if_false, hws]
  rw [drainReads_takes h hp ws 3]
  have busy : mbxBusy (wordsTaken (recordAnswer s q.tag stOK ws) q.tag ws) = true := hb
  rw [mbxSettle_done busy hw hc left flying]
  exact mbxFetch_idle (mbxBusy_ended _ (by decide))

/-- One that fails ends the transfer with its status. -/
theorem readAnswered_fails {f : ChainFrame} (hsrc : f.src = q.dst) (htag : f.tag = q.tag) (hp : q.purpose = .mailboxRead)
    (hst : f.status ≠ stOK) (h256 : f.status < 256) :
    readAnswered f s = mbxEnd (recordAnswer s q.tag f.status (bytesToWords q.words f.payload)) f.status := by
  rw [readAnswered, hsrc, htag, askedOf_awaited h]
  simp only [hst, hp, decide_false, Bool.false_and, Bool.false_eq_true, if_false]
  rw [drainReads_fails h hp hst, mbxSettle_idle (mbxBusy_ended _ h256), mbxFetch_idle (mbxBusy_ended _ h256)]

/-- The words of an answered write, transferred. -/
def wordsLanded (s : State) (tag words : Nat) : State := onMbx (mbxAdvance (dropAsked s tag) words) fun m => { m with inFlight := 0 }

/-- The last words of a WRITE have landed: it ends with OK. -/
theorem writeAnswered_last {f : ChainFrame} (hsrc : f.src = q.dst) (htag : f.tag = q.tag) (hp : q.purpose = .mailboxWrite)
    (hst : f.status = stOK) (hb : mbxBusy s = true) (hw : s.hl.mbx.waits = false) (hc : s.hl.mbx.closing = none)
    (hr : s.hl.mbx.remain = q.words) (ht : s.hl.mbx.toWrite = []) :
    writeAnswered f s = mbxEnd (wordsLanded s q.tag q.words) stOK := by
  have left : (wordsLanded s q.tag q.words).hl.mbx.remain = 0 := by
    show s.hl.mbx.remain - q.words = 0
    omega
  have sent : mbxPump (wordsLanded s q.tag q.words) = wordsLanded s q.tag q.words :=
    if_pos (by rw [show (wordsLanded s q.tag q.words).hl.mbx.toWrite = [] from ht]; rfl)
  rw [writeAnswered, hsrc, htag, askedOf_awaited h]
  simp only [hst, hp, bne_self_eq_false, Bool.false_eq_true, if_false, ne_eq, not_true_eq_false]
  rw [show onMbx (mbxAdvance (dropAsked s q.tag) q.words) _ = wordsLanded s q.tag q.words from rfl, sent]
  exact mbxSettle_done (s := wordsLanded s q.tag q.words) hb hw hc left rfl

theorem writeAnswered_fails {f : ChainFrame} (hsrc : f.src = q.dst) (htag : f.tag = q.tag) (hp : q.purpose = .mailboxWrite)
    (hst : f.status ≠ stOK) : writeAnswered f s = mbxEnd s f.status := by
  rw [writeAnswered, hsrc, htag, askedOf_awaited h]
  simp [hst, hp]

/-! ### Repeats (R507) -/

theorem chainTimeout_repeats (ha : aonUp s = true) (hr : q.repeats < 8) : chainTimeout q.tag s =
    countHalord (putFrame (onChain s fun c => { c with reqs := [{ q with repeats := q.repeats + 1 }] }) q.frame) 2 := by
  rw [chainTimeout, if_neg (by rw [ha]; decide), find_awaited h]
  simp only [if_neg (Nat.not_le.2 hr), onChain, h.1, List.map_cons, List.map_nil, if_true]

theorem chainTimeout_ends (ha : aonUp s = true) (hr : 8 ≤ q.repeats) (hp : q.purpose = .mailboxRead ∨ q.purpose = .mailboxWrite) :
    chainTimeout q.tag s = mbxEnd (dropAsked s q.tag) stAborted := by
  rw [chainTimeout, if_neg (by rw [ha]; decide), find_awaited h]
  dsimp only
  rw [if_pos hr, giveUp]
  rcases hp with hp | hp <;> rw [hp]

end

end Sys2Proof.HalordService

open Sys2Proof Sys2Proof.Machine Sys2Proof.Safety Sys2Proof.HalordService

/-- Settles O15, answer by answer. That words count as transferred when they enter the READ buffer is the model's (DEDUCED, log
entry 87). -/
theorem chainAnswersAndRepeats : Obligations.ChainAnswersAndRepeats := by
  intro s q ha hreqs hgot hb hw hc ended
  have awaits : Awaits s q := ⟨hreqs, hgot⟩
  have counted : Awaits (frameCounted s) q := ⟨hreqs, hgot⟩
  have ends {t : State} {st : Nat} (hst : st < 256) (hr : (mbxEnd t st).hl.chain.reqs = []) (hflash : t.hl.flash = s.hl.flash)
      (hctxs : t.nd.ctxs = s.nd.ctxs) (hpending : t.pending = s.pending) : ended (mbxEnd t st) st := by
    obtain ⟨hbusy, hdone, hstatus⟩ := mbxEnd_done t hst
    exact ⟨hbusy, hdone, hstatus, hr, hflash, hctxs, hpending⟩
  refine ⟨fun frame f hrom hd h31 ho hsrc htag => ⟨fun ht hp hst hlen hr hf => ⟨_, rfl, ?_⟩, fun ht hp hst h256 => ⟨_, rfl, ?_⟩,
    fun ht hp hst hr hwr => ⟨_, rfl, ?_⟩, fun ht hp hst h256 => ⟨_, rfl, ?_⟩⟩, fun tag htag hr => ⟨_, rfl, ?_⟩,
    fun tag htag hr hp => ⟨_, rfl, ?_⟩⟩
  · rw [chainRdRsp, chainReceive_onlyOwn ha hrom hd ht ho h31, readAnswered_last counted hsrc htag hp hst hlen hb hw hc hr hf]
    have size := bytesToWords_length q.words f.payload
    refine ⟨ends (by decide) ?_ rfl rfl rfl, rfl, ?_, ?_⟩
    · exact reqs_mbxEnd_nil (reqs_wordsTaken counted _ _) _
    · show s.hl.mbx.remain - _ = 0
      omega
    · show s.hl.mbx.addr + wordOf (8 * _) = _
      rw [size]
  · rw [chainRdRsp, chainReceive_onlyOwn ha hrom hd ht ho h31, readAnswered_fails counted hsrc htag hp hst h256]
    refine ⟨ends h256 ?_ rfl rfl rfl, rfl, rfl⟩
    exact reqs_mbxEnd (reqs_recordAnswer counted _ _) (by rw [hp]; decide) _
  · rw [chainWrRsp, chainReceive_onlyOwn ha hrom hd ht ho h31, writeAnswered_last counted hsrc htag hp hst hb hw hc hr hwr]
    refine ⟨ends (by decide) ?_ rfl rfl rfl, ?_, rfl⟩
    · exact reqs_mbxEnd_nil (reqs_dropAsked counted) stOK
    · show s.hl.mbx.remain - _ = 0
      omega
  · rw [chainWrRsp, chainReceive_onlyOwn ha hrom hd ht ho h31, writeAnswered_fails counted hsrc htag hp hst]
    exact ⟨ends h256 (reqs_mbxEnd counted.1 (by rw [hp]; decide) _) rfl rfl rfl, rfl⟩
  · rw [htag, chainTimeout_repeats awaits ha hr]
    exact ⟨rfl, rfl, rfl⟩
  · rw [htag, chainTimeout_ends awaits ha hr hp]
    have none := reqs_mbxEnd_nil (reqs_dropAsked awaits) stAborted
    exact ⟨ends (t := dropAsked s q.tag) (by decide) none rfl rfl rfl, (mbxEnd_nd _ _).trans (dropAsked_nd s q.tag)⟩
end

section
/-! Step 6 of a start: stacks and dense ports (O7). -/

namespace Sys2Proof.HalordService

open Sys2Proof.Machine Sys2Proof.Safety Sys2Proof.Organisation Sys2Proof.MemoryTiers Sys2Proof.FaultHandling

/-! ### Stacks (R563) -/

section
variable {s : State} {r : Nat} (h6 : inStepSix s.nd.power = true) (hr : s.nd.power.stacksUp.contains r = false)

/-- A failed training attempt, counted and logged. -/
def attemptFailed (s : State) (r : Nat) : State :=
  logIn (setPower s fun p => { p with stackTries := putAt p.stackTries r (getAt s.nd.power.stackTries r 0 + 1) })
    { sev := sevWarn, code := 0x130, uclass := 5, unit_ := r, data0 := r, data1 := getAt s.nd.power.stackTries r 0 + 1 }

include h6 hr

theorem stackTrained_failed (bad : Bool) : stackTrained r false bad s =
    if 3 ≤ getAt s.nd.power.stackTries r 0 + 1 then failStart (attemptFailed s r) 6 0x130 else attemptFailed s r := by
  rw [stackTrained, if_neg (by rw [h6, hr]; decide)]
  rfl

theorem stackTrained_badLine : stackTrained r true true s = failStart s 6 0x130 := by
  rw [stackTrained, if_neg (by rw [h6, hr]; decide)]
  rfl

theorem stackTrained_up : stackTrained r true false s = advanceStart (setPower s fun p => { p with stacksUp := p.stacksUp ++ [r] }) := by
  rw [stackTrained, if_neg (by rw [h6, hr]; decide)]
  rfl

end

/-! ### Dense ports (R564) -/

/-- CAP_GIB fits its field. -/
theorem capGib_lt (blocks : Nat) : capGib blocks < 2 ^ 32 := by
  unfold capGib
  omega

theorem densePortUp_up (q : DensePort) (blocks queues : Nat) (dz : Bool) :
    fieldOf (densePortUp q true true true blocks queues dz).status 1 0 = 2 ∧ (densePortUp q true true true blocks queues dz).gen = 1 ∧
    (densePortUp q true true true blocks queues dz).cfgLive = q.cfgStage ∧
    (densePortUp q true true true blocks queues dz).nsBlocks = blocks ∧
    (densePortUp q true true true blocks queues dz).queues = min queues 64 ∧
    (densePortUp q true true true blocks queues dz).deallocZero = dz ∧
    fieldOf (densePortUp q true true true blocks queues dz).status 47 16 = capGib blocks := by
  refine ⟨?_, rfl, rfl, rfl, rfl, rfl, ?_⟩
  · simp only [densePortUp, Bool.and_self, if_true]
    rw [fieldOf_putField_other _ _ _ _ _ _ (by decide) (by decide) (by decide), fieldOf_putField_same _ _ _ _ (by decide) (by decide)]
    rfl
  · simp only [densePortUp, Bool.and_self, if_true]
    rw [fieldOf_putField_same _ _ _ _ (by decide) (by decide)]
    exact Nat.mod_eq_of_lt (capGib_lt blocks)

theorem densePortUp_down (q : DensePort) {present trained fmtOk : Bool} (h : (present && trained && fmtOk) = false) (blocks queues : Nat)
    (dz : Bool) : fieldOf (densePortUp q present trained fmtOk blocks queues dz).status 1 0 = 0 ∧
    (densePortUp q present trained fmtOk blocks queues dz).gen = q.gen ∧
    (densePortUp q present trained fmtOk blocks queues dz).cfgLive = q.cfgLive := by
  rw [densePortUp, if_neg (ne_true_of_eq_false h)]
  refine ⟨?_, rfl, rfl⟩
  exact fieldOf_putField_same _ _ _ _ (by decide) (by decide)

/-- A dense port after its bring-up, in the module. -/
def densePortSet (s : State) (d : Nat) (q : DensePort) : State :=
  { s with nd := { s.nd with mem := { s.nd.mem with dports := putAt s.nd.mem.dports d q } } }

theorem densePortSet_port (s : State) (d : DenseId) (q : DensePort) :
    getAt (densePortSet s d.val q).nd.mem.dports d.val DensePort.reset = q := getAt_putAt_same _ d _ _

/-- A drive that does not come up is logged, and raises DRIVE. -/
def driveReported (s : State) (d : Nat) (q : DensePort) : State :=
  alertIn (logIn s { sev := sevWarn, code := 0x131, uclass := 2, unit_ := d, data0 := d, data1 := q.status.toNat }) alDrive

/-- A bring-up has ended. -/
def bringupEnded (s : State) (d : Nat) : State := setPower s fun p => { p with denseDone := p.denseDone ++ [d] }

theorem denseBringup_eq {s : State} {d : Nat} (h6 : inStepSix s.nd.power = true) (hd : (densesToBringUp s.nd).contains d = true)
    (hn : s.nd.power.denseDone.contains d = false) (present trained fmtOk : Bool) (blocks queues : Nat) (dz : Bool) :
    denseBringup d present trained fmtOk blocks queues dz s =
      let q := densePortUp (getAt s.nd.mem.dports d DensePort.reset) present trained fmtOk blocks queues dz
      advanceStart (bringupEnded (if (present && trained && fmtOk) = true then densePortSet s d q
        else driveReported (densePortSet s d q) d q) d) := by
  rw [denseBringup, if_neg (by rw [h6, hd, hn]; decide)]
  rfl

/-- What the report of a drive leaves of the module. -/
theorem driveReported_keeps (s : State) (d : Nat) (q : DensePort) : (driveReported s d q).nd.power = s.nd.power ∧
    (driveReported s d q).nd.mem = s.nd.mem ∧ (driveReported s d q).nd.ctxs = s.nd.ctxs ∧ KeepsHalord s (driveReported s d q) ∧
    bitOf (driveReported s d q).nd.log.alert alDrive = true := by
  refine ⟨?_, ?_, ?_, ⟨rfl, rfl⟩, bitOf_alert_raiseAlert _ (by decide)⟩
  · rw [driveReported, alertIn_nd, raiseAlert_power]; rfl
  · rw [driveReported, alertIn_nd, raiseAlert_mem]; rfl
  · rw [driveReported, alertIn_nd, raiseAlert_ctxs]; rfl

/-- The end of a bring-up marks the port done and goes on with the start, the module's memory and log's alerts as they were. -/
theorem advanceStart_bringupEnded (u : State) (d : Nat) (hwait : u.nd.power.standbyWaits = false) :
    let t := advanceStart (bringupEnded u d)
    t.nd.power.denseDone = u.nd.power.denseDone ++ [d] ∧ t.nd.power.failed = u.nd.power.failed ∧ t.nd.mem = u.nd.mem ∧
    t.nd.ctxs = u.nd.ctxs ∧ t.nd.log.alert = u.nd.log.alert ∧ KeepsHalord u t := by
  have hw : (bringupEnded u d).nd.power.standbyWaits = false := hwait
  exact ⟨advanceStart_power_denseDone _ hw, advanceStart_power_failed _ hw, advanceStart_nd_mem _ hw, advanceStart_nd_ctxs _ hw,
    advanceStart_alert _ hw, advanceStart_pending _ hw, advanceStart_hl _ hw⟩

/-- A dense port's place after a write of place `d`. -/
theorem putAt_get_other {d k : DenseId} (v : Vector DensePort 16) (q : DensePort) (h : k ≠ d) : (putAt v d.val q).get k = v.get k := by
  have hne : d.val ≠ k.val := fun e => h (Fin.ext e.symm)
  simp [putAt, Vector.get_eq_getElem, hne]

end Sys2Proof.HalordService

open Sys2Proof Sys2Proof.Machine Sys2Proof.Safety Sys2Proof.HalordService

/-- Settles O7: a stack's attempt and a dense port's bring-up by their outcome. That DRIVE of ALERT_STATUS is set for a drive that does not
come up is the model's choice (log entry 109). -/
theorem stepSixBringsUp : Obligations.StepSixBringsUp := by
  intro s h6 hwait
  refine ⟨fun r bad hr ht => ⟨_, rfl, ?_⟩, fun r trained bad hr h => ⟨_, rfl, ?_⟩, fun r hr => ⟨_, rfl, ?_⟩,
    fun d present trained fmtOk blocks queues dz hd hn => ⟨_, rfl, ?_⟩⟩
  · rw [stackTrained_failed h6 hr, if_neg (by omega)]
    exact ⟨rfl, logEvent_last _ _, rfl, rfl, rfl, rfl⟩
  · rcases h with ⟨rfl, h⟩ | ⟨rfl, rfl⟩
    · rw [stackTrained_failed h6 hr, if_pos (by omega)]
      refine ⟨?_, ?_, ?_, ?_, ?_, ?_⟩ <;> simp [attemptFailed, setPower]
    · rw [stackTrained_badLine h6 hr]
      refine ⟨?_, ?_, ?_, ?_, ?_, ?_⟩ <;> simp
  · rw [stackTrained_up h6 hr]
    have hw : (setPower s fun p => { p with stacksUp := p.stacksUp ++ [r.val] }).nd.power.standbyWaits = false := hwait
    exact ⟨advanceStart_power_stacksUp _ hw, advanceStart_power_failed _ hw, advanceStart_power_holding _ hw, advanceStart_nd_mem _ hw,
      advanceStart_nd_ctxs _ hw, advanceStart_pending _ hw, advanceStart_hl _ hw⟩
  · rw [denseBringup_eq h6 hd hn]
    dsimp only
    by_cases hup : (present && trained && fmtOk) = true
    · rw [if_pos hup]
      obtain ⟨hdone, hfail, hmem, hctx, -, hkeep⟩ := advanceStart_bringupEnded (densePortSet s d.val (densePortUp
        (getAt s.nd.mem.dports d.val DensePort.reset) present trained fmtOk blocks queues dz)) d.val hwait
      refine ⟨hdone, hfail, fun hp ht hf => ?_, fun hdown => absurd hup (by rw [hdown]; decide), fun k hk => ?_, hctx, hkeep⟩
      · subst hp ht hf
        rw [hmem, densePortSet_port]
        exact densePortUp_up _ blocks queues dz
      · rw [hmem]
        exact putAt_get_other _ _ hk
    · rw [if_neg hup]
      have hdown := eq_false_of_ne_true hup
      generalize hq : densePortUp (getAt s.nd.mem.dports d.val DensePort.reset) present trained fmtOk blocks queues dz = q
      obtain ⟨kpow, kmem, kctx, kkeep, kalert⟩ := driveReported_keeps (densePortSet s d.val q) d.val q
      obtain ⟨hdone, hfail, hmem, hctx, halert, hkeep⟩ := advanceStart_bringupEnded (driveReported (densePortSet s d.val q) d.val q)
        d.val (by rw [kpow]; exact hwait)
      refine ⟨by rw [hdone, kpow]; rfl, by rw [hfail, kpow]; rfl, fun hp ht hf => absurd hdown (by rw [hp, ht, hf]; decide), fun _ => ?_,
        fun k hk => ?_, by rw [hctx, kctx]; rfl, ⟨hkeep.1.trans kkeep.1, hkeep.2.trans kkeep.2⟩⟩
      · rw [hmem, kmem, densePortSet_port, halert, ← hq]
        obtain ⟨hstat, hgen, hlive⟩ := densePortUp_down (getAt s.nd.mem.dports d.val DensePort.reset) hdown blocks queues dz
        exact ⟨hstat, hgen, hlive, hq ▸ kalert⟩
      · rw [hmem, kmem]
        exact putAt_get_other _ _ hk
end

section
/-! Reads, writes and alerts over the chain at their target (O14). -/

namespace Sys2Proof.HalordService

open Sys2Proof.Machine Sys2Proof.Safety Sys2Proof.Organisation

/-! ### Words of flash as its bytes (R10) -/

/-- The bytes that spell a number spell it again. -/
theorem leBytes_leNat (bs : Bytes) : leBytes bs.length (leNat bs) = bs := by
  induction bs with
  | nil => rfl
  | cons b bs ih =>
    have hb : b.toNat < 256 := b.isLt
    have low : BitVec.ofNat 8 (b.toNat + 256 * leNat bs) = b := by
      apply BitVec.eq_of_toNat_eq
      rw [BitVec.toNat_ofNat]
      omega
    rw [leNat, List.length_cons, leBytes, low, show (b.toNat + 256 * leNat bs) / 256 = leNat bs by omega, ih]

theorem memRead_length (d : Byte) (m : Tbl Byte) (a n : Nat) : (memRead d m a n).length = n := by
  induction n generalizing a with
  | zero => rfl
  | succ n ih => rw [memRead, List.length_cons, ih]

theorem memRead_add (d : Byte) (m : Tbl Byte) (a k n : Nat) : memRead d m a (k + n) = memRead d m a k ++ memRead d m (a + k) n := by
  induction k generalizing a with
  | zero => rw [Nat.zero_add, Nat.add_zero]; rfl
  | succ k ih => rw [Nat.succ_add, memRead, memRead, ih, List.cons_append, show a + 1 + k = a + (k + 1) by omega]

/-- Eight bytes of flash, read as a word. -/
theorem leBytes_flashRead (h : Halord) (a : Nat) : leBytes 8 (wordOf (leNat (flashRead h a 8))).toNat = flashRead h a 8 := by
  have len : (flashRead h a 8).length = 8 := memRead_length _ _ _ _
  have fits : leNat (flashRead h a 8) < 2 ^ 64 := by
    have lt := OhmasLink.leNat_lt (flashRead h a 8)
    rwa [len] at lt
  rw [wordOf, BitVec.toNat_ofNat, Nat.mod_eq_of_lt fits]
  conv_lhs => rw [← len]
  exact leBytes_leNat _

/-- Below the live parts, a word of the flash space is flash's. -/
theorem spaceWord_flash (s : State) {a : Nat} (h : a < 0x60E1000) : spaceWord s 1 a = wordOf (leNat (flashRead s.hl a 8)) := by
  rw [spaceWord, if_neg (by decide), if_pos rfl, flashWord, if_neg (by omega), if_neg (by omega), if_neg (by omega)]

/-- A read of the flash space below its live parts gives the bytes there, and has no effect. -/
theorem readWords_flash (s : State) (k a : Nat) (h : a + 8 * k ≤ 0x60E1000) :
    wordsToBytes (readWords 1 k a s).1 = flashRead s.hl a (8 * k) ∧ (readWords 1 k a s).2 = s := by
  induction k generalizing a with
  | zero => exact ⟨rfl, rfl⟩
  | succ k ih =>
    obtain ⟨words, kept⟩ := ih (a + 8) (by omega)
    refine ⟨?_, kept⟩
    have first : readWords 1 (k + 1) a s = (spaceWord s 1 a :: (readWords 1 k (a + 8) s).1, (readWords 1 k (a + 8) s).2) := rfl
    rw [first, wordsToBytes, List.flatMap_cons, spaceWord_flash s (by omega), leBytes_flashRead, flashRead, flashRead,
      show 8 * (k + 1) = 8 + 8 * k by omega, memRead_add]
    exact congrArg _ words

/-- Zeros at its end do not change the number a byte string spells. -/
theorem leNat_append_zeros (bs : Bytes) (k : Nat) : leNat (bs ++ List.replicate k 0) = leNat bs := by
  induction bs with
  | nil =>
    induction k with
    | zero => rfl
    | succ k ih =>
      rw [List.nil_append] at ih ⊢
      rw [List.replicate_succ, leNat.eq_2, ih]
      rfl
  | cons b bs ih => rw [List.cons_append, leNat, leNat, ih]

theorem numAt_eq (bs : Bytes) (o n : Nat) : numAt bs o n = leNat ((bs.drop o).take n) := leNat_append_zeros _ _

/-! ### The target's answers (R507) -/

theorem readAtTarget_refused {f : ChainFrame} {s : State} {st : Nat} (h : chainRefusal s f 32 false = some st) :
    readAtTarget f s = sendChain s f.src 0x04 f.tag st [] := by
  rw [readAtTarget, h]

theorem readAtTarget_flash {f : ChainFrame} {s : State} (h : chainRefusal s f 32 false = none) (hspace : numAt f.payload 0 1 = 1)
    (hlow : numAt f.payload 8 8 + 8 * numAt f.payload 1 1 ≤ 0x60E1000) : readAtTarget f s =
      sendChain s f.src 0x04 f.tag stOK (flashRead s.hl (numAt f.payload 8 8) (8 * numAt f.payload 1 1)) := by
  obtain ⟨words, kept⟩ := readWords_flash s _ _ hlow
  rw [readAtTarget, h]
  dsimp only
  rw [hspace, kept, words]

theorem writeAtTarget_repeated {f : ChainFrame} {s : State} {st : Nat} (h : Tbl.find? s.hl.chain.lastWr f.src = some (f.tag, st)) :
    writeAtTarget f s = sendChain s f.src 0x05 f.tag st [] := by
  rw [writeAtTarget, h]
  exact if_pos rfl

/-- The record of the last WR_REQ of a source. -/
def writeRecorded (s : State) (f : ChainFrame) (st : Nat) : State :=
  onChain s fun c => { c with lastWr := Tbl.put c.lastWr f.src (f.tag, st) }

theorem writeRecorded_found (s : State) (f : ChainFrame) (st : Nat) :
    Tbl.find? (writeRecorded s f st).hl.chain.lastWr f.src = some (f.tag, st) := Tbl.find?_put_same _ _ _

section
variable {f : ChainFrame} {s : State} (hnew : ∀ st, Tbl.find? s.hl.chain.lastWr f.src ≠ some (f.tag, st))
include hnew

theorem writeAtTarget_fresh : writeAtTarget f s = writeAtTarget.fresh f s := by
  rw [writeAtTarget]
  split
  case h_1 tag st hfound => exact if_neg fun ht => hnew st (by rw [hfound, ht])
  case h_2 => rfl

theorem writeAtTarget_refused {st : Nat} (h : chainRefusal s f 30 true = some st) (hst : st ≠ stOK) :
    writeAtTarget f s = sendChain (writeRecorded s f st) f.src 0x05 f.tag st [] := by
  rw [writeAtTarget_fresh hnew, writeAtTarget.fresh, h]
  dsimp only [Option.getD_some]
  rw [if_neg hst]
  rfl

/-- One word for MASK of the alert block. -/
theorem writeAtTarget_mask (h : chainRefusal s f 30 true = none) (hone : numAt f.payload 1 1 = 1)
    (hoff : numAt f.payload 8 8 = 0x3008) : writeAtTarget f s =
      sendChain (writeRecorded (maskSet s (wordOf (numAt f.payload 16 8))) f stOK) f.src 0x05 f.tag stOK [] := by
  rw [writeAtTarget_fresh hnew, writeAtTarget.fresh, h, hone, hoff, numAt_eq]
  rfl

end

end Sys2Proof.HalordService

open Sys2Proof Sys2Proof.Machine Sys2Proof.Safety Sys2Proof.HalordService

/-- Settles O14: the frame reaches its target's row, and each row answers by its branch. -/
theorem chainAccessesTarget : Obligations.ChainAccessesTarget := by
  intro frame f s ha hr hd h31 ho
  refine ⟨fun ht st h => ⟨_, rfl, ?_⟩, fun ht h hspace hlow => ⟨_, rfl, ?_⟩, fun ht st h => ⟨_, rfl, ?_⟩,
    fun ht hnew st h hst => ⟨_, rfl, ?_⟩, fun ht hnew h _ hone hoff => ⟨_, rfl, ?_⟩, fun ht hen h1 h16 => ⟨_, rfl, ?_⟩⟩
  · rw [chainRdReq, chainReceive_onlyOwn ha hr hd ht ho h31, readAtTarget_refused (s := frameCounted s) h]
    exact ⟨rfl, rfl, rfl⟩
  · rw [chainRdReq, chainReceive_onlyOwn ha hr hd ht ho h31, readAtTarget_flash (s := frameCounted s) h hspace hlow]
    exact ⟨rfl, rfl, rfl⟩
  · rw [chainWrReq, chainReceive_onlyOwn ha hr hd ht ho h31, writeAtTarget_repeated (s := frameCounted s) h]
    exact ⟨rfl, rfl, rfl⟩
  · rw [chainWrReq, chainReceive_onlyOwn ha hr hd ht ho h31, writeAtTarget_refused (s := frameCounted s) hnew h hst]
    exact ⟨rfl, writeRecorded_found _ f st, rfl, rfl, rfl, rfl⟩
  · rw [chainWrReq, chainReceive_onlyOwn ha hr hd ht ho h31, writeAtTarget_mask (s := frameCounted s) hnew h hone hoff]
    exact ⟨rfl, rfl, writeRecorded_found _ f stOK, rfl, rfl, rfl⟩
  · rw [chainAlert, chainReceive_onlyOwn ha hr hd ht ho h31]
    have row : alertArrives f (frameCounted s) = onChain (frameCounted s) fun c =>
        { c with alert := putField c.alert (f.src - 1) (f.src - 1) 1 } :=
      if_pos (by rw [show (frameCounted s).nd.power.hostEn = true from hen]; simp [h1, h16])
    rw [row]
    exact ⟨bitOf_putField_same _ _ _ (by omega), fun k hk hne => bitOf_putField_other _ _ _ _ _ (by omega) (le_refl _) (by omega), rfl, rfl,
      rfl⟩
end

section
/-! Enumeration of the chain, and the frames that pass on (O13). -/

namespace Sys2Proof.HalordService

open Sys2Proof.Machine Sys2Proof.Safety Sys2Proof.Organisation Sys2Proof.MemoryTiers Sys2Proof.FaultHandling

/-! ### Frames that pass on (R506, R507) -/

section
variable {s : State} {frame : Bytes} {f : ChainFrame} (ha : aonUp s = true) (hd : chainDecode frame = some f)
include ha hd

/-- A frame for another module passes on, whatever row it is given to. -/
theorem chainReceive_other (h31 : f.dst ≠ 31) (ho : ownAddr s f.dst = false) {type : Nat} (ht : f.type = type)
    (use : ChainFrame → State → State) (bad : State → State) : chainReceive s frame type use bad = putFrame (frameCounted s) frame := by
  have hown : ownAddr (countHalord (rxLocked s) 0) f.dst = false := ho
  simp only [chainReceive, ha, hd, ht, hown, h31, ne_eq, not_true_eq_false, Bool.not_true, Bool.false_eq_true, if_false]
  exact ite_self _

theorem chainForward_other (h31 : f.dst ≠ 31) (ho : ownAddr s f.dst = false) (h1 : f.type ≠ 1) :
    chainForward frame s = putFrame (frameCounted s) frame := by
  have hown : ownAddr (countHalord (rxLocked s) 0) f.dst = false := ho
  simp only [chainForward, ha, hd, ho, hown, h31, Bool.or_false, Bool.and_false, Bool.not_true, Bool.false_eq_true,
    if_false, beq_eq_false_iff_ne.mpr h31, beq_eq_false_iff_ne.mpr h1]
  rfl

theorem chainForward_reserved (ho : ownAddr s f.dst = true) (hk : chainTypes.contains f.type = false) :
    chainForward frame s = countHalord (frameCounted s) 3 := by
  have hown : ownAddr (countHalord (rxLocked s) 0) f.dst = true := ho
  simp only [chainForward, ha, hd, hk, hown, Bool.false_and, Bool.not_true, Bool.false_eq_true, if_false, if_true]
  rfl

end

/-! ### The node ID that ENUM gives (R509) -/

/-- GROUP_BASE agrees with the Almanac: the address gives the node ID. -/
theorem takeNodeId_agrees {s : State} (ha : s.nd.alm.adopted = true) (hc : s.nd.chainAddr ≠ 0)
    (hb : s.hl.chain.base = s.nd.alm.groupBase) : (takeNodeId s).nd.nodeId = s.hl.chain.base + s.nd.chainAddr - 1 := by
  rw [takeNodeId]
  simp only [ha, hc, hb, decide_false, Bool.not_true, Bool.or_false, Bool.false_eq_true, if_false, if_true]

theorem takeNodeId_differs {s : State} (ha : s.nd.alm.adopted = true) (hc : s.nd.chainAddr ≠ 0)
    (hb : s.hl.chain.base ≠ s.nd.alm.groupBase) : takeNodeId s = chainFlag s 9 := by
  rw [takeNodeId]
  simp only [ha, hc, hb, decide_false, Bool.not_true, Bool.or_false, Bool.false_eq_true, if_false]
  rfl

/-- Besides the node ID, taking it may set bit 9 of CHN_STATUS. -/
theorem takeNodeId_hl (s : State) : (takeNodeId s).hl = s.hl ∨ (takeNodeId s).hl = (chainFlag s 9).hl := by
  unfold takeNodeId
  dsimp only
  split
  · exact .inl rfl
  · split
    · exact .inl rfl
    · exact .inr rfl

/-- Taking the node ID keeps every field of CHN_STATUS but bit 9. -/
theorem takeNodeId_status (s : State) (hi lo : Nat) (h : hi < 9) :
    fieldOf (takeNodeId s).hl.chain.status hi lo = fieldOf s.hl.chain.status hi lo := by
  rcases takeNodeId_hl s with e | e <;> rw [e]
  exact fieldOf_putField_other _ _ _ _ _ _ (by decide) (by decide) (by omega)

theorem takeNodeId_bit (s : State) {i : Nat} (h : i ≠ 9) : bitOf (takeNodeId s).hl.chain.status i = bitOf s.hl.chain.status i := by
  rcases takeNodeId_hl s with e | e <;> rw [e]
  exact bitOf_putField_other _ _ _ _ _ (by decide) (by decide) (by omega)

/-! ### The gather of the head (R554) -/

/-- What the gather may change: frames sent, the requests awaited, and flash. -/
structure OnlyGathers (s t : State) : Prop where
  pending : t.pending = s.pending
  nd : t.nd = { s.nd with out := t.nd.out }
  status : t.hl.chain.status = s.hl.chain.status
  enumOut : t.hl.chain.enumOut = s.hl.chain.enumOut
  down : t.hl.chain.down = s.hl.chain.down
  sec : t.hl.sec = s.hl.sec

theorem onlyGathers_gatherFrom (s : State) (a : Nat) : OnlyGathers s (gatherFrom s a) ∧ (gatherFrom s a).hl.flash = s.hl.flash := by
  unfold gatherFrom
  split <;> exact ⟨⟨rfl, rfl, rfl, rfl, rfl, rfl⟩, rfl⟩

theorem almHeadLength_le {h : Bytes} {len : Nat} (e : almHeadLength h = some len) : len ≤ 0x40000 := by
  unfold almHeadLength at e
  dsimp only at e
  generalize fieldOf (wordAt (bytesToWords 4 h) 1) 31 0 + _ = l at e
  split at e
  case isTrue c =>
    rw [Bool.and_eq_true, decide_eq_true_eq] at c
    exact Option.some.inj e ▸ c.2
  case isFalse => cases e

/-- An Almanac stored in slot 0 leaves flash outside the slots. -/
theorem memGet_storeAlmanac (h : Halord) (bs : Bytes) (hlen : bs.length ≤ 0x40000) {a : Nat} (ha : a < 0x6800000 ∨ 0x6C00000 ≤ a) :
    memGet 0xFF (storeAlmanac h 0 bs).flash a = memGet 0xFF h.flash a := by
  rw [storeAlmanac]
  split
  · rfl
  · rw [flashWrite, memGet_write_other _ _ _ _ _ (by omega), flashErase, memGet_clear, if_neg (by omega)]

/-- The Almanac of the head, kept in its slot. -/
def ownStored (s : State) : Halord :=
  if s.nd.alm.adopted then
    storeAlmanac s.hl 0 (flashRead s.hl (almBase s.nd.alm.copy) ((almHeadLength (flashRead s.hl (almBase s.nd.alm.copy) 64)).getD 0))
  else s.hl

theorem gatherStart_eq (s : State) : gatherStart s =
    gatherFrom (onChain { s with hl := ownStored s } fun c => { c with reqs := c.reqs.filter fun q => q.purpose != .gather }) 2 := rfl

theorem storeAlmanac_keeps (h : Halord) (slot : Nat) (bs : Bytes) :
    (storeAlmanac h slot bs).chain = h.chain ∧ (storeAlmanac h slot bs).sec = h.sec := by
  unfold storeAlmanac
  dsimp only
  split <;> exact ⟨rfl, rfl⟩

theorem ownStored_keeps (s : State) : (ownStored s).chain = s.hl.chain ∧ (ownStored s).sec = s.hl.sec := by
  unfold ownStored
  split
  · exact storeAlmanac_keeps _ _ _
  · exact ⟨rfl, rfl⟩

theorem memGet_ownStored (s : State) {a : Nat} (ha : a < 0x6800000 ∨ 0x6C00000 ≤ a) :
    memGet 0xFF (ownStored s).flash a = memGet 0xFF s.hl.flash a := by
  unfold ownStored
  split
  · refine memGet_storeAlmanac _ _ ?_ ha
    rw [flashRead, memRead_length]
    cases e : almHeadLength (flashRead s.hl (almBase s.nd.alm.copy) 64) with
    | none => exact Nat.zero_le _
    | some len => exact almHeadLength_le e
  · rfl

theorem onlyGathers_gatherStart (s : State) : OnlyGathers s (gatherStart s) := by
  obtain ⟨hchain, hsec⟩ := ownStored_keeps s
  rw [gatherStart_eq]
  obtain ⟨⟨pending, nd, status, enumOut, down, sec⟩, -⟩ := onlyGathers_gatherFrom
    (onChain { s with hl := ownStored s } fun c => { c with reqs := c.reqs.filter fun q => q.purpose != .gather }) 2
  exact ⟨pending, nd, status.trans (by rw [← hchain]; rfl), enumOut.trans (by rw [← hchain]; rfl),
    down.trans (by rw [← hchain]; rfl), sec.trans hsec⟩

theorem memGet_gatherStart (s : State) {a : Nat} (ha : a < 0x6800000 ∨ 0x6C00000 ≤ a) :
    memGet 0xFF (gatherStart s).hl.flash a = memGet 0xFF s.hl.flash a := by
  rw [gatherStart_eq, (onlyGathers_gatherFrom _ 2).2]
  exact memGet_ownStored s ha

/-! ### ENUM at the head and elsewhere (R508, R510) -/

section
variable {s : State} {frame : Bytes} {f : ChainFrame} (ha : aonUp s = true) (hd : chainDecode frame = some f) (ht : f.type = 1)
  (h0 : f.dst = 0)
include ha hd ht h0

theorem chainEnum_member (hh : s.nd.power.hostEn = false) (hr : romOnly s = false) :
    chainEnum frame s = enumAtMember f (frameCounted s) := by
  have hhost : (countHalord (rxLocked s) 0).nd.power.hostEn = false := hh
  have hrom : romOnly (countHalord (rxLocked s) 0) = false := hr
  simp only [chainEnum, ha, hd, ht, h0, hhost, hrom, ne_eq, not_true_eq_false, decide_false, Bool.or_false, Bool.not_true,
    Bool.false_eq_true, if_false]
  rfl

theorem chainEnum_head (hh : s.nd.power.hostEn = true) : chainEnum frame s = enumAtHead f (frameCounted s) := by
  have hhost : (countHalord (rxLocked s) 0).nd.power.hostEn = true := hh
  simp only [chainEnum, ha, hd, ht, h0, hhost, ne_eq, not_true_eq_false, decide_false, Bool.or_false, Bool.not_true,
    Bool.false_eq_true, if_false, if_true]
  rfl

end

/-- A module with the address and GROUP_BASE that ENUM gives it. -/
def addressed (s : State) (f : ChainFrame) : State :=
  onChain { s with nd := { s.nd with chainAddr := numAt f.payload 0 1 } } fun c => { c with base := numAt f.payload 2 2 }

/-- The same, with ENUM passed on. -/
def enumPassed (s : State) (f : ChainFrame) : State := passEnum (addressed s f) f (numAt f.payload 0 1 + 1)

theorem enumAtMember_new {s : State} {f : ChainFrame} (hc : s.nd.chainAddr = 0) (h16 : numAt f.payload 0 1 ≤ 16) :
    enumAtMember f s = advanceStart (takeNodeId (enumPassed s f)) := by
  rw [enumAtMember]
  dsimp only
  rw [if_neg (not_not.mpr hc), if_neg (by omega)]
  rfl

theorem enumAtMember_full {s : State} {f : ChainFrame} (hc : s.nd.chainAddr = 0) (h16 : 16 < numAt f.payload 0 1) :
    enumAtMember f s = putFrame (chainFlag s 8) (chainEncode f) := by
  rw [enumAtMember]
  dsimp only
  rw [if_neg (not_not.mpr hc), if_pos h16]

/-- The head with its group counted: ENUM has returned. -/
def groupCounted (s : State) (f : ChainFrame) : State :=
  onChain s fun c => { c with
    status := putField (putField c.status 1 1 1) 6 2 (min 16 (numAt f.payload 0 1 - 1)), down := false, enumOut := false }

theorem enumAtHead_returned {s : State} {f : ChainFrame} (he : s.hl.chain.enumOut = true)
    (hb : numAt f.payload 2 2 = s.hl.chain.base) : enumAtHead f s = advanceStart (gatherStart (takeNodeId (groupCounted s f))) := by
  rw [enumAtHead, if_neg (by rw [he, hb]; simp)]
  rfl

theorem enumAtHead_conflict {s : State} {f : ChainFrame} (h : s.hl.chain.enumOut = false ∨ numAt f.payload 2 2 ≠ s.hl.chain.base) :
    enumAtHead f s = chainFlag s 7 := by
  rw [enumAtHead]
  refine if_pos ?_
  rcases h with h | h
  · rw [h]; rfl
  · simp [h]

/-- A module that ENUM has addressed, after its node ID and the steps that follow. -/
theorem enumPassed_settles (s : State) (f : ChainFrame) (hne : numAt f.payload 0 1 ≠ 0)
    (hwait : s.nd.power.standbyWaits = false) :
    let t := advanceStart (takeNodeId (enumPassed (frameCounted s) f))
    t.nd.chainAddr = numAt f.payload 0 1 ∧ t.hl.chain.base = numAt f.payload 2 2 ∧
    (s.nd.alm.adopted = true → s.nd.alm.groupBase = numAt f.payload 2 2 →
      t.nd.nodeId = numAt f.payload 2 2 + numAt f.payload 0 1 - 1) ∧
    (s.nd.alm.adopted = true → s.nd.alm.groupBase ≠ numAt f.payload 2 2 →
      t.nd.nodeId = s.nd.nodeId ∧ bitOf t.hl.chain.status 9 = true) ∧
    t.nd.out = s.nd.out ++ [.chain (chainEncode
      { f with src := numAt f.payload 0 1, payload := leBytes 1 (numAt f.payload 0 1 + 1) ++ f.payload.drop 1 })] ∧
    t.hl.flash = s.hl.flash ∧ t.hl.sec = s.hl.sec ∧ t.nd.ctxs = s.nd.ctxs ∧ t.pending = s.pending := by
  have agrees := takeNodeId_agrees (s := enumPassed (frameCounted s) f)
  have differs := takeNodeId_differs (s := enumPassed (frameCounted s) f)
  obtain ⟨id, status, hid⟩ := takeNodeId_only (s := enumPassed (frameCounted s) f)
  have hw : (takeNodeId (enumPassed (frameCounted s) f)).nd.power.standbyWaits = false := by rw [hid]; exact hwait
  dsimp only
  rw [advanceStart_nd_chainAddr _ hw, advanceStart_hl _ hw, advanceStart_nd_nodeId _ hw, advanceStart_nd_out _ hw,
    advanceStart_nd_ctxs _ hw, advanceStart_pending _ hw]
  refine ⟨by rw [hid]; rfl, by rw [hid]; rfl, fun had hb => agrees had hne hb.symm, fun had hb => ?_, by rw [hid]; rfl, by rw [hid]; rfl,
    by rw [hid]; rfl, by rw [hid]; rfl, by rw [hid]; rfl⟩
  rw [differs had hne (Ne.symm hb)]
  exact ⟨rfl, bitOf_putField_same _ _ _ (by decide)⟩

/-- The head after ENUM's return: the group's size, its node ID, the gather begun. -/
theorem groupCounted_settles (s : State) (f : ChainFrame) (hwait : s.nd.power.standbyWaits = false) :
    let t := advanceStart (gatherStart (takeNodeId (groupCounted (frameCounted s) f)))
    bitOf t.hl.chain.status 1 = true ∧ fieldOf t.hl.chain.status 6 2 = min 16 (numAt f.payload 0 1 - 1) ∧
    t.hl.chain.enumOut = false ∧ t.hl.chain.down = false ∧
    (s.nd.alm.adopted = true → s.nd.chainAddr ≠ 0 → s.hl.chain.base = s.nd.alm.groupBase →
      t.nd.nodeId = s.hl.chain.base + s.nd.chainAddr - 1) ∧
    (∀ a, a < 0x6800000 ∨ 0x6C00000 ≤ a → memGet 0xFF t.hl.flash a = memGet 0xFF s.hl.flash a) ∧
    t.hl.sec = s.hl.sec ∧ t.nd.ctxs = s.nd.ctxs ∧ t.pending = s.pending := by
  have agrees := takeNodeId_agrees (s := groupCounted (frameCounted s) f)
  have hbit := takeNodeId_bit (groupCounted (frameCounted s) f) (i := 1) (by decide)
  have hsize := takeNodeId_status (groupCounted (frameCounted s) f) 6 2 (by decide)
  obtain ⟨id, status, hid⟩ := takeNodeId_only (s := groupCounted (frameCounted s) f)
  generalize takeNodeId (groupCounted (frameCounted s) f) = u at agrees hbit hsize hid ⊢
  have hflash : u.hl.flash = s.hl.flash := by rw [hid]; rfl
  obtain ⟨pending, nd, stat, enumOut, down, sec⟩ := onlyGathers_gatherStart u
  have hmem := fun a => memGet_gatherStart u (a := a)
  generalize gatherStart u = v at pending nd stat enumOut down sec hmem ⊢
  have hw : v.nd.power.standbyWaits = false := by rw [nd, hid]; exact hwait
  dsimp only
  rw [advanceStart_hl _ hw, advanceStart_nd_nodeId _ hw, advanceStart_nd_ctxs _ hw, advanceStart_pending _ hw, stat, enumOut, down, sec,
    pending]
  refine ⟨hbit.trans ?_, hsize.trans ?_, by rw [hid]; rfl, by rw [hid]; rfl, fun had hc hb => ?_,
    fun a ha => (hmem a ha).trans (by rw [hflash]), by rw [hid]; rfl, by rw [nd, hid]; rfl, by rw [hid]; rfl⟩
  · exact (bitOf_putField_other _ _ _ _ _ (by decide) (by decide) (by decide)).trans (bitOf_putField_same _ _ _ (by decide))
  · refine (fieldOf_putField_same _ _ _ _ (by decide) (by decide)).trans (Nat.mod_eq_of_lt ?_)
    omega
  · rw [nd]
    exact agrees had hc hb

/-! ### The head's ENUM, and the chain down (R508, R510) -/

theorem chainEnumRetry_sends {s : State} (ha : aonUp s = true) (hh : s.nd.power.hostEn = true) (hc : s.nd.chainAddr ≠ 0)
    (h : s.hl.chain.enumOut = true ∨ s.hl.chain.down = true) : chainEnumRetry s = sendEnum s := by
  refine if_pos ?_
  rcases h with h | h <;> simp [ha, hh, hc, h]

/-- With neither a push nor a session, nothing is dropped with the chain. -/
theorem chainDown_plain {s : State} (ha : aonUp s = true) (hp : s.hl.push = none) (hs : s.hl.session = none) :
    chainDown s = lockLost s := by
  have push : pushAbort (lockLost s) = lockLost s := by
    rw [pushAbort, show (lockLost s).hl.push = none from hp]
  have session : partialDropped (lockLost s) = lockLost s := by
    rw [partialDropped, show (lockLost s).hl.session = none from hs]
  rw [chainDown_eq, if_neg (by rw [ha]; decide), push, session]

theorem lockLost_alert (s : State) : bitOf (lockLost s).nd.log.alert alChain = true := by
  rw [lockLost, logIn_nd, logEvent_alert]
  exact bitOf_alert_raiseAlert _ (by decide)

theorem lockLost_nd (s : State) : (lockLost s).nd.power = s.nd.power ∧ (lockLost s).nd.ctxs = s.nd.ctxs := by
  rw [lockLost, logIn_nd, logEvent_power, logEvent_ctxs, alertIn_nd, raiseAlert_power, raiseAlert_ctxs]
  exact ⟨rfl, rfl⟩

theorem lockLost_last (s : State) : (lockLost s).nd.log.last = s.nd.log.next := by
  rw [lockLost, logIn_nd, logEvent_last, alertIn_nd]
  obtain ⟨alert, h⟩ := raiseAlert_log (onChain s fun c =>
    { c with down := true, status := putField (putField c.status 11 11 1) 0 0 0 }).nd alChain
  rw [h]
  rfl

end Sys2Proof.HalordService

open Sys2Proof Sys2Proof.Machine Sys2Proof.Safety Sys2Proof.HalordService

/-- Settles O13: ENUM by the branch it takes, a lost lock, and a frame for another module at every row of the chain. That CHAIN of
ALERT_STATUS rises with the chain down, and that any frame shows symbol lock, is deduced (log entry 92). -/
theorem chainEnumeratesAndForwards : Obligations.ChainEnumeratesAndForwards := by
  refine ⟨fun s ha => ⟨fun frame f hd ht h0 hh hr hc hne h16 hwait => ⟨_, rfl, ?_⟩, fun frame f hd ht h0 hh hr hc h16 => ⟨_, rfl, ?_⟩,
    fun frame f hd ht h0 hh he hb hwait => ⟨_, rfl, ?_⟩, fun frame f hd ht h0 hh h => ⟨_, rfl, ?_⟩, fun hh hc h => ⟨_, rfl, ?_⟩,
    fun hp hs => ⟨_, rfl, ?_⟩⟩,
    fun frame f s ha hd h31 => ⟨fun ho h1 => ⟨_, rfl, ?_⟩, fun ho hk => ⟨_, rfl, ?_⟩, fun ho => ⟨fun ht => ⟨_, rfl, ?_⟩,
      fun ht => ⟨_, rfl, ?_⟩, fun ht => ⟨_, rfl, ?_⟩, fun ht => ⟨_, rfl, ?_⟩, fun ht => ⟨_, rfl, ?_⟩⟩⟩⟩
  · rw [chainEnum_member ha hd ht h0 hh hr, enumAtMember_new (s := frameCounted s) hc h16]
    exact enumPassed_settles s f hne hwait
  · rw [chainEnum_member ha hd ht h0 hh hr, enumAtMember_full (s := frameCounted s) hc h16]
    exact ⟨hc, bitOf_putField_same _ _ _ (by decide), rfl, rfl, rfl, rfl⟩
  · rw [chainEnum_head ha hd ht h0 hh, enumAtHead_returned (s := frameCounted s) he hb]
    exact groupCounted_settles s f hwait
  · rw [chainEnum_head ha hd ht h0 hh, enumAtHead_conflict (s := frameCounted s) h]
    exact ⟨bitOf_putField_same _ _ _ (by decide), rfl, rfl, rfl⟩
  · rw [chainEnumRetry_sends ha hh hc h]
    exact ⟨rfl, rfl, rfl, rfl, rfl, rfl⟩
  · rw [chainDown_plain ha hp hs]
    exact ⟨rfl, (bitOf_putField_other _ _ _ _ _ (by decide) (by decide) (by decide)).trans (bitOf_putField_same _ _ _ (by decide)),
      bitOf_putField_same _ _ _ (by decide), lockLost_alert s, lockLost_last s, (lockLost_nd s).1, (lockLost_nd s).2, rfl, rfl, rfl⟩
  · rw [chainForward_other ha hd h31 ho h1]
    exact ⟨rfl, rfl, rfl⟩
  · rw [chainForward_reserved ha hd ho hk]
    exact ⟨rfl, rfl, rfl⟩
  · rw [chainRdReq, chainReceive_other ha hd h31 ho ht]
    exact ⟨rfl, rfl, rfl⟩
  · rw [chainWrReq, chainReceive_other ha hd h31 ho ht]
    exact ⟨rfl, rfl, rfl⟩
  · rw [chainRdRsp, chainReceive_other ha hd h31 ho ht]
    exact ⟨rfl, rfl, rfl⟩
  · rw [chainWrRsp, chainReceive_other ha hd h31 ho ht]
    exact ⟨rfl, rfl, rfl⟩
  · rw [chainAlert, chainReceive_other ha hd h31 ho ht]
    exact ⟨rfl, rfl, rfl⟩
end

section
/-! The ends of a policy period and of an evaluation window (O11). -/

namespace Sys2Proof.HalordService

open Sys2Proof.Machine Sys2Proof.Safety Sys2Proof.Organisation Sys2Proof.MemoryTiers Sys2Proof.FaultHandling

/-! ### What the heat, the tiles and the prefetch leave (R534–R537) -/

/-- A policy engine without its notes of hot and idle tiles and stacks. -/
def unheated (p : Policy) : Policy := { p with thermCap := [], hotStacks := [], hotTiles := [], idleTiles := [] }

/-- What the heat, the tiles and the prefetch leave of Halord, and the queue. -/
def policyKept (s : State) : Policy × Security × Mailbox × Sensors × List Instr :=
  (unheated s.hl.plc, s.hl.sec, s.hl.mbx, s.hl.sens, s.pending)

/-- The parts of what is kept, one by one. -/
theorem policyKept_parts {s t : State} (h : policyKept t = policyKept s) :
    t.hl.plc.live = s.hl.plc.live ∧ t.hl.plc.gen = s.hl.plc.gen ∧ t.hl.plc.powerCap = s.hl.plc.powerCap ∧
    t.hl.plc.stackRate = s.hl.plc.stackRate ∧ t.hl.plc.propLast = s.hl.plc.propLast ∧ t.hl.plc.proposals = s.hl.plc.proposals ∧
    t.hl.sec = s.hl.sec ∧ t.hl.mbx = s.hl.mbx ∧ t.hl.sens = s.hl.sens ∧ t.pending = s.pending :=
  ⟨(congrArg (fun k => k.1.live) h :), (congrArg (fun k => k.1.gen) h :), (congrArg (fun k => k.1.powerCap) h :),
    (congrArg (fun k => k.1.stackRate) h :), (congrArg (fun k => k.1.propLast) h :), (congrArg (fun k => k.1.proposals) h :),
    (congrArg (fun k => k.2.1) h :), (congrArg (fun k => k.2.2.1) h :), (congrArg (fun k => k.2.2.2.1) h :),
    (congrArg (fun k => k.2.2.2.2) h :)⟩

section
variable (s : State)

theorem policyKept_foldl {α : Type} {f : State → α → State} (h : ∀ s a, policyKept (f s a) = policyKept s) (l : List α) :
    policyKept (l.foldl f s) = policyKept s := foldl_keeps f policyKept h l s

theorem policyKept_tileHeat (t : Nat) : policyKept (tileHeat s t) = policyKept s := by
  unfold tileHeat
  dsimp only
  (repeat' split) <;> rfl

theorem policyKept_stackHeat (r : Nat) : policyKept (stackHeat s r) = policyKept s := by
  unfold stackHeat
  split
  · rfl
  · dsimp only
    (repeat' split) <;> rfl

theorem policyKept_clusterHeat (r : Nat) : policyKept (clusterHeat s r) = policyKept s := by
  unfold clusterHeat
  (repeat' split) <;> rfl

theorem policyKept_ungateIdle : policyKept (ungateIdle s) = policyKept s := by
  unfold ungateIdle
  split <;> rfl

theorem policyKept_prefetch : policyKept (prefetch s) = policyKept s := by
  unfold prefetch
  dsimp only
  split <;> rfl

theorem policyKept_withNode (n : Node) : policyKept { s with nd := n } = policyKept s := rfl

theorem policyKept_eraseWrite (a k off : Nat) (bs : Bytes) :
    policyKept { s with hl := flashWrite (flashErase s.hl a k) off bs } = policyKept s := rfl

theorem policyKept_recordBands : policyKept (recordBands s) = policyKept s := by
  unfold recordBands
  dsimp only
  split
  · rfl
  · exact policyKept_eraseWrite s _ _ _ _

theorem policyKept_onTiles (f : Node → Node) : policyKept (onTiles s f) = policyKept s := by
  unfold onTiles
  split
  · exact (policyKept_recordBands _).trans (policyKept_withNode s _)
  · rfl

theorem policyKept_gateRegion (r : Nat) : policyKept (gateRegion s r) = policyKept s := by
  unfold gateRegion
  dsimp only
  split
  · rfl
  · refine policyKept_foldl s (fun u t => ?_) _
    (repeat' split) <;> rfl

end

/-! ### The boundary of a policy period (R29, R533, R534) -/

/-- The rest of a period's end that is not too hot. -/
def periodTiles (s : State) : State :=
  onTiles (prefetch (ungateIdle ((List.range 8).foldl (fun s r => clusterHeat (stackHeat s r) r) ((List.range 64).foldl tileHeat s)))) id

theorem policyKept_periodTiles (s : State) : policyKept (periodTiles s) = policyKept s :=
  calc policyKept (periodTiles s)
    _ = policyKept (prefetch (ungateIdle ((List.range 8).foldl (fun s r => clusterHeat (stackHeat s r) r)
          ((List.range 64).foldl tileHeat s)))) := policyKept_onTiles _ _
    _ = policyKept ((List.range 8).foldl (fun s r => clusterHeat (stackHeat s r) r) ((List.range 64).foldl tileHeat s)) :=
        (policyKept_prefetch _).trans (policyKept_ungateIdle _)
    _ = policyKept ((List.range 64).foldl tileHeat s) :=
        policyKept_foldl _ (fun s r => (policyKept_clusterHeat (stackHeat s r) r).trans (policyKept_stackHeat s r)) _
    _ = policyKept s := policyKept_foldl s policyKept_tileHeat _

/-- The module after a failure by heat. -/
theorem heatEnds_reads (u : State) :
    let t := enterStandby { u with nd := failModule u.nd 26 0 } 0x0501 false
    t.nd.power.state = 1 ∧ t.nd.power.failed = true ∧ t.nd.power.domains = [0] ∧ t.hl = u.hl ∧ t.pending = u.pending := by
  obtain ⟨state, _, domains, _, _, _, _, _, _, pending, hl⟩ := enterStandby_reads { u with nd := failModule u.nd 26 0 } 0x0501 false
  refine ⟨state, ?_, domains, hl, pending⟩
  show (failModule u.nd 26 0).power.failed = true
  rw [failModule_power]

section
variable {s : State} (hr : s.hl.restarting = false) (hoff : s.nd.power.off = false) (h2 : 2 ≤ s.nd.power.state)
include hr hoff h2

theorem policyPeriodEnd_hot (hot : tooHot (powerStep (takePlcNext s)) = true) : policyPeriodEnd s =
    enterStandby { powerStep (takePlcNext s) with nd := failModule (powerStep (takePlcNext s)).nd 26 0 } 0x0501 false := by
  rw [policyPeriodEnd, if_neg (by simp [hr, hoff, Nat.not_lt.mpr h2])]
  exact if_pos hot

theorem policyPeriodEnd_cool (cool : tooHot (powerStep (takePlcNext s)) = false) :
    policyPeriodEnd s = periodTiles (powerStep (takePlcNext s)) := by
  rw [policyPeriodEnd, if_neg (by simp [hr, hoff, Nat.not_lt.mpr h2])]
  exact if_neg (ne_true_of_eq_false cool)

end

/-- The engine with another cap level and stack rate, one step counted. -/
def capped (s : State) (tile rate : Nat) : State := policyStep (onPolicy s fun c => { c with powerCap := tile, stackRate := rate })

section
variable {s : State} {p : Nat} (hp : inputPower s = some p)
include hp

theorem powerStep_tiles (ho : 10 * fieldOf s.hl.plc.live.1 15 0 < p) (hc : s.hl.plc.powerCap < fieldOf s.hl.plc.live.1 17 16) :
    powerStep s = capped s (s.hl.plc.powerCap + 1) s.hl.plc.stackRate := by
  rw [powerStep, hp]
  dsimp only
  rw [if_pos ho, if_pos hc]
  rfl

theorem powerStep_stacks (ho : 10 * fieldOf s.hl.plc.live.1 15 0 < p) (hc : fieldOf s.hl.plc.live.1 17 16 ≤ s.hl.plc.powerCap)
    (hf : fieldOf s.hl.plc.live.1 31 24 < s.hl.plc.stackRate) :
    powerStep s = capped s s.hl.plc.powerCap (max (fieldOf s.hl.plc.live.1 31 24) (s.hl.plc.stackRate - 16)) := by
  rw [powerStep, hp]
  dsimp only
  rw [if_pos ho, if_neg (by omega), if_pos hf]
  rfl

theorem powerStep_back (ho : p ≤ 10 * fieldOf s.hl.plc.live.1 15 0) (hb : 100 * p < 950 * fieldOf s.hl.plc.live.1 15 0)
    (hr : s.hl.plc.stackRate < 256) : powerStep s = capped s s.hl.plc.powerCap (min 256 (s.hl.plc.stackRate + 16)) := by
  rw [powerStep, hp]
  dsimp only
  rw [if_neg (by omega), if_pos (by omega), if_pos hr]
  rfl

end

/-- A power step changes the cap level and the stack rate alone of what the rest of the period keeps. -/
theorem powerStep_keeps (s : State) : (powerStep s).hl.plc.live = s.hl.plc.live ∧ (powerStep s).hl.plc.gen = s.hl.plc.gen ∧
    (powerStep s).hl.sec = s.hl.sec ∧ (powerStep s).hl.mbx = s.hl.mbx ∧ (powerStep s).hl.sens = s.hl.sens ∧
    (powerStep s).pending = s.pending := by
  unfold powerStep
  split
  · exact ⟨rfl, rfl, rfl, rfl, rfl, rfl⟩
  · dsimp only
    (repeat' split) <;> exact ⟨rfl, rfl, rfl, rfl, rfl, rfl⟩

/-- Of the policy engine, the boundary leaves the cap level and the stack rate; of Halord, all the rest. -/
theorem takePlcNext_keeps (s : State) :
    (takePlcNext s).hl = { s.hl with plc := (takePlcNext s).hl.plc } ∧ (takePlcNext s).nd = s.nd ∧ (takePlcNext s).pending = s.pending ∧
    (takePlcNext s).hl.plc.powerCap = s.hl.plc.powerCap ∧ (takePlcNext s).hl.plc.stackRate = s.hl.plc.stackRate := by
  unfold takePlcNext
  generalize s.hl.plc.next = l
  induction l generalizing s with
  | nil => exact ⟨rfl, rfl, rfl, rfl, rfl⟩
  | cons b l ih =>
    obtain ⟨hl, nd, pending, cap, rate⟩ := ih (onPolicy s fun p =>
      { p with live := b, next := [], gen := nextGen p.gen, stat := commitStatus p.stat true (nextGen p.gen) })
    exact ⟨hl, nd, pending, cap, rate⟩

theorem takePlcNext_one {s : State} {b : Word × Word × Word} (h : s.hl.plc.next = [b]) :
    takePlcNext s = onPolicy s fun p =>
      { p with live := b, next := [], gen := nextGen p.gen, stat := commitStatus p.stat true (nextGen p.gen) } := by
  rw [takePlcNext, h]
  rfl

theorem takePlcNext_none {s : State} (h : s.hl.plc.next = []) : takePlcNext s = s := by
  rw [takePlcNext, h]
  rfl

/-! ### Proposals (R538) -/

/-- The state that an evaluation window's end judges: power that is stuck has been logged. -/
def stuckReported (s : State) : State := if powerStuck s then alertIn (logIn s (otherEvent 5 6)) alPower else s

theorem stuckReported_keeps (s : State) : (stuckReported s).hl = s.hl ∧ (stuckReported s).pending = s.pending ∧
    ownExtents (stuckReported s).nd = ownExtents s.nd := by
  unfold stuckReported
  split
  · refine ⟨rfl, rfl, ?_⟩
    rw [ownExtents, alertIn_nd, raiseAlert_ctxs, raiseAlert_nodeId]
    rfl
  · exact ⟨rfl, rfl, rfl⟩

theorem policyKept_evaluationWindowEnd {s : State} (hr : s.hl.restarting = false) (hoff : s.nd.power.off = false)
    (h2 : 2 ≤ s.nd.power.state) (bw sp : Nat) (traffic : List (BitVec 16 × Word × BitVec 32)) :
    policyKept (evaluationWindowEnd bw sp traffic s) = policyKept (proposals (stuckReported s) bw sp traffic) := by
  rw [evaluationWindowEnd, if_neg (by simp [hr, hoff, Nat.not_lt.mpr h2])]
  exact (policyKept_onTiles _ _).trans (policyKept_foldl _ policyKept_gateRegion _)

section
variable {s : State} {bw sp : Nat} {traffic : List (BitVec 16 × Word × BitVec 32)}

theorem proposals_bandwidth_one (hen : bitOf s.hl.plc.live.2.2 1 = true) (hb : fieldOf s.hl.plc.live.2.2 23 16 < bw)
    {x : Nat × MapEntry} (hx : ownExtents s.nd = [x]) :
    proposals s bw sp traffic = propose s x.1 x.2.start x.2.chunks 1 (trafficOf traffic x) := by
  rw [proposals, hen, hx]
  exact if_pos hb

theorem proposals_none (h : bitOf s.hl.plc.live.2.2 1 = false ∨ (bw ≤ fieldOf s.hl.plc.live.2.2 23 16 ∧
    sp ≤ fieldOf s.hl.plc.live.2.2 23 16 ∧ fieldOf s.hl.plc.live.2.2 31 24 ≤ bw)) : proposals s bw sp traffic = s := by
  rw [proposals]
  rcases h with h | ⟨hb, hs, hl⟩
  · exact if_pos (by rw [h]; rfl)
  · split
    · rfl
    · rw [if_neg (by omega), if_neg (by omega), if_neg]
      simp [Nat.not_lt.mpr hl]

end

end Sys2Proof.HalordService

open Sys2Proof Sys2Proof.Machine Sys2Proof.Safety Sys2Proof.HalordService

/-- Settles O11: the boundary, the power step and the heat of a period, and the proposals of a window. That a committed block keeps the
values staged at its commit, that heat leads to Standby in the same step, and CAUSE 1 whatever the space use, are the model's (log
entries 28, 35 and 37). -/
theorem periodsEnd : Obligations.PeriodsEnd := by
  refine ⟨fun s hr hoff h2 => ⟨fun b hb => ?_, takePlcNext_none, fun hot => ⟨_, rfl, ?_⟩, fun cool => ⟨_, rfl, ?_⟩⟩,
    fun bw sp traffic s hr hoff h2 => ⟨fun x hen hb hx => ⟨_, rfl, ?_⟩, fun h => ⟨_, rfl, ?_⟩⟩⟩
  · rw [takePlcNext_one hb]
    exact ⟨rfl, rfl, rfl⟩
  · rw [policyPeriodEnd_hot hr hoff h2 hot]
    obtain ⟨state, failed, domains, hl, pending⟩ := heatEnds_reads (powerStep (takePlcNext s))
    have stepped : lasting (powerStep (takePlcNext s)) = lasting s := (lasting_powerStep _).trans (lasting_takePlcNext s)
    exact ⟨state, failed, domains, (congrArg Halord.flash hl).trans (congrArg (·.2.1) stepped :),
      pending.trans (congrArg (·.1) stepped :)⟩
  · rw [policyPeriodEnd_cool hr hoff h2 cool]
    obtain ⟨live, gen, cap, rate, -, -, sec, mbx, sens, pending⟩ := policyKept_parts (policyKept_periodTiles (powerStep (takePlcNext s)))
    obtain ⟨hlive, hgen, hsec, hmbx, hsens, hpending⟩ := powerStep_keeps (takePlcNext s)
    obtain ⟨nhl, -, npending, ncap, nrate⟩ := takePlcNext_keeps s
    have power : inputPower (takePlcNext s) = inputPower s := by rw [inputPower, nhl]; rfl
    refine ⟨live.trans hlive, gen.trans hgen, (sec.trans hsec).trans (by rw [nhl]), (mbx.trans hmbx).trans (by rw [nhl]),
      (sens.trans hsens).trans (by rw [nhl]), (pending.trans hpending).trans npending, fun p hp ho hc => ?_, fun p hp ho hc hf => ?_,
      fun p hp ho hb hf => ?_⟩
    · rw [cap, rate, powerStep_tiles (power.trans hp) ho (by rw [ncap]; exact hc), ← ncap, ← nrate]
      exact ⟨rfl, rfl⟩
    · rw [cap, rate, powerStep_stacks (power.trans hp) ho (by rw [ncap]; exact hc) (by rw [nrate]; exact hf), ← ncap, ← nrate]
      exact ⟨rfl, rfl⟩
    · rw [cap, rate, powerStep_back (power.trans hp) ho hb (by rw [nrate]; exact hf), ← ncap, ← nrate]
      exact ⟨rfl, rfl⟩
  · obtain ⟨hhl, -, hext⟩ := stuckReported_keeps s
    obtain ⟨-, -, -, -, last, props, -⟩ := policyKept_parts (policyKept_evaluationWindowEnd hr hoff h2 bw.toNat sp.toNat traffic)
    rw [proposals_bandwidth_one (s := stuckReported s) (by rw [hhl]; exact hen) (by rw [hhl]; exact hb) (hext.trans hx)] at last props
    refine ⟨by rw [last, ← hhl]; rfl, (stuckReported s).nd.log.next, ?_⟩
    rw [props, ← hhl]
    exact Tbl.find?_put_same _ _ _
  · obtain ⟨hhl, hpending, -⟩ := stuckReported_keeps s
    obtain ⟨live, -, -, -, last, props, sec, -, -, pending⟩ :=
      policyKept_parts (policyKept_evaluationWindowEnd hr hoff h2 bw.toNat sp.toNat traffic)
    rw [proposals_none (s := stuckReported s) (by rw [hhl]; exact h)] at live last props sec pending
    exact ⟨by rw [last, hhl], by rw [props, hhl], by rw [live, hhl], by rw [sec, hhl], pending.trans hpending⟩
end

section
/-! The security requests of the mailbox (O50). -/

namespace Sys2Proof.HalordService

open Sys2Proof.Machine Sys2Proof.Safety Sys2Proof.Organisation

/-! ### The rows of requests (R576, R577) -/

/-- The rows that submit a request, by the ROP of theirs. -/
def requestRows (req : RequestWords) : List (Instr × Nat) :=
  [(.imgOpenFirmware req, 1), (.imgOpenAlmanac req, 1), (.imgStage req, 2), (.imgPush req, 3), (.imgUnstage req, 4), (.relay req, 5),
    (.attest req, 8), (.presClose req, 9), (.ownerSet req, 16), (.bindSet req, 17), (.debugUnlock req, 18), (.factoryReset req, 19),
    (.almanacCopy req, 20)]

/-- The row of IMG_OPEN for the KIND of a request. -/
def openRow (req : RequestWords) : Instr := if kindOf req = 0 then .imgOpenFirmware req else .imgOpenAlmanac req

/-- A row submits the request whenever its ROP, and for IMG_OPEN its KIND, is the row's own. -/
theorem requestRows_submit (req : RequestWords) : ∀ e ∈ requestRows req, ∀ s, ∃ ok, exec e.1 s = .next (submitAs ok req s) ∧
    (ok = true → ropOf req = e.2) ∧ (ropOf req = e.2 → (e.2 = 1 → e.1 = openRow req) → ok = true) := by
  have other (k : Nat) (i : Instr) (h : ∀ s, exec i s = .next (submitAs (ropOf req == k) req s)) (s : State) :
      ∃ ok, exec i s = .next (submitAs ok req s) ∧ (ok = true → ropOf req = k) ∧
        (ropOf req = k → (k = 1 → i = openRow req) → ok = true) :=
    ⟨_, h s, beq_iff_eq.mp, fun hr _ => beq_iff_eq.mpr hr⟩
  have opens (b : Bool) (i : Instr) (h : ∀ s, exec i s = .next (submitAs (ropOf req == 1 && b) req s))
      (hb : i = openRow req → b = true) (s : State) : ∃ ok, exec i s = .next (submitAs ok req s) ∧ (ok = true → ropOf req = 1) ∧
        (ropOf req = 1 → (1 = 1 → i = openRow req) → ok = true) := by
    refine ⟨_, h s, fun hok => beq_iff_eq.mp (Bool.and_eq_true _ _ ▸ hok).1, fun hr hi => ?_⟩
    rw [hb (hi rfl), hr]
    rfl
  have firmware : Instr.imgOpenFirmware req = openRow req → (kindOf req == 0) = true := fun h => by
    by_contra hk
    rw [openRow, if_neg (by simpa using hk)] at h
    cases h
  have almanac : Instr.imgOpenAlmanac req = openRow req → (kindOf req != 0) = true := fun h => by
    by_contra hk
    rw [openRow, if_pos (by simpa using hk)] at h
    cases h
  intro e he
  simp only [requestRows, List.mem_cons, List.not_mem_nil, or_false] at he
  rcases he with rfl | rfl | rfl | rfl | rfl | rfl | rfl | rfl | rfl | rfl | rfl | rfl | rfl
  exacts [opens _ _ (fun _ => rfl) firmware, opens _ _ (fun _ => rfl) almanac, other 2 _ fun _ => rfl,
    other 3 _ fun _ => rfl, other 4 _ fun _ => rfl, other 5 _ fun _ => rfl,
    other 8 _ fun _ => rfl, other 9 _ fun _ => rfl, other 16 _ fun _ => rfl,
    other 17 _ fun _ => rfl, other 18 _ fun _ => rfl, other 19 _ fun _ => rfl,
    other 20 _ fun _ => rfl]

/-! ### A request that runs (R576, R594) -/

/-- The state in which a submitted request runs: its transfer is BUSY until the status is known. -/
def requestBegun (s : State) (req : RequestWords) : State :=
  onMbx s fun m => { m with stat := putField m.stat 0 0 1, op := 2, space := 3, target := 0, buffer := [], remain := 0
                            addr := wordOf (8 * req.length), waits := true }

/-- Requests are taken. -/
def TakesRequests (s : State) : Prop := aonUp s = true ∧ mbxBusy s = false ∧ s.hl.restarting = false ∧ romOnly s = false

theorem submitAs_no (req : RequestWords) (s : State) : submitAs false req s = s := rfl

theorem submitAs_busy {s : State} (ha : aonUp s = true) (hb : mbxBusy s = true) (req : RequestWords) :
    submitAs true req s = onMbx s fun m => { m with stat := putField m.stat 2 2 1 } := by
  rw [submitAs, if_pos rfl, submit, if_neg (by rw [ha]; decide), if_pos hb]

/-- A request whose status is known at once ends the transfer with it. -/
theorem submitAs_ends {s : State} (hup : TakesRequests s) {req : RequestWords} {st : Nat}
    (h : (runRequest req (requestBegun s req)).2 = some st) :
    submitAs true req s = requestDone (runRequest req (requestBegun s req)).1 (ropOf req) st := by
  obtain ⟨ha, hb, -, -⟩ := hup
  rw [submitAs, if_pos rfl, submit, if_neg (by rw [ha]; decide), if_neg (by rw [hb]; decide), launch_eq]
  change (match (runRequest req (requestBegun s req)).2 with
    | some st => requestDone (runRequest req (requestBegun s req)).1 (ropOf req) st
    | none => (runRequest req (requestBegun s req)).1) = _
  rw [h]

/-- What a module runs for itself, by ROP. -/
def ownByRop (rop : Nat) (req : RequestWords) (s : State) : State × Nat :=
  if rop = 0x01 then runImgOpen req s
  else if rop = 0x02 then runImgStage s
  else if rop = 0x04 then runImgUnstage s
  else if rop = 0x08 then runAttest req s
  else if rop = 0x09 then (closePresence s, stOK)
  else if rop = 0x10 then runOwnerSet req s
  else if rop = 0x11 then runBindSet req s
  else if rop = 0x12 then runDebugUnlock req s
  else if rop = 0x13 then runFactoryReset s
  else (s, stInvalid)

theorem runOwn_eq {req : RequestWords} {s : State} (hok : requestOk req = true) (hrom : romOnly s = false) :
    runOwn req s = ownByRop (ropOf req) req s := by
  simp only [runOwn, hok, hrom, Bool.not_true, Bool.false_and, Bool.false_eq_true, if_false]
  rfl

section
variable {s : State} {req : RequestWords} (hup : TakesRequests s)
include hup

/-- A well-formed request that the module runs for itself. -/
theorem submitAs_own {rop : Nat} (hrop : ropOf req = rop) (hown : rop ≠ 3 ∧ rop ≠ 5 ∧ rop ≠ 20) (hok : requestOk req = true) :
    submitAs true req s =
      requestDone (ownByRop rop req (requestBegun s req)).1 rop (ownByRop rop req (requestBegun s req)).2 := by
  have ⟨_, _, hr, hrom⟩ := hup
  obtain ⟨h3, h5, h20⟩ := hown
  have ran : runRequest req (requestBegun s req) =
      ((ownByRop rop req (requestBegun s req)).1, some (ownByRop rop req (requestBegun s req)).2) := by
    have hr' : (requestBegun s req).hl.restarting = false := hr
    have hrom' : romOnly (requestBegun s req) = false := hrom
    simp only [runRequest, hr', hrom', hrop, h3, h5, h20, Bool.false_and, Bool.false_eq_true, if_false, runOwn_eq hok hrom']
  rw [submitAs_ends hup (st := (ownByRop rop req (requestBegun s req)).2) (by rw [ran]), ran, hrop]

/-- A malformed request, RELAY apart, is INVALID. -/
theorem runRequest_malformed (h5 : ropOf req ≠ 5) (hbad : requestOk req = false) :
    runRequest req (requestBegun s req) = (requestBegun s req, some stInvalid) := by
  obtain ⟨-, -, hr, hrom⟩ := hup
  have hr' : (requestBegun s req).hl.restarting = false := hr
  have hrom' : romOnly (requestBegun s req) = false := hrom
  have push (u : State) : runImgPush req u = (u, some stInvalid) := by
    unfold runImgPush
    split
    · rfl
    · simp only [hbad, Bool.not_false, Bool.true_or, if_true]
  rw [runRequest]
  simp only [hr', hrom', h5, Bool.false_and, Bool.false_eq_true, if_false, push, runAlmanacCopy, runOwn, hbad, Bool.not_false,
    Bool.true_or, if_true, ite_self]

theorem submitAs_malformed (h5 : ropOf req ≠ 5) (hbad : requestOk req = false) :
    submitAs true req s = requestDone (requestBegun s req) (ropOf req) stInvalid := by
  have ran := runRequest_malformed hup h5 hbad
  rw [submitAs_ends hup (st := stInvalid) (by rw [ran]), ran]

end

/-! ### How a transfer ends (R594) -/

/-- The transfer of a request has ended with a status, the data plane and the fuses as they were. -/
def RequestEnds (s t : State) (rop st : Nat) : Prop :=
  bitOf t.hl.mbx.stat 0 = false ∧ bitOf t.hl.mbx.stat 1 = true ∧ fieldOf t.hl.mbx.stat 15 8 = st ∧ t.hl.sec.lastRop = rop ∧
  t.hl.sec.lastStatus = st ∧ t.pending = s.pending ∧ t.nd.mem = s.nd.mem ∧ t.nd.ctxs = s.nd.ctxs ∧ t.hl.sec.fuses = s.hl.sec.fuses

/-- The same, with flash and the session as they were. -/
def RequestOnly (s t : State) (rop st : Nat) : Prop :=
  RequestEnds s t rop st ∧ t.hl.flash = s.hl.flash ∧ t.hl.session = s.hl.session

/-- What a request keeps while it runs. -/
structure RunKeeps (s u : State) : Prop where
  waits : u.hl.mbx.waits = true
  pending : u.pending = s.pending
  mem : u.nd.mem = s.nd.mem
  ctxs : u.nd.ctxs = s.nd.ctxs
  fuses : u.hl.sec.fuses = s.hl.sec.fuses

theorem runKeeps_begun (s : State) (req : RequestWords) : RunKeeps s (requestBegun s req) := ⟨rfl, rfl, rfl, rfl, rfl⟩

/-- A request's status noted and logged. -/
def statusNoted (u : State) (rop st : Nat) : State :=
  logIn (onSec u fun x => { x with lastRop := rop, lastStatus := st }) { sev := sevInfo, code := 0x710, data0 := rop + st * 2 ^ 8 }

theorem requestDone_waits {u : State} (h : u.hl.mbx.waits = true) (rop st : Nat) :
    requestDone u rop st = mbxEnd (statusNoted u rop st) st := if_pos h

section
variable {s u : State} (h : RunKeeps s u)
include h

theorem requestEnds_done (rop : Nat) {st : Nat} (hst : st < 256) : RequestEnds s (requestDone u rop st) rop st := by
  rw [requestDone_waits h.waits]
  obtain ⟨hbusy, hdone, hstatus⟩ := mbxEnd_done (statusNoted u rop st) hst
  exact ⟨hbusy, hdone, hstatus, rfl, rfl, h.pending, h.mem, h.ctxs, h.fuses⟩

theorem requestDone_flash (rop st : Nat) : (requestDone u rop st).hl.flash = u.hl.flash := by
  rw [requestDone_waits h.waits]
  rfl

theorem requestDone_session (rop st : Nat) : (requestDone u rop st).hl.session = u.hl.session := by
  rw [requestDone_waits h.waits]
  rfl

theorem requestDone_sec (rop st : Nat) : (requestDone u rop st).hl.sec = { u.hl.sec with lastRop := rop, lastStatus := st } := by
  rw [requestDone_waits h.waits]
  rfl

theorem requestDone_alm (rop st : Nat) : (requestDone u rop st).nd.alm = u.nd.alm := by
  rw [requestDone_waits h.waits]
  rfl

theorem requestDone_last (rop st : Nat) : (requestDone u rop st).nd.log.last = u.nd.log.next := by
  rw [requestDone_waits h.waits]
  exact logEvent_last _ _

theorem requestOnly_done (hf : u.hl.flash = s.hl.flash) (hs : u.hl.session = s.hl.session) (rop : Nat) {st : Nat} (hst : st < 256) :
    RequestOnly s (requestDone u rop st) rop st :=
  ⟨requestEnds_done h rop hst, (requestDone_flash h rop st).trans hf, (requestDone_session h rop st).trans hs⟩

end

/-- A request that changed nothing of Halord ends with its status alone. -/
theorem requestDone_begun (s : State) (req : RequestWords) (rop : Nat) {st : Nat} (hst : st < 256) :
    RequestOnly s (requestDone (requestBegun s req) rop st) rop st ∧
    (requestDone (requestBegun s req) rop st).hl.sec = { s.hl.sec with lastRop := rop, lastStatus := st } :=
  ⟨requestOnly_done (runKeeps_begun s req) rfl rfl rop hst, requestDone_sec (runKeeps_begun s req) rop st⟩

end Sys2Proof.HalordService
end

section
/-! What each security request does (O50). -/

namespace Sys2Proof.HalordService

open Sys2Proof.Machine Sys2Proof.Safety Sys2Proof.Organisation

/-- Erased flash reads as ones. -/
theorem memGet_erased (h : Halord) {a n i : Nat} (hi : a ≤ i ∧ i < a + n) : memGet 0xFF (flashErase h a n).flash i = 0xFF := by
  rw [flashErase, memGet_clear, if_pos hi]

/-! ### Image sessions (R579, R580) -/

section
variable {s : State} {req : RequestWords}

theorem runImgOpen_opens {kind : Nat} (hk : kindOf req = kind) (hfit : (if kind = 0 then
      4096 ≤ fieldOf (wordAt req 1) 31 0 ∧ fieldOf (wordAt req 1) 31 0 ≤ 0x3000000
    else 64 ≤ fieldOf (wordAt req 1) 31 0 ∧ fieldOf (wordAt req 1) 31 0 ≤ 0x40000))
    (hseal : kind = 1 → s.hl.sec.unsealed = false) :
    runImgOpen req s = (openSession s (freshSession kind (fieldOf (wordAt req 1) 31 0) 0 0 0 false), stOK) := by
  have unsealed : (kind == 1 && s.hl.sec.unsealed) = false := by
    by_cases h : kind = 1
    · rw [hseal h, Bool.and_false]
    · rw [beq_eq_false_iff_ne.mpr h, Bool.false_and]
  have fits : (if kind = 0 then decide (4096 ≤ fieldOf (wordAt req 1) 31 0 ∧ fieldOf (wordAt req 1) 31 0 ≤ 0x3000000)
      else decide (64 ≤ fieldOf (wordAt req 1) 31 0 ∧ fieldOf (wordAt req 1) 31 0 ≤ 0x40000)) = true := by
    split at hfit
    · rw [if_pos ‹_›]; exact decide_eq_true hfit
    · rw [if_neg ‹_›]; exact decide_eq_true hfit
  rw [runImgOpen]
  simp only [show fieldOf (wordAt req 0) 15 8 = kind from hk, fits, unsealed]
  rfl

theorem runImgOpen_firmware_unfit (hk : kindOf req = 0)
    (h : fieldOf (wordAt req 1) 31 0 < 4096 ∨ 0x3000000 < fieldOf (wordAt req 1) 31 0) : runImgOpen req s = (s, stInvalid) := by
  have unfit : decide (4096 ≤ fieldOf (wordAt req 1) 31 0 ∧ fieldOf (wordAt req 1) 31 0 ≤ 0x3000000) = false :=
    decide_eq_false (by omega)
  rw [runImgOpen]
  simp only [show fieldOf (wordAt req 0) 15 8 = 0 from hk, unfit, if_true]
  rfl

theorem runImgOpen_almanac_unsealed (hk : kindOf req = 1)
    (h : 64 ≤ fieldOf (wordAt req 1) 31 0 ∧ fieldOf (wordAt req 1) 31 0 ≤ 0x40000) (hu : s.hl.sec.unsealed = true) :
    runImgOpen req s = (s, stUnsealed) := by
  rw [runImgOpen]
  simp only [show fieldOf (wordAt req 0) 15 8 = 1 from hk, decide_eq_true h, hu]
  rfl

/-- The mark of a pending image is cleared, and the inactive slot erased. -/
def slotErased (s : State) : State :=
  { s with hl := flashErase (setPending s.hl false) (slotBase (!s.hl.sec.active)) 0x3000000 }

theorem openSession_firmware {x : ImgSession} (hk : x.kind = 0) : openSession s x = setSession (slotErased s) x := if_pos hk

theorem openSession_almanac {x : ImgSession} (hk : x.kind ≠ 0) : openSession s x = setSession s x := if_neg hk

/-! ### IMG_STAGE and IMG_UNSTAGE (R579, R580) -/

theorem runImgStage_session {x : ImgSession} (hx : s.hl.session = some x) (h0 : x.session = 0) :
    runImgStage s = stageSession s x := by
  rw [runImgStage, hx]
  exact if_pos h0

theorem runImgStage_none (h : s.hl.session = none) : runImgStage s = (s, stInvalid) := by
  rw [runImgStage, h]

theorem stageSession_fails {x : ImgSession} (hk : x.kind = 0) {st : Nat} (hst : st ≠ stOK)
    (hv : verifyImage (sessionImage x) x.bytes.length s.hl.sec = st) : stageSession s x = (s, st) := by
  rw [stageSession, if_pos hk, stageFirmware, hv]
  exact if_pos hst

/-- The image of a session in the inactive slot, and marked pending. -/
def imageMarked (s : State) (x : ImgSession) : State :=
  { mapSession (programBytes s x x.length) (fun y => { y with staged := true }) with
    hl := setPending (mapSession (programBytes s x x.length) fun y => { y with staged := true }).hl true }

theorem stageSession_firmware {x : ImgSession} (hk : x.kind = 0) (hv : verifyImage (sessionImage x) x.bytes.length s.hl.sec = stOK) :
    stageSession s x =
      (logSecurity (imageMarked s x) { sev := sevNotice, code := 0x720, data0 := imageVersion (sessionImage x) }, stOK) := by
  rw [stageSession, if_pos hk, stageFirmware, hv]
  rfl

theorem imageMarked_sec (x : ImgSession) : (imageMarked s x).hl.sec = { s.hl.sec with pending := true } := rfl

theorem imageMarked_session (x : ImgSession) : ∃ y, (imageMarked s x).hl.session = some y ∧ y.staged = true ∧ y.bytes = x.bytes :=
  ⟨_, rfl, rfl, rfl⟩

theorem imageMarked_keeps (x : ImgSession) : (imageMarked s x).nd = s.nd ∧ (imageMarked s x).pending = s.pending ∧
    (imageMarked s x).hl.mbx = s.hl.mbx := ⟨rfl, rfl, rfl⟩

/-- The Almanac of a session written to the copies that it replaces. -/
def almanacWritten (s : State) (x : ImgSession) : State :=
  { s with hl := if x.copyOrder || !s.nd.alm.adopted then writeAlmanac (writeAlmanac s.hl 0 x.bytes) 1 x.bytes
      else writeAlmanac s.hl (1 - s.nd.alm.copy) x.bytes }

theorem stageAlmanac_passes {x : ImgSession} (h : almanacStatus s x = stOK) :
    stageAlmanac s x = (setSession (almanacWritten s x) { x with staged := true }, stOK) := by
  rw [stageAlmanac, h]
  rfl

theorem almanacWritten_keeps (x : ImgSession) : (almanacWritten s x).nd = s.nd ∧ (almanacWritten s x).pending = s.pending ∧
    (almanacWritten s x).hl.mbx = s.hl.mbx ∧ (almanacWritten s x).hl.sec = s.hl.sec := by
  unfold almanacWritten
  split <;> exact ⟨rfl, rfl, rfl, rfl⟩

/-- The session unmarked, and the slot record. -/
def imageUnmarked (s : State) : State :=
  { mapSession s (fun x => if x.kind = 0 then { x with staged := false } else x) with
    hl := setPending (mapSession s fun x => if x.kind = 0 then { x with staged := false } else x).hl false }

theorem runImgUnstage_eq : runImgUnstage s = (imageUnmarked s, stOK) := rfl

theorem imageUnmarked_session {y : ImgSession} (h : (imageUnmarked s).hl.session = some y) (hk : y.kind = 0) : y.staged = false := by
  have mapped : s.hl.session.map (fun x => if x.kind = 0 then { x with staged := false } else x) = some y := h
  obtain ⟨x, -, rfl⟩ := Option.map_eq_some_iff.mp mapped
  split at hk
  · rw [if_pos ‹_›]
  · exact absurd hk ‹_›

/-! ### A word for the image area (R576) -/

/-- A transfer of one word for the image area has ended. -/
def areaDone (s : State) (offset st : Nat) : State := onMbx s fun m => { mbxEnded m st with addr := wordOf offset }

theorem imageAreaWrite_lands (ha : aonUp s = true) (hb : mbxBusy s = false) (hr : s.hl.restarting = false) {x : ImgSession}
    (hx : s.hl.session = some x) (h0 : x.session = 0) (hfit : x.bytes.length + 8 ≤ x.length) (w : Word) :
    imageAreaWrite (0x1000000 + x.bytes.length) w s =
      onMbx (areaDone (setSession s { x with bytes := x.bytes ++ leBytes 8 w.toNat, staged := false }) (0x1000000 + x.bytes.length) stOK)
        fun m => { m with addr := wordOf (0x1000000 + x.bytes.length + 8) } := by
  have land : landImageWord s (0x1000000 + x.bytes.length) w =
      some (setSession s { x with bytes := x.bytes ++ leBytes 8 w.toNat, staged := false }) := by
    rw [landImageWord, hx]
    exact if_neg (by simp [h0, Nat.not_lt.mpr hfit])
  rw [imageAreaWrite, if_neg (by simp [ha, hb, hr])]
  dsimp only
  rw [if_neg (by omega), land]
  rfl

theorem imageAreaWrite_refused (ha : aonUp s = true) (hb : mbxBusy s = false) (hr : s.hl.restarting = false) {x : ImgSession} {o : Nat}
    (h : s.hl.session = none ∨ s.hl.session = some x ∧ o ≠ 0x1000000 + x.bytes.length) (w : Word) :
    imageAreaWrite o w s = areaDone s o stInvalid := by
  have land : landImageWord s o w = none := by
    rw [landImageWord]
    rcases h with h | ⟨h, hne⟩
    · rw [h]
    · rw [h]
      exact if_pos (by simp [hne])
  rw [imageAreaWrite, if_neg (by simp [ha, hb, hr])]
  dsimp only
  rw [land]
  exact ite_self _

end

/-! ### Signed requests (R577, R578) -/

/-- The signature of a request is as it must be: the owner's, or blank without an owner. -/
def SignedAt (s : State) (req : RequestWords) (k : Nat) : Prop :=
  if owned s = true then sigOk s req k = true else sigBlank req k = true

section
variable {s : State} {req : RequestWords} {k : Nat}

theorem signedAt_formed (h : SignedAt s req k) : (!owned s && !sigBlank req k) = false := by
  unfold SignedAt at h
  split at h <;> simp [*]

theorem signedAt_verifies (h : SignedAt s req k) : (owned s && !sigOk s req k) = false := by
  unfold SignedAt at h
  split at h <;> simp [*]

theorem ownedOrBlank_formed (h : owned s = true ∨ sigBlank req k = true) : (!owned s && !sigBlank req k) = false := by
  rcases h with h | h <;> simp [h]

theorem signedRefusal_none (hs : SignedAt s req k) (hu : s.hl.sec.unsealed = false) (hp : s.hl.sec.presOpen = true) :
    signedRefusal req k false s = none := by
  simp only [signedRefusal, signedAt_formed hs, signedAt_verifies hs, hu, hp]
  rfl

theorem signedRefusal_unsigned (ho : owned s = true) (hsig : sigOk s req k = false) (hu : s.hl.sec.unsealed = false)
    (hp : s.hl.sec.presOpen = true) (b : Bool) : signedRefusal req k b s = some stDenied := by
  simp only [signedRefusal, ho, hsig, hu, hp]
  rfl

theorem signedRefusal_unsealed (h : owned s = true ∨ sigBlank req k = true) (hu : s.hl.sec.unsealed = true) (b : Bool) :
    signedRefusal req k b s = some stUnsealed := by
  simp only [signedRefusal, ownedOrBlank_formed h, hu]
  rfl

end

/-- After a signed request a new CHALLENGE stands, when an owner is installed; nothing else changes. -/
theorem afterSigned_keeps (b : Bool) (r : State × Nat) : (afterSigned b r).2 = r.2 ∧ (afterSigned b r).1.nd = r.1.nd ∧
    (afterSigned b r).1.pending = r.1.pending ∧ (afterSigned b r).1.hl.flash = r.1.hl.flash ∧
    (afterSigned b r).1.hl.session = r.1.hl.session ∧ (afterSigned b r).1.hl.mbx = r.1.hl.mbx ∧
    (afterSigned b r).1.hl.sec = { r.1.hl.sec with
      challenge := (afterSigned b r).1.hl.sec.challenge, challenges := (afterSigned b r).1.hl.sec.challenges } ∧
    (b = true → (afterSigned b r).1.hl.sec.challenge = Config.challenge r.1.hl.sec.challenges) := by
  cases b with
  | true => exact ⟨rfl, rfl, rfl, rfl, rfl, rfl, rfl, fun _ => rfl⟩
  | false => exact ⟨rfl, rfl, rfl, rfl, rfl, rfl, rfl, fun h => nomatch h⟩

/-- What the end of the Unsealed state leaves, and that it ends with a closed loop. -/
theorem endUnsealed_keeps (v : State) : (endUnsealed v).pending = v.pending ∧ (endUnsealed v).nd.mem = v.nd.mem ∧
    (endUnsealed v).nd.ctxs = v.nd.ctxs ∧ (endUnsealed v).hl = { v.hl with sec := { v.hl.sec with
      unsealed := (endUnsealed v).hl.sec.unsealed, sealOpens := (endUnsealed v).hl.sec.sealOpens } } ∧
    ((v.hl.sec.unsealed = true → v.hl.sec.sealOk = true) → (endUnsealed v).hl.sec.unsealed = false) := by
  unfold endUnsealed
  split
  case isTrue h =>
    obtain ⟨-, hmem, hctxs, hhl, hpending⟩ :=
      logSecurity_keeps (onSec v fun x => { x with unsealed := false, sealOpens := 0 }) { sev := sevNotice, code := 0x704 }
    rw [hhl]
    exact ⟨hpending, hmem, hctxs, rfl, fun _ => rfl⟩
  case isFalse h =>
    refine ⟨rfl, rfl, rfl, rfl, fun hs => ?_⟩
    by_contra hu
    have hu := eq_true_of_ne_false hu
    exact h (by rw [hu, hs hu]; rfl)

/-! ### OWNER_SET, BIND_SET and DEBUG_UNLOCK (R588, R590, R591) -/

/-- The owner's keys installed. -/
def ownerInstalled (s : State) (req : RequestWords) (k : Bytes) : State :=
  onSec s fun x => { x with
    ownerPub := wordsToBytes ((req.drop 1).take 4), storageKey := k, wrapped := kwWrap (secretKey "SX96-OWN") k }

section
variable {s : State} {req : RequestWords}

theorem runOwnerSet_installs (hs : SignedAt s req 14) (hu : s.hl.sec.unsealed = true → s.hl.sec.sealOk = true)
    (hp : s.hl.sec.presOpen = true) {k : Bytes} (hk : ownerKey s req = some k) :
    runOwnerSet req s = afterSigned (owned s) (endUnsealed (ownerInstalled s req k), stOK) := by
  have closed : (s.hl.sec.unsealed && !s.hl.sec.sealOk) = false := by
    cases h : s.hl.sec.unsealed with
    | true => rw [hu h]; rfl
    | false => rfl
  simp only [runOwnerSet, hk, signedAt_formed hs, signedAt_verifies hs, closed, hp]
  rfl

theorem runOwnerSet_unattended (hs : owned s = true ∨ sigBlank req 14 = true) (hu : s.hl.sec.unsealed = false)
    (hp : s.hl.sec.presOpen = false) : runOwnerSet req s = afterSigned (owned s) (s, stPresence) := by
  simp only [runOwnerSet, ownedOrBlank_formed hs, hu, hp]
  rfl

theorem runBindSet_sets (h : signedRefusal req 2 false s = none) : runBindSet req s =
    afterSigned (owned s) (onSec s fun x => { x with requireBind := bitOf (wordAt req 1) 0 }, stOK) := by
  rw [runBindSet, h]

theorem runBindSet_refused {st : Nat} (h : signedRefusal req 2 false s = some st) :
    runBindSet req s = afterSigned (owned s) (s, st) := by
  rw [runBindSet, h]

theorem runDebugUnlock_opens (h : signedRefusal req 1 false s = none) (h2 : 2 ≤ s.nd.power.state) :
    runDebugUnlock req s = afterSigned (owned s) (onSec s fun x => { x with debugOpen := true }, stOK) := by
  rw [runDebugUnlock, decide_eq_false (Nat.not_lt.mpr h2), h]

theorem runDebugUnlock_refused {st : Nat} (h : signedRefusal req 1 (decide (s.nd.power.state < 2)) s = some st) :
    runDebugUnlock req s = afterSigned (owned s) (s, st) := by
  rw [runDebugUnlock, h]

end

/-- A signed request ends with its status, and with a new CHALLENGE when an owner is installed. -/
theorem afterSigned_ends {s u : State} (h : RunKeeps s u) (hf : u.hl.flash = s.hl.flash) (hs : u.hl.session = s.hl.session)
    (hc : u.hl.sec.challenges = s.hl.sec.challenges) (b : Bool) (rop : Nat) {st : Nat} (hst : st < 256) :
    let t := requestDone (afterSigned b (u, st)).1 rop st
    RequestOnly s t rop st ∧ t.hl.sec = { u.hl.sec with
      challenge := t.hl.sec.challenge, challenges := t.hl.sec.challenges, lastRop := rop, lastStatus := st } ∧
    (b = true → t.hl.sec.challenge = Config.challenge s.hl.sec.challenges) := by
  obtain ⟨-, nd, pending, flash, session, mbx, sec, drawn⟩ := afterSigned_keeps b (u, st)
  have kept : RunKeeps s (afterSigned b (u, st)).1 :=
    ⟨by rw [mbx]; exact h.waits, pending.trans h.pending, by rw [nd]; exact h.mem, by rw [nd]; exact h.ctxs, by rw [sec]; exact h.fuses⟩
  have done := requestDone_sec kept rop st
  refine ⟨requestOnly_done kept (flash.trans hf) (session.trans hs) rop hst, ?_, fun hb => ?_⟩
  · rw [done, sec]
  · rw [done, ← hc]
    exact drawn hb

end Sys2Proof.HalordService
end

section
/-! The security requests of the mailbox, settled (O50). -/

namespace Sys2Proof.HalordService

open Sys2Proof.Machine Sys2Proof.Safety Sys2Proof.Organisation Sys2Proof.FaultHandling

section
variable {s : State} {req : RequestWords} {rop st : Nat} {i : Instr} {u : State} {P : State → Prop}

/-- A well-formed request that requests are taken for, by its ROP. -/
def RunsAs (s : State) (req : RequestWords) (rop : Nat) : Prop := TakesRequests s ∧ ropOf req = rop ∧ requestOk req = true

/-- What holds of the state in which a row's request ends holds of the row. -/
theorem runs_row (hi : (i, rop) ∈ requestRows req) (hrop : ropOf req = rop) (hopen : rop = 1 → i = openRow req)
    (h : P (submitAs true req s)) : Runs i s P := by
  obtain ⟨ok, hrow, -, hok⟩ := requestRows_submit req (i, rop) hi s
  rw [hok hrop hopen] at hrow
  exact ⟨_, hrow, h⟩

/-- The same of a request that the module runs for itself. -/
theorem runs_own (his : RunsAs s req rop) (hi : (i, rop) ∈ requestRows req) (hopen : rop = 1 → i = openRow req)
    (hown : rop ≠ 3 ∧ rop ≠ 5 ∧ rop ≠ 20) (hrun : ownByRop rop req (requestBegun s req) = (u, st))
    (h : P (requestDone u (ropOf req) st)) : Runs i s P := by
  obtain ⟨hup, hrop, hok⟩ := his
  refine runs_row hi hrop hopen ?_
  rw [submitAs_own hup hrop hown hok, hrun, ← hrop]
  exact h

/-- The same of a signed one. -/
theorem runs_signed (his : RunsAs s req rop) (hi : (i, rop) ∈ requestRows req) (hopen : rop = 1 → i = openRow req)
    (hown : rop ≠ 3 ∧ rop ≠ 5 ∧ rop ≠ 20) (hrun : ownByRop rop req (requestBegun s req) = afterSigned (owned s) (u, st))
    (h : P (requestDone (afterSigned (owned s) (u, st)).1 (ropOf req) st)) : Runs i s P := by
  obtain ⟨status, -⟩ := afterSigned_keeps (owned s) (u, st)
  generalize afterSigned (owned s) (u, st) = r at hrun h status
  exact runs_own his hi hopen hown (hrun.trans (show r = (r.1, st) from Prod.ext rfl status)) h

/-- A request that is refused as it runs leaves Halord as it was. -/
theorem runs_refused (his : RunsAs s req rop) (hi : (i, rop) ∈ requestRows req) (hopen : rop = 1 → i = openRow req)
    (hown : rop ≠ 3 ∧ rop ≠ 5 ∧ rop ≠ 20) (hst : st < 256) (hrun : ownByRop rop req (requestBegun s req) = (requestBegun s req, st)) :
    Runs i s fun t => RequestOnly s t (ropOf req) st ∧ t.hl.sec = { s.hl.sec with lastRop := ropOf req, lastStatus := st } :=
  runs_own his hi hopen hown hrun (requestDone_begun s req (ropOf req) hst)

end

/-- A signed request that is refused changes nothing but CHALLENGE. -/
theorem refusedSigned (s : State) (req : RequestWords) {st : Nat} (hst : st < 256) :
    let t := requestDone (afterSigned (owned s) (requestBegun s req, st)).1 (ropOf req) st
    RequestOnly s t (ropOf req) st ∧ t.hl.sec = { s.hl.sec with
      challenge := t.hl.sec.challenge, challenges := t.hl.sec.challenges, lastRop := ropOf req, lastStatus := st } ∧
    (owned s = true → t.hl.sec.challenge = Config.challenge s.hl.sec.challenges) :=
  afterSigned_ends (runKeeps_begun s req) rfl rfl rfl (owned s) (ropOf req) hst

/-- Both Almanac copies are erased with the owner gone. -/
theorem memGet_ownerGone (s : State) {i : Nat} (hlo : almBase 0 ≤ i) (hhi : i < almBase 1 + 0x40000) :
    memGet 0xFF (ownerGone s).hl.flash i = 0xFF := by
  rw [almBase] at hlo hhi
  rw [ownerGone, flashErase, memGet_clear, flashErase, memGet_clear, almBase, almBase]
  split
  · rfl
  · rw [if_pos (by omega)]

theorem logSecurity_next (s : State) (e : Event) : (logSecurity s e).nd.log.next = s.nd.log.next + 1 := by
  have next : (logEvent s.nd e).log.next = s.nd.log.next + 1 := by unfold logEvent; dsimp only; split <;> rfl
  unfold logSecurity
  dsimp only
  split
  · obtain ⟨alert, h⟩ := raiseAlert_log (logEvent s.nd e) alSecurity
    rw [alertIn_nd, logIn_nd, h]
    exact next
  · exact next

end Sys2Proof.HalordService

open Sys2Proof Sys2Proof.Machine Sys2Proof.Safety Sys2Proof.FaultHandling Sys2Proof.HalordService

/-- Settles O50, request by request. That ATTEST is DENIED before the identity is derived, and that CHALLENGE is drawn anew while an owner
is installed, are the model's choices (log entry 90). -/
theorem securityRequestsRun : Obligations.SecurityRequestsRun := by
  intro req x k s
  refine ⟨fun e he hne => ?rows, fun e he hrop hopen ha hb => ?busy, fun e he hrop h1 h5 hup hbad => ?malformed,
    fun h hk hlo hhi => ?openFw, fun h hk hlen => ?openFwUnfit, fun h hk hlo hhi hu => ?openAlm, fun h hk hlo hhi hu => ?openAlmUnsealed,
    fun w ha hb hr hx h0 hfit => ?word, fun o w ha hb hr hno => ?noWord, fun h hx => ?stageNone, fun h hx h0 hk hv => ?stageFw,
    fun st hst hne h hx h0 hk hv => ?stageFails, fun h hx h0 hk hv => ?stageAlm, fun h => ?unstage, fun h hd => ?attestDenied,
    fun h hc hid => ?attest, fun h => ?presClose, fun h hs hu hp hk => ?ownerSet, fun h hs hu hp => ?ownerPresence,
    fun h hm => ?bindSet, fun h ho hs hu hp => ?bindDenied, fun h hm h2 => ?unlock, fun h hs hu => ?unlockUnsealed,
    fun h hp => ?resetPresence, fun h hp => ?reset⟩
  case rows =>
    obtain ⟨ok, hrow, hok, -⟩ := requestRows_submit req e he s
    rw [eq_false_of_ne_true fun h => hne (hok h), submitAs_no] at hrow
    exact ⟨s, hrow, rfl⟩
  case busy => exact runs_row he hrop hopen (submitAs_busy ha hb req)
  case malformed =>
    refine runs_row he hrop (fun h => absurd h h1) ?_
    rw [submitAs_malformed hup (hrop ▸ h5) hbad]
    exact requestDone_begun s req _ (by decide)
  case openFw =>
    have kept : RunKeeps s (setSession (slotErased (requestBegun s req)) (freshSession 0 (fieldOf (wordAt req 1) 31 0) 0 0 0 false)) :=
      ⟨rfl, rfl, rfl, rfl, rfl⟩
    refine runs_own h (by simp [requestRows]) (fun _ => (if_pos hk).symm) (by decide)
      ((runImgOpen_opens (s := requestBegun s req) hk (by simpa using ⟨hlo, hhi⟩) (fun h => nomatch h)).trans
        (by rw [openSession_firmware rfl])) ?_
    refine ⟨requestEnds_done kept _ (by decide), requestDone_session kept _ _, by rw [requestDone_sec kept]; rfl, fun i hlo hhi => ?_⟩
    rw [requestDone_flash kept]
    exact memGet_erased _ ⟨hlo, hhi⟩
  case openFwUnfit =>
    exact runs_refused h (by simp [requestRows]) (fun _ => (if_pos hk).symm) (by decide) (by decide) (runImgOpen_firmware_unfit hk hlen)
  case openAlm =>
    have kept : RunKeeps s (setSession (requestBegun s req) (freshSession 1 (fieldOf (wordAt req 1) 31 0) 0 0 0 false)) :=
      ⟨rfl, rfl, rfl, rfl, rfl⟩
    refine runs_own h (by simp [requestRows]) (fun _ => (if_neg (by rw [hk]; decide)).symm) (by decide)
      ((runImgOpen_opens (s := requestBegun s req) hk (by simpa using ⟨hlo, hhi⟩) (fun _ => hu)).trans
        (by rw [openSession_almanac Nat.one_ne_zero])) ?_
    exact ⟨requestEnds_done kept _ (by decide), requestDone_session kept _ _, requestDone_flash kept _ _⟩
  case openAlmUnsealed =>
    exact runs_refused h (by simp [requestRows]) (fun _ => (if_neg (by rw [hk]; decide)).symm) (by decide) (by decide)
      (runImgOpen_almanac_unsealed hk ⟨hlo, hhi⟩ hu)
  case word =>
    refine ⟨_, congrArg Host.Outcome.next (imageAreaWrite_lands ha hb hr hx h0 hfit w), rfl, ?_, rfl, rfl, rfl⟩
    exact (mbxEnded_stat _ (by decide)).2.2
  case noWord =>
    exact ⟨_, congrArg Host.Outcome.next (imageAreaWrite_refused ha hb hr hno w), rfl, (mbxEnded_stat _ (by decide)).2.2, rfl, rfl⟩
  case stageNone =>
    exact runs_refused h (by simp [requestRows]) (fun h => nomatch h) (by decide) (by decide) (runImgStage_none hx)
  case stageFw =>
    obtain ⟨hnd, hpending, hmbx⟩ := imageMarked_keeps (s := requestBegun s req) x
    obtain ⟨y, hy, hstaged, hbytes⟩ := imageMarked_session (s := requestBegun s req) x
    have hsec := imageMarked_sec (s := requestBegun s req) x
    obtain ⟨-, lmem, lctxs, lhl, lpending⟩ := logSecurity_keeps (imageMarked (requestBegun s req) x)
      { sev := sevNotice, code := 0x720, data0 := imageVersion (sessionImage x) }
    have lnext := logSecurity_next (imageMarked (requestBegun s req) x)
      { sev := sevNotice, code := 0x720, data0 := imageVersion (sessionImage x) }
    have run := (runImgStage_session (s := requestBegun s req) hx h0).trans (stageSession_firmware (s := requestBegun s req) hk hv)
    generalize logSecurity (imageMarked (requestBegun s req) x) _ = u at lmem lctxs lhl lpending lnext run
    have kept : RunKeeps s u := ⟨by rw [lhl, hmbx]; rfl, by rw [lpending, hpending]; rfl, by rw [lmem, hnd]; rfl,
      by rw [lctxs, hnd]; rfl, by rw [lhl, hsec]; rfl⟩
    refine runs_own h (by simp [requestRows]) (fun h => nomatch h) (by decide) run ?_
    refine ⟨requestEnds_done kept _ (by decide), by rw [requestDone_sec kept, lhl, hsec], y, ?_, hstaged, hbytes, ?_⟩
    · rw [requestDone_session kept, lhl, hy]
    · rw [requestDone_last kept, lnext, hnd]
      rfl
  case stageFails =>
    exact runs_refused h (by simp [requestRows]) (fun h => nomatch h) (by decide) hst
      ((runImgStage_session (s := requestBegun s req) hx h0).trans (stageSession_fails hk hne hv))
  case stageAlm =>
    obtain ⟨hnd, hpending, hmbx, hsec⟩ := almanacWritten_keeps (s := requestBegun s req) x
    have run : runImgStage (requestBegun s req) =
        (setSession (almanacWritten (requestBegun s req) x) { x with staged := true }, stOK) :=
      (runImgStage_session (s := requestBegun s req) hx h0).trans ((if_neg (by rw [hk]; decide)).trans (stageAlmanac_passes hv))
    generalize almanacWritten (requestBegun s req) x = u at hnd hpending hmbx hsec run
    have kept : RunKeeps s (setSession u { x with staged := true }) :=
      ⟨congrArg Mailbox.waits hmbx, hpending, (congrArg Node.mem hnd :), (congrArg Node.ctxs hnd :), (congrArg Security.fuses hsec :)⟩
    refine runs_own h (by simp [requestRows]) (fun h => nomatch h) (by decide) run ?_
    exact ⟨requestEnds_done kept _ (by decide), requestDone_session kept _ _, (requestDone_alm kept _ _).trans (congrArg Node.alm hnd :)⟩
  case unstage =>
    have kept : RunKeeps s (imageUnmarked (requestBegun s req)) := ⟨rfl, rfl, rfl, rfl, rfl⟩
    refine runs_own h (by simp [requestRows]) (fun h => nomatch h) (by decide) runImgUnstage_eq ?_
    refine ⟨requestEnds_done kept _ (by decide), by rw [requestDone_sec kept]; rfl, fun y hy hk => ?_⟩
    rw [requestDone_session kept] at hy
    exact imageUnmarked_session hy hk
  case attestDenied =>
    refine runs_refused h (by simp [requestRows]) (fun h => nomatch h) (by decide) (by decide)
      ((if_pos ?_ : runAttest req (requestBegun s req) = _))
    rcases hd with hd | hd <;> simp [requestBegun, onMbx, hd]
  case attest =>
    have kept : RunKeeps s (onSec (requestBegun s req) fun c => { c with report := attestReport s (wordsToBytes (req.drop 1)) }) :=
      ⟨rfl, rfl, rfl, rfl, rfl⟩
    refine runs_own h (by simp [requestRows]) (fun h => nomatch h) (by decide)
      ((if_neg (by simp [requestBegun, onMbx, hc, hid]) : runAttest req (requestBegun s req) = _)) ?_
    exact ⟨requestOnly_done kept rfl rfl _ (by decide), requestDone_sec kept _ _⟩
  case presClose =>
    obtain ⟨hhl, hpending, hmem, hctxs⟩ := closePresence_keeps (requestBegun s req)
    have kept : RunKeeps s (closePresence (requestBegun s req)) := ⟨by rw [hhl]; rfl, hpending, hmem, hctxs, by rw [hhl]; rfl⟩
    refine runs_own h (by simp [requestRows]) (fun h => nomatch h) (by decide) rfl ?_
    exact ⟨requestOnly_done kept (by rw [hhl]; rfl) (by rw [hhl]; rfl) _ (by decide), by rw [requestDone_sec kept, hhl]; rfl⟩
  case ownerSet =>
    obtain ⟨hpending, hmem, hctxs, hhl, ends⟩ := endUnsealed_keeps (ownerInstalled (requestBegun s req) req k)
    have run := runOwnerSet_installs (s := requestBegun s req) hs hu hp hk
    generalize endUnsealed (ownerInstalled (requestBegun s req) req k) = u at hpending hmem hctxs hhl ends run
    have kept : RunKeeps s u := ⟨by rw [hhl]; rfl, hpending, hmem, hctxs, by rw [hhl]; rfl⟩
    obtain ⟨only, sec, drawn⟩ := afterSigned_ends kept (by rw [hhl]; rfl) (by rw [hhl]; rfl) (by rw [hhl]; rfl) (owned s) (ropOf req)
      (st := stOK) (by decide)
    refine runs_signed h (by simp [requestRows]) (fun h => nomatch h) (by decide) run ⟨only, ?_, ?_, ?_, ?_, drawn⟩
    · rw [sec, hhl]; rfl
    · rw [sec, hhl]; rfl
    · rw [sec, hhl]; rfl
    · rw [sec]; exact ends hu
  case ownerPresence =>
    obtain ⟨only, sec, drawn⟩ := refusedSigned s req (st := stPresence) (by decide)
    exact runs_signed h (by simp [requestRows]) (fun h => nomatch h) (by decide) (runOwnerSet_unattended hs hu hp)
      ⟨only, by rw [sec], drawn⟩
  case bindSet =>
    obtain ⟨hs, hu, hp⟩ := hm
    have kept : RunKeeps s (onSec (requestBegun s req) fun x => { x with requireBind := bitOf (wordAt req 1) 0 }) :=
      ⟨rfl, rfl, rfl, rfl, rfl⟩
    obtain ⟨only, sec, drawn⟩ := afterSigned_ends kept rfl rfl rfl (owned s) (ropOf req) (st := stOK) (by decide)
    exact runs_signed h (by simp [requestRows]) (fun h => nomatch h) (by decide)
      (runBindSet_sets (s := requestBegun s req) (signedRefusal_none hs hu hp)) ⟨only, by rw [sec]; rfl, drawn⟩
  case bindDenied =>
    obtain ⟨only, sec, drawn⟩ := refusedSigned s req (st := stDenied) (by decide)
    exact runs_signed h (by simp [requestRows]) (fun h => nomatch h) (by decide)
      (runBindSet_refused (s := requestBegun s req) (signedRefusal_unsigned ho hs hu hp _)) ⟨only, by rw [sec], drawn⟩
  case unlock =>
    obtain ⟨hs, hu, hp⟩ := hm
    have kept : RunKeeps s (onSec (requestBegun s req) fun x => { x with debugOpen := true }) := ⟨rfl, rfl, rfl, rfl, rfl⟩
    obtain ⟨only, sec, drawn⟩ := afterSigned_ends kept rfl rfl rfl (owned s) (ropOf req) (st := stOK) (by decide)
    exact runs_signed h (by simp [requestRows]) (fun h => nomatch h) (by decide)
      (runDebugUnlock_opens (s := requestBegun s req) (signedRefusal_none hs hu hp) h2) ⟨only, by rw [sec]; rfl, drawn⟩
  case unlockUnsealed =>
    obtain ⟨only, sec, drawn⟩ := refusedSigned s req (st := stUnsealed) (by decide)
    exact runs_signed h (by simp [requestRows]) (fun h => nomatch h) (by decide)
      (runDebugUnlock_refused (s := requestBegun s req) (signedRefusal_unsealed hs hu _)) ⟨only, by rw [sec], drawn⟩
  case resetPresence =>
    have run : runFactoryReset (requestBegun s req) = (requestBegun s req, stPresence) :=
      if_pos (by rw [show (requestBegun s req).hl.sec.presOpen = false from hp]; rfl)
    exact runs_refused h (by simp [requestRows]) (fun h => nomatch h) (by decide) (by decide) run
  case reset =>
    obtain ⟨hpending, hmem, hctxs, hhl, -⟩ := endUnsealed_keeps (ownerGone (requestBegun s req))
    have run : runFactoryReset (requestBegun s req) = (endUnsealed (ownerGone (requestBegun s req)), stOK) :=
      (runFactoryReset_eq _).trans (if_neg (by rw [show (requestBegun s req).hl.sec.presOpen = true from hp]; decide))
    generalize endUnsealed (ownerGone (requestBegun s req)) = u at hpending hmem hctxs hhl run
    have kept : RunKeeps s u := ⟨by rw [hhl]; rfl, hpending, hmem, hctxs, by rw [hhl]; rfl⟩
    have flash : (requestDone u (ropOf req) stOK).hl.flash = (ownerGone (requestBegun s req)).hl.flash :=
      (requestDone_flash kept _ _).trans (by rw [hhl])
    refine runs_own h (by simp [requestRows]) (fun h => nomatch h) (by decide) run ⟨requestEnds_done kept _ (by decide), ?_, ?_, ?_, ?_,
      fun i hlo hhi => ?_, fun i hlo hhi => ?_⟩
    · rw [requestDone_sec kept, hhl]; rfl
    · rw [requestDone_sec kept, hhl]; rfl
    · rw [requestDone_sec kept, hhl]; rfl
    · rw [requestDone_sec kept, hhl]; rfl
    · rw [flash]
      exact memGet_ownerGone _ hlo (by rw [almBase] at *; omega)
    · rw [flash]
      exact memGet_ownerGone _ (by rw [almBase] at *; omega) (by rw [almBase] at *; omega)
end

section
/-! The head sends images and requests (O51). -/

namespace Sys2Proof.HalordService

open Sys2Proof.Machine Sys2Proof.Safety Sys2Proof.Organisation

/-! ### Chunks of a push (R582) -/

/-- Sending chunks changes the push and what has been sent. -/
theorem pushSend_only (k : Nat) (s : State) : pushSend k s =
    { s with nd := { s.nd with out := (pushSend k s).nd.out }, hl := { s.hl with push := (pushSend k s).hl.push } } := by
  induction k generalizing s with
  | zero => rfl
  | succ k ih =>
    unfold pushSend
    split
    · rfl
    · split
      · rfl
      · dsimp only
        rw [ih]
        rfl

/-- With no IMG_HOLD, up to `k` more chunks go out. -/
theorem pushSend_sends (k : Nat) {s : State} {p : Push} (hp : s.hl.push = some p) (hh : p.holds = []) (hn : p.next ≤ p.nchunk) :
    (pushSend k s).hl.push = some { p with next := min (p.next + k) p.nchunk } ∧
    (pushSend k s).nd.out.length = s.nd.out.length + min k (p.nchunk - p.next) := by
  induction k generalizing s p with
  | zero =>
    rw [Nat.add_zero, Nat.min_eq_left hn, Nat.zero_min]
    exact ⟨hp, rfl⟩
  | succ k ih =>
    rw [pushSend, hp]
    dsimp only
    by_cases hdone : p.nchunk ≤ p.next
    · rw [if_pos (by simp [hdone]), show min (p.next + (k + 1)) p.nchunk = p.next by omega, Nat.sub_eq_zero_of_le hdone, Nat.min_zero]
      exact ⟨hp, rfl⟩
    · rw [if_neg (by simp [hdone, hh])]
      obtain ⟨push, out⟩ := ih (s := { sendChain s 31 0x11 p.tag 0 (chunkPayload p.session p.image p.next) with
        hl := { s.hl with push := some { p with next := p.next + 1 } } }) (p := { p with next := p.next + 1 }) rfl hh
        (by dsimp only; omega)
      refine ⟨push.trans ?_, out.trans ?_⟩
      · dsimp only
        rw [show p.next + 1 + k = p.next + (k + 1) by omega]
      · show (s.nd.out ++ [_]).length + min k (p.nchunk - (p.next + 1)) = _
        rw [List.length_append, List.length_singleton]
        omega

/-- A push with every chunk sent sends none. -/
theorem pushSend_done (k : Nat) {s : State} {p : Push} (hp : s.hl.push = some p) (h : p.nchunk ≤ p.next) : pushSend k s = s := by
  cases k with
  | zero => rfl
  | succ k =>
    rw [pushSend, hp]
    exact if_pos (by simp [h])

/-! ### A push to others (R582) -/

/-- A mask that is not empty names a target. -/
theorem maskTargets_ne_nil {mask : Nat} (h16 : mask < 2 ^ 16) (h : mask ≠ 0) : maskTargets mask ≠ [] := by
  obtain ⟨k, hk⟩ := Nat.exists_testBit_of_ne_zero h
  have hlt : k < 16 := by
    by_contra hge
    rw [Nat.testBit_lt_two_pow (lt_of_lt_of_le h16 (Nat.pow_le_pow_right (by decide) (by omega)))] at hk
    cases hk
  refine List.ne_nil_of_mem (a := k + 1) (List.mem_filterMap.mpr ⟨k, List.mem_range.mpr hlt, ?_⟩)
  rw [OhmasLink.natField_bit, hk]
  rfl

section
variable {s : State} {targets : Nat} (hothers : ∀ t ∈ maskTargets targets, ownAddr s t = false ∧ canReach s t = true)
include hothers

theorem ownCopied_others (own : State → State × Nat) : ownCopied s targets own = (s, stOK) := by
  refine if_neg fun h => ?_
  obtain ⟨t, ht, hown⟩ := List.any_eq_true.mp h
  rw [(hothers t ht).1] at hown
  cases hown

theorem firstResults_others (st : Nat) : firstResults s targets st = [] := by
  unfold firstResults
  generalize maskTargets targets = l at hothers
  induction l with
  | nil => rfl
  | cons a l ih =>
    obtain ⟨hown, hreach⟩ := hothers a List.mem_cons_self
    rw [List.foldl_cons, hown, hreach]
    exact ih fun t ht => hothers t (List.mem_cons_of_mem _ ht)

end

/-! ### What the head runs over the chain (R577, R582) -/

theorem romOnly_begun (s : State) (req : RequestWords) : romOnly (requestBegun s req) = romOnly s := rfl

section
variable {s : State} {req : RequestWords} (hup : TakesRequests s)
include hup

theorem runRequest_push (h : ropOf req = 3) : runRequest req (requestBegun s req) = runImgPush req (requestBegun s req) := by
  obtain ⟨-, -, hr, hrom⟩ := hup
  have hr' : (requestBegun s req).hl.restarting = false := hr
  simp only [runRequest, hr', romOnly_begun, hrom, h, Bool.false_and, Bool.false_eq_true, if_false, if_true]

theorem runRequest_relay (h : ropOf req = 5) : runRequest req (requestBegun s req) = runRelay req (requestBegun s req) := by
  obtain ⟨-, -, hr, hrom⟩ := hup
  have hr' : (requestBegun s req).hl.restarting = false := hr
  simp only [runRequest, hr', romOnly_begun, hrom, h, Bool.false_and, Bool.false_eq_true, if_false]
  rfl

theorem runRequest_copy (h : ropOf req = 20) : runRequest req (requestBegun s req) = runAlmanacCopy req (requestBegun s req) := by
  obtain ⟨-, -, hr, hrom⟩ := hup
  have hr' : (requestBegun s req).hl.restarting = false := hr
  simp only [runRequest, hr', romOnly_begun, hrom, h, Bool.false_and, Bool.false_eq_true, if_false]
  rfl

/-- A request whose status the chain is to bring leaves its transfer BUSY. -/
theorem submitAs_waits (h : (runRequest req (requestBegun s req)).2 = none) :
    submitAs true req s = (runRequest req (requestBegun s req)).1 := by
  obtain ⟨ha, hb, -, -⟩ := hup
  rw [submitAs, if_pos rfl, submit, if_neg (by rw [ha]; decide), if_neg (by rw [hb]; decide), launch_eq]
  change (match (runRequest req (requestBegun s req)).2 with
    | some st => requestDone (runRequest req (requestBegun s req)).1 (ropOf req) st
    | none => (runRequest req (requestBegun s req)).1) = _
  rw [h]

/-- A request that is answered as it is submitted ends with that status, flash as it was. -/
theorem submitAs_answered {st : Nat} (hst : st < 256) (h : runRequest req (requestBegun s req) = (requestBegun s req, some st)) :
    MbxDone (submitAs true req s).hl.mbx st ∧ (submitAs true req s).hl.flash = s.hl.flash := by
  rw [submitAs_ends hup (by rw [h]), h]
  obtain ⟨⟨⟨hbusy, hdone, hstatus, -⟩, hflash, -⟩, -⟩ := requestDone_begun s req (ropOf req) hst
  exact ⟨⟨hbusy, hdone, hstatus⟩, hflash⟩

end

section
variable {s : State} {req : RequestWords}

theorem runImgPush_none (h : s.hl.session = none) : runImgPush req s = (s, some stInvalid) := by rw [runImgPush, h]

theorem runImgPush_notHead (h : s.nd.power.hostEn = false) : runImgPush req s = (s, some stInvalid) := by
  unfold runImgPush
  split
  · rfl
  · simp only [h, Bool.not_false, Bool.or_true, Bool.true_or, if_true]

/-- A complete Almanac session is pushed to the targets of the request. -/
theorem runImgPush_almanac {x : ImgSession} (hok : requestOk req = true) (hh : s.nd.power.hostEn = true) (hx : s.hl.session = some x)
    (h0 : x.session = 0) (hk : x.kind = 1) (hlen : x.bytes.length = x.length) : runImgPush req s =
      (startPush s 1 x.bytes (fieldOf (wordAt req 1) 15 0) false fun s => stageAlmanac s x, none) := by
  rw [runImgPush, hx]
  dsimp only
  rw [if_neg (by simp [hok, hh, h0, hk, hlen])]
  simp only [hk]
  rfl

theorem runRelay_notHead (h : s.nd.power.hostEn = false) : runRelay req s = (s, some stInvalid) := by
  rw [runRelay, h]
  rfl

theorem runAlmanacCopy_notHead (h : s.nd.power.hostEn = false) : runAlmanacCopy req s = (s, some stInvalid) := by
  rw [runAlmanacCopy, h]
  exact if_pos (by simp)

section
variable (hh : s.nd.power.hostEn = true) (h63 : fieldOf (wordAt req 0) 63 13 = 0) (h16 : fieldOf (wordAt req 0) 12 8 ≤ 16)
  (hr : relayable (ropOf (req.drop 1)) = true) (hok : requestOk (req.drop 1) = true)
include hh h63 h16 hr hok

/-- A well-formed RELAY at the head goes by its target alone. -/
theorem runRelay_formed : runRelay req s =
    if !canReach s (fieldOf (wordAt req 0) 12 8) then (s, some stAborted)
    else if fieldOf (wordAt req 0) 12 8 = 0 || ownAddr s (fieldOf (wordAt req 0) 12 8) then
      ((runOwn (req.drop 1) s).1, some (runOwn (req.drop 1) s).2)
    else (askChain s (fieldOf (wordAt req 0) 12 8) 0x16 (wordsToBytes (req.drop 1)) .relay 0, none) := by
  rw [runRelay]
  exact if_neg (by simp [hh, h63, h16, hr, hok, -List.drop_one])

theorem runRelay_unreached (h : canReach s (fieldOf (wordAt req 0) 12 8) = false) : runRelay req s = (s, some stAborted) := by
  rw [runRelay_formed hh h63 h16 hr hok, if_pos (by rw [h]; rfl)]

theorem runRelay_sends (h : canReach s (fieldOf (wordAt req 0) 12 8) = true) (h0 : fieldOf (wordAt req 0) 12 8 ≠ 0)
    (ho : ownAddr s (fieldOf (wordAt req 0) 12 8) = false) : runRelay req s =
      (askChain s (fieldOf (wordAt req 0) 12 8) 0x16 (wordsToBytes (req.drop 1)) .relay 0, none) := by
  rw [runRelay_formed hh h63 h16 hr hok, if_neg (by rw [h]; decide), if_neg (by simp [h0, ho])]

theorem runRelay_own (h : canReach s (fieldOf (wordAt req 0) 12 8) = true)
    (ho : ownAddr s (fieldOf (wordAt req 0) 12 8) = true) :
    runRelay req s = ((runOwn (req.drop 1) s).1, some (runOwn (req.drop 1) s).2) := by
  rw [runRelay_formed hh h63 h16 hr hok, if_neg (by rw [h]; decide), if_pos (by simp [ho])]

end

section
variable {d : Nat} (hd : d = fieldOf (wordAt req 1) 12 8) (hok : requestOk req = true) (hh : s.nd.power.hostEn = true) (h0 : d ≠ 0)
  (h16 : d ≤ 16)
include hd hok hh h0 h16

theorem runAlmanacCopy_unreached (h : canReach s d = false) : runAlmanacCopy req s = (s, some stAborted) := by
  subst hd
  rw [runAlmanacCopy]
  dsimp only
  rw [if_neg (by simp [hok, hh, h0, h16]), if_pos (by rw [h]; rfl)]

theorem runAlmanacCopy_sends (h : canReach s d = true) (ho : ownAddr s d = false) : runAlmanacCopy req s =
    (askChain s d 0x16 (copyOrderPayload (fieldOf (wordAt req 1) 3 0) d s.hl.chain.nextSession)
      (.copyOrder (fieldOf (wordAt req 1) 3 0)) 0, none) := by
  subst hd
  rw [runAlmanacCopy]
  dsimp only
  rw [if_neg (by simp [hok, hh, h0, h16]), if_neg (by rw [h]; decide), if_neg (by rw [ho]; decide)]

end

end

/-- A transfer that waits for the chain. -/
def TransferWaits (s t : State) : Prop := bitOf t.hl.mbx.stat 0 = true ∧ t.hl.mbx.waits = true ∧ t.hl.flash = s.hl.flash ∧
  t.hl.sec = s.hl.sec ∧ t.nd.mem = s.nd.mem

theorem transferWaits_begun (s : State) (req : RequestWords) : TransferWaits s (requestBegun s req) :=
  ⟨bitOf_putField_same _ _ _ (by decide), rfl, rfl, rfl, rfl⟩

/-- A request asked of the chain: who is asked and why, and the frame sent. -/
theorem askChain_begun (s : State) (req : RequestWords) (dst : Nat) (payload : Bytes) (why : ChainFor) :
    TransferWaits s (askChain (requestBegun s req) dst 0x16 payload why 0) ∧
    (askChain (requestBegun s req) dst 0x16 payload why 0).hl.chain.reqs.map (fun r => (r.dst, r.purpose)) =
      s.hl.chain.reqs.map (fun r => (r.dst, r.purpose)) ++ [(dst, why)] ∧
    (askChain (requestBegun s req) dst 0x16 payload why 0).nd.out =
      s.nd.out ++ [.chain (ownFrame s dst 0x16 s.hl.chain.nextTag 0 payload)] :=
  ⟨transferWaits_begun s req, List.map_append, rfl⟩

/-- A push to others has begun: IMG_BEGIN and up to four chunks are out. -/
theorem startPush_begun (s : State) (req : RequestWords) (image : Bytes) {targets : Nat} (h16 : targets < 2 ^ 16) (hne : targets ≠ 0)
    (hothers : ∀ t ∈ maskTargets targets, ownAddr s t = false ∧ canReach s t = true) (own : State → State × Nat) :
    let t := startPush (requestBegun s req) 1 image targets false own
    TransferWaits s t ∧ ∃ p, t.hl.push = some p ∧ p.session = s.hl.chain.nextSession ∧ p.kind = 1 ∧ p.image = image ∧
      p.targets = targets ∧ p.results = [] ∧ p.next = min 4 p.nchunk ∧ p.nchunk = ceilDiv image.length 240 := by
  have others : ∀ t ∈ maskTargets targets, ownAddr (pushNumbered (requestBegun s req)) t = false ∧
      canReach (pushNumbered (requestBegun s req)) t = true := hothers
  have unheard : ((maskTargets targets).all fun a => (Tbl.find? ([] : Tbl Nat) a).isSome) = false := by
    cases hl : maskTargets targets with
    | nil => exact absurd hl (maskTargets_ne_nil h16 hne)
    | cons a l => rfl
  dsimp only
  rw [startPush_eq, ownCopied_others others, firstResults_others others, runPush, if_neg]
  · generalize hp : newPush (requestBegun s req) 1 image targets false [] = p
    have only := pushSend_only pushWindow (sendBegin (withPush (pushNumbered (requestBegun s req)) (some p)) p)
    obtain ⟨push, -⟩ := pushSend_sends pushWindow (s := sendBegin (withPush (pushNumbered (requestBegun s req)) (some p)) p) (p := p) rfl
      (by rw [← hp]; rfl) (by rw [← hp]; exact Nat.zero_le _)
    refine ⟨by rw [only]; exact transferWaits_begun s req, _, push, ?_⟩
    subst hp
    exact ⟨rfl, rfl, rfl, rfl, rfl, congrArg (min · _) (Nat.zero_add 4), rfl⟩
  · show ¬((maskTargets targets).all fun a => (Tbl.find? ([] : Tbl Nat) a).isSome) = true
    rw [unheard]
    decide

end Sys2Proof.HalordService
end

section
/-! Frames of images and requests at the modules they reach (O51). -/

namespace Sys2Proof.HalordService

open Sys2Proof.Machine Sys2Proof.Safety Sys2Proof.Organisation Sys2Proof.FaultHandling

/-- A frame to all modules is consumed by each, and passed on unless it is the head's own return (R582). -/
theorem chainReceive_all {s : State} {bytes : Bytes} {f : ChainFrame} {type : Nat} {use : ChainFrame → State → State}
    {bad : State → State} (ha : aonUp s = true) (hr : romOnly s = false) (hd : chainDecode bytes = some f) (ht : f.type = type)
    (h31 : f.dst = 31) : chainReceive s bytes type use bad = use f (frameCounted s) ∨
      chainReceive s bytes type use bad = use f (putFrame (frameCounted s) bytes) := by
  have hrom : romOnly (countHalord (rxLocked s) 0) = false := hr
  simp only [chainReceive, ha, hd, ht, hrom, h31, ne_eq, not_true_eq_false, Bool.not_true, Bool.false_eq_true, if_false, if_true]
  split
  · exact .inl rfl
  · split
    · exact .inl rfl
    · exact .inr rfl

/-- What a frame of an image leaves: the queue, the data plane and security. -/
def FrameKeeps (s t : State) : Prop := t.pending = s.pending ∧ t.nd.mem = s.nd.mem ∧ t.nd.ctxs = s.nd.ctxs ∧ t.hl.sec = s.hl.sec

/-! ### A target's session (R582) -/

/-- A session that is not whole goes on. -/
theorem finishSession_short {s : State} {x : ImgSession} (hx : s.hl.session = some x) (hlt : x.bytes.length < x.length) :
    finishSession s = s := by
  rw [finishSession, hx]
  exact if_pos (by simp [hlt])

/-- The mailbox's own session is finished by IMG_STAGE alone. -/
theorem finishSession_mailbox {s : State} {x : ImgSession} (hx : s.hl.session = some x) (h0 : x.session = 0) : finishSession s = s := by
  rw [finishSession, hx]
  exact if_pos (by simp [h0])

theorem beginTarget_opens {s : State} {f : ChainFrame} (hsrc : ownAddr s f.src = false)
    (hmine : (maskTargets (numAt f.payload 6 2)).any (ownAddr s) = true) (hk : numAt f.payload 4 1 = 1) (hlen : numAt f.payload 8 4 ≠ 0)
    (hx : s.hl.session = none) : beginTarget f s =
      setSession s (freshSession 1 (numAt f.payload 8 4) (numAt f.payload 0 4) (numAt f.payload 12 4) (numAt f.payload 6 2) false) := by
  rw [beginTarget]
  simp only [hsrc, hmine, hk, hx, Bool.false_eq_true, if_false, Bool.not_true, Nat.lt_irrefl, decide_false, Bool.or_false]
  rw [openSession_almanac Nat.one_ne_zero]
  exact finishSession_short rfl (Nat.pos_of_ne_zero hlen)

/-- A chunk beyond the contiguous part is held. -/
theorem absorb_ahead {x : ImgSession} {i : Nat} {d : Bytes} (h : x.bytes.length < 240 * i) (k : Nat) :
    absorb k { x with chunks := [(i, d)] } = { x with chunks := [(i, d)] } := by
  cases k with
  | zero => rfl
  | succ k =>
    have missing : Tbl.find? [(i, d)] (x.bytes.length / 240) = none := if_neg (by omega)
    rw [absorb]
    dsimp only
    split
    · rfl
    · rw [missing]

theorem sliceOf_length (bs : Bytes) (o n : Nat) : (sliceOf bs o n).length = n := by
  simp [sliceOf]

/-- A chunk that finds its session, and does not fill it, is kept there and nothing is asked for. -/
theorem chunkArrives_held {s : State} {f : ChainFrame} {x : ImgSession} (h31 : f.dst ≠ 31) (hsrc : ownAddr s f.src = false)
    (howed : s.hl.chain.owed = []) (hx : s.hl.session = some x) (hs : x.session = numAt f.payload 0 4)
    (hi : numAt f.payload 4 4 < x.nchunk) (hnew : holdsChunk x (numAt f.payload 4 4) = false) (hh : x.holding = false)
    (hres : x.result = none) (hc : x.chunks = []) (hahead : x.bytes.length < 240 * numAt f.payload 4 4)
    (hroom : x.bytes.length + numAt f.payload 8 2 < x.programmed + 2 ^ 21) (hlt : x.bytes.length < x.length) : chunkArrives f s =
      setSession s { x with chunks := [(numAt f.payload 4 4, sliceOf f.payload 16 (numAt f.payload 8 2))] } := by
  generalize hd : sliceOf f.payload 16 (numAt f.payload 8 2) = d
  have size : d.length = numAt f.payload 8 2 := hd ▸ sliceOf_length _ _ _
  have free : unwritten { x with chunks := [(numAt f.payload 4 4, d)] } < 2 ^ 21 := by
    show x.bytes.length + (0 + d.length) - x.programmed < 2 ^ 21
    omega
  have toAll : (f.dst == 31) = false := beq_eq_false_iff_ne.mpr h31
  have taken : takeChunk s x false (numAt f.payload 4 4) d =
      finishSession (setSession s { x with chunks := [(numAt f.payload 4 4, d)] }) := by
    have paced : paceSession s { x with chunks := [(numAt f.payload 4 4, d)] } =
        setSession s { x with chunks := [(numAt f.payload 4 4, d)] } := by
      rw [paceSession]
      rw [if_neg (by simp only [Bool.and_eq_true, decide_eq_true_eq]; omega), if_neg (by rw [hh]; exact Bool.false_ne_true)]
    rw [takeChunk]
    simp only [hnew, hc, Bool.not_false, Bool.false_eq_true, if_true, if_false]
    rw [show Tbl.put ([] : Tbl Bytes) (numAt f.payload 4 4) d = [(numAt f.payload 4 4, d)] from rfl, absorb_ahead hahead, paced]
    simp only [hres, List.filter_nil, List.foldl_nil]
  have room : x.nchunk ≠ 0 := by omega
  rw [chunkArrives]
  simp only [hsrc, howed, hx, hd, toAll, List.contains_nil, Bool.false_eq_true, if_false]
  rw [if_pos (by simp [hs, room, hi]), taken]
  exact finishSession_short (s := setSession s { x with chunks := [(numAt f.payload 4 4, d)] }) rfl hlt

/-! ### The head's push (R582) -/

theorem nakArrives_push {s : State} {f : ChainFrame} {q : Push} (hq : s.hl.push = some q) (hs : q.session = numAt f.payload 0 4) :
    nakArrives f s = sendChain s f.src 0x11 0 0 (chunkPayload q.session q.image (numAt f.payload 4 4)) := by
  rw [nakArrives, hq, hs]
  dsimp only
  rw [if_pos hs]

theorem onPush_session {s : State} {f : ChainFrame} {q : Push} (hq : s.hl.push = some q) (hs : q.session = numAt f.payload 0 4)
    (g : Push → Push) : onPush f g s = withPush s (some (g q)) := by
  rw [onPush, hq]
  exact if_pos hs

/-- The push with a target's outcome entered. -/
def outcomeEntered (q : Push) (a st : Nat) : Push := { q with results := Tbl.put q.results a st, holds := q.holds.filter (· != a) }

theorem resultArrives_enters {s : State} {f : ChainFrame} {q : Push} (hq : s.hl.push = some q) (hs : q.session = numAt f.payload 0 4)
    (hmine : f.src ∈ maskTargets q.targets) (hnew : Tbl.find? q.results f.src = none) :
    resultArrives f s = pushSettle (withPush s (some (outcomeEntered q f.src f.status))) := by
  rw [resultArrives, hq]
  dsimp only
  rw [if_pos hs, pushResult, hq]
  exact if_pos (by simp [hmine, hnew])

/-- A push with a target that has not been heard goes on. -/
theorem pushSettle_waits {s : State} {p : Push} (hp : s.hl.push = some p) {a : Nat} (ha : a ∈ maskTargets p.targets)
    (hnone : Tbl.find? p.results a = none) : pushSettle s = s := by
  rw [pushSettle, hp]
  refine if_neg fun h => ?_
  have heard := List.all_eq_true.mp h a ha
  rw [hnone] at heard
  cases heard

/-- The head with a push ended. -/
def pushEnded (s : State) (ok fail : Nat) : State := withPush (onSec s fun x => { x with pushOk := ok, pushFail := fail }) none

/-- A push to one target ends with its outcome. -/
theorem pushSettle_one {s : State} {p : Push} (hp : s.hl.push = some p) {a st : Nat} (ht : maskTargets p.targets = [a])
    (hr : p.results = [(a, st)]) : ∃ fail, pushSettle s =
      requestDone (pushEnded s (if st = stOK then 2 ^ (a - 1) else 0) fail) (if p.copy then 0x14 else 0x03) st := by
  have found : Tbl.find? [(a, st)] a = some st := if_pos rfl
  have status : pushStatus p = st := by
    rw [pushStatus, ht, hr]
    simp only [List.map_cons, List.map_nil, Tbl.getD, found, Option.getD_some, List.all_cons, List.all_nil, List.headD_cons, Bool.and_true]
    by_cases hok : st = stOK
    · rw [if_pos (by simp [hok]), hok]
    · rw [if_neg (by simp [hok]), if_neg (by simpa using Ne.symm hok)]
  have good : targetMask ([a].filter fun b => Tbl.getD [(a, st)] b stAborted = stOK) = if st = stOK then 2 ^ (a - 1) else 0 := by
    have result : Tbl.getD [(a, st)] a stAborted = st := by rw [Tbl.getD, found]; rfl
    simp only [List.filter_cons, List.filter_nil, result, decide_eq_true_eq]
    by_cases hok : st = stOK
    · rw [if_pos hok, if_pos hok]
      exact Nat.zero_add _
    · rw [if_neg hok, if_neg hok]
      rfl
  refine ⟨p.targets - (if st = stOK then 2 ^ (a - 1) else 0), ?_⟩
  rw [pushSettle, hp]
  simp only [ht, hr, good, status, found, List.all_cons, List.all_nil, Option.isSome_some, Bool.and_true, if_true]
  rfl

/-! ### Requests at their target, and their outcome at the head (R581) -/

/-- PRES_CLOSE, relayed. -/
theorem runAtTarget_presClose {s : State} {f : ChainFrame} (hr : s.hl.restarting = false) (hrom : romOnly s = false)
    (hlen : f.payload.length = 8) : runAtTarget s f [9] = (closePresence s, stOK) := by
  rw [runAtTarget, if_neg (by rw [hlen]; decide), if_neg (by rw [hr]; decide), if_neg (by decide), if_pos (by decide),
    runOwn_eq (by decide) hrom]
  rfl

theorem runAtTarget_copyOrder {s : State} {f : ChainFrame} {w0 w1 : Word} (hr : s.hl.restarting = false)
    (hlen : f.payload.length = 16) (hrop : fieldOf w0 7 0 = 0x14) : runAtTarget s f [w0, w1] = takeCopyOrder s w1 := by
  have rop : ropOf [w0, w1] = 0x14 := hrop
  rw [runAtTarget, if_neg (by rw [hlen]; exact Bool.false_ne_true), if_neg (by rw [hr]; decide), if_pos (by rw [rop]; rfl)]
  rfl

theorem takeCopyOrder_sealed {s : State} (hu : s.hl.sec.unsealed = false) (w : Word) : takeCopyOrder s w =
    if s.hl.sec.presOpen then (setSession s (freshSession 1 0 (fieldOf w 63 32) 0 0 true), stOK) else (s, stPresence) := by
  rw [takeCopyOrder, hu]
  cases s.hl.sec.presOpen with
  | true => rfl
  | false => rfl

theorem secRspArrives_relay {s : State} {f : ChainFrame} {a : ChainReq} (ha : askedOf s f.src f.tag = some a) (hp : a.purpose = .relay) :
    secRspArrives f s = requestDone (dropAsked s f.tag) 0x05 f.status := by
  rw [secRspArrives, ha]
  simp only [hp]

theorem secRspArrives_unasked {s : State} {f : ChainFrame} (h : askedOf s f.src f.tag = none) : secRspArrives f s = s := by
  rw [secRspArrives, h]

/-- Nothing with the TAG of an outcome is awaited any more. -/
theorem askedOf_dropped (s : State) (dst tag rop st : Nat) : askedOf (requestDone (dropAsked s tag) rop st) dst tag = none := by
  rw [askedOf, List.find?_eq_none]
  intro q hq hmatch
  simp only [Bool.and_eq_true, beq_iff_eq] at hmatch
  have kept : q ∈ (dropAsked s tag).hl.chain.reqs := by
    unfold requestDone at hq
    dsimp only at hq
    split at hq
    · exact (List.mem_filter.mp hq).1
    · exact hq
  have other := (List.mem_filter.mp kept).2
  simp [hmatch.1.2] at other

/-- A status that the chain brings ends the transfer that waits. -/
theorem requestDone_ends {s : State} (hw : s.hl.mbx.waits = true) (rop : Nat) {st : Nat} (hst : st < 256) :
    MbxDone (requestDone s rop st).hl.mbx st ∧ (requestDone s rop st).hl.flash = s.hl.flash ∧
    (requestDone s rop st).hl.sec = { s.hl.sec with lastRop := rop, lastStatus := st } ∧
    (requestDone s rop st).hl.push = s.hl.push := by
  rw [requestDone_waits hw]
  exact ⟨mbxEnd_done _ hst, rfl, rfl, rfl⟩

end Sys2Proof.HalordService
end

section
/-! Images and requests travel, settled (O51). -/

namespace Sys2Proof.HalordService

open Sys2Proof.Machine Sys2Proof.Safety Sys2Proof.Organisation Sys2Proof.FaultHandling

/-- A push under way, after more chunks have been sent. -/
theorem frameKeeps_pushSend (s u : State) (k : Nat) (h : FrameKeeps s u) : FrameKeeps s (pushSend k u) := by
  rw [pushSend_only]
  exact h

/-- The programming of a mailbox session's bytes is all that a FLASH_PROGRAM_PROGRESS does. -/
theorem flashProgress_mailbox {s : State} {x : ImgSession} (ha : aonUp s = true) (hr : s.hl.restarting = false)
    (hx : s.hl.session = some x) (hk : x.kind = 0) (h0 : x.session = 0) (hw : s.nd.power.standbyWaits = false) (k : Nat) :
    flashProgress k s = programBytes s x k := by
  have waiting : (programBytes s x k).nd.power.standbyWaits = false := hw
  have paced : pacedTarget (programBytes s x k) (programmedBy x k) = programBytes s x k := if_pos h0
  rw [flashProgress_eq s k (by rw [ha, hr]; rfl) hx hk, progressed, paced,
    finishSession_mailbox (s := programBytes s x k) (x := programmedBy x k) rfl h0, entryAfterWrite, if_neg (by simp [waiting])]

theorem flashProgress_idle {s : State} {x : ImgSession} (h : s.hl.session = none ∨ s.hl.session = some x ∧ x.kind = 1) (k : Nat) :
    flashProgress k s = s := by
  rw [flashProgress]
  split
  · rfl
  · rcases h with h | ⟨h, hk⟩
    · rw [h]
    · rw [h]
      exact if_pos (by rw [hk]; decide)

/-- A relayed PRES_CLOSE at its target. -/
theorem outcomeReturned_presClose (u : State) (f : ChainFrame) (rop st : Nat) :
    (outcomeReturned (closePresence u) f rop st).hl.sec = { u.hl.sec with presOpen := false, lastRop := rop, lastStatus := st } ∧
    (outcomeReturned (closePresence u) f rop st).nd.out.getLast? = some (.chain (ownFrame u f.src 0x17 f.tag st [])) ∧
    (outcomeReturned (closePresence u) f rop st).hl.flash = u.hl.flash ∧
    (outcomeReturned (closePresence u) f rop st).nd.mem = u.nd.mem := by
  obtain ⟨hhl, -, hmem, -⟩ := closePresence_keeps u
  have addr : (closePresence u).nd.chainAddr = u.nd.chainAddr := by
    unfold closePresence logSecurity
    split
    · dsimp only
      split
      · rw [alertIn_nd, raiseAlert_chainAddr]
        rfl
      · rfl
    · rfl
  generalize closePresence u = v at hhl hmem addr
  refine ⟨?_, ?_, ?_, hmem⟩
  · show { v.hl.sec with lastRop := rop, lastStatus := st } = _
    rw [hhl]
  · rw [ownFrame, ← addr]
    exact List.getLast?_concat
  · exact (congrArg Halord.flash hhl :)

end Sys2Proof.HalordService

open Sys2Proof Sys2Proof.Machine Sys2Proof.Safety Sys2Proof.FaultHandling Sys2Proof.HalordService

/-- Settles O51, at the head, at a target and for the frames between them. Four chunks on the ring, and the payload of the copy order, are
the model's choices (log entries 91 and 43). -/
theorem imagesTravel : Obligations.ImagesTravel := by
  intro req frame f x q a s
  have ends {i : Instr} {rop st : Nat} (hup : TakesRequests s) (hi : (i, rop) ∈ requestRows req) (hrop : ropOf req = rop) (h1 : rop ≠ 1)
      (hst : st < 256) (run : runRequest req (requestBegun s req) = (requestBegun s req, some st)) : Runs i s fun t =>
        bitOf t.hl.mbx.stat 0 = false ∧ bitOf t.hl.mbx.stat 1 = true ∧ fieldOf t.hl.mbx.stat 15 8 = st ∧ t.hl.flash = s.hl.flash := by
    obtain ⟨⟨hbusy, hdone, hstatus⟩, hflash⟩ := submitAs_answered hup hst run
    exact runs_row hi hrop (fun h => absurd h h1) ⟨hbusy, hdone, hstatus, hflash⟩
  refine ⟨fun hup hrop hok hh hx h0 hk hlen hne hothers hmask => ?push, fun hup h => ?invalid, fun hup hh => ⟨fun hrop => ?pushElsewhere,
      fun hrop => ?relayElsewhere, fun hrop => ?copyElsewhere⟩,
    fun hup hrop hh h63 h16 hr hok => ⟨fun hreach => ?relayUnreached, fun hreach h0 ho => ?relaySends, fun hreach ho h9 => ?relayOwn⟩,
    fun d hd hup hrop hok hh h0 h16 => ⟨fun hreach => ?copyUnreached, fun hreach ho => ?copySends⟩,
    fun ⟨ha, hr, hd, ht⟩ h31 hsrc hmine hk hn hlen hx => ?begin,
    fun ⟨⟨ha, hr, hd, ht⟩, ho⟩ h31 hsrc howed hx hs hi hnew hk hh hres hc hahead hroom hlt _ => ?chunk,
    fun ⟨⟨ha, hr, hd, ht⟩, ho⟩ hq hs => ?nak, fun ⟨⟨ha, hr, hd, ht⟩, ho⟩ hq hs => ?hold,
    fun ⟨⟨ha, hr, hd, ht⟩, ho⟩ hq hs hh hn => ?goDone, fun ⟨⟨ha, hr, hd, ht⟩, ho⟩ hq hs hh hn => ?goMore,
    fun ⟨⟨ha, hr, hd, ht⟩, ho⟩ hq hs hmine hnew hmore => ?result,
    fun ⟨⟨ha, hr, hd, ht⟩, ho⟩ hq hs hone hnone hw hst => ?lastResult,
    fun ⟨⟨ha, hr, hd, ht⟩, ho⟩ h31 hre hreq hlen => ?secReq, fun w0 w1 ⟨⟨ha, hr, hd, ht⟩, ho⟩ h31 hre hreq hlen hrop hu => ?copyOrder,
    fun ⟨⟨ha, hr, hd, ht⟩, ho⟩ hasked hp hw hst => ?outcome, fun ⟨⟨ha, hr, hd, ht⟩, ho⟩ hasked => ?noOutcome,
    fun k ha hr hx hk h0 hw _ => ?programs, fun k h => ?idle⟩
  case push =>
    have run : runRequest req (requestBegun s req) = _ := (runRequest_push hup hrop).trans
      (runImgPush_almanac (s := requestBegun s req) hok hh hx h0 hk hlen)
    have sent := (submitAs_waits hup (by rw [run])).trans (congrArg Prod.fst run)
    have h16 : fieldOf (wordAt req 1) 15 0 < 2 ^ 16 := Nat.mod_lt _ (by decide)
    obtain ⟨waits, push⟩ := startPush_begun s req x.bytes h16 hmask hothers fun s => stageAlmanac s x
    refine runs_row (rop := 3) (by simp [requestRows]) hrop (fun h => nomatch h) ?_
    rw [sent]
    exact ⟨waits, push⟩
  case invalid =>
    rcases h with ⟨hrop, hbad⟩ | ⟨hrop, hbad⟩
    · rw [if_pos hrop]
      refine ends hup (by simp [requestRows]) hrop (by decide) (by decide) ?_
      rcases hbad with hbad | hx
      · exact runRequest_malformed hup (by rw [hrop]; decide) hbad
      · exact (runRequest_push hup hrop).trans (runImgPush_none hx)
    · rw [if_neg (by rw [hrop]; decide)]
      exact ends hup (by simp [requestRows]) hrop (by decide) (by decide) (runRequest_malformed hup (by rw [hrop]; decide) hbad)
  case pushElsewhere =>
    exact ends hup (by simp [requestRows]) hrop (by decide) (by decide) ((runRequest_push hup hrop).trans (runImgPush_notHead hh))
  case relayElsewhere =>
    exact ends hup (by simp [requestRows]) hrop (by decide) (by decide) ((runRequest_relay hup hrop).trans (runRelay_notHead hh))
  case copyElsewhere =>
    exact ends hup (by simp [requestRows]) hrop (by decide) (by decide) ((runRequest_copy hup hrop).trans (runAlmanacCopy_notHead hh))
  case relayUnreached =>
    exact ends hup (by simp [requestRows]) hrop (by decide) (by decide)
      ((runRequest_relay hup hrop).trans (runRelay_unreached hh h63 h16 hr hok hreach))
  case relaySends =>
    have run : runRequest req (requestBegun s req) = _ := (runRequest_relay hup hrop).trans
      (runRelay_sends (s := requestBegun s req) hh h63 h16 hr hok hreach h0 ho)
    refine runs_row (rop := 5) (by simp [requestRows]) hrop (fun h => nomatch h) ?_
    rw [submitAs_waits hup (by rw [run]), run]
    exact askChain_begun s req _ _ _
  case relayOwn =>
    have ⟨_, _, _, hrom⟩ := hup
    have inner : runOwn (req.drop 1) (requestBegun s req) = (closePresence (requestBegun s req), stOK) := by
      rw [runOwn_eq (s := requestBegun s req) hok hrom, h9]
      rfl
    have run : runRequest req (requestBegun s req) = (closePresence (requestBegun s req), some stOK) := by
      rw [runRequest_relay hup hrop, runRelay_own (s := requestBegun s req) hh h63 h16 hr hok hreach ho, inner]
    obtain ⟨hhl, -⟩ := closePresence_keeps (requestBegun s req)
    refine runs_row (rop := 5) (by simp [requestRows]) hrop (fun h => nomatch h) ?_
    rw [submitAs_ends hup (st := stOK) (by rw [run]), run, hrop]
    obtain ⟨⟨hbusy, hdone, hstatus⟩, hflash, hsec, -⟩ := requestDone_ends (s := closePresence (requestBegun s req)) (by rw [hhl]; rfl) 5
      (st := stOK) (by decide)
    exact ⟨⟨hbusy, hdone, hstatus, hflash.trans (by rw [hhl]; rfl)⟩, hsec.trans (by rw [hhl]; rfl)⟩
  case copyUnreached =>
    exact ends hup (by simp [requestRows]) hrop (by decide) (by decide)
      ((runRequest_copy hup hrop).trans (runAlmanacCopy_unreached hd hok hh h0 h16 hreach))
  case copySends =>
    have run : runRequest req (requestBegun s req) = _ := (runRequest_copy hup hrop).trans
      (runAlmanacCopy_sends (s := requestBegun s req) hd hok hh h0 h16 hreach ho)
    refine runs_row (rop := 20) (by simp [requestRows]) hrop (fun h => nomatch h) ?_
    rw [submitAs_waits hup (by rw [run]), run]
    exact askChain_begun s req _ _ _
  case begin =>
    refine ⟨_, rfl, ?_⟩
    rcases chainReceive_all (use := beginTarget) (bad := id) ha hr hd ht h31 with e | e
    · rw [imgBegin, e, beginTarget_opens (s := frameCounted s) hsrc hmine hk hlen hx]
      exact ⟨⟨rfl, rfl, rfl, rfl⟩, rfl, rfl⟩
    · rw [imgBegin, e, beginTarget_opens (s := putFrame (frameCounted s) frame) hsrc hmine hk hlen hx]
      exact ⟨⟨rfl, rfl, rfl, rfl⟩, rfl, rfl⟩
  case chunk =>
    refine ⟨_, rfl, ?_⟩
    rw [imgChunk, chainReceive_own ha hr hd ht ho,
      chunkArrives_held (s := frameCounted s) h31 hsrc howed hx hs hi hnew hh hres hc hahead hroom hlt]
    exact ⟨⟨rfl, rfl, rfl, rfl⟩, rfl, rfl⟩
  case nak =>
    refine ⟨_, rfl, ?_⟩
    rw [imgNak, chainReceive_own ha hr hd ht ho, nakArrives_push (s := frameCounted s) hq hs]
    exact ⟨⟨rfl, rfl, rfl, rfl⟩, rfl, rfl⟩
  case hold =>
    refine ⟨_, rfl, ?_⟩
    rw [imgHold, chainReceive_own ha hr hd ht ho, onPush_session (s := frameCounted s) hq hs]
    exact ⟨⟨rfl, rfl, rfl, rfl⟩, rfl, rfl⟩
  case goDone =>
    have none : q.holds.filter (· != f.src) = [] := by simp [hh]
    refine ⟨_, rfl, ?_⟩
    rw [imgGo, chainReceive_own ha hr hd ht ho, onPush_session (s := frameCounted s) hq hs, none,
      pushSend_done (s := withPush (frameCounted s) (some { q with holds := [] })) _ rfl hn.ge]
    exact ⟨⟨rfl, rfl, rfl, rfl⟩, rfl, rfl⟩
  case goMore =>
    have none : q.holds.filter (· != f.src) = [] := by simp [hh]
    obtain ⟨push, out⟩ := pushSend_sends pushWindow (s := withPush (frameCounted s) (some { q with holds := [] })) rfl rfl
      (by dsimp only; omega)
    refine ⟨_, rfl, ?_⟩
    rw [imgGo, chainReceive_own ha hr hd ht ho, onPush_session (s := frameCounted s) hq hs, none]
    refine ⟨frameKeeps_pushSend s _ _ ⟨rfl, rfl, rfl, rfl⟩, out.trans ?_, push.trans ?_⟩
    · rw [show min pushWindow (q.nchunk - q.next) = 4 from Nat.min_eq_left (by rw [pushWindow]; omega)]
      rfl
    · rw [show min (q.next + pushWindow) q.nchunk = q.next + 4 from Nat.min_eq_left hn]
  case result =>
    obtain ⟨y, hy, hne, hnone⟩ := hmore
    refine ⟨_, rfl, ?_⟩
    rw [imgResult, chainReceive_own ha hr hd ht ho, resultArrives_enters (s := frameCounted s) hq hs hmine hnew,
      pushSettle_waits (s := withPush (frameCounted s) (some (outcomeEntered q f.src f.status))) (a := y) rfl hy
        ((Tbl.find?_put_other _ _ _ _ hne).trans hnone)]
    exact ⟨⟨rfl, rfl, rfl, rfl⟩, rfl⟩
  case lastResult =>
    have mine : f.src ∈ maskTargets q.targets := by rw [hone]; exact List.mem_singleton_self _
    have entered : (outcomeEntered q f.src f.status).results = [(f.src, f.status)] := by rw [outcomeEntered, hnone]; rfl
    obtain ⟨fail, settled⟩ := pushSettle_one (s := withPush (frameCounted s) (some (outcomeEntered q f.src f.status))) rfl hone entered
    refine ⟨_, rfl, ?_⟩
    rw [imgResult, chainReceive_own ha hr hd ht ho, resultArrives_enters (s := frameCounted s) hq hs mine (by rw [hnone]; rfl), settled]
    obtain ⟨⟨hbusy, hdone, hstatus⟩, hflash, hsec, hpush⟩ := requestDone_ends (s := pushEnded (withPush (frameCounted s)
      (some (outcomeEntered q f.src f.status))) (if f.status = stOK then 2 ^ (f.src - 1) else 0) fail) hw _ hst
    exact ⟨hpush, ⟨hbusy, hdone, hstatus, hflash⟩, by rw [hsec], by rw [hsec]; rfl⟩
  case secReq =>
    have carried : carriedRequest f = [9] := hreq
    refine ⟨_, rfl, ?_⟩
    rw [secReq, chainReceive_own ha hr hd ht ho, if_neg h31, secReqArrives_eq, carried,
      runAtTarget_presClose (s := frameCounted s) hre hr hlen]
    exact outcomeReturned_presClose (frameCounted s) f 9 stOK
  case copyOrder =>
    have carried : carriedRequest f = [w0, w1] := hreq
    refine ⟨_, rfl, ?_⟩
    rw [secReq, chainReceive_own ha hr hd ht ho, if_neg h31, secReqArrives_eq, carried,
      runAtTarget_copyOrder (s := frameCounted s) hre hlen hrop, takeCopyOrder_sealed (s := frameCounted s) hu,
      show (frameCounted s).hl.sec.presOpen = s.hl.sec.presOpen from rfl]
    cases s.hl.sec.presOpen with
    | true => exact ⟨rfl, rfl, rfl⟩
    | false => exact ⟨rfl, rfl, rfl⟩
  case outcome =>
    refine ⟨_, rfl, ?_⟩
    rw [secRsp, chainReceive_own ha hr hd ht ho, secRspArrives_relay (s := frameCounted s) hasked hp]
    obtain ⟨⟨hbusy, hdone, hstatus⟩, hflash, hsec, -⟩ := requestDone_ends (s := dropAsked (frameCounted s) f.tag) hw 5 hst
    exact ⟨⟨hbusy, hdone, hstatus, hflash⟩, by rw [hsec], by rw [hsec], askedOf_dropped _ _ _ _ _⟩
  case noOutcome =>
    refine ⟨_, rfl, ?_⟩
    rw [secRsp, chainReceive_own ha hr hd ht ho, secRspArrives_unasked (s := frameCounted s) hasked]
    exact ⟨⟨rfl, rfl, rfl, rfl⟩, rfl, rfl⟩
  case programs =>
    refine ⟨_, congrArg Host.Outcome.next (flashProgress_mailbox ha hr hx hk h0 hw k), ⟨rfl, rfl, rfl, rfl⟩, rfl, rfl⟩
  case idle => exact ⟨_, rfl, flashProgress_idle h k⟩
end
